-- ==== Sys2Proof/Word.lean ====
section
/-! DEFINITION. Word types of the RS8800 and their plainest arithmetic (R4, R114). -/

namespace Sys2Proof

/-- One byte of any memory. -/
abbrev Byte := BitVec 8
/-- A 32-bit word: a task register, a task instruction, a short operand. -/
abbrev W32 := BitVec 32
/-- A 64-bit word: a system register, a graph instruction, a long operand. -/
abbrev W64 := BitVec 64

/-- The 64-bit word that zero-extends a 32-bit one. -/
abbrev W32.wide (x : W32) : W64 := x.setWidth 64

/-- The low 32 bits of a 64-bit word. -/
abbrev W64.low (x : W64) : W32 := x.setWidth 32

/-- The high 32 bits of a 64-bit word. -/
abbrev W64.high (x : W64) : W32 := (x >>> 32).setWidth 32

/-- `concat(hi, lo)` of R9 for two 32-bit words. -/
abbrev W64.ofWords (hi lo : W32) : W64 := hi ++ lo

end Sys2Proof
end

