-- ==== Sys2Proof/Machine/Flags.lean ====
section
/-! DEFINITION. The five floating-point flags and the trap enables that select among them (R131, R132, R134, R135). -/

namespace Sys2Proof.Machine

/-- The flag word of R134: bit 0 invalid, 1 divide by zero, 2 overflow, 3 underflow, 4 inexact. -/
abbrev FpFlags := BitVec 5

namespace FpFlags

abbrev none : FpFlags := 0#5
abbrev inv : FpFlags := 1#5
abbrev dz  : FpFlags := 2#5
abbrev ovf : FpFlags := 4#5
abbrev unf : FpFlags := 8#5
abbrev inx : FpFlags := 16#5

/-- A flag where a condition holds. -/
def when (c : Bool) (f : FpFlags) : FpFlags := if c then f else none

end FpFlags

/-- The first raised flag whose enable in CTX_TRAPEN is 1, in the order inv, dz, ovf, unf, inx; its fault cause is
0x20 plus the index (R132, R147). -/
def firstTrapped (flags : FpFlags) (trapen : BitVec 8) : Option Nat :=
  [0, 1, 2, 3, 4].find? fun k => flags.getLsbD k && trapen.getLsbD k

/-- The fault that a firing with these flags takes, where the block's policy lets it trap (R132, R147). -/
def flagFault (flags : FpFlags) (trapInh : Bool) (trapen : BitVec 8) : Option Nat :=
  if trapInh then (firstTrapped flags trapen).map (0x20 + ·) else Option.none

end Sys2Proof.Machine
end

