-- ==== Sys2Proof/Syntax.lean ====
section
/-! DEFINITION. The syntax of the RS8800: one constructor of `Instr` for each row of spec/opcode_table.json.
The 152 graph-form rows carry the fields of a 64-bit slot (R62, R63, R66), the 93 task-form rows the fields of a
32-bit task word (R72, R73, R228). The 71 device steps carry nothing: what the world outside such a step supplies
stands in a `Stimulus`, which the machine's state holds beside the step that is due. -/

namespace Sys2Proof

/-- The type codes 0 to 12 of R65. -/
inductive Ty where
  | i32 | n32 | i64 | n64 | f32 | f64 | bf16x2 | f16x2 | e4m3x4 | e5m2x4 | pred | addr | tok
deriving DecidableEq, Repr

/-- The operand names of R63. -/
inductive Operand where
  | a | b | c | p
deriving DecidableEq, Repr

/-- A present target: one operand of one slot of the same block (R63). -/
structure Target where
  operand : Operand
  slot    : BitVec 7
deriving DecidableEq, Repr

/-- The fields of a graph-form slot beside its opcode (R62, R66): `mode` is q<5:3>, `imm` is q<2>, `opt` is q<1:0>. -/
structure GArgs where
  ty   : Ty
  mode : BitVec 3
  imm  : Bool
  opt  : BitVec 2
  tgtA : Option Target
  tgtB : Option Target
  fmt  : BitVec 26
deriving DecidableEq, Repr

/-- A paddock plane: the paddock's number in the model and the plane 0 to 3 (R25). -/
structure PlaneId where
  pad   : Nat
  plane : Nat
deriving DecidableEq, Repr

/-- Who in a plane issued a memory request: a graph node or a task-mode PE, each by its index in the plane. -/
inductive Asker where
  | node (i : Nat)
  | pe (i : Nat)
deriving DecidableEq, Repr

/-- A firmware image as the security engine judges it (R471, R472). -/
structure FwImage where
  sigOk      : Bool := false
  generation : W32 := 0#32
  floor      : W32 := 0#32
  digest     : BitVec 384 := 0#384
deriving DecidableEq, Repr

/-- What the package holds at power-on (R471): both firmware slots, the fused floor, the part record, and whether
configuration and training succeed. -/
structure BootFacts where
  slotA      : FwImage := {}
  slotB      : FwImage := {}
  fusedFloor : W32 := 0#32
  recordOk   : Bool := false
  steppings  : W64 := 0#64
  serial     : W32 := 0#32
  rows       : List (BitVec 6) := [0#6, 0#6, 0#6, 0#6]
  recordHash : BitVec 384 := 0#384
  diesOk     : Bool := false
  trainOk    : Bool := false
  offsets    : List W64 := []
  rates      : List W64 := []
deriving DecidableEq, Repr

/-- What the host link trained to (R385): PCIe generation, width and CXL. -/
structure HostLink where
  pcie : Nat := 0
  lanes : Nat := 0
  cxl  : Bool := false
deriving DecidableEq, Repr

/-- Where the translator puts a node (R139, R181, R242): a PE or the MFE of a compute tile, a router slot, a
memory-tile function, a branch or join of routes inside a router's switch, or nothing. -/
inductive Place where
  | pe (x y k : Nat)
  | mfe (x y : Nat)
  | router (x y k : Nat)
  | memTile (x y : Nat)
  | branch (x y : Nat)
  | none
deriving DecidableEq, Repr

/-- The ports of a router (R177): its four sides, and the local port to the elements of its own tile. -/
inductive Port where
  | north | east | south | west | element
deriving DecidableEq, Repr

/-- An incoming track of a router: the router's tile, the port it comes in by, its number among the port's data tracks or
control tracks (R177, R178). -/
structure Track where
  x : Nat
  y : Nat
  port : Port
  k : Nat
deriving DecidableEq, Repr

/-- The circuit of one channel (R178, R180): the consumer by its number (nodes, then task-mode PEs) and its operand, input
channel or, from 16 on, receiver; the tracks from the producer on; the local track by which it reaches an element. -/
structure Route where
  node : Nat
  op   : Nat
  path : List Track := []
  out  : Option Nat := .none
deriving DecidableEq, Repr

/-- The stream-port attach point that serves a node (R296): its position along the grid edge. -/
structure Attach where
  node  : Nat
  point : Nat := 0
deriving DecidableEq, Repr

/-- The translator's choices for one load (R89, R94): they shape the image and never a result (R48). `factors` holds the physical
factor of each factor record, `extras` the PEs and router slots that lowering takes beside those of the nodes (R110, R181,
R211), `routes` the circuits of the channels, `attach` the attach points of the nodes that use a stream port. -/
structure Plan where
  width  : Nat := 1
  height : Nat := 1
  parity : Bool := false
  bx     : Nat := 0
  bY     : Nat := 0
  edges  : BitVec 4 := 0#4
  pages  : Nat := 0
  cap    : Nat := 2
  places : List Place := []
  near   : List Nat := []
  ports  : List Nat := []
  factors : List Nat := []
  extras : List Place := []
  routes : List Route := []
  attach : List Attach := []
deriving DecidableEq, Repr

/-- Which candidate the dispatcher takes among those that R409 lists. -/
inductive BindTarget where
  | plane (p : PlaneId)
  | fresh (x0 y0 w h : Nat)
  | claim (p : PlaneId)
  | none
deriving DecidableEq, Repr

/-- The dispatcher's choices in one binding (R331, R409): the candidate and the memory-port dies of the servers. -/
structure BindChoice where
  target  : BindTarget := .none
  servers : List Nat := []
deriving DecidableEq, Repr

/-- Where an uncorrectable error strikes plane state (R455): a token in an operand's or a task's channel, counted from its consumer on
through the buffers of its tracks, a task register, an accumulator cell, or other state of a node
or of a task-mode PE. -/
inductive EccSite where
  | queue (node : Nat) (op : Nat) (pos : Nat)
  | channel (pe : Nat) (queue : Nat) (pos : Nat)
  | register (pe : Nat) (r : Nat)
  | cell (node : Nat) (i : Nat)
  | other (node : Nat)
  | taskState (pe : Nat)
deriving DecidableEq, Repr

/-- A Flithe frame as received (R379, R380): whether its FCS and EtherType are right, the header fields, the low eight
header bits, and the flits. -/
structure FlitheFrame where
  good  : Bool := false
  seq   : BitVec 24 := 0#24
  ack   : BitVec 24 := 0#24
  kind  : BitVec 4 := 0#4
  cls   : BitVec 4 := 0#4
  low   : BitVec 8 := 0#8
  flits : List (BitVec 256) := []
deriving DecidableEq, Repr

/-- A host access to device memory over CXL.mem (R364, R385). -/
inductive HostAccess where
  | read (pa : BitVec 40) (len : Nat)
  | write (pa : BitVec 40) (bytes : List Byte)
deriving DecidableEq, Repr

/-- What the world supplies to one device step. Each step's meaning says which fields it reads: the plane, context,
node, PE, port or other number it is about; the bytes or the value the host writes; the frame a port receives; the
verdict of a check whose inputs the spec does not describe; the choice among outcomes that the spec calls not
predictable (R8). -/
structure Stimulus where
  plane   : PlaneId := ⟨0, 0⟩
  index   : Nat := 0
  other   : Nat := 0
  third   : Nat := 0
  context : BitVec 10 := 0#10
  verdict : Bool := false
  value   : W64 := 0#64
  bytes   : List Byte := []
  who     : Asker := .node 0
  boot    : BootFacts := {}
  link    : HostLink := {}
  image   : FwImage := {}
  plan    : Plan := {}
  bind    : BindChoice := {}
  site    : EccSite := .other 0
  frame   : FlitheFrame := {}
  access  : HostAccess := .read 0#40 0
deriving DecidableEq, Repr

/-- One constructor for each row of spec/opcode_table.json: the graph-form rows, the task-form rows (TASK_END
last), the device steps, each in the table's order. -/
inductive Instr where
  | add (g : GArgs)
  | sub (g : GArgs)
  | mul (g : GArgs)
  | mulhi (g : GArgs)
  | mad (g : GArgs)
  | div (g : GArgs)
  | rem (g : GArgs)
  | neg (g : GArgs)
  | abs (g : GArgs)
  | min (g : GArgs)
  | max (g : GArgs)
  | addsat (g : GArgs)
  | subsat (g : GArgs)
  | and (g : GArgs)
  | or (g : GArgs)
  | xor (g : GArgs)
  | andn (g : GArgs)
  | not (g : GArgs)
  | shl (g : GArgs)
  | shr (g : GArgs)
  | sar (g : GArgs)
  | rol (g : GArgs)
  | clz (g : GArgs)
  | ctz (g : GArgs)
  | popc (g : GArgs)
  | brev (g : GArgs)
  | bfx (g : GArgs)
  | bfi (g : GArgs)
  | cmp (g : GArgs)
  | sel (g : GArgs)
  | fadd (g : GArgs)
  | fsub (g : GArgs)
  | fmul (g : GArgs)
  | fma (g : GArgs)
  | fms (g : GArgs)
  | fnma (g : GArgs)
  | fmin (g : GArgs)
  | fmax (g : GArgs)
  | fminm (g : GArgs)
  | fmaxm (g : GArgs)
  | fabs (g : GArgs)
  | fneg (g : GArgs)
  | fcpys (g : GArgs)
  | fcmp (g : GArgs)
  | fclass (g : GArgs)
  | frnd (g : GArgs)
  | fscale (g : GArgs)
  | rcp (g : GArgs)
  | rsq (g : GArgs)
  | sqrt (g : GArgs)
  | fdiv (g : GArgs)
  | exp2 (g : GArgs)
  | log2 (g : GArgs)
  | sinpi (g : GArgs)
  | cospi (g : GArgs)
  | tanh (g : GArgs)
  | sigm (g : GArgs)
  | cvt (g : GArgs)
  | pack (g : GArgs)
  | unpk (g : GArgs)
  | mov (g : GArgs)
  | const (g : GArgs)
  | consth (g : GArgs)
  | sxt (g : GArgs)
  | fmin1 (g : GArgs)
  | ldv (g : GArgs)
  | waitc (g : GArgs)
  | steer (g : GArgs)
  | merge (g : GArgs)
  | carry (g : GArgs)
  | invar (g : GArgs)
  | fork (g : GArgs)
  | sink (g : GArgs)
  | gate (g : GArgs)
  | count (g : GArgs)
  | mark (g : GArgs)
  | mstrip (g : GArgs)
  | mlift (g : GArgs)
  | mtest (g : GArgs)
  | zip (g : GArgs)
  | ord (g : GArgs)
  | join (g : GArgs)
  | bar (g : GArgs)
  | drain (g : GArgs)
  | call (g : GArgs)
  | entry (g : GArgs)
  | exit (g : GArgs)
  | pat (g : GArgs)
  | red (g : GArgs)
  | redx (g : GArgs)
  | scan (g : GArgs)
  | filt (g : GArgs)
  | cmpct (g : GArgs)
  | mxcfg (g : GArgs)
  | mxcfgTile (g : GArgs)
  | mxa (g : GArgs)
  | mxb (g : GArgs)
  | mxsc (g : GArgs)
  | mxop (g : GArgs)
  | accrd (g : GArgs)
  | accclr (g : GArgs)
  | accld (g : GArgs)
  | mxtile (g : GArgs)
  | ld (g : GArgs)
  | st (g : GArgs)
  | ldfe (g : GArgs)
  | stfe (g : GArgs)
  | feclr (g : GArgs)
  | feset (g : GArgs)
  | fetest (g : GArgs)
  | tscfg (g : GArgs)
  | agen (g : GArgs)
  | scat (g : GArgs)
  | lbwin (g : GArgs)
  | aadd (g : GArgs)
  | amin (g : GArgs)
  | amax (g : GArgs)
  | aand (g : GArgs)
  | aor (g : GArgs)
  | axor (g : GArgs)
  | axchg (g : GArgs)
  | acas (g : GArgs)
  | aincb (g : GArgs)
  | afadd (g : GArgs)
  | aminp (g : GArgs)
  | ard (g : GArgs)
  | sld (g : GArgs)
  | sst (g : GArgs)
  | gath (g : GArgs)
  | scatx (g : GArgs)
  | binadd (g : GArgs)
  | binrun (g : GArgs)
  | rangeInit (g : GArgs)
  | rangePull (g : GArgs)
  | pref (g : GArgs)
  | spld (g : GArgs)
  | cpy (g : GArgs)
  | cpym (g : GArgs)
  | kturn (g : GArgs)
  | lstat (g : GArgs)
  | fence (g : GArgs)
  | spawn (g : GArgs)
  | done (g : GArgs)
  | twait (g : GArgs)
  | trap (g : GArgs)
  | traprd (g : GArgs)
  | trapack (g : GArgs)
  | sysrd (g : GArgs)
  | syswr (g : GArgs)
  | rdtime (g : GArgs)
  | tconv (g : GArgs)
  | budrd (g : GArgs)
  | taskAddReg (d : BitVec 4) (a : BitVec 4) (b : BitVec 4) (n : BitVec 1)
  | taskAddImm (d : BitVec 4) (a : BitVec 4) (n : BitVec 1) (i : BitVec 12)
  | taskSubReg (d : BitVec 4) (a : BitVec 4) (b : BitVec 4) (n : BitVec 1)
  | taskSubImm (d : BitVec 4) (a : BitVec 4) (n : BitVec 1) (i : BitVec 12)
  | taskMulReg (d : BitVec 4) (a : BitVec 4) (b : BitVec 4) (n : BitVec 1)
  | taskMulImm (d : BitVec 4) (a : BitVec 4) (n : BitVec 1) (i : BitVec 12)
  | taskMulhiReg (d : BitVec 4) (a : BitVec 4) (b : BitVec 4) (n : BitVec 1)
  | taskMulhiImm (d : BitVec 4) (a : BitVec 4) (n : BitVec 1) (i : BitVec 12)
  | taskMadReg (d : BitVec 4) (a : BitVec 4) (b : BitVec 4) (n : BitVec 1)
  | taskMadImm (d : BitVec 4) (a : BitVec 4) (n : BitVec 1) (i : BitVec 12)
  | taskDivReg (d : BitVec 4) (a : BitVec 4) (b : BitVec 4) (n : BitVec 1)
  | taskDivImm (d : BitVec 4) (a : BitVec 4) (n : BitVec 1) (i : BitVec 12)
  | taskRemReg (d : BitVec 4) (a : BitVec 4) (b : BitVec 4) (n : BitVec 1)
  | taskRemImm (d : BitVec 4) (a : BitVec 4) (n : BitVec 1) (i : BitVec 12)
  | taskNegReg (d : BitVec 4) (a : BitVec 4) (b : BitVec 4) (n : BitVec 1)
  | taskNegImm (d : BitVec 4) (a : BitVec 4) (n : BitVec 1) (i : BitVec 12)
  | taskAbsReg (d : BitVec 4) (a : BitVec 4) (b : BitVec 4) (n : BitVec 1)
  | taskAbsImm (d : BitVec 4) (a : BitVec 4) (n : BitVec 1) (i : BitVec 12)
  | taskMinReg (d : BitVec 4) (a : BitVec 4) (b : BitVec 4) (n : BitVec 1)
  | taskMinImm (d : BitVec 4) (a : BitVec 4) (n : BitVec 1) (i : BitVec 12)
  | taskMaxReg (d : BitVec 4) (a : BitVec 4) (b : BitVec 4) (n : BitVec 1)
  | taskMaxImm (d : BitVec 4) (a : BitVec 4) (n : BitVec 1) (i : BitVec 12)
  | taskAddsatReg (d : BitVec 4) (a : BitVec 4) (b : BitVec 4) (n : BitVec 1)
  | taskAddsatImm (d : BitVec 4) (a : BitVec 4) (n : BitVec 1) (i : BitVec 12)
  | taskSubsatReg (d : BitVec 4) (a : BitVec 4) (b : BitVec 4) (n : BitVec 1)
  | taskSubsatImm (d : BitVec 4) (a : BitVec 4) (n : BitVec 1) (i : BitVec 12)
  | taskAndReg (d : BitVec 4) (a : BitVec 4) (b : BitVec 4) (n : BitVec 1)
  | taskAndImm (d : BitVec 4) (a : BitVec 4) (n : BitVec 1) (i : BitVec 12)
  | taskOrReg (d : BitVec 4) (a : BitVec 4) (b : BitVec 4) (n : BitVec 1)
  | taskOrImm (d : BitVec 4) (a : BitVec 4) (n : BitVec 1) (i : BitVec 12)
  | taskXorReg (d : BitVec 4) (a : BitVec 4) (b : BitVec 4) (n : BitVec 1)
  | taskXorImm (d : BitVec 4) (a : BitVec 4) (n : BitVec 1) (i : BitVec 12)
  | taskAndnReg (d : BitVec 4) (a : BitVec 4) (b : BitVec 4) (n : BitVec 1)
  | taskAndnImm (d : BitVec 4) (a : BitVec 4) (n : BitVec 1) (i : BitVec 12)
  | taskNotReg (d : BitVec 4) (a : BitVec 4) (b : BitVec 4) (n : BitVec 1)
  | taskNotImm (d : BitVec 4) (a : BitVec 4) (n : BitVec 1) (i : BitVec 12)
  | taskShlReg (d : BitVec 4) (a : BitVec 4) (b : BitVec 4) (n : BitVec 1)
  | taskShlImm (d : BitVec 4) (a : BitVec 4) (n : BitVec 1) (i : BitVec 12)
  | taskShrReg (d : BitVec 4) (a : BitVec 4) (b : BitVec 4) (n : BitVec 1)
  | taskShrImm (d : BitVec 4) (a : BitVec 4) (n : BitVec 1) (i : BitVec 12)
  | taskSarReg (d : BitVec 4) (a : BitVec 4) (b : BitVec 4) (n : BitVec 1)
  | taskSarImm (d : BitVec 4) (a : BitVec 4) (n : BitVec 1) (i : BitVec 12)
  | taskRolReg (d : BitVec 4) (a : BitVec 4) (b : BitVec 4) (n : BitVec 1)
  | taskRolImm (d : BitVec 4) (a : BitVec 4) (n : BitVec 1) (i : BitVec 12)
  | taskClzReg (d : BitVec 4) (a : BitVec 4) (b : BitVec 4) (n : BitVec 1)
  | taskClzImm (d : BitVec 4) (a : BitVec 4) (n : BitVec 1) (i : BitVec 12)
  | taskCtzReg (d : BitVec 4) (a : BitVec 4) (b : BitVec 4) (n : BitVec 1)
  | taskCtzImm (d : BitVec 4) (a : BitVec 4) (n : BitVec 1) (i : BitVec 12)
  | taskPopcReg (d : BitVec 4) (a : BitVec 4) (b : BitVec 4) (n : BitVec 1)
  | taskPopcImm (d : BitVec 4) (a : BitVec 4) (n : BitVec 1) (i : BitVec 12)
  | taskBrevReg (d : BitVec 4) (a : BitVec 4) (b : BitVec 4) (n : BitVec 1)
  | taskBrevImm (d : BitVec 4) (a : BitVec 4) (n : BitVec 1) (i : BitVec 12)
  | taskBfxReg (d : BitVec 4) (a : BitVec 4) (b : BitVec 4) (n : BitVec 1)
  | taskBfxImm (d : BitVec 4) (a : BitVec 4) (n : BitVec 1) (i : BitVec 12)
  | taskBfiReg (d : BitVec 4) (a : BitVec 4) (b : BitVec 4) (n : BitVec 1)
  | taskBfiImm (d : BitVec 4) (a : BitVec 4) (n : BitVec 1) (i : BitVec 12)
  | taskCmpReg (d : BitVec 4) (a : BitVec 4) (b : BitVec 4) (n : BitVec 1) (c : BitVec 3)
  | taskCmpImm (d : BitVec 4) (a : BitVec 4) (n : BitVec 1) (c : BitVec 3) (i : BitVec 12)
  | taskSelReg (d : BitVec 4) (a : BitVec 4) (b : BitVec 4) (n : BitVec 1)
  | taskSelImm (d : BitVec 4) (a : BitVec 4) (n : BitVec 1) (i : BitVec 12)
  | taskFaddReg (d : BitVec 4) (a : BitVec 4) (b : BitVec 4) (m : BitVec 3)
  | taskFaddImm (d : BitVec 4) (a : BitVec 4) (m : BitVec 3) (i : BitVec 12)
  | taskFsubReg (d : BitVec 4) (a : BitVec 4) (b : BitVec 4) (m : BitVec 3)
  | taskFsubImm (d : BitVec 4) (a : BitVec 4) (m : BitVec 3) (i : BitVec 12)
  | taskFmulReg (d : BitVec 4) (a : BitVec 4) (b : BitVec 4) (m : BitVec 3)
  | taskFmulImm (d : BitVec 4) (a : BitVec 4) (m : BitVec 3) (i : BitVec 12)
  | taskFmaReg (d : BitVec 4) (a : BitVec 4) (b : BitVec 4) (m : BitVec 3)
  | taskFmaImm (d : BitVec 4) (a : BitVec 4) (m : BitVec 3) (i : BitVec 12)
  | taskFminReg (d : BitVec 4) (a : BitVec 4) (b : BitVec 4)
  | taskFminImm (d : BitVec 4) (a : BitVec 4) (i : BitVec 12)
  | taskFmaxReg (d : BitVec 4) (a : BitVec 4) (b : BitVec 4)
  | taskFmaxImm (d : BitVec 4) (a : BitVec 4) (i : BitVec 12)
  | taskFcmpReg (d : BitVec 4) (a : BitVec 4) (b : BitVec 4) (c : BitVec 3)
  | taskFcmpImm (d : BitVec 4) (a : BitVec 4) (c : BitVec 3) (i : BitVec 12)
  | taskCvt (d : BitVec 4) (a : BitVec 4) (v : BitVec 1) (n : BitVec 1) (m : BitVec 3)
  | taskRecv (d : BitVec 4) (w : BitVec 1)
  | taskPeek (d : BitVec 4)
  | taskSend (k : BitVec 2) (a : BitVec 4) (b : BitVec 4) (w : BitVec 1)
  | taskSendm (k : BitVec 2) (a : BitVec 4)
  | taskLdreq (d : BitVec 4) (a : BitVec 4) (b : BitVec 4) (t : BitVec 1) (j : BitVec 2) (w : BitVec 1) (x : BitVec 1) (z : BitVec 2) (s : BitVec 3)
  | taskStreq (d : BitVec 4) (a : BitVec 4) (b : BitVec 4) (k : BitVec 1) (j : BitVec 2) (w : BitVec 1) (z : BitVec 2) (s : BitVec 3)
  | taskAreq (d : BitVec 4) (a : BitVec 4) (b : BitVec 4) (o : BitVec 3) (r : BitVec 1) (j : BitVec 2) (w : BitVec 1) (x : BitVec 1) (s : BitVec 3)
  | taskBr (i : BitVec 13)
  | taskBrc (a : BitVec 4) (n : BitVec 1) (i : BitVec 13)
  | taskRep (m : BitVec 3) (a : BitVec 4) (c : BitVec 1) (s : BitVec 4) (n : BitVec 8)
  | taskSeti (d : BitVec 4) (v : BitVec 13)
  | taskLui (d : BitVec 4) (u : BitVec 21)
  | taskEmita (k : BitVec 2) (a : BitVec 4) (e : BitVec 1) (p : BitVec 1) (w : BitVec 5)
  | taskEmitb (k : BitVec 2) (a : BitVec 4) (e : BitVec 1) (p : BitVec 1) (w : BitVec 5)
  | taskSplitDec (d : BitVec 4) (a : BitVec 4) (b : BitVec 4)
  | taskSplitEnc (d : BitVec 4) (a : BitVec 4) (b : BitVec 4)
  | taskTrap (a : BitVec 4) (c : BitVec 12)
  | taskEnd
  | powerOn
  | hostLinkUp
  | spdmRequest
  | launchV2
  | launchV1
  | registerWrite
  | tackFlush
  | tlbInvStart
  | tlbInvDone
  | fwActivate
  | fwRecovery
  | fwActivation
  | ctxMakeLive
  | ctxMakeOff
  | ctxClearFailed
  | fpflagsClear
  | binctlWrite
  | saveareaWrite
  | actBudgetWrite
  | dieTimeOffsetWrite
  | dieTimeRateWrite
  | scanDataRead
  | bufferedLaunchEnter
  | taskAgeing
  | bindTask
  | translateLoad
  | configComplete
  | frameBoundary
  | planeLevelAgeing
  | peUrgent
  | firingComplete
  | activationStart
  | homePerform
  | memoryReply
  | roundMarkerArrival
  | tableWalk
  | requestSlotFree
  | copyRun
  | copyTimeout
  | slotReturn
  | mfeTensorStart
  | mfeBoundary
  | planeFreeze
  | trapRecordWrite
  | watchdogExpiry
  | memoryTimeout
  | planeFree
  | abandonedPlaneFree
  | contextTeardownDone
  | saveStart
  | saveCommit
  | planeWordEccError
  | scrubCheck
  | planeReloadDone
  | stateEccError
  | sramEccError
  | edgeTurnPoint
  | turnComplete
  | flitheDataFrame
  | flitheAckFrame
  | flitheResetFrame
  | flitheResendTimeout
  | flitheAckTimer
  | flitheLinkUp
  | flitheResetRepeat
  | hostSnoop
  | hostMemoryAccess
  | clockStepDown
  | clockStepUp
  | thermalShutdown
  | systemCacheCopyUpdate
deriving DecidableEq, Repr

end Sys2Proof
end

