-- ==== Sys2Proof/WellFormed.lean ====
section
/-! DEFINITION. What makes an instruction word legal in its block (R66, R76, R148, R190, R261, R295, R334, R351, R359,
R378, R407, R419, R436, R466 and, for task words, R227 to R240). `Instr.refusal` answers the first failure in the scan
order of R83, fields from the most significant downwards, as a reason code of R82 and the lowest bit of the failing
field; the translator reports it, and `Instr.wellFormed` says there is none. -/

namespace Sys2Proof

/-- The width of a value of a type in bytes (R65, R114); tok is 4 or 8 bytes and counts as 8 here. -/
def Ty.bytes : Ty → Nat
  | .i64 | .n64 | .f64 | .addr | .tok => 8
  | _ => 4

/-- A 64-bit type (R30, R142). -/
def Ty.is64 : Ty → Bool
  | .i64 | .n64 | .f64 | .addr => true
  | _ => false

/-- The signed integer types (R114). -/
def Ty.signed : Ty → Bool
  | .i32 | .i64 => true
  | _ => false

/-- The floating-point types, packed ones among them (R85). -/
def Ty.isFloat : Ty → Bool
  | .f32 | .f64 | .bf16x2 | .f16x2 | .e4m3x4 | .e5m2x4 => true
  | _ => false

/-- The type code of R65. -/
def Ty.code : Ty → Nat
  | .i32 => 0 | .n32 => 1 | .i64 => 2 | .n64 => 3 | .f32 => 4 | .f64 => 5 | .bf16x2 => 6 | .f16x2 => 7
  | .e4m3x4 => 8 | .e5m2x4 => 9 | .pred => 10 | .addr => 11 | .tok => 12

/-- The type of a code of R65, none for the reserved codes 13 to 15. -/
def Ty.ofCode : Nat → Option Ty
  | 0 => some .i32 | 1 => some .n32 | 2 => some .i64 | 3 => some .n64 | 4 => some .f32 | 5 => some .f64
  | 6 => some .bf16x2 | 7 => some .f16x2 | 8 => some .e4m3x4 | 9 => some .e5m2x4 | 10 => some .pred
  | 11 => some .addr | 12 => some .tok | _ => none

/-- What an operand or a target carries: nothing, a 32-bit or a 64-bit value, a value of either width, an ordering
token (R186), or a bus beat (R243). -/
inductive Chan where
  | no | w32 | w64 | any | ord | beat
deriving DecidableEq, Repr

/-- The channel that carries values of a type (R145). -/
def Ty.chan : Ty → Chan
  | .tok => .any
  | t => if t.is64 then .w64 else .w32

/-- The use of q<2> (R66): never set, set when fmt supplies operand b, set when operand b is an address offset, always
set, or set when TCONV names its source die. -/
inductive ImmRule where
  | no | formI | offset | must | die
deriving DecidableEq, Repr

/-- What the opcode map and the instruction's description say of one graph-form word. `fmt` lists the named sub-fields
of the format field as (high bit, low bit, whether the value is legal); bits it does not name must be zero. -/
structure OpInfo where
  since  : Nat := 1
  types  : List Ty
  modes  : List Nat := [0]
  imm    : ImmRule := .no
  opts   : List Nat := [0]
  a      : Chan := .no
  b      : Chan := .no
  c      : Chan := .no
  p      : Chan := .no
  outA   : Chan := .no
  outB   : Chan := .no
  wave   : Bool := false
  spaces : List Nat := []
  fmt    : List (Nat × Nat × Bool) := []
  task   : Bool := true
  handlerOnly : Bool := false
  feature : Option Nat := none

/-- Bits hi down to lo of the format field. -/
def GArgs.bits (g : GArgs) (hi lo : Nat) : Nat := (g.fmt.toNat >>> lo) % 2 ^ (hi - lo + 1)

def Ty.all : List Ty := [.i32, .n32, .i64, .n64, .f32, .f64, .bf16x2, .f16x2, .e4m3x4, .e5m2x4, .pred, .addr, .tok]
def Ty.int4 : List Ty := [.i32, .n32, .i64, .n64]
def Ty.int5 : List Ty := Ty.int4 ++ [.addr]
def Ty.float4 : List Ty := [.f32, .f64, .bf16x2, .f16x2]
def Ty.load : List Ty := [.i32, .n32, .i64, .n64, .f32, .f64, .bf16x2, .f16x2, .e4m3x4, .e5m2x4, .addr, .tok]
def Ty.red : List Ty := [.i32, .n32, .i64, .n64, .f32, .f64]
def Ty.short : List Ty := [.i32, .n32, .f32, .bf16x2, .f16x2, .e4m3x4, .e5m2x4]

/-- The levels a level field may name (R191). -/
def levelOk (l : Nat) : Bool := l == 1 || l == 2 || l == 3 || l == 4 || l == 6 || l == 7

/-- The values of q<1:0> that give a legal access size for a type (R271). -/
def sizeOpts (t : Ty) : List Nat :=
  match t with
  | .i32 | .n32 => [0, 1, 2]
  | .i64 | .n64 => [0, 1, 2, 3]
  | .tok => [2, 3]
  | _ => if t.is64 then [3] else [2]

/-- The bits of an immediate operand b that R67 requires to be zero: (low bit) when there are some. -/
def immReserved (t : Ty) : Option Nat :=
  match t with
  | .bf16x2 | .f16x2 => some 16
  | .e4m3x4 | .e5m2x4 => some 8
  | .pred => some 1
  | _ => none

/-- The narrow destinations of R125. -/
def Ty.narrow : Ty → Bool
  | .bf16x2 | .f16x2 | .e4m3x4 | .e5m2x4 => true
  | _ => false

/-- The kinds of conversion of R166. -/
inductive CvtRule where
  | intInt | intFloat | floatInt | f32f64 | f64f32
  | narrowF32 | narrow16 | narrow8 | narrow8x8 | exactF32 | exact16 | exact8F32
deriving DecidableEq, Repr

/-- The integer types of R166, addr among them. -/
def Ty.isInt : Ty → Bool
  | .i32 | .n32 | .i64 | .n64 | .addr => true
  | _ => false

/-- The rule of R166 for a pair, none where the pair is absent. -/
def cvtRule (src dst : Ty) : Option CvtRule :=
  if src == dst then none
  else if src.isInt && dst.isInt then some .intInt
  else if src.isInt && (dst == .f32 || dst == .f64) then some .intFloat
  else if (src == .f32 || src == .f64) && dst.isInt then some .floatInt
  else match src, dst with
    | .f32, .f64 => some .f32f64
    | .f64, .f32 => some .f64f32
    | .f32, .bf16x2 | .f32, .f16x2 => some .narrowF32
    | .bf16x2, .f16x2 | .f16x2, .bf16x2 => some .narrow16
    | .bf16x2, .e4m3x4 | .bf16x2, .e5m2x4 | .f16x2, .e4m3x4 | .f16x2, .e5m2x4 => some .narrow8
    | .e4m3x4, .e5m2x4 | .e5m2x4, .e4m3x4 => some .narrow8x8
    | .bf16x2, .f32 | .f16x2, .f32 => some .exactF32
    | .e4m3x4, .bf16x2 | .e4m3x4, .f16x2 | .e5m2x4, .bf16x2 | .e5m2x4, .f16x2 => some .exact16
    | .e4m3x4, .f32 | .e5m2x4, .f32 => some .exact8F32
    | _, _ => none

/-- The lane options a conversion rule defines (R166). -/
def CvtRule.opts : CvtRule → List Nat
  | .exactF32 | .exact16 => [0, 1]
  | .exact8F32 => [0, 1, 2, 3]
  | _ => [0]

/-- The source type that a CVT word names in fmt<3:0> (R165). -/
def GArgs.cvtSrc (g : GArgs) : Option Ty := Ty.ofCode (g.bits 3 0)

/-- The conversion rule that a CVT word selects. -/
def GArgs.cvt (g : GArgs) : Option CvtRule := g.cvtSrc.bind fun s => cvtRule s g.ty

/-- The operators of R213: argmin and argmax for REDX only. -/
def redOpOk (op : Nat) (x : Bool) : Bool := op ≤ 6 || (x && (op == 8 || op == 9))

/-- The types that an operator of R213 lists: the bitwise ones list integer types only. -/
def redTypes (op : Nat) : List Ty := if op ≤ 3 || op ≥ 7 then Ty.red else Ty.red.filter fun t => !t.isFloat

/-- The rounding modes a reduction allows: 0 to 4 for floating-point types, 0 for integers (R213). -/
def redModes (t : Ty) : List Nat := if t.isFloat then [0, 1, 2, 3, 4] else [0]

/-- The formats of R244: accumulator type, largest M and N of one element, whether from version 3 only, feature. -/
def mxFormat (f : Nat) : Option (Ty × Nat × Nat × Bool × Option Nat) :=
  match f with
  | 0 | 1 | 2 | 3 => some (.f32, 16, 32, false, none)
  | 4 | 5 | 6 | 7 | 8 => some (.f32, 16, 32, true, some 1)
  | 9 => some (.i32, 16, 32, false, some 1)
  | 10 => some (.f32, 16, 32, false, none)
  | 11 => some (.f64, 8, 16, false, some 0)
  | _ => none

/-- The feature that a format of MXCFG needs (R56, R244). -/
def mxFeature (f : Nat) : Option Nat := (mxFormat f).bind fun x => x.2.2.2.2

/-- An integer element instruction (R150, R153). -/
def OpInfo.int (g : GArgs) (types : List Ty) (n : Nat) (imm : Bool := true) (modes : List Nat := [0]) : OpInfo :=
  let w := g.ty.chan
  { types, modes, imm := if imm then .formI else .no, a := w,
    b := if n ≥ 2 && !g.imm then w else .no, c := if n ≥ 3 then w else .no, outA := w, outB := w }

/-- A floating-point element instruction with rounding modes 0 to 4 (R157). -/
def OpInfo.flt (g : GArgs) (types : List Ty) (n : Nat) (imm : Bool := true) (modes : List Nat := [0, 1, 2, 3, 4]) : OpInfo :=
  OpInfo.int g types n imm modes

/-- A Form P control operator on any type (R191). -/
def OpInfo.ctl (g : GArgs) (fmt : List (Nat × Nat × Bool) := []) : OpInfo :=
  { types := Ty.all, a := g.ty.chan, outA := g.ty.chan, outB := g.ty.chan, fmt }

/-- A Form M memory instruction (R68, R271). -/
def OpInfo.mem (g : GArgs) (types : List Ty) (spaces : List Nat) : OpInfo :=
  { types, imm := .offset, opts := sizeOpts g.ty, a := .w64, b := if g.imm then .w32 else .no,
    outA := g.ty.chan, outB := g.ty.chan, wave := true, spaces }

/-- The types an atomic allows by its row of R287, and what it returns. -/
def OpInfo.atomic (g : GArgs) (types : List Ty) (always : Bool) (rnd : Bool := true) (since : Nat := 1) : OpInfo :=
  let returns := always || g.opt.getLsbD 0
  { since, types, imm := .offset,
    opts := if always then (if rnd then [0, 2] else [0]) else [0, 1, 2, 3],
    a := .w64, b := if g.imm then .w32 else .no, c := g.ty.chan,
    outA := if returns then g.ty.chan else .ord, outB := if returns then g.ty.chan else .no,
    wave := true, spaces := if rnd && g.opt.getLsbD 1 then [0] else [0, 1, 2, 5] }

/-- The memory space of a Form M word (R68). -/
def GArgs.space (g : GArgs) : Nat := g.bits 4 0
/-- The wave numbers of a Form M word (R68). -/
def GArgs.own (g : GArgs) : Nat := g.bits 25 19
def GArgs.pred (g : GArgs) : Nat := g.bits 18 12
def GArgs.succ (g : GArgs) : Nat := g.bits 11 5

/-- What the manual says of a graph-form instruction in a block of version `ver`; none for task words and device steps. -/
def opInfo (ver : Nat) (i : Instr) : Option OpInfo :=
  match i with
  | .add g | .sub g => some (OpInfo.int g Ty.int5 2)
  | .mul g | .mulhi g | .div g | .rem g | .min g | .max g | .addsat g | .subsat g => some (OpInfo.int g Ty.int4 2)
  | .mad g => some (OpInfo.int g Ty.int4 3)
  | .neg g | .abs g => some (OpInfo.int g [.i32, .i64] 1 false)
  | .and g | .or g | .xor g | .andn g => some (OpInfo.int g (Ty.int4 ++ [.pred]) 2)
  | .not g => some (OpInfo.int g (Ty.int4 ++ [.pred]) 1 false)
  | .shl g | .shr g | .rol g | .bfx g => some (OpInfo.int g Ty.int4 2)
  | .sar g => some (OpInfo.int g [.i32, .i64] 2)
  | .clz g | .ctz g | .popc g | .brev g => some (OpInfo.int g Ty.int4 1 false)
  | .bfi g => some (OpInfo.int g Ty.int4 3)
  | .cmp g => some { OpInfo.int g (Ty.int5 ++ [.pred]) 2 true (if g.ty == .pred then [0, 1] else [0, 1, 2, 3, 4, 5]) with
      outA := .w32, outB := .w32 }
  | .sel g => some { OpInfo.int g (if g.imm then Ty.all.filter (· != .tok) else Ty.all) 2 with p := .w32 }
  | .fadd g | .fsub g | .fmul g => some (OpInfo.flt g Ty.float4 2)
  | .fma g | .fms g | .fnma g => some (OpInfo.flt g Ty.float4 3)
  | .fmin g | .fmax g => some (OpInfo.flt g Ty.float4 2 true [0])
  | .fminm g | .fmaxm g => some { OpInfo.flt g Ty.float4 2 true [0] with since := 2 }
  | .fmin1 g => some (OpInfo.flt g Ty.float4 2 true [0])
  | .fabs g | .fneg g => some (OpInfo.flt g Ty.float4 1 false [0])
  | .fcpys g => some (OpInfo.flt g Ty.float4 2 true [0])
  | .fcmp g => some { OpInfo.flt g [.f32, .f64] 2 true [0, 1, 2, 3, 4, 5, 6] with outA := .w32, outB := .w32 }
  | .fclass g => some { OpInfo.flt g [.f32, .f64] 1 false [0] with outA := .w32, outB := .w32 }
  | .frnd g => some { OpInfo.flt g Ty.float4 1 false with opts := [0, 1] }
  | .fscale g => some { OpInfo.flt g [.f32, .f64] 1 false with b := .w32 }
  | .rcp g | .rsq g | .exp2 g | .log2 g | .sinpi g | .cospi g => some (OpInfo.flt g [.f32, .f64] 1 false [0])
  | .sqrt g => some (OpInfo.flt g [.f32, .f64] 1 false)
  | .fdiv g => some (OpInfo.flt g [.f32, .f64] 2)
  | .tanh g | .sigm g => some { OpInfo.flt g [.f32, .bf16x2, .f16x2] 1 false [0] with since := 2 }
  | .cvt g =>
    let src := g.cvtSrc.getD .tok
    let two := g.cvt == some .narrowF32 || g.cvt == some .narrow8
    some { types := if g.cvt.isSome then [g.ty] else []
           modes := [0, 1, 2, 3, 4] ++ (if g.ty.narrow then [5] else [])
           opts := (g.cvt.map CvtRule.opts).getD [0]
           a := src.chan, b := if two then src.chan else .no
           outA := g.ty.chan, outB := g.ty.chan, fmt := [(3, 0, true)] }
  | .pack g =>
    let short := g.ty.narrow
    some { types := [.bf16x2, .f16x2, .e4m3x4, .e5m2x4, .i64, .n64, .f64]
           imm := if short then .formI else .no
           a := .w32, b := if g.imm then .no else .w32, outA := g.ty.chan, outB := g.ty.chan }
  | .unpk g =>
    some { types := [.bf16x2, .f16x2, .e4m3x4, .e5m2x4, .i64, .n64, .f64]
           opts := if g.ty == .e4m3x4 || g.ty == .e5m2x4 then [0, 1, 2, 3] else [0, 1]
           a := g.ty.chan, outA := .w32, outB := .w32 }
  | .mov g => some (OpInfo.int g Ty.all 1 false)
  | .const g =>
    let lim := (immReserved g.ty).getD 26
    some { types := Ty.all.filter (· != .tok), a := .any, outA := g.ty.chan, outB := g.ty.chan, fmt := [(lim - 1, 0, true)] }
  | .consth _ => some { types := Ty.short, a := .w32, outA := .w32, outB := .w32, fmt := [(25, 0, true)] }
  | .sxt g => some (OpInfo.int g [.i32, .i64] 2)
  | .ldv g => some { OpInfo.mem g (Ty.load.filter (· != .tok)) [0, 1, 2, 3] with opts := [0] }
  | .waitc g => some { OpInfo.ctl g [(19, 0, true)] with outA := g.ty.chan }
  | .steer g => some { OpInfo.ctl g with opts := [0, 1, 2, 3], p := .w32 }
  | .merge g => some { OpInfo.ctl g with opts := [0, 1, 2, 3], b := g.ty.chan, p := .w32 }
  | .carry g => some { OpInfo.ctl g with opts := [0, 1], b := g.ty.chan, p := .w32 }
  | .invar g => some { OpInfo.ctl g with opts := [0, 1], p := .w32 }
  | .fork g => some (OpInfo.ctl g [(25, 16, true), (15, 6, true)])
  | .sink g => some { OpInfo.ctl g with outA := .no, outB := .no }
  | .gate g => some { OpInfo.ctl g with p := .ord }
  | .count g => some { OpInfo.ctl g [(18, 16, g.bits 18 16 == 0 || levelOk (g.bits 18 16)), (15, 0, g.bits 15 0 != 0)] with
      types := Ty.int5, opts := [0, 1], b := g.ty.chan }
  | .mark g => some (OpInfo.ctl g [(25, 19, true), (18, 16, levelOk (g.bits 18 16)), (15, 0, true)])
  | .mstrip g => some (OpInfo.ctl g [(2, 0, g.bits 2 0 != 0)])
  | .mlift g => some (OpInfo.ctl g [(5, 3, levelOk (g.bits 5 3) && g.bits 5 3 != g.bits 2 0), (2, 0, levelOk (g.bits 2 0))])
  | .mtest g => some { OpInfo.ctl g [(2, 0, g.bits 2 0 != 0)] with outA := .w32 }
  | .zip g => some { OpInfo.ctl g [(7, 0, true)] with b := g.ty.chan, c := g.ty.chan }
  | .ord g => some { OpInfo.ctl g with opts := [0, 1], outA := .ord, outB := .ord }
  | .join _ => some { types := [.tok], a := .ord, b := .ord, c := .ord, p := .ord, outA := .ord, outB := .ord, fmt := [(15, 0, true)] }
  | .bar g => some { OpInfo.ctl g with opts := [0, 1], b := .w32 }
  | .drain g => some { OpInfo.ctl g with opts := [0, 1], outB := .ord }
  | .call _ => some { types := [.tok], modes := [0, 1, 2, 3, 4, 5, 6, 7], a := .any, b := .any, c := .any,
                      outA := .any, outB := .any, fmt := [(23, 16, true), (15, 0, true)] }
  | .entry g => some { OpInfo.ctl g [(5, 0, true)] with a := .no }
  | .exit g => some { OpInfo.ctl g [(5, 0, true)] with outA := .no, outB := .no }
  | .pat g =>
    let k := g.mode.toNat
    let red := k == 2 || k == 3
    some { types := if red then redTypes (g.bits 19 16) else Ty.all, modes := [1, 2, 3, 4], opts := if k ≥ 3 then [0, 1] else [0]
           a := if red then .any else g.ty.chan, b := .any, c := .any, outA := g.ty.chan
           outB := if k == 4 && !g.opt.getLsbD 0 then .no else if k == 4 then .w32 else .any
           fmt := [(25, 23, if red then decide (g.bits 25 23 ∈ redModes g.ty) else g.bits 25 23 == 0),
                   (22, 20, if k == 1 then g.bits 22 20 == 0 else levelOk (g.bits 22 20)),
                   (19, 16, if red then redOpOk (g.bits 19 16) false else g.bits 19 16 == 0), (15, 0, true)] }
  | .red g => some { OpInfo.ctl g [(6, 4, levelOk (g.bits 6 4)), (3, 0, redOpOk (g.bits 3 0) false)] with
      types := redTypes (g.bits 3 0), modes := redModes g.ty }
  | .redx g => some { OpInfo.ctl g [(9, 7, true), (6, 4, levelOk (g.bits 6 4)), (3, 0, redOpOk (g.bits 3 0) true)] with
      since := 3, types := redTypes (g.bits 3 0), modes := redModes g.ty, outB := if g.bits 3 0 ≥ 8 then .w32 else g.ty.chan }
  | .scan g => some { OpInfo.ctl g [(6, 4, levelOk (g.bits 6 4)), (3, 0, redOpOk (g.bits 3 0) false)] with
      types := redTypes (g.bits 3 0), modes := redModes g.ty, opts := [0, 1] }
  | .filt g => some { OpInfo.ctl g [(2, 0, levelOk (g.bits 2 0))] with
      opts := [0, 1], p := .w32, outB := if g.opt.getLsbD 0 then .w32 else .no }
  | .cmpct g => some { OpInfo.ctl g [(2, 0, levelOk (g.bits 2 0))] with
      since := 2, types := [.pred], outA := .w32, outB := .w32 }
  | .mxcfg g =>
    let f := mxFormat (g.bits 3 0)
    let ok := match f with
      | some (_, _, _, v3, _) => !v3 || decide (3 ≤ ver)
      | none => false
    some { types := match f with | some (t, _, _, _, _) => [t] | none => [.f32, .f64, .i32]
           fmt := [(19, 16, true), (15, 13, true),
                   (12, 8, match f with | some (_, _, n, _, _) => decide (g.bits 12 8 < n) | none => true),
                   (7, 4, match f with | some (_, m, _, _, _) => decide (g.bits 7 4 < m) | none => true), (3, 0, ok)] }
  | .mxcfgTile g =>
    let f := mxFormat (g.bits 3 0)
    let ok := match f with
      | some (_, _, _, v3, _) => !v3 || decide (3 ≤ ver)
      | none => false
    let wide := g.bits 3 0 == 11
    some { types := match f with | some (t, _, _, _, _) => [t] | none => [.f32, .f64, .i32]
           opts := [1]
           fmt := [(19, 11, !wide || decide (g.bits 19 11 < 256)), (10, 4, !wide || decide (g.bits 10 4 < 64)), (3, 0, ok)] }
  | .mxa _ | .mxb _ => some { types := [.tok], a := .beat, outA := .beat }
  | .mxsc _ => some { since := 3, types := [.n32], a := .w32, outA := .w32, feature := some 1 }
  | .mxop _ => some { types := [.f32, .f64, .i32], a := .beat, b := .beat, c := .w32, p := .w32, fmt := [(6, 3, true), (2, 0, true)] }
  | .accrd g => some { types := [.f32, .f64, .i32], a := .w32, outA := g.ty.chan, outB := g.ty.chan, fmt := [(6, 3, true), (2, 0, true)] }
  | .accclr _ => some { types := [.pred], a := .w32, fmt := [(6, 3, true), (2, 0, true)] }
  | .accld g => some { types := [.f32, .f64, .i32], a := g.ty.chan, p := .w32, fmt := [(6, 3, true), (2, 0, true)] }
  | .mxtile g => some { types := Ty.all, a := .beat, b := .beat, c := .w32, p := .w32,
                        outA := g.ty.chan, outB := g.ty.chan, fmt := [(15, 0, true)] }
  | .ld g => some { OpInfo.mem g Ty.load [0, 1, 2, 3, 4, 5] with
      since := 2, modes := [0] ++ (if g.space == 4 then [1] else []) ++ (if g.space == 0 then [2] else []) }
  | .st g => some { OpInfo.mem g Ty.load [0, 1, 2, 3, 4, 5] with
      modes := [0] ++ (if g.space == 0 then [2] else []), c := g.ty.chan, outA := .ord, outB := .no }
  | .ldfe g => some { OpInfo.mem g Ty.load [0] with modes := [0, 1] }
  | .stfe g => some { OpInfo.mem g Ty.load [0] with modes := [0, 1], c := g.ty.chan, outA := .ord, outB := .no }
  | .feclr g | .feset g => some { OpInfo.mem g [.tok] [0] with opts := [0], outA := .ord, outB := .no }
  | .fetest g => some { OpInfo.mem g [.pred] [0] with opts := [0], outA := .w32, outB := .w32 }
  | .tscfg g => some { types := [.tok, .i32, .n32, .f32, .bf16x2, .f16x2, .e4m3x4, .e5m2x4, .i64, .n64, .f64]
                       modes := if g.ty == .tok then [0] else [0, 1, 2, 3, 4, 5, 6, 7]
                       fmt := [(24, 16, g.ty != .tok || decide (g.bits 24 16 < 256)), (15, 0, true)] }
  | .agen g =>
    let m := g.mode.toNat
    some { types := if m == 0 then [.addr] else if m == 1 then Ty.load.filter (· != .tok)
                   else if m ≤ 5 then [.tok] else Ty.load
           modes := [0, 1, 2, 3, 4, 5], imm := .offset, opts := if m ≥ 4 then [0, 2] else [0, 1, 2, 3]
           a := .w64, b := if g.imm then .w32 else .no
           outA := if m ≤ 1 then g.ty.chan else if m ≤ 3 then .beat else .ord
           outB := if m ≤ 1 then g.ty.chan else .no, wave := true, spaces := [0] }
  | .scat g => some { OpInfo.mem g Ty.load [0] with
      modes := [1, 2, 3, 4, 6, 7], imm := .must, b := .w32, c := g.ty.chan, outA := .ord, outB := .no }
  | .lbwin g => some { OpInfo.mem g [.i32, .n32, .f32, .bf16x2, .f16x2, .e4m3x4, .e5m2x4, .i64, .n64, .f64] [0] with
      imm := .no, opts := [0], b := .no, c := g.ty.chan }
  | .aadd g | .amin g | .amax g | .aand g | .aor g | .axor g =>
      some { OpInfo.atomic g Ty.int4 false with opts := if g.space == 0 then [0, 1, 2, 3] else [0, 1], spaces := [0, 1, 2, 5] }
  | .axchg g => some { OpInfo.atomic g Ty.load false with opts := if g.space == 0 then [0, 1, 2, 3] else [0, 1], spaces := [0, 1, 2, 5] }
  | .acas g => some { OpInfo.atomic g Ty.int4 true with
      imm := .no, b := g.ty.chan, opts := if g.space == 0 then [0, 2] else [0], spaces := [0, 1, 2, 5] }
  | .aincb g => some { OpInfo.atomic g Ty.int4 true with since := 3, opts := if g.space == 0 then [0, 2] else [0], spaces := [0, 1, 2, 5] }
  | .afadd g => some { OpInfo.atomic g [.f32, .f64] false with opts := if g.space == 0 then [0, 1, 2, 3] else [0, 1], spaces := [0, 1, 2, 5] }
  | .aminp g => some { OpInfo.atomic g [.n64] false with since := 2, opts := if g.space == 0 then [0, 1, 2, 3] else [0, 1], spaces := [0, 1, 2, 5] }
  | .ard g => some { OpInfo.atomic g Ty.load true false with c := .no }
  | .sld g => some { OpInfo.mem g Ty.load [1, 2, 3, 4, 5] with modes := [0, 2] ++ (if g.space == 4 then [1, 3] else []) }
  | .sst g => some { OpInfo.mem g Ty.load [1, 2, 3, 4, 5] with modes := [0, 2], c := g.ty.chan, outA := .ord, outB := .no }
  | .gath g => some { OpInfo.mem g Ty.load [1, 2, 3, 4, 5] with modes := [1, 2, 3, 4, 6, 7], imm := .must, b := .w32 }
  | .scatx g => some { OpInfo.mem g Ty.load [1, 2, 3, 4, 5] with
      modes := [1, 2, 3, 4, 6, 7], imm := .must, b := .w32, c := g.ty.chan, outA := .ord, outB := .no }
  | .binadd g => some { OpInfo.mem g Ty.red [2] with
      since := 2, modes := if g.ty.isFloat then [0, 1, 2, 6] else [0, 1, 2, 3, 4, 5, 6], opts := [0, 1],
      c := g.ty.chan, outA := .ord, outB := .no, feature := some 5 }
  | .binrun _ => some { since := 2, types := [.tok], opts := [0, 1], a := .w64, outA := .ord, feature := some 5 }
  | .rangeInit g => some { types := Ty.int4, opts := [1], a := .w64, b := g.ty.chan, outA := .ord,
                           fmt := [(21, 6, true), (5, 0, true)] }
  | .rangePull g => some { types := Ty.int4, opts := [0], a := .w64, outA := g.ty.chan, outB := g.ty.chan,
                           fmt := [(21, 6, true), (5, 0, true)] }
  | .pref g => some { OpInfo.mem g [.tok] [2, 3, 4] with opts := [0], outA := .ord, outB := .no }
  | .spld g => some { OpInfo.mem g [.n64] [1, 2, 3, 4, 5] with since := 2, opts := [0], outA := .any, outB := .any, feature := some 7 }
  | .cpy g =>
    let chan := g.opt.getLsbD 0
    some { types := if chan then Ty.all.filter (fun t => t != .tok && t != .pred) else [.tok], opts := [0, 1]
           a := .w64, outA := if chan then g.ty.chan else .ord, outB := if chan then g.ty.chan else .no
           wave := true, spaces := [0, 1, 2, 3, 4, 5] }
  | .cpym _ => some { since := 3, types := [.tok], modes := [0, 1, 2, 3, 4, 5, 6, 7], a := .w64, p := .ord, outA := .ord
                      wave := true, spaces := [0, 1, 2, 3, 4, 5] }
  | .kturn g =>
    let grp := g.bits 9 7
    let sh := g.bits 6 0
    some { since := 2, types := [.tok], a := .any, outA := .ord, feature := some 6
           fmt := [(9, 7, decide (grp ≤ 5)), (6, 0, if grp ≤ 3 then decide (8 ≤ sh ∧ sh ≤ 72) else decide (1 ≤ sh ∧ sh ≤ 3))] }
  | .lstat g => some { since := 2, types := [.n64], a := .any, outA := .w64, outB := .w64
                       fmt := [(16, 10, true), (9, 7, decide (g.bits 9 7 ≤ 5))] }
  | .fence _ => some { types := [.tok], modes := [0, 1, 2, 3], a := .any, outA := .ord, wave := true, spaces := [0] }
  | .spawn g =>
    let ret := g.opt.getLsbD 0
    some { types := if ret then Ty.all else [.tok], opts := [0, 1, 2, 3], a := .w64, outA := .w64
           outB := if ret then g.ty.chan else .no
           fmt := [(10, 8, !g.opt.getLsbD 1 || g.bits 10 8 == 0), (7, 0, true)] }
  | .done _ => some { types := Ty.all, a := .any }
  | .twait _ => some { types := [.n64], a := .w64, outA := .ord }
  | .trap g => some { types := Ty.all, opts := [0, 1], a := g.ty.chan, p := if g.opt.getLsbD 0 then .w32 else .no
                      outA := g.ty.chan, outB := g.ty.chan, fmt := [(11, 0, true)] }
  | .traprd g => some { types := [.n64], opts := [0, 1], a := .any, outA := .w64, outB := .w64, handlerOnly := true
                        fmt := [(3, 0, !g.opt.getLsbD 0 || g.bits 3 0 == 0)] }
  | .trapack _ => some { types := [.tok], opts := [0, 1, 2], a := .any, outA := .ord, handlerOnly := true }
  | .sysrd _ => some { types := [.n64], a := .any, outA := .w64, outB := .w64, fmt := [(15, 0, true)] }
  | .syswr _ => some { types := [.n64], a := .w64, outA := .ord, fmt := [(15, 0, true)] }
  | .rdtime _ => some { types := [.n64], opts := [0, 1], a := .any, outA := .w64, outB := .w32 }
  | .tconv g =>
    let die (d : Nat) : Bool := decide (d ≤ 8) || d == 15
    some { since := 3, types := [.n64], imm := .die, a := .w64, b := if g.imm then .no else .w32, outA := .w64, outB := .w64
           fmt := [(7, 4, if g.imm then die (g.bits 7 4) else g.bits 7 4 == 0), (3, 0, die (g.bits 3 0))] }
  | .budrd _ => some { since := 3, types := [.n64], a := .any, outA := .w64, outB := .w64, fmt := [(6, 0, true)] }
  | _ => none

/-- What the translator knows of a block when it checks a word (R61, R69, R71, R76, R107). -/
structure BlockEnv where
  version   : Nat
  kind      : Nat
  slots     : Nat
  entries   : Nat
  exits     : Nat
  waveFirst : Nat
  waveLast  : Nat
  features  : Nat
deriving DecidableEq, Repr

/-- A required feature is declared by the graph and enabled by the driver (R56). -/
def BlockEnv.has (env : BlockEnv) (f : Nat) : Bool := (env.features >>> f) % 2 == 1

/-- A failed check: the reason code of R82 and the lowest bit of the failing field. -/
abbrev Failure := Nat × Nat

/-- The first check of a list that fails. -/
def firstFailure : List (Bool × Failure) → Option Failure
  | [] => none
  | (ok, f) :: rest => if ok then firstFailure rest else some f

/-- A target field (R63): absent where the instruction allows none, and inside the block (R82 reasons 0x09, 0x06). -/
def targetChecks (env : BlockEnv) (t : Option Target) (out : Chan) (lo : Nat) : List (Bool × Failure) :=
  match t with
  | none => []
  | some t => [(decide (t.slot.toNat < env.slots), (0x09, lo)), (out != .no, (0x06, lo))]

/-- The bits of fmt that some named sub-field covers. -/
def namedBits : List (Nat × Nat × Bool) → Nat
  | [] => 0
  | (hi, lo, _) :: rest => ((2 ^ (hi - lo + 1) - 1) <<< lo) ||| namedBits rest

/-- A FORK target held in fmt: the ten bits of R63 (R70). -/
def forkTarget (bits : Nat) : Option (Option Target) :=
  if bits % 1024 < 512 then (if bits % 512 = 0 then some none else none)
  else some (some ⟨match (bits >>> 7) % 4 with | 0 => .a | 1 => .b | 2 => .c | _ => .p, BitVec.ofNat 7 bits⟩)

/-- The lowest bit of the run of reserved bits that a reserved bit belongs to. -/
def runStart (named : Nat) : Nat → Nat
  | 0 => 0
  | k + 1 => if named.testBit k then k + 1 else runStart named k

/-- The lowest bit of the highest reserved field of fmt that is nonzero, where there is one. -/
def reservedBit (fmt named : Nat) : Option Nat :=
  ((List.range 26).reverse.find? fun k => fmt.testBit k && !named.testBit k).map (runStart named)

/-- The checks of the fields of a graph-form word, from the most significant field downwards (R83). -/
def graphChecks (env : BlockEnv) (i : Instr) (g : GArgs) (o : OpInfo) : List (Bool × Failure) :=
  let wide (t : Ty) := t == .i64 || t == .n64 || t == .f64
  let named := namedBits o.fmt
  let formI := g.imm && o.imm == .formI
  let needs64 : Bool := match i with
    | .mov _ | .sel _ | .pack _ | .unpk _ => false
    | .add _ | .sub _ | .mul _ | .mulhi _ | .mad _ | .div _ | .rem _ | .neg _ | .abs _ | .min _ | .max _ | .addsat _
    | .subsat _ | .and _ | .or _ | .xor _ | .andn _ | .not _ | .shl _ | .shr _ | .sar _ | .rol _ | .clz _ | .ctz _
    | .popc _ | .brev _ | .bfx _ | .bfi _ | .cmp _ | .fadd _ | .fsub _ | .fmul _ | .fma _ | .fms _ | .fnma _ | .fmin _
    | .fmax _ | .fminm _ | .fmaxm _ | .fabs _ | .fneg _ | .fcpys _ | .fcmp _ | .fclass _ | .frnd _ | .fscale _ | .rcp _
    | .rsq _ | .sqrt _ | .fdiv _ | .exp2 _ | .log2 _ | .sinpi _ | .cospi _ | .tanh _ | .sigm _ | .const _ | .sxt _
    | .fmin1 _ | .ldv _ | .waitc _ | .red _ | .redx _ | .scan _ | .cvt _ | .pat _ => wide g.ty
    | _ => false
  [(decide (o.since ≤ env.version), (0x05, 56)),
   (!o.handlerOnly || env.kind == 2, (0x0D, 56)),
   (match o.feature with | some f => env.has f | none => true, (0x0E, 56)),
   (decide (g.ty ∈ o.types), (0x07, 52)),
   (!needs64 || env.has 0, (0x0E, 52)),
   (decide (g.mode.toNat ∈ o.modes), (0x08, 46)),
   (match o.imm with
     | .no => !g.imm
     | .must => g.imm
     | .formI => !(g.imm && g.ty == .tok)
     | _ => true, (0x08, 46)),
   (decide (g.opt.toNat ∈ o.opts), (0x08, 46)),
   ((match i with | .cvt _ => g.mode != 5#3 || env.has 2 | _ => true), (0x0E, 46))]
  ++ targetChecks env g.tgtA o.outA 36 ++ targetChecks env g.tgtB o.outB 26
  ++ (if formI then
        [(match immReserved g.ty with | some lo => g.bits 25 lo == 0 | none => true, (0x06, (immReserved g.ty).getD 0))]
      else if o.wave then
        [(decide (env.waveFirst ≤ g.own ∧ g.own ≤ env.waveLast), (0x0C, 19)),
         (decide (g.pred = 127 ∨ g.pred < g.own), (0x0C, 12)),
         (decide (g.succ = 127 ∨ g.own < g.succ), (0x0C, 5)),
         (decide (g.space ∈ o.spaces), (0x06, 0)),
         (g.space != 4 || env.has 4, (0x0E, 0)), (g.space != 5 || env.has 3, (0x0E, 0))]
      else
        [((reservedBit g.fmt.toNat named).isNone, (0x06, (reservedBit g.fmt.toNat named).getD 0))]
        ++ o.fmt.map (fun (_, lo, ok) => (ok, (0x06, lo)))
        ++ (match i with
            | .cvt _ => [(!(g.cvtSrc.map wide).getD false || env.has 0, (0x0E, 0))]
            | .mxcfg _ | .mxcfgTile _ => [(match mxFeature (g.bits 3 0) with | some f => env.has f | none => true, (0x0E, 0))]
            | .entry _ => [(decide (g.bits 5 0 < env.entries), (0x03, 0))]
            | .exit _ => [(decide (g.bits 5 0 < env.exits), (0x03, 0))]
            | .fork _ =>
              (match forkTarget (g.bits 25 16) with
                | none => [(false, (0x06, 16))]
                | some t => targetChecks env t .any 16)
              ++ (match forkTarget (g.bits 15 6) with
                | none => [(false, (0x06, 6))]
                | some t => targetChecks env t .any 6)
            | _ => []))

/-- The fields of a graph-form instruction. -/
def Instr.gargs : Instr → Option GArgs
  | .add g | .sub g | .mul g | .mulhi g | .mad g | .div g | .rem g | .neg g | .abs g | .min g | .max g | .addsat g
  | .subsat g | .and g | .or g | .xor g | .andn g | .not g | .shl g | .shr g | .sar g | .rol g | .clz g | .ctz g
  | .popc g | .brev g | .bfx g | .bfi g | .cmp g | .sel g | .fadd g | .fsub g | .fmul g | .fma g | .fms g | .fnma g
  | .fmin g | .fmax g | .fminm g | .fmaxm g | .fabs g | .fneg g | .fcpys g | .fcmp g | .fclass g | .frnd g
  | .fscale g | .rcp g | .rsq g | .sqrt g | .fdiv g | .exp2 g | .log2 g | .sinpi g | .cospi g | .tanh g | .sigm g
  | .cvt g | .pack g | .unpk g | .mov g | .const g | .consth g | .sxt g | .fmin1 g | .ldv g | .waitc g | .steer g
  | .merge g | .carry g | .invar g | .fork g | .sink g | .gate g | .count g | .mark g | .mstrip g | .mlift g
  | .mtest g | .zip g | .ord g | .join g | .bar g | .drain g | .call g | .entry g | .exit g | .pat g | .red g
  | .redx g | .scan g | .filt g | .cmpct g | .mxcfg g | .mxcfgTile g | .mxa g | .mxb g | .mxsc g | .mxop g
  | .accrd g | .accclr g | .accld g | .mxtile g | .ld g | .st g | .ldfe g | .stfe g | .feclr g | .feset g
  | .fetest g | .tscfg g | .agen g | .scat g | .lbwin g | .aadd g | .amin g | .amax g | .aand g | .aor g | .axor g
  | .axchg g | .acas g | .aincb g | .afadd g | .aminp g | .ard g | .sld g | .sst g | .gath g | .scatx g | .binadd g
  | .binrun g | .rangeInit g | .rangePull g | .pref g | .spld g | .cpy g | .cpym g | .kturn g | .lstat g | .fence g
  | .spawn g | .done g | .twait g | .trap g | .traprd g | .trapack g | .sysrd g | .syswr g | .rdtime g | .tconv g
  | .budrd g => some g
  | _ => none

/-- The checks of the fields of a task-form word (R228 to R241, R148 for the shared operations). -/
def taskChecks (env : BlockEnv) (i : Instr) : List (Bool × Failure) :=
  let modeOk (m : BitVec 3) (lim : Nat) (lo : Nat) : Bool × Failure := (decide (m.toNat ≤ lim), (0x08, lo))
  let wide (w : BitVec 1) (s : BitVec 3) (b : BitVec 4) : List (Bool × Failure) :=
    [(w == 1#1 || b == 0#4, (0x06, 13)), (w == 1#1 || decide (s.toNat < 2), (0x06, 6))]
  let spaceOk (l : List Nat) (s : BitVec 3) : List (Bool × Failure) :=
    [(decide (s.toNat ∈ l), (0x06, 0)), (s != 4#3 || env.has 4, (0x0E, 0)), (s != 5#3 || env.has 3, (0x0E, 0))]
  match i with
  | .taskNegReg _ _ _ n | .taskAbsReg _ _ _ n | .taskSarReg _ _ _ n => [(n == 0#1, (0x07, 3))]
  | .taskNegImm _ _ n _ | .taskAbsImm _ _ n _ | .taskSarImm _ _ n _ => [(n == 0#1, (0x07, 16))]
  | .taskCmpReg _ _ _ _ c => [modeOk c 5 0]
  | .taskCmpImm _ _ _ c _ => [modeOk c 5 13]
  | .taskFaddReg _ _ _ m | .taskFsubReg _ _ _ m | .taskFmulReg _ _ _ m | .taskFmaReg _ _ _ m => [modeOk m 4 0]
  | .taskFaddImm _ _ m _ | .taskFsubImm _ _ m _ | .taskFmulImm _ _ m _ | .taskFmaImm _ _ m _ => [modeOk m 4 13]
  | .taskFcmpReg _ _ _ c => [modeOk c 6 0]
  | .taskFcmpImm _ _ c _ => [modeOk c 6 13]
  | .taskCvt _ _ _ _ m => [modeOk m 4 0]
  | .taskSend _ _ b w => [(w == 1#1 || b == 0#4, (0x06, 13))]
  | .taskLdreq d _ b t _ w x z s =>
      [(t == 1#1 || d == 0#4, (0x06, 21))] ++ wide w s b ++
      [(!(t == 1#1 && z == 3#2), (0x08, 9)), (x == 0#1 || decide (z.toNat < 2), (0x06, 5))] ++ spaceOk [0, 1, 2, 3, 4, 5] s
  | .taskStreq d _ b k j w z s =>
      [(!(z == 3#2 && d.getLsbD 0), (0x0D, 21))] ++ wide w s b ++ [(k == 1#1 || j == 0#2, (0x06, 7))] ++ spaceOk [0, 1, 2, 3, 4, 5] s
  | .taskAreq _ _ b o r j w x s =>
      wide w s b ++ [(r == 1#1 || j == 0#2, (0x06, 7)), (!(o == 7#3 && x == 1#1), (0x08, 5)),
        (x == 0#1 || o == 1#3 || o == 2#3 || o == 7#3, (0x06, 5))] ++ spaceOk [0, 1, 2, 5] s
  | .taskEmita _ _ _ _ w => [(decide (2 ≤ env.version), (0x05, 25)), (env.has 7, (0x0E, 25)), (decide (w.toNat < 16), (0x06, 0))]
  | .taskEmitb _ _ _ _ _ => [(decide (2 ≤ env.version), (0x05, 25)), (env.has 7, (0x0E, 25))]
  | .taskSplitDec d _ _ => [(decide (2 ≤ env.version), (0x05, 25)), (env.has 7, (0x0E, 25)), (decide (d.toNat ≤ 12), (0x0D, 21))]
  | .taskSplitEnc d a _ => [(decide (2 ≤ env.version), (0x05, 25)), (env.has 7, (0x0E, 25)),
                            (decide (d.toNat ≤ 14), (0x0D, 21)), (decide (a.toNat ≤ 12), (0x0D, 17))]
  | _ => []

/-- The first failure of one instruction word in its block, in the scan order of R83; none when the word is legal. -/
def Instr.refusal (env : BlockEnv) (i : Instr) : Option Failure :=
  match opInfo env.version i, i.gargs with
  | some o, some g => firstFailure (graphChecks env i g o)
  | _, _ => firstFailure (taskChecks env i)

/-- An instruction that the translator accepts in the block. -/
def Instr.wellFormed (env : BlockEnv) (i : Instr) : Bool := (i.refusal env).isNone

end Sys2Proof
end

