-- ==== Sys2Proof/Machine/Operands.lean ====
section
/-! DEFINITION. How operands are read and results are narrowed: integer values of a type (R114, R151), immediates
(R67, R73), lanes of packed types (R118), and the access size of a memory instruction (R271). -/

namespace Sys2Proof.Machine

/-- The width of a type's values in bits (R114). -/
def tyWidth (t : Ty) : Nat := if t.is64 then 64 else 32

/-- wrap(y) of R151: y modulo 2^w as bits, zero-extended to a token's 64 bits. -/
def tyWrap (t : Ty) (y : Int) : W64 := BitVec.ofNat 64 (y % (2 ^ tyWidth t : Nat)).toNat

/-- val(x) of R151: signed for i32 and i64, unsigned otherwise. -/
def tyVal (t : Ty) (x : W64) : Int :=
  let n := x.toNat % 2 ^ tyWidth t
  if t.signed && n ≥ 2 ^ (tyWidth t - 1) then (n : Int) - (2 ^ tyWidth t : Nat) else n

/-- The unsigned reading of a value of a type. -/
def tyNat (t : Ty) (x : W64) : Nat := x.toNat % 2 ^ tyWidth t

/-- The limits of an integer type (R114). -/
def tyLo (t : Ty) : Int := if t.signed then -(2 ^ (tyWidth t - 1) : Nat) else 0
def tyHi (t : Ty) : Int := if t.signed then (2 ^ (tyWidth t - 1) : Nat) - 1 else (2 ^ tyWidth t : Nat) - 1

/-- Operand b taken from the format field, extended by the type (R67). -/
def immValue (t : Ty) (fmt : BitVec 26) : W64 :=
  match t with
  | .i32 => (fmt.signExtend 32).setWidth 64
  | .i64 => fmt.signExtend 64
  | .f32 => (fmt ++ 0#6 : BitVec 32).setWidth 64
  | .f64 => fmt ++ 0#38
  | .bf16x2 | .f16x2 => (fmt.extractLsb' 0 16 ++ fmt.extractLsb' 0 16 : BitVec 32).setWidth 64
  | .e4m3x4 | .e5m2x4 =>
    (fmt.extractLsb' 0 8 ++ fmt.extractLsb' 0 8 ++ fmt.extractLsb' 0 8 ++ fmt.extractLsb' 0 8 : BitVec 32).setWidth 64
  | .pred => (fmt.extractLsb' 0 1).setWidth 64
  | .n32 | .n64 | .addr | .tok => fmt.setWidth 64

/-- The 12-bit immediate of a task word, sign-extended to 32 bits (R73). -/
def taskImm (i : BitVec 12) : W64 := (i.signExtend 32).setWidth 64

/-- The number of lanes of a type and the width of each (R118). -/
def laneCount : Ty → Nat
  | .bf16x2 | .f16x2 => 2
  | .e4m3x4 | .e5m2x4 => 4
  | _ => 1
def laneWidth (t : Ty) : Nat := tyWidth t / laneCount t

/-- Lane k of a value, as a number. -/
def lane (t : Ty) (x : W64) (k : Nat) : Nat := (x.toNat >>> (laneWidth t * k)) % 2 ^ laneWidth t

/-- The value whose lanes are the given numbers, lane 0 first. -/
def packLanes (width : Nat) : List Nat → Nat
  | [] => 0
  | v :: rest => v % 2 ^ width + packLanes width rest * 2 ^ width

/-- A lane-wise operation: each lane's result and the OR of the lanes' flags (R118). -/
def perLane (t : Ty) (f : Nat → Nat × FpFlags) : W64 × FpFlags :=
  let rs := (List.range (laneCount t)).map f
  (BitVec.ofNat 64 (packLanes (laneWidth t) (rs.map (·.1))), rs.foldl (fun acc r => acc ||| r.2) FpFlags.none)

/-- Bytes moved by an access whose q<1:0> is `opt` (R271). -/
def accessBytes (opt : BitVec 2) : Nat := 2 ^ opt.toNat

end Sys2Proof.Machine
end

