-- ==== Sys2Proof/Machine/Integer.lean ====
section
/-! DEFINITION. The integer, bit, compare, select and lane effects of R151, R153 to R156 and R168 to R173, as functions
of a type and operand values; graph-form and task-form instructions share them (R149). -/

namespace Sys2Proof.Machine

/-! ## Integer arithmetic (R151) -/

def intAdd (t : Ty) (a b : W64) : W64 := tyWrap t (tyVal t a + tyVal t b)
def intSub (t : Ty) (a b : W64) : W64 := tyWrap t (tyVal t a - tyVal t b)
def intMul (t : Ty) (a b : W64) : W64 := tyWrap t (tyVal t a * tyVal t b)
def intMulhi (t : Ty) (a b : W64) : W64 := tyWrap t (Int.fdiv (tyVal t a * tyVal t b) (2 ^ tyWidth t : Nat))
def intMad (t : Ty) (a b c : W64) : W64 := tyWrap t (tyVal t a * tyVal t b + tyVal t c)
/-- The zero divisor gives all ones (R115). -/
def intDiv (t : Ty) (a b : W64) : W64 :=
  if tyVal t b = 0 then tyWrap t (-1) else tyWrap t (Int.tdiv (tyVal t a) (tyVal t b))
/-- The zero divisor gives the dividend (R115). -/
def intRem (t : Ty) (a b : W64) : W64 :=
  if tyVal t b = 0 then tyWrap t (tyVal t a)
  else tyWrap t (tyVal t a - tyVal t b * Int.tdiv (tyVal t a) (tyVal t b))
def intNeg (t : Ty) (a : W64) : W64 := tyWrap t (-(tyVal t a))
def intAbs (t : Ty) (a : W64) : W64 := tyWrap t (tyVal t a).natAbs
def intMin (t : Ty) (a b : W64) : W64 := if tyVal t a ≤ tyVal t b then tyWrap t (tyVal t a) else tyWrap t (tyVal t b)
def intMax (t : Ty) (a b : W64) : W64 := if tyVal t a ≥ tyVal t b then tyWrap t (tyVal t a) else tyWrap t (tyVal t b)
/-- Clamping to the range of the type. -/
def tyClamp (t : Ty) (y : Int) : W64 := tyWrap t (min (max y (tyLo t)) (tyHi t))
def intAddsat (t : Ty) (a b : W64) : W64 := tyClamp t (tyVal t a + tyVal t b)
def intSubsat (t : Ty) (a b : W64) : W64 := tyClamp t (tyVal t a - tyVal t b)

/-! ## Bit operations (R153, R154) -/

/-- A bitwise result in its type: on pred only bit 0 stands (R153). -/
def tyBits (t : Ty) (x : W64) : W64 := if t = .pred then x &&& 1#64 else tyWrap t x.toNat

def bitAnd (t : Ty) (a b : W64) : W64 := tyBits t (a &&& b)
def bitOr (t : Ty) (a b : W64) : W64 := tyBits t (a ||| b)
def bitXor (t : Ty) (a b : W64) : W64 := tyBits t (a ^^^ b)
def bitAndn (t : Ty) (a b : W64) : W64 := tyBits t (a &&& ~~~b)
def bitNot (t : Ty) (a : W64) : W64 := tyBits t (~~~a)

/-- The count n of a shift or rotate: b<4:0> or b<5:0> (R154). -/
def shiftCount (t : Ty) (b : W64) : Nat := b.toNat % tyWidth t

def bitShl (t : Ty) (a b : W64) : W64 := tyWrap t (tyNat t a * 2 ^ shiftCount t b : Nat)
def bitShr (t : Ty) (a b : W64) : W64 := tyWrap t (tyNat t a / 2 ^ shiftCount t b : Nat)
def bitSar (t : Ty) (a b : W64) : W64 := tyWrap t (Int.fdiv (tyVal t a) (2 ^ shiftCount t b : Nat))
def bitRol (t : Ty) (a b : W64) : W64 :=
  let n := shiftCount t b
  tyWrap t (tyNat t a * 2 ^ n : Nat) ||| tyWrap t (tyNat t a / 2 ^ (tyWidth t - n) : Nat)

/-- The number of leading zeros of an n-bit number. -/
def leadingZeros : Nat → Nat → Nat
  | 0, _ => 0
  | n + 1, x => if x.testBit n then 0 else 1 + leadingZeros n x
/-- The number of trailing zeros among n bits. -/
def trailingZeros : Nat → Nat → Nat
  | 0, _ => 0
  | n + 1, x => if x.testBit 0 then 0 else 1 + trailingZeros n (x / 2)
/-- The number of ones among n bits. -/
def onesCount : Nat → Nat → Nat
  | 0, _ => 0
  | n + 1, x => x % 2 + onesCount n (x / 2)
/-- The n bits of a number in reversed order. -/
def reverseBits : Nat → Nat → Nat
  | 0, _ => 0
  | n + 1, x => (x % 2) * 2 ^ n + reverseBits n (x / 2)

def bitClz (t : Ty) (a : W64) : W64 := BitVec.ofNat 64 (leadingZeros (tyWidth t) (tyNat t a))
def bitCtz (t : Ty) (a : W64) : W64 := BitVec.ofNat 64 (trailingZeros (tyWidth t) (tyNat t a))
def bitPopc (t : Ty) (a : W64) : W64 := BitVec.ofNat 64 (onesCount (tyWidth t) (tyNat t a))
def bitBrev (t : Ty) (a : W64) : W64 := BitVec.ofNat 64 (reverseBits (tyWidth t) (tyNat t a))

/-- pos and len of the field descriptor of BFX and BFI (R154). -/
def fieldPos (b : W64) : Nat := b.toNat % 64
def fieldLen (b : W64) : Nat := b.toNat / 64 % 64 + 1

/-- bit(x, k) of R154. -/
def fieldBit (t : Ty) (x k : Nat) : Bool :=
  if k < tyWidth t then x.testBit k else t.signed && x.testBit (tyWidth t - 1)

/-- The number whose bits k < n are given. -/
def ofBits : Nat → (Nat → Bool) → Nat
  | 0, _ => 0
  | n + 1, f => ofBits n f + (if f n then 2 ^ n else 0)

def bitBfx (t : Ty) (a b : W64) : W64 :=
  let pos := fieldPos b
  let len := fieldLen b
  let x := tyNat t a
  BitVec.ofNat 64 (ofBits (tyWidth t) fun k =>
    if k < len then fieldBit t x (pos + k) else t.signed && fieldBit t x (pos + len - 1))

def bitBfi (t : Ty) (a b c : W64) : W64 :=
  let mask := tyWrap t ((2 ^ fieldLen b - 1) * 2 ^ fieldPos b : Nat)
  (tyWrap t (tyNat t c) &&& ~~~mask) ||| (tyWrap t (tyNat t a * 2 ^ fieldPos b : Nat) &&& mask)

/-! ## Compare and select (R155, R156) -/

/-- The value 0 or 1 of a predicate. -/
def predWord (p : Bool) : W64 := if p then 1#64 else 0#64

/-- The comparison value: bit 0 alone on pred. -/
def cmpVal (t : Ty) (x : W64) : Int := if t = .pred then (x.toNat % 2 : Nat) else tyVal t x

/-- The relation that a condition code names (R155). -/
def condHolds (c : Nat) (x y : Int) : Bool :=
  match c with
  | 0 => x = y | 1 => x ≠ y | 2 => x < y | 3 => x ≤ y | 4 => x > y | _ => x ≥ y

def intCmp (t : Ty) (c : Nat) (a b : W64) : W64 := predWord (condHolds c (cmpVal t a) (cmpVal t b))
def selWord (p a b : W64) : W64 := if p.getLsbD 0 then a else b

/-! ## Lanes and constants (R168 to R173) -/

def packWords (t : Ty) (a b : W64) : W64 :=
  if t.is64 || t = .n64 then (b.setWidth 32 ++ a.setWidth 32 : BitVec 64)
  else (b.setWidth 16 ++ a.setWidth 16 : BitVec 32).setWidth 64

def unpkPart (t : Ty) (opt : Nat) (a : W64) : W64 :=
  let width := match t with | .bf16x2 | .f16x2 => 16 | .e4m3x4 | .e5m2x4 => 8 | _ => 32
  BitVec.ofNat 64 ((a.toNat >>> (width * opt)) % 2 ^ width)

def consthWord (fmt : BitVec 26) (a : W64) : W64 := (fmt ++ a.setWidth 6 : BitVec 32).setWidth 64

def sxtWord (t : Ty) (a b : W64) : W64 :=
  let k := shiftCount t b
  let x := tyNat t a % 2 ^ (k + 1)
  tyWrap t (if x.testBit k then (x : Int) - (2 ^ (k + 1) : Nat) else x)

end Sys2Proof.Machine
end

