-- ==== Sys2Proof/Config.lean ====
section
/-! DEFINITION. The values that the spec leaves open and the model leaves free: constants with no body, so that no proof
can rest on a value of theirs. -/

namespace Sys2Proof.Config

/-- Which of the values that R138's accuracy allows an approximated special function returns, for its opcode, the
format by the width of its fraction, and the operand's bits. The algorithm is fixed per format (R138), so this is a function of them. -/
opaque specialPick (opcode fraction operand : Nat) : Nat

/-- A fresh free value for the n-th time the machine meets a value that the spec leaves open (R8). -/
opaque freeWord (n : Nat) : W64

/-- A fresh free choice between two outcomes that the spec calls not predictable (R8). -/
opaque freeBit (n : Nat) : Bool

/-- The round field of the n-th marker of level 1 to 3 that a node makes, for its block and slot: the spec gives such a
field no value (R40, R189). -/
opaque lowRound (block slot n : Nat) : BitVec 8

/-- The index that an argmin or argmax partial keeps where version-1 FMIN or FMAX replaces both values by the default NaN
(R159, R215): the spec gives none. -/
opaque argIndex (i j : Nat) : Nat

/-- The set of its die's port cache that may hold a line of device memory: R305 gives no hash. -/
opaque cacheSet (line : Nat) : Nat

/-- Whether both signatures over some bytes verify against the key pair of a slot of the security engine (R55, R91): the manual does not
list the keys. -/
opaque verifies (message : List Byte) (slot : Nat) (ed25519 mldsa : List Byte) : Bool

end Sys2Proof.Config
end

