-- ==== Sys2Proof/Machine/Float.lean ====
section
/-! DEFINITION. Floating-point formats, exact values, rounding, NaNs and the operations over them (R116 to R130, R136,
R157 to R167). Finite values are exact: m times a power of two. -/

namespace Sys2Proof.Machine

/-! ## Formats (R116, R117) -/

/-- Which encodings of the largest exponent are special (R117). -/
inductive Specials where
  | ieee | e4m3 | none
deriving DecidableEq, Repr

/-- A floating-point format: exponent and fraction widths, bias, special encodings. -/
structure Fmt where
  ebits : Nat
  fbits : Nat
  bias  : Nat
  special : Specials := .ieee
deriving DecidableEq, Repr

namespace Fmt

def f64 : Fmt := { ebits := 11, fbits := 52, bias := 1023 }
def f32 : Fmt := { ebits := 8, fbits := 23, bias := 127 }
def f16 : Fmt := { ebits := 5, fbits := 10, bias := 15 }
def bf16 : Fmt := { ebits := 8, fbits := 7, bias := 127 }
def e5m2 : Fmt := { ebits := 5, fbits := 2, bias := 15 }
def e4m3 : Fmt := { ebits := 4, fbits := 3, bias := 7, special := .e4m3 }
def e3m2 : Fmt := { ebits := 3, fbits := 2, bias := 3, special := .none }
def e2m3 : Fmt := { ebits := 2, fbits := 3, bias := 1, special := .none }
def e2m1 : Fmt := { ebits := 2, fbits := 1, bias := 1, special := .none }

/-- The width of the magnitude, and of the whole encoding. -/
def magBits (f : Fmt) : Nat := f.ebits + f.fbits
def width (f : Fmt) : Nat := f.magBits + 1
/-- The exponent of the least significant bit of a subnormal. -/
def emin (f : Fmt) : Int := 1 - (f.bias : Int) - f.fbits
/-- The magnitude of an infinity in a format that has one. -/
def infMag (f : Fmt) : Nat := (2 ^ f.ebits - 1) * 2 ^ f.fbits
/-- The magnitude of the largest finite value (R116). -/
def maxMag (f : Fmt) : Nat :=
  match f.special with
  | .ieee => f.infMag - 1
  | .e4m3 => 2 ^ f.magBits - 2
  | .none => 2 ^ f.magBits - 1
/-- The default NaN (R117). -/
def dnan (f : Fmt) : Nat :=
  match f.special with
  | .ieee => f.infMag + 2 ^ (f.fbits - 1)
  | _ => 2 ^ f.magBits - 1

def neg (f : Fmt) (x : Nat) : Bool := x.testBit f.magBits
def mag (f : Fmt) (x : Nat) : Nat := x % 2 ^ f.magBits
def withSign (f : Fmt) (s : Bool) (m : Nat) : Nat := (if s then 2 ^ f.magBits else 0) + m

def isNan (f : Fmt) (x : Nat) : Bool :=
  match f.special with
  | .ieee => f.mag x > f.infMag
  | .e4m3 => f.mag x = 2 ^ f.magBits - 1
  | .none => false
/-- A signalling NaN: the quiet bit is 0; the NaNs of E4M3 are quiet (R117). -/
def isSnan (f : Fmt) (x : Nat) : Bool := f.special = .ieee && f.isNan x && !x.testBit (f.fbits - 1)
def isInf (f : Fmt) (x : Nat) : Bool := f.special = .ieee && f.mag x = f.infMag
def isSubnormal (f : Fmt) (x : Nat) : Bool := f.mag x ≠ 0 && f.mag x < 2 ^ f.fbits
/-- quiet(n) of R129. -/
def quiet (f : Fmt) (x : Nat) : Nat := if f.special = .ieee then x ||| 2 ^ (f.fbits - 1) else x
/-- An infinity where the format has one; the model uses it only there. -/
def inf (f : Fmt) (s : Bool) : Nat := f.withSign s f.infMag

end Fmt

/-- The lane format of a floating-point type (R118). -/
def fmtOf : Ty → Fmt
  | .f64 => .f64 | .bf16x2 => .bf16 | .f16x2 => .f16 | .e4m3x4 => .e4m3 | .e5m2x4 => .e5m2 | _ => .f32

/-! ## Exact values -/

/-- A value that is not a NaN: an infinity, a zero, or m times 2^e with m > 0. -/
inductive Num where
  | inf (neg : Bool)
  | zero (neg : Bool)
  | fin (neg : Bool) (m : Nat) (e : Int)
deriving DecidableEq, Repr

/-- The value of an encoding that is no NaN (R116). -/
def Fmt.num (f : Fmt) (x : Nat) : Num :=
  let s := f.neg x
  let m := f.mag x
  let e := m / 2 ^ f.fbits
  if f.isInf x then .inf s
  else if m = 0 then .zero s
  else if e = 0 then .fin s m f.emin
  else .fin s (2 ^ f.fbits + m % 2 ^ f.fbits) (f.emin + e - 1)

def Num.negate : Num → Num
  | .inf s => .inf !s | .zero s => .zero !s | .fin s m e => .fin (!s) m e
def Num.isNeg : Num → Bool
  | .inf s => s | .zero s => s | .fin s _ _ => s

/-- A signed multiple of 2^e. -/
def Num.ofInt (i e : Int) (zeroNeg : Bool) : Num :=
  if i = 0 then .zero zeroNeg else .fin (i < 0) i.natAbs e

/-- The signed integer m of a value over 2^e, for e at most its own exponent. -/
def Num.scaled (x : Num) (e : Int) : Int :=
  match x with
  | .fin s m e' => let v := m * 2 ^ (e' - e).toNat; if s then -(v : Int) else v
  | _ => 0

/-- The exponent of a finite nonzero value, 0 otherwise. -/
def Num.exp : Num → Int
  | .fin _ _ e => e
  | _ => 0

/-- x + y, none for infinities of opposite sign; `rdn` says that the rounding mode is RDN (R121). -/
def Num.add (rdn : Bool) (x y : Num) : Option Num :=
  match x, y with
  | .inf s, .inf t => if s = t then some (.inf s) else none
  | .inf s, _ | _, .inf s => some (.inf s)
  | .zero s, .zero t => some (.zero (if s = t then s else rdn))
  | .zero _, v | v, .zero _ => some v
  | x, y => let e := min x.exp y.exp; some (.ofInt (x.scaled e + y.scaled e) e rdn)

/-- x × y, none for zero times infinity. -/
def Num.mul (x y : Num) : Option Num :=
  let s := x.isNeg != y.isNeg
  match x, y with
  | .inf _, .zero _ | .zero _, .inf _ => none
  | .inf _, _ | _, .inf _ => some (.inf s)
  | .zero _, _ | _, .zero _ => some (.zero s)
  | .fin _ m e, .fin _ n f => some (.fin s (m * n) (e + f))

/-- Numeric order of values that are no NaN, with −0 equal to +0. -/
def Num.key (x : Num) (e : Int) : Int := x.scaled e
def Num.lt (x y : Num) : Bool :=
  match x, y with
  | .inf s, .inf t => s && !t
  | .inf s, _ => s
  | _, .inf t => !t
  | x, y => let e := min x.exp y.exp; x.scaled e < y.scaled e
def Num.eqv (x y : Num) : Bool := !x.lt y && !y.lt x

/-! ## Rounding (R120 to R126) -/

/-- The multiple of 2^q that m times 2^e rounds to in a mode of R120; `u` is the draw of R122. -/
def roundTo (mode u : Nat) (neg : Bool) (m : Nat) (e q : Int) : Nat :=
  if e ≥ q then m * 2 ^ (e - q).toNat
  else
    let s := min (q - e).toNat (m.log2 + 40)
    let n := m >>> s
    let r := m % 2 ^ s
    let half := 2 ^ (s - 1)
    let up := match mode with
      | 0 => decide (r > half ∨ (r = half ∧ n % 2 = 1))
      | 1 => false
      | 2 => neg && decide (r ≠ 0)
      | 3 => !neg && decide (r ≠ 0)
      | 4 => decide (r ≥ half)
      | _ => decide (r ≠ 0 ∧ r * 2 ^ 32 / 2 ^ s + u ≥ 2 ^ 32)
    if up then n + 1 else n

/-- The exponent of the leading bit of m times 2^e. -/
def topExp (m : Nat) (e : Int) : Int := e + m.log2

/-- The spacing exponent of a format at m times 2^e. -/
def Fmt.quantum (f : Fmt) (m : Nat) (e : Int) : Int := max (topExp m e - f.fbits) f.emin

/-- The magnitude that m times 2^e rounds to as though the exponent range had no upper limit. -/
def Fmt.roundMag (f : Fmt) (mode u : Nat) (neg : Bool) (m : Nat) (e : Int) : Nat :=
  let q := f.quantum m e
  (q - f.emin).toNat * 2 ^ f.fbits + roundTo mode u neg m e q

/-- Tiny under R126: rounded as though the exponent range had no lower limit, less than the smallest normal. -/
def Fmt.isTiny (f : Fmt) (mode u : Nat) (neg : Bool) (m : Nat) (e : Int) : Bool :=
  let t := topExp m e
  let n := roundTo mode u neg m e (t - f.fbits)
  decide (t + (if n ≥ 2 ^ (f.fbits + 1) then 1 else 0) < 1 - (f.bias : Int))

/-- Whether the multiple of the spacing differs from the exact value. -/
def Fmt.inexact (f : Fmt) (m : Nat) (e : Int) : Bool :=
  let q := f.quantum m e
  decide (e < q ∧ m % 2 ^ (min (q - e).toNat (m.log2 + 40)) ≠ 0)

/-- The overflow result of R124 where infinities are written `infBits`. -/
def Fmt.overflowMag (f : Fmt) (mode : Nat) (neg : Bool) (infMag : Nat) : Nat :=
  match mode with
  | 1 => f.maxMag
  | 2 => if neg then infMag else f.maxMag
  | 3 => if neg then f.maxMag else infMag
  | _ => infMag

/-- What an operation takes from its word and its block's policy byte (R66, R127). -/
structure FpEnv where
  mode    : Nat := 0
  ftzIn   : Bool := false
  ftzOut  : Bool := false
  nanDflt : Bool := false
  sat     : Bool := false
deriving DecidableEq, Repr

/-- The policy byte's bits (R127). -/
def FpEnv.ofPolicy (policy : BitVec 8) (mode : Nat) : FpEnv :=
  { mode, ftzIn := policy.getLsbD 0, ftzOut := policy.getLsbD 1, nanDflt := policy.getLsbD 2, sat := policy.getLsbD 3 }

/-- An operand as read: a subnormal is a zero of its sign under ftz_in (R128). -/
def FpEnv.read (env : FpEnv) (f : Fmt) (x : Nat) : Nat :=
  if env.ftzIn && f.isSubnormal x then f.withSign (f.neg x) 0 else x

/-- finish() of R158 for a value that is no infinity in a format of R124, with the draw of R122. -/
def finishFin (f : Fmt) (env : FpEnv) (u : Nat) (s : Bool) (m : Nat) (e : Int) (infMag : Nat) : Nat × FpFlags :=
  let y := f.roundMag env.mode u s m e
  if y > f.maxMag then (f.withSign s (f.overflowMag env.mode s infMag), FpFlags.ovf ||| FpFlags.inx)
  else
    let tiny := f.isTiny env.mode u s m e
    let inexact := f.inexact m e
    if tiny && env.ftzOut then (f.withSign s 0, FpFlags.unf ||| FpFlags.inx)
    else (f.withSign s y, FpFlags.when (tiny && inexact) .unf ||| FpFlags.when inexact .inx)

/-- finish() of R158. -/
def finish (f : Fmt) (env : FpEnv) (x : Num) : Nat × FpFlags :=
  match x with
  | .inf s => (f.inf s, .none)
  | .zero s => (f.withSign s 0, .none)
  | .fin s m e => finishFin f env 0 s m e f.infMag

/-! ## NaNs (R129) -/

/-- A NaN result: the default NaN where the policy asks for it. -/
def FpEnv.nan (env : FpEnv) (f : Fmt) (r : Nat) : Nat := if env.nanDflt then f.dnan else r

/-- R129 for the instructions other than FMA, FMS and FNMA: a NaN operand, an invalid operation, or finish(). -/
def fpResult (f : Fmt) (env : FpEnv) (ops : List Nat) (x : Option Num) : Nat × FpFlags :=
  match ops.find? f.isNan with
  | some n => (env.nan f (f.quiet n), FpFlags.when (ops.any f.isSnan) .inv)
  | none =>
    match x with
    | none => (f.dnan, .inv)
    | some v => finish f env v

/-- R129 for FMA, FMS and FNMA. -/
def fmaResult (f : Fmt) (env : FpEnv) (a b c : Nat) (prod : Option Num) (x : Option Num) : Nat × FpFlags :=
  let anyNan := f.isNan a || f.isNan b
  let bad := !anyNan && prod.isNone
  if f.isNan c then
    (env.nan f (f.quiet c), FpFlags.when (f.isSnan a || f.isSnan b || f.isSnan c || bad) .inv)
  else if bad then (f.dnan, .inv)
  else if anyNan then
    (env.nan f (f.quiet (if f.isNan a then a else b)), FpFlags.when (f.isSnan a || f.isSnan b) .inv)
  else match x with
    | none => (f.dnan, .inv)
    | some v => finish f env v

/-! ## Arithmetic (R157, R158) -/

def fpAdd (f : Fmt) (env : FpEnv) (a b : Nat) : Nat × FpFlags :=
  let a := env.read f a; let b := env.read f b
  fpResult f env [a, b] ((f.num a).add (env.mode = 2) (f.num b))
def fpSub (f : Fmt) (env : FpEnv) (a b : Nat) : Nat × FpFlags :=
  let a := env.read f a; let b := env.read f b
  fpResult f env [a, b] ((f.num a).add (env.mode = 2) (f.num b).negate)
def fpMul (f : Fmt) (env : FpEnv) (a b : Nat) : Nat × FpFlags :=
  let a := env.read f a; let b := env.read f b
  fpResult f env [a, b] ((f.num a).mul (f.num b))

/-- a × b + c with the product or the addend negated (FMA, FMS, FNMA). -/
def fpFused (negProd negC : Bool) (f : Fmt) (env : FpEnv) (a b c : Nat) : Nat × FpFlags :=
  let a := env.read f a; let b := env.read f b; let c := env.read f c
  let prod := (f.num a).mul (f.num b)
  let p := if negProd then prod.map Num.negate else prod
  let v := if negC then (f.num c).negate else f.num c
  fmaResult f env a b c prod (p.bind fun p => p.add (env.mode = 2) v)

/-- A value rounded to an integral one in a mode: the signed integer, for a finite value. -/
def Num.toInt (mode : Nat) : Num → Int
  | .fin s m e => let n := roundTo mode 0 s m e 0; if s then -(n : Int) else n
  | _ => 0

/-- FRND (R157, R158): `x` asks for inexact. -/
def fpRnd (f : Fmt) (env : FpEnv) (x : Bool) (a : Nat) : Nat × FpFlags :=
  let a := env.read f a
  if f.isNan a then (env.nan f (f.quiet a), FpFlags.when (f.isSnan a) .inv)
  else match f.num a with
    | .fin s m e =>
      if e ≥ 0 then (a, .none)
      else
        let n := roundTo env.mode 0 s m e 0
        let v := if n = 0 then f.withSign s 0 else f.withSign s (f.roundMag 1 0 s n 0)
        (v, FpFlags.when (x && v ≠ a) .inx)
    | _ => (a, .none)

/-- FSCALE (R157, R158); the scale is cut at ±2^16, beyond every format's range. -/
def fpScale (f : Fmt) (env : FpEnv) (a : Nat) (b : Int) : Nat × FpFlags :=
  let a := env.read f a
  fpResult f env [a] (match f.num a with
    | .fin s m e => some (.fin s m (e + max (-65536) (min 65536 b)))
    | v => some v)

/-! ## Minimum, maximum, sign and classification (R159 to R162) -/

/-- Numeric order with −0 below +0, of encodings that are no NaN (R159). -/
def Fmt.below (f : Fmt) (x y : Nat) : Bool :=
  (f.num x).lt (f.num y) || ((f.num x).eqv (f.num y) && f.neg x && !f.neg y)

/-- The choice of FMIN (`max` false) or FMAX between encodings that are no NaN. -/
def minPick (f : Fmt) (max : Bool) (a b : Nat) : Nat :=
  if (if max then f.below a b else f.below b a) then b else a

/-- The choice of FMINM or FMAXM between encodings that are no NaN. -/
def minPickMag (f : Fmt) (max : Bool) (a b : Nat) : Nat :=
  let ma := f.mag a; let mb := f.mag b
  if (if max then ma > mb else ma < mb) then a
  else if (if max then mb > ma else mb < ma) then b
  else minPick f max a b

/-- FMIN, FMAX, FMINM and FMAXM (R159); `v1` is the effect of a version-1 block. -/
def fpMinMax (v1 max byMag : Bool) (f : Fmt) (env : FpEnv) (a b : Nat) : Nat × FpFlags :=
  let a := env.read f a; let b := env.read f b
  let flags := FpFlags.when (f.isSnan a || f.isSnan b) .inv
  let v :=
    if v1 && (f.isNan a || f.isNan b) then f.dnan
    else if f.isNan a && f.isNan b then env.nan f (f.quiet a)
    else if f.isNan a then b
    else if f.isNan b then a
    else if byMag then minPickMag f max a b else minPick f max a b
  (v, flags)

def fpAbs (f : Fmt) (a : Nat) : Nat := f.mag a
def fpNeg (f : Fmt) (a : Nat) : Nat := f.withSign (!f.neg a) (f.mag a)
def fpCopySign (f : Fmt) (a b : Nat) : Nat := f.withSign (f.neg b) (f.mag a)

/-- FCMP (R161). -/
def fpCmp (f : Fmt) (env : FpEnv) (cond : Nat) (a b : Nat) : Bool × FpFlags :=
  let a := env.read f a; let b := env.read f b
  let un := f.isNan a || f.isNan b
  let x := f.num a; let y := f.num b
  let r := match cond with
    | 0 => !un && x.eqv y
    | 1 => un || !x.eqv y
    | 2 => !un && x.lt y
    | 3 => !un && !y.lt x
    | 4 => !un && y.lt x
    | 5 => !un && !x.lt y
    | _ => un
  let signals := 2 ≤ cond && cond ≤ 5
  (r, FpFlags.when (if signals then un else f.isSnan a || f.isSnan b) .inv)

/-- FCLASS (R162): the index of the one bit set. -/
def fpClass (f : Fmt) (a : Nat) : Nat :=
  let s := f.neg a
  if f.isNan a then (if f.isSnan a then 8 else 9)
  else if f.isInf a then (if s then 0 else 7)
  else if f.mag a = 0 then (if s then 3 else 4)
  else if f.isSubnormal a then (if s then 2 else 5)
  else if s then 1 else 6

/-! ## Division and square root (R163, R164) -/

/-- The integer square root, by one bit a step. -/
def isqrtGo : Nat → Nat → Nat → Nat
  | 0, _, r => r
  | k + 1, n, r => let t := r + 2 ^ k; isqrtGo k n (if t * t ≤ n then t else r)
def isqrt (n : Nat) : Nat := isqrtGo (n.log2 / 2 + 1) n 0

/-- A quotient or root known to lie in [n, n+1) times 2^e, equal to n times 2^e when exact: one more bit records it. -/
def sticky (s : Bool) (n : Nat) (exact : Bool) (e : Int) : Num := .fin s (2 * n + (if exact then 0 else 1)) (e - 1)

/-- The quotient of finite nonzero values with at least k significant bits and a sticky bit. -/
def quotient (k : Nat) (s : Bool) (m : Nat) (e : Int) (n : Nat) (d : Int) : Num :=
  let sh := k + n.log2
  let q := m * 2 ^ sh / n
  sticky s q (m * 2 ^ sh % n = 0) (e - d - sh)

/-- The square root of a finite positive value with at least k significant bits and a sticky bit. -/
def root (k : Nat) (m : Nat) (e : Int) : Num :=
  let sh := 2 * k + (if e % 2 = 0 then 0 else 1)
  let v := m * 2 ^ sh
  let r := isqrt v
  sticky false r (r * r = v) ((e - sh) / 2)

def fpDiv (f : Fmt) (env : FpEnv) (a b : Nat) : Nat × FpFlags :=
  let a := env.read f a; let b := env.read f b
  let s := f.neg a != f.neg b
  if f.isNan a || f.isNan b then fpResult f env [a, b] none
  else match f.num a, f.num b with
    | .zero _, .zero _ | .inf _, .inf _ => (f.dnan, .inv)
    | .inf _, _ => (f.inf s, .none)
    | _, .inf _ | .zero _, _ => (f.withSign s 0, .none)
    | _, .zero _ => (f.inf s, .dz)
    | .fin _ m e, .fin _ n d => finish f env (quotient 60 s m e n d)

def fpSqrt (f : Fmt) (env : FpEnv) (a : Nat) : Nat × FpFlags :=
  let a := env.read f a
  if f.isNan a then fpResult f env [a] none
  else match f.num a with
    | .zero s => (f.withSign s 0, .none)
    | .inf s => if s then (f.dnan, .inv) else (f.inf false, .none)
    | .fin s m e => if s then (f.dnan, .inv) else finish f env (root 60 m e)

/-! ## Stochastic rounding (R122, R123) -/

def mixStep (z : W64) : W64 :=
  let z := (z ^^^ (z >>> 30)) * 0xBF58476D1CE4E5B9#64
  let z := (z ^^^ (z >>> 27)) * 0x94D049BB133111EB#64
  z ^^^ (z >>> 31)

/-- The draw u of R123. -/
def srDraw (seed : W64) (block : Nat) (slot : Nat) (lane : Nat) (e : Nat) : Nat :=
  let key : W64 := BitVec.ofNat 16 block ++ BitVec.ofNat 7 slot ++ BitVec.ofNat 2 lane ++ 0#39
  (mixStep (mixStep (seed ^^^ key) + BitVec.ofNat 64 e)).toNat % 2 ^ 32

/-! ## Conversions (R125, R130, R165 to R167) -/

/-- A NaN of one format in another (R130). -/
def nanTo (src dst : Fmt) (env : FpEnv) (a : Nat) : Nat :=
  if dst.special ≠ .ieee then dst.withSign (src.neg a && !env.nanDflt) (2 ^ dst.magBits - 1)
  else if env.nanDflt then dst.dnan
  else
    let fr := src.mag a % 2 ^ src.fbits
    let fr' := if dst.fbits ≤ src.fbits then fr / 2 ^ (src.fbits - dst.fbits) else fr * 2 ^ (dst.fbits - src.fbits)
    dst.withSign (src.neg a) (dst.infMag + (fr' ||| 2 ^ (dst.fbits - 1)))

/-- A conversion between floating-point formats; `narrow` puts R125 in force. The NaN that R125 gives an E4M3 destination is the default
NaN where nan_dflt asks for it (R127, log 111); a tiny result is flushed under ftz_out whatever the rule of its pair (log 113). -/
def fpConvert (src dst : Fmt) (env : FpEnv) (narrow : Bool) (u : Nat) (a : Nat) : Nat × FpFlags :=
  let a := env.read src a
  if src.isNan a then (nanTo src dst env a, FpFlags.when (src.isSnan a) .inv)
  else match src.num a with
    | .zero s => (dst.withSign s 0, .none)
    | .inf s =>
      if narrow && env.sat then (dst.withSign s dst.maxMag, .none)
      else if dst.special = .ieee then (dst.inf s, .none)
      else (env.nan dst (dst.withSign s (2 ^ dst.magBits - 1)), .inv)
    | .fin s m e =>
      let infMag := if dst.special = .ieee then dst.infMag else 2 ^ dst.magBits - 1
      let r := finishFin dst env u s m e infMag
      if narrow && env.sat && r.2 &&& FpFlags.ovf ≠ 0#5 then (dst.withSign s dst.maxMag, r.2)
      else if dst.isNan r.1 then (env.nan dst r.1, r.2)
      else r

/-- Floating point to integer (R167). -/
def fpToInt (f : Fmt) (env : FpEnv) (t : Ty) (a : Nat) : W64 × FpFlags :=
  let a := env.read f a
  if f.isNan a then (0#64, .inv)
  else match f.num a with
    | .inf s => (tyWrap t (if s then tyLo t else tyHi t), .inv)
    | .zero _ => (0#64, .none)
    | x@(.fin _ m e) =>
      let i := x.toInt env.mode
      if i > tyHi t then (tyWrap t (tyHi t), .inv)
      else if i < tyLo t then (tyWrap t (tyLo t), .inv)
      else (tyWrap t i, FpFlags.when (decide (e < 0 ∧ m % 2 ^ (min (-e).toNat (m.log2 + 40)) ≠ 0)) .inx)

/-- Integer to floating point: 0 gives +0 (R166). -/
def intToFp (f : Fmt) (env : FpEnv) (i : Int) : Nat × FpFlags := finish f env (.ofInt i 0 false)

end Sys2Proof.Machine
end

