-- ==== Sys2Proof/Decode.lean ====
section
/-! DEFINITION. Decoding and encoding of the RS8800's two instruction words (R62 to R66, R72 to R75): a 64-bit
graph-form slot and a 32-bit task-form word. A decoder is total and rejects by name; the encoder is written from the
same tables of the spec. Words are stored little-endian (R4). -/

namespace Sys2Proof

/-- Why a word is no instruction. -/
inductive Reject where
  /-- The opcode is not assigned (R74, R75). -/
  | unassignedOpcode (lo : Nat)
  /-- The type code is 13, 14 or 15 (R65). -/
  | reservedType
  /-- A target whose valid bit is 0 has other bits set (R63). -/
  | absentTargetBits (lo : Nat)
  /-- A reserved bit is set (R72, R73). -/
  | reservedBits (lo : Nat)
  /-- A sub-field of a task word that holds a qualifier the instruction does not define (R66, R73). -/
  | illegalQualifier (lo : Nat)
deriving DecidableEq, Repr

/-- The reason code of R82 and the lowest bit of the failing field. -/
def Reject.failure : Reject → Nat × Nat
  | .unassignedOpcode lo => (0x05, lo)
  | .reservedType => (0x07, 52)
  | .absentTargetBits lo => (0x06, lo)
  | .reservedBits lo => (0x06, lo)
  | .illegalQualifier lo => (0x08, lo)

/-! ## Bytes of a word (R4) -/

/-- The bytes of a word of `n` bytes, the least significant first. -/
def wordBytes : (n : Nat) → (w : Nat) → List Byte
  | 0, _ => []
  | n + 1, w => BitVec.ofNat 8 w :: wordBytes n (w / 256)

/-- The number that bytes hold, the least significant first. -/
def bytesNat : List Byte → Nat
  | [] => 0
  | b :: rest => b.toNat + 256 * bytesNat rest

/-! ## Graph form -/

/-- Operand codes of R63. -/
def Operand.code : Operand → BitVec 2
  | .a => 0#2 | .b => 1#2 | .c => 2#2 | .p => 3#2

/-- The operand of a code of R63. -/
def Operand.ofCode (x : BitVec 2) : Operand :=
  if x = 0#2 then .a else if x = 1#2 then .b else if x = 2#2 then .c else .p

/-- The ten bits of a target field (R63). -/
def encodeTarget : Option Target → BitVec 10
  | none => 0#10
  | some t => 1#1 ++ t.operand.code ++ t.slot

/-- A target field: absent, present, or absent with other bits set (R63). -/
def decodeTarget (x : BitVec 10) : Option (Option Target) :=
  if x.getLsbD 9 then some (some ⟨.ofCode (x.extractLsb' 7 2), x.extractLsb' 0 7⟩)
  else if x = 0#10 then some none else none

/-- The graph-form instruction of an opcode and its option bit q<0> (R74); only MXCFG and RANGE use the bit to choose
between two rows of the table (R254, R331). -/
def graphOp (op : Nat) (q0 : Bool) : Option (GArgs → Instr) :=
  match op with
  | 0x01 => some .add
  | 0x02 => some .sub
  | 0x03 => some .mul
  | 0x04 => some .mulhi
  | 0x05 => some .mad
  | 0x06 => some .div
  | 0x07 => some .rem
  | 0x08 => some .neg
  | 0x09 => some .abs
  | 0x0A => some .min
  | 0x0B => some .max
  | 0x0C => some .addsat
  | 0x0D => some .subsat
  | 0x10 => some .and
  | 0x11 => some .or
  | 0x12 => some .xor
  | 0x13 => some .andn
  | 0x14 => some .not
  | 0x15 => some .shl
  | 0x16 => some .shr
  | 0x17 => some .sar
  | 0x18 => some .rol
  | 0x19 => some .clz
  | 0x1A => some .ctz
  | 0x1B => some .popc
  | 0x1C => some .brev
  | 0x1D => some .bfx
  | 0x1E => some .bfi
  | 0x20 => some .cmp
  | 0x21 => some .sel
  | 0x40 => some .fadd
  | 0x41 => some .fsub
  | 0x42 => some .fmul
  | 0x43 => some .fma
  | 0x44 => some .fms
  | 0x45 => some .fnma
  | 0x46 => some .fmin
  | 0x47 => some .fmax
  | 0x48 => some .fminm
  | 0x49 => some .fmaxm
  | 0x4A => some .fabs
  | 0x4B => some .fneg
  | 0x4C => some .fcpys
  | 0x4D => some .fcmp
  | 0x4E => some .fclass
  | 0x4F => some .frnd
  | 0x50 => some .fscale
  | 0x60 => some .rcp
  | 0x61 => some .rsq
  | 0x62 => some .sqrt
  | 0x63 => some .fdiv
  | 0x64 => some .exp2
  | 0x65 => some .log2
  | 0x66 => some .sinpi
  | 0x67 => some .cospi
  | 0x68 => some .tanh
  | 0x69 => some .sigm
  | 0x70 => some .cvt
  | 0x71 => some .pack
  | 0x72 => some .unpk
  | 0x73 => some .mov
  | 0x74 => some .const
  | 0x75 => some .consth
  | 0x76 => some .sxt
  | 0x7C => some .fmin1
  | 0x7D => some .ldv
  | 0x7E => some .waitc
  | 0x80 => some .steer
  | 0x81 => some .merge
  | 0x82 => some .carry
  | 0x83 => some .invar
  | 0x84 => some .fork
  | 0x85 => some .sink
  | 0x86 => some .gate
  | 0x87 => some .count
  | 0x88 => some .mark
  | 0x89 => some .mstrip
  | 0x8A => some .mlift
  | 0x8B => some .mtest
  | 0x8C => some .ord
  | 0x8D => some .join
  | 0x8E => some .bar
  | 0x8F => some .drain
  | 0x90 => some .zip
  | 0x91 => some .call
  | 0x92 => some .entry
  | 0x93 => some .exit
  | 0xA0 => some .pat
  | 0xA1 => some .red
  | 0xA2 => some .redx
  | 0xA3 => some .scan
  | 0xA4 => some .filt
  | 0xA5 => some .cmpct
  | 0xB1 => some .mxa
  | 0xB2 => some .mxb
  | 0xB3 => some .mxsc
  | 0xB4 => some .mxop
  | 0xB5 => some .accrd
  | 0xB6 => some .accclr
  | 0xB7 => some .accld
  | 0xB8 => some .mxtile
  | 0xC0 => some .ld
  | 0xC1 => some .st
  | 0xC2 => some .ldfe
  | 0xC3 => some .stfe
  | 0xC4 => some .feclr
  | 0xC5 => some .feset
  | 0xC6 => some .fetest
  | 0xC7 => some .tscfg
  | 0xC8 => some .agen
  | 0xC9 => some .scat
  | 0xCA => some .lbwin
  | 0xD0 => some .aadd
  | 0xD1 => some .amin
  | 0xD2 => some .amax
  | 0xD3 => some .aand
  | 0xD4 => some .aor
  | 0xD5 => some .axor
  | 0xD6 => some .axchg
  | 0xD7 => some .acas
  | 0xD8 => some .aincb
  | 0xD9 => some .afadd
  | 0xDB => some .aminp
  | 0xDC => some .ard
  | 0xE0 => some .sld
  | 0xE1 => some .sst
  | 0xE2 => some .gath
  | 0xE3 => some .scatx
  | 0xE4 => some .binadd
  | 0xE5 => some .binrun
  | 0xE7 => some .pref
  | 0xE8 => some .spld
  | 0xEC => some .cpy
  | 0xED => some .cpym
  | 0xEE => some .kturn
  | 0xEF => some .lstat
  | 0xF0 => some .fence
  | 0xF1 => some .spawn
  | 0xF2 => some .done
  | 0xF3 => some .twait
  | 0xF4 => some .trap
  | 0xF5 => some .traprd
  | 0xF6 => some .trapack
  | 0xF7 => some .sysrd
  | 0xF8 => some .syswr
  | 0xF9 => some .rdtime
  | 0xFA => some .tconv
  | 0xFB => some .budrd
  | 0xB0 => some (if q0 then .mxcfgTile else .mxcfg)
  | 0xE6 => some (if q0 then .rangeInit else .rangePull)
  | _ => none

/-- The opcode of a graph-form instruction (R74). -/
def Instr.graphOpcode : Instr → Option (BitVec 8)
  | .add _ => some 0x01#8
  | .sub _ => some 0x02#8
  | .mul _ => some 0x03#8
  | .mulhi _ => some 0x04#8
  | .mad _ => some 0x05#8
  | .div _ => some 0x06#8
  | .rem _ => some 0x07#8
  | .neg _ => some 0x08#8
  | .abs _ => some 0x09#8
  | .min _ => some 0x0A#8
  | .max _ => some 0x0B#8
  | .addsat _ => some 0x0C#8
  | .subsat _ => some 0x0D#8
  | .and _ => some 0x10#8
  | .or _ => some 0x11#8
  | .xor _ => some 0x12#8
  | .andn _ => some 0x13#8
  | .not _ => some 0x14#8
  | .shl _ => some 0x15#8
  | .shr _ => some 0x16#8
  | .sar _ => some 0x17#8
  | .rol _ => some 0x18#8
  | .clz _ => some 0x19#8
  | .ctz _ => some 0x1A#8
  | .popc _ => some 0x1B#8
  | .brev _ => some 0x1C#8
  | .bfx _ => some 0x1D#8
  | .bfi _ => some 0x1E#8
  | .cmp _ => some 0x20#8
  | .sel _ => some 0x21#8
  | .fadd _ => some 0x40#8
  | .fsub _ => some 0x41#8
  | .fmul _ => some 0x42#8
  | .fma _ => some 0x43#8
  | .fms _ => some 0x44#8
  | .fnma _ => some 0x45#8
  | .fmin _ => some 0x46#8
  | .fmax _ => some 0x47#8
  | .fminm _ => some 0x48#8
  | .fmaxm _ => some 0x49#8
  | .fabs _ => some 0x4A#8
  | .fneg _ => some 0x4B#8
  | .fcpys _ => some 0x4C#8
  | .fcmp _ => some 0x4D#8
  | .fclass _ => some 0x4E#8
  | .frnd _ => some 0x4F#8
  | .fscale _ => some 0x50#8
  | .rcp _ => some 0x60#8
  | .rsq _ => some 0x61#8
  | .sqrt _ => some 0x62#8
  | .fdiv _ => some 0x63#8
  | .exp2 _ => some 0x64#8
  | .log2 _ => some 0x65#8
  | .sinpi _ => some 0x66#8
  | .cospi _ => some 0x67#8
  | .tanh _ => some 0x68#8
  | .sigm _ => some 0x69#8
  | .cvt _ => some 0x70#8
  | .pack _ => some 0x71#8
  | .unpk _ => some 0x72#8
  | .mov _ => some 0x73#8
  | .const _ => some 0x74#8
  | .consth _ => some 0x75#8
  | .sxt _ => some 0x76#8
  | .fmin1 _ => some 0x7C#8
  | .ldv _ => some 0x7D#8
  | .waitc _ => some 0x7E#8
  | .steer _ => some 0x80#8
  | .merge _ => some 0x81#8
  | .carry _ => some 0x82#8
  | .invar _ => some 0x83#8
  | .fork _ => some 0x84#8
  | .sink _ => some 0x85#8
  | .gate _ => some 0x86#8
  | .count _ => some 0x87#8
  | .mark _ => some 0x88#8
  | .mstrip _ => some 0x89#8
  | .mlift _ => some 0x8A#8
  | .mtest _ => some 0x8B#8
  | .ord _ => some 0x8C#8
  | .join _ => some 0x8D#8
  | .bar _ => some 0x8E#8
  | .drain _ => some 0x8F#8
  | .zip _ => some 0x90#8
  | .call _ => some 0x91#8
  | .entry _ => some 0x92#8
  | .exit _ => some 0x93#8
  | .pat _ => some 0xA0#8
  | .red _ => some 0xA1#8
  | .redx _ => some 0xA2#8
  | .scan _ => some 0xA3#8
  | .filt _ => some 0xA4#8
  | .cmpct _ => some 0xA5#8
  | .mxa _ => some 0xB1#8
  | .mxb _ => some 0xB2#8
  | .mxsc _ => some 0xB3#8
  | .mxop _ => some 0xB4#8
  | .accrd _ => some 0xB5#8
  | .accclr _ => some 0xB6#8
  | .accld _ => some 0xB7#8
  | .mxtile _ => some 0xB8#8
  | .ld _ => some 0xC0#8
  | .st _ => some 0xC1#8
  | .ldfe _ => some 0xC2#8
  | .stfe _ => some 0xC3#8
  | .feclr _ => some 0xC4#8
  | .feset _ => some 0xC5#8
  | .fetest _ => some 0xC6#8
  | .tscfg _ => some 0xC7#8
  | .agen _ => some 0xC8#8
  | .scat _ => some 0xC9#8
  | .lbwin _ => some 0xCA#8
  | .aadd _ => some 0xD0#8
  | .amin _ => some 0xD1#8
  | .amax _ => some 0xD2#8
  | .aand _ => some 0xD3#8
  | .aor _ => some 0xD4#8
  | .axor _ => some 0xD5#8
  | .axchg _ => some 0xD6#8
  | .acas _ => some 0xD7#8
  | .aincb _ => some 0xD8#8
  | .afadd _ => some 0xD9#8
  | .aminp _ => some 0xDB#8
  | .ard _ => some 0xDC#8
  | .sld _ => some 0xE0#8
  | .sst _ => some 0xE1#8
  | .gath _ => some 0xE2#8
  | .scatx _ => some 0xE3#8
  | .binadd _ => some 0xE4#8
  | .binrun _ => some 0xE5#8
  | .pref _ => some 0xE7#8
  | .spld _ => some 0xE8#8
  | .cpy _ => some 0xEC#8
  | .cpym _ => some 0xED#8
  | .kturn _ => some 0xEE#8
  | .lstat _ => some 0xEF#8
  | .fence _ => some 0xF0#8
  | .spawn _ => some 0xF1#8
  | .done _ => some 0xF2#8
  | .twait _ => some 0xF3#8
  | .trap _ => some 0xF4#8
  | .traprd _ => some 0xF5#8
  | .trapack _ => some 0xF6#8
  | .sysrd _ => some 0xF7#8
  | .syswr _ => some 0xF8#8
  | .rdtime _ => some 0xF9#8
  | .tconv _ => some 0xFA#8
  | .budrd _ => some 0xFB#8
  | .mxcfg _ | .mxcfgTile _ => some 0xB0#8
  | .rangeInit _ | .rangePull _ => some 0xE6#8
  | _ => none

/-- The 64-bit slot of the fields (R62). -/
def encodeFields (op : BitVec 8) (g : GArgs) : W64 :=
  op ++ BitVec.ofNat 4 g.ty.code ++ g.mode ++ BitVec.ofBool g.imm ++ g.opt ++ encodeTarget g.tgtA ++ encodeTarget g.tgtB ++ g.fmt

/-- The slot of a graph-form instruction; none for the others. -/
def encodeGraph (i : Instr) : Option W64 :=
  match i.graphOpcode, i.gargs with
  | some op, some g => some (encodeFields op g)
  | _, _ => none

/-- The graph-form instruction in a slot (R62, R63, R65, R74). -/
def decodeGraph (w : W64) : Except Reject Instr :=
  match graphOp (w.extractLsb' 56 8).toNat (w.getLsbD 46) with
  | none => .error (.unassignedOpcode 56)
  | some mk =>
    match Ty.ofCode (w.extractLsb' 52 4).toNat with
    | none => .error .reservedType
    | some ty =>
      match decodeTarget (w.extractLsb' 36 10), decodeTarget (w.extractLsb' 26 10) with
      | none, _ => .error (.absentTargetBits 36)
      | some _, none => .error (.absentTargetBits 26)
      | some ta, some tb =>
        .ok (mk { ty := ty, mode := w.extractLsb' 49 3, imm := w.getLsbD 48, opt := w.extractLsb' 46 2,
                  tgtA := ta, tgtB := tb, fmt := w.extractLsb' 0 26 })

/-! ## Task form -/

/-- Fields td, ta and tb of R72. -/
def taskD (w : W32) : BitVec 4 := w.extractLsb' 21 4
def taskA (w : W32) : BitVec 4 := w.extractLsb' 17 4
def taskB (w : W32) : BitVec 4 := w.extractLsb' 13 4

/-- `ok` unless bits lo up to lo+n-1 of the word are set. -/
def clearOr (w : W32) (lo n : Nat) (r : Reject) (k : Except Reject Instr) : Except Reject Instr :=
  if w.extractLsb' lo n = 0#n then k else .error r

/-- Both forms of an integer instruction whose qualifier is 0 (R73). -/
def intTask (r : BitVec 4 → BitVec 4 → BitVec 4 → BitVec 1 → Instr)
    (m : BitVec 4 → BitVec 4 → BitVec 1 → BitVec 12 → Instr) (w : W32) : Except Reject Instr :=
  if w.getLsbD 12 then
    clearOr w 13 3 (.illegalQualifier 13) (.ok (m (taskD w) (taskA w) (w.extractLsb' 16 1) (w.extractLsb' 0 12)))
  else
    clearOr w 4 8 (.reservedBits 4) (clearOr w 0 3 (.illegalQualifier 0)
      (.ok (r (taskD w) (taskA w) (taskB w) (w.extractLsb' 3 1))))

/-- Both forms of a floating-point instruction with a mode or condition (R73). -/
def fltTask (r : BitVec 4 → BitVec 4 → BitVec 4 → BitVec 3 → Instr)
    (m : BitVec 4 → BitVec 4 → BitVec 3 → BitVec 12 → Instr) (w : W32) : Except Reject Instr :=
  if w.getLsbD 12 then
    clearOr w 16 1 (.reservedBits 16) (.ok (m (taskD w) (taskA w) (w.extractLsb' 13 3) (w.extractLsb' 0 12)))
  else
    clearOr w 4 8 (.reservedBits 4) (clearOr w 3 1 (.reservedBits 3)
      (.ok (r (taskD w) (taskA w) (taskB w) (w.extractLsb' 0 3))))

/-- Both forms of a floating-point instruction whose qualifier is 0 (R73). -/
def fltTask0 (r : BitVec 4 → BitVec 4 → BitVec 4 → Instr)
    (m : BitVec 4 → BitVec 4 → BitVec 12 → Instr) (w : W32) : Except Reject Instr :=
  if w.getLsbD 12 then
    clearOr w 16 1 (.reservedBits 16) (clearOr w 13 3 (.illegalQualifier 13)
      (.ok (m (taskD w) (taskA w) (w.extractLsb' 0 12))))
  else
    clearOr w 4 8 (.reservedBits 4) (clearOr w 3 1 (.reservedBits 3) (clearOr w 0 3 (.illegalQualifier 0)
      (.ok (r (taskD w) (taskA w) (taskB w)))))

/-- The task-form instruction in a word (R72, R73, R75, R228). -/
def decodeTask (w : W32) : Except Reject Instr :=
  match (w.extractLsb' 25 7).toNat with
  | 0x01 => intTask .taskAddReg .taskAddImm w
  | 0x02 => intTask .taskSubReg .taskSubImm w
  | 0x03 => intTask .taskMulReg .taskMulImm w
  | 0x04 => intTask .taskMulhiReg .taskMulhiImm w
  | 0x05 => intTask .taskMadReg .taskMadImm w
  | 0x06 => intTask .taskDivReg .taskDivImm w
  | 0x07 => intTask .taskRemReg .taskRemImm w
  | 0x08 => intTask .taskNegReg .taskNegImm w
  | 0x09 => intTask .taskAbsReg .taskAbsImm w
  | 0x0A => intTask .taskMinReg .taskMinImm w
  | 0x0B => intTask .taskMaxReg .taskMaxImm w
  | 0x0C => intTask .taskAddsatReg .taskAddsatImm w
  | 0x0D => intTask .taskSubsatReg .taskSubsatImm w
  | 0x10 => intTask .taskAndReg .taskAndImm w
  | 0x11 => intTask .taskOrReg .taskOrImm w
  | 0x12 => intTask .taskXorReg .taskXorImm w
  | 0x13 => intTask .taskAndnReg .taskAndnImm w
  | 0x14 => intTask .taskNotReg .taskNotImm w
  | 0x15 => intTask .taskShlReg .taskShlImm w
  | 0x16 => intTask .taskShrReg .taskShrImm w
  | 0x17 => intTask .taskSarReg .taskSarImm w
  | 0x18 => intTask .taskRolReg .taskRolImm w
  | 0x19 => intTask .taskClzReg .taskClzImm w
  | 0x1A => intTask .taskCtzReg .taskCtzImm w
  | 0x1B => intTask .taskPopcReg .taskPopcImm w
  | 0x1C => intTask .taskBrevReg .taskBrevImm w
  | 0x1D => intTask .taskBfxReg .taskBfxImm w
  | 0x1E => intTask .taskBfiReg .taskBfiImm w
  | 0x20 =>
    if w.getLsbD 12 then
      .ok (.taskCmpImm (taskD w) (taskA w) (w.extractLsb' 16 1) (w.extractLsb' 13 3) (w.extractLsb' 0 12))
    else clearOr w 4 8 (.reservedBits 4)
      (.ok (.taskCmpReg (taskD w) (taskA w) (taskB w) (w.extractLsb' 3 1) (w.extractLsb' 0 3)))
  | 0x21 => intTask .taskSelReg .taskSelImm w
  | 0x40 => fltTask .taskFaddReg .taskFaddImm w
  | 0x41 => fltTask .taskFsubReg .taskFsubImm w
  | 0x42 => fltTask .taskFmulReg .taskFmulImm w
  | 0x43 => fltTask .taskFmaReg .taskFmaImm w
  | 0x44 => fltTask0 .taskFminReg .taskFminImm w
  | 0x45 => fltTask0 .taskFmaxReg .taskFmaxImm w
  | 0x46 => fltTask .taskFcmpReg .taskFcmpImm w
  | 0x47 => clearOr w 14 3 (.reservedBits 14) (clearOr w 4 9 (.reservedBits 4) (.ok (.taskCvt (taskD w) (taskA w) (w.extractLsb' 13 1) (w.extractLsb' 3 1) (w.extractLsb' 0 3))))
  | 0x60 => clearOr w 1 20 (.reservedBits 1) (.ok (.taskRecv (taskD w) (w.extractLsb' 0 1)))
  | 0x61 => clearOr w 0 21 (.reservedBits 0) (.ok (.taskPeek (taskD w)))
  | 0x62 => clearOr w 23 2 (.reservedBits 23) (clearOr w 1 12 (.reservedBits 1) (.ok (.taskSend (w.extractLsb' 21 2) (taskA w) (taskB w) (w.extractLsb' 0 1))))
  | 0x63 => clearOr w 23 2 (.reservedBits 23) (clearOr w 0 17 (.reservedBits 0) (.ok (.taskSendm (w.extractLsb' 21 2) (taskA w))))
  | 0x64 => clearOr w 10 3 (.reservedBits 10) (.ok (.taskLdreq (taskD w) (taskA w) (taskB w) (w.extractLsb' 9 1) (w.extractLsb' 7 2) (w.extractLsb' 6 1) (w.extractLsb' 5 1) (w.extractLsb' 3 2) (w.extractLsb' 0 3)))
  | 0x65 => clearOr w 10 3 (.reservedBits 10) (clearOr w 5 1 (.reservedBits 5) (.ok (.taskStreq (taskD w) (taskA w) (taskB w) (w.extractLsb' 9 1) (w.extractLsb' 7 2) (w.extractLsb' 6 1) (w.extractLsb' 3 2) (w.extractLsb' 0 3))))
  | 0x66 => if w.extractLsb' 3 2 = 2#2 then
      .ok (.taskAreq (taskD w) (taskA w) (taskB w) (w.extractLsb' 10 3) (w.extractLsb' 9 1) (w.extractLsb' 7 2) (w.extractLsb' 6 1) (w.extractLsb' 5 1) (w.extractLsb' 0 3))
    else .error (.reservedBits 3)
  | 0x67 => clearOr w 13 12 (.reservedBits 13) (.ok (.taskBr (w.extractLsb' 0 13)))
  | 0x68 => clearOr w 21 4 (.reservedBits 21) (clearOr w 14 3 (.reservedBits 14) (.ok (.taskBrc (taskA w) (w.extractLsb' 13 1) (w.extractLsb' 0 13))))
  | 0x69 => clearOr w 24 1 (.reservedBits 24) (clearOr w 13 4 (.reservedBits 13) (.ok (.taskRep (w.extractLsb' 21 3) (taskA w) (w.extractLsb' 12 1) (w.extractLsb' 8 4) (w.extractLsb' 0 8))))
  | 0x6A => clearOr w 0 25 (.reservedBits 0) (.ok (.taskEnd))
  | 0x6B => clearOr w 13 8 (.reservedBits 13) (.ok (.taskSeti (taskD w) (w.extractLsb' 0 13)))
  | 0x6C => .ok (.taskLui (taskD w) (w.extractLsb' 0 21))
  | 0x6D => clearOr w 23 2 (.reservedBits 23) (clearOr w 7 10 (.reservedBits 7) (.ok (.taskEmita (w.extractLsb' 21 2) (taskA w) (w.extractLsb' 6 1) (w.extractLsb' 5 1) (w.extractLsb' 0 5))))
  | 0x6E => clearOr w 23 2 (.reservedBits 23) (clearOr w 7 10 (.reservedBits 7) (.ok (.taskEmitb (w.extractLsb' 21 2) (taskA w) (w.extractLsb' 6 1) (w.extractLsb' 5 1) (w.extractLsb' 0 5))))
  | 0x6F => clearOr w 1 12 (.reservedBits 1)
    (.ok (if w.getLsbD 0 then .taskSplitEnc (taskD w) (taskA w) (taskB w) else .taskSplitDec (taskD w) (taskA w) (taskB w)))
  | 0x70 => clearOr w 21 4 (.reservedBits 21) (clearOr w 12 5 (.reservedBits 12) (.ok (.taskTrap (taskA w) (w.extractLsb' 0 12))))
  | _ => .error (.unassignedOpcode 25)

/-- A word in register form: opcode, td, ta, tb, imm (R72). -/
def regWord (op : BitVec 7) (d a b : BitVec 4) (imm : BitVec 13) : W32 := op ++ d ++ a ++ b ++ imm

/-- The word of a task-form instruction (R72, R73, R75, R228); none for the others. -/
def encodeTask : Instr → Option W32
  | .taskAddReg d a b n => some (0x1#7 ++ d ++ a ++ b ++ 0x0#9 ++ n ++ 0x0#3)
  | .taskAddImm d a n i => some (0x1#7 ++ d ++ a ++ n ++ 0x1#4 ++ i)
  | .taskSubReg d a b n => some (0x2#7 ++ d ++ a ++ b ++ 0x0#9 ++ n ++ 0x0#3)
  | .taskSubImm d a n i => some (0x2#7 ++ d ++ a ++ n ++ 0x1#4 ++ i)
  | .taskMulReg d a b n => some (0x3#7 ++ d ++ a ++ b ++ 0x0#9 ++ n ++ 0x0#3)
  | .taskMulImm d a n i => some (0x3#7 ++ d ++ a ++ n ++ 0x1#4 ++ i)
  | .taskMulhiReg d a b n => some (0x4#7 ++ d ++ a ++ b ++ 0x0#9 ++ n ++ 0x0#3)
  | .taskMulhiImm d a n i => some (0x4#7 ++ d ++ a ++ n ++ 0x1#4 ++ i)
  | .taskMadReg d a b n => some (0x5#7 ++ d ++ a ++ b ++ 0x0#9 ++ n ++ 0x0#3)
  | .taskMadImm d a n i => some (0x5#7 ++ d ++ a ++ n ++ 0x1#4 ++ i)
  | .taskDivReg d a b n => some (0x6#7 ++ d ++ a ++ b ++ 0x0#9 ++ n ++ 0x0#3)
  | .taskDivImm d a n i => some (0x6#7 ++ d ++ a ++ n ++ 0x1#4 ++ i)
  | .taskRemReg d a b n => some (0x7#7 ++ d ++ a ++ b ++ 0x0#9 ++ n ++ 0x0#3)
  | .taskRemImm d a n i => some (0x7#7 ++ d ++ a ++ n ++ 0x1#4 ++ i)
  | .taskNegReg d a b n => some (0x8#7 ++ d ++ a ++ b ++ 0x0#9 ++ n ++ 0x0#3)
  | .taskNegImm d a n i => some (0x8#7 ++ d ++ a ++ n ++ 0x1#4 ++ i)
  | .taskAbsReg d a b n => some (0x9#7 ++ d ++ a ++ b ++ 0x0#9 ++ n ++ 0x0#3)
  | .taskAbsImm d a n i => some (0x9#7 ++ d ++ a ++ n ++ 0x1#4 ++ i)
  | .taskMinReg d a b n => some (0xA#7 ++ d ++ a ++ b ++ 0x0#9 ++ n ++ 0x0#3)
  | .taskMinImm d a n i => some (0xA#7 ++ d ++ a ++ n ++ 0x1#4 ++ i)
  | .taskMaxReg d a b n => some (0xB#7 ++ d ++ a ++ b ++ 0x0#9 ++ n ++ 0x0#3)
  | .taskMaxImm d a n i => some (0xB#7 ++ d ++ a ++ n ++ 0x1#4 ++ i)
  | .taskAddsatReg d a b n => some (0xC#7 ++ d ++ a ++ b ++ 0x0#9 ++ n ++ 0x0#3)
  | .taskAddsatImm d a n i => some (0xC#7 ++ d ++ a ++ n ++ 0x1#4 ++ i)
  | .taskSubsatReg d a b n => some (0xD#7 ++ d ++ a ++ b ++ 0x0#9 ++ n ++ 0x0#3)
  | .taskSubsatImm d a n i => some (0xD#7 ++ d ++ a ++ n ++ 0x1#4 ++ i)
  | .taskAndReg d a b n => some (0x10#7 ++ d ++ a ++ b ++ 0x0#9 ++ n ++ 0x0#3)
  | .taskAndImm d a n i => some (0x10#7 ++ d ++ a ++ n ++ 0x1#4 ++ i)
  | .taskOrReg d a b n => some (0x11#7 ++ d ++ a ++ b ++ 0x0#9 ++ n ++ 0x0#3)
  | .taskOrImm d a n i => some (0x11#7 ++ d ++ a ++ n ++ 0x1#4 ++ i)
  | .taskXorReg d a b n => some (0x12#7 ++ d ++ a ++ b ++ 0x0#9 ++ n ++ 0x0#3)
  | .taskXorImm d a n i => some (0x12#7 ++ d ++ a ++ n ++ 0x1#4 ++ i)
  | .taskAndnReg d a b n => some (0x13#7 ++ d ++ a ++ b ++ 0x0#9 ++ n ++ 0x0#3)
  | .taskAndnImm d a n i => some (0x13#7 ++ d ++ a ++ n ++ 0x1#4 ++ i)
  | .taskNotReg d a b n => some (0x14#7 ++ d ++ a ++ b ++ 0x0#9 ++ n ++ 0x0#3)
  | .taskNotImm d a n i => some (0x14#7 ++ d ++ a ++ n ++ 0x1#4 ++ i)
  | .taskShlReg d a b n => some (0x15#7 ++ d ++ a ++ b ++ 0x0#9 ++ n ++ 0x0#3)
  | .taskShlImm d a n i => some (0x15#7 ++ d ++ a ++ n ++ 0x1#4 ++ i)
  | .taskShrReg d a b n => some (0x16#7 ++ d ++ a ++ b ++ 0x0#9 ++ n ++ 0x0#3)
  | .taskShrImm d a n i => some (0x16#7 ++ d ++ a ++ n ++ 0x1#4 ++ i)
  | .taskSarReg d a b n => some (0x17#7 ++ d ++ a ++ b ++ 0x0#9 ++ n ++ 0x0#3)
  | .taskSarImm d a n i => some (0x17#7 ++ d ++ a ++ n ++ 0x1#4 ++ i)
  | .taskRolReg d a b n => some (0x18#7 ++ d ++ a ++ b ++ 0x0#9 ++ n ++ 0x0#3)
  | .taskRolImm d a n i => some (0x18#7 ++ d ++ a ++ n ++ 0x1#4 ++ i)
  | .taskClzReg d a b n => some (0x19#7 ++ d ++ a ++ b ++ 0x0#9 ++ n ++ 0x0#3)
  | .taskClzImm d a n i => some (0x19#7 ++ d ++ a ++ n ++ 0x1#4 ++ i)
  | .taskCtzReg d a b n => some (0x1A#7 ++ d ++ a ++ b ++ 0x0#9 ++ n ++ 0x0#3)
  | .taskCtzImm d a n i => some (0x1A#7 ++ d ++ a ++ n ++ 0x1#4 ++ i)
  | .taskPopcReg d a b n => some (0x1B#7 ++ d ++ a ++ b ++ 0x0#9 ++ n ++ 0x0#3)
  | .taskPopcImm d a n i => some (0x1B#7 ++ d ++ a ++ n ++ 0x1#4 ++ i)
  | .taskBrevReg d a b n => some (0x1C#7 ++ d ++ a ++ b ++ 0x0#9 ++ n ++ 0x0#3)
  | .taskBrevImm d a n i => some (0x1C#7 ++ d ++ a ++ n ++ 0x1#4 ++ i)
  | .taskBfxReg d a b n => some (0x1D#7 ++ d ++ a ++ b ++ 0x0#9 ++ n ++ 0x0#3)
  | .taskBfxImm d a n i => some (0x1D#7 ++ d ++ a ++ n ++ 0x1#4 ++ i)
  | .taskBfiReg d a b n => some (0x1E#7 ++ d ++ a ++ b ++ 0x0#9 ++ n ++ 0x0#3)
  | .taskBfiImm d a n i => some (0x1E#7 ++ d ++ a ++ n ++ 0x1#4 ++ i)
  | .taskCmpReg d a b n c => some (0x20#7 ++ d ++ a ++ b ++ 0x0#9 ++ n ++ c)
  | .taskCmpImm d a n c i => some (0x20#7 ++ d ++ a ++ n ++ c ++ 0x1#1 ++ i)
  | .taskSelReg d a b n => some (0x21#7 ++ d ++ a ++ b ++ 0x0#9 ++ n ++ 0x0#3)
  | .taskSelImm d a n i => some (0x21#7 ++ d ++ a ++ n ++ 0x1#4 ++ i)
  | .taskFaddReg d a b m => some (0x40#7 ++ d ++ a ++ b ++ 0x0#10 ++ m)
  | .taskFaddImm d a m i => some (0x40#7 ++ d ++ a ++ 0x0#1 ++ m ++ 0x1#1 ++ i)
  | .taskFsubReg d a b m => some (0x41#7 ++ d ++ a ++ b ++ 0x0#10 ++ m)
  | .taskFsubImm d a m i => some (0x41#7 ++ d ++ a ++ 0x0#1 ++ m ++ 0x1#1 ++ i)
  | .taskFmulReg d a b m => some (0x42#7 ++ d ++ a ++ b ++ 0x0#10 ++ m)
  | .taskFmulImm d a m i => some (0x42#7 ++ d ++ a ++ 0x0#1 ++ m ++ 0x1#1 ++ i)
  | .taskFmaReg d a b m => some (0x43#7 ++ d ++ a ++ b ++ 0x0#10 ++ m)
  | .taskFmaImm d a m i => some (0x43#7 ++ d ++ a ++ 0x0#1 ++ m ++ 0x1#1 ++ i)
  | .taskFminReg d a b => some (0x44#7 ++ d ++ a ++ b ++ 0x0#13)
  | .taskFminImm d a i => some (0x44#7 ++ d ++ a ++ 0x1#5 ++ i)
  | .taskFmaxReg d a b => some (0x45#7 ++ d ++ a ++ b ++ 0x0#13)
  | .taskFmaxImm d a i => some (0x45#7 ++ d ++ a ++ 0x1#5 ++ i)
  | .taskFcmpReg d a b c => some (0x46#7 ++ d ++ a ++ b ++ 0x0#10 ++ c)
  | .taskFcmpImm d a c i => some (0x46#7 ++ d ++ a ++ 0x0#1 ++ c ++ 0x1#1 ++ i)
  | .taskCvt d a v n m => some (0x47#7 ++ d ++ a ++ 0x0#3 ++ v ++ 0x0#9 ++ n ++ m)
  | .taskRecv d w => some (0x60#7 ++ d ++ 0x0#20 ++ w)
  | .taskPeek d => some (0x61#7 ++ d ++ 0x0#21)
  | .taskSend k a b w => some (0x188#9 ++ k ++ a ++ b ++ 0x0#12 ++ w)
  | .taskSendm k a => some (0x18C#9 ++ k ++ a ++ 0x0#17)
  | .taskLdreq d a b t j w x z s => some (0x64#7 ++ d ++ a ++ b ++ 0x0#3 ++ t ++ j ++ w ++ x ++ z ++ s)
  | .taskStreq d a b k j w z s => some (0x65#7 ++ d ++ a ++ b ++ 0x0#3 ++ k ++ j ++ w ++ 0x0#1 ++ z ++ s)
  | .taskAreq d a b o r j w x s => some (0x66#7 ++ d ++ a ++ b ++ o ++ r ++ j ++ w ++ x ++ 0x2#2 ++ s)
  | .taskBr i => some (0x67000#19 ++ i)
  | .taskBrc a n i => some (0x680#11 ++ a ++ 0x0#3 ++ n ++ i)
  | .taskRep m a c s n => some (0xD2#8 ++ m ++ a ++ 0x0#4 ++ c ++ s ++ n)
  | .taskEnd => some (0xD4000000#32)
  | .taskSeti d v => some (0x6B#7 ++ d ++ 0x0#8 ++ v)
  | .taskLui d u => some (0x6C#7 ++ d ++ u)
  | .taskEmita k a e p w => some (0x1B4#9 ++ k ++ a ++ 0x0#10 ++ e ++ p ++ w)
  | .taskEmitb k a e p w => some (0x1B8#9 ++ k ++ a ++ 0x0#10 ++ e ++ p ++ w)
  | .taskSplitDec d a b => some (0x6F#7 ++ d ++ a ++ b ++ 0x0#13)
  | .taskSplitEnc d a b => some (0x6F#7 ++ d ++ a ++ b ++ 0x1#13)
  | .taskTrap a c => some (0x700#11 ++ a ++ 0x0#5 ++ c)
  | _ => none

/-! ## Bytes and the host's word -/

/-- The bytes of an instruction as they stand in memory, the lowest address first; none for a device step. -/
def encode (i : Instr) : List Byte :=
  match encodeGraph i, encodeTask i with
  | some w, _ => wordBytes 8 w.toNat
  | none, some w => wordBytes 4 w.toNat
  | none, none => []

/-- The instruction in the bytes of a slot of a dataflow block (8 bytes) or of half a slot of a task block (4 bytes). -/
def decodeBytes (bs : List Byte) : Except Reject Instr :=
  if bs.length = 8 then decodeGraph (BitVec.ofNat 64 (bytesNat bs)) else decodeTask (BitVec.ofNat 32 (bytesNat (bs.take 4)))

/-- The instruction the decoder reads from an instruction whose bits are `w`: a task word of 32 bits or a slot of 64. -/
def decodeTableWord (nbits w : Nat) : Option Instr :=
  match decodeBytes (wordBytes (if nbits ≤ 32 then 4 else 8) (w % 2 ^ nbits)) with
  | .ok i => some i
  | .error _ => none

end Sys2Proof
end

