-- ==== Sys2Proof/Machine/State.lean ====
section
/-! DEFINITION. The state of an RS8800 package as plain data: planes with their nodes and task-mode PEs, memories, the
dispatcher's tables, registers, links and engines, and the two fields of the model's own that say which agent moves
next. Docstrings name the rules that give each piece. -/

namespace Sys2Proof.Machine

/-- A table with natural-number keys. -/
abbrev Map (α : Type) := List (Nat × α)

/-! ## Tokens and channels (R30 to R35, R140, R141) -/

/-- One virtual token: data, a marker, poison (R30 to R33), an ordering token (R34), or a row group on its way to a
matrix engine (R240, R245). -/
inductive Token where
  | data (v : W64)
  | marker (level : BitVec 3) (round status : BitVec 8)
  | poison (cause : BitVec 8)
  | ord
  | beat (words : List W32)
deriving DecidableEq, Repr

/-- A track that a channel holds, with the buffer of physical tokens that its router keeps for the plane (R177, R178), the number
of its plane's grants from which it may move a token, and the one in which it last moved one. -/
structure Hop where
  track : Track
  buf   : List (BitVec 34) := []
  rest  : Nat := 0
  moved : Nat := 0
deriving DecidableEq, Repr

/-- A channel at its consumer: its tokens in order, how many of the first are marked by issued firings, and the room
that issued firings and requests have reserved (R141, R274), in physical tokens where the channel enters. `hops` are the tracks
that lie between the producer and the consumer, `half` the low word of a 64-bit value whose high word has still to come (R30),
`wide` says that the channel carries 64-bit values, `ord` that it carries ordering
tokens, `cap` is the capacity of the consumer's queue in physical tokens. -/
structure Queue where
  toks     : List Token := []
  marked   : Nat := 0
  reserved : Nat := 0
  hops     : List Hop := []
  half     : Option W32 := none
  wide     : Bool := false
  ord      : Bool := false
  cap      : Option Nat := none
deriving DecidableEq, Repr

/-- Where a target leads: an operand of a node of the plane, an argument channel of a task-mode PE, an exit port of the
load, or a CPYM that a receiver returns its slots to. -/
inductive Dest where
  | operand (node : Nat) (op : Operand)
  | pe (pe : Nat) (queue : Nat)
  | exit (port : Nat)
  /-- Operand p of a CPYM, from its receiver j (R350). -/
  | slotOf (node : Nat) (j : Nat)
deriving DecidableEq, Repr

/-! ## Operator state (R183, R194 to R218) -/

/-- States of CARRY and INVAR: INIT or EMPTY, LOOP or HOLD, ECHO (R194, R195). -/
inductive LoopState where
  | idle | busy | echo
deriving DecidableEq, Repr

/-- A partial of a reduction: a value, its index for argmin and argmax (R137, R215). -/
structure Partial where
  value : W64
  index : Nat := 0
deriving DecidableEq, Repr

/-- A matrix fragment engine's state in one plane (R242, R255, R256): cells and poison causes in row-major order, the
values still to be read out, the row groups latched for the next step, the scale tokens of the current block, k0, the
tensor index, the point reached, the last cycle in which an issued step updates a cell, the flags of issued steps with the cycles in
which these complete (R251), and the boundary marker that has passed while a tensor start was pending (R250). -/
inductive MfePoint where
  | start | load (row col : Nat) | run | boundary (m : Token) (step : Nat) | ended
deriving DecidableEq, Repr
structure Mfe where
  acc     : List W64 := []
  pois    : List (Option (BitVec 8)) := []
  readout : List Token := []
  latchA  : List Token := []
  latchB  : List Token := []
  scaleA  : List Token := []
  scaleB  : List Token := []
  k0      : Nat := 0
  tensor  : Nat := 0
  point   : MfePoint := .start
  busy    : Nat := 0
  due     : List (Nat × FpFlags) := []
  behind  : Option Token := none
deriving DecidableEq, Repr

/-- The state of an operator, by kind. -/
inductive OpState where
  | plain
  /-- CARRY and INVAR with the value held (R194, R195). -/
  | loop (s : LoopState) (v : Option Token)
  /-- COUNT part-way through its range: the next value, and whether only the marker is left (R199). -/
  | count (next : Option Int)
  /-- MARK: tokens counted, a pending marker (R200). -/
  | mark (n : Nat) (pending : Bool)
  /-- ZIP: which operand's turn, and how many of its group are taken (R204). -/
  | zip (turn taken : Nat)
  /-- JOIN: ordering tokens counted on a, b, c, p (R206). -/
  | join (a b c p : Nat)
  /-- BAR: the count still to pass, once taken (R207). -/
  | bar (left : Option Nat)
  /-- RED, REDX, SCAN: the partials, the elements seen in the group, the first poison (R137, R214). -/
  | red (ps : List (Option Partial)) (n : Nat) (pois : Option (BitVec 8))
  /-- FILT and CMPCT: tokens counted in the group (R217, R218). -/
  | tally (n : Nat)
  /-- SCAT, GATH, SCATX: the base held and the stores of the group (R285, R321). -/
  | base (b : Option Token)
  /-- SLD, SST, SPLD, TRAPRD.all: the next element of the firing (R320, R433); AGEN: the step at which it
  resumes (R284). -/
  | elem (i : Nat)
  /-- AGEN: the descriptor's words and the next step of its nest (R282). -/
  | agen (d : List W64) (i : Nat)
  /-- BINRUN: the next bin of the firing, and the rounds closed when it began (R329). -/
  | run (bin closed : Nat)
  /-- BINRUN with a bin's range staged and its records applied there: how many records it took, and where the pieces of the range
  live, as offset, bytes and place (R329, R330). -/
  | replay (bin closed taken : Nat) (places : List (Nat × Nat × Nat))
  /-- CPY and CPYM: the words of the packet so far, the free-slot counters, the receivers whose returned slots have
  arrived and not been counted, and the cycle from which it has waited for a place in its port (R336, R341, R350). -/
  | copy (words : List Token) (counts returns : List Nat) (since : Option Nat)
  /-- The engine of an MXOP or MXTILE. -/
  | mfe (m : Mfe)
  /-- MXSC: the tokens of the scale group so far (R246). -/
  | scales (ts : List Token)
deriving DecidableEq, Repr

/-! ## Faults (R421 to R427) -/

/-- What a fault's record says beside its plane's part: cause, access kind, iteration vector, operand values, virtual
address (R425, R426). `md` is the memory-port die that detects it, where one does (R20); `slot` is the slot that it names, where that
is not where its agent stands now. -/
structure FaultInfo where
  cause  : Nat
  access : Nat := 0
  iter   : Option (List Nat) := none
  opv    : Option (List W64) := none
  vaddr  : W64 := 0#64
  md     : Option Nat := none
  slot   : Option Nat := none
deriving DecidableEq, Repr

/-- A fault detected in a plane and held until its record is acknowledged (R29, R421). -/
structure HeldFault where
  who     : Option Asker
  info    : FaultInfo
  version : Nat
  block   : Nat
  slot    : Nat
  time    : W64
  die     : Nat
  fatal   : Bool := false
deriving DecidableEq, Repr

/-- What TRAPACK has granted to the re-firing of an agent: nothing, a check acknowledged, or traps masked (R427). -/
inductive Grant where
  | none | retry (cause : Nat) | mask (cause : Nat)
deriving DecidableEq, Repr

/-! ## Memory requests (R274, R277, R300, R354) -/

/-- Atomic operators (R288), with the task forms' signed min and max (R229). -/
inductive AtomOp where
  | add | min | max | and | or | xor | xchg | cas | incb | fadd | minp | rd
deriving DecidableEq, Repr

/-- What a request does at its home. A value that is `none` is poison, and is written poisoned (R39). -/
inductive Access where
  | load (ty : Ty) (size : Nat) (acq : Bool)
  | store (size : Nat) (v : Option W64) (ack : Bool)
  | ldfe (ty : Ty) (size : Nat) (clr : Bool)
  | stfe (size : Nat) (v : Option W64) (force : Bool)
  | feclr | feset | fetest
  | atomic (op : AtomOp) (ty : Ty) (b : W64) (c : Option W64) (returns : Bool)
  | push (t : Token) | pop
  | line (last : Bool)
  | beat (bytes : Nat)
  | beatWrite (words : List W32) (pois : Bool)
  | bring
  /-- An init and a pull at a range server (R332, R333). -/
  | rangeInit (range : Nat) (lo hi : Int)
  | rangePull (range chunk : Nat) (ty : Ty)
  | binAppend (bin : Nat) (op : Nat) (ty : Ty) (v : Option W64) (rnd : Bool)
  | fence (scope : Nat)
  /-- A copy's read and write of a peer's memory (R342, R381); a word that is `none` is poisoned. -/
  | copyRead (bytes : Nat)
  | copyWrite (words : List (Option W32))
  /-- Tokens that wait their turn behind the replies of earlier requests: a marker, a passed poison, an acknowledgment. -/
  | pass (emits : List (Nat × Token))
  /-- The return token of a child task, by the child's number (R403). -/
  | child (serial : Nat)
  /-- An end-of-round marker m: as `pass`, and only once every tile of every rounded region has closed the round (R293). -/
  | close (m : Token) (emits : List (Nat × Token))
  /-- The end of a stream's request: as `pass`, with the POISON bit of the group in its marker (R31). -/
  | ending (emits : List (Nat × Token))
deriving DecidableEq, Repr

/-- One request in flight. `addr` is the virtual address, `loc` where it lives once its probe has passed, `md` the near
memory-port die, `nth` the firing of the node that issued it (R354), `round` the round of a rounded request (R293).
`parked` is its place among the parked requests in order of arrival (R277), `held` that it waits for a wave predecessor or
for its turn in a round (R293, R354), `timed` that it timed out and
awaits its new start, `lost` that it is the remainder of one that timed out (R442). `slot` and `act` are the task slot and the activation that
issued it (R235, R236). A space-5 request keeps what its firing takes and counts,
and the operator state that follows, until the peer has answered its probe (R314). -/
structure Request where
  id      : Nat
  who     : Asker
  acc     : Access
  space   : Nat
  addr    : W64
  loc     : Nat
  size    : Nat
  issued  : Nat
  nth     : Nat := 0
  elem    : Nat := 0
  round   : Nat := 0
  parked  : Option Nat := none
  held    : Bool := false
  done    : Bool := false
  lost    : Bool := false
  replies : List (Nat × Token) := []
  tag     : Option W32 := none
  chan    : Nat := 0
  md      : Nat := 0
  takes   : List Nat := []
  after   : Option OpState := none
  counted : Bool := false
  data    : Nat := 0
  iter    : Option (List Nat) := none
  opv     : Option (List W64) := none
  device  : Bool := false
  timed   : Bool := false
  slot    : Option Nat := none
  act     : Nat := 0
deriving DecidableEq, Repr

/-- A firing issued on a PE and not yet complete (R141): what it takes, emits and raises when it completes. `ticks` is the reading of
its die's counter that a WAITC waits for (R176). -/
structure Issued where
  node  : Nat
  due   : Nat
  takes : List Nat
  emits : List (Nat × Token)
  flags : FpFlags
  fault : Option FaultInfo := none
  data  : Nat := 0
  dep   : Bool := false
  ticks : Option Nat := none
  st    : Option OpState := none
  cycle : Nat := 0
  counted : Bool := false
deriving DecidableEq, Repr

/-! ## Planes (R24, R25, R28, R219 to R241) -/

/-- What a node keeps of its block's header (R60, R127). -/
structure BlockInfo where
  id      : Nat := 0
  version : Nat := 1
  kind    : Nat := 0
  pattern : Nat := 0
  policy  : BitVec 8 := 0#8
  widthLog2 : Nat := 0
  features : Nat := 0
deriving DecidableEq, Repr

/-- One placed instance of a virtual instruction: its plane word, where it came from and stands, where its targets lead,
its operand queues and its state. `copy` numbers the block's copies of one load (R43), `fired` lists the cycles of the
firings that consumed data or poison (R354), oldest first, `rounds` and `barriers` count the end-of-round markers and the
level 6 and 7 markers that it has passed or that have reached it as a sink (R42, R293). `rest` is the number of its plane's granted
cycles from which its router slot may fire again (R182); `charged` says that the governor has been charged for a firing that has
issued and has still to go on (R144). `near` and `point` are the memory-port die and the number of its attach point (R18, R296), and
`pois` says that a stream has delivered poison in the group that it has still to close (R31). -/
structure Node where
  word   : W64
  info   : BlockInfo := {}
  slot   : Nat := 0
  copy   : Nat := 0
  place  : Place := .none
  outs   : List (Option Dest) := []
  fed    : BitVec 4 := 0#4
  a      : Queue := {}
  b      : Queue := {}
  c      : Queue := {}
  p      : Queue := {}
  st     : OpState := .plain
  e      : Nat := 0
  round  : BitVec 8 := 0#8
  fired  : List Nat := []
  firings : Nat := 0
  grant  : Grant := .none
  window : Nat := 8
  near   : Nat := 0
  port   : Nat := 0
  refs   : List Nat := []
  rounds : Nat := 0
  barriers : Nat := 0
  rest   : Nat := 0
  charged : Bool := false
  point  : Nat := 0
  pois   : Bool := false
deriving DecidableEq, Repr

/-- REP under way: repetitions done and asked for, step mask and stride (R233). -/
structure Rep where
  k      : Nat
  count  : Nat
  mask   : BitVec 3
  stride : Nat
deriving DecidableEq, Repr

/-- An activation in progress (R223 to R226): its bound channel, the pc, the instructions counted. -/
structure Activation where
  chan  : Nat
  pc    : Nat
  count : Nat := 0
  rep   : Option Rep := none
deriving DecidableEq, Repr

/-- A task register and its poison tag (R220). -/
structure TaskReg where
  v   : W32 := 0#32
  tag : Option (BitVec 8) := none
deriving DecidableEq, Repr

/-- A PE in task mode (R219 to R240): the task store, the static figures of R222 and R227, registers, staging rows, and
the activation in progress. `chans` holds the input channels and then the reply channels; `ages` counts the dispatches
that each channel has been runnable through, and `widths` says of each reply waiting on y0 to y3 whether it is a 64-bit
token. `barriers` counts the level 6 and 7 markers consumed from each channel (R42); `charged` says that the instruction at the pc has issued and has
still to go on (R225); `acts` counts its activations. -/
structure TaskPe where
  words  : List W32 := []
  info   : BlockInfo := {}
  place  : Place := .none
  inputs : Nat := 1
  starts : List Nat := []
  wide   : List Bool := []
  chans  : List Queue := []
  widths : List (List Bool) := [[], [], [], []]
  ages   : List Nat := []
  outs   : List (List Dest) := []
  outWide : List Bool := []
  sendMax : List (List Nat) := []
  replyMax : List (List Nat) := []
  regs   : List TaskReg := []
  rowA   : List TaskReg := []
  rowB   : List TaskReg := []
  act    : Option Activation := none
  grant  : Grant := .none
  busy   : Nat := 0
  near   : Nat := 0
  barriers : List Nat := []
  charged : Bool := false
  point  : Nat := 0
  acts   : Nat := 0
deriving DecidableEq, Repr

/-- One memory tile's allotment to a plane (R265, R266): its region, mode and parameters. -/
structure TileAlloc where
  region  : Nat
  mode    : Nat
  rounded : Bool := false
  buffers : Nat := 1
  bytes   : Nat := 0
  ty      : Ty := .tok
  lines   : Nat := 1
  len     : Nat := 1
deriving DecidableEq, Repr

/-- A line buffer's column, line and elements (R280). -/
structure LineBuf where
  x : Nat := 0
  y : Nat := 0
  cells : List (Nat × Token) := []
deriving DecidableEq, Repr

/-- A tile of a rounded region: its round counter and, for each input node whose end-of-round marker has arrived, that
marker (R293). -/
structure RoundTile where
  counter : BitVec 8 := 0#8
  closed  : Nat := 0
  arrived : List (Nat × Token) := []
deriving DecidableEq, Repr

/-- Memory held as bytes: the cells whose byte is not 0, and the 4-byte words whose poison mark is set (R264, R301). -/
structure Memory where
  cells : List Host.Cell := []
  marks : List Nat := []
deriving DecidableEq, Repr

/-- A range server held by a plane (R331). -/
structure RangeServer where
  range : Nat
  md    : Nat
  next  : Int := 0
  hi    : Int := 0
deriving DecidableEq, Repr

inductive PlaneState where
  | free | config | live | frozen | ending | saving
deriving DecidableEq, Repr

/-- One paddock plane (R28): its state and the state that it froze or is being saved from, the task, the tack-store entry
whose words it holds, how often they have been written (R454), its figures, the load's nodes, task PEs and memory tiles,
the firings issued and the requests in flight, the faults held and the one whose record stands in a slot of the trap area
(R29, R424), the watchdog (R440), the claimant that has selected it, the pages and the held KiB of its save (R444, R445), the argument tokens to deliver and the return
token (R400), and the number of cycles that its sequencer has granted it. -/
structure Plane where
  st       : PlaneState := .free
  before   : PlaneState := .live
  ctx      : Nat := 0
  colour   : Nat := 0
  entry    : Option Nat := none
  writes   : Nat := 0
  handler  : Bool := false
  prio     : Nat := 0
  seed     : W64 := 0#64
  cap      : Nat := 2
  nodes    : List Node := []
  pes      : List TaskPe := []
  tiles    : List TileAlloc := []
  sram     : Memory := {}
  full     : List Nat := []
  fifos    : Map (List Token) := []
  lbufs    : Map LineBuf := []
  rounds   : Map RoundTile := []
  servers  : List RangeServer := []
  flags    : FpFlags := 0#5
  issued   : List Issued := []
  reqs     : List Request := []
  faults   : List HeldFault := []
  freezeAt : Option Nat := none
  froze    : Nat := 0
  resuming : Bool := false
  shown    : Option HeldFault := none
  record   : Option Nat := none
  watchdog : Nat := 0
  reload   : Bool := false
  claimed  : Option Nat := none
  pages    : Nat := 0
  stay     : Nat := 0
  bound    : Nat := 0
  abandon  : Bool := false
  args     : List (Nat × Token) := []
  slots    : Nat := 0
  kib      : Nat := 0
  result   : Option Token := none
  active   : Bool := false
  level    : Nat := 0
  waited   : Nat := 0
  grants   : Nat := 0
deriving DecidableEq, Repr

/-- A paddock: its rectangle, its planes, its frame table, the plane last granted and, by level, the one last granted at
that level (R25, R412, R413). `grant` holds the cycle last decided and the plane it went to. -/
structure Paddock where
  x0 : Nat
  y0 : Nat
  w  : Nat
  h  : Nat
  planes : List Plane := []
  frame  : List Nat := []
  held   : List (Nat × Nat) := []
  last   : Nat := 3
  lasts  : Map Nat := []
  grant  : Option (Nat × Option Nat) := none
deriving DecidableEq, Repr

/-- The governor, issue ports and special-function unit of one compute tile (R142, R143, R414, R415). `charges` lists
(cycle, units), `blocks` the cycles of blocked candidates, `mfe` the cycles of MFE steps. -/
structure Tile where
  charges : List (Nat × Nat) := []
  blocks  : List Nat := []
  mfe     : List Nat := []
  busy    : List Nat := []
  mfeBusy : Nat := 0
  streak  : List Nat := []
  urgent  : List Nat := []
  sfuLast : Nat := 7
  sfuBusy : Nat := 0
  pass    : Option (Nat × List Nat × Bool) := none
deriving DecidableEq, Repr

/-! ## Address translation (R309) -/

/-- A TLB entry: context, page number and size, and the leaf; or, where `ptr`, a pointer met on the way, whose frame is the next
table. -/
structure TlbEntry where
  asid : Nat
  page : Nat
  bits : Nat
  frame : Nat
  host : Bool
  device : Bool
  write : Bool
  ptr : Bool := false
deriving DecidableEq, Repr

/-- A table walk for a page of a context at a memory-port die, for one agent that waits for it: the tables met since a walker took it,
each with its level, the one that it reads next first. `cluster` is the first-level TLB that its agent uses. -/
structure Walk where
  asid : Nat
  va   : W64
  md   : Nat
  space : Nat
  write : Bool
  atomic : Bool
  plane : Option PlaneId
  who  : Option Asker
  size : Nat
  iter : Option (List Nat) := none
  opv  : Option (List W64) := none
  access : Nat := 1
  since : Nat := 0
  cluster : Option Nat := none
  met   : List (Nat × Nat) := []
  slot  : Option Nat := none
deriving DecidableEq, Repr

/-! ## Port caches (R299, R305) -/

/-- A line that a port cache holds: its number, whether it is dirty, and whether it was filled at the lowest priority (R305). -/
structure CacheLine where
  line  : Nat
  dirty : Bool := false
  low   : Bool := false
deriving DecidableEq, Repr

/-- What waits at a home for a request slot: a request of a plane, the copy at the head of a copy port, the requests of a peer at a Flithe
port, or the walk of a page at a die. -/
inductive SlotWaiter where
  | request (p : PlaneId) (id : Nat)
  | port (key : Nat)
  | peer (key : Nat)
  | walk (md asid page : Nat)
deriving DecidableEq, Repr

/-- A system-cache copy of a host line for one memory-port die: its 128 bytes, the words poisoned, and the cycle of the
oldest host-memory write that it does not show (R363). -/
structure HostCopy where
  md    : Nat
  line  : Nat
  bytes : List Byte
  marks : List Nat := []
  since : Option Nat := none
deriving DecidableEq, Repr

/-! ## Copy engines (R335 to R348) -/

/-- A copy accepted by a port (R336 to R342): its node, its packet, where the pieces of its source and of each
destination live, its completion cells, and how far it has come: bytes done, the words of the granule in hand, how many
of its writes or elements are made, arrivals made, a peer's answer awaited, poison read, a timeout, the cycle of its last
progress, the pages of device type that it reads and writes (R305, R313). -/
structure Copy where
  plane : PlaneId
  node  : Nat
  words : List W64
  chan  : Bool
  ty    : Ty := .tok
  space : Nat
  md    : Nat := 0
  src   : List (Nat × Nat) := []
  dsts  : List (List (Nat × Nat)) := []
  cells : List Nat := []
  iter  : List Nat := []
  opv   : List W64 := []
  done  : Nat := 0
  got   : Option (List (Option W32)) := none
  made  : Nat := 0
  arrived : Nat := 0
  peer  : Option Nat := none
  pois  : Bool := false
  timed : Bool := false
  since : Nat := 0
  devs  : List Nat := []
deriving DecidableEq, Repr

/-! ## Binning (R325 to R330) -/

/-- A record of a bin: address, value, operator, type and, in rounded mode, its round, rank and element. While its round is open,
`owner` is the task whose load appended it and `round` that load's round; once it is closed, `round` is its place among the rounds
that the engine has closed for the context. -/
structure BinRec where
  addr : W64
  v    : Option W64
  op   : Nat
  ty   : Ty
  round : Option Nat := none
  rank  : Nat := 0
  elem  : Nat := 0
  owner : Option Nat := none
deriving DecidableEq, Repr

/-! ## Dispatcher (R391 to R410) -/

/-- States of a task (R392). A task that is abandoned while its plane has still to reach FREE is `ending`. -/
inductive TaskState where
  | waiting | ready | bound | ending | complete
deriving DecidableEq, Repr

/-- A row of the dependence table: the task's number among all tasks ever inserted, its context, its load and the address
of its argument record, its tag, the priority it was inserted with, the level it has reached and since which cycle, the
tasks that it waits for, its plane. A handler task has its record's slot. `wantRet` says that a host launch set ret;
`parent`, `handle` and `awaited` name the spawner of a child, the handle, and whether its return token is wanted.
`refused` is the fault that its binding met, and `shown` the slot of that fault's record. `restores` is the colour of the
saved task that a restore brings back. `mask` is TRN_POLICY.features as its binding sampled it (R106), and `chosen` the tack-store
entry that its binding has selected and pinned (R103). -/
structure Task where
  serial : Nat := 0
  ctx    : Nat
  ico    : W64
  load   : Nat
  args   : W64 := 0#64
  tag    : W32 := 0#32
  prio   : Nat := 0
  level  : Nat := 0
  since  : Nat := 0
  preds  : List Nat := []
  st     : TaskState := .waiting
  plane  : Option PlaneId := none
  handler : Bool := false
  record : Option Nat := none
  wantRet : Bool := false
  parent : Option Nat := none
  handle : W64 := 0#64
  awaited : Bool := false
  result : Option Token := none
  abandoned : Bool := false
  cause  : Nat := 0
  refused : Option HeldFault := none
  refusedAt : Nat := 0
  shown  : Option Nat := none
  restores : Option Nat := none
  mask   : Option W64 := none
  chosen : Option Nat := none
deriving DecidableEq, Repr

/-- A launch record in a context's launch buffer (R388, R396). -/
structure Launch where
  prio  : Nat := 0
  ret   : Bool := false
  ico   : W64 := 0#64
  load  : Nat := 0
  args  : W64 := 0#64
  tag   : W32 := 0#32
  preds : List W32 := []
deriving DecidableEq, Repr

/-! ## The tack store (R102 to R105) -/

/-- A parameter record of a load: entry port, type, offset and bytes (R58, R400). -/
structure Param where
  port   : Nat
  ty     : Ty
  offset : Nat
  bytes  : Nat
deriving DecidableEq, Repr

/-- What a translation holds of one load: the nodes, task PEs and tiles as they stand on entering LIVE, the header's
figures that binding reads (R91, R92), the parameters with what the entry block's ports lead to, and the ranges used. -/
structure Image where
  nodes  : List Node := []
  pes    : List TaskPe := []
  tiles  : List TileAlloc := []
  width  : Nat := 1
  height : Nat := 1
  parity : Nat := 0
  bx     : Nat := 0
  bY     : Nat := 0
  edges  : BitVec 4 := 0#4
  cap    : Nat := 2
  kib    : Nat := 0
  slots  : Nat := 0
  entries : List (Nat × Dest) := []
  params : List Param := []
  ranges : List Nat := []
deriving DecidableEq, Repr

/-- A tack-store entry: the identity of its load (R93), its image, pages, the die time of its most recent binding, whether
it is retiring (R105), whether its own copy reads back uncorrectable (R453). -/
structure TackEntry where
  digest : BitVec 384
  load   : Nat
  mask   : Nat
  gen    : W32
  image  : Image
  pages  : Nat := 1
  last   : W64 := 0#64
  retiring : Bool := false
  bad    : Bool := false
  filling : Bool := false
deriving DecidableEq, Repr

/-- What the translator's choices for an image depend on (R89, R93): the identity, and the content digest of a native image that it
admits, 0 where it translates. -/
structure PlanKey where
  digest : BitVec 384
  load   : Nat
  mask   : Nat
  gen    : W32
  native : BitVec 384 := 0#384
deriving DecidableEq, Repr

/-- A graph that a context has bound from: the address of its ICO, the digest computed then, and the bytes read then, as
pieces with their byte offsets (R81, R99). -/
structure Graph where
  ico    : W64
  digest : BitVec 384
  parts  : List (Nat × List Byte) := []
deriving DecidableEq, Repr

/-! ## Saves (R444 to R450) -/

/-- The saved state of a plane, the pages of the save area it takes, the paddock it came from, the KiB of each memory
tile that stay there as held storage, and the actions of the TRAPACKs recorded meanwhile (R435, R445). -/
structure Saved where
  plane : Plane
  pages : Nat
  pid   : PlaneId
  kib   : Nat := 0
  acks  : List Nat := []
deriving DecidableEq, Repr

/-! ## Lanes, links, host (R370 to R390) -/

/-- A turnable edge (R370 to R373): the share of its first direction, the share it is turning to and since when, the
cycle in which its last turn began, the pending requests (context and share) in arrival order, the standing splits in
rotation order, and the requests made in a cycle, which join the queue after it (R374). -/
structure Edge where
  share  : Nat := 2
  target : Option Nat := none
  last   : Int := -8192
  queue  : List (Nat × Nat) := []
  standing : List (Nat × Nat) := []
  asks   : List (Nat × Nat × Nat) := []
deriving DecidableEq, Repr

/-- A request that a peer's frame brought, until it performs (R380, R383): its header flit and its data. -/
structure PeerRequest where
  header : BitVec 256
  data   : List (BitVec 256) := []
deriving DecidableEq, Repr

/-- One traffic class of a Flithe port (R380). -/
structure FlitheClass where
  seq   : BitVec 24 := 0#24
  expect : BitVec 24 := 0#24
  unacked : List FlitheFrame := []
  sentAt : Nat := 0
  ackDue : Option Nat := none
  received : List (List (BitVec 256)) := []
  tries : Nat := 0
deriving DecidableEq, Repr

/-- A Flithe port (R379 to R381): whether its link is up and resetting since when, its two classes, the tags of its
outstanding requests, and the peer's requests that have still to perform. -/
structure FlithePort where
  up : Bool := false
  resetting : Bool := false
  classes : List FlitheClass := []
  resetAt : Nat := 0
  tags : Map (PlaneId × Nat) := []
  inbox : List PeerRequest := []
deriving DecidableEq, Repr

/-! ## Registers (R458 to R475) -/

/-- The context registers and the context's own stores (R458). `handlerEntry` is the tack-store entry of its handler load, and
`handlerOld` lists those that held it before a firmware activation and stay pinned until the context ends (R101, R105). -/
structure Ctx where
  state    : Nat := 0
  seed     : W64 := 0#64
  depcount : Nat := 0
  dephit   : Bool := false
  deplimit : Nat := 0xFFFFFFFFFFFF
  fpflags  : FpFlags := 0#5
  trapen   : BitVec 8 := 0#8
  lost     : Nat := 0
  quota    : Nat := 4032
  irq      : Bool := false
  capPrio  : Nat := 7
  taken    : W32 := 0#32
  badCount : W32 := 0#32
  x0 : Nat := 0
  y0 : Nat := 0
  w  : Nat := 80
  h  : Nat := 72
  ptbase   : W64 := 0#64
  pswin    : List W64 := [0#64, 0#64, 0#64, 0#64]
  binbase  : W64 := 0#64
  binrec   : W64 := 0#64
  binctl   : W64 := 0#64
  peer     : W64 := 0#64
  handler  : W64 := 0#64
  traparea : W64 := 0#64
  fail     : W64 := 0#64
  savearea : W64 := 0#64
  saveused : Nat := 0
  launches : List Launch := []
  noClaims : Bool := false
  handlerEntry : Option Nat := none
  handlerOld : List Nat := []
  graphs   : List Graph := []
  bins     : Map (List BinRec) := []
  closed   : Nat := 0
deriving DecidableEq, Repr

/-- The device registers (R464 to R475, and those of the other chapters that belong to the device). -/
structure Regs where
  devId      : W64 := 0x8800_0300_0000_0000#64
  devRows    : W64 := 0#64
  stage      : Nat := 0
  bootErr    : Nat := 0
  bootSlot   : Nat := 0
  fwBusy     : Bool := false
  fwResult   : Nat := 0
  fwAddr     : Nat := 0
  fwRecover  : W64 := 0#64
  policy     : W64 := 0xFF#64
  genFloor   : W32 := 0#32
  genCurrent : W32 := 0#32
  actBudget  : W64 := 3072#64
  actLo      : W64 := 0x0302010608040301#64
  actHi      : W64 := 0x0050308060484040#64
  actPending : List (Nat × W64 × Nat) := []
  wdogExp    : Nat := 24
  reloads    : W32 := 0#32
  corrected  : W32 := 0#32
  tlbBusy    : Bool := false
  tlbInv     : W64 := 0#64
  evqBase    : W64 := 0#64
  evqPtr     : W64 := 0#64
  clkSteps   : W32 := 0#32
  clkLow     : Nat := 36
  clkCur     : Nat := 36
  clkAt      : Option Nat := none
  scanCtl    : W64 := 0#64
  scanData   : W64 := 0#64
  dieTime    : List W64 := [0#64, 0#64, 0#64, 0#64, 0#64, 0#64, 0#64, 0#64, 0#64]
  offsets    : List W64 := [0#64, 0#64, 0#64, 0#64, 0#64, 0#64, 0#64, 0#64, 0#64]
  rates      : List W64 := List.replicate 9 0x0001_0000_0000_0000#64
  heldOffsets : List W64 := [0#64, 0#64, 0#64, 0#64, 0#64, 0#64, 0#64, 0#64, 0#64]
  peerTab    : Map W64 := []
  recordHash : BitVec 384 := 0#384
deriving DecidableEq, Repr

/-- The two firmware slots of the package flash, whether they are known yet, the fused floor, which slot is tried first
(true for B), the activation under way (which slot it was written to, and the image), and the slot running (R471 to R473). -/
structure Firmware where
  known : Bool := false
  slotA : FwImage := {}
  slotB : FwImage := {}
  fused : W32 := 0#32
  first : Bool := false
  pending : Option (Bool × FwImage) := none
  running : Option Bool := none
deriving DecidableEq, Repr

/-- A message the package has sent to the outside: completion records, events, interrupts, frames (R399, R470). -/
inductive Sent where
  | interrupt (ctx : Nat) (kind : Nat)
  | event (words : List W64)
  | frame (port : Nat) (f : FlitheFrame)
  | measurements (firmware record : BitVec 384) (trnGen : W64)
  | hostData (bytes : List Byte)
deriving DecidableEq, Repr

/-! ## Who moves next -/

/-- One step that is due: a node of a plane fires, a task-mode PE executes its next instruction, a device step with what
the outside supplies, cycles in which nothing moves, or a host store to its own memory. -/
inductive Agenda where
  | fire (p : PlaneId) (node : Nat)
  | task (p : PlaneId) (pe : Nat)
  | event (i : Instr) (x : Stimulus)
  | cycles (n : Nat)
  | hostStore (addr : Nat) (bytes : List Byte)
  /-- The first physical token of a track's buffer moves on (R178): hop `hop` of the channel to a destination of a plane. -/
  | track (p : PlaneId) (d : Dest) (hop : Nat)
  /-- The host marks the word at an address as poisoned data, or as good again (R301). -/
  | hostPoison (addr : Nat) (bad : Bool)
deriving DecidableEq, Repr

/-- Whose instruction the present step executes. -/
inductive Cursor where
  | none
  | node (p : PlaneId) (i : Nat)
  | task (p : PlaneId) (pe : Nat)
  | event
deriving DecidableEq, Repr

/-- Why a step stops. -/
inductive Fault where
  /-- Raised by `step` when the word it fetches is no instruction. The translator puts no such word into a plane or a
  task store (R81), so no run of the hardware reaches this stop; it is safe. -/
  | undecodable (word : Nat)
deriving DecidableEq, Repr

/-- Why the model gives no meaning. -/
inductive Refusal where
  /-- Raised by an arm of `exec` whose instruction has no meaning yet; it is safe. -/
  | notModelled (mnemonic : String)
deriving DecidableEq, Repr

/-- The whole device. `plans` holds the translator's choices for every load that it has translated or admitted: translating a load
again makes the same ones (R89). `caches` holds the lines of each set of the port caches, `slotQueues` the misses that wait for a slot
of each memory of a die, in order of arrival (R299, R305). `tlbs` lists each TLB's entries, the newest first: of the second level by
die, of the first by cluster (R309). -/
structure State where
  cycle    : Nat := 0
  timeRem  : Nat := 0
  regs     : Regs := {}
  ctxs     : Map Ctx := []
  firmware : Firmware := {}
  pads     : Map Paddock := []
  tileGov  : Map Tile := []
  dram     : Memory := {}
  host     : Memory := {}
  store    : Memory := {}
  copies   : List HostCopy := []
  tlbs     : List (Nat × TlbEntry) := []
  walks    : List Walk := []
  slotsHbm : List Nat := [0, 0, 0, 0]
  slotsLp  : List Nat := [0, 0, 0, 0]
  caches   : Map (List CacheLine) := []
  slotQueues : Map (List SlotWaiter) := []
  ports    : Map (List Copy) := []
  tack     : Map TackEntry := []
  plans    : List (PlanKey × Plan) := []
  tasks    : Map Task := []
  waiting  : List Task := []
  saves    : Map Saved := []
  edges    : Map Edge := []
  flithe   : Map FlithePort := []
  link     : Option HostLink := none
  sent     : List Sent := []
  nextId   : Nat := 0
  fresh    : Nat := 0
  arg      : Stimulus := {}
  cursor   : Cursor := .none
  agenda   : List Agenda := []
deriving DecidableEq, Repr

/-- The package at power-on, before POWER_ON has run: every register at its reset value, no context live, every plane
FREE, every table and queue empty, memory with nothing listed. -/
def State.reset : State := {}

end Sys2Proof.Machine
end

