-- ==== Sys2Proof/Machine/Map.lean ====
section
/-! DEFINITION. Tables with natural-number keys, in rising order of keys, and updates of a list at an index. -/

namespace Sys2Proof.Machine

variable {α : Type}

/-- The entry of a key. -/
def mapGet : Map α → Nat → Option α
  | [], _ => none
  | (k, v) :: rest, i => if k = i then some v else mapGet rest i

/-- The table with the key's entry set. -/
def mapSet : Map α → Nat → α → Map α
  | [], i, x => [(i, x)]
  | (k, v) :: rest, i, x =>
    if i < k then (i, x) :: (k, v) :: rest
    else if i = k then (i, x) :: rest
    else (k, v) :: mapSet rest i x

/-- The table without the key's entry. -/
def mapDel (m : Map α) (i : Nat) : Map α := m.filter fun kv => kv.1 ≠ i

/-- A list with the element at an index changed. -/
def modifyAt : List α → Nat → (α → α) → List α
  | [], _, _ => []
  | x :: xs, 0, f => f x :: xs
  | x :: xs, n + 1, f => x :: modifyAt xs n f

/-- The numbers of a rising list with one more. -/
def insertNat (l : List Nat) (n : Nat) : List Nat := l.filter (· < n) ++ n :: l.filter (· > n)
def eraseNat (l : List Nat) (n : Nat) : List Nat := l.filter (· ≠ n)

/-- The first number that a list does not hold. -/
def freshIn (l : List Nat) : Nat := ((List.range (l.length + 1)).find? fun i => !l.contains i).getD l.length

end Sys2Proof.Machine
end

