-- ==== Sys2Proof/Machine/Memory.lean ====
section
/-! DEFINITION. Memory: bytes in one canonical form and poison marks (R4, R264, R301). An address that no cell lists
reads as 0 (notes/assumptions/1.md, DESIGN CHOICE: the spec gives external memories no contents at start-up). -/

namespace Sys2Proof.Machine

/-- What a byte that nothing has written reads as. -/
def unlistedByte : Byte := 0#8

/-- The byte at an address. -/
def cellGet : List Host.Cell → Nat → Byte
  | [], _ => unlistedByte
  | (a, b) :: rest, x => if a = x then b else cellGet rest x

/-- The cells with one byte written, in canonical form. -/
def cellSet : List Host.Cell → Nat → Byte → List Host.Cell
  | [], x, v => if v = unlistedByte then [] else [(x, v)]
  | (a, b) :: rest, x, v =>
    if x < a then (if v = unlistedByte then (a, b) :: rest else (x, v) :: (a, b) :: rest)
    else if x = a then (if v = unlistedByte then rest else (x, v) :: rest)
    else (a, b) :: cellSet rest x v

namespace Memory

/-- The canonical form: addresses strictly rising, no entry equal to what an unlisted address reads as, and the marked
words strictly rising. -/
abbrev wf (m : Memory) : Prop :=
  m.cells.Pairwise (fun x y => x.1 < y.1) ∧ (∀ c ∈ m.cells, c.2 ≠ unlistedByte) ∧ m.marks.Pairwise (· < ·)

/-- One byte. -/
def byte (m : Memory) (x : Nat) : Byte := cellGet m.cells x

/-- n bytes, the lowest address first. -/
def bytes (m : Memory) (x n : Nat) : List Byte := (List.range n).map fun i => m.byte (x + i)

/-- The little-endian number of n bytes. -/
def nat (m : Memory) (x n : Nat) : Nat := bytesNat (m.bytes x n)

/-- Bytes written, leaving the marks. -/
def put (m : Memory) : Nat → List Byte → Memory
  | _, [] => m
  | x, b :: rest => put { m with cells := cellSet m.cells x b } (x + 1) rest

/-- The 4-byte words that n bytes touch, and those they cover whole. -/
def touched (x n : Nat) : List Nat := if n = 0 then [] else (List.range ((x + n - 1) / 4 + 1 - x / 4)).map (· + x / 4)
def covered (x n : Nat) : List Nat := (touched x n).filter fun w => x ≤ 4 * w ∧ 4 * w + 4 ≤ x + n

/-- Some word of n bytes is poisoned. -/
def poisoned (m : Memory) (x n : Nat) : Bool := (touched x n).any fun w => m.marks.contains w

/-- A write of data: the marks of whole words are cleared (R264). -/
def write (m : Memory) (x : Nat) (bs : List Byte) : Memory :=
  let m := m.put x bs
  { m with marks := m.marks.filter fun w => !(covered x bs.length).contains w }

/-- A write of poison: the mark of every word touched is set (R264). -/
def writePoison (m : Memory) (x n : Nat) : Memory :=
  { m with marks := (touched x n).foldl insertNat m.marks }

/-- A write of a value of n bytes, poisoned where the value is none. -/
def writeWord (m : Memory) (x n : Nat) (v : Option W64) : Memory :=
  match v with
  | some v => m.write x (wordBytes n v.toNat)
  | none => m.writePoison x n

/-- A value of n bytes, none where a word is poisoned. -/
def readWord (m : Memory) (x n : Nat) : Option Nat := if m.poisoned x n then none else some (m.nat x n)

/-- n bytes of one memory copied into another with their poison; both places are multiples of 4. -/
def copyFrom (m : Memory) (x : Nat) (src : Memory) (y n : Nat) : Memory :=
  let m := m.write x (src.bytes y n)
  ((touched y n).filter fun w => src.marks.contains w).foldl (fun m w => m.writePoison (x + (4 * w - y)) 4) m

end Memory

end Sys2Proof.Machine
end

