-- ==== Sys2Proof/Machine/Ops.lean ====
section
/-! DEFINITION. Named operations over the state: planes, nodes, contexts, channels and tokens, the grid, die times, and
the detection of a fault, which is how every exception of the machine begins (R421). -/

namespace Sys2Proof.Machine

abbrev Result := Host.Outcome State Fault Refusal

/-! ## Sorted lists -/

/-- An element put in front of the first that it may precede. -/
def insertBefore {α : Type} (le : α → α → Bool) (x : α) : List α → List α
  | [] => [x]
  | y :: ys => if le x y then x :: y :: ys else y :: insertBefore le x ys

/-- A list in the order of le; elements that le puts level keep their order. -/
def inOrder {α : Type} (le : α → α → Bool) (l : List α) : List α := l.foldr (insertBefore le) []

/-! ## Planes, nodes, contexts -/

def State.plane? (s : State) (p : PlaneId) : Option Plane := (mapGet s.pads p.pad).bind fun d => d.planes[p.plane]?

def State.modPlane (s : State) (p : PlaneId) (f : Plane → Plane) : State :=
  match mapGet s.pads p.pad with
  | none => s
  | some d => { s with pads := mapSet s.pads p.pad { d with planes := modifyAt d.planes p.plane f } }

def State.setPlane (s : State) (p : PlaneId) (pl : Plane) : State := s.modPlane p fun _ => pl

/-- Every plane with its identifier. -/
def State.planes (s : State) : List (PlaneId × Plane) :=
  s.pads.flatMap fun kd => kd.2.planes.zipIdx.map fun pi => (⟨kd.1, pi.2⟩, pi.1)

def Plane.modNode (pl : Plane) (i : Nat) (f : Node → Node) : Plane := { pl with nodes := modifyAt pl.nodes i f }
def Plane.modPe (pl : Plane) (i : Nat) (f : TaskPe → TaskPe) : Plane := { pl with pes := modifyAt pl.pes i f }

def State.ctx (s : State) (c : Nat) : Ctx := (mapGet s.ctxs c).getD {}
def State.setCtx (s : State) (c : Nat) (x : Ctx) : State := { s with ctxs := mapSet s.ctxs c x }
def State.modCtx (s : State) (c : Nat) (f : Ctx → Ctx) : State := s.setCtx c (f (s.ctx c))

/-- An agenda entry put behind those that are due. -/
def State.later (s : State) (x : Agenda) : State := { s with agenda := s.agenda ++ [x] }

/-- The next number of the counter that tells requests apart. -/
def State.takeId (s : State) : Nat × State := (s.nextId, { s with nextId := s.nextId + 1 })

/-- Bits hi down to lo of a word. -/
def wbits (x : W64) (hi lo : Nat) : Nat := (x.toNat >>> lo) % 2 ^ (hi - lo + 1)

/-- A word with bits hi down to lo replaced. -/
def wset (x : W64) (hi lo v : Nat) : W64 :=
  let mask := (2 ^ (hi - lo + 1) - 1) * 2 ^ lo
  (x &&& ~~~(BitVec.ofNat 64 mask)) ||| BitVec.ofNat 64 (v % 2 ^ (hi - lo + 1) * 2 ^ lo)

/-! ## Tokens (R31 to R33, R38) -/

def Token.isMarker : Token → Bool
  | .marker .. => true
  | _ => false
def Token.isPoison : Token → Bool
  | .poison _ => true
  | _ => false
def Token.isData : Token → Bool
  | .data _ | .beat _ => true
  | _ => false
/-- The value of a data token, 0 otherwise. -/
def Token.val : Token → W64
  | .data v => v
  | _ => 0#64
def Token.level : Token → Nat
  | .marker l _ _ => l.toNat
  | _ => 0
def Token.round : Token → BitVec 8
  | .marker _ r _ => r
  | _ => 0#8
def Token.status : Token → BitVec 8
  | .marker _ _ st => st
  | _ => 0#8

/-- The 32-bit payload of a token as a task register or a trap record sees it (R31, R33). -/
def Token.payload : Token → W64
  | .data v => v
  | .marker l r st => (0#8 ++ st ++ r ++ 0#5 ++ l : BitVec 32).setWidth 64
  | .poison c => c.setWidth 64
  | .ord => 0#64
  | .beat _ => 0#64

/-- An operand value of a trap record: poison is its payload with bit 63 set (R426). -/
def Token.recorded (t : Token) : W64 := if t.isPoison then t.payload ||| (1#64 <<< 63) else t.payload

/-- A marker as the device makes one. -/
def marker (level : Nat) (round : BitVec 8 := 0#8) (status : BitVec 8 := 0#8) : Token :=
  .marker (BitVec.ofNat 3 level) round status

/-- The marker branch of R38 over heads that are all markers: none where two of level 4 or more carry different rounds. The round
field is that of the first operand listed, which is operand a wherever operand a is joined (log 110). -/
def joinMarkers (ms : List Token) : Option Token :=
  let high := ms.filter fun m => m.level ≥ 4
  let clash := match high with
    | [] => false
    | m :: rest => rest.any fun x => x.round ≠ m.round
  if clash then none
  else some (.marker (BitVec.ofNat 3 ((ms.map Token.level).foldl max 0)) ((ms.head?.map Token.round).getD 0#8)
    ((ms.map Token.status).foldl (· ||| ·) 0#8))

/-! ## Physical tokens (R30) -/

/-- A physical token: its kind in bits 33:32, its payload in bits 31:0. -/
def physical (kind : BitVec 2) (payload : W32) : BitVec 34 := kind ++ payload

/-- The physical tokens of a virtual token, on a channel of 64-bit values or not: a 64-bit value is two, the low word first. An
ordering token, which travels on control tracks alone (R180), has no kind, and stands there as a word of zeros. -/
def Token.words (wide : Bool) : Token → List (BitVec 34)
  | .data v => if wide then [physical 3#2 (v.setWidth 32), physical 0#2 ((v >>> 32).setWidth 32)] else [physical 0#2 (v.setWidth 32)]
  | .marker l r st => [physical 1#2 ((Token.marker l r st).payload.setWidth 32)]
  | .poison c => [physical 2#2 ((Token.poison c).payload.setWidth 32)]
  | .ord => [0#34]
  | .beat _ => []

/-- The places that a token takes in a queue or buffer of physical tokens. -/
def Token.size (wide : Bool) (t : Token) : Nat := if wide && t.isData then 2 else 1

/-! ## Channels (R35, R140, R141, R177) -/

def Queue.head (q : Queue) : Option Token := q.toks[q.marked]?
/-- A token enters a channel: into the buffer of its first track, or at its consumer where no track lies between. -/
def Queue.push (q : Queue) (t : Token) : Queue :=
  match q.hops with
  | [] => { q with toks := q.toks ++ [t] }
  | h :: rest => { q with hops := { h with buf := h.buf ++ t.words q.wide } :: rest }
def Queue.drop (q : Queue) (n : Nat) : Queue := { q with toks := q.toks.drop n }

/-- A physical token reaches the consumer's queue: a low word waits for its high word. A high word without its low one is the rest of a
value that an error has made poison (R455). -/
def Queue.arrive (q : Queue) (w : BitVec 34) : Queue :=
  let x : W32 := w.setWidth 32
  if q.ord then { q with toks := q.toks ++ [.ord] }
  else match (w >>> 32).setWidth 2 with
    | 3#2 => { q with half := some x }
    | 1#2 => { q with toks := q.toks ++ [.marker (x.setWidth 3) ((x >>> 8).setWidth 8) ((x >>> 16).setWidth 8)] }
    | 2#2 => { q with toks := q.toks ++ [.poison (x.setWidth 8)], half := none }
    | _ => match q.half with
      | some lo => { q with toks := q.toks ++ [.data (x ++ lo)], half := none }
      | none => if q.wide then q else { q with toks := q.toks ++ [.data (x.setWidth 64)] }

/-- The physical tokens that a consumer's queue holds. -/
def Queue.held (q : Queue) (wide : Bool) : Nat :=
  (q.toks.map (·.size wide)).foldl (· + ·) 0 + if q.half.isSome then 1 else 0

/-- A track's buffer holds two physical tokens (R177). -/
def trackPlaces : Nat := 2

/-- Free places where a channel enters, in physical tokens: in the buffer of its first track, or in its consumer's queue. -/
def Queue.free (q : Queue) (wide : Bool) (cap : Nat) : Nat :=
  match q.hops with
  | [] => cap - (q.held wide + q.reserved)
  | h :: _ => trackPlaces - (h.buf.length + q.reserved)

/-- Token `pos` of the buffers of tracks, the last track's first, is made poison. -/
def spoilHops (cause : BitVec 8) : Nat → List Hop → List Hop
  | _, [] => []
  | pos, h :: rest =>
    if pos < h.buf.length then { h with buf := modifyAt h.buf pos fun _ => physical 2#2 (cause.setWidth 32) } :: rest
    else h :: spoilHops cause (pos - h.buf.length) rest

/-- A queued token becomes poison; an ordering token has no payload to lose (R34, R455). -/
def Token.spoil (t : Token) (cause : BitVec 8) : Token := match t with | .ord => .ord | _ => .poison cause

/-- Token `pos` of a channel is made poison (R455): those that have reached the consumer, a low word that has, then the buffers of the
channel's tracks, from the consumer back. A 64-bit value is poison as soon as one of its words is. -/
def Queue.spoil (q : Queue) (cause : BitVec 8) (pos : Nat) : Queue :=
  if pos < q.toks.length then { q with toks := modifyAt q.toks pos (·.spoil cause) }
  else if q.ord then q
  else
    let pos := pos - q.toks.length
    match q.half with
    | none => { q with hops := (spoilHops cause pos q.hops.reverse).reverse }
    | some _ =>
      if pos = 0 then { q with toks := q.toks ++ [.poison cause], half := none }
      else { q with hops := (spoilHops cause (pos - 1) q.hops.reverse).reverse }

def Node.queue (n : Node) : Operand → Queue
  | .a => n.a | .b => n.b | .c => n.c | .p => n.p
def Node.modQueue (n : Node) (o : Operand) (f : Queue → Queue) : Node :=
  match o with
  | .a => { n with a := f n.a } | .b => { n with b := f n.b } | .c => { n with c := f n.c } | .p => { n with p := f n.p }

/-- The queue that a target names. -/
def Plane.queue (pl : Plane) : Dest → Option Queue
  | .operand n o => (pl.nodes[n]?).map (·.queue o)
  | .pe k q => (pl.pes[k]?).bind fun t => t.chans[q]?
  | .exit _ | .slotOf .. => some {}

/-- A slot that receiver j has returned waits to be counted (R350). -/
def Node.returnSlot (n : Node) (j : Nat) : Node :=
  match n.st with
  | .copy ws cs rs t => { n with st := .copy ws cs (rs ++ [j]) t }
  | _ => { n with st := .copy [] [] [j] none }

def Plane.modDest (pl : Plane) (d : Dest) (f : Queue → Queue) : Plane :=
  match d with
  | .operand n o => pl.modNode n (·.modQueue o f)
  | .pe k q => pl.modPe k fun t => { t with chans := modifyAt t.chans q f }
  | .exit _ => pl
  | .slotOf .. => pl

/-- The channel that a target names carries 64-bit values. -/
def Plane.wide (pl : Plane) (d : Dest) : Bool :=
  match d with
  | .pe k q => match pl.pes[k]? with
    | some t => (t.wide[q]?).getD false || (((t.chans[q]?).map (·.wide)).getD false)
    | none => false
  | d => ((pl.queue d).map (·.wide)).getD false

/-- The capacity of a consumer's queue in physical tokens: four on a PE, in task mode or not (R140, R221), else what the
translator gave the channel or, where the spec gives no figure, the plane's own. -/
def Plane.capacity (pl : Plane) (d : Dest) : Nat :=
  match d with
  | .pe _ _ => 4
  | d => ((pl.queue d).bind (·.cap)).getD pl.cap

/-- Free places of a channel in physical tokens; what leaves the load by an exit port never waits. -/
def Plane.room (pl : Plane) (d : Dest) : Nat :=
  match d with
  | .exit _ | .slotOf .. => 1000000
  | d => match pl.queue d with
    | some q => q.free (pl.wide d) (pl.capacity d)
    | none => 0

/-- The places that tokens take at a target. -/
def Plane.sizeAt (pl : Plane) (d : Dest) (ts : List Token) : Nat := (ts.map (·.size (pl.wide d))).foldl (· + ·) 0

/-- A token appended to the channel that a target names. The first data or poison token that leaves the load is its return
token; what follows, and markers, are discarded (R400). -/
def Plane.emit (pl : Plane) (d : Dest) (t : Token) : Plane :=
  match d with
  | .exit _ => if pl.result.isSome ∨ t.isMarker then pl else { pl with result := some t }
  | .slotOf n j => pl.modNode n (·.returnSlot j)
  | d => pl.modDest d (·.push t)

def Node.out (n : Node) (k : Nat) : Option Dest := (n.outs[k]?).join

/-- The instruction of a node. -/
def Node.instr (n : Node) : Option Instr := (decodeGraph n.word).toOption

/-- The target index under which a marker reaches its node as a sink of its region (R41, R42). -/
def sinkTarget : Nat := 99

/-- A token on targets A and B, and an ordering acknowledgment on A. -/
def outBoth (t : Token) : List (Nat × Token) := [(0, t), (1, t)]
def outAck : List (Nat × Token) := [(0, .ord)]

/-- One where a firing or a reply hands a marker of level 6 or 7 on, or takes it in as a sink, else none (R42). -/
def barrierIn (es : List (Nat × Token)) : Nat := if es.any fun e => decide (6 ≤ e.2.level) then 1 else 0

/-- Emissions of a node, each a target's index and a token; absent targets receive nothing (R185). -/
def Plane.emitAll (pl : Plane) (n : Node) : List (Nat × Token) → Plane
  | [] => pl
  | (k, t) :: rest => emitAll (match n.out k with | some d => pl.emit d t | none => pl) n rest

/-- Every present target has room for the tokens emitted to it (R36). -/
def Plane.canEmit (pl : Plane) (n : Node) (es : List (Nat × Token)) : Bool :=
  (List.range 8).all fun k =>
    match n.out k with
    | none => true
    | some d => decide (pl.sizeAt d ((es.filter fun e => e.1 = k).map (·.2)) ≤ pl.room d)

/-- Room reserved on the targets of emissions (R141), and given back. -/
def Plane.reserve (pl : Plane) (n : Node) : List (Nat × Token) → Plane
  | [] => pl
  | (k, t) :: rest =>
    reserve (match n.out k with
      | some d => pl.modDest d fun q => { q with reserved := q.reserved + t.size (pl.wide d) }
      | none => pl) n rest
def Plane.release (pl : Plane) (n : Node) : List (Nat × Token) → Plane
  | [] => pl
  | (k, t) :: rest =>
    release (match n.out k with
      | some d => pl.modDest d fun q => { q with reserved := q.reserved - t.size (pl.wide d) }
      | none => pl) n rest

/-- The tokens that a firing takes from a, b, c and p. -/
def Node.take (n : Node) (ts : List Nat) : Node :=
  let k := fun i => (ts[i]?).getD 0
  { n with a := n.a.drop (k 0), b := n.b.drop (k 1), c := n.c.drop (k 2), p := n.p.drop (k 3) }
def Node.mark (n : Node) (ts : List Nat) : Node :=
  let k := fun i => (ts[i]?).getD 0
  { n with a := { n.a with marked := n.a.marked + k 0 }, b := { n.b with marked := n.b.marked + k 1 },
           c := { n.c with marked := n.c.marked + k 2 }, p := { n.p with marked := n.p.marked + k 3 } }
def Node.unmark (n : Node) (ts : List Nat) : Node :=
  let k := fun i => (ts[i]?).getD 0
  { n with a := { n.a with marked := n.a.marked - k 0 }, b := { n.b with marked := n.b.marked - k 1 },
           c := { n.c with marked := n.c.marked - k 2 }, p := { n.p with marked := n.p.marked - k 3 } }

/-! ## The grid and die times (R12, R13, R467, R469) -/

/-- The die index of a tile (R13). -/
def tileDie (x y : Nat) : Nat := (if x ≥ 40 then 1 else 0) + (if y ≥ 36 then 2 else 0)

/-- The local coordinates of a tile on its die (R13). -/
def tileLocal (x y : Nat) : Nat × Nat := (x % 40, y % 36)

/-- The physical row of a die's logical local row, with the row that the part record skips (R15). -/
def physicalRow (skipped l : Nat) : Nat := if l < skipped then l else l + 1

def placeXY : Place → Option (Nat × Nat)
  | .pe x y _ | .mfe x y | .router x y _ | .memTile x y | .branch x y => some (x, y)
  | .none => none

/-- The key of a tile in the governors' table: its global tile number (R13). -/
def tileKey (x y : Nat) : Nat := y * 80 + x

/-- The die that detects a fault of an agent at a place. -/
def placeDie (p : Place) : Nat :=
  match placeXY p with
  | some (x, y) => tileDie x y
  | none => 0

def State.dieTime (s : State) (d : Nat) : W64 := (s.regs.dieTime[d]?).getD 0#64

/-- conv of a reading of die d, in the CD's common time before any target's offset: reading times rate plus offset
(R469). -/
def State.commonTime (s : State) (d : Nat) (t : W64) : Int :=
  let rate := ((s.regs.rates[d]?).getD 0#64).toNat
  let off := ((s.regs.offsets[d]?).getD 0#64).toInt
  (t.toNat * rate / 2 ^ 48 : Nat) + off

/-- Fabric cycles pass: die times advance at 1 GHz, of a fabric clock of `cur` tenths of a GHz (R467, R475). -/
def State.advance (s : State) (n : Nat) : State :=
  let cur := max s.regs.clkCur 1
  let acc := s.timeRem + n * 10
  { s with cycle := s.cycle + n, timeRem := acc % cur,
           regs := { s.regs with dieTime := s.regs.dieTime.map (· + BitVec.ofNat 64 (acc / cur)) } }

/-! ## The tack store's pins (R103, R105) -/

/-- Whether an entry is pinned: a plane that is not FREE or a saved plane was configured from it, it holds a context's handler
load, a binding has selected it, or it is being filled. -/
def State.pinned (s : State) (e : Nat) : Bool :=
  (s.tasks.any fun x => x.2.st = .ready ∧ x.2.chosen = some e) || ((mapGet s.tack e).map (·.filling)).getD false ||
  s.planes.any (fun x => x.2.st ≠ .free ∧ x.2.entry = some e) || s.saves.any (fun x => x.2.plane.entry = some e) ||
  s.ctxs.any fun x => x.2.handlerEntry = some e ∨ e ∈ x.2.handlerOld

/-- Entries that serve no binding are freed as soon as no pin remains (R105, R453). -/
def State.sweepTack (s : State) : State :=
  { s with tack := s.tack.filter fun e => s.pinned e.1 || !(e.2.retiring || e.2.bad) }

/-! ## Failed contexts (R437 to R439) -/

/-- The value of CTX_FAIL for a failure, its teardown still under way (R438). -/
def failWord (slot first second reason : Nat) : W64 :=
  BitVec.ofNat 64 (first % 2 ^ 8 + second % 2 ^ 8 * 2 ^ 8 + reason % 2 ^ 8 * 2 ^ 16 + slot % 2 ^ 9 * 2 ^ 32)

/-- What the failure of its context does to a plane: a LIVE plane freezes as R421 gives, a save stops, and the plane will
go to FREE (R439). -/
def Plane.doom (pl : Plane) (now : Nat) : Plane :=
  match pl.st with
  | .free => pl
  | .live => { pl with abandon := true, claimed := none, freezeAt := some (pl.freezeAt.getD (now + 12)) }
  | .saving => { pl with abandon := true, claimed := none, st := .frozen }
  | _ => { pl with abandon := true, claimed := none, resuming := false }

/-- A context's registers and stores as it becomes FAILED. -/
def Ctx.failed (x : Ctx) (slot first second reason : Nat) : Ctx :=
  { x with state := 2, fail := failWord slot first second reason, launches := [], bins := [], saveused := 0, handlerEntry := none, handlerOld := [], graphs := [] }

/-- Every plane of a context doomed. -/
def Paddock.doom (d : Paddock) (c now : Nat) : Paddock :=
  { d with planes := d.planes.map fun pl => if pl.ctx = c then pl.doom now else pl }

/-- A context becomes FAILED: its teardown begins (R437, R439). A context that is not live does not fail. -/
def State.failContext (s : State) (c slot first second reason : Nat) : State :=
  if (s.ctx c).state ≠ 1 then s
  else
    let s := s.modCtx c (·.failed slot first second reason)
    let s : State :=
      { s with
        pads := s.pads.map fun kd => (kd.1, kd.2.doom c s.cycle)
        tasks := s.tasks.filter fun t => t.2.ctx ≠ c
        waiting := s.waiting.filter fun t => t.ctx ≠ c
        saves := s.saves.filter fun x => x.2.plane.ctx ≠ c }
    s.sweepTack

/-! ## The trap area (R423, R424) -/

/-- The physical address of a record slot of a context. -/
def State.slotAddr (s : State) (c slot : Nat) : Nat := wbits (s.ctx c).traparea 39 12 * 4096 + 128 * slot

/-- A word of a record as it stands in the trap area. -/
def State.recordWord (s : State) (c slot k : Nat) : W64 := BitVec.ofNat 64 (s.dram.nat (s.slotAddr c slot + 8 * k) 8)

/-- The task of a plane. -/
def State.taskOf (s : State) (pl : Plane) : Option Task := mapGet s.tasks pl.colour

/-- The slot of the record that a handler-class plane's task was started for (R430). -/
def State.handlerSlot (s : State) (pl : Plane) : Nat := (((s.taskOf pl).bind (·.record))).getD 0

/-! ## Faults (R9, R29, R421, R426) -/

/-- What R425 asks of the agent that faulted: version, block, slot and die. -/
def Plane.whereIs (pl : Plane) (who : Option Asker) : Nat × Nat × Nat × Nat :=
  match who with
  | some (.node i) => match pl.nodes[i]? with
    | some n => (n.info.version, n.info.id, n.slot, placeDie n.place)
    | none => (0, 0xFFFF, 0, 0)
  | some (.pe i) => match pl.pes[i]? with
    | some t => (t.info.version, t.info.id, (t.act.map (·.pc / 2)).getD 0, placeDie t.place)
    | none => (0, 0xFFFF, 0, 0)
  | none => (0, 0xFFFF, 0, 0)

/-- A fault is held in its plane until its record is acknowledged, and the plane freezes 12 cycles after the first one (R29,
R421, R504). No fault but R454's is detected in a plane in CONFIG. -/
def Plane.hold (pl : Plane) (now : Nat) (f : HeldFault) : Plane :=
  match pl.st with
  | .free | .config => pl
  | _ =>
    { pl with faults := pl.faults ++ [f],
              freezeAt := match pl.freezeAt, pl.st with
                | none, .live | none, .ending => some (now + 12)
                | x, _ => x }

/-- The die that detects a fault: the memory-port die that the fault names (R20), else the die of its agent. -/
def FaultInfo.detectedOn (info : FaultInfo) (agent : Nat) : Nat := match info.md with | some md => 4 + md | none => agent

/-- A fault as its record will show it. -/
def State.heldFault (s : State) (pl : Plane) (who : Option Asker) (info : FaultInfo) (fatal : Bool) : HeldFault :=
  let w := pl.whereIs who
  let die := info.detectedOn w.2.2.2
  { who, info, version := w.1, block := w.2.1, slot := info.slot.getD w.2.2.1, time := s.dieTime die, die, fatal }

/-- A fault is detected in a plane. In a handler-class plane it is a double fault, and the context fails (R437); in the
planes of a failed context and of an abandoned task it is discarded. -/
def State.detectHeld (s : State) (p : PlaneId) (f : HeldFault) : State :=
  match s.plane? p with
  | none => s
  | some pl =>
    if pl.st = .free ∨ pl.st = .config ∨ pl.abandon then s
    else if pl.handler then
      let slot := s.handlerSlot pl
      s.failContext pl.ctx slot (wbits (s.recordWord pl.ctx slot 0) 7 0) f.info.cause 0
    else s.setPlane p (pl.hold s.cycle f)

/-- A fault of an agent is detected in its plane. -/
def State.detectFault (s : State) (p : PlaneId) (who : Option Asker) (info : FaultInfo) (fatal : Bool := false) : State :=
  match s.plane? p with
  | none => s
  | some pl => s.detectHeld p (s.heldFault pl who info fatal)

/-- A plane in which some fault has been detected and not yet resolved (R29). -/
def Plane.faulted (pl : Plane) : Bool := !pl.faults.isEmpty || pl.shown.isSome

/-- The enables of CTX_TRAPEN as a re-firing sees them: those that TRAPACK.mask turned off read as 0 (R427). -/
def maskEnables (g : Grant) (en : BitVec 8) : BitVec 8 :=
  match g with
  | .mask c =>
    if 0x20 ≤ c ∧ c ≤ 0x24 then en &&& 0xE0#8
    else if c = 0x28 then en &&& 0xBF#8
    else if c = 0x30 then en &&& 0x7F#8
    else en
  | _ => en

end Sys2Proof.Machine
end

