-- ==== Sys2Proof/Machine/Rule.lean ====
section
/-! DEFINITION. What a firing may look at and what it does: the head tokens and state of a node, the outcome of its rule
(wait, fault or fire), and the treatment of markers and poison that element-wise nodes share (R36 to R39, R132, R147,
R187). -/

namespace Sys2Proof.Machine

/-- What the rule of a firing reads. `e` is the element index of the firing (R123), `trapen` CTX_TRAPEN as it sees it. -/
structure View where
  g      : GArgs
  info   : BlockInfo
  slot   : Nat
  a      : Option Token
  b      : Option Token
  c      : Option Token
  p      : Option Token
  fed    : BitVec 4
  e      : Nat
  st     : OpState
  round  : BitVec 8
  trapen : BitVec 8
  seed   : W64
  acked  : Bool
  n      : Nat := 0
  refs   : List Nat := []
deriving DecidableEq, Repr

/-- What a firing does when it completes. -/
structure Effect where
  takes : List Nat := [0, 0, 0, 0]
  emits : List (Nat × Token) := []
  flags : FpFlags := 0#5
  st    : Option OpState := none
  round : Option (BitVec 8) := none
  data  : Nat := 0
  counted : Bool := false
deriving DecidableEq, Repr

/-- The outcome of a rule: an operand is missing, the firing faults (with what it would have taken), or it fires. -/
inductive Firing where
  | wait
  | fault (takes : List Nat) (info : FaultInfo)
  | fires (e : Effect)
deriving DecidableEq, Repr

def View.head (v : View) : Operand → Option Token
  | .a => v.a | .b => v.b | .c => v.c | .p => v.p

/-- A marker that a punctuating operator makes: from level 4 it carries the round counter (R189). -/
def View.made (v : View) (level : Nat) : Token :=
  if level ≥ 4 then marker level v.round else marker level (Config.lowRound v.info.id v.slot v.n)

/-- The round counter after making a marker of a level, and after passing a marker through (R189). -/
def View.afterMade (v : View) (level : Nat) : BitVec 8 := if level ≥ 4 then v.round + 1#8 else v.round
def View.afterPassed (v : View) (m : Token) : BitVec 8 := if m.level ≥ 4 then m.round + 1#8 else v.round

/-- The counts of one token from each operand of a list. -/
def takeOne (ops : List Operand) : List Nat :=
  [Operand.a, .b, .c, .p].map fun o => if ops.contains o then 1 else 0

/-- The poison trap is enabled (R39, R135). -/
def View.poisonTrap (v : View) : Bool := v.trapen.getLsbD 7

/-- An operand value as a trap record holds it: a consumed token, or an immediate b (R426, R477). -/
def View.recorded (v : View) (ops : List Operand) (o : Operand) : W64 :=
  if ops.contains o then ((v.head o).map Token.recorded).getD 0#64
  else if o = .b && v.g.imm then immValue v.g.ty v.g.fmt
  else 0#64

/-- A fault with the default iteration vector and operand values of R426. -/
def View.fail (v : View) (ops : List Operand) (cause : Nat) : Firing :=
  .fault (takeOne ops) { cause, iter := some [v.e], opv := some ([Operand.a, .b, .c].map (v.recorded ops)) }

/-- One token on each of several targets. -/
def toTargets (ts : List Nat) (t : Token) : List (Nat × Token) := ts.map fun k => (k, t)

/-- The tokens that count as data on operand a (R123). -/
def View.dataOn (v : View) (ops : List Operand) : Nat :=
  if ops.contains .a && (v.a.map Token.isData).getD false then 1 else 0

/-- What an operation answers: a value with its flags, or a fault. -/
inductive OpOut where
  | value (v : W64) (flags : FpFlags)
  | fault (cause : Nat)
deriving DecidableEq, Repr

/-- The heads of a list of operands, none where one is missing. -/
def View.heads (v : View) (ops : List Operand) : Option (List Token) := ops.mapM v.head

/-- The marker branch of R38: heads that are all markers are joined, other heads fault with 0x51. -/
def View.joined (v : View) (ops : List Operand) (heads : List Token) (k : Token → Effect) : Firing :=
  if heads.all Token.isMarker then
    match joinMarkers heads with
    | some m => .fires { k m with takes := takeOne ops }
    | none => v.fail ops 0x51
  else v.fail ops 0x51

/-- An element-wise firing (R38, R147): `f` is the operation on the operand values, in the order of `ops`. -/
def View.element (v : View) (ops : List Operand) (targets : List Nat) (f : List W64 → OpOut) : Firing :=
  match v.heads ops with
  | none => .wait
  | some heads =>
    if heads.any Token.isMarker then v.joined ops heads fun m => { emits := toTargets targets m }
    else match heads.find? Token.isPoison with
      | some q =>
        if v.poisonTrap then v.fail ops 0x30
        else .fires { takes := takeOne ops, emits := toTargets targets q, data := v.dataOn ops, counted := true }
      | none =>
        match f (heads.map Token.val) with
        | .fault c => v.fail ops c
        | .value x flags =>
          match flagFault flags (v.info.policy.getLsbD 4) v.trapen with
          | some c => v.fail ops c
          | none =>
            .fires { takes := takeOne ops, emits := toTargets targets (.data x), flags, data := v.dataOn ops, counted := true }

/-- The operands a Form I instruction with operands a and b consumes: b is an immediate when q<2> is 1 (R67). -/
def View.opsAB (v : View) : List Operand := if v.g.imm then [.a] else [.a, .b]
def View.opsABC (v : View) : List Operand := if v.g.imm then [.a, .c] else [.a, .b, .c]

/-- One operand a. -/
def View.unary (v : View) (f : W64 → OpOut) : Firing :=
  v.element [.a] [0, 1] fun xs => match xs with | [a] => f a | _ => .value 0#64 0#5

/-- Operands a and b, or a and an immediate. -/
def View.binary (v : View) (f : W64 → W64 → OpOut) : Firing :=
  v.element v.opsAB [0, 1] fun xs => match xs with
    | [a, b] => f a b
    | [a] => f a (immValue v.g.ty v.g.fmt)
    | _ => .value 0#64 0#5

/-- Operands a, b and c, or a, an immediate and c. -/
def View.ternary (v : View) (f : W64 → W64 → W64 → OpOut) : Firing :=
  v.element v.opsABC [0, 1] fun xs => match xs with
    | [a, b, c] => f a b c
    | [a, c] => f a (immValue v.g.ty v.g.fmt) c
    | _ => .value 0#64 0#5

/-- A result that raises no flag. -/
def OpOut.ok (v : W64) : OpOut := .value v 0#5

/-- The floating-point environment of a block's policy and the word's mode (R66, R127). -/
def View.env (v : View) : FpEnv := .ofPolicy v.info.policy v.g.mode.toNat

/-- A lane-wise floating-point result (R118). -/
def OpOut.lanes (t : Ty) (f : Nat → Nat × FpFlags) : OpOut := let r := perLane t f; .value r.1 r.2

end Sys2Proof.Machine
end

