-- ==== Sys2Proof/Machine/Operators.lean ====
section
/-! DEFINITION. The rules of the control operators of the routers, reductions, scans, compaction, patterns, calls and ports (R184 to
R218) and of TRAPRD, and what a DRAIN waits for (R42). A rule gives one firing in its slot. -/

namespace Sys2Proof.Machine

/-- Fires, taking one token from each operand of a list. -/
def View.go (v : View) (ops : List Operand) (emits : List (Nat × Token)) (st : Option OpState := none)
    (round : Option (BitVec 8) := none) : Firing :=
  let counted := ops.any fun o => match v.head o with
    | some (.data _) | some (.poison _) | some (.beat _) => true
    | _ => false
  .fires { takes := takeOne ops, emits, st, round, data := v.dataOn ops, counted }

/-- marker_join of R187, with what is emitted. -/
def View.join (v : View) (ops : List Operand) (k : Token → Effect) : Firing :=
  match v.heads ops with
  | none => .wait
  | some hs => v.joined ops hs k

def both : Token → List (Nat × Token) := toTargets [0, 1]

/-- A true predicate: data with bit 0 set. -/
def Token.isTrue (t : Token) : Bool := match t with | .data x => x.getLsbD 0 | _ => false

/-- R187: poison on a predicate faults where the trap is enabled. -/
def View.predicate (v : View) (ops : List Operand) (c : Token) (k : Firing) : Firing :=
  if c.isPoison && v.poisonTrap then v.fail ops 0x30 else k

/-! ## Steering and loops (R192 to R195) -/

def ruleSteer (v : View) : Firing :=
  let q := v.g.opt.toNat
  match v.a, v.p with
  | some a, some c =>
    if q = 3 ∧ c.isMarker then v.fail [.a, .p] 0x51
    else if q ≠ 3 ∧ (a.isMarker ∨ c.isMarker) then
      v.join [.a, .p] fun m => { emits := (if q ≠ 2 then [(0, m)] else []) ++ (if q ≠ 1 then [(1, m)] else []) }
    else v.predicate [.a, .p] c (
      if c.isPoison then v.go [.a, .p] [(1, c)]
      else if c.isTrue then v.go [.a, .p] [(0, a)] else v.go [.a, .p] [(1, a)])
  | _, _ => .wait

def ruleMerge (v : View) : Firing :=
  let q := v.g.opt.toNat
  match v.p with
  | none => .wait
  | some c =>
    if c.isMarker then
      if q = 3 then v.fail [.p] 0x51
      else v.join (match q with | 1 => [.a, .p] | 2 => [.b, .p] | _ => [.a, .b, .p]) fun m => { emits := both m }
    else
      let o : Operand := if c.isTrue then .a else .b
      match v.head o with
      | none => .wait
      | some x =>
        if q ≠ 3 ∧ x.isMarker then v.fail [o, .p] 0x51
        else v.predicate [o, .p] c (v.go [o, .p] (both (if c.isPoison then c else x)))

/-- The state of CARRY or INVAR (R183). -/
def View.loopState (v : View) : LoopState := match v.st with | .loop s _ => s | _ => .idle

/-- The firing of CARRY and INVAR on operand a in INIT or EMPTY, and on an echo (R194, R195). -/
def ruleLoopIdle (v : View) (hold : Token → OpState) : Firing :=
  match v.a with
  | none => .wait
  | some t =>
    if t.isMarker then v.go [.a] (both t) (some (.loop (if v.g.opt.getLsbD 0 then .idle else .echo) none))
    else v.go [.a] (both t) (some (hold t))
def ruleLoopEcho (v : View) : Firing :=
  match v.p with
  | none => .wait
  | some t => if t.isMarker then v.go [.p] [] (some (.loop .idle none)) else v.fail [.p] 0x51

def ruleCarry (v : View) : Firing :=
  match v.loopState with
  | .idle => ruleLoopIdle v fun _ => .loop .busy none
  | .echo => ruleLoopEcho v
  | .busy =>
    match v.p with
    | none => .wait
    | some c =>
      if c.isMarker then v.fail [.p] 0x51
      else if c.isTrue then
        match v.b with
        | none => .wait
        | some x => if x.isMarker then v.fail [.b, .p] 0x51 else v.go [.b, .p] (both x)
      else v.predicate [.p] c (v.go [.p] [] (some (.loop .idle none)))

def ruleInvar (v : View) : Firing :=
  match v.loopState with
  | .idle => ruleLoopIdle v fun t => .loop .busy (some t)
  | .echo => ruleLoopEcho v
  | .busy =>
    match v.p with
    | none => .wait
    | some c =>
      if c.isMarker then v.fail [.p] 0x51
      else if c.isTrue then v.go [.p] (match v.st with | .loop _ (some x) => both x | _ => [])
      else v.predicate [.p] c (v.go [.p] [] (some (.loop .idle none)))

/-! ## Fan-out, discard, gating (R196 to R198) -/

def ruleFork (v : View) : Firing :=
  match v.a with | none => .wait | some t => v.go [.a] (toTargets [0, 1, 2, 3] t)
def ruleSink (v : View) : Firing :=
  match v.a with | none => .wait | some t => v.go [.a] (if t.level ≥ 6 then [(sinkTarget, t)] else [])
def ruleGate (v : View) : Firing :=
  match v.a with
  | none => .wait
  | some t =>
    if t.isMarker then v.go [.a] (both t)
    else match v.p with
      | none => .wait
      | some _ => v.go [.a, .p] (both t)

/-! ## Sequences and punctuation (R199 to R204) -/

/-- The signed step of COUNT, and whether a value is still in the range. -/
def countStep (g : GArgs) : Int := (BitVec.ofNat 16 (g.bits 15 0)).toInt
def countMore (g : GArgs) (k hi : Int) : Bool :=
  (if countStep g > 0 then k < hi else k > hi) || (g.opt.getLsbD 0 && k == hi)

/-- The end of a COUNT: its marker in a cycle of its own, or at once where no marker is asked for. -/
def countEnd (v : View) : Firing :=
  let l := v.g.bits 18 16
  if l = 0 then v.go [.a, .b] [] (some (.count none))
  else .fires { takes := takeOne [.a, .b], emits := both (v.made l), st := some .plain, round := some (v.afterMade l),
                data := v.dataOn [.a, .b], counted := true }

/-- One cycle of COUNT from value k. -/
def countFrom (v : View) (k hi : Int) : Firing :=
  if countMore v.g k hi then
    let next := k + countStep v.g
    let out := both (.data (tyWrap v.g.ty k))
    if countMore v.g next hi then .fires { emits := out, st := some (.count (some next)) }
    else if v.g.bits 18 16 = 0 then
      .fires { takes := takeOne [.a, .b], emits := out, st := some .plain, data := v.dataOn [.a, .b], counted := true }
    else .fires { emits := out, st := some (.count none) }
  else if v.g.bits 18 16 = 0 then
    .fires { takes := takeOne [.a, .b], st := some .plain, data := v.dataOn [.a, .b], counted := true }
  else countEnd v

def ruleCount (v : View) : Firing :=
  match v.a, v.b with
  | some a, some b =>
    match v.st with
    | .count (some k) => countFrom v k (tyVal v.g.ty b.val)
    | .count none => countEnd v
    | _ =>
      if a.isMarker || b.isMarker then
        v.join [.a, .b] fun m => { emits := both m, round := some (v.afterPassed m) }
      else if a.isPoison || b.isPoison then
        if v.poisonTrap then v.fail [.a, .b] 0x30
        else
          let q := if a.isPoison then a else b
          if v.g.bits 18 16 = 0 then
            .fires { takes := takeOne [.a, .b], emits := both q, data := v.dataOn [.a, .b], counted := true }
          else .fires { emits := both q, st := some (.count none) }
      else countFrom v (tyVal v.g.ty a.val) (tyVal v.g.ty b.val)
  | _, _ => .wait

/-- MARK's count, and whether a marker is pending (R200). -/
def markState (v : View) : Nat × Bool := match v.st with | .mark n p => (n, p) | _ => (0, false)
def markStatus (g : GArgs) : BitVec 8 := BitVec.ofNat 8 (g.bits 25 19 * 2)
def withStatus (t : Token) (st : BitVec 8) : Token :=
  match t with | .marker l r x => .marker l r (x ||| st) | t => t

def ruleMark (v : View) : Firing :=
  let (n, pending) := markState v
  let l := v.g.bits 18 16
  match v.a with
  | none => .wait
  | some t =>
    if pending then
      match t with
      | .marker lt rt st =>
        let top := max lt.toNat l
        if lt.toNat ≥ 4 then
          v.go [.a] (both (.marker (BitVec.ofNat 3 top) rt (st ||| markStatus v.g))) (some (.mark 0 false)) (some (rt + 1#8))
        else v.go [.a] (both (withStatus (v.made top) (st ||| markStatus v.g))) (some (.mark 0 false)) (some (v.afterMade top))
      | _ => .fires { emits := both (withStatus (v.made l) (markStatus v.g)), st := some (.mark 0 false),
                      round := some (v.afterMade l) }
    else match t with
      | .marker lt _ _ =>
        v.go [.a] (both t) (some (.mark (if lt.toNat ≥ l then 0 else n) false)) (some (v.afterPassed t))
      | _ =>
        if n + 1 ≥ v.g.bits 15 0 + 1 then v.go [.a] (both t) (some (.mark 0 true))
        else v.go [.a] (both t) (some (.mark (n + 1) false))

def ruleMstrip (v : View) : Firing :=
  match v.a with
  | none => .wait
  | some t => if t.isMarker ∧ t.level ≤ v.g.bits 2 0 then v.go [.a] [] else v.go [.a] (both t)

/-- MLIFT (R202). A marker of level 4 or more that it rewrites to a level below 4 leaves the round counter as it is (log 114). -/
def ruleMlift (v : View) : Firing :=
  let src := v.g.bits 2 0
  let dst := v.g.bits 5 3
  match v.a with
  | none => .wait
  | some t =>
    match t with
    | .marker l r st =>
      if l.toNat = src then
        if dst ≥ 4 ∧ src < 4 then
          v.go [.a] (both (.marker (BitVec.ofNat 3 dst) v.round st)) none (some (v.round + 1#8))
        else
          let m := Token.marker (BitVec.ofNat 3 dst) r st
          v.go [.a] (both m) none (some (v.afterPassed m))
      else v.go [.a] (both t) none (some (v.afterPassed t))
    | _ => v.go [.a] (both t)

def ruleMtest (v : View) : Firing :=
  match v.a with
  | none => .wait
  | some t => v.go [.a] [(0, .data (predWord (t.isMarker && decide (t.level ≥ v.g.bits 2 0)))), (1, t)]

def ruleZip (v : View) : Firing :=
  let (turn, taken) := match v.st with | .zip t k => (t, k) | _ => (0, 0)
  let three := v.fed.getLsbD 2
  let o : Operand := if turn = 0 then .a else if turn = 1 then .b else .c
  match v.head o with
  | none => .wait
  | some t =>
    if t.isMarker then
      if turn = 0 ∧ taken = 0 then v.join ([.a, .b] ++ if three then [.c] else []) fun m => { emits := both m }
      else v.fail [o] 0x51
    else
      let last := taken + 1 ≥ v.g.bits 7 0 + 1
      let turn' := if turn + 1 ≥ (if three then 3 else 2) then 0 else turn + 1
      v.go [o] (both t) (some (if last then .zip turn' 0 else .zip turn (taken + 1)))

/-! ## Ordering, barriers, drains (R205 to R208) -/

def ruleOrd (v : View) : Firing :=
  match v.a with
  | none => .wait
  | some t => v.go [.a] (if t.isMarker ∧ ¬ v.g.opt.getLsbD 0 then [] else both .ord)

def ruleJoin (v : View) : Firing :=
  let n := v.g.bits 15 0 + 1
  let (ka, kb, kc, kp) := match v.st with | .join a b c p => (a, b, c, p) | _ => (0, 0, 0, 0)
  let take (o : Operand) (i k : Nat) : Bool := v.fed.getLsbD i && decide (k < n) && (v.head o).isSome
  let ta := take .a 0 ka
  let tb := take .b 1 kb
  let tc := take .c 2 kc
  let tp := take .p 3 kp
  let a' := if ta then ka + 1 else ka
  let b' := if tb then kb + 1 else kb
  let c' := if tc then kc + 1 else kc
  let p' := if tp then kp + 1 else kp
  let full (i k : Nat) : Bool := !v.fed.getLsbD i || decide (k ≥ n)
  let ops := (if ta then [Operand.a] else []) ++ (if tb then [Operand.b] else []) ++ (if tc then [Operand.c] else []) ++
    (if tp then [Operand.p] else [])
  if ops.isEmpty then .wait
  else if full 0 a' && full 1 b' && full 2 c' && full 3 p' then
    .fires { takes := takeOne ops, emits := both .ord, st := some (.join 0 0 0 0) }
  else .fires { takes := takeOne ops, st := some (.join a' b' c' p') }

/-- A BAR that holds no count takes one, and ignores a marker on b (R207). -/
def barCount (v : View) (b : Option Token) : Firing :=
  match b with
  | some c =>
    if c.isMarker then v.go [.b] []
    else v.predicate [.b] c (v.go [.b] [] (some (.bar (some (if c.isPoison then 0 else c.val.toNat % 2 ^ 32)))))
  | none => .wait

/-- BAR (R188, R207). Without a count, a marker of level 6 or 7 passes at once and any other token of a waits for one, so that
the place of the marker that it injects depends on the counts (log 15). -/
def ruleBar (v : View) : Firing :=
  let l := if v.g.opt.getLsbD 0 then 7 else 6
  match v.st with
  | .bar (some 0) => .fires { emits := both (v.made l), st := some (.bar none), round := some (v.afterMade l) }
  | .bar (some (k + 1)) =>
    match v.a with
    | none => .wait
    | some t =>
      if t.isMarker then v.go [.a] (both t) none (some (v.afterPassed t))
      else v.go [.a] (both t) (some (.bar (some k)))
  | _ =>
    match v.a, v.b with
    | some t, b =>
      if t.level ≥ 6 then v.go [.a] (both t) none (some (v.afterPassed t)) else barCount v b
    | none, b => barCount v b

def ruleDrain (v : View) : Firing :=
  match v.a with
  | none => .wait
  | some t =>
    if t.level ≥ 6 then v.go [.a] ([(1, .ord), (sinkTarget, t)] ++ if v.g.opt.getLsbD 0 then [(0, t)] else [])
    else v.go [.a] [(0, t)]

/-! ## Calls, entries, exits (R209, R210) -/

/-- A CALL stands for nothing once its site is expanded; a token that reaches one of its operands goes on to the callee's
entry, which is target 4, 5 or 6. -/
def ruleCall (v : View) : Firing :=
  match v.a, v.b, v.c with
  | some t, _, _ => v.go [.a] [(4, t)]
  | none, some t, _ => v.go [.b] [(5, t)]
  | none, none, some t => v.go [.c] [(6, t)]
  | none, none, none => .wait
def ruleEntry (v : View) : Firing := match v.a with | none => .wait | some t => v.go [.a] (both t)
def ruleExit (v : View) : Firing := match v.a with | none => .wait | some t => v.go [.a] (both t)

/-! ## Reductions and scans (R137, R213 to R216) -/

/-- One step of an operator of R213 with its flags; min and max are FMIN and FMAX of the block's version. -/
def redStep (v : View) (ty : Ty) (op mode : Nat) (x y : W64) : W64 × FpFlags :=
  let env := FpEnv.ofPolicy v.info.policy mode
  let fp (f : Fmt → FpEnv → Nat → Nat → Nat × FpFlags) := perLane ty fun k => f (fmtOf ty) env (lane ty x k) (lane ty y k)
  let v1 := decide (v.info.version ≤ 1)
  if ty.isFloat then
    match op with
    | 0 => fp fpAdd | 1 => fp fpMul | 2 => fp (fpMinMax v1 false false) | _ => fp (fpMinMax v1 true false)
  else (match op with
    | 0 => intAdd ty x y | 1 => intMul ty x y | 2 => intMin ty x y | 3 => intMax ty x y
    | 4 => bitAnd ty x y | 5 => bitOr ty x y | _ => bitXor ty x y, 0#5)

/-- The identity of an operator (R213). -/
def redIdentity (ty : Ty) (op : Nat) : W64 :=
  let f := fmtOf ty
  if ty.isFloat then
    match op with
    | 0 => 0#64 | 1 => BitVec.ofNat 64 (f.bias * 2 ^ f.fbits)
    | 2 | 8 => BitVec.ofNat 64 (f.inf false) | _ => BitVec.ofNat 64 (f.inf true)
  else match op with
    | 0 | 5 | 6 => 0#64 | 1 => 1#64 | 2 | 8 => tyWrap ty (tyHi ty) | 3 | 9 => tyWrap ty (tyLo ty) | _ => tyWrap ty (-1)

/-- x strictly better than y for argmin or argmax, both no NaN, as FMIN and FMAX read them (R159, R215). -/
def argBetter (env : FpEnv) (ty : Ty) (isMax : Bool) (x y : W64) : Bool :=
  if ty.isFloat then
    let f := fmtOf ty
    let x := env.read f (lane ty x 0)
    let y := env.read f (lane ty y 0)
    if isMax then f.below y x else f.below x y
  else if isMax then tyVal ty x > tyVal ty y else tyVal ty x < tyVal ty y

/-- Two partials combined: an absent one leaves the other unchanged; each rounding keeps its own flags (R137, R215). -/
def combine (v : View) (ty : Ty) (op mode : Nat) (x y : Option Partial) : Option Partial × List FpFlags :=
  match x, y with
  | none, y => (y, [])
  | x, none => (x, [])
  | some x, some y =>
    if op = 8 ∨ op = 9 then
      let (val, fl) := redStep v ty (op - 6) mode x.value y.value
      let f := fmtOf ty
      let env := FpEnv.ofPolicy v.info.policy mode
      let nx := ty.isFloat && f.isNan (lane ty x.value 0)
      let ny := ty.isFloat && f.isNan (lane ty y.value 0)
      let idx :=
        if (nx || ny) && decide (v.info.version ≤ 1) then Config.argIndex x.index y.index
        else if nx && ny then x.index
        else if nx then y.index
        else if ny then x.index
        else if argBetter env ty (op = 9) x.value y.value then x.index
        else if argBetter env ty (op = 9) y.value x.value then y.index
        else min x.index y.index
      (some ⟨val, idx⟩, [fl])
    else
      let (val, fl) := redStep v ty op mode x.value y.value
      (some ⟨val, 0⟩, [fl])

/-- tree(lo, n) of R137 over 2^k partials from lo. -/
def redTree (v : View) (ty : Ty) (op mode : Nat) (ps : List (Option Partial)) : Nat → Nat → Option Partial × List FpFlags
  | 0, lo => ((ps[lo]?).join, [])
  | k + 1, lo =>
    let x := redTree v ty op mode ps k lo
    let y := redTree v ty op mode ps k (lo + 2 ^ k)
    let r := combine v ty op mode x.1 y.1
    (r.1, x.2 ++ y.2 ++ r.2)

/-- The first trap that a sequence of roundings takes, each under R147, and the OR of their flags. -/
def roundings (v : View) (fs : List FpFlags) : Option Nat × FpFlags :=
  (fs.findSome? fun f => flagFault f (v.info.policy.getLsbD 4) v.trapen, fs.foldl (· ||| ·) 0#5)

/-- What a reduction's word says: type, operator, level, rounding mode, log2 of the width. -/
structure RedSpec where
  op   : Nat
  level : Nat
  mode : Nat
  lw   : Nat
deriving DecidableEq, Repr

def redState (v : View) : List (Option Partial) × Nat × Option (BitVec 8) :=
  match v.st with | .red ps n p => (ps, n, p) | _ => ([], 0, none)

/-- A stateful node's check of a marker of level 4 or higher: the counter after it, none for fault 0x51 (R40). -/
def roundAfter (v : View) (stateful : Bool) (m : Token) : Option (BitVec 8) :=
  if stateful ∧ m.level ≥ 4 then (if m.round = v.round then some (v.round + 1#8) else none) else some v.round

/-- The partials with one more element: its partial holds it, or is combined with it. -/
def redAccept (v : View) (r : RedSpec) (x : W64) : List (Option Partial) × List FpFlags :=
  let (ps, n, _) := redState v
  let ps := if ps.length = 2 ^ r.lw then ps else List.replicate (2 ^ r.lw) none
  let j := n % 2 ^ r.lw
  let c := combine v v.g.ty r.op r.mode (ps[j]?).join (some ⟨x, n⟩)
  (ps.set j c.1, c.2)

/-- RED and REDX on operand a (R214, R215). A group's result and its marker leave in two cycles. -/
def ruleRed (v : View) (r : RedSpec) : Firing :=
  let stateful := r.level ≥ 4
  let arg := r.op = 8 ∨ r.op = 9
  match v.a with
  | none => .wait
  | some t =>
    let (ps, n, pois) := redState v
    match t with
    | .marker .. =>
      if v.st = .elem 1 then v.go [.a] (both t) (some .plain) (roundAfter v stateful t)
      else match roundAfter v stateful t with
        | none => v.fail [.a] 0x51
        | some rc =>
          if t.level ≥ r.level then
            match pois with
            | some c => .fires { emits := both (.poison c), st := some (.elem 1) }
            | none =>
              let out := redTree v v.g.ty r.op r.mode ps r.lw 0
              let res := if n = 0 then some ⟨redIdentity v.g.ty r.op, 0xFFFFFFFF⟩ else out.1
              let (trap, flags) := roundings v (if n = 0 then [] else out.2)
              match trap, res with
              | some c, _ => v.fail [.a] c
              | none, some p =>
                .fires { emits := if arg then [(0, .data p.value), (1, .data (BitVec.ofNat 64 (p.index % 2 ^ 32)))]
                                  else both (.data p.value)
                         flags, st := some (.elem 1) }
              | none, none => .fires { st := some (.elem 1) }
          else v.go [.a] (if t.level ≥ 6 then both t else []) none (some rc)
    | .poison c =>
      if v.poisonTrap then v.fail [.a] 0x30
      else v.go [.a] [] (some (.red ps (n + 1) (some (pois.getD c))))
    | t =>
      if pois.isSome then v.go [.a] [] (some (.red ps (n + 1) pois))
      else
        let (ps', fs) := redAccept v r t.val
        let (trap, flags) := roundings v fs
        match trap with
        | some c => v.fail [.a] c
        | none => .fires { takes := takeOne [.a], flags, st := some (.red ps' (n + 1) none), data := 1, counted := true }

/-- SCAN on operand a (R216); `ex` asks for the value before the element. -/
def ruleScan (v : View) (r : RedSpec) (ex : Bool) : Firing :=
  let stateful := r.level ≥ 4
  match v.a with
  | none => .wait
  | some t =>
    let (ps, n, pois) := redState v
    match t with
    | .marker .. =>
      match roundAfter v stateful t with
      | none => v.fail [.a] 0x51
      | some rc => v.go [.a] (both t) (if t.level ≥ r.level then some .plain else none) (some rc)
    | t =>
      if t.isPoison && v.poisonTrap then v.fail [.a] 0x30
      else
        let before := if n = 0 then (some ⟨redIdentity v.g.ty r.op, 0⟩, []) else redTree v v.g.ty r.op r.mode ps r.lw 0
        let dead := pois.isSome || t.isPoison
        let (ps', fs) := if dead then (ps, []) else redAccept v r t.val
        let after := redTree v v.g.ty r.op r.mode ps' r.lw 0
        let pois' := match pois, t with | some c, _ => some c | none, .poison c => some c | none, _ => none
        let shown : Option (BitVec 8) := if ex then pois else pois'
        let (trap, flags) := roundings v (fs ++ (if shown.isSome then [] else if ex then before.2 else after.2))
        let out := match shown with
          | some c => Token.poison c
          | none => .data (((if ex then before.1 else after.1).map (·.value)).getD 0#64)
        match trap with
        | some c => v.fail [.a] c
        | none => .fires { takes := takeOne [.a], emits := both out, flags, st := some (.red ps' (n + 1) pois')
                           data := v.dataOn [.a], counted := true }

/-- The round counter of a FILT after the markers x and y of its operands, none for fault 0x51: a stateful one checks each closing
marker, and a round is closed once one has come on both (R40). -/
def filtRound (v : View) (stateful : Bool) (x y : Token) : Option (BitVec 8) :=
  if !stateful then some v.round
  else if [x, y].any fun m => decide (4 ≤ m.level) && decide (m.round ≠ v.round) then none
  else some (if 4 ≤ x.level ∧ 4 ≤ y.level then v.round + 1#8 else v.round)

/-- The joined marker m ends a FILT's group: it has the level, and a stateful one has seen its round closed on both operands. -/
def filtEnds (stateful : Bool) (level : Nat) (x y m : Token) : Bool :=
  decide (level ≤ m.level) && (!stateful || decide (4 ≤ x.level ∧ 4 ≤ y.level))

/-- FILT on a and p (R217); `cnt` asks for the counts, which leave on target B before their marker. A marker that ends no group goes to
target A only (log 115). -/
def ruleFilt (v : View) (level : Nat) (cnt : Bool) : Firing :=
  let n := match v.st with | .tally n => n | _ => 0
  let stateful := cnt && decide (level ≥ 4)
  match v.a, v.p with
  | some a, some c =>
    if a.isMarker || c.isMarker then
      if a.isMarker && c.isMarker then
        match joinMarkers [a, c], filtRound v stateful a c with
        | some m, some rc =>
          let ends := filtEnds stateful level a c m
          if cnt ∧ ends ∧ v.st ≠ .elem 1 then
            .fires { emits := [(1, .data (BitVec.ofNat 64 (n % 2 ^ 32)))], st := some (.elem 1) }
          else
            .fires { takes := takeOne [.a, .p], emits := (0, m) :: (if cnt && ends then [(1, m)] else [])
                     st := if ends then some (.tally 0) else none, round := some rc }
        | _, _ => v.fail [.a, .p] 0x51
      else v.fail [.a, .p] 0x51
    else v.predicate [.a, .p] c (
      if c.isTrue then v.go [.a, .p] [(0, a)] (some (.tally (n + 1))) else v.go [.a, .p] [])
  | _, _ => .wait

/-- CMPCT (R218): the count leaves on target B a cycle before the marker. -/
def ruleCmpct (v : View) : Firing :=
  let level := v.g.bits 2 0
  let j := match v.st with | .tally n => n | _ => 0
  match v.a with
  | none => .wait
  | some t =>
    match t with
    | .marker .. =>
      match roundAfter v (decide (level ≥ 4)) t with
      | none => v.fail [.a] 0x51
      | some rc =>
        if t.level ≥ level then
          if v.st = .elem 1 then v.go [.a] (both t) (some (.tally 0)) (some rc)
          else .fires { emits := [(1, .data (BitVec.ofNat 64 (j % 2 ^ 32)))], st := some (.elem 1) }
        else v.go [.a] [(0, t)] none (some rc)
    | t =>
      v.predicate [.a] t (
        if t.isTrue then v.go [.a] [(0, .data (BitVec.ofNat 64 (j % 2 ^ 32)))] (some (.tally (j + 1))) else v.go [.a] [])

/-- The reduction that a PAT's fields name, with the width of its body's block, which the translator keeps in `refs`. -/
def patSpec (v : View) : RedSpec :=
  { op := v.g.bits 19 16, level := v.g.bits 22 20, mode := v.g.bits 25 23, lw := (v.refs[1]?).getD 0 }

/-- PAT (R211, R212). The translator makes two nodes of one: one hands the elements to the body's entries, in step, on
targets 4 to 6 (and, for a filter, operand a to the other node on target 7); the other, with `refs` beginning with 1,
reduces, scans or filters what exit 0 delivers. -/
def rulePat (v : View) : Firing :=
  if v.refs.head? = some 1 then
    match v.g.mode.toNat with
    | 2 => ruleRed v (patSpec v)
    | 3 => ruleScan v (patSpec v) (v.g.opt.getLsbD 0)
    | 4 => ruleFilt v (patSpec v).level (v.g.opt.getLsbD 0)
    | _ => ruleEntry v
  else
    let ops := [Operand.a] ++ (if v.fed.getLsbD 1 then [.b] else []) ++ (if v.fed.getLsbD 2 then [.c] else [])
    match v.heads ops with
    | none => .wait
    | some hs =>
      v.go ops ((hs.zipIdx.map fun (t, j) => (4 + j, t)) ++
        (if v.g.mode = 4#3 then (hs.head?.map fun t => (7, t)).toList else []))

def redSpec (v : View) : RedSpec := ⟨v.g.bits 3 0, v.g.bits 6 4, v.g.mode.toNat, v.info.widthLog2⟩
def redxSpec (v : View) : RedSpec := ⟨v.g.bits 3 0, v.g.bits 6 4, v.g.mode.toNat, v.g.bits 9 7⟩

/-- TRAPRD's rule (R433): one word for each data token, or all of them in order and a level-1 marker. -/
def ruleTraprd (word : Nat → W64) (v : View) : Firing :=
  if ¬ v.g.opt.getLsbD 0 then v.unary fun _ => .ok (word (v.g.bits 3 0))
  else match v.a with
    | none => .wait
    | some t =>
      if ¬ t.isData then v.unary fun x => .ok x
      else
        let i := match v.st with | .elem i => i | _ => 0
        if i < 16 then .fires { emits := outBoth (.data (word i)), st := some (.elem (i + 1)) }
        else .fires { takes := takeOne [.a], emits := outBoth (.marker 1#3 0#8 0#8), data := 1, counted := true, st := some .plain }


/-- A node that emits an engine's readout: an ACCRD, or the part of an MXTILE that does; `refs` holds the engine alone. -/
def Node.reads (n : Node) (i : Instr) : Option Nat :=
  match i, n.refs with
  | .accrd _, [e] | .mxtile _, [e] => some e
  | _, _ => none


/-! ### What a DRAIN waits for (R42) -/

/-- Target k of a node hands barriers on: it carries data, the node is no DRAIN, and none of MSTRIP, MTEST, STEER, FILT and CMPCT keeps
them there. Where a STEER.route sends a barrier depends on its predicate: it ends the paths that are known (log 88). -/
def passesBarrier (i : Instr) (version k : Nat) : Bool :=
  match i with
  | .drain _ => false
  | .mstrip g => decide (g.bits 2 0 < 6)
  | .mtest _ => decide (k ≠ 0)
  | .steer g => (match g.opt.toNat with | 0 => true | 1 => decide (k = 0) | 2 => decide (k = 1) | _ => false)
  | .filt g => decide (k = 0) || (g.opt.getLsbD 0 && decide (g.bits 2 0 ≤ 6))
  | .cmpct g => decide (k = 0) || decide (g.bits 2 0 ≤ 6)
  | i => (opInfo version i).any fun o => (if k = 0 then o.outA else o.outB) != .ord

/-- Whether a barrier that comes to an operand goes through its node (R188, R193, R206, R350). -/
def takesBarrier (i : Instr) (o : Operand) : Bool :=
  match i with
  | .carry _ | .invar _ | .gate _ | .bar _ => decide (o = .a)
  | .merge g => (match g.opt.toNat, o with | 1, .b | 2, .a | 3, .p => false | _, .c => false | _, _ => true)
  | .join _ => false
  | .cpym _ => decide (o ≠ .p)
  | _ => true

/-- The operands of nodes, and the channels of task-mode PEs, to which a node hands a barrier on. -/
def Node.barrierDests (n : Node) : List Dest :=
  match n.instr with
  | none => []
  | some i => n.outs.zipIdx.filterMap fun (x : Option Dest × Nat) => if passesBarrier i n.info.version x.2 then x.1 else none

/-- The nodes that a barrier goes to next; from an engine, those that read it. -/
def Plane.barrierNext (pl : Plane) (k : Nat) : List Nat :=
  match pl.nodes[k]? with
  | none => []
  | some n =>
    (n.barrierDests.filterMap fun d => match d with
      | .operand j o => if ((pl.nodes[j]?).bind Node.instr).any fun i => takesBarrier i o then some j else none
      | _ => none) ++
    pl.nodes.zipIdx.filterMap fun (x : Node × Nat) =>
      if (x.1.instr.bind fun i => x.1.reads i) = some k then some x.2 else none

/-- The nodes that a barrier reaches from a list of nodes. -/
def Plane.barrierReach (pl : Plane) : Nat → List Nat → List Nat
  | 0, seen => seen
  | fuel + 1, seen =>
    let next := (seen ++ seen.flatMap pl.barrierNext).eraseDups
    if next.length = seen.length then seen else pl.barrierReach fuel next

/-- The nodes that the barriers of the BARs above a DRAIN reach: its region. -/
def Plane.region (pl : Plane) (k : Nat) : List Nat :=
  let bars := pl.nodes.zipIdx.filterMap fun (x : Node × Nat) => match x.1.instr with | some (.bar _) => some x.2 | _ => none
  ((bars.map fun j => pl.barrierReach pl.nodes.length [j]).filter fun r => r.contains k).flatten.eraseDups

/-- The sinks of a region: its nodes that hand a barrier on to nothing, but for the DRAINs that end it and the engines. -/
def Plane.regionSinks (pl : Plane) (k : Nat) : List Node :=
  (pl.region k).filterMap fun j => match pl.nodes[j]? with
    | none => none
    | some n =>
      let ends := match n.instr with
        | some (.drain _) | some (.mxop _) | some (.mxtile _) | none => false
        | some _ => decide ((pl.barrierNext j).isEmpty)
      if ends && (n.barrierDests.all fun d => match d with | .pe .. => false | _ => true) then some n else none

/-- The channels of task-mode PEs that a region ends in. -/
def Plane.regionTasks (pl : Plane) (k : Nat) : List (Nat × Nat) :=
  ((pl.region k).flatMap fun j => ((pl.nodes[j]?).map Node.barrierDests).getD []).filterMap fun d => match d with
    | .pe e q => some (e, q)
    | _ => none

/-- A node that a STEER.route of the region leads to, and that does not lead on to the DRAIN, still holds a barrier. -/
def Plane.routedBarrier (pl : Plane) (k : Nat) : Bool :=
  let next := (pl.region k).flatMap fun j => match pl.nodes[j]?, (pl.nodes[j]?).bind Node.instr with
    | some n, some (.steer g) => if g.opt = 3#2 then n.outs.filterMap fun d => match d with | some (.operand i _) => some i | _ => none else []
    | _, _ => []
  ((pl.barrierReach pl.nodes.length next.eraseDups).filter fun j => !(pl.barrierReach pl.nodes.length [j]).contains k).any fun j =>
    ((pl.nodes[j]?).map fun n => [n.a, n.b, n.c, n.p].any fun q => q.toks.any fun t => decide (6 ≤ t.level)).getD false

/-- A barrier at a DRAIN waits while it has still to reach a sink of the region, or a task-mode PE that took one has a request
out. -/
def Plane.drainWaits (pl : Plane) (k : Nat) (n : Node) : Bool :=
  decide ((n.a.head.map Token.level).getD 0 ≥ 6) &&
    (((pl.regionSinks k).any fun m => decide (m.barriers ≤ n.barriers)) ||
     ((pl.regionTasks k).any fun eq => match pl.pes[eq.1]? with
       | some t => decide ((t.barriers[eq.2]?).getD 0 ≤ n.barriers) || pl.reqs.any fun r => decide (r.who = .pe eq.1)
       | none => false) ||
     pl.routedBarrier k)
end Sys2Proof.Machine
end

