-- ==== Sys2Proof/Machine/Timing.lean ====
section
/-! DEFINITION. Issue cycles, latencies and governor classes of the firings of a PE (R142, R144, R163, R176, R431), and
whether a node's next firing lacks
nothing but the grant and the governor (R36, R191). -/

namespace Sys2Proof.Machine

/-- What one firing costs: issue cycles, latency, governor class, whether the special-function unit serves it. -/
structure Cost where
  issue : Nat
  lat   : Nat
  cls   : Nat
  sfu   : Bool := false
deriving DecidableEq, Repr

def costInt (g : GArgs) : Cost := if g.ty.is64 then ⟨2, 2, 0, false⟩ else ⟨1, 1, 0, false⟩
def costMul (g : GArgs) : Cost := if g.ty.is64 then ⟨4, 6, 0, false⟩ else ⟨1, 3, 0, false⟩
def costDiv (g : GArgs) : Cost := if g.ty.is64 then ⟨32, 34, 0, false⟩ else ⟨16, 18, 0, false⟩
/-- A floating-point firing of a class: class 1 and 2 become class 3 on f64 (R144). -/
def costFlt (g : GArgs) (lat cls : Nat) : Cost :=
  if g.ty = .f64 then ⟨4, 8, if cls = 0 then 0 else 3, false⟩ else ⟨1, lat, cls, false⟩
def costSfu (g : GArgs) (lat : Nat) : Cost := if g.ty = .f64 then ⟨4, 2 * lat, 4, true⟩ else ⟨1, lat, 4, true⟩
def costCvt (g : GArgs) : Cost :=
  if g.ty = .f64 ∨ g.cvtSrc = some .f64 then ⟨4, 8, 3, false⟩ else ⟨1, 3, 1, false⟩

/-- The cost of a firing on a PE (R142, R144). -/
def cost : Instr → Cost
  | .mul g | .mulhi g | .mad g => costMul g
  | .div g | .rem g => costDiv g
  | .fadd g | .fsub g | .fmul g | .frnd g | .fscale g => costFlt g 4 1
  | .fma g | .fms g | .fnma g => costFlt g 4 2
  | .fmin g | .fmax g | .fminm g | .fmaxm g | .fmin1 g | .fcmp g | .fclass g => costFlt g 2 1
  | .fabs g | .fneg g | .fcpys g => costFlt g 2 0
  | .cvt g => costCvt g
  | .rcp g | .rsq g => costSfu g 8
  | .sqrt g | .fdiv g => costSfu g 12
  | .exp2 g | .log2 g => costSfu g 10
  | .sinpi g | .cospi g | .tanh g | .sigm g => costSfu g 14
  | .waitc _ | .trap _ | .trapack _ => ⟨1, 1, 0, false⟩
  | .traprd _ => ⟨1, 1, 6, false⟩
  | .add g | .sub g | .neg g | .abs g | .min g | .max g | .addsat g | .subsat g | .and g | .or g | .xor g | .andn g
  | .not g | .shl g | .shr g | .sar g | .rol g | .clz g | .ctz g | .popc g | .brev g | .bfx g | .bfi g | .cmp g
  | .sel g | .pack g | .unpk g | .mov g | .const g | .consth g | .sxt g => costInt g
  | _ => ⟨1, 1, 6, false⟩

/-- Whether an instruction is placed in a router slot, so that the governor does not charge it (R181, R182, R419, R459,
R466, R375, R377). -/
def inRouter : Instr → Bool
  | .steer _ | .merge _ | .carry _ | .invar _ | .fork _ | .sink _ | .gate _ | .count _ | .mark _ | .mstrip _ | .mlift _
  | .mtest _ | .zip _ | .ord _ | .join _ | .bar _ | .drain _ | .call _ | .entry _ | .exit _ | .pat _ | .red _ | .redx _
  | .scan _ | .filt _ | .cmpct _ | .kturn _ | .lstat _ | .spawn _ | .done _ | .twait _ | .sysrd _ | .syswr _
  | .rdtime _ | .tconv _ | .budrd _ => true
  | _ => false

/-- The operands that the next firing of a node needs at their heads (R36); none where the node never fires. -/
def needs (n : Node) (i : Instr) : Option (List Operand) :=
  let isM (o : Operand) := ((n.queue o).head.map Token.isMarker).getD false
  let fedOps := [Operand.a, .b, .c, .p].zipIdx.filterMap fun (o, k) => if n.fed.getLsbD k then some o else none
  match i with
  | .tscfg _ | .mxcfg _ | .mxcfgTile _ | .mxa _ | .mxb _ | .mxsc _ | .accrd _ | .accclr _ | .accld _ => none
  | .entry _ => some [.a]
  | .call _ | .join _ => let ops := fedOps.filter fun o => (n.queue o).head.isSome; if ops.isEmpty then none else some ops
  | .pat _ => if fedOps.isEmpty then none else some fedOps
  | .sst g =>
    let ab := if g.imm then [Operand.a, .b] else [.a]
    let i := match n.st with | .elem i => i | _ => 0
    some (match n.a.head with
      | some (.data v) => if isM .b ∨ (wbits v 63 56 < i ∧ ¬ g.mode.getLsbD 1) then ab else ab ++ [.c]
      | _ => ab)
  | .merge g =>
    match n.p.head with
    | some (.marker ..) => some (match g.opt.toNat with | 1 => [.p, .a] | 2 => [.p, .b] | 3 => [.p] | _ => [.p, .a, .b])
    | some t => some [.p, if t.isData && t.val.getLsbD 0 then .a else .b]
    | none => some [.p]
  | .carry _ =>
    match n.st with
    | .loop .busy _ => some (if (n.p.head.map fun t => t.isData && t.val.getLsbD 0).getD false then [.p, .b] else [.p])
    | .loop .echo _ => some [.p]
    | _ => some [.a]
  | .invar _ =>
    match n.st with
    | .loop .busy _ | .loop .echo _ => some [.p]
    | _ => some [.a]
  | .gate _ => some (if isM .a then [.a] else [.a, .p])
  | .zip _ => match n.st with
    | .zip t _ => some [if t = 0 then .a else if t = 1 then .b else .c]
    | _ => some [.a]
  | .cpym _ => some [.a]
  | .bar _ => match n.st with
    | .bar (some 0) => some []
    | .bar (some _) => some [.a]
    | _ => some (if (n.a.head.map Token.level).getD 0 ≥ 6 then [.a] else [.b])
  | .mxop _ | .mxtile _ => some [.a, .b]
  | .scat _ | .scatx _ => some (if n.st = .plain then [.a, .b, .c] else [.b, .c])
  | .gath _ => some (if n.st = .plain then [.a, .b] else [.b])
  | .agen g => some (if g.mode.toNat ≥ 4 ∧ isM .c then [.c] else if g.imm then [.a, .b] else [.a])
  | i =>
    match opInfo n.info.version i with
    | none => none
    | some o =>
      let ops := (if o.a ≠ .no then [Operand.a] else []) ++ (if o.b ≠ .no then [Operand.b] else []) ++
            (if o.c ≠ .no then [Operand.c] else []) ++ (if o.p ≠ .no then [Operand.p] else [])
      if ops.isEmpty then none else some ops

/-- A node's engine state. -/
def Node.mfe (n : Node) : Mfe :=
  match n.st with
  | .mfe m => m
  | _ => {}

/-- The tiles whose fragment engines a node takes: its own, or those of the array that an MXTILE is lowered into, which the translator lays in
`refs` as rows and columns (R243, R258). -/
def Node.mfeTiles (n : Node) : List (Nat × Nat) :=
  match n.place with
  | .mfe x y =>
    (List.range (max 1 ((n.refs[5]?).getD 1))).flatMap fun r =>
      (List.range (max 1 ((n.refs[6]?).getD 1))).map fun c => (x + 2 * c, y + 2 * r)
  | _ => []

/-- The flags of an engine's steps that have completed by a cycle, and the engine once they are raised (R251). -/
def Mfe.ripe (m : Mfe) (now : Nat) : FpFlags := (m.due.filter fun d => decide (d.1 ≤ now)).foldl (fun f d => f ||| d.2) 0#5
def Node.ripen (n : Node) (now : Nat) : Node :=
  match n.st with
  | .mfe m => { n with st := .mfe { m with due := m.due.filter fun d => decide (now < d.1) } }
  | _ => n

/-- A plane's flags with those of the engine steps that have completed by a cycle. -/
def Plane.ripeFlags (pl : Plane) (now : Nat) : FpFlags := pl.nodes.foldl (fun f n => f ||| n.mfe.ripe now) pl.flags
def Plane.ripen (pl : Plane) (now : Nat) : Plane := { pl with flags := pl.ripeFlags now, nodes := pl.nodes.map (·.ripen now) }

/-- The readout that waits at an engine. -/
def Plane.readout (pl : Plane) (e : Nat) : List Token := ((pl.nodes[e]?).map fun n => n.mfe.readout).getD []

/-- What a node's next firing needs at its operands; a reader needs a token of its engine's readout. -/
def Plane.operandsReady (pl : Plane) (n : Node) (i : Instr) : Option (List Operand) :=
  match n.reads i with
  | some e => if (pl.readout e).isEmpty then none else some []
  | none => needs n i

/-! ## What a node lacks for its next firing (R36) -/

/-- Firings of a node that have issued and not completed. -/
def Plane.issuedOf (pl : Plane) (i : Nat) : List Issued := pl.issued.filter fun f => f.node = i

/-- A fault of this agent is detected and not resolved: it does not fire (R421). -/
def Plane.stopped (pl : Plane) (who : Asker) : Bool :=
  pl.faults.any (fun f => f.who = some who) || (match pl.shown with | some f => decide (f.who = some who) | none => false)

/-- What the next firing of a node reads, under its context's trap enables. -/
def Plane.view (pl : Plane) (en : BitVec 8) (i : Nat) (n : Node) (g : GArgs) : View :=
  let inFlight := pl.issuedOf i
  let grant := if inFlight.isEmpty then n.grant else .none
  { g := g, info := n.info, slot := n.slot, a := n.a.head, b := n.b.head, c := n.c.head, p := n.p.head, fed := n.fed
    e := n.e + (inFlight.map (·.data)).foldl (· + ·) 0
    st := n.st, round := n.round, trapen := maskEnables grant en, seed := pl.seed
    acked := match grant with | .none => false | _ => true
    n := n.firings + inFlight.length, refs := n.refs }

/-- A rule's emissions find room (R36); a fault needs none. -/
def Firing.fits (f : Firing) (pl : Plane) (n : Node) : Bool :=
  match f with
  | .fires e => pl.canEmit n e.emits
  | _ => true

/-- Requests of an agent in flight, the tokens that only wait their turn aside (R274, R300). -/
def Plane.inFlight (pl : Plane) (who : Asker) : Nat :=
  (pl.reqs.filter fun r => decide (r.who = who) && !r.lost &&
    match r.acc with | .pass _ | .close .. | .ending _ | .child _ => false | _ => true).length

/-- The most requests of a node in flight (R274, R300), which an instruction with no space field reaches as one of spaces 1 to 5. -/
def inFlightMax (space : Nat) : Nat := if space = 0 then 16 else 256
def requestsMax (i : Instr) (g : GArgs) : Nat :=
  match i with
  | .rangeInit _ | .rangePull _ | .binrun _ => 256
  | _ => inFlightMax g.space

/-- Condition 3 of R36. -/
def Plane.hasRoom (pl : Plane) (n : Node) : Bool :=
  [0, 1].all fun k => match n.out k with
    | none => true
    | some d => decide (1 ≤ pl.room d)

/-- What waits before the rule of a memory node is asked: room, or the bound on its requests in flight. -/
def Plane.memReady (pl : Plane) (i : Nat) (n : Node) (limit : Nat) : Bool :=
  pl.claimed.isNone && pl.hasRoom n && decide (pl.inFlight (.node i) < limit)

/-- The rule of an operator that does not emit one token to each of its targets in every firing; which word TRAPRD reads has no part
in what its token needs. -/
def operatorRule : Instr → Option (View → Firing)
  | .steer _ => some ruleSteer
  | .merge _ => some ruleMerge
  | .carry _ => some ruleCarry
  | .invar _ => some ruleInvar
  | .fork _ => some ruleFork
  | .sink _ => some ruleSink
  | .gate _ => some ruleGate
  | .count _ => some ruleCount
  | .mark _ => some ruleMark
  | .mstrip _ => some ruleMstrip
  | .mlift _ => some ruleMlift
  | .mtest _ => some ruleMtest
  | .zip _ => some ruleZip
  | .ord _ => some ruleOrd
  | .join _ => some ruleJoin
  | .bar _ => some ruleBar
  | .drain _ => some ruleDrain
  | .call _ => some ruleCall
  | .entry _ => some ruleEntry
  | .exit _ => some ruleExit
  | .pat _ => some rulePat
  | .red _ => some fun v => ruleRed v (redSpec v)
  | .redx _ => some fun v => ruleRed v (redxSpec v)
  | .scan g => some fun v => ruleScan v (redSpec v) (g.opt.getLsbD 0)
  | .filt g => some fun v => ruleFilt v (g.bits 2 0) (g.opt.getLsbD 0)
  | .cmpct _ => some ruleCmpct
  | .traprd _ => some (ruleTraprd fun _ => 0#64)
  | _ => none

/-- A memory node, whose replies come later: one access at a time takes its operands. -/
def accesses : Instr → Bool
  | .ld _ | .ldv _ | .ldfe _ | .st _ | .stfe _ | .scat _ | .feclr _ | .feset _ | .fetest _ | .aadd _ | .aand _ | .aor _ | .axor _
  | .amin _ | .amax _ | .aminp _ | .afadd _ | .acas _ | .axchg _ | .ard _ | .aincb _ | .sld _ | .sst _ | .spld _ | .scatx _
  | .gath _ | .pref _ | .binadd _ | .binrun _ | .rangeInit _ | .rangePull _ | .lbwin _ | .agen _ | .fence _ => true
  | _ => false

/-- The governor charges a firing of the node once, however many steps it takes: the later ones are no candidates (R144). -/
def chargedOnce (i : Instr) : Bool := accesses i || match i with | .cpy _ | .cpym _ => true | _ => false

/-- A sink of markers that answers any other token with an ordering token on target A. -/
def acknowledges : Instr → Bool
  | .done _ | .twait _ | .syswr _ | .trapack _ | .kturn _ => true
  | _ => false

/-- What the next firing of an instruction with no rule of its own emits, under the trap enables that it sees: markers and poison of its
heads go on to both targets, data makes data, and a fault emits nothing. -/
def Node.emitsNext (n : Node) (en : BitVec 8) (i : Instr) : List (Nat × Token) :=
  let heads := [n.a, n.b, n.c, n.p].filterMap Queue.head
  match i with
  | .mxop _ | .mxtile _ => [(2, n.a.head.getD .ord), (3, n.b.head.getD .ord)]
  | .cpy _ | .cpym _ => []
  | .spawn _ => if heads.any Token.isPoison then [] else toTargets [0] ((n.a.head).getD .ord)
  | _ =>
    if heads.any Token.isMarker && !heads.all Token.isMarker then []
    else if heads.any Token.isPoison && (maskEnables n.grant en).getLsbD 7 then []
    else if acknowledges i then (if heads.any Token.isMarker then [] else [(0, .ord)])
    else toTargets [0, 1] ((heads.find? fun t => !t.isData).getD (.data 0#64))

/-- Conditions 2 and 3 of R36: the operands that the next firing consumes are present, and every target to which it emits has room for
the tokens emitted; with them, what else the node waits for. An agent with a fault does not fire (R421). -/
def Plane.ready (pl : Plane) (en : BitVec 8) (k : Nat) (n : Node) : Bool :=
  match n.instr with
  | none => false
  | some i =>
    match pl.operandsReady n i with
    | none => false
    | some ops =>
      !pl.stopped (.node k) && ops.all (fun o => (n.queue o).head.isSome) &&
      match n.reads i with
      | some e => pl.canEmit n (toTargets (match i with | .mxtile _ => [4] | _ => [0, 1]) (((pl.readout e).head?).getD .ord))
      | none =>
        match operatorRule i, i.gargs with
        | some rule, some g =>
          let f := rule (pl.view en k n g)
          decide (f ≠ .wait) && f.fits pl n && !((match i with | .drain _ => true | _ => false) && pl.drainWaits k n)
        | _, some g => if accesses i then pl.memReady k n (requestsMax i g) else pl.canEmit n (n.emitsNext en i)
        | _, none => pl.canEmit n (n.emitsNext en i)

end Sys2Proof.Machine
end

