-- ==== Sys2Proof/Machine/Tracks.lean ====
section
/-! DEFINITION. Tracks (R177 to R180): the channels of a plane, which of their buffers can pass a physical token on, and the boundary
edges that a token crosses (R17, R370). -/

namespace Sys2Proof.Machine

/-- The channels of a plane, each by where it leads. -/
def Plane.channels (pl : Plane) : List Dest :=
  ((List.range pl.nodes.length).flatMap fun j => [Dest.operand j .a, .operand j .b, .operand j .c, .operand j .p]) ++
  pl.pes.zipIdx.flatMap fun x => (List.range x.1.chans.length).map fun k => Dest.pe x.2 k

/-- The tile of a channel's consumer. -/
def Plane.consumerXY (pl : Plane) : Dest → Option (Nat × Nat)
  | .operand j _ => (pl.nodes[j]?).bind fun n => placeXY n.place
  | .pe k _ => (pl.pes[k]?).bind fun t => placeXY t.place
  | _ => none

/-- The tile at which hop k of a channel enters a router; behind the last hop, the tile of the consumer. -/
def Plane.hopXY (pl : Plane) (d : Dest) (q : Queue) (k : Nat) : Option (Nat × Nat) :=
  match q.hops[k]? with
  | some h => some (h.track.x, h.track.y)
  | none => pl.consumerXY d

/-- What comes behind hop k has a free place: the next track's buffer, or the consumer's queue. -/
def Plane.hopRoom (pl : Plane) (d : Dest) (q : Queue) (k : Nat) : Bool :=
  match q.hops[k + 1]? with
  | some h => decide (h.buf.length < trackPlaces)
  | none => decide (q.held (pl.wide d) < pl.capacity d)

/-- Hop k of a channel holds a physical token that has somewhere to go. -/
def Plane.hopReady (pl : Plane) (d : Dest) (q : Queue) (k : Nat) : Bool :=
  (q.hops[k]?).any (fun h => !h.buf.isEmpty) && pl.hopRoom d q k

/-- Some track of a plane meets every condition of R36 but the grant, so that the plane requests the cycle (R411). -/
def Plane.trackReady (pl : Plane) : Bool :=
  pl.channels.any fun d => (pl.queue d).any fun q => (List.range q.hops.length).any (pl.hopReady d q)

/-! ## Boundary edges (R17, R179, R370) -/

/-- The number of the boundary edge between two tiles, and whether its first direction leads from the one to the other. -/
def boundaryEdge (p q : Nat × Nat) : Option (Nat × Bool) :=
  if p.2 = q.2 ∧ p.1 = 39 ∧ q.1 = 40 then some (8 + p.2, true)
  else if p.2 = q.2 ∧ p.1 = 40 ∧ q.1 = 39 then some (8 + p.2, false)
  else if p.1 = q.1 ∧ p.2 = 35 ∧ q.2 = 36 then some (80 + p.1, true)
  else if p.1 = q.1 ∧ p.2 = 36 ∧ q.2 = 35 then some (80 + p.1, false)
  else none

/-- The boundary edge that a token crosses as it leaves hop k. -/
def Plane.crossing (pl : Plane) (d : Dest) (q : Queue) (k : Nat) : Option (Nat × Bool) :=
  match pl.hopXY d q k, pl.hopXY d q (k + 1) with
  | some a, some b => boundaryEdge a b
  | _, _ => none

/-- Physical tokens that an edge of share units moves in a direction in one granted cycle: the direction's share, the smaller one
during a turn (R179, R371). -/
def Edge.lanes (x : Edge) (first : Bool) : Nat :=
  let share (s : Nat) : Nat := if first then s else 4 - s
  match x.target with
  | some t => min (share x.share) (share t)
  | none => share x.share

/-- Tokens of data channels that have crossed an edge in a direction in the present granted cycle of the plane. -/
def Plane.crossed (pl : Plane) (e : Nat × Bool) : Nat :=
  pl.channels.foldl (fun n d => match pl.queue d with
    | some q =>
      if q.ord then n
      else n + (q.hops.zipIdx.filter fun x => x.1.moved == pl.grants && pl.crossing d q x.2 == some e).length
    | none => n) 0

/-! ## Moving a token -/

/-- The first token of hop k moves on, in the plane's granted cycle g: a track moves one token in a granted cycle, and a token passes
one track in it. -/
def Queue.moveHop (q : Queue) (k g : Nat) : Queue :=
  match q.hops[k]? with
  | some h => match h.buf with
    | w :: rest =>
      let hops := modifyAt q.hops k fun h => { h with buf := rest, rest := g + 1, moved := g }
      match hops[k + 1]? with
      | some _ =>
        { q with hops := modifyAt hops (k + 1) fun h =>
            { h with buf := h.buf ++ [w], rest := if h.buf.isEmpty then g + 1 else h.rest } }
      | none => Queue.arrive { q with hops } w
    | [] => q
  | none => q

end Sys2Proof.Machine
end

