-- ==== Sys2Proof/Machine/Grant.lean ====
section
/-! DEFINITION. Who may issue in a cycle: the plane sequencer of a paddock (R411 to R413) and the activity governor of a
compute tile with its special-function unit (R143, R414 to R418). Each is decided once for a cycle and kept. -/

namespace Sys2Proof.Machine

/-! ## The plane sequencer -/

/-- The freeze of a plane is due: 12 cycles have passed since its fault was detected (R421). -/
def Plane.freezeDue (pl : Plane) (now : Nat) : Bool := pl.freezeAt.any fun t => decide (t ≤ now)

/-- A plane requests a cycle for a node or a track that lacks nothing but the grant and the governor (R411), or for a task-mode PE with
an activation in progress. A plane whose freeze is due moves nothing (R421). `en` holds the trap enables of each context. -/
def Plane.requests (en : Nat → BitVec 8) (now : Nat) (pl : Plane) : Bool :=
  pl.st = .live && !pl.freezeDue now && !pl.reload && (pl.nodes.zipIdx.any (fun x => pl.ready (en pl.ctx) x.2 x.1) || pl.pes.any (fun t => t.act.isSome) || pl.trackReady)

/-- The plane's firing weight in a frame table (R412). -/
def Plane.weight (pl : Plane) : Nat := if pl.handler then 16 else pl.prio + 1

/-- The first of planes that satisfies a test, in cyclic order after one. -/
def firstAfter (after : Nat) (ok : Nat → Bool) : Option Nat :=
  ([1, 2, 3, 4].map fun k => (after + k) % 4).find? ok

/-- One slot of the frame table: credits after the slot's choice (R412). -/
def frameSlot (held : List (Nat × Nat)) (credit : List (Nat × Int)) : Nat × List (Nat × Int) :=
  let total : Int := (held.map fun h => (h.2 : Int)).foldl (· + ·) 0
  let credit : List (Nat × Int) := credit.map fun c =>
    (c.1, c.2 + (((((held.find? fun h => h.1 = c.1).map (·.2)).getD 0 : Nat)) : Int))
  let best := credit.foldl (fun (b : Option (Nat × Int)) c => match b with
    | none => some c
    | some x => if c.2 > x.2 then some c else some x) none
  let q := (best.map (·.1)).getD 0
  (q, credit.map fun c => if c.1 = q then (c.1, c.2 - total) else c)

def frameGo (held : List (Nat × Nat)) : Nat → List (Nat × Int) → List Nat
  | 0, _ => []
  | n + 1, credit => let r := frameSlot held credit; r.1 :: frameGo held n r.2

/-- The 64 slots of a frame for the held planes and their weights, in plane order; none without a held plane. -/
def frameTable (held : List (Nat × Nat)) : List Nat :=
  if held.isEmpty then [] else frameGo held 64 (held.map fun h => (h.1, 0))

/-- The held planes of a paddock with their weights (R412). -/
def Paddock.heldPlanes (d : Paddock) : List (Nat × Nat) :=
  d.planes.zipIdx.filterMap fun (pl, i) => if pl.st = .live ∨ pl.st = .frozen then some (i, pl.weight) else none

/-- A paddock of more than 512 tiles arbitrates by level (R413). -/
def Paddock.large (d : Paddock) : Bool := d.w * d.h > 512

/-- The level of a plane in a large paddock; handler-class planes stand above 7 (R413). -/
def Plane.rank (pl : Plane) : Nat := if pl.handler then 8 else max pl.level pl.prio

/-- The trap enables of a context. -/
def State.enables (s : State) (ctx : Nat) : BitVec 8 := (s.ctx ctx).trapen

/-- The plane that a paddock's sequencer grants a cycle to. -/
def Paddock.decide (d : Paddock) (en : Nat → BitVec 8) (cycle : Nat) : Option Nat :=
  let asks (i : Nat) : Bool := ((d.planes[i]?).map (Plane.requests en cycle)).getD false
  if d.large then
    let top := ((d.planes.filter (Plane.requests en cycle)).map Plane.rank).foldl max 0
    firstAfter ((mapGet d.lasts top).getD 3) fun i => asks i && ((d.planes[i]?).map Plane.rank).getD 0 == top
  else
    match d.frame[cycle % 256 / 4]? with
    | none => firstAfter d.last asks
    | some q => if asks q then some q else firstAfter q asks

/-- The plane last granted at each level, once a cycle is decided. -/
def Paddock.granted (d : Paddock) (r : Option Nat) : Map Nat :=
  match r with
  | some q => mapSet d.lasts (((d.planes[q]?).map Plane.rank).getD 0) q
  | none => d.lasts

/-- The sequencer's grant for the present cycle, decided once, and the state that keeps it. -/
def grantCycle (s : State) (p : PlaneId) : Bool × State :=
  match mapGet s.pads p.pad with
  | none => (false, s)
  | some d =>
    match d.grant with
    | some (t, r) => if t = s.cycle then (r = some p.plane, s) else decide d
    | none => decide d
where
  decide (d : Paddock) : Bool × State :=
    let r := d.decide s.enables s.cycle
    let planes := match r with
      | some q => modifyAt d.planes q fun pl => { pl with level := pl.prio, waited := 0, grants := pl.grants + 1 }
      | none => d.planes
    let d : Paddock := { d with grant := some (s.cycle, r), last := r.getD d.last, lasts := d.granted r, planes := planes }
    (r = some p.plane, { s with pads := mapSet s.pads p.pad d })

/-! ## The activity governor -/

/-- The value of an activity register as a tile uses it: within 64 cycles of a write, the old value or the new one, which
is not predictable (R417). `which` is 0 ACT_BUDGET, 1 ACT_WEIGHT_LO, 2 ACT_WEIGHT_HI. -/
def actReg (s : State) (which key : Nat) : W64 :=
  let now := match which with | 0 => s.regs.actBudget | 1 => s.regs.actLo | _ => s.regs.actHi
  match s.regs.actPending.find? fun w => w.1 = which ∧ s.cycle < w.2.2 with
  | some (_, old, _) => if Config.freeBit (s.cycle * 6000 + key) then old else now
  | none => now

/-- The weight of a class (R418). -/
def classWeight (s : State) (key cls : Nat) : Nat :=
  let r := if cls < 8 then actReg s 1 key else actReg s 2 key
  wbits r (cls % 8 * 8 + 7) (cls % 8 * 8)

def actBudgetOf (s : State) (key : Nat) : Nat := wbits (actReg s 0 key) 15 0
def actReserveOf (s : State) (key : Nat) : Nat := wbits (actReg s 0 key) 23 16

/-- W(t) of R414: the charges of the 31 cycles before t. -/
def Tile.windowSum (g : Tile) (t : Nat) : Nat :=
  (g.charges.filter fun c => c.1 < t ∧ t ≤ c.1 + 31).foldl (fun n c => n + c.2) 0
def Tile.chargedIn (g : Tile) (t : Nat) : Nat := (g.charges.filter fun c => c.1 = t).foldl (fun n c => n + c.2) 0

/-- A candidate PE of a cycle: its number, weight, whether its firing is a special function, whether its plane is
handler-class. -/
structure Cand where
  pe : Nat
  weight : Nat
  sfu : Bool
  handler : Bool
deriving DecidableEq, Repr

/-- One pass of R415 over PEs in order: the units charged so far, whether an urgent PE is blocked, and who is admitted. -/
def admitPes (limit : Nat) (urgent : List Nat) : List Cand → Nat → Bool → List Nat
  | [], _, _ => []
  | c :: rest, sum, stop =>
    if c.handler then c.pe :: admitPes limit urgent rest (sum + c.weight) stop
    else if !stop && sum + c.weight ≤ limit then c.pe :: admitPes limit urgent rest (sum + c.weight) stop
    else admitPes limit urgent rest sum (stop || urgent.contains c.pe)

/-- The order of R415: urgent PEs, oldest first, then the others from PE (t mod 8). -/
def peOrder (t : Nat) (urgent : List Nat) : List Nat :=
  urgent ++ (((List.range 8).map fun k => (t + k) % 8).filter fun k => !urgent.contains k)

/-- The candidates of a tile in a cycle, from the plane that its paddock's sequencer granted: PEs with their weights, and
the MFE's weight. -/
def tileCands (s : State) (p : PlaneId) (x y : Nat) (g : Tile) : List Cand × Option Nat :=
  match s.plane? p with
  | none => ([], none)
  | some pl =>
    let key := tileKey x y
    let here (j : Nat) (n : Node) : Option (Nat × Instr) :=
      match n.place, decodeGraph n.word with
      | .pe x' y' k, .ok i =>
        if x' = x ∧ y' = y ∧ pl.ready (s.enables pl.ctx) j n ∧ (g.busy[k]?).getD 0 ≤ s.cycle ∧ ¬ (n.charged ∧ chargedOnce i) then some (k, i)
        else none
      | _, _ => none
    let nodes := pl.nodes.zipIdx.filterMap fun q => (here q.2 q.1).map fun (k, i) =>
      ({ pe := k, weight := classWeight s key (cost i).cls, sfu := (cost i).sfu, handler := pl.handler } : Cand)
    let tasks := pl.pes.filterMap fun t => match t.place with
      | .pe x' y' k =>
        if x' = x ∧ y' = y ∧ t.act.isSome ∧ (g.busy[k]?).getD 0 ≤ s.cycle then
          some ({ pe := k, weight := classWeight s key 5, sfu := false, handler := pl.handler } : Cand)
        else none
      | _ => none
    let mfe := pl.nodes.zipIdx.findSome? fun q => let n := q.1; match decodeGraph n.word with
      | .ok (.mxop _) | .ok (.mxtile _) =>
        if n.mfeTiles.contains (x, y) ∧ pl.ready (s.enables pl.ctx) q.2 n ∧ g.mfeBusy ≤ s.cycle then
          some (classWeight s key ((n.refs[0]?).getD 8))
        else none
      | _ => none
    (nodes ++ tasks, mfe)

/-- The governor's pass for a cycle with the SFU's choice (R143, R415): who is admitted, whether the MFE is, which
candidates took part. -/
def governorPass (s : State) (g : Tile) (key : Nat) (cands : List Cand) (mfe : Option Nat) (mfeHandler : Bool) :
    List Nat × Bool × List Cand :=
  let w := g.windowSum s.cycle + g.chargedIn s.cycle
  let limit := actBudgetOf s key
  let mfeOk := match mfe with
    | none => false
    | some m => mfeHandler || decide (w + m + actReserveOf s key ≤ limit)
  let w := if mfeOk then w + mfe.getD 0 else w
  let ordered (cs : List Cand) := (peOrder s.cycle g.urgent).filterMap fun k => cs.find? fun c => c.pe = k
  let plain := cands.filter fun c => !c.sfu
  let pass (extra : List Cand) := admitPes limit g.urgent (ordered (plain ++ extra)) w false
  let sfus := if g.sfuBusy ≤ s.cycle then
      ((List.range 8).map fun k => (g.sfuLast + 1 + k) % 8).filterMap fun k => (cands.filter (·.sfu)).find? fun c => c.pe = k
    else []
  match sfus with
  | [] => (pass [], mfeOk, plain)
  | first :: _ =>
    match sfus.find? fun c => (pass [c]).contains c.pe with
    | some c => (pass [c], mfeOk, plain ++ [c])
    | none => (pass [first], mfeOk, plain ++ [first])

/-- The pass of a tile for the present cycle, decided once: blocked candidates count towards urgency (R415). -/
def tilePass (s : State) (p : PlaneId) (x y : Nat) : List Nat × Bool × State :=
  let key := tileKey x y
  let g := (mapGet s.tileGov key).getD {}
  match g.pass with
  | some (t, adm, mfe) => if t = s.cycle then (adm, mfe, s) else go g
  | none => go g
where
  go (g : Tile) : List Nat × Bool × State :=
    let key := tileKey x y
    let (cands, mfe) := tileCands s p x y g
    let handler := ((s.plane? p).map (·.handler)).getD false
    let (adm, mfeOk, part) := governorPass s g key cands mfe handler
    let blocked := (part.filter fun c => !adm.contains c.pe).map (·.pe)
    let streak := (List.range 8).map fun k => if blocked.contains k then (g.streak[k]?).getD 0 + 1 else 0
    let urgent := (g.urgent.filter fun k => blocked.contains k) ++
      (blocked.filter fun k => (streak[k]?).getD 0 ≥ 32 ∧ !g.urgent.contains k)
    let recent := fun t => decide (s.cycle ≤ t + 32)
    let g' := { g with
      pass := some (s.cycle, adm, mfeOk), streak := streak, urgent := urgent,
      blocks := (g.blocks.filter recent) ++ (blocked ++ (if mfe.isSome && !mfeOk then [0] else [])).map fun _ => s.cycle,
      charges := g.charges.filter fun c => recent c.1, mfe := g.mfe.filter recent }
    (adm, mfeOk, { s with tileGov := mapSet s.tileGov key g' })

/-- Admission of a PE's firing that makes so many operations: its issue port free and the governor's pass (R142, R415); a place
outside the grid is never blocked. The state keeps the charge and the port's occupancy, once for each operation (R182), and the
SFU's acceptance. -/
def admitTimes (s : State) (p : PlaneId) (place : Place) (c : Cost) (times : Nat) : Bool × State :=
  match place with
  | .pe x y k =>
    let (adm, _, s) := tilePass s p x y
    let key := tileKey x y
    let g := (mapGet s.tileGov key).getD {}
    let busy := (List.range 8).map fun i => (g.busy[i]?).getD 0
    if adm.contains k && decide ((g.busy[k]?).getD 0 ≤ s.cycle) then
      (true, { s with tileGov := mapSet s.tileGov key { g with
        charges := g.charges ++ List.replicate times (s.cycle, classWeight s key c.cls),
        busy := modifyAt busy k fun _ => s.cycle + times * c.issue,
        sfuLast := if c.sfu then k else g.sfuLast,
        sfuBusy := if c.sfu then s.cycle + c.issue else g.sfuBusy } })
    else (false, s)
  | _ => (true, s)

/-- Admission of a PE's firing of one operation. -/
def admitPe (s : State) (p : PlaneId) (place : Place) (c : Cost) : Bool × State := admitTimes s p place c 1

/-- The governors of some tiles admit a step of their MFEs, whose issue ports are free. -/
def passMfes (s : State) (p : PlaneId) : List (Nat × Nat) → Bool × State
  | [] => (true, s)
  | (x, y) :: rest =>
    let (_, ok, s) := tilePass s p x y
    let free := decide (((mapGet s.tileGov (tileKey x y)).getD {}).mfeBusy ≤ s.cycle)
    let (more, s) := passMfes s p rest
    (ok && free && more, s)

/-- An MFE's step is charged and occupies its issue port. -/
def State.chargeMfe (s : State) (cls issue : Nat) (xy : Nat × Nat) : State :=
  let key := tileKey xy.1 xy.2
  let g := (mapGet s.tileGov key).getD {}
  { s with tileGov := mapSet s.tileGov key { g with
      charges := g.charges ++ [(s.cycle, classWeight s key cls)], mfe := g.mfe ++ [s.cycle], mfeBusy := s.cycle + issue } }

/-- Admission of a step of the MFEs of some tiles (R250, R415), of a class and issue cycles: of one element, or of every element of an
MXTILE's array (R258), which the model issues together (log 118). -/
def admitMfe (s : State) (p : PlaneId) (tiles : List (Nat × Nat)) (cls issue : Nat) : Bool × State :=
  let (ok, s) := passMfes s p tiles
  if ok then (true, tiles.foldl (fun s xy => s.chargeMfe cls issue xy) s) else (false, s)

end Sys2Proof.Machine
end

