-- ==== Sys2Proof/Machine/Probe.lean ====
section
/-! DEFINITION. Address checks before an access leaves its node (R270, R302, R308, R314, R383), and the translation that
they use: TLB entries and the four-level walk (R306 to R309). -/

namespace Sys2Proof.Machine

/-- What a probe is asked: the memory space, the address, the bytes and the alignment, whether the access loads (0), stores
(1) or is an atomic (2), the region mode that admits it (R272), whether it must lie in a rounded region (R292), and the first-level
TLB of the attach point that it comes from (R309). -/
structure Ask where
  space : Nat
  va    : W64
  size  : Nat
  align : Nat
  kind  : Nat := 0
  mode  : Nat := 0
  rnd   : Bool := false
  cluster : Option Nat := none
deriving DecidableEq, Repr

/-- A probe's outcome: where the access lives, a cause, or a TLB miss. -/
inductive ProbeOut where
  | ok (loc : Nat)
  | fault (cause : Nat)
  | miss
deriving DecidableEq, Repr

/-! ## Spaces 0 and 1 -/

/-- The SRAM address of an offset of a tile: the tile index and the offset as R269 joins them. -/
def tileLoc (tile offset : Nat) : Nat := tile * 2 ^ 18 + offset

/-- The check of R270. A FIFO or a line buffer is named by offset 0 (R279, R280). -/
def Plane.probeTile (pl : Plane) (q : Ask) : ProbeOut :=
  let tile := wbits q.va 29 18
  let off := wbits q.va 17 0
  match pl.tiles[tile]? with
  | none => .fault 0x13
  | some t =>
    if wbits q.va 63 30 ≠ 0 ∨ off + q.size > t.bytes then .fault 0x13
    else if t.mode ≠ q.mode ∨ (q.mode ≠ 0 ∧ off ≠ 0) ∨ (q.rnd ∧ ¬ t.rounded) then .fault 0x13
    else if off % q.align ≠ 0 then .fault 0x18
    else .ok (tileLoc tile off)

/-- A context's port-store window on a die: its first page and its effective size in pages (R303). -/
def Ctx.window (c : Ctx) (md : Nat) : Nat × Nat :=
  let w := (c.pswin[md]?).getD 0#64
  let base := wbits w 14 0
  (base, min (wbits w 31 16) (32768 - base))

/-- The port-store address of a byte of a die. -/
def portLoc (md byte : Nat) : Nat := md * 2 ^ 27 + byte

/-- The check of R302. -/
def Ctx.probePort (c : Ctx) (q : Ask) : ProbeOut :=
  let md := wbits q.va 28 27
  let off := wbits q.va 26 0
  let (base, pages) := c.window md
  if wbits q.va 63 29 ≠ 0 ∨ off + q.size > pages * 4096 then .fault 0x14
  else if off % q.align ≠ 0 then .fault 0x18
  else .ok (portLoc md (base * 4096 + off))

/-! ## Spaces 2 to 4 -/

/-- A leaf as a TLB keeps it, of a page of 2^bits bytes. -/
structure Leaf where
  bits   : Nat
  frame  : Nat
  host   : Bool
  device : Bool
  write  : Bool
deriving DecidableEq, Repr

/-- Steps 3 and 4 of R308 for a leaf. -/
def Leaf.check (l : Leaf) (q : Ask) : ProbeOut :=
  if (q.kind ≥ 1 ∧ ¬ l.write) ∨ (q.kind = 2 ∧ l.device) ∨ (q.space = 4 ∧ ¬ l.host) ∨ (q.space ≠ 4 ∧ l.host) then .fault 0x11
  else if q.va.toNat % q.align ≠ 0 then .fault 0x18
  else .ok (l.frame + q.va.toNat % 2 ^ l.bits)

/-- The levels of a walk (R306): the lowest index bit, the index width, the alignment of the next table, and whether a leaf
may stand there. -/
structure WalkLevel where
  shift : Nat
  width : Nat
  next  : Nat
  leafOk : Bool
  leafMust : Bool
deriving DecidableEq, Repr

def walkLevels : List WalkLevel :=
  [⟨43, 13, 16, false, false⟩, ⟨30, 13, 12, true, false⟩, ⟨21, 9, 8, true, false⟩, ⟨16, 5, 8, true, true⟩]

/-- An entry at a level: a leaf, a pointer to the next table, or not valid (R307). -/
inductive TableEntry where
  | leaf (l : Leaf)
  | table (pa : Nat)
  | invalid
deriving DecidableEq, Repr

def WalkLevel.entry (lv : WalkLevel) (e : W64) : TableEntry :=
  let pa := wbits e 55 8 * 256
  let isLeaf := e.getLsbD 1
  let host := e.getLsbD 6
  if ¬ e.getLsbD 0 ∨ wbits e 63 56 ≠ 0 ∨ e.getLsbD 7 ∨ e.getLsbD 3 then .invalid
  else if isLeaf then
    if ¬ lv.leafOk ∨ wbits e 5 4 ≥ 2 ∨ (¬ host ∧ pa ≥ 2 ^ 40) ∨ pa % 2 ^ lv.shift ≠ 0 then .invalid
    else .leaf ⟨lv.shift, pa, host, wbits e 5 4 = 1, e.getLsbD 2⟩
  else if lv.leafMust ∨ wbits e 6 2 ≠ 0 ∨ pa ≥ 2 ^ 40 ∨ pa % 2 ^ lv.next ≠ 0 then .invalid
  else .table pa

/-- A walk from a table down the levels: a leaf, or the cause that ends it (R308, R309). A poisoned entry is an
uncorrectable error (R427). -/
def walkFrom (m : Memory) (va : Nat) : List WalkLevel → Nat → Except Nat Leaf
  | [], _ => .error 0x10
  | lv :: rest, table =>
    match m.readWord (table + va / 2 ^ lv.shift % 2 ^ lv.width * 8) 8 with
    | none => .error 0x31
    | some e =>
      match lv.entry (BitVec.ofNat 64 e) with
      | .invalid => .error 0x10
      | .leaf l => .ok l
      | .table pa => walkFrom m va rest pa

/-- The walk of a context's tables for a virtual address (R306, R310). -/
def State.walk (s : State) (ctx : Nat) (va : Nat) : Except Nat Leaf :=
  let base := (s.ctx ctx).ptbase
  if base.getLsbD 0 then walkFrom s.dram va walkLevels (wbits base 39 16 * 2 ^ 16) else .error 0x10

def TlbEntry.leaf (t : TlbEntry) : Leaf := ⟨t.bits, t.frame, t.host, t.device, t.write⟩

/-! ### TLBs (R309) -/

/-- The number of a TLB: the second level of a die, or the first level of a cluster of eight attach points along it. -/
def tlbKey (md : Nat) : Option Nat → Nat
  | none => md
  | some c => 4 + md * 16 + c

/-- The entries of a TLB. -/
def tlbSize (key : Nat) : Nat := if key < 4 then 16384 else 256

/-- A list with no more than n of the entries that satisfy a test, the first ones. -/
def keepFirst {α : Type} (p : α → Bool) : Nat → List α → List α
  | _, [] => []
  | n, x :: xs => if p x then (match n with | 0 => keepFirst p 0 xs | k + 1 => x :: keepFirst p k xs) else x :: keepFirst p n xs

/-- The leaf that one TLB holds for an address. -/
def State.tlbAt (s : State) (key asid va : Nat) : Option TlbEntry :=
  (s.tlbs.find? fun e => e.1 = key ∧ ¬ e.2.ptr ∧ e.2.asid = asid ∧ va / 2 ^ e.2.bits = e.2.page).map (·.2)

/-- The leaf that a probe finds: in the first level of its cluster, or in its die's second level. -/
def State.tlbFind (s : State) (md asid va : Nat) (cluster : Option Nat := none) : Option TlbEntry :=
  match s.tlbAt (tlbKey md cluster) asid va with
  | some e => some e
  | none => s.tlbAt md asid va

/-- A TLB with an entry held, in the place of any for its page, and of its oldest where it is full. -/
def State.tlbPut (s : State) (key : Nat) (e : TlbEntry) : State :=
  let old := s.tlbs.filter fun x => ¬ (x.1 = key ∧ x.2.asid = e.asid ∧ x.2.page = e.page ∧ x.2.bits = e.bits)
  { s with tlbs := keepFirst (fun x => decide (x.1 = key)) (tlbSize key) ((key, e) :: old) }

def Leaf.entry (l : Leaf) (asid va : Nat) : TlbEntry :=
  { asid, page := va / 2 ^ l.bits, bits := l.bits, frame := l.frame, host := l.host, device := l.device, write := l.write }

/-- The TLBs of a die, and of a cluster, with the leaf of an address held. -/
def State.tlbFill (s : State) (md asid va : Nat) (l : Leaf) (cluster : Option Nat := none) : State :=
  (s.tlbPut md (l.entry asid va)).tlbPut (tlbKey md cluster) (l.entry asid va)

/-- A pointer met on a walk, held in the die's second level: the table that it leads to for a range of 2^bits bytes. -/
def State.tlbPointer (s : State) (md asid va bits table : Nat) : State :=
  s.tlbPut md { asid, page := va / 2 ^ bits, bits, frame := table, host := false, device := false, write := false, ptr := true }

/-- Where a walk begins: at the lowest table that a pointer held leads to, or at the root; none where translation is off. -/
def State.walkStart (s : State) (md asid va : Nat) : Option (Nat × Nat) :=
  let ptrs := (s.tlbs.filter fun e => e.1 = md ∧ e.2.ptr ∧ e.2.asid = asid ∧ va / 2 ^ e.2.bits = e.2.page).map (·.2)
  let held := walkLevels.zipIdx.filterMap fun (lv : WalkLevel × Nat) =>
    (ptrs.find? fun e => e.bits = lv.1.shift).map fun e => (lv.2 + 1, e.frame)
  match held.getLast?, (s.ctx asid).ptbase.getLsbD 0 with
  | some x, _ => some x
  | none, true => some (0, wbits (s.ctx asid).ptbase 39 16 * 2 ^ 16)
  | none, false => none

/-- The check of R308 at a die: an address that is not canonical, a TLB hit, or a miss. A translation that a TLB holds serves until an
invalidation removes it, also after translation has been turned off (R312). -/
def State.probeVirtual (s : State) (ctx md : Nat) (q : Ask) : ProbeOut :=
  if wbits q.va 63 56 ≠ 0 then .fault 0x12
  else match s.tlbFind md ctx q.va.toNat q.cluster with
    | some t => t.leaf.check q
    | none => if (s.ctx ctx).ptbase.getLsbD 0 then .miss else .fault 0x10

/-! ## Space 5 -/

/-- The peer-table entry that a space-5 address names (R383). -/
def State.peerEntry (s : State) (ctx : Nat) (va : W64) : Option W64 :=
  let i := wbits va 55 48
  let r := (s.ctx ctx).peer
  let e := (mapGet s.regs.peerTab ((wbits r 7 0 + i) % 256)).getD 0#64
  if i < wbits r 15 8 ∧ e.getLsbD 63 then some e else none

/-- The check that the near die makes before a space-5 request leaves (R314, R383). -/
def State.probePeer (s : State) (ctx : Nat) (q : Ask) : ProbeOut :=
  if wbits q.va 63 56 ≠ 0 then .fault 0x12
  else if (s.peerEntry ctx q.va).isNone then .fault 0x11
  else .ok q.va.toNat

/-- The probe of an access in any space. -/
def State.probe (s : State) (pl : Plane) (md : Nat) (q : Ask) : ProbeOut :=
  match q.space with
  | 0 => pl.probeTile q
  | 1 => (s.ctx pl.ctx).probePort q
  | 5 => s.probePeer pl.ctx q
  | _ => s.probeVirtual pl.ctx md q

/-- The die whose part detects a probe's fault in a space: the near memory-port die, but for tile space (R20). -/
def probeDie (space md : Nat) : Option Nat := if space = 0 then none else some md

/-- The access kind of a trap record for an access that loads, stores, or is an atomic (R425). -/
def accessKind (kind : Nat) : Nat := kind + 1

/-- A walk is under way for this agent, whose access then waits. -/
def State.walking (s : State) (p : PlaneId) (who : Asker) : Bool :=
  s.walks.any fun w => w.plane = some p ∧ w.who = some who

/-- The walk that a miss starts (R309). -/
def missWalk (p : PlaneId) (pl : Plane) (who : Asker) (md : Nat) (q : Ask) (info : FaultInfo) (now : Nat) : Walk :=
  { asid := pl.ctx, va := q.va, md, space := q.space, write := q.kind ≥ 1, atomic := q.kind = 2, plane := some p,
    who := some who, size := q.align, iter := info.iter, opv := info.opv, access := info.access, since := now, cluster := q.cluster
    slot := info.slot }

end Sys2Proof.Machine
end

