-- ==== Sys2Proof/Machine/Home.lean ====
section
/-! DEFINITION. What an access does at its home, in one indivisible step (R264, R273 to R279, R288 to R291, R332, R353),
and what a change of a full-empty bit sets going (R277). -/

namespace Sys2Proof.Machine

/-! ## Values -/

/-- The token that a read of `size` bytes gives, extended by the type, or poison with cause 0x31 (R264, R273). -/
def loadToken (ty : Ty) (size : Nat) (raw : Option Nat) : Token :=
  match raw with
  | none => .poison 0x31#8
  | some n =>
    let up := if ty.signed ∧ n ≥ 2 ^ (8 * size - 1) then 2 ^ tyWidth ty - 2 ^ (8 * size) else 0
    .data (BitVec.ofNat 64 (n + up))

/-- A value token's word, none for poison (R39). -/
def Token.word : Token → Option W64
  | .data v => some v
  | .poison _ => none
  | t => some t.payload

/-- The new value of an atomic and the flags it raises (R288). -/
def atomicNew (op : AtomOp) (ty : Ty) (policy : BitVec 8) (old b c : W64) : W64 × FpFlags :=
  let x := tyVal ty old
  let y := tyVal ty c
  match op with
  | .add => (tyWrap ty (x + y), 0#5)
  | .min => (if x ≤ y then old else c, 0#5)
  | .max => (if x ≥ y then old else c, 0#5)
  | .and => (old &&& c, 0#5)
  | .or => (old ||| c, 0#5)
  | .xor => (old ^^^ c, 0#5)
  | .xchg => (c, 0#5)
  | .cas => (if old = b then c else old, 0#5)
  | .incb => (if x < y then tyWrap ty (x + 1) else old, 0#5)
  | .fadd =>
    let r := fpAdd (fmtOf ty) (.ofPolicy policy 0) old.toNat c.toNat
    (BitVec.ofNat 64 r.1, r.2)
  | .minp => (if old.toNat ≤ c.toNat then old else c, 0#5)
  | .rd => (old, 0#5)

/-- The four-byte words of a beat of the bus, or poison (R254, R282). -/
def beatToken (m : Memory) (loc bytes : Nat) : Token :=
  if m.poisoned loc bytes then .poison 0x31#8
  else .beat ((List.range (bytes / 4)).map fun k => BitVec.ofNat 32 (m.nat (loc + 4 * k) 4))

/-- The tokens of an ISL line and whether it is the last (R237, R238, R323), or the format-range fault. -/
def lineTokens (m : Memory) (loc : Nat) : Except Nat (List Token × Bool) :=
  let h := BitVec.ofNat 64 (m.nat loc 8)
  let wide := h.getLsbD 0
  let count := wbits h 15 11
  if m.poisoned loc 128 then .ok ([.poison 0x31#8], h.getLsbD 1 && !m.poisoned loc 8)
  else if wbits h 10 2 ≠ 0 ∨ count > (if wide then 12 else 20) then .error 0x44
  else
    let entry (j : Nat) : List Token :=
      if wide then [.data (BitVec.ofNat 64 (m.nat (loc + 8 + 10 * j) 8)), .data (BitVec.ofNat 64 (m.nat (loc + 16 + 10 * j) 2))]
      else [.data (BitVec.ofNat 64 (m.nat (loc + 8 + 6 * j) 6))]
    .ok (.data h :: (List.range count).flatMap entry, h.getLsbD 1)

/-! ## One access at its home -/

/-- What an access may change where it performs: the bytes, and in a memory tile the full-empty bits and the FIFOs. -/
structure Home where
  mem   : Memory
  full  : List Nat := []
  fifos : Map (List Token) := []
deriving DecidableEq, Repr

/-- The granule of a tile-space place (R263). -/
def granule (loc : Nat) : Nat := loc / 16

/-- The granules that a range of bytes touches. -/
def granules (loc size : Nat) : List Nat :=
  if size = 0 then [] else (List.range (granule (loc + size - 1) + 1 - granule loc)).map (· + granule loc)

def Home.isFull (h : Home) (loc : Nat) : Bool := h.full.contains (granule loc)

/-- An engine's write: it sets full every granule that it touches (R275). -/
def Home.engineFull (h : Home) (loc size : Nat) : Home := { h with full := (granules loc size).foldl insertNat h.full }


/-- An atomic at its home (R288, R291): poison on b or c poisons the word; a poisoned word stays as it is. -/
def Home.atomic (h : Home) (loc : Nat) (op : AtomOp) (ty : Ty) (policy : BitVec 8) (b : W64) (c : Option W64) (returns : Bool) :
    Home × List (Nat × Token) × FpFlags :=
  let n := ty.bytes
  let old := loadToken ty n (h.mem.readWord loc n)
  let out := if returns then outBoth old else outAck
  if op = .rd then (h, out, 0#5)
  else if h.mem.poisoned loc n then (h, out, 0#5)
  else match c with
    | none => ({ h with mem := h.mem.writePoison loc n }, out, 0#5)
    | some c =>
      let r := atomicNew op ty policy old.val b c
      ({ h with mem := h.mem.write loc (wordBytes n r.1.toNat) }, out, r.2)

/-- What an access does at its home: the home after it, what it returns and the flags it raises; none where it parks
(R276, R279). `room` is the number of entries of the FIFO at the place. -/
def Home.access (h : Home) (policy : BitVec 8) (room loc : Nat) (a : Access) :
    Option (Home × List (Nat × Token) × FpFlags) :=
  match a with
  | .load ty size _ => some (h, outBoth (loadToken ty size (h.mem.readWord loc size)), 0#5)
  | .store size v ack => some ({ h with mem := h.mem.writeWord loc size v }, if ack then outAck else [], 0#5)
  | .ldfe ty size clr =>
    if h.isFull loc then
      some ({ h with full := if clr then eraseNat h.full (granule loc) else h.full },
        outBoth (loadToken ty size (h.mem.readWord loc size)), 0#5)
    else none
  | .stfe size v force =>
    if h.isFull loc ∧ ¬ force then none
    else some ({ h with mem := h.mem.writeWord loc size v, full := insertNat h.full (granule loc) }, outAck, 0#5)
  | .feclr => some ({ h with full := eraseNat h.full (granule loc) }, outAck, 0#5)
  | .feset => some ({ h with full := insertNat h.full (granule loc) }, outAck, 0#5)
  | .fetest => some (h, outBoth (.data (if h.isFull loc then 1#64 else 0#64)), 0#5)
  | .atomic op ty b c returns => some (h.atomic loc op ty policy b c returns)
  | .push t =>
    let q := (mapGet h.fifos loc).getD []
    if q.length ≥ room then none else some ({ h with fifos := mapSet h.fifos loc (q ++ [t]) }, outAck, 0#5)
  | .pop =>
    match (mapGet h.fifos loc).getD [] with
    | [] => none
    | t :: q => some ({ h with fifos := mapSet h.fifos loc q }, outBoth t, 0#5)
  | .beat bytes => some (h, [(0, beatToken h.mem loc bytes)], 0#5)
  | .beatWrite words pois =>
    let n := 4 * words.length
    let m := if pois then h.mem.writePoison loc n else h.mem.write loc (words.flatMap fun w => wordBytes 4 w.toNat)
    some ({ h with mem := m }.engineFull loc n, [], 0#5)
  | .bring | .line _ | .binAppend .. | .rangeInit .. | .rangePull .. | .fence _ | .copyRead _ | .copyWrite _ | .pass _ | .close ..
  | .ending _ | .child _ => some (h, [], 0#5)

/-! ## A plane's home: its memory tiles -/

def Plane.home (pl : Plane) : Home := ⟨pl.sram, pl.full, pl.fifos⟩
def Plane.setHome (pl : Plane) (h : Home) : Plane := { pl with sram := h.mem, full := h.full, fifos := h.fifos }

def Plane.modReq (pl : Plane) (id : Nat) (f : Request → Request) : Plane :=
  { pl with reqs := pl.reqs.map fun r => if r.id = id then f r else r }

/-- The policy byte of the block of an agent of the plane. -/
def Plane.policyOf (pl : Plane) (who : Asker) : BitVec 8 :=
  match who with
  | .node i => ((pl.nodes[i]?).map (·.info.policy)).getD 0#8
  | .pe i => ((pl.pes[i]?).map (·.info.policy)).getD 0#8

/-- The reply of a task's request: an acknowledgment is a data token of 0, and a tag rides in word 1 (R234). -/
def Request.reply (r : Request) (out : List (Nat × Token)) : List (Nat × Token) :=
  match r.who with
  | .node _ => out
  | .pe _ =>
    match out with
    | [] => []
    | (_, t) :: _ =>
      match r.acc with
      | .atomic _ _ _ _ false => []
      | .store _ _ false => []
      | _ => [(r.chan, match t, r.tag with
        | .ord, _ => .data 0#64
        | .data v, some g => .data (g ++ v.setWidth 32)
        | t, _ => t)]

/-- A request is served: its reply waits its turn, or is discarded where the request has timed out (R442). -/
def Plane.serve (pl : Plane) (r : Request) (out : List (Nat × Token)) (flags : FpFlags) : Plane :=
  let pl := { pl with flags := pl.flags ||| flags }
  if r.lost then { pl with reqs := pl.reqs.filter fun x => x.id ≠ r.id }
  else pl.modReq r.id fun x => { x with done := true, parked := none, held := false, replies := x.reply out }

/-- The entries of the FIFO at a place (R279). -/
def Plane.fifoRoom (pl : Plane) (loc : Nat) : Nat := ((pl.tiles[loc / 2 ^ 18]?).map fun t => t.bytes / 1024 * 128).getD 0

/-- A request in tile space performs, where its condition holds. -/
def Plane.tryTile (pl : Plane) (r : Request) : Option Plane :=
  (pl.home.access (pl.policyOf r.who) (pl.fifoRoom r.loc) r.loc r.acc).map fun (h, out, flags) =>
    (pl.setHome h).serve r out flags

/-- The requests parked on one granule, or on one FIFO, in order of arrival (R277, R279). -/
def Plane.queueAt (pl : Plane) (loc : Nat) : List Request :=
  let qs := pl.reqs.filter fun r => r.parked.isSome ∧ r.round = 0 ∧ r.space = 0 ∧ granule r.loc = granule loc
  inOrder (fun x y => decide (x.parked.getD 0 ≤ y.parked.getD 0)) qs

/-- One scan: performs, in queue order, every request whose condition holds at its turn. -/
def scanOnce : List Request → Plane → Plane
  | [], pl => pl
  | r :: rest, pl => scanOnce rest ((pl.tryTile r).getD pl)

/-- The scans of R277: again while a scan changes the bit or the FIFO; each that does performs a request. -/
def Plane.scan (pl : Plane) (loc : Nat) : Nat → Plane
  | 0 => pl
  | k + 1 =>
    let pl' := scanOnce (pl.queueAt loc) pl
    if pl'.full = pl.full ∧ pl'.fifos = pl.fifos then pl' else pl'.scan loc k

/-- After an access of some bytes that changed a granule's full-empty bit or a FIFO, the scans of the queue of every granule that it
touched. -/
def Plane.settle (before after : Plane) (loc size : Nat) : Plane :=
  if after.full = before.full ∧ after.fifos = before.fifos then after
  else (granules loc (max size 1)).foldl (fun pl g => pl.scan (16 * g) (pl.reqs.length + 1)) after

/-- An engine's write into tile space (R275), and the scans of the granules whose bit it changed. -/
def Plane.engineWrite (pl : Plane) (loc size : Nat) (f : Memory → Memory) : Plane :=
  let fresh := (granules loc size).filter fun g => !pl.full.contains g
  let pl := pl.setHome ({ pl.home with mem := f pl.sram }.engineFull loc size)
  fresh.foldl (fun pl g => pl.scan (16 * g) (pl.reqs.length + 1)) pl

/-- Requests of the plane that are parked in one memory tile (R278). -/
def Plane.parkedIn (pl : Plane) (tile : Nat) : Nat :=
  (pl.reqs.filter fun r => r.parked.isSome ∧ r.round = 0 ∧ r.space = 0 ∧ r.loc / 2 ^ 18 = tile).length

/-- Requests in the collection buffer of a tile of a rounded region, and its size (R293). -/
def Plane.collectedIn (pl : Plane) (tile : Nat) : Nat :=
  (pl.reqs.filter fun r => r.parked.isSome ∧ r.round ≠ 0 ∧ r.space = 0 ∧ r.loc / 2 ^ 18 = tile).length
def collectionMax : Nat := 512

/-! ## The memories outside the fabric -/

/-- Host memory as it is read: a line with the data-poison indication reads as poison in every word (R301). -/
def hostView (m : Memory) (loc size : Nat) : Memory :=
  let lines := (Memory.touched loc size).map (· / 32)
  if m.marks.any fun w => lines.contains (w / 32) then { m with marks := Memory.touched loc size } else m

/-- The memory that serves a space (R297). -/
def State.memOf (s : State) (p : PlaneId) (space : Nat) : Memory :=
  match space with
  | 0 => ((s.plane? p).map (·.sram)).getD {}
  | 1 => s.store
  | 2 | 3 => s.dram
  | _ => s.host
def State.setMem (s : State) (p : PlaneId) (space : Nat) (m : Memory) : State :=
  match space with
  | 0 => s.modPlane p fun pl => { pl with sram := m }
  | 1 => { s with store := m }
  | 2 | 3 => { s with dram := m }
  | _ => { s with host := m }

/-! ## The system cache (R313, R363) -/

/-- The line of a host address. -/
def hostLine (loc : Nat) : Nat := loc / 128

/-- A copy may still be read: it shows every write made 2^20 or more cycles ago (R363). -/
def HostCopy.usable (c : HostCopy) (now : Nat) : Bool :=
  match c.since with
  | none => true
  | some t => decide (now < t + 2 ^ 20)

/-- The copy that a die's part of the system cache holds of a line. -/
def State.hostCopy (s : State) (md line : Nat) : Option HostCopy :=
  s.copies.find? fun c => c.md = md ∧ c.line = line ∧ c.usable s.cycle

/-- The memory that a copy shows, as bytes at their host addresses. -/
def HostCopy.memory (c : HostCopy) : Memory := { ({} : Memory).put (128 * c.line) c.bytes with marks := c.marks }

/-- A copy of a line as host memory now stands. -/
def State.freshCopy (s : State) (md line : Nat) : HostCopy :=
  { md, line, bytes := s.host.bytes (128 * line) 128, marks := (hostView s.host (128 * line) 128).marks.filter fun w => w / 32 = line }

/-- The lines that the system cache holds: 32 MiB (R19, R22). -/
def copiesMax : Nat := 2 ^ 25 / 128

/-- The copies with one put in the place of any other of its die and line, and of the oldest where the cache is full. -/
def State.holdCopy (s : State) (c : HostCopy) : State :=
  { s with copies := (c :: s.copies.filter fun x => ¬ (x.md = c.md ∧ x.line = c.line)).take copiesMax }

/-- Host memory has been written: the writer's own copy is brought up to date, every other begins to be out of date. -/
def State.hostWritten (s : State) (md : Option Nat) (line : Nat) : State :=
  { s with copies := s.copies.map fun c =>
      if c.line = line then
        (if some c.md = md then s.freshCopy c.md line else { c with since := some (c.since.getD s.cycle) })
      else c }

/-- A plain load of some bytes in space 4 is served from its die's copy, or from host memory, and the line of a normal page is then
copied where the link has CXL (R313, R363, R385). -/
def State.hostLoad (s : State) (md loc size : Nat) (device : Bool) : Memory × State :=
  match s.hostCopy md (hostLine loc) with
  | some c => (c.memory, s)
  | none =>
    let cached := !device && ((s.link.map (·.cxl)).getD false)
    (hostView s.host loc size, if cached then s.holdCopy (s.freshCopy md (hostLine loc)) else s)

/-- A copy engine's read of host memory, which shows every store made before it; the line of a normal page is then copied (R343). -/
def State.hostFresh (s : State) (md loc size : Nat) (device : Bool) : Memory × State :=
  let cached := !device && ((s.link.map (·.cxl)).getD false) && (s.hostCopy md (hostLine loc)).isNone
  (hostView s.host loc size, if cached then s.holdCopy (s.freshCopy md (hostLine loc)) else s)

/-! ## Port caches and request slots (R298, R299, R305) -/

/-- Request slots of a die's memory, of HBM4 or LPDDR6 (R298, R299). -/
def slotsMax (lp : Bool) : Nat := if lp then 8192 else 40960
def State.slotsUsed (s : State) (lp : Bool) (md : Nat) : Nat := ((if lp then s.slotsLp else s.slotsHbm)[md]?).getD 0
def State.setSlots (s : State) (lp : Bool) (md n : Nat) : State :=
  if lp then { s with slotsLp := modifyAt s.slotsLp md fun _ => n } else { s with slotsHbm := modifyAt s.slotsHbm md fun _ => n }
/-- The home die of a device address and whether LPDDR6 holds it (R298). -/
def homeOf (pa : Nat) : Nat × Bool := (pa / 4096 % 4, decide (pa ≥ 2 ^ 39))

/-- The sets of a die's port cache, and the ways of a set (R305). -/
def cacheSets : Nat := 32768
def cacheWays : Nat := 16

/-- The set that may hold a line of device memory: of its home die, and there the one that the device's own hash picks. -/
def cacheKey (line : Nat) : Nat := (homeOf (128 * line)).1 * cacheSets + Config.cacheSet line % cacheSets

def State.cacheSetOf (s : State) (line : Nat) : List CacheLine := (mapGet s.caches (cacheKey line)).getD []

/-- The pool of request slots that serves a line. -/
def poolOf (line : Nat) : Nat := (homeOf (128 * line)).1 * 2 + if (homeOf (128 * line)).2 then 1 else 0

/-- Whether what waits for a slot still waits: its request, copy or walk has not gone. -/
def State.stillWaits (s : State) : SlotWaiter → Bool
  | .request p id => ((s.plane? p).map fun pl => pl.reqs.any fun r => r.id = id ∧ ¬ r.done ∧ ¬ r.timed).getD false
  | .port key => !((mapGet s.ports key).getD []).isEmpty
  | .peer key => ((mapGet s.flithe key).map fun f => !f.inbox.isEmpty).getD false
  | .walk md asid page => s.walks.any fun w => w.md = md ∧ w.asid = asid ∧ w.va.toNat / 2 ^ 16 = page

/-- The misses that wait for a slot of a line's pool, in order of arrival. -/
def State.slotQueue (s : State) (line : Nat) : List SlotWaiter := ((mapGet s.slotQueues (poolOf line)).getD []).filter s.stillWaits

/-- A slot of a line's pool is taken; none where every slot is in use. -/
def State.takeSlotOf (s : State) (line : Nat) : Option State :=
  let (md, lp) := homeOf (128 * line)
  let n := s.slotsUsed lp md
  if n < slotsMax lp then some (s.setSlots lp md (n + 1)) else none

/-- The line of a full set whose way a fill reuses: one of the lowest priority before the others, else any. -/
def victimOf (set : List CacheLine) (pick : Nat) : Option CacheLine :=
  if set.length < cacheWays then none
  else match set.find? (·.low) with
    | some c => some c
    | none => set[pick % set.length]?

/-- What an access to a line of device memory asks of its port cache: whether it writes, comes at the lowest priority (space 3), or
reaches a page of device type, whose line is not retained. -/
structure CacheUse where
  write  : Bool := false
  low    : Bool := false
  device : Bool := false
deriving DecidableEq, Repr

/-- A line held is used; a line missed is filled, which takes a slot, and another where the way that it reuses holds a dirty line to be
written back. None where a slot is wanting, or another miss has waited longer for one. -/
def State.cacheLine (s : State) (who : SlotWaiter) (u : CacheUse) (line : Nat) : Option State :=
  let set := s.cacheSetOf line
  let put (s : State) (l : List CacheLine) : State := { s with caches := mapSet s.caches (cacheKey line) l }
  match set.find? (·.line = line) with
  | some c => some (put s ({ c with dirty := c.dirty || u.write } :: set.filter fun x => x.line ≠ line))
  | none =>
    if ¬ ((s.slotQueue line).head?.all fun w => w = who) then none
    else match s.takeSlotOf line with
      | none => none
      | some s1 =>
        let s1 : State := { s1 with slotQueues := mapSet s1.slotQueues (poolOf line) ((s1.slotQueue line).filter fun w => w ≠ who) }
        if u.device then some s1
        else
          let victim := victimOf set (Config.freeWord s1.fresh).toNat
          let kept := match victim with | some v => set.filter fun x => x.line ≠ v.line | none => set
          let s2 : State := put { s1 with fresh := s1.fresh + 1 } ({ line, dirty := u.write, low := u.low } :: kept)
          match victim with
          | some v => if v.dirty then s2.takeSlotOf v.line else some s2
          | none => some s2

/-- The lines of some bytes of device memory, each used in turn. -/
def State.cacheLines (s : State) (who : SlotWaiter) (u : CacheUse) : List Nat → Option State
  | [] => some s
  | l :: rest => (s.cacheLine who u l).bind fun s => s.cacheLines who u rest

/-- The lines of 128 bytes that some bytes touch. -/
def linesOf (loc size : Nat) : List Nat := if size = 0 then [] else (List.range ((loc + size - 1) / 128 + 1 - loc / 128)).map (· + loc / 128)

/-- An access joins the misses that wait for a slot of the pools of its lines. -/
def State.waitSlot (s : State) (who : SlotWaiter) : List Nat → State
  | [] => s
  | l :: rest =>
    let q := s.slotQueue l
    State.waitSlot (if q.contains who then s else { s with slotQueues := mapSet s.slotQueues (poolOf l) (q ++ [who]) }) who rest

/-- What waited for a slot waits no more. -/
def State.leaveSlots (s : State) (who : SlotWaiter) : State :=
  { s with slotQueues := s.slotQueues.map fun q => (q.1, q.2.filter fun w => w ≠ who) }

end Sys2Proof.Machine
end

