-- ==== Sys2Proof/Machine/Notify.lean ====
section
/-! DEFINITION. Events: how the device interrupts the driver (R470). -/

namespace Sys2Proof.Machine

/-- The context number of a device event. -/
def deviceCtx : Nat := 0xFFFF

/-- The event ring's size in events. -/
def evqSize (base : W64) : Nat := 2 ^ (8 + wbits base 10 8)

/-- The two words of an event. -/
def eventWords (kind ctx data : Nat) (time : W64) : List W64 :=
  [BitVec.ofNat 64 (kind % 2 ^ 8 + ctx % 2 ^ 16 * 2 ^ 16 + data % 2 ^ 32 * 2 ^ 32), time]

/-- A write to host memory that every die's copies then show late or never (R363). -/
def State.writeHost (s : State) (addr : Nat) (bs : List Byte) : State :=
  let s := { s with host := s.host.write addr bs }
  ((granules addr bs.length).map fun g => hostLine (16 * g)).eraseDups.foldl (fun s l => s.hostWritten none l) s

/-- An event is written at the tail of the ring and its interrupt sent, or dropped and counted (R470). -/
def State.sendEvent (s : State) (kind ctx data : Nat) : State :=
  let r := s.regs
  let size := evqSize r.evqBase
  let tail := wbits r.evqPtr 46 32
  let head := wbits r.evqPtr 14 0
  if ¬ r.evqBase.getLsbD 0 ∨ (tail + 1) % size = head % size then
    { s with regs := { r with evqPtr := wset r.evqPtr 31 16 (min (wbits r.evqPtr 31 16 + 1) 0xFFFF) } }
  else
    let ws := eventWords kind ctx data (s.dieTime 8)
    let s := s.writeHost (wbits r.evqBase 63 12 * 4096 + 16 * tail) (ws.flatMap fun w => wordBytes 8 w.toNat)
    { s with regs := { r with evqPtr := wset r.evqPtr 46 32 ((tail + 1) % size) }, sent := s.sent ++ [.event ws, .interrupt ctx kind] }

/-- The data of an event for whose kind R470 names none: a free value. -/
def State.openData (s : State) : Nat × State := ((Config.freeWord s.fresh).toNat, { s with fresh := s.fresh + 1 })

/-- An event whose data R470 does not give. -/
def State.sendOpenEvent (s : State) (kind ctx : Nat) : State :=
  let (d, s) := s.openData
  s.sendEvent kind ctx d

/-- A deprecated firing is counted in CTX_DEPCOUNT; the addition that takes the count past the limit sets hit and sends the
advisory (R78 to R80). -/
def countDeprecated (s : State) (c : Nat) : State :=
  let x := s.ctx c
  let n := min (x.depcount + 1) (2 ^ 48 - 1)
  let passes := decide (x.depcount ≤ x.deplimit ∧ n > x.deplimit)
  let s := s.setCtx c { x with depcount := n, dephit := x.dephit || passes }
  if passes && !x.dephit then s.sendOpenEvent 2 c else s

end Sys2Proof.Machine
end

