-- ==== Sys2Proof/Machine/Fire.lean ====
section
/-! DEFINITION. The two ways in which a node fires: a PE issues and completes later (R141), a router slot consumes and
emits in the cycle it fires (R182). Both run a rule over the node's view and answer a next state always: a firing that
cannot take place yet leaves the node as it was. -/

namespace Sys2Proof.Machine

/-- The node that the present step fires. -/
def cursorNode (s : State) : Option (PlaneId × Nat × Plane × Node) :=
  match s.cursor with
  | .node p i => (s.plane? p).bind fun pl => (pl.nodes[i]?).map fun n => (p, i, pl, n)
  | _ => none

/-- Condition 1 of R36 but for the grant: LIVE, or the one re-firing that R504 allows in an ENDING plane. -/
def Plane.mayFire (pl : Plane) (i : Nat) (n : Node) : Bool :=
  (pl.st = .live || (pl.st = .ending && n.grant ≠ .none)) && !pl.reload && !pl.stopped (.node i)

/-- What the next firing of a node reads. -/
def nodeView (s : State) (pl : Plane) (i : Nat) (n : Node) (g : GArgs) : View := pl.view (s.ctx pl.ctx).trapen i n g

/-! ## PE firings (R141) -/

/-- Issue: tokens marked, room reserved, the outcome kept until the latency has passed, and its die's counter has reached `ticks`. A fault
is detected as the firing completes, in the cycle before the first in which a consumer might fire (R142, R421). -/
def issueFiring (s : State) (p : PlaneId) (i : Nat) (n : Node) (dep : Bool) (ticks : Option Nat) (due : Nat) (f : Firing) : State :=
  s.modPlane p fun pl =>
    match f with
    | .wait => pl
    | .fault takes info =>
      { pl.modNode i (·.mark takes) with
        issued := pl.issued ++ [{ node := i, due := due - 1, takes, emits := [], flags := 0#5, fault := some info, cycle := s.cycle }]
        active := true }
    | .fires e =>
      let pl := (pl.modNode i (·.mark e.takes)).reserve n e.emits
      { pl with issued := pl.issued ++ [{ node := i, due, takes := e.takes, emits := e.emits, flags := e.flags, data := e.data,
                                          dep, ticks, st := e.st, cycle := s.cycle, counted := e.counted }]
                active := true }

/-- A firing on a PE with its cost: it issues when R36 holds (R141), and completes in the first cycle in which a consumer of its result
may fire (R142), and where `wait` names ticks of its die's counter, no sooner than these (R176). -/
def firePeFor (s : State) (g : GArgs) (i : Instr) (dep : Bool) (wait : Option Nat) (rule : View → Firing) : Result :=
  match cursorNode s with
  | none => .next s
  | some (p, k, pl, n) =>
    if !pl.mayFire k n then .next s
    else
      let f := rule (nodeView s pl k n g)
      if f = .wait ∨ ¬ f.fits pl n then .next s
      else
        let (granted, s1) := grantCycle s p
        if !granted && pl.st = .live then .next s1
        else
          let c := cost i
          let (ok, s2) := admitPe s1 p n.place c
          if !ok then .next s2
          else .next (issueFiring s2 p k n dep (wait.map ((s.dieTime (placeDie n.place)).toNat + ·)) (s.cycle + c.lat) f)

def firePe (s : State) (g : GArgs) (i : Instr) (rule : View → Firing) : Result := firePeFor s g i false none rule

/-- The earliest issued firing of a node. -/
def Plane.firstIssued (pl : Plane) (i : Nat) : Option Issued := (pl.issuedOf i).head?

/-- Completion without a fault: marked tokens leave, reserved room is filled, flags are raised (R141, R147). -/
def completeFiring (pl : Plane) (i : Nat) (n : Node) (f : Issued) : Plane :=
  let pl := (pl.release n f.emits).emitAll n f.emits
  let pl := pl.modNode i fun n =>
    { (n.unmark f.takes).take f.takes with
      e := n.e + f.data, st := f.st.getD n.st, grant := .none, firings := n.firings + 1
      barriers := n.barriers + barrierIn f.emits
      fired := if f.counted then n.fired ++ [f.cycle] else n.fired }
  { pl with issued := pl.issued.erase f, flags := pl.flags ||| f.flags, active := true }

/-- A fault at completion cancels the firing and every later one of the node: marks cleared, room released (R141). -/
def cancelFirings (pl : Plane) (i : Nat) (n : Node) : Plane :=
  let fs := pl.issuedOf i
  let pl := fs.foldl (fun pl f => (pl.modNode i (·.unmark f.takes)).release n f.emits) pl
  { pl with issued := pl.issued.filter fun f => f.node ≠ i }

/-! ## Router firings (R182) -/

/-- A channel of 64-bit values at a node, at an operand or a target. -/
def Plane.wideNode (pl : Plane) (n : Node) : Bool :=
  n.a.wide || n.b.wide || n.c.wide || n.p.wide || n.outs.any fun d => (d.map pl.wide).getD false

/-- How many of its plane's grants a slot has to see before its node fires again: one more, or two on a 64-bit channel (R182). -/
def Plane.restAfter (pl : Plane) (n : Node) : Nat :=
  match n.place with
  | .router .. => pl.grants + if pl.wideNode n then 2 else 1
  | _ => n.rest

/-- A node's router slot may fire in the present granted cycle; a node elsewhere has no slot to wait for. -/
def State.routerFree (s : State) (p : PlaneId) (n : Node) : Bool :=
  match n.place with
  | .router .. => decide (n.rest ≤ ((s.plane? p).map (·.grants)).getD 0)
  | _ => true

/-- The state of an operator part-way through a firing of several steps. -/
def OpState.midway : OpState → Bool
  | .elem _ | .agen .. | .run .. | .replay .. => true
  | _ => false

/-- A step of a firing that is its last. -/
def Effect.ends (e : Effect) (n : Node) : Bool := e.counted || (e.takes.any (· ≠ 0) && !(e.st.getD n.st).midway)

/-- Takes, emits, raises and moves the operator's state at once. -/
def commitEffect (s : State) (p : PlaneId) (k : Nat) (n : Node) (e : Effect) : State :=
  s.modPlane p fun pl =>
    let pl := pl.modNode k fun n =>
      { n.take e.takes with
        st := e.st.getD n.st, round := e.round.getD n.round, e := n.e + e.data, grant := .none, firings := n.firings + 1
        barriers := n.barriers + barrierIn e.emits, rest := pl.restAfter n, charged := !e.ends n
        fired := if e.counted then n.fired ++ [s.cycle] else n.fired }
    let pl := pl.emitAll n e.emits
    { pl with flags := pl.flags ||| e.flags, active := true }

/-- A firing that consumes and emits in one cycle: in a router slot (R182), or on a PE whose work, so many operations of a cost, it is
charged as. -/
def fireOnce (s : State) (g : GArgs) (c : Cost) (times : View → Nat) (rule : View → Firing) : Result :=
  match cursorNode s with
  | none => .next s
  | some (p, k, pl, n) =>
    if !pl.mayFire k n then .next s
    else
      let v := nodeView s pl k n g
      let f := rule v
      if f = .wait ∨ ¬ f.fits pl n then .next s
      else
        let (granted, s1) := grantCycle s p
        if !(granted && s1.routerFree p n) && pl.st = .live then .next s1
        else
          let (ok, s2) := admitTimes s1 p n.place c (times v)
          if !ok then .next s2
          else match f with
            | .wait => .next s2
            | .fault _ info => .next (s2.detectFault p (some (.node k)) info)
            | .fires e => .next (commitEffect s2 p k n e)

def fireRouter (s : State) (g : GArgs) (rule : View → Firing) : Result := fireOnce s g ⟨1, 1, 0, false⟩ (fun _ => 1) rule

end Sys2Proof.Machine
end

