-- ==== Sys2Proof/Machine/Flithe.lean ====
section
/-! DEFINITION. Flithe ports: the frames of a class and their acknowledgment (R379, R380), and the request and reply
messages that they carry (R381, R383). -/

namespace Sys2Proof.Machine

/-! ## Frames -/

/-- The number of a Flithe port of the package: memory-port die and port. -/
def portKey (md port : Nat) : Nat := md * 4 + port

/-- Ticks of a port's die (R380 counts die-time ticks). -/
def State.portTime (s : State) (key : Nat) : Nat := (s.dieTime (4 + key / 4)).toNat

def State.port (s : State) (key : Nat) : FlithePort := (mapGet s.flithe key).getD {}
def State.setPort (s : State) (key : Nat) (f : FlithePort) : State := { s with flithe := mapSet s.flithe key f }
def FlithePort.cls (f : FlithePort) (c : Nat) : FlitheClass := (f.classes[c]?).getD {}
def FlithePort.setCls (f : FlithePort) (c : Nat) (x : FlitheClass) : FlithePort :=
  { f with classes := modifyAt [f.cls 0, f.cls 1] c fun _ => x }

/-- Frames leave a port whose link is up. -/
def State.transmit (s : State) (key : Nat) (fs : List FlitheFrame) : State :=
  if (s.port key).up then { s with sent := s.sent ++ fs.map (Sent.frame key) } else s

/-- The frame as it leaves now: its ack is what the class expects next. -/
def FlitheClass.stamp (c : FlitheClass) (f : FlitheFrame) : FlitheFrame := { f with ack := c.expect }

/-- The most unacknowledged data frames of a class. -/
def flitheWindow : Nat := 512

/-- A data frame joins its class: it leaves at once while fewer than 512 are unacknowledged, and waits otherwise. -/
def State.sendData (s : State) (key c : Nat) (flits : List (BitVec 256)) : State :=
  let port := s.port key
  let x := port.cls c
  let f : FlitheFrame := { good := true, seq := x.seq, ack := x.expect, kind := 0#4, cls := BitVec.ofNat 4 c, flits }
  let room := decide (x.unacked.length < flitheWindow)
  let x' := { x with
    seq := x.seq + 1#24, unacked := x.unacked ++ [f]
    sentAt := if x.unacked.isEmpty then s.portTime key else x.sentAt
    ackDue := if room then none else x.ackDue }
  let s := s.setPort key (port.setCls c x')
  if room then s.transmit key [x.stamp f] else s

/-- The next seq that a class will use: that of the first frame that waits for a place in the window, if one does. -/
def FlitheClass.nextSeq (c : FlitheClass) : BitVec 24 := ((c.unacked[flitheWindow]?).map (·.seq)).getD c.seq

/-- An ack of a class releases every earlier frame that has left; frames that waited then leave, and acknowledge what has come. -/
def State.readAck (s : State) (key c : Nat) (ack : BitVec 24) : State :=
  let port := s.port key
  let x := port.cls c
  match x.unacked.head? with
  | none => s
  | some f =>
    let k := (ack - f.seq).toNat
    if k = 0 ∨ k > min x.unacked.length flitheWindow then s
    else
      let left := x.unacked.drop k
      let next := (left.take flitheWindow).drop (flitheWindow - k)
      let s := s.setPort key (port.setCls c
        { x with unacked := left, sentAt := s.portTime key, tries := 0, ackDue := if next.isEmpty then x.ackDue else none })
      s.transmit key (next.map x.stamp)

/-! ## Messages (R381) -/

/-- A flit of bytes, the lowest first. -/
def flitOf (n : Nat) : BitVec 256 := BitVec.ofNat 256 n
def flitBits (f : BitVec 256) (hi lo : Nat) : Nat := (f.toNat >>> lo) % 2 ^ (hi - lo + 1)

/-- The flits that hold n bytes of a number. -/
def dataFlits (bytes v : Nat) : List (BitVec 256) := (List.range ((bytes + 31) / 32)).map fun k => flitOf (v >>> (256 * k))

def log2Of (n : Nat) : Nat := Nat.log2 n

/-- The codes of the atomics on the link. -/
def AtomOp.code : AtomOp → Nat
  | .add => 0 | .min => 1 | .max => 2 | .and => 3 | .or => 4 | .xor => 5 | .xchg => 6 | .cas => 7 | .incb => 8
  | .fadd => 9 | .minp => 10 | .rd => 11
def AtomOp.all : List AtomOp := [.add, .min, .max, .and, .or, .xor, .xchg, .cas, .incb, .fadd, .minp, .rd]

/-- The header flit of a request. -/
def requestHeader (addr op size aop rctx ty tag opc opb : Nat) : BitVec 256 :=
  flitOf (addr % 2 ^ 48 + op * 2 ^ 48 + size * 2 ^ 56 + aop * 2 ^ 60 + rctx * 2 ^ 64 + ty * 2 ^ 74 + tag * 2 ^ 96 +
    opc * 2 ^ 128 + opb * 2 ^ 192)

/-- The write of `size` poisoned bytes. -/
def poisonFlits (a rctx size tag : Nat) : List (BitVec 256) :=
  requestHeader a 1 (log2Of size) 0 rctx 0 tag 0 (2 ^ ((size + 3) / 4) - 1) :: dataFlits size 0

/-- The message of an access. A poisoned store says so in its mask. An atomic's message has no place for poison, so one
whose operand is poison reads the word where it returns it and writes the word poisoned (R291;
notes/assumptions/24.md, DESIGN CHOICE). -/
def requestFlits (r : Request) (rctx tag : Nat) : List (BitVec 256) :=
  let a := r.addr.toNat
  match r.acc with
  | .store size (some v) _ => requestHeader a 1 (log2Of size) 0 rctx 0 tag 0 0 :: dataFlits size v.toNat
  | .store size none _ => poisonFlits a rctx size tag
  | .atomic op ty b (some c) returns =>
    [requestHeader a 2 (log2Of ty.bytes + (if returns then 8 else 0)) op.code rctx ty.code tag c.toNat b.toNat]
  | .atomic .rd ty _ none _ => [requestHeader a 2 (log2Of ty.bytes + 8) AtomOp.rd.code rctx ty.code tag 0 0]
  | .atomic _ ty _ none true =>
    requestHeader a 2 (log2Of ty.bytes + 8) AtomOp.rd.code rctx ty.code tag 0 0 :: poisonFlits a rctx ty.bytes (tag + 2 ^ 31)
  | .atomic _ ty _ none false => poisonFlits a rctx ty.bytes tag
  | .load _ size _ => [requestHeader a 0 (log2Of size) 0 rctx 0 tag 0 0]
  | .copyRead n => [requestHeader a 0 (log2Of n) 0 rctx 0 tag 0 0]
  | .copyWrite ws =>
    let mask := ws.zipIdx.foldl (fun m w => if w.1.isNone then m + 2 ^ w.2 else m) 0
    let data := ws.zipIdx.foldl (fun m w => m + ((w.1.map BitVec.toNat).getD 0) * 2 ^ (32 * w.2)) 0
    requestHeader a 1 (log2Of (4 * ws.length)) 0 rctx 0 tag 0 mask :: dataFlits (4 * ws.length) data
  | _ => [requestHeader a 0 7 0 rctx 0 tag 0 0]

/-- The port that a peer address leaves by (R383). -/
def peerPort (md : Nat) (va : W64) : Nat := portKey md (wbits va 8 7)

/-- A tag that no outstanding request of the port uses. -/
def FlithePort.freeTag (f : FlithePort) : Nat := freshIn (f.tags.map (·.1))

/-- A space-5 request leaves on its port. -/
def State.sendPeer (s : State) (p : PlaneId) (ctx : Nat) (r : Request) : State :=
  let key := peerPort r.md r.addr
  let port := s.port key
  let tag := port.freeTag
  let rctx := ((s.peerEntry ctx r.addr).map fun e => wbits e 62 53).getD 0
  let s := s.setPort key { port with tags := mapSet port.tags tag (p, r.id) }
  s.sendData key 0 (requestFlits r rctx tag)

end Sys2Proof.Machine
end

