-- ==== Sys2Proof/Machine/Order.lean ====
section
/-! DEFINITION. When an access may perform: the issue order of one node's requests (R274, R300), wave links (R354), fences
and the acquires and releases of R360, and the turn of a request in a rounded region (R292, R293). -/

namespace Sys2Proof.Machine

/-! ## Wave links (R68, R354) -/

/-- own, pred and succ of a Form M node. -/
def Node.wave (n : Node) : Option (Nat × Nat × Nat) :=
  match decodeGraph n.word with
  | .error _ => none
  | .ok i =>
    match opInfo n.info.version i, i.gargs with
    | some o, some g => if o.wave then some (g.own, g.pred, g.succ) else none
    | _, _ => none

/-- The links that end at a node: the node each starts from, and whether it is firm. -/
def Plane.links (pl : Plane) (y : Nat) : List (Nat × Bool) :=
  match pl.nodes[y]? with
  | none => []
  | some ny =>
    match ny.wave with
    | none => []
    | some (own, pred, _) =>
      pl.nodes.zipIdx.filterMap fun (nx, x) =>
        if x = y ∨ nx.info.id ≠ ny.info.id ∨ nx.copy ≠ ny.copy then none
        else match nx.wave with
          | none => none
          | some (o, _, succ) => if pred = o ∨ succ = own then some (x, pred = o ∧ succ = own) else none

/-- The firings that firing n of node y is wave-after, along at most `fuel` links, with `now` for the cycle of a firing
that has not fired yet. -/
def Plane.wavePreds (pl : Plane) (now : Nat) : Nat → Nat → Nat → List (Nat × Nat)
  | 0, _, _ => []
  | k + 1, y, n =>
    (pl.links y).flatMap fun (x, firm) =>
      if firm then (x, n) :: wavePreds pl now k x n
      else
        let cyc := (((pl.nodes[y]?).map (·.fired)).getD [])[n]?.getD now
        (((pl.nodes[x]?).map (·.fired)).getD []).zipIdx.flatMap fun (c, m) =>
          if c < cyc then (x, m) :: wavePreds pl now k x m else []

/-! ## Which accesses a rule orders (R355, R357, R360) -/

/-- The spaces that a scope covers (R357): 0 .pad, 1 .die, 2 .dev, 3 .sys. -/
def scopeCovers (scope space : Nat) : Bool :=
  match scope with
  | 0 => space == 0
  | 1 => space ≤ 1
  | 2 => space ≤ 3
  | _ => space ≤ 5

/-- Spaces 2 and 3 are one memory. -/
def spaceClass (space : Nat) : Nat := if space = 3 then 2 else space

/-- The scope in which an instruction is a fence, an acquire, or a release. -/
def fenceScope : Instr → Option Nat
  | .fence g => some g.mode.toNat
  | _ => none
def acquireScope : Instr → Option Nat
  | .ldfe _ => some 2
  | .ld g => if g.mode = 1#3 then some 3 else none
  | .sld g => if g.mode = 1#3 ∨ g.mode = 3#3 then some 3 else none
  | _ => none
def releaseScope : Instr → Option Nat
  | .stfe _ | .feset _ => some 2
  | _ => none

def covers (scope : Option Nat) (space : Nat) : Bool := (scope.map fun sc => scopeCovers sc space).getD false

/-- CPY and CPYM: their copies' accesses follow no wave order (R337, R343). -/
def copies : Instr → Bool
  | .cpy _ | .cpym _ => true
  | _ => false

/-- Whether a wave-earlier access x and an access y may be ordered, as far as their instructions show. -/
def mayOrder (x y : Instr) (sx sy : Nat) : Bool :=
  !copies x && (spaceClass sx == spaceClass sy || covers (fenceScope x) sy || covers (fenceScope y) sx || covers (acquireScope x) sy ||
  covers (releaseScope y) sx)

def Access.isFence : Access → Bool
  | .fence _ => true
  | _ => false

/-- Requests that are accesses of memory: not fences, tokens that wait their turn, or prefetches. -/
def Access.touches : Access → Bool
  | .fence _ | .pass _ | .close .. | .ending _ | .child _ | .bring | .rangeInit .. | .rangePull .. | .copyRead _ | .copyWrite _ => false
  | _ => true

/-- Two requests touch overlapping bytes. -/
def Request.overlaps (x y : Request) : Bool :=
  x.acc.touches && y.acc.touches && spaceClass x.space == spaceClass y.space &&
  decide (x.loc < y.loc + y.size) && decide (y.loc < x.loc + x.size)

/-- Requests to a range server. -/
def Access.atServer : Access → Bool
  | .rangeInit .. | .rangePull .. => true
  | _ => false

/-- Two requests touch the same bytes or, of a node, one granule of a memory tile, where issue order holds granule by granule (R274), or
one server. -/
def Request.meets (x y : Request) : Bool :=
  match x.who with
  | .pe _ => x.overlaps y
  | .node _ =>
    x.overlaps y || (x.acc.atServer && y.acc.atServer) ||
    (x.acc.touches && y.acc.touches && x.space == 0 && y.space == 0 && granule x.loc == granule y.loc)


/-- Space of a Form M node. -/
def Node.space (n : Node) : Nat := (((n.instr).bind Instr.gargs).map GArgs.space).getD 0

/-- A wave-earlier firing (x, m) stands in the way of a request: it has not fired and may be ordered before it, or an
access of it that is ordered before the request has not performed. -/
def Plane.waveBlocks (pl : Plane) (r : Request) (iy : Instr) (xm : Nat × Nat) : Bool :=
  match pl.nodes[xm.1]? with
  | none => false
  | some nx =>
    match nx.instr with
    | none => false
    | some ix =>
      let strong := covers (fenceScope ix) r.space || covers (fenceScope iy) nx.space || covers (acquireScope ix) r.space ||
        covers (releaseScope iy) nx.space
      (decide (nx.fired.length ≤ xm.2) && mayOrder ix iy nx.space r.space) ||
      pl.reqs.any fun q => q.who = .node xm.1 ∧ q.nth = xm.2 ∧ ¬ q.done ∧ ¬ q.lost ∧
        (q.overlaps r ∨ (strong ∧ (q.acc.touches ∨ q.acc.isFence)))

/-- A request of a graph node waits for a wave predecessor (R354). -/
def Plane.waveHeld (pl : Plane) (now : Nat) (r : Request) : Bool :=
  match r.who with
  | .pe _ => false
  | .node y =>
    match (pl.nodes[y]?).bind Node.instr with
    | none => false
    | some iy => (pl.wavePreds now pl.nodes.length y r.nth).any (pl.waveBlocks r iy)

/-! ## Issue order -/

/-- Two requests are elements of one stream request, or lines of one (R320). -/
def Request.streams (x y : Request) : Bool :=
  match x.who with
  | .node _ => x.acc.touches && y.acc.touches && decide (1 ≤ x.space ∧ x.nth = y.nth)
  | .pe _ => false

/-- An earlier request of the same node, or of the same activation of a task-mode PE, to the same bytes or granule has not performed,
or waits at the head of its channel for a parking place, or is an earlier element of the same stream request (R235, R274, R278, R300,
R320). -/
def Plane.issueHeld (pl : Plane) (r : Request) : Bool :=
  pl.reqs.any fun q => q.who = r.who ∧ q.act = r.act ∧ q.id < r.id ∧ ¬ q.done ∧ ¬ q.lost ∧
    (q.meets r ∨ q.streams r ∨ (q.held ∧ q.space = 0 ∧ r.space = 0 ∧ q.loc / 2 ^ 18 = r.loc / 2 ^ 18))

/-! ## Rounded regions (R292, R293) -/

/-- The atomics and the BINADD nodes that are inputs of a rounded region or of the rounded bins of a load. -/
def Node.rounded (n : Node) (bins : Bool) : Bool :=
  match n.instr with
  | some (.binadd g) => bins && g.opt.getLsbD 0
  | some i =>
    match i with
    | .aadd g | .amin g | .amax g | .aand g | .aor g | .axor g | .axchg g | .acas g | .aincb g | .afadd g | .aminp g =>
      !bins && g.opt.getLsbD 1
    | _ => false
  | none => false

/-- The rank of a node: its block, then its slot, then the site of its copy (R292). -/
def Node.rank (n : Node) : Nat := (n.info.id * 2 ^ 16 + n.slot) * 2 ^ 32 + n.copy

/-- The inputs of the rounded regions, or of the rounded bins, of the plane's load. -/
def Plane.inputs (pl : Plane) (bins : Bool) : List (Nat × Node) :=
  (pl.nodes.zipIdx.filter fun x => x.1.rounded bins).map fun x => (x.2, x.1)

/-- The key under which the plane's rounds hold the binning engine. -/
def engineKey : Nat := 4096

/-- The tiles of the plane's rounded regions. -/
def Plane.roundedTiles (pl : Plane) : List Nat :=
  pl.tiles.zipIdx.filterMap fun (t, i) => if t.rounded then some i else none

/-- Where a rounded request's round is kept: its memory tile, or the binning engine. -/
def Request.roundKey (r : Request) : Nat :=
  match r.acc with
  | .binAppend .. => engineKey
  | _ => r.loc / 2 ^ 18

def Plane.roundTile (pl : Plane) (key : Nat) : RoundTile := (mapGet pl.rounds key).getD {}

/-- A request of a rounded region waits for its round, for the marker of a lower-ranked node, or for a request before it in rank order;
the records of a bin are put in order when they are replayed (R293, R328). `round` is one more than the request's round, 0 for a request
that is not rounded. -/
def Plane.roundHeld (pl : Plane) (r : Request) : Bool :=
  match r.round, r.who with
  | 0, _ | _, .pe _ => false
  | k + 1, .node i =>
    let key := r.roundKey
    let t := pl.roundTile key
    let rank (j : Nat) : Nat := ((pl.nodes[j]?).map Node.rank).getD 0
    let lower := (pl.inputs false).filter fun x => x.2.rank < rank i
    key != engineKey &&
    (decide (t.closed < k) ||
    (t.closed == k && lower.any fun x => !(t.arrived.any fun a => a.1 = x.1)) ||
    pl.reqs.any fun q =>
      match q.round, q.who with
      | 0, _ | _, .pe _ => false
      | m + 1, .node j =>
        decide (q.roundKey = key ∧ q.acc.touches ∧ ¬ q.done ∧ ¬ q.lost ∧
          (m < k ∨ (m = k ∧ (rank j < rank i ∨ (j = i ∧ q.id < r.id))))))

/-- A request waits for another to perform first. -/
def Plane.mustWait (pl : Plane) (now : Nat) (r : Request) : Bool := pl.issueHeld r || pl.waveHeld now r || pl.roundHeld r

end Sys2Proof.Machine
end

