-- ==== Sys2Proof/Machine/Access.lean ====
section
/-! DEFINITION. How a memory node fires (R36 to R41, R274, R300): its rule probes, and its firing takes the operands and
issues requests; a probe that faults leaves everything as it was, one that misses starts a walk (R309), and one that a
peer must answer keeps the operands until the answer (R314). -/

namespace Sys2Proof.Machine

/-- Where a memory node stands when its rule runs. -/
structure Site where
  s  : State
  p  : PlaneId
  i  : Nat
  pl : Plane
  n  : Node
  v  : View

/-- The outcome of a memory rule. -/
inductive MemFiring where
  | wait
  | walk (w : Walk)
  | fault (info : FaultInfo)
  | go (e : Effect) (rs : List Request)
  | peer (e : Effect) (r : Request)
deriving DecidableEq, Repr

/-- The fault of a firing: R426's iteration vector and operand values, an access kind and an address (R270, R308). -/
def Site.info (x : Site) (ops : List Operand) (cause : Nat) (access : Nat := 0) (va : W64 := 0#64) : FaultInfo :=
  { cause, access, iter := some [x.v.e], opv := some ([Operand.a, .b, .c].map (x.v.recorded ops)), vaddr := va }

/-- The cluster of a node's attach point, whose first-level TLB its probes use (R309). -/
def Node.cluster (n : Node) : Nat := n.point / 8

/-- The probe of an access and what follows its success; a fault outside tile space is the near die's (R20). -/
def Site.probing (x : Site) (q : Ask) (info : FaultInfo) (k : Nat → MemFiring) : MemFiring :=
  let q := { q with cluster := some x.n.cluster }
  match x.s.probe x.pl x.n.near q with
  | .ok loc => k loc
  | .fault c => .fault { info with cause := c, md := probeDie q.space x.n.near }
  | .miss => .walk (missWalk x.p x.pl (.node x.i) x.n.near q info x.s.cycle)

/-- Whether the page of an access is of device type (R307). -/
def Site.device (x : Site) (q : Ask) : Bool :=
  decide (2 ≤ q.space ∧ q.space ≤ 4) && ((x.s.tlbFind x.n.near x.pl.ctx q.va.toNat (some x.n.cluster)).map (·.device)).getD false

/-- The bytes that an access touches: the whole granule for FECLR, FESET and FETEST (R271). -/
def Access.extent (acc : Access) (loc size : Nat) : Nat × Nat :=
  match acc with
  | .feclr | .feset | .fetest => (16 * granule loc, 16)
  | _ => (loc, size)

/-- The request of an access whose probe has passed. -/
def Site.request (x : Site) (q : Ask) (info : FaultInfo) (loc : Nat) (acc : Access) : Request :=
  let (loc, size) := acc.extent loc q.size
  { id := 0, who := .node x.i, acc, space := q.space, addr := q.va, loc, size, issued := x.s.cycle,
    nth := x.n.fired.length, elem := x.v.e, md := x.n.near, iter := info.iter, opv := info.opv, device := x.device q }

/-- Tokens that wait their turn behind the replies of the node's earlier requests (R37, R41). -/
def Site.pass (x : Site) (es : List (Nat × Token)) : Request :=
  { id := 0, who := .node x.i, acc := .pass es, space := 0, addr := 0#64, loc := 0, size := 0, issued := x.s.cycle,
    nth := x.n.fired.length, done := true, replies := es }

/-- One access: its request leaves, in space 5 to a peer. -/
def Site.issue (x : Site) (q : Ask) (info : FaultInfo) (e : Effect) (acc : Access) (loc : Nat) : MemFiring :=
  let r := x.request q info loc acc
  if q.space = 5 then .peer e { r with takes := e.takes, after := e.st, counted := e.counted, data := e.data } else .go e [r]

/-- The effect of a firing that takes data or poison from a list of operands (R123, R354). -/
def Site.taking (x : Site) (ops : List Operand) : Effect := { takes := takeOne ops, data := x.v.dataOn ops, counted := true }

/-- A marker at the heads: joined as R38 gives, it leaves behind the earlier replies; a node whose targets carry no data is
its sink (R41, R273). -/
def Site.markers (x : Site) (ops : List Operand) (heads : List Token) (sink : Bool) : MemFiring :=
  if heads.all Token.isMarker then
    match joinMarkers heads with
    | none => .fault (x.info ops 0x51)
    | some m =>
      let es := if sink then (if m.level ≥ 6 then [(sinkTarget, m)] else []) else [(0, m), (1, m)]
      .go { takes := takeOne ops } [x.pass es]
  else .fault (x.info ops 0x51)

/-! ## Firing -/

/-- Requests appended in order, each with its own number. -/
def State.addRequests (s : State) (p : PlaneId) : List Request → State
  | [] => s
  | r :: rest =>
    let (id, s) := s.takeId
    (s.modPlane p fun pl => { pl with reqs := pl.reqs ++ [{ r with id }] }).addRequests p rest

/-- Requests of an agent that wait for their peer's answer (R314), in issue order. -/
def Plane.pending (pl : Plane) (who : Asker) : List Request := pl.reqs.filter fun r => r.who = who ∧ r.space = 5 ∧ ¬ r.done ∧ ¬ r.lost

/-- A request of the agent waits for a peer's answer. -/
def Plane.peerPending (pl : Plane) (who : Asker) : Bool := !(pl.pending who).isEmpty

/-- A space-5 request has issued; its operands stay marked until the peer has answered. It leaves at once where no earlier request of
its agent still waits for an answer and it need wait for no other access, and later otherwise: so each has passed its probe before the
next performs (R300). -/
def State.startPeer (s : State) (p : PlaneId) (ctx : Nat) (who : Asker) (r : Request) : State :=
  let (id, s) := s.takeId
  let waits := ((s.plane? p).map fun pl => pl.peerPending who || pl.mustWait s.cycle { r with id }).getD false
  let r := { r with id, held := waits }
  let s := s.modPlane p fun pl =>
    let pl := { pl with reqs := pl.reqs ++ [r], active := true }
    match who with
    | .node i => pl.modNode i (·.mark r.takes)
    | .pe _ => pl
  if waits then s else s.sendPeer p ctx r

/-- A node as its firings that wait for a peer leave it; their operands are marked (R314). -/
def Plane.ahead (pl : Plane) (i : Nat) (n : Node) : Node :=
  (pl.pending (.node i)).foldl (fun n r =>
    { n with st := r.after.getD n.st, e := n.e + r.data, firings := n.firings + 1
             fired := if r.counted then n.fired ++ [r.issued] else n.fired }) n

/-- The governor has charged a node's firing, or the next step of the node begins another (R144). -/
def State.setCharged (s : State) (p : PlaneId) (k : Nat) (on : Bool) : State :=
  s.modPlane p (·.modNode k fun n => { n with charged := on })

/-- The outcome of a memory rule takes place. -/
def commitMem (s : State) (p : PlaneId) (k : Nat) (pl : Plane) (n : Node) (dep : Bool) (f : MemFiring) : State :=
  match f with
  | .wait => s
  | .walk w => { s.setCharged p k true with walks := s.walks ++ [w] }
  | .fault info => (s.setCharged p k n.st.midway).detectFault p (some (.node k)) info
  | .go e rs =>
    let s := (commitEffect s p k n e).addRequests p rs
    let closes := rs.any fun r => match r.acc with | .close .. => true | _ => false
    let s := if closes then s.modPlane p (·.modNode k fun n => { n with rounds := n.rounds + 1 }) else s
    if dep then countDeprecated s pl.ctx else s
  | .peer e r => (s.setCharged p k (!e.ends n)).startPeer p pl.ctx (.node k) r

/-- A firing that must wait until its node's earlier ones have their peers' answers: one that is not itself a peer's. -/
def MemFiring.behind (f : MemFiring) (pl : Plane) (k : Nat) : Bool :=
  pl.peerPending (.node k) && match f with | .peer .. => false | _ => true

/-- The governor admits a memory firing, which it is charged for once (R144). -/
def admitMem (s : State) (p : PlaneId) (n : Node) (i : Instr) : Bool × State :=
  if n.charged then (true, s) else admitPe s p n.place (cost i)

/-- A memory node fires by its rule. -/
def fireMemAs (s : State) (g : GArgs) (i : Instr) (dep : Bool) (rule : Site → MemFiring) : Result :=
  match cursorNode s with
  | none => .next s
  | some (p, k, pl, n) =>
    if !pl.mayFire k n ∨ s.walking p (.node k) ∨ ¬ pl.memReady k n (requestsMax i g) then .next s
    else
      let n := pl.ahead k n
      let f := rule ⟨s, p, k, pl, n, nodeView s pl k n g⟩
      if f = .wait ∨ f.behind pl k then .next s
      else
        let (granted, s1) := grantCycle s p
        if !granted && pl.st = .live then .next s1
        else
          let (ok, s2) := admitMem s1 p n i
          if !ok then .next s2 else .next (commitMem s2 p k pl n dep f)

def fireMem (s : State) (g : GArgs) (i : Instr) (rule : Site → MemFiring) : Result := fireMemAs s g i false rule

/-! ## Operands of a Form M access (R68, R271) -/

/-- The address operands: a, and b where q<2> is 1. -/
def addrOps (g : GArgs) : List Operand := if g.imm then [.a, .b] else [.a]

/-- An i32 token sign-extended to 64 bits. -/
def sext32 (x : W64) : W64 := (x.setWidth 32).signExtend 64

/-- The address: a, plus the sign-extended offset b where q<2> is 1, modulo 2^64. -/
def View.addr (v : View) : W64 :=
  let a := (v.a.map Token.val).getD 0#64
  if v.g.imm then a + sext32 ((v.b.map Token.val).getD 0#64) else a

/-- The probe's question for an access of `size` bytes. -/
def Site.ask (x : Site) (size kind : Nat) (mode : Nat := 0) (rnd : Bool := false) : Ask :=
  { space := x.v.g.space, va := x.v.addr, size, align := size, kind, mode, rnd }

/-! ## The two common shapes -/

/-- An access that returns one value per request (R38, R273): markers and poison flow through in order. -/
def Site.valueAccess (x : Site) (q : Ask) (acc : Access) : MemFiring :=
  let ops := addrOps x.v.g
  match x.v.heads ops with
  | none => .wait
  | some heads =>
    if heads.any Token.isMarker then x.markers ops heads false
    else match heads.find? Token.isPoison with
      | some t =>
        if x.v.poisonTrap then .fault (x.info ops 0x30) else .go (x.taking ops) [x.pass (outBoth t)]
      | none =>
        let info := x.info ops 0 (accessKind q.kind) q.va
        x.probing q info (x.issue q info (x.taking ops) acc)

/-- An access that returns an acknowledgment (R38, R39, R273): a marker reaches its sink, poison as an address always
faults, poison as a value faults where the trap is enabled and is written otherwise. `valued` says that c is consumed. -/
def Site.ackAccess (x : Site) (q : Ask) (valued : Bool) (acc : Option W64 → Access) : MemFiring :=
  let ops := addrOps x.v.g ++ if valued then [.c] else []
  match x.v.heads ops with
  | none => .wait
  | some heads =>
    if heads.any Token.isMarker then x.markers ops heads true
    else if (heads.take (addrOps x.v.g).length).any Token.isPoison then .fault (x.info ops 0x30)
    else
      let c := if valued then x.v.c.getD .ord else .ord
      if c.isPoison && x.v.poisonTrap then .fault (x.info ops 0x30)
      else
        let info := x.info ops 0 (accessKind q.kind) q.va
        x.probing q info (x.issue q info (x.taking ops) (acc c.word))

end Sys2Proof.Machine
end

