-- ==== Sys2Proof/Machine/Copy.lean ====
section
/-! DEFINITION. Copy engines and ports (R335 to R349) and multicast slots (R350). -/

namespace Sys2Proof.Machine

/-! ## The packet (R338, R339) -/

/-- A packet's words. -/
def packetWord (ws : List W64) (k : Nat) : W64 := (ws[k]?).getD 0#64
def packetLen (ws : List W64) : Nat := wbits (packetWord ws 2) 31 0
def packetKind (ws : List W64) : Nat := wbits (packetWord ws 2) 34 32
def packetCell (ws : List W64) : Bool := (packetWord ws 2).getLsbD 35
def packetMask (ws : List W64) : Nat := wbits (packetWord ws 2) 55 40
def packetStride (ws : List W64) : Nat := wbits (packetWord ws 2) 63 56

/-- A packet that breaks a limit of R339. `producers` is the number of a CPYM's slot-return producers. -/
def malformed (ws : List W64) (multi chan : Bool) (ty : Ty) (producers : Nat) : Bool :=
  let kind := packetKind ws
  wbits (packetWord ws 2) 39 36 != 0 || kind == 7 ||
  (if multi then packetStride ws == 0 || packetMask ws == 0 || decide (packetMask ws ≥ 2 ^ producers) || kind != 0
   else packetStride ws != 0 || packetMask ws != 0 || (if chan then kind != 6 else kind == 6)) ||
  packetLen ws % (if chan then ty.bytes else 4) != 0

/-- The receivers of a packet: those of the mask, or the one of a CPY. -/
def receivers (ws : List W64) (multi : Bool) : List Nat :=
  if multi then (List.range 16).filter fun j => (packetMask ws).testBit j else [0]

/-- An address moved to receiver j. -/
def receiverAddr (ws : List W64) (k j : Nat) : W64 := packetWord ws k + BitVec.ofNat 64 (j * packetStride ws * 2 ^ 18)

/-! ## Probes (R341) -/

/-- A range of bytes in a space, for loads (0) or stores (1). -/
structure CopyRange where
  space : Nat
  va    : W64
  len   : Nat
  kind  : Nat
  align : Nat
deriving DecidableEq, Repr

/-- The places at which the pages of a range begin, as offsets in it. -/
def CopyRange.starts (r : CopyRange) : List Nat :=
  if r.len = 0 then []
  else if r.space < 2 ∨ r.space = 5 then [0]
  else
    let first := 2 ^ 16 - r.va.toNat % 2 ^ 16
    0 :: ((List.range ((r.len - 1) / 2 ^ 16 + 1)).map fun k => first + k * 2 ^ 16).filter (· < r.len)

/-- What a probe of one page asks. -/
def CopyRange.ask (r : CopyRange) (off : Nat) : Ask :=
  { space := r.space, va := r.va + BitVec.ofNat 64 off, size := if r.space < 2 then r.len else 1, align := r.align, kind := r.kind }

/-- A range in a space whose feature is not enabled (R351). -/
def CopyRange.barred (r : CopyRange) (features : Nat) : Bool :=
  decide (r.len > 0) && ((r.space == 4 && !features.testBit 4) || (r.space == 5 && !features.testBit 3))

/-- The outcome of several probes in order: where each place lives, or the first that is not passed. -/
inductive CopyProbe where
  | ok (locs : List (Nat × Nat))
  | fault (cause : Nat) (q : Ask)
  | miss (q : Ask)
deriving DecidableEq, Repr

def State.probePages (s : State) (pl : Plane) (md : Nat) (r : CopyRange) : List Nat → CopyProbe
  | [] => .ok []
  | off :: rest =>
    match s.probe pl md (r.ask off) with
    | .fault c => .fault c (r.ask off)
    | .miss => .miss (r.ask off)
    | .ok loc =>
      match s.probePages pl md r rest with
      | .ok locs => .ok ((off, loc) :: locs)
      | x => x

/-- The pages of a range. -/
def State.probeRange (s : State) (pl : Plane) (md : Nat) (r : CopyRange) : CopyProbe := s.probePages pl md r r.starts

/-- What the probes of every receiver leave. -/
structure CopyPlaces where
  src   : List (Nat × Nat) := []
  dsts  : List (List (Nat × Nat)) := []
  cells : List Nat := []
deriving DecidableEq, Repr

/-- The outcome of the probes of R341: the receiver whose probe was not passed stands beside it. -/
inductive CopyProbes where
  | ok (x : CopyPlaces)
  | fault (j cause : Nat) (q : Ask)
  | miss (j : Nat) (q : Ask)
deriving DecidableEq, Repr

/-- The destination range of receiver j. -/
def destination (ws : List W64) (chan : Bool) (j : Nat) : CopyRange :=
  { space := packetKind ws, va := receiverAddr ws 1 j, len := if chan then 0 else packetLen ws, kind := 1, align := 4 }

/-- The probes of R341, receiver by receiver. -/
def State.probeReceivers (s : State) (pl : Plane) (md features : Nat) (ws : List W64) (src : CopyRange) (chan : Bool) :
    List Nat → CopyPlaces → CopyProbes
  | [], x => .ok x
  | j :: rest, x =>
    match s.probeRange pl md src with
    | .fault c q => .fault j c q
    | .miss q => .miss j q
    | .ok from_ =>
      let dst := destination ws chan j
      if dst.barred features then .fault j 0x11 (dst.ask 0)
      else match s.probeRange pl md dst with
      | .fault c q => .fault j c q
      | .miss q => .miss j q
      | .ok to_ =>
        let cell : Ask := { space := 0, va := receiverAddr ws 3 j, size := 16, align := 16, kind := 1 }
        if packetCell ws then
          match pl.probeTile cell with
          | .ok loc => s.probeReceivers pl md features ws src chan rest { src := from_, dsts := x.dsts ++ [to_], cells := x.cells ++ [loc] }
          | .fault c => .fault j c cell
          | .miss => .miss j cell
        else s.probeReceivers pl md features ws src chan rest { src := from_, dsts := x.dsts ++ [to_], cells := x.cells }

/-! ## The firing (R341) -/

/-- The most packets of a port, and the most copies of a node in flight (R335, R336). -/
def portMax : Nat := 32
def nodeCopies : Nat := 16

def State.portQueue (s : State) (key : Nat) : List Copy := (mapGet s.ports key).getD []

/-- Copies of a node in flight. -/
def State.copiesOf (s : State) (p : PlaneId) (i : Nat) : Nat :=
  (s.ports.flatMap fun kq => kq.2.filter fun c => c.plane = p ∧ c.node = i).length

/-- The packet's words so far, the counters, the slots returned, and the cycle since which the node waits. -/
def Node.copyState (n : Node) (slots : Nat) : List Token × List Nat × List Nat × Option Nat :=
  match n.st with
  | .copy ws cs rs t => (ws, if cs.isEmpty then List.replicate 16 slots else cs, rs, t)
  | _ => ([], List.replicate 16 slots, [], none)

/-- The scope of the release that a packet's acceptance is (R343). -/
def copyScope (ws : List W64) (space : Nat) (chan : Bool) : Nat :=
  let top := max space (if chan then 0 else packetKind ws)
  if top = 0 then 0 else if top ≤ 3 then 2 else 3

/-- Some store in scope that the node's firing is wave-after has not performed (R343, R354, R360). -/
def Plane.copyHeld (pl : Plane) (now i : Nat) (n : Node) (scope : Nat) : Bool :=
  (pl.wavePreds now pl.nodes.length i n.fired.length).any fun (x, m) =>
    match pl.nodes[x]? with
    | none => false
    | some nx =>
      (decide (nx.fired.length ≤ m) && scopeCovers scope nx.space && !(nx.instr.map copies).getD false) ||
      pl.reqs.any fun q => decide (q.who = .node x ∧ q.nth = m) && !q.done && !q.lost && q.acc.touches && scopeCovers scope q.space

/-- The number of a 64 KiB page of host or of device memory. -/
def pageKey (host : Bool) (loc : Nat) : Nat := loc / 2 ^ 16 * 2 + if host then 1 else 0

/-- The pages of device type among the places of a range (R307). -/
def State.devicePages (s : State) (md ctx : Nat) (r : CopyRange) (locs : List (Nat × Nat)) : List Nat :=
  if r.space < 2 ∨ r.space = 5 then []
  else locs.filterMap fun x =>
    if ((s.tlbFind md ctx (r.va + BitVec.ofNat 64 x.1).toNat).map (·.device)).getD false then some (pageKey (r.space = 4) x.2) else none

/-- What a packet at the head of operand a leads to. -/
inductive CopyMove where
  | wait
  | portWait
  | latch (t : Token)
  | marker (m : Token)
  | walk (w : Walk)
  | fault (info : FaultInfo)
  | accept (c : Copy) (counts : List Nat)
deriving DecidableEq, Repr

/-- The packet's four words are at hand: the checks, probes and waits of R341. -/
def Site.packet (x : Site) (multi : Bool) (ts : List Token) (counts : List Nat) : CopyMove :=
  let g := x.v.g
  let chan := !multi && g.opt.getLsbD 0
  let f := x.n.fired.length
  let opv := (ts.take 3).map Token.recorded
  let info (cause access : Nat) (j : Nat) (va : W64) : FaultInfo :=
    { cause, access, iter := some [j, 0, 0, f], opv := some opv, vaddr := va }
  if ts.any Token.isMarker then .fault (info 0x51 0 0 0#64)
  else if ts.any Token.isPoison then .fault (info 0x30 0 0 0#64)
  else
    let ws := ts.map Token.val
    if malformed ws multi chan g.ty ((x.n.refs[0]?).getD 16) then .fault (info 0x44 0 0 0#64)
    else
      let js := receivers ws multi
      let src : CopyRange :=
        { space := g.space, va := packetWord ws 0, len := packetLen ws, kind := 0, align := if chan then g.ty.bytes else 4 }
      match x.s.probeReceivers x.pl x.n.near x.n.info.features ws src chan js {} with
      | .fault j c q => .fault { info c (if q.kind = 0 then 4 else 5) j q.va with md := probeDie q.space x.n.near }
      | .miss j q => .walk (missWalk x.p x.pl (.node x.i) x.n.near q (info 0 (if q.kind = 0 then 4 else 5) j q.va) x.s.cycle)
      | .ok places =>
        if x.s.copiesOf x.p x.i ≥ nodeCopies ∨ x.pl.copyHeld x.s.cycle x.i x.n (copyScope ws g.space chan) then .wait
        else if (x.s.portQueue x.n.port).length ≥ portMax then .portWait
        else if multi ∧ js.any (fun j => (counts[j]?).getD 0 = 0) then .wait
        else
          let devs := x.s.devicePages x.n.near x.pl.ctx src places.src ++
            (places.dsts.head?.map (x.s.devicePages x.n.near x.pl.ctx (destination ws chan 0))).getD []
          .accept { plane := x.p, node := x.i, words := ws, chan, ty := g.ty, space := g.space, md := x.n.near, src := places.src,
                    dsts := places.dsts, cells := places.cells, iter := [0, 0, 0, f], opv, since := x.s.cycle, devs }
            (if multi then counts.zipIdx.map fun c => if js.contains c.2 then c.1 - 1 else c.1 else counts)

/-- The move of a copy node. -/
def Site.copyMove (x : Site) (multi : Bool) : CopyMove :=
  let (held, counts, _, _) := x.n.copyState (x.v.g.mode.toNat + 1)
  match x.n.a.head with
  | none => .wait
  | some t =>
    if held.isEmpty ∧ t.isMarker then .marker t
    else if held.length < 3 then .latch t
    else x.packet multi (held ++ [t]) counts

/-- A marker on operand a: it follows the tokens of earlier copies on a channel; elsewhere it reaches its sink, from level
6 on once they have ended (R41). -/
def commitMarker (s : State) (p : PlaneId) (i : Nat) (n : Node) (chan : Bool) (m : Token) : State :=
  let busy := decide (s.copiesOf p i > 0)
  let es := if chan then [(0, m), (1, m)] else if m.level ≥ 6 then [(sinkTarget, m)] else []
  if busy ∧ (chan ∨ m.level ≥ 6) then s else commitEffect s p i n { takes := takeOne [.a], emits := es }

/-- The state of a copy node, from its parts. -/
def Plane.setCopy (pl : Plane) (i : Nat) (st : OpState) : Plane := pl.modNode i fun n => { n with st }

/-- A firing of a copy node takes place. -/
def commitCopy (s : State) (p : PlaneId) (i : Nat) (n : Node) (chan : Bool) (returns : List Nat) : CopyMove → State
  | .wait | .portWait | .latch _ => s
  | .walk w => { s.setCharged p i true with walks := s.walks ++ [w] }
  | .marker m => commitMarker s p i n chan m
  | .fault info => (s.setCharged p i false).detectFault p (some (.node i)) info
  | .accept c counts =>
    let s := commitEffect s p i n { takes := takeOne [.a], st := some (.copy [] counts returns none), data := 4, counted := true }
    { s with ports := mapSet s.ports n.port (s.portQueue n.port ++ [c]) }

/-- The room that a move of a copy node needs. -/
def CopyMove.fits (m : CopyMove) (pl : Plane) (n : Node) : Bool :=
  match m with
  | .marker t => pl.canEmit n [(0, t), (1, t)]
  | _ => true

/-- A copy node fires; in a plane that a claim has selected no firing begins (R113). A node that waits, but no longer for its port, is
given its whole time again when it next waits there (R443). -/
def fireCopy (s : State) (g : GArgs) (i : Instr) (multi : Bool) : Result :=
  match cursorNode s with
  | none => .next s
  | some (p, k, pl, n) =>
    if !pl.mayFire k n ∨ s.walking p (.node k) ∨ pl.claimed.isSome then .next s
    else
      let x : Site := ⟨s, p, k, pl, n, nodeView s pl k n g⟩
      let (held, counts, returns, since) := n.copyState (g.mode.toNat + 1)
      match x.copyMove multi with
      | .wait => .next (if since.isSome then s.setPlane p (pl.setCopy k (.copy held counts returns none)) else s)
      | .latch t =>
        .next (s.setPlane p { pl.modNode k fun n => { n.take [1, 0, 0, 0] with st := .copy (held ++ [t]) counts returns none } with
          active := true })
      | .portWait => .next (s.setPlane p (pl.setCopy k (.copy held counts returns (some (since.getD s.cycle)))))
      | m =>
        if ¬ m.fits pl n then .next s
        else
          let (granted, s1) := grantCycle s p
          if !granted && pl.st = .live then .next s1
          else
            let (ok, s2) := admitMem s1 p n i
            if !ok then .next s2 else .next (commitCopy s2 p k n (!multi && g.opt.getLsbD 0) returns m)

/-! ## The engine (R342, R345) -/

/-- Where an offset of a range lives. -/
def placeOf (pieces : List (Nat × Nat)) (off : Nat) : Nat :=
  match (pieces.filter fun x => x.1 ≤ off).getLast? with
  | some (o, loc) => loc + (off - o)
  | none => 0

/-- The words of n bytes, none where a word is poisoned. -/
def readWords (m : Memory) (loc n : Nat) : List (Option W32) :=
  (List.range (n / 4)).map fun k =>
    if m.poisoned (loc + 4 * k) 4 then none else some (BitVec.ofNat 32 (m.nat (loc + 4 * k) 4))

/-- One word written, poisoned where it is none. -/
def putWord (loc : Nat) (w : Option W32) (m : Memory) : Memory := m.writeWord loc 4 (w.map fun v => v.setWidth 64)

/-- Words written from a place on. -/
def putWords : Nat → List (Option W32) → Memory → Memory
  | _, [], m => m
  | loc, w :: rest, m => putWords (loc + 4) rest (putWord loc w m)

/-- Words written at the offset of a destination outside tile space. -/
def State.copyWords (s : State) (c : Copy) (kind : Nat) (pieces : List (Nat × Nat)) : Nat → List (Option W32) → State
  | _, [] => s
  | off, w :: rest =>
    let loc := placeOf pieces off
    let s := s.setMem c.plane kind (putWord loc w (s.memOf c.plane kind))
    let s := if kind = 4 then s.hostWritten (some c.md) (hostLine loc) else s
    s.copyWords c kind pieces (off + 4) rest

/-- A granule of the source written at its place in a destination, in one access of a memory tile (R342). -/
def State.copyWrite (s : State) (c : Copy) (kind : Nat) (pieces : List (Nat × Nat)) (off : Nat) (ws : List (Option W32)) : State :=
  if kind = 0 then
    let loc := placeOf pieces off
    s.modPlane c.plane (·.engineWrite loc (4 * ws.length) (putWords loc ws))
  else s.copyWords c kind pieces off ws

/-- The lines of device memory that some bytes of a copy's range touch, and how the engine uses them (R299, R305). -/
def Copy.cacheUse (c : Copy) (space : Nat) (write : Bool) (pieces : List (Nat × Nat)) (off n : Nat) : List Nat × CacheUse :=
  let locs := (List.range ((n + 3) / 4)).map fun k => placeOf pieces (off + 4 * k)
  (if space = 2 ∨ space = 3 then (locs.map (· / 128)).eraseDups else [],
    { write, low := space = 3, device := locs.any fun l => c.devs.contains (pageKey (space = 4) l) })

/-- POISON, UNDERFLOW and TIMEOUT of a cell's status (R344). -/
def cellPoison : Nat := 1
def cellUnderflow : Nat := 2
def cellTimeout : Nat := 4

/-- An arrival at a completion cell, in one step (R345), and the scan that a full granule sets going. -/
def Plane.arrive (pl : Plane) (loc st : Nat) : Plane :=
  let m := pl.sram
  let status := m.nat (loc + 4) 4
  let count := m.nat loc 4
  let put (c t : Nat) : Memory := (m.write loc (wordBytes 4 c)).write (loc + 4) (wordBytes 4 t)
  let filled (h : Home) : Plane :=
    let pl' := pl.setHome { h with full := insertNat h.full (granule loc) }
    pl.settle pl' loc 1
  if m.poisoned loc 8 then filled { pl.home with mem := put 0 (st ||| cellPoison) }
  else if count = 0 then filled { pl.home with mem := put 0 (status ||| st ||| cellUnderflow) }
  else if count = 1 then filled { pl.home with mem := put 0 (status ||| st) }
  else pl.setHome { pl.home with mem := put (count - 1) (status ||| st) }

/-- The bytes of the granule of the source that the copy reads next (R342). -/
def Copy.chunk (c : Copy) : Nat :=
  let a := (packetWord c.words 0).toNat + c.done
  min (16 - a % 16) (packetLen c.words - c.done)

/-- The one aligned access, of a size that a peer's request has, that reads those bytes (R343, R381): its address and size. -/
def Copy.peerRead (c : Copy) : W64 × Nat :=
  let a := packetWord c.words 0 + BitVec.ofNat 64 c.done
  let n := c.chunk
  if n = 4 then (a, 4) else if n = 8 ∧ a.toNat % 8 = 0 then (a, 8) else (a - BitVec.ofNat 64 (a.toNat % 16), 16)

/-- A copy with a granule in hand or made; the timer restarts with each granule. -/
def Copy.took (c : Copy) (ws : List (Option W32)) : Copy :=
  { c with got := some ws, made := 0, peer := none, pois := c.pois || ws.any (·.isNone) }
def Copy.advance (c : Copy) (now : Nat) : Copy :=
  { c with done := c.done + 4 * ((c.got.map List.length).getD 0), got := none, made := 0, peer := none, since := now }

def State.setHead (s : State) (key : Nat) (c : Copy) : State :=
  { s with ports := mapSet s.ports key (modifyAt (s.portQueue key) 0 fun _ => c) }

/-- The head of a port has ended: the next copy begins its own timer. -/
def State.endCopy (s : State) (key : Nat) : State :=
  { s with ports := mapSet s.ports key (modifyAt ((s.portQueue key).drop 1) 0 fun c => { c with since := s.cycle }) }

/-- A request of the copy to a peer. -/
def State.copyPeer (s : State) (key : Nat) (c : Copy) (acc : Access) (va : W64) (size : Nat) : State :=
  match s.plane? c.plane with
  | none => s
  | some pl =>
    let (id, s) := s.takeId
    let r : Request := { id, who := .node c.node, acc, space := 5, addr := va, loc := 0, size, issued := s.cycle, md := c.md }
    let s := s.modPlane c.plane fun pl => { pl with reqs := pl.reqs ++ [r] }
    (s.sendPeer c.plane pl.ctx r).setHead key { c with peer := some id }

/-- The element at the front of a channel copy's granule. -/
def Copy.element (c : Copy) (ws : List (Option W32)) : Token :=
  let n := c.ty.bytes / 4
  let part := (ws.drop (c.made * n)).take n
  let raw := part.reverse.foldl (fun (acc : Option Nat) w => match acc, w with
    | some x, some y => some (x * 2 ^ 32 + y.toNat)
    | _, _ => none) (some 0)
  loadToken c.ty c.ty.bytes raw

/-- Tokens of a copy on its node's targets, where its plane moves tokens and has room. Tokens for which no target is present, and those
of a plane that has been abandoned, go nowhere (R349, R439). -/
def State.copyEmit (s : State) (c : Copy) (es : List (Nat × Token)) : Option State :=
  match s.plane? c.plane with
  | none => some s
  | some pl =>
    match pl.nodes[c.node]? with
    | none => some s
    | some n =>
      if pl.abandon ∨ es.all (fun e => (n.out e.1).isNone) then some s
      else if (pl.st = .live ∨ pl.st = .ending) ∧ ¬ pl.reload ∧ pl.canEmit n es then
        some (s.setPlane c.plane { pl.emitAll n es with active := true })
      else none

/-- The read of the next granule. -/
def State.copyRead (s : State) (key : Nat) (c : Copy) : State :=
  let n := c.chunk
  if c.space = 5 then
    if c.peer.isSome then s else s.copyPeer key c (.copyRead c.peerRead.2) c.peerRead.1 c.peerRead.2
  else
    let loc := placeOf c.src c.done
    let (lines, use) := c.cacheUse c.space false c.src c.done n
    match s.cacheLines (.port key) use lines with
    | none => s.waitSlot (.port key) lines
    | some s =>
      let (m, s) := if c.space = 4 then s.hostFresh c.md loc n use.device else (s.memOf c.plane c.space, s)
      s.setHead key (c.took (readWords m loc n))

/-- The next write or element of the granule in hand. -/
def State.copyMake (s : State) (key : Nat) (c : Copy) (ws : List (Option W32)) : State :=
  let kind := packetKind c.words
  if c.chan then
    if c.made * c.ty.bytes ≥ 4 * ws.length then s.setHead key (c.advance s.cycle)
    else match s.copyEmit c (outBoth (c.element ws)) with
      | some s => s.setHead key { c with made := c.made + 1 }
      | none => s
  else if kind = 5 then
    if c.made ≥ ws.length then s.setHead key (c.advance s.cycle)
    else if c.peer.isSome then s
    else s.copyPeer key c (.copyWrite ((ws.drop c.made).take 1))
      (packetWord c.words 1 + BitVec.ofNat 64 (c.done + 4 * c.made)) 4
  else
    match c.dsts[c.made]? with
    | none => s.setHead key (c.advance s.cycle)
    | some pieces =>
      let (lines, use) := c.cacheUse kind true pieces c.done (4 * ws.length)
      match s.cacheLines (.port key) use lines with
      | none => s.waitSlot (.port key) lines
      | some s => (s.copyWrite c kind pieces c.done ws).setHead key { c with made := c.made + 1 }

/-- The status of a copy's arrivals. -/
def Copy.status (c : Copy) : Nat := (if c.pois then cellPoison else 0) + if c.timed then cellTimeout else 0

/-- What follows the last granule: the arrivals, the end-of-tile marker, the token on target A. -/
def State.copyEnd (s : State) (key : Nat) (c : Copy) : State :=
  match c.cells[c.arrived]? with
  | some loc => (s.modPlane c.plane (·.arrive loc c.status)).setHead key { c with arrived := c.arrived + 1 }
  | none =>
    let out := if c.chan then outBoth (marker 2 0#8 (if c.pois then 1#8 else 0#8)) else outAck
    match s.copyEmit c out with
    | some s => s.endCopy key
    | none => s

/-- The next step of the copy at the head of a port. -/
def State.runCopy (s : State) (key : Nat) (c : Copy) : State :=
  if c.done < packetLen c.words ∧ ¬ c.timed then
    match c.got with
    | none => s.copyRead key c
    | some ws => s.copyMake key c ws
  else s.copyEnd key c

/-- COPY_RUN (R337, R342): the engine of port `index` takes one step of the copy at its head: it reads a granule, makes one
write or element of it, one arrival, the marker or the token. -/
def execCopyRun (s : State) : Result :=
  let key := s.arg.index
  match s.portQueue key with
  | [] => .next s
  | c :: _ => .next (s.runCopy key c)

/-! ## Timeouts and slots (R336, R348, R350) -/

/-- Cycles without progress that a copy is given (R348). -/
def Copy.patience (c : Copy) : Nat := if c.space = 5 ∨ (¬ c.chan ∧ packetKind c.words = 5) then 2 ^ 26 else 2 ^ 20

/-- The copy at the head of a port ends where it stands, and its node takes a fault. -/
def State.stopCopy (s : State) (key : Nat) (c : Copy) (cause : Nat) : State :=
  let s := (s.leaveSlots (.port key)).modPlane c.plane fun pl => match c.peer with
    | some id => { pl with reqs := pl.reqs.filter fun r => r.id ≠ id }
    | none => pl
  (s.setHead key { c with timed := true, peer := none }).detectFault c.plane (some (.node c.node))
    { cause, access := 4, iter := some c.iter, opv := some c.opv, vaddr := packetWord c.words 0 }

/-- Cycles that a firing may wait for a place in its port: those of a request, in space 5 where its packet's source or destination is
there (R442, R443). -/
def portPatience (i : Option Instr) (ws : List Token) : Nat :=
  let to5 := packetKind (ws.map Token.val) = 5
  match i with
  | some (.cpy g) => if g.space = 5 ∨ (¬ g.opt.getLsbD 0 ∧ to5) then 2 ^ 26 else 2 ^ 20
  | some (.cpym g) => if g.space = 5 then 2 ^ 26 else 2 ^ 20
  | _ => 2 ^ 20

/-- COPY_TIMEOUT: the copy at the head of port `index` has made no progress (R348); where `other` is 1, node `index` of a
plane has waited too long for a place in its port (R336, R443). -/
def execCopyTimeout (s : State) : Result :=
  let x := s.arg
  if x.other = 1 then
    match (s.plane? x.plane).bind fun pl => pl.nodes[x.index]? with
    | none => .next s
    | some n =>
      match n.st with
      | .copy ws cs rs (some t) =>
        if s.cycle < t + portPatience n.instr ws then .next s
        else
          let s := s.modPlane x.plane (·.modNode x.index fun n => { n with st := .copy ws cs rs none })
          .next (s.detectFault x.plane (some (.node x.index))
            { cause := 0x38, access := 4, iter := some [0, 0, 0, n.fired.length], opv := some ((ws.take 3).map Token.recorded)
              vaddr := ((ws.head?).map Token.val).getD 0#64 })
      | _ => .next s
  else
    match s.portQueue x.index with
    | [] => .next s
    | c :: _ =>
      if s.cycle < c.since + c.patience ∨ c.timed ∨ packetLen c.words ≤ c.done then .next s
      else .next (s.stopCopy x.index c 0x38)

/-- SLOT_RETURN (R350): the CPYM at node `index` counts the oldest slot returned to it, up to S. -/
def execSlotReturn (s : State) : Result :=
  let x := s.arg
  match s.plane? x.plane with
  | none => .next s
  | some pl =>
    match pl.nodes[x.index]? with
    | none => .next s
    | some n =>
      match n.instr with
      | some (.cpym g) =>
        let top := g.mode.toNat + 1
        match n.copyState top with
        | (ws, cs, j :: rest, t) =>
          if pl.st ≠ .live then .next s
          else .next (s.setPlane x.plane
            { pl.modNode x.index fun n => { n with st := .copy ws (modifyAt cs j fun c => min (c + 1) top) rest t } with active := true })
        | _ => .next s
      | _ => .next s

/-- CPY (R340 to R343). -/
def execCpy (g : GArgs) (s : State) : Result := fireCopy s g (.cpy g) false
/-- CPYM (R340 to R343, R350). -/
def execCpym (g : GArgs) (s : State) : Result := fireCopy s g (.cpym g) true

end Sys2Proof.Machine
end

