-- ==== Sys2Proof/Machine/Requests.lean ====
section
/-! DEFINITION. The life of a request after it leaves its agent: it performs at its home (R299, R353), its reply is emitted
in issue order (R37, R274, R300), markers close the rounds of rounded regions (R293), walks end (R309), timers expire
(R442), and copies of host lines are brought up to date (R363, R364). Each is a device step that answers a next state
always; one whose time has not come leaves the state as it is. -/

namespace Sys2Proof.Machine

/-! ## Homes -/

/-- A request takes a place among the parked ones, in order of arrival. -/
def State.parkNow (s : State) (p : PlaneId) (r : Request) : State :=
  let (stamp, s) := s.takeId
  s.modPlane p (·.modReq r.id fun x => { x with parked := some stamp, held := false })

/-- A request waits for its turn where it is. -/
def State.hold (s : State) (p : PlaneId) (r : Request) : State := s.modPlane p (·.modReq r.id fun x => { x with held := true })

/-- A request parks where its condition does not hold and its memory tile has a place, and waits at the tile otherwise
(R278). -/
def State.park (s : State) (p : PlaneId) (pl : Plane) (r : Request) : State :=
  if r.space = 0 ∧ pl.parkedIn (r.loc / 2 ^ 18) ≥ 16 then s.hold p r else s.parkNow p r

/-- A request that must wait for another: in the collection buffer of its tile where it waits for its turn in a round and a place is
free (R293), else where it is. -/
def State.awaitTurn (s : State) (p : PlaneId) (pl : Plane) (r : Request) : State :=
  if r.parked.isSome then s
  else if pl.roundHeld r && decide (pl.collectedIn (r.loc / 2 ^ 18) < collectionMax) then s.parkNow p r
  else s.hold p r

/-- The request is served with no effect at its home but what it returns. -/
def State.serveWith (s : State) (p : PlaneId) (r : Request) (out : List (Nat × Token)) (flags : FpFlags := 0#5) : State :=
  s.modPlane p (·.serve r out flags)

/-- A line of SPLD is read (R323). A line that breaks the format faults at its node, which reads it again. -/
def State.performLine (s : State) (p : PlaneId) (r : Request) (m : Memory) : State :=
  match lineTokens m r.loc with
  | .error c =>
    (s.modPlane p fun pl => { pl with reqs := pl.reqs.filter fun x => x.id ≠ r.id }).detectFault p (some r.who)
      { cause := c, access := 1, iter := r.iter, opv := r.opv, vaddr := r.addr }
  | .ok (ts, last) =>
    let s := s.serveWith p r (ts.flatMap outBoth)
    match r.who with
    | .node i => s.modPlane p (·.modNode i fun n => { n with st := .elem (if last then 1000 else r.elem + 1) })
    | .pe _ => s

/-- The task whose load a plane runs, by its number among all tasks. -/
def State.serialOf (s : State) (pl : Plane) : Nat := ((s.taskOf pl).map (·.serial)).getD 0

/-- A record is appended to its bin, or its BINADD parks while the bin is full (R328). One of an open round is its load's own until the
round closes. -/
def State.performBin (s : State) (p : PlaneId) (pl : Plane) (r : Request) (bin op : Nat) (ty : Ty) (v : Option W64) : State :=
  let c := s.ctx pl.ctx
  let recs := (mapGet c.bins bin).getD []
  if recs.length > wbits c.binctl 63 48 then s.park p pl r
  else
    let rank := match r.who with | .node i => ((pl.nodes[i]?).map Node.rank).getD 0 | .pe _ => 0
    let round := match r.round with
      | 0 => none
      | k + 1 => some k
    let owner := round.map fun _ => s.serialOf pl
    let rec' : BinRec := { addr := r.addr, v, op, ty, round, rank, elem := r.elem, owner }
    (s.setCtx pl.ctx { c with bins := mapSet c.bins bin (recs ++ [rec']) }).serveWith p r outAck

/-- The plane's server of a range number. -/
def Plane.server (pl : Plane) (range : Nat) : Option RangeServer := pl.servers.find? fun v => v.range = range
def Plane.setServer (pl : Plane) (v : RangeServer) : Plane :=
  { pl with servers := pl.servers.map fun x => if x.range = v.range then v else x }

/-- A pull: the next chunk of the range, or the level-7 marker, whose round is given when it leaves (R189, R332). -/
def pullRange (v : RangeServer) (chunk : Nat) (ty : Ty) : RangeServer × List (Nat × Token) :=
  if v.next < v.hi then
    let stop := min (v.next + chunk) v.hi
    ({ v with next := stop }, [(0, .data (tyWrap ty v.next)), (1, .data (tyWrap ty stop))])
  else (v, outBoth (marker 7))

/-- The leaf that a page is reached by, of the TLB or of a walk, which then fills the TLBs. -/
def State.leafOf (s : State) (md ctx va : Nat) (cluster : Option Nat := none) : Option Leaf × State :=
  match s.tlbFind md ctx va cluster with
  | some t => (some t.leaf, s)
  | none => match s.walk ctx va with
    | .ok l => (some l, s.tlbFill md ctx va l cluster)
    | .error _ => (none, s)

/-- A line is brought into its home: a port cache in spaces 2 and 3, the near die's system cache in space 4 (R319, R322). One whose
translation fails or whose page is not of normal type is skipped; none where it has to wait for a slot, which it then joins. -/
def State.bringLine (s : State) (who : SlotWaiter) (space ctx md : Nat) (cluster : Option Nat) (va : W64) : State × Bool :=
  if wbits va 63 56 ≠ 0 then (s, true)
  else match s.leafOf md ctx va.toNat cluster with
    | (none, s) => (s, true)
    | (some l, s) =>
      let loc := l.frame + va.toNat % 2 ^ l.bits
      if l.device ∨ l.host ≠ decide (space = 4) then (s, true)
      else if space = 4 then
        (if ((s.link.map (·.cxl)).getD false) ∧ (s.hostCopy md (hostLine loc)).isNone then s.holdCopy (s.freshCopy md (hostLine loc))
         else s, true)
      else match s.cacheLine who { low := space = 3 } (loc / 128) with
        | some s => (s, true)
        | none => (s.waitSlot who [loc / 128], false)

/-- The lines of a PREF, until one has to wait (R322). -/
def State.bringLines (s : State) (who : SlotWaiter) (space ctx md : Nat) (va : W64) : Nat → State × Bool
  | 0 => (s, true)
  | k + 1 =>
    match s.bringLine who space ctx md none va with
    | (s, true) => s.bringLines who space ctx md (va + 128#64) k
    | r => r

/-- The host-coherent or device memory of an access outside tile space, and where it performs there (R301, R353): what it returns and
the flags it raises. An atomic on a host line that reads as poison leaves it as it is (R291). -/
def State.accessAt (s : State) (p : PlaneId) (space : Nat) (policy : BitVec 8) (loc size : Nat) (a : Access) :
    Option (Memory × List (Nat × Token) × FpFlags) :=
  let m := s.memOf p space
  match a with
  | .store .. => (({ mem := m } : Home).access policy 0 loc a).map fun (h, out, flags) => (h.mem, out, flags)
  | a =>
    let view := if space = 4 then hostView m loc size else m
    (({ mem := view } : Home).access policy 0 loc a).map fun (h, out, flags) => (if view = m then h.mem else m, out, flags)

/-- A request performs. -/
def State.performRequest (s : State) (p : PlaneId) (pl : Plane) (r : Request) : State :=
  match r.acc with
  | .fence _ => s.serveWith p r outAck
  | .bring =>
    match s.bringLines (.request p r.id) r.space pl.ctx r.md r.addr (r.size / 128) with
    | (s, true) => s.serveWith p r []
    | (s, false) => s
  | .pass _ | .close .. | .ending _ | .child _ => s.serveWith p r []
  | .rangeInit range lo hi =>
    match pl.server range with
    | none => s
    | some v => (s.modPlane p (·.setServer { v with next := lo, hi := hi })).serveWith p r outAck
  | .rangePull range chunk ty =>
    match pl.server range with
    | none => s
    | some v =>
      let (v', out) := pullRange v chunk ty
      (s.modPlane p (·.setServer v')).serveWith p r out
  | .binAppend bin op ty v _ => s.performBin p pl r bin op ty v
  | .line _ =>
    if r.space = 4 then
      let (m, s) := s.hostLoad r.md r.loc r.size r.device
      s.performLine p r m
    else s.performLine p r (s.memOf p r.space)
  | .load ty size acq =>
    if r.space = 4 ∧ ¬ acq then
      let (m, s) := s.hostLoad r.md r.loc r.size r.device
      s.serveWith p r (outBoth (loadToken ty size (m.readWord r.loc size)))
    else if r.space = 4 then s.serveWith p r (outBoth (loadToken ty size ((hostView s.host r.loc size).readWord r.loc size)))
    else s.serveWith p r (outBoth (loadToken ty size ((s.memOf p r.space).readWord r.loc size)))
  | a =>
    if r.space = 0 then
      match pl.tryTile r with
      | none => s.park p pl r
      | some pl' => s.setPlane p (pl.settle pl' r.loc r.size)
    else
      match s.accessAt p r.space (pl.policyOf r.who) r.loc r.size a with
      | none => s
      | some (m, out, flags) =>
        let s := s.setMem p r.space m
        let s := if r.space = 4 then s.hostWritten (some r.md) (hostLine r.loc) else s
        s.serveWith p r out flags

/-- The access kind of a request in a trap record (R425). -/
def Access.kind : Access → Nat
  | .store .. | .stfe .. | .feclr | .feset | .push _ | .binAppend .. => 2
  | .atomic .. => 3
  | .beat _ => 4
  | .beatWrite .. => 5
  | _ => 1

/-- The lines of a port cache that a request uses, and how (R305). -/
def Request.cacheUse (r : Request) : List Nat × CacheUse :=
  let lines := if r.acc.touches ∧ (r.space = 2 ∨ r.space = 3) ∧ r.roundKey ≠ engineKey then linesOf r.loc r.size else []
  (lines, { write := r.acc.kind = 2 || r.acc.kind = 3, low := r.space = 3, device := r.device })

/-- A request finds its lines in the port cache of their home, or brings them there, for which it may have to wait for a slot (R299,
R305). -/
def State.takeSlot (s : State) (p : PlaneId) (r : Request) : Option State :=
  s.cacheLines (.request p r.id) r.cacheUse.2 r.cacheUse.1

/-- REQUEST_SLOT_FREE (R299): the memory of die `index` completes a fill or a write-back; `verdict` says LPDDR6. -/
def execRequestSlotFree (s : State) : Result :=
  .next (s.setSlots s.arg.verdict s.arg.index (s.slotsUsed s.arg.verdict s.arg.index - 1))

/-! ## Replies -/

/-- The reply of a task's request is a 64-bit token: a tagged or an 8-byte LDREQ (R223). -/
def Request.wide (r : Request) : Bool :=
  match r.acc with
  | .load _ size _ => decide (size = 8) || r.tag.isSome
  | _ => false

/-- The tokens of a reply that leave together: targets in rising order. -/
def replyGroup : List (Nat × Token) → List (Nat × Token) × List (Nat × Token)
  | [] => ([], [])
  | (k, t) :: rest =>
    match rest with
    | (k', _) :: _ => if k < k' then let r := replyGroup rest; ((k, t) :: r.1, r.2) else ([(k, t)], rest)
    | [] => ([(k, t)], [])

/-- A task's held barrier, and what it sends behind one, waits until its PE's earlier requests have completed (R41, R231). -/
def Plane.barrierHeld (pl : Plane) (r : Request) : Bool :=
  match r.who, r.acc with
  | .pe _, .pass _ => pl.reqs.any fun q => decide (q.who = r.who ∧ q.id < r.id) && !q.done && !q.lost
  | _, _ => false

/-- A request that names a reply channel, or is a node's: its turn matters. -/
def Request.replying (r : Request) : Bool :=
  match r.who, r.acc with
  | .node _, _ => true
  | .pe _, .atomic _ _ _ _ false | .pe _, .store _ _ false => false
  | .pe _, _ => true

/-- An earlier request of the same agent, and of the same reply channel, has still to reply (R234, R300). -/
def Plane.replyHeld (pl : Plane) (r : Request) : Bool :=
  pl.reqs.any fun q => q.who = r.who ∧ q.id < r.id ∧ ¬ q.lost ∧ q.replying ∧ q.chan = r.chan

/-- Every rounded tile of the load, or the binning engine, has closed the round of a marker (R293, R328). -/
def Plane.roundClosed (pl : Plane) (r : Request) : Bool :=
  if r.space = 2 then decide (r.round ≤ (pl.roundTile engineKey).closed)
  else pl.roundedTiles.all fun t => decide (r.round ≤ (pl.roundTile t).closed)

/-- A stream whose closing markers say whether their group held poison (R31). -/
def Node.isStream (n : Node) : Bool := match n.instr with | some (.sld _) | some (.spld _) => true | _ => false

/-- A marker with the POISON bit of its status set. -/
def Token.poisonBit : Token → Token
  | .marker l r st => .marker l r (st ||| 1#8)
  | t => t

/-- The tokens of a reply as its node sends them: a pull's marker takes the round of R189, and a stream's closing marker says that its
group held poison (R31). -/
def Node.stamped (n : Node) (acc : Access) (g : List (Nat × Token)) : List (Nat × Token) :=
  match acc with
  | .rangePull .. => g.map fun e => (e.1, match e.2 with | .marker l _ st => .marker l n.round st | t => t)
  | .ending _ => if n.pois then g.map fun e => (e.1, e.2.poisonBit) else g
  | _ => g

/-- A node's round counter after a reply: a pull's own marker advances it, a passing marker sets it (R189). -/
def Node.roundAfterReply (n : Node) (acc : Access) (g : List (Nat × Token)) : BitVec 8 :=
  match (g.map (·.2)).find? fun t => decide (t.level ≥ 4), acc with
  | none, _ => n.round
  | some _, .rangePull .. => n.round + 1#8
  | some t, _ => match n.instr with | some (.rangePull _) => t.round + 1#8 | _ => n.round

/-- Whether a stream has delivered poison in the group that it has still to close. -/
def Node.poisAfter (n : Node) (g : List (Nat × Token)) : Bool :=
  n.isStream && !g.any (·.2.isMarker) && (n.pois || g.any (·.2.isPoison))

/-- A request's tokens leave its node. -/
def Plane.emitReply (pl : Plane) (i : Nat) (n : Node) (r : Request) (g : List (Nat × Token)) : Plane :=
  let out := n.stamped r.acc g
  (pl.modNode i fun x =>
    { x with round := n.roundAfterReply r.acc g, pois := n.poisAfter g, barriers := x.barriers + barrierIn out }).emitAll n out

/-- The rest of a request's reply, and the request's end with its last token. -/
def Plane.advanceReply (pl : Plane) (r : Request) (rest : List (Nat × Token)) : Plane :=
  if rest.isEmpty then { pl with reqs := pl.reqs.filter fun x => x.id ≠ r.id } else pl.modReq r.id fun x => { x with replies := rest }

/-- A token sent on output channel o of a task-mode PE (R221). -/
def Plane.sendTask (pl : Plane) (k o : Nat) (t : Token) : Plane :=
  (((pl.pes[k]?).bind fun x => x.outs[o]?).getD []).foldl (fun pl d => pl.emit d t) pl

/-- The child whose return token a request awaits; its colour is freed once the token has been delivered (R403). -/
def Access.serial : Access → Option Nat
  | .child k => some k
  | _ => none
def State.freeChild (s : State) (k : Nat) : State :=
  { s with tasks := s.tasks.filter fun t => ¬ (t.2.serial = k ∧ t.2.st = .complete) }

/-- MEMORY_REPLY (R300, R403): the next tokens of request `index` of a plane leave, in their turn and where there is room. -/
def execMemoryReply (s : State) : Result :=
  let x := s.arg
  match s.plane? x.plane with
  | none => .next s
  | some pl =>
    match pl.reqs.find? fun r => r.id = x.index with
    | none => .next s
    | some r =>
      let ready := match r.acc with | .close .. => pl.roundClosed r | _ => r.done
      let moving := pl.st = .live ∨ (pl.st = .ending ∧ r.acc.serial.isNone)
      if !ready ∨ r.lost ∨ pl.replyHeld r ∨ pl.barrierHeld r ∨ ¬ moving ∨ pl.reload then .next s
      else
        let (g, rest) := replyGroup r.replies
        match r.who with
        | .node i =>
          match pl.nodes[i]? with
          | none => .next s
          | some n =>
            if ¬ pl.canEmit n g then .next s
            else
              let s := s.setPlane x.plane { (pl.emitReply i n r g).advanceReply r rest with active := true }
              .next (match r.acc.serial with | some k => s.freeChild k | none => s)
        | .pe k =>
          let pl' : Plane := match r.acc with
            | .pass _ => g.foldl (fun (q : Plane) (e : Nat × Token) => q.sendTask k e.1 e.2) pl
            | _ => pl.modPe k fun t =>
              { t with
                chans := g.foldl (fun cs e => modifyAt cs (t.inputs + e.1) (·.push e.2)) t.chans
                widths := g.foldl (fun ws e => modifyAt ws e.1 (· ++ [r.wide && e.2.isData])) t.widths }
          .next (s.setPlane x.plane { pl'.advanceReply r rest with active := true })

/-! ## Rounds -/

/-- A node's requests of a round that it made before the marker that ends it, and that have still to perform at a tile. -/
def Plane.roundOwes (pl : Plane) (r : Request) (key : Nat) : Bool :=
  pl.reqs.any fun q => q.who = r.who ∧ q.id < r.id ∧ q.round ≠ 0 ∧ q.acc.touches ∧ q.roundKey = key ∧ ¬ q.done ∧ ¬ q.lost

/-- The engine closes a round of a task's load: its records take their place after those of the rounds closed before (R328, R329). -/
def Ctx.closeRound (c : Ctx) (serial round : Nat) : Ctx :=
  { c with
    closed := c.closed + 1
    bins := c.bins.map fun b => (b.1, b.2.map fun r =>
      if r.owner = some serial ∧ r.round = some round then { r with owner := none, round := some c.closed } else r) }

/-- ROUND_MARKER_ARRIVAL (R293): behind the node's own requests, the marker of request `index` reaches tile `other` of a rounded region, or the binning
engine. It must carry the tile's round (R40); the round closes with the marker of the last input. -/
def execRoundMarkerArrival (s : State) : Result :=
  let x := s.arg
  match s.plane? x.plane with
  | none => .next s
  | some pl =>
    match pl.reqs.find? fun r => r.id = x.index with
    | none => .next s
    | some r =>
      match r.acc, r.who with
      | .close m _, .node i =>
        let bins := decide (r.space = 2)
        let key := if bins then engineKey else x.other
        let t := pl.roundTile key
        if ¬ bins ∧ ¬ pl.roundedTiles.contains key then .next s
        else if pl.roundOwes r key then .next s
        else if r.round ≠ t.closed + 1 ∨ t.arrived.any (fun a => a.1 = i) then .next s
        else if m.round ≠ t.counter then .next (s.detectFault x.plane (some r.who) { cause := 0x51, iter := r.iter, opv := r.opv })
        else
          let arrived := t.arrived ++ [(i, m)]
          let closes := (pl.inputs bins).all fun n => arrived.any fun a => a.1 = n.1
          let t' : RoundTile := if closes then { counter := t.counter + 1#8, closed := t.closed + 1 } else { t with arrived }
          let s := s.setPlane x.plane { pl with rounds := mapSet pl.rounds key t', active := true }
          .next (if closes ∧ bins then s.modCtx pl.ctx (·.closeRound (s.serialOf pl) t.closed) else s)
      | _, _ => .next s

/-! ## Walks -/

/-- What the end of a walk means for one agent that waits for it: a fault, or nothing. -/
def Walk.fault (w : Walk) (r : Except Nat Leaf) : Option Nat :=
  match r with
  | .error c => some c
  | .ok l =>
    let kind := if w.atomic then 2 else if w.write then 1 else 0
    match l.check { space := w.space, va := w.va, size := w.size, align := 1, kind } with
    | .fault c => some c
    | _ => none

/-- An agent whose access ends in a fault is charged again when it fires again, but for a firing part-way (R144, R225). -/
def Plane.uncharge (pl : Plane) (who : Asker) : Plane :=
  match who with
  | .node i => pl.modNode i fun n => { n with charged := n.st.midway }
  | .pe k => pl.modPe k fun t => { t with charged := false }

/-- The fault of an agent whose walk has ended in one, which its die detects where the walk does (R20). -/
def State.walkFault (s : State) (w : Walk) (cause : Nat) (md : Option Nat) : State :=
  match w.plane with
  | none => s
  | some p =>
    let s := match w.who with | some who => s.modPlane p (·.uncharge who) | none => s
    s.detectFault p w.who { cause, access := w.access, iter := w.iter, opv := w.opv, vaddr := w.va, md, slot := w.slot }

/-- The agent fires again with what it holds, where TRAPACK has granted it nothing else. -/
def Plane.goesOn (pl : Plane) (who : Asker) : Plane :=
  match who with
  | .node i => pl.modNode i fun n => if n.grant = .none then { n with grant := .retry 0 } else n
  | .pe k => pl.modPe k fun t => if t.grant = .none then { t with grant := .retry 0 } else t

/-- A walk has found its leaf: in an ENDING plane the request that its agent issued before DONE goes on (R28, R309, R504). -/
def State.walkGoesOn (s : State) (w : Walk) : State :=
  match w.plane, w.who with
  | some p, some who =>
    match s.plane? p with
    | none => s
    | some pl =>
      if pl.st = .ending ∨ (pl.st = .frozen ∧ pl.before = .ending) then s.setPlane p (pl.goesOn who) else s
  | _, _ => s

/-- Two walks are one: of one page of a context, at one die (R309). -/
def Walk.shares (w x : Walk) : Bool := x.md = w.md && x.asid = w.asid && x.va.toNat / 2 ^ 16 == w.va.toNat / 2 ^ 16

/-- The TLBs as a walk that has found its leaf leaves them: the leaf, for each cluster that waited, and the pointers met (R309). -/
def State.walkFills (s : State) (w : Walk) (ws : List Walk) (l : Leaf) : State :=
  let s := w.met.foldl (fun s x => match walkLevels[x.1 - 1]? with
    | some lv => if x.1 = 0 then s else s.tlbPointer w.md w.asid w.va.toNat lv.shift x.2
    | none => s) s
  ws.foldl (fun s x => s.tlbFill w.md w.asid w.va.toNat l x.cluster) s

/-- The walk of a page ends for every agent that waits for it at its die; a walk that ends in a fault for all of them
leaves nothing in any TLB (R309). -/
def State.endWalk (s : State) (w : Walk) (r : Except Nat Leaf) : State :=
  let ws := s.walks.filter w.shares
  let s := { s with walks := s.walks.filter fun x => !w.shares x }
  let s := ws.foldl (fun s x => match x.fault r with | some c => s.walkFault x c (some x.md) | none => s.walkGoesOn x) s
  match r with
  | .error _ => s
  | .ok l => match ws.filter fun x => (x.fault r).isNone with
    | [] => s
    | served => s.walkFills w served l

/-- Every share of a walk has come to a table. -/
def State.walkMeets (s : State) (w : Walk) (x : Nat × Nat) : State :=
  { s with walks := s.walks.map fun y => if w.shares y then { y with met := x :: w.met } else y }

/-- The table walkers of a die (R309). -/
def walkersMax : Nat := 64

/-- One of the walks that share each page, in order of arrival. -/
def firstShares : List Walk → List Walk
  | [] => []
  | w :: rest => w :: (firstShares rest).filter fun x => !w.shares x

/-- A walker is free for a walk: fewer than 64 are at work at its die, and no walk there has waited longer for one. -/
def State.walkerFree (s : State) (w : Walk) : Bool :=
  let ws := (firstShares s.walks).filter fun x => x.md = w.md
  decide ((ws.filter fun x => !x.met.isEmpty).length < walkersMax) && ((ws.find? fun x => x.met.isEmpty).all w.shares)

/-- A walk goes on: a free walker takes it, or its walker reads the entry of the table that it has come to, at that entry's home. -/
def State.stepWalk (s : State) (w : Walk) : State :=
  let va := w.va.toNat
  match w.met with
  | [] =>
    if ¬ s.walkerFree w then s
    else match s.walkStart w.md w.asid va with
      | none => s.endWalk w (.error 0x10)
      | some x => s.walkMeets w x
  | (level, table) :: _ =>
    match walkLevels[level]? with
    | none => s.endWalk w (.error 0x10)
    | some lv =>
      let at_ := table + va / 2 ^ lv.shift % 2 ^ lv.width * 8
      let who := SlotWaiter.walk w.md w.asid (va / 2 ^ 16)
      match s.cacheLine who {} (at_ / 128) with
      | none => s.waitSlot who [at_ / 128]
      | some s =>
        match s.dram.readWord at_ 8 with
        | none => s.endWalk w (.error 0x31)
        | some e => match lv.entry (BitVec.ofNat 64 e) with
          | .invalid => s.endWalk w (.error 0x10)
          | .leaf l => s.endWalk w (.ok l)
          | .table pa => s.walkMeets w (level + 1, pa)

/-- A leaf of a die's second-level TLB is held by the first level of a cluster too. -/
def State.copyLeaf (s : State) (index cluster : Nat) : State :=
  match s.tlbs[index]? with
  | some (key, e) => if key < 4 ∧ ¬ e.ptr then s.tlbPut (tlbKey key (some (cluster % 16))) e else s
  | none => s

/-- A stream reads line k of the request at the head of its operand ahead of its demand, where that is in spaces 2 to 4 (R319); its walk
leaves nothing in any TLB (R309). -/
def State.readAhead (s : State) (p : PlaneId) (i k : Nat) : State :=
  match (s.plane? p).bind fun pl => (pl.nodes[i]?).map fun n => (pl, n) with
  | none => s
  | some (pl, n) =>
    let req := (n.a.head.map Token.val).getD 0#64
    let off := match n.b.head with | some t => (t.val.setWidth 32).signExtend 64 | none => 0#64
    match n.instr with
    | some (.sld g) =>
      let va := (req.setWidth 56).setWidth 64 + (if g.imm then off else 0#64) + BitVec.ofNat 64 (128 * k)
      if pl.st = .live ∧ 2 ≤ g.space ∧ g.space ≤ 4 ∧ (n.a.head.map Token.isData).getD false ∧ 16 * k ≤ wbits req 63 56 then
        match s.bringLine (.request p s.nextId) g.space pl.ctx n.near (some (n.point / 8)) va with
        | (s', true) => { s' with tlbs := s.tlbs }
        | _ => s
      else s
    | _ => s

/-- TABLE_WALK (R309): walk `index` goes on. Where `other` is 1, TLB entry `index` gives up its place instead, where it is 2, leaf
`index` is held by the first-level TLB of cluster `third` too, and where it is 3, stream `index` of a plane reads its line `third`
ahead (R319). -/
def execTableWalk (s : State) : Result :=
  let x := s.arg
  match x.other with
  | 1 => .next { s with tlbs := s.tlbs.eraseIdx x.index }
  | 2 => .next (s.copyLeaf x.index x.third)
  | 3 => .next (s.readAhead x.plane x.index x.third)
  | _ => match s.walks[x.index]? with
    | none => .next s
    | some w => .next (s.stepWalk w)

/-! ## Timers -/

/-- The cycles after which a request of a space times out (R442). -/
def timeoutCycles (space : Nat) : Nat := if space = 5 then 2 ^ 26 else 2 ^ 20

/-- MEMORY_TIMEOUT (R442): request `index` of a plane, or walk `index` where `other` is 1, has run out of time. What is left
of the request may perform later or never. No timeout applies to one that waits for another to perform, for its round, for a wave
predecessor or for a place (R278, R443). -/
def execMemoryTimeout (s : State) : Result :=
  let x := s.arg
  if x.other = 1 then
    match s.walks[x.index]? with
    | none => .next s
    | some w =>
      if s.cycle < w.since + timeoutCycles 2 then .next s
      else .next ({ s with walks := s.walks.eraseIdx x.index }.walkFault w 0x38 none)
  else
    match s.plane? x.plane with
    | none => .next s
    | some pl =>
      match pl.reqs.find? fun r => r.id = x.index with
      | none => .next s
      | some r =>
        if r.done ∨ r.lost ∨ r.timed ∨ r.held ∨ r.parked.isSome ∨ pl.mustWait s.cycle r ∨ ¬ (r.acc.touches ∨ r.acc = .bring) ∨
            s.cycle < r.issued + timeoutCycles r.space then .next s
        else
          let (ghost, s) := s.takeId
          let s := s.modPlane x.plane fun pl =>
            let pl := pl.modReq r.id fun q => { q with timed := true }
            if r.space = 5 then pl else { pl with reqs := pl.reqs ++ [{ r with id := ghost, lost := true }] }
          .next (s.detectFault x.plane (some r.who)
            { cause := 0x38, access := r.acc.kind, iter := r.iter, opv := r.opv, vaddr := r.addr, slot := r.slot })

/-! ## The host's lines -/

/-- SYSTEM_CACHE_COPY_UPDATE (R363): the copy that die `index` holds of the line at `value` is updated, or removed where the
verdict is false. -/
def execSystemCacheCopyUpdate (s : State) : Result :=
  let line := hostLine s.arg.value.toNat
  if ¬ s.copies.any fun c => c.md = s.arg.index ∧ c.line = line then .next s
  else if s.arg.verdict then .next (s.holdCopy (s.freshCopy s.arg.index line))
  else .next { s with copies := s.copies.filter fun c => ¬ (c.md = s.arg.index ∧ c.line = line) }

/-- HOST_SNOOP (R363): the snoop of a host store removes every copy of the line at `value`. -/
def execHostSnoop (s : State) : Result :=
  .next { s with copies := s.copies.filter fun c => c.line ≠ hostLine s.arg.value.toNat }

/-- The lines of device memory that a host access reaches, and whether it writes. -/
def hostLines : HostAccess → List Nat × Bool
  | .read pa len => (linesOf pa.toNat len, false)
  | .write pa bs => (linesOf pa.toNat bs.length, true)

/-- HOST_MEMORY_ACCESS (R299, R305, R364, R385): a host access to device memory performs at its home, over CXL.mem, through the port
cache there. -/
def execHostMemoryAccess (s : State) : Result :=
  if ¬ ((s.link.map (·.cxl)).getD false) then .next s
  else match s.cacheLines (.peer 16) { write := (hostLines s.arg.access).2 } (hostLines s.arg.access).1 with
    | none => .next s
    | some s =>
      match s.arg.access with
      | .read pa len => .next { s with sent := s.sent ++ [.hostData (s.dram.bytes pa.toNat len)] }
      | .write pa bs => .next { s with dram := s.dram.write pa.toNat bs }

end Sys2Proof.Machine
end

