-- ==== Sys2Proof/Machine/Task.lean ====
section
/-! DEFINITION. How a PE in task mode executes: activations (R222 to R226), the register file with its poison tags (R220),
repetition (R233), and the outcome of one instruction. -/

namespace Sys2Proof.Machine

/-- A task-mode PE about to execute the instruction at its pc. -/
structure TaskSite where
  s  : State
  p  : PlaneId
  k  : Nat
  pl : Plane
  t  : TaskPe
  a  : Activation

/-- What a task instruction does. -/
structure TaskEffect where
  writes : List (Nat × TaskReg) := []
  sends  : List (Nat × Token) := []
  rows   : Option (List TaskReg × List TaskReg) := none
  reqs   : List Request := []
  flags  : FpFlags := 0#5
  next   : Option Nat := none
  rep    : Option Rep := none
  stop   : Bool := false
deriving DecidableEq, Repr

/-- The outcome of a task instruction. -/
inductive TaskOut where
  | wait
  | walk (w : Walk)
  | fault (info : FaultInfo)
  | done (e : TaskEffect)
  | peer (r : Request)
deriving DecidableEq, Repr

/-! ## Registers -/

def TaskPe.reg (t : TaskPe) (i : Nat) : TaskReg := (t.regs[i]?).getD {}
def TaskPe.setReg (t : TaskPe) (i : Nat) (r : TaskReg) : TaskPe := { t with regs := modifyAt t.regs i fun _ => r }

/-- A register as a 64-bit operand value. -/
def TaskReg.wide (r : TaskReg) : W64 := r.v.setWidth 64

/-- A register as a trap record holds it: its value, with bit 63 set where its tag is (R236). -/
def TaskReg.recorded (r : TaskReg) : W64 := if r.tag.isSome then r.wide ||| (1#64 <<< 63) else r.wide

/-- The first tag of registers in order. -/
def firstTag (rs : List TaskReg) : Option (BitVec 8) := rs.findSome? (·.tag)

/-- Under REP, what the fields that the step mask names are raised by (R233). -/
def Activation.stepOf (a : Activation) (bit : Nat) : Nat :=
  match a.rep with
  | some r => if r.mask.getLsbD bit then r.k * r.stride else 0
  | none => 0

/-- The register numbers of an instruction's fields in the present repetition. -/
def TaskSite.td (x : TaskSite) (f : BitVec 4) : Nat := f.toNat + x.a.stepOf 0
def TaskSite.ta (x : TaskSite) (f : BitVec 4) : Nat := f.toNat + x.a.stepOf 1
def TaskSite.tb (x : TaskSite) (f : BitVec 4) : Nat := f.toNat + x.a.stepOf 2

/-! ## Faults (R236) -/

/-- The bound channel as a record numbers it. -/
def TaskSite.channel (x : TaskSite) : Nat := if x.a.chan < x.t.inputs then x.a.chan else 4 + (x.a.chan - x.t.inputs)

/-- A fault of a task instruction; the operand values are those of the registers that its fields ta, tb and td name. -/
def TaskSite.info (x : TaskSite) (cause : Nat) (ops : List W64) (access : Nat := 0) (va : W64 := 0#64) : FaultInfo :=
  { cause, access, iter := some [x.a.pc % 2, (x.a.rep.map (·.k)).getD 0, x.a.count, x.channel], opv := some ops, vaddr := va }

/-- What CTX_TRAPEN enables at this execution (R427). -/
def TaskSite.trapen (x : TaskSite) : BitVec 8 := maskEnables x.t.grant (x.s.ctx x.pl.ctx).trapen

/-- TRAPACK has acknowledged a fault of a cause at this instruction. -/
def TaskSite.acked (x : TaskSite) (cause : Nat) : Bool := x.t.grant = .retry cause ∨ x.t.grant = .mask cause

/-! ## Execution -/

/-- The most instructions of an activation (R226). -/
def overrunLimit : Nat := 4096

/-- The token that the activation's trigger is. -/
def TaskSite.trigger (x : TaskSite) : Token := (((x.t.chans[x.a.chan]?).getD {}).toks.head?).getD .ord

/-- A sent token enters its output queue, or waits there behind a barrier that is held (R231). -/
def State.taskSend (s : State) (p : PlaneId) (k o : Nat) (t : Token) : State :=
  match s.plane? p with
  | none => s
  | some pl =>
    let behind := pl.reqs.any fun r => match r.who, r.acc with
      | .pe j, .pass _ => decide (j = k ∧ r.chan = 8 + o)
      | _, _ => false
    let open_ := pl.reqs.any fun r => match r.who, r.acc with
      | .pe j, .pass _ => decide (j = k ∧ False)
      | .pe j, _ => decide (j = k) && !r.done && !r.lost
      | _, _ => false
    if behind ∨ (t.level ≥ 6 ∧ open_) then
      s.addRequests p [{ id := 0, who := .pe k, acc := .pass [(o, t)], space := 0, addr := 0#64, loc := 0, size := 0,
                         issued := s.cycle, done := true, replies := [(o, t)], chan := 8 + o }]
    else s.modPlane p (·.sendTask k o t)

/-- The activation after an instruction: the next repetition, the branch, or the next instruction. -/
def Activation.advance (a : Activation) (e : TaskEffect) : Activation :=
  let a := { a with count := a.count + 1 }
  match a.rep with
  | some r =>
    if r.k + 1 < r.count then { a with rep := some { r with k := r.k + 1 } } else { a with rep := none, pc := a.pc + 1 }
  | none => { a with pc := e.next.getD (a.pc + 1), rep := e.rep }

/-- A list of counts with one added at a place. -/
def countAt (l : List Nat) (i : Nat) : List Nat := modifyAt (l ++ List.replicate (i + 1 - l.length) 0) i (· + 1)

/-- END removes the trigger from the bound channel (R226); a barrier has then reached the head there (R42). -/
def TaskPe.finish (t : TaskPe) (chan : Nat) : TaskPe :=
  let level := (((t.chans[chan]?).bind fun q => q.toks.head?).map Token.level).getD 0
  { t with act := none, grant := .none, chans := modifyAt t.chans chan (·.drop 1)
           barriers := if level ≥ 6 then countAt t.barriers chan else t.barriers
           widths := if chan < t.inputs then t.widths else modifyAt t.widths (chan - t.inputs) (·.drop 1) }

/-- A task instruction's effects take place. -/
def State.commitTask (s : State) (p : PlaneId) (k : Nat) (a : Activation) (e : TaskEffect) : State :=
  let s := s.modPlane p fun pl =>
    let pl := pl.modPe k fun t =>
      let t := e.writes.foldl (fun t w => t.setReg w.1 w.2) { t with grant := .none, charged := false }
      let t := match e.rows with | some (ra, rb) => { t with rowA := ra, rowB := rb } | none => t
      if e.stop then t.finish a.chan else { t with act := some (a.advance e) }
    { pl with flags := pl.flags ||| e.flags, active := true }
  e.sends.foldl (fun s m => s.taskSend p k m.1 m.2) (s.addRequests p e.reqs)

/-- The task-mode PE that the present step runs. -/
def cursorTask (s : State) : Option TaskSite :=
  match s.cursor with
  | .task p k =>
    match s.plane? p with
    | none => none
    | some pl => (pl.pes[k]?).bind fun t => t.act.map fun a => ⟨s, p, k, pl, t, a⟩
  | _ => none

/-- The PE may execute: its plane is LIVE (or ENDING with a fault acknowledged, R504), no fault of its own stands, and no
walk or peer's answer of its own is awaited. -/
def TaskSite.ready (x : TaskSite) : Bool :=
  (x.pl.st = .live || (x.pl.st = .ending && x.t.grant ≠ .none)) && !x.pl.reload && !x.pl.stopped (.pe x.k) &&
  !x.s.walking x.p (.pe x.k) && !x.pl.peerPending (.pe x.k)

/-- The 4,097th instruction faults; TRAPACK restarts the count (R226). -/
def TaskSite.overrun (x : TaskSite) : Bool := x.a.count ≥ overrunLimit

/-- The instruction at a PE's pc has been charged, or the next one has still to be (R225). -/
def State.chargeTask (s : State) (p : PlaneId) (k : Nat) (on : Bool) : State := s.modPlane p (·.modPe k fun t => { t with charged := on })

/-- A task instruction is charged once, in the cycle in which it issues. -/
def admitTask (s : State) (x : TaskSite) (c : Cost) : Bool × State :=
  if x.t.charged then (true, s) else admitPe s x.p x.t.place { c with cls := 5, sfu := false }

/-- One task instruction executes: it issues in a granted cycle with its PE's port free, is charged in class 5 (R225), and
does what `body` gives. -/
def runTask (s : State) (c : Cost) (body : TaskSite → TaskOut) : Result :=
  match cursorTask s with
  | none => .next s
  | some x =>
    if !x.ready then .next s
    else
      let (granted, s1) := grantCycle s x.p
      if !granted && x.pl.st = .live then .next s1
      else
        let (ok, s2) := admitTask s1 x c
        if !ok then .next s2
        else if x.overrun then .next (s2.detectFault x.p (some (.pe x.k)) (x.info 0x41 []))
        else
          match body x with
          | .wait => .next (s2.chargeTask x.p x.k true)
          | .walk w => .next { s2.chargeTask x.p x.k true with walks := s2.walks ++ [w] }
          | .fault info => .next ((s2.chargeTask x.p x.k false).detectFault x.p (some (.pe x.k)) info)
          | .done e => .next (s2.commitTask x.p x.k x.a e)
          | .peer r => .next ((s2.chargeTask x.p x.k true).startPeer x.p x.pl.ctx (.pe x.k) r)

/-- One issue cycle and one cycle of latency (R225). -/
def taskCost : Cost := ⟨1, 1, 5, false⟩

/-! ## The shared operations (R73, R149) -/

/-- Operand b of a shared operation: a register or an immediate. -/
inductive TaskB where
  | none | reg (r : BitVec 4) | imm (i : BitVec 12)
deriving DecidableEq, Repr

/-- The integer type that a sub-field selects. -/
def taskInt (n : BitVec 1) : Ty := if n = 1#1 then .n32 else .i32

/-- A shared operation: it writes td, whose tag is that of the registers it read (R149, R232). `third` says that it reads
the prior td. -/
def TaskSite.shared (x : TaskSite) (d a : BitVec 4) (b : TaskB) (third : Bool) (f : W64 → W64 → W64 → OpOut) : TaskOut :=
  let ra := x.t.reg (x.ta a)
  let rd := x.t.reg (x.td d)
  let (vb, rb) := match b with
    | .none => (0#64, [])
    | .reg r => ((x.t.reg (x.tb r)).wide, [x.t.reg (x.tb r)])
    | .imm i => (taskImm i, [])
  let read := ra :: rb ++ if third then [rd] else []
  let ops := [ra.recorded, (rb.head?.map TaskReg.recorded).getD 0#64, rd.recorded]
  match f ra.wide vb rd.wide with
  | .fault c => .fault (x.info c ops)
  | .value v flags =>
    match flagFault flags (x.t.info.policy.getLsbD 4) x.trapen with
    | some c => .fault (x.info c ops)
    | none => .done { writes := [(x.td d, { v := v.setWidth 32, tag := firstTag read })], flags }

/-- The task form's floating-point environment: the block's policy and the sub-field's mode. -/
def TaskSite.env (x : TaskSite) (m : BitVec 3) : FpEnv := .ofPolicy x.t.info.policy m.toNat

/-- A result of one f32 lane. -/
def OpOut.f32 (r : Nat × FpFlags) : OpOut := .value (BitVec.ofNat 64 r.1) r.2

/-- An integer division in task form: the zero divisor faults where idz is enabled (R115). -/
def TaskSite.div (x : TaskSite) (t : Ty) (b v : W64) : OpOut :=
  if tyVal t b = 0 ∧ x.trapen.getLsbD 6 then .fault 0x28 else .ok v

/-! ## Activations start (R222 to R224) -/

/-- What a queue, or the buffer of the first track that leads to it, holds beyond its places: what still waits where it was sent. -/
def Queue.excess (q : Queue) (wide : Bool) (cap : Nat) : Nat :=
  match q.hops with
  | [] => q.held wide - cap
  | h :: _ => h.buf.length - trackPlaces

/-- Room in output queue o: four physical tokens, less those that have not moved on from it (R221, R223). -/
def TaskPe.outRoom (t : TaskPe) (k : Nat) (pl : Plane) (o : Nat) : Nat :=
  let wide := (t.outWide[o]?).getD false
  let sizes (r : Request) : Nat := (r.replies.map fun e => e.2.size wide).foldl (· + ·) 0
  let held := ((pl.reqs.filter fun r => decide (r.who = .pe k ∧ r.chan = 8 + o)).map sizes).foldl (· + ·) 0
  let past (d : Dest) : Nat :=
    match d with
    | .exit _ | .slotOf .. => 0
    | d => ((pl.queue d).map fun q => q.excess (pl.wide d) (pl.capacity d)).getD 0
  4 - (((t.outs[o]?).getD []).foldl (fun m d => max m (past d)) 0 + held)

/-- Physical tokens of the replies requested on channel yJ and not yet delivered (R223). -/
def replyWeight (r : Request) : Nat := if r.wide then 2 else 1
def TaskPe.replyRoom (t : TaskPe) (k : Nat) (pl : Plane) (j : Nat) : Nat :=
  let held := ((t.widths[j]?).getD []).foldl (fun n w => n + if w then 2 else 1) 0
  let pending := (pl.reqs.filter fun r => decide (r.who = .pe k ∧ r.chan = j ∧ ¬ r.lost) && r.replying).foldl (fun n r => n + replyWeight r) 0
  4 - (held + pending)

/-- Room figures hold for every channel (R223, R227). -/
def roomFor (need : List Nat) (room : Nat → Nat) : Bool := need.zipIdx.all fun (n, i) => decide (n ≤ room i)

/-- The task of channel c is runnable (R223). -/
def TaskPe.runnable (t : TaskPe) (k : Nat) (pl : Plane) (c : Nat) : Bool :=
  t.act.isNone && !((t.chans[c]?).getD {}).toks.isEmpty && roomFor ((t.sendMax[c]?).getD []) (t.outRoom k pl) &&
  roomFor ((t.replyMax[c]?).getD []) (t.replyRoom k pl)

/-- The channels of a PE in the order of R224: aged ones first, then replies, then inputs. -/
def TaskPe.order (t : TaskPe) : List Nat :=
  let n := t.chans.length
  let age (c : Nat) : Nat := (t.ages[c]?).getD 0
  let aged := inOrder (fun x y => decide (age x ≥ age y)) ((List.range n).filter fun c => age c ≥ 248)
  aged ++ (List.range n).drop t.inputs ++ (List.range n).take t.inputs

/-- ACTIVATION_START (R224): PE `index` of a plane starts its first runnable task. No activation starts in a plane that a
lazy claim has selected (R226). -/
def execActivationStart (s : State) : Result :=
  let x := s.arg
  match s.plane? x.plane with
  | none => .next s
  | some pl =>
    match pl.pes[x.index]? with
    | none => .next s
    | some t =>
      if pl.st ≠ .live ∨ pl.claimed.isSome ∨ pl.reload ∨ pl.stopped (.pe x.index) then .next s
      else match t.order.find? (t.runnable x.index pl) with
        | none => .next s
        | some c =>
          let ages := (List.range t.chans.length).map fun i =>
            if i = c then 0 else if t.runnable x.index pl i then (t.ages[i]?).getD 0 + 1 else 0
          let t' := { t with act := some { chan := c, pc := (t.starts[c]?).getD 0 }, ages, acts := t.acts + 1 }
          .next (s.setPlane x.plane { (pl.modPe x.index fun _ => t') with active := true })

end Sys2Proof.Machine
end

