-- ==== Sys2Proof/Machine/Lanes.lean ====
section
/-! DEFINITION. Turnable edges and their controllers (R370 to R377), the events of the Flithe ports (R380 to R383), and
the host link (R385). -/

namespace Sys2Proof.Machine

/-! ## Edges (R370, R372) -/

/-- The default share of an edge. -/
def edgeDefault (e : Nat) : Nat := if e < 8 then 40 else 2

/-- An edge as it stands. -/
def State.edge (s : State) (e : Nat) : Edge := (mapGet s.edges e).getD { share := edgeDefault e }
def State.setEdge (s : State) (e : Nat) (x : Edge) : State := { s with edges := mapSet s.edges e x }

/-- The fabric die of a port edge, and the side of the grid it faces: 0 north, 1 east, 2 south, 3 west. -/
def portEdge (e : Nat) : Nat × Nat :=
  match e with
  | 0 => (0, 0) | 1 => (0, 3) | 2 => (1, 0) | 3 => (1, 1) | 4 => (2, 3) | 5 => (2, 2) | 6 => (3, 1) | _ => (3, 2)

/-- A paddock holds some tile that satisfies a test of its corner coordinates. -/
def Paddock.spans (d : Paddock) (xlo xhi ylo yhi : Nat) : Bool :=
  d.x0 < xhi && xlo < d.x0 + d.w && d.y0 < yhi && ylo < d.y0 + d.h

/-- A paddock has an edge (R372). -/
def Paddock.hasEdge (d : Paddock) (e : Nat) : Bool :=
  if e < 8 then
    let (die, side) := portEdge e
    let x := if die % 2 = 0 then 0 else 40
    let y := if die / 2 = 0 then 0 else 36
    match side with
    | 0 => d.spans x (x + 40) 0 1
    | 1 => d.spans 79 80 y (y + 36)
    | 2 => d.spans x (x + 40) 71 72
    | _ => d.spans 0 1 y (y + 36)
  else if e < 80 then d.spans 39 40 (e - 8) (e - 7) && d.spans 40 41 (e - 8) (e - 7)
  else d.spans (e - 80) (e - 79) 35 36 && d.spans (e - 80) (e - 79) 36 37

/-- The edges of a group of R375, in the order of LSTAT's index. -/
def groupEdges (group : Nat) : List Nat :=
  match group with
  | 0 => [0, 2] | 1 => [3, 6] | 2 => [5, 7] | 3 => [1, 4]
  | 4 => (List.range 72).map (· + 8)
  | _ => (List.range 80).map (· + 80)

/-- A context has a plane in some state in a paddock that has the edge. -/
def State.onEdge (s : State) (e ctx : Nat) (ok : PlaneState → Bool) : Bool :=
  s.pads.any fun kd => kd.2.hasEdge e && kd.2.planes.any fun pl => decide (pl.ctx = ctx) && ok pl.st

/-- A context active on an edge, and one that still holds a plane there. -/
def State.activeOn (s : State) (e ctx : Nat) : Bool := s.onEdge e ctx fun st => st = .live
def State.heldOn (s : State) (e ctx : Nat) : Bool := s.onEdge e ctx fun st => st ≠ .free

/-! ## The controller (R373) -/

/-- A request becomes its context's standing split, in the last place. -/
def Edge.stand (x : Edge) (r : Nat × Nat) : Edge :=
  { x with standing := (x.standing.filter fun y => y.1 ≠ r.1) ++ [r] }

/-- Requests at the head of the queue for the present share become standing. -/
def Edge.settle (x : Edge) : List (Nat × Nat) → Edge
  | [] => { x with queue := [] }
  | r :: rest => if r.2 = x.share then (x.stand r).settle rest else { x with queue := r :: rest }

/-- A turn begins; a turn to the present share is no turn. -/
def Edge.turn (x : Edge) (share now : Nat) : Edge := { x with target := some share, last := now }

/-- The share after the present one in a cyclic list. -/
def shareAfter (xs : List Nat) (cur : Nat) : Nat :=
  match xs.dropWhile (· ≠ cur) with
  | _ :: y :: _ => y
  | _ => (xs.head?).getD cur

/-- The controller's pseudocode for one cycle. -/
def Edge.control (x : Edge) (dflt now : Nat) (active : Nat → Bool) : Edge :=
  let x := x.settle x.queue
  if x.target.isSome ∨ (now : Int) < x.last + 8192 then x
  else
    let shares := ((x.standing.filter fun r => active r.1).map (·.2)).eraseDups
    match x.queue, shares with
    | r :: _, _ => x.turn r.2 now
    | [], [] => if x.share ≠ dflt then x.turn dflt now else x
    | [], first :: rest =>
      if ¬ shares.contains x.share then x.turn first now
      else if ¬ rest.isEmpty ∧ (now : Int) ≥ x.last + 65536 then x.turn (shareAfter shares x.share) now
      else x

/-- What R372 and R374 do before a cycle's pseudocode: contexts that hold no plane there leave, and the requests of earlier
cycles join the queue. -/
def Edge.refresh (x : Edge) (now : Nat) (held : Nat → Bool) : Edge :=
  let due := x.asks.filter fun r => r.1 < now
  let queue := (x.queue ++ due.map (·.2)).filter fun r => held r.1
  { x with queue, standing := x.standing.filter fun r => held r.1, asks := x.asks.filter fun r => ¬ (r.1 < now) }

/-- EDGE_TURN_POINT (R373): the controller of edge `index` acts for the cycle. -/
def execEdgeTurnPoint (s : State) : Result :=
  let e := s.arg.index
  let x := (s.edge e).refresh s.cycle (s.heldOn e)
  .next (s.setEdge e (x.control (edgeDefault e) s.cycle (s.activeOn e)))

/-- TURN_COMPLETE (R371): 48 cycles after its start, the turn of edge `index` is complete. -/
def execTurnComplete (s : State) : Result :=
  let e := s.arg.index
  let x := s.edge e
  match x.target with
  | none => .next s
  | some share =>
    if (s.cycle : Int) < x.last + 48 then .next s else .next (s.setEdge e { x with share, target := none })

/-! ## KTURN and LSTAT -/

/-- A context's pending requests on an edge. -/
def Edge.pending (x : Edge) (ctx : Nat) : Nat :=
  (x.queue.filter fun r => r.1 = ctx).length + (x.asks.filter fun r => r.2.1 = ctx).length

/-- The edges of a group that a paddock has. -/
def State.padEdges (s : State) (pad group : Nat) : List Nat :=
  match mapGet s.pads pad with
  | none => []
  | some d => (groupEdges group).filter d.hasEdge

/-- A request joins every edge of a group in one cycle. -/
def State.askTurn (s : State) (ctx share : Nat) : List Nat → State
  | [] => s
  | e :: rest =>
    let x := s.edge e
    (s.setEdge e { x with asks := x.asks ++ [(s.cycle, ctx, share)] }).askTurn ctx share rest

/-- KTURN (R376). -/
def execKturn (g : GArgs) (s : State) : Result :=
  match cursorNode s with
  | none => .next s
  | some (p, i, pl, n) =>
    match n.a.head with
    | none => .next s
    | some t =>
      let es := s.padEdges p.pad (g.bits 9 7)
      let full := !t.isMarker && es.any fun e => decide ((s.edge e).pending pl.ctx ≥ 2)
      let emits : List (Nat × Token) := if t.isMarker then (if t.level ≥ 6 then [(sinkTarget, t)] else []) else outAck
      if !pl.mayFire i n ∨ full ∨ ¬ pl.canEmit n emits then .next s
      else
        let (granted, s1) := grantCycle s p
        if !(granted && s1.routerFree p n) && pl.st = .live then .next s1
        else
          let s2 := commitEffect s1 p i n { takes := takeOne [.a], emits }
          .next (if t.isMarker then s2 else s2.askTurn pl.ctx (g.bits 6 0) es)

/-- The status word of an edge for a context (R377). -/
def Edge.status (x : Edge) (ctx now : Nat) : W64 :=
  let all := x.queue ++ x.asks.map (·.2)
  let mine := ((x.standing.find? fun r => r.1 = ctx).map (·.2)).getD 0
  let since := min ((now : Int) - x.last).toNat 65535
  BitVec.ofNat 64 (since * 2 ^ 48 + min all.length 2048 * 2 ^ 36 + ((all.head?).map (·.2)).getD 0 * 2 ^ 29 + mine * 2 ^ 22 +
    min (x.pending ctx) 2 * 2 ^ 20 + (x.target.getD x.share) * 2 ^ 10 + (if x.target.isSome then 2 ^ 9 else 0) + x.share)

/-- LSTAT (R377). -/
def execLstat (g : GArgs) (s : State) : Result :=
  fireRouter s g fun v => v.unary fun _ =>
    match cursorNode s with
    | none => .ok 0#64
    | some (p, _, pl, _) =>
      let e := ((s.padEdges p.pad (g.bits 9 7))[g.bits 16 10]?).getD 0
      .ok ((s.edge e).status pl.ctx s.cycle)

/-! ## Frames (R380) -/

/-- A frame that step 2 of R380 does not drop whole, but for its kind and length. -/
def frameSound (f : FlitheFrame) : Bool := f.good && decide (f.cls.toNat < 2) && f.low == 0#8
def frameData (f : FlitheFrame) : Bool := frameSound f && f.kind == 0#4 && !f.flits.isEmpty && decide (f.flits.length ≤ 40)
def frameAck (f : FlitheFrame) : Bool := frameSound f && f.kind == 1#4 && f.flits.isEmpty
def frameReset (f : FlitheFrame) : Bool := frameSound f && f.kind == 2#4 && f.flits.isEmpty

/-! ## Requests from a peer (R381, R383) -/

/-- The flits of data that follow a request's header. -/
def requestData (h : BitVec 256) : Nat :=
  if flitBits h 55 48 = 1 then (2 ^ flitBits h 58 56 + 31) / 32 else 0

/-- The requests of a frame's flits. -/
def splitRequests : Nat → List (BitVec 256) → List PeerRequest
  | 0, _ => []
  | _ + 1, [] => []
  | k + 1, h :: rest =>
    let n := requestData h
    { header := h, data := rest.take n } :: splitRequests k (rest.drop n)

/-- A reserved value in some field (R381). -/
def headerBad (h : BitVec 256) : Bool :=
  let op := flitBits h 55 48
  let aop := flitBits h 63 60
  decide (op ≥ 3) || flitBits h 79 78 != 0 || flitBits h 95 80 != 0 ||
  (op == 2 && (decide (aop ≥ 12) || (Ty.ofCode (flitBits h 77 74)).isNone)) ||
  (op != 2 && (aop != 0 || flitBits h 59 59 != 0 || flitBits h 77 74 != 0 || flitBits h 191 128 != 0)) ||
  (op == 0 && flitBits h 255 192 != 0) || (op == 1 && flitBits h 255 224 != 0) ||
  (op == 2 && aop != 7 && flitBits h 255 192 != 0)

/-- The number that data flits hold. -/
def flitsNat : List (BitVec 256) → Nat
  | [] => 0
  | f :: rest => f.toNat + 2 ^ 256 * flitsNat rest

/-- A reply's flits: the data of a read, with the mask of its poisoned words. -/
def replyFlits (tag status : Nat) (data : Option (Nat × Nat × Nat)) : List (BitVec 256) :=
  match data with
  | none => [flitOf (tag + status * 2 ^ 32)]
  | some (size, v, mask) => flitOf (tag + status * 2 ^ 32 + log2Of size * 2 ^ 40 + mask * 2 ^ 64) :: dataFlits size v

/-- The mask of the poisoned words of some bytes. -/
def poisonMask (m : Memory) (loc n : Nat) : Nat :=
  ((Memory.touched loc n).zipIdx.filter fun w => m.marks.contains w.1).foldl (fun x w => x + 2 ^ w.2) 0

/-- A write of words, some of them poisoned. -/
def Memory.writeMasked (m : Memory) (loc n v mask : Nat) : Memory :=
  let m := m.write loc (wordBytes n v)
  ((Memory.touched loc n).zipIdx.filter fun w => mask.testBit w.2).foldl (fun m w => m.writePoison (4 * w.1) 4) m

/-- A peer's request that came to a Flithe port performs in the address space of its context: the state after it and the reply, none
where it has to wait for a request slot (R299, R383). -/
def State.servePeer (s : State) (key : Nat) (q : PeerRequest) : State × Option (List (BitVec 256)) :=
  let md := key / 4
  let h := q.header
  let va := flitBits h 47 0
  let op := flitBits h 55 48
  let size := 2 ^ flitBits h 58 56
  let old := decide (flitBits h 59 59 = 1)
  let ctx := flitBits h 73 64
  let tag := flitBits h 127 96
  let fail (c : Nat) : State × Option (List (BitVec 256)) := (s, some (replyFlits tag c none))
  if headerBad h ∨ (s.ctx ctx).state ≠ 1 then fail 0x11
  else if ¬ (s.ctx ctx).ptbase.getLsbD 0 then fail 0x10
  else
    let hit := (s.tlbFind md ctx va).map TlbEntry.leaf
    match (match hit with | some l => Except.ok l | none => s.walk ctx va) with
    | .error c => fail (if c = 0x31 then 0x10 else c)
    | .ok l =>
      let ask : Ask := { space := if l.host then 4 else 2, va := BitVec.ofNat 64 va, size, align := size, kind := op }
      match l.check ask with
      | .fault c => fail c
      | .miss => fail 0x10
      | .ok loc =>
        let s := if hit.isNone then s.tlbFill md ctx va l else s
        let lines := if l.host then [] else linesOf loc size
        match s.cacheLines (.peer key) { write := op ≠ 0, device := l.device } lines with
        | none => (s.waitSlot (.peer key) lines, none)
        | some s =>
        let m := s.memOf ⟨0, 0⟩ ask.space
        let seen := if l.host then hostView m loc size else m
        let wrote (s : State) (m : Memory) : State :=
          let s := s.setMem ⟨0, 0⟩ ask.space m
          if l.host then s.hostWritten none (hostLine loc) else s
        let readOut (m : Memory) : Option (Nat × Nat × Nat) := some (size, m.nat loc size, poisonMask m loc size)
        match op with
        | 0 => (s, some (replyFlits tag 0 (readOut seen)))
        | 1 => (wrote s (m.writeMasked loc size (flitsNat q.data) (flitBits h 223 192)), some (replyFlits tag 0 none))
        | _ =>
          let named := (Ty.ofCode (flitBits h 77 74)).getD .n32
          let ty := if named = .tok ∧ size = 4 then .n32 else named
          let aop := (AtomOp.all[flitBits h 63 60]?).getD .rd
          let r := ({ mem := seen } : Home).atomic loc aop ty 0#8 (BitVec.ofNat 64 (flitBits h 255 192))
            (some (BitVec.ofNat 64 (flitBits h 191 128))) old
          (wrote s (if seen = m then r.1.mem else m), some (replyFlits tag 0 (if old then readOut seen else none)))

/-- Two requests of one port, for one context, touch bytes in common. -/
def PeerRequest.overlaps (a b : PeerRequest) : Bool :=
  let lo (q : PeerRequest) : Nat := flitBits q.header 47 0
  let hi (q : PeerRequest) : Nat := lo q + 2 ^ flitBits q.header 58 56
  decide (flitBits a.header 73 64 = flitBits b.header 73 64 ∧ lo a < hi b ∧ lo b < hi a)

/-- Request k of a port performs, where no earlier one of the port touches its bytes, and its reply leaves (R300, R383). -/
def State.performPeer (s : State) (key k : Nat) : State :=
  let port := s.port key
  match port.inbox[k]? with
  | none => s
  | some q =>
    if (port.inbox.take k).any q.overlaps then s
    else
      match s.servePeer key q with
      | (s, none) => s
      | (s, some reply) =>
        let port := s.port key
        (s.setPort key { port with inbox := port.inbox.eraseIdx k }).sendData key 1 reply

/-! ## Accesses perform (R353) -/

/-- A space-5 request that waited for its turn leaves, once every earlier one of its agent has its answer (R300). -/
def State.sendHeld (s : State) (p : PlaneId) (pl : Plane) (r : Request) : State :=
  if ¬ r.held ∨ r.timed ∨ pl.mustWait s.cycle r ∨ ((pl.pending r.who).head?.map (·.id)) ≠ some r.id then s
  else
    let r := { r with held := false, issued := s.cycle }
    (s.modPlane p (·.modReq r.id fun _ => r)).sendPeer p pl.ctx r

/-- A request that has parked and goes on of itself: not one that waits in the collection buffer of a rounded tile. -/
def Request.sleeps (r : Request) : Bool := r.parked.isSome && (r.round = 0 || r.space ≠ 0)

/-- HOME_PERFORM (R353): request `index` of a plane performs at its home, or leaves for its peer. Where `other` is 1, request `third` of a
peer performs, of those that Flithe port `index` holds (R383). -/
def execHomePerform (s : State) : Result :=
  let x := s.arg
  if x.other = 1 then .next (s.performPeer x.index x.third)
  else match s.plane? x.plane with
  | none => .next s
  | some pl =>
    match pl.reqs.find? fun r => r.id = x.index with
    | none => .next s
    | some r =>
      if r.done ∨ r.timed ∨ r.sleeps ∨ r.acc.serial.isSome ∨ pl.st = .free then .next s
      else if r.space = 5 then .next (s.sendHeld x.plane pl r)
      else if pl.mustWait s.cycle r then .next (s.awaitTurn x.plane pl r)
      else match s.takeSlot x.plane r with
        | none => .next (s.waitSlot (.request x.plane r.id) r.cacheUse.1)
        | some s => .next (s.performRequest x.plane pl r)

/-! ## Replies from a peer (R314, R381) -/

/-- The data of a reply as memory at the request's address, with its poisoned words marked. -/
def replyMemory (loc n v mask : Nat) : Memory := ({} : Memory).writeMasked loc n v mask

/-- The firing that waited for its peer completes: its operands leave and the operator state follows (R314). -/
def Plane.completePeer (pl : Plane) (now : Nat) (r : Request) : Plane :=
  match r.who with
  | .pe _ => pl
  | .node i => pl.modNode i fun n =>
      { (n.unmark r.takes).take r.takes with
        st := r.after.getD n.st, grant := .none, e := n.e + r.data, firings := n.firings + 1
        fired := if r.counted then n.fired ++ [now] else n.fired }

/-- A task's request instruction completes when the peer has answered its probe (R234). -/
def State.completeTask (s : State) (p : PlaneId) (r : Request) : State :=
  match r.who with
  | .node _ => s
  | .pe k => s.modPlane p (·.modPe k fun t =>
      { t with grant := .none, charged := false, act := t.act.map fun a => (a.advance {}) })

/-- A copy's answer: the words it asked for, or its write acknowledged (R342). -/
def State.answerCopy (s : State) (r : Request) (m : Memory) : State :=
  { s with ports := s.ports.map fun kq => (kq.1, modifyAt kq.2 0 fun c =>
      if c.peer ≠ some r.id then c
      else match r.acc with
        | .copyRead _ => c.took (readWords m ((packetWord c.words 0).toNat + c.done) c.chunk)
        | _ => { c with made := c.made + 1, peer := none }) }

/-- What the answer of a request's peer does. -/
def State.answerPeer (s : State) (p : PlaneId) (r : Request) (m : Memory) : State :=
  let loc := r.addr.toNat
  let s0 := (s.modPlane p (·.completePeer s.cycle r)).completeTask p r
  let served (out : List (Nat × Token)) : State :=
    (s0.serveWith p r out).modPlane p fun pl => { pl with active := true }
  match r.acc with
  | .load ty size _ => served (outBoth (loadToken ty size (m.readWord loc size)))
  | .store _ _ ack => served (if ack then outAck else [])
  | .atomic _ ty _ _ returns => served (if returns then outBoth (loadToken ty ty.bytes (m.readWord loc ty.bytes)) else outAck)
  | .line _ => s0.performLine p { r with loc } m
  | .copyRead _ | .copyWrite _ =>
    (s.modPlane p fun pl => { pl with reqs := pl.reqs.filter fun x => x.id ≠ r.id }).answerCopy r m
  | _ => served outAck

/-- A request that a refusal of another cancels: the same, or one that its agent has issued since and that has not left (R300). -/
def Request.cancelledBy (x r : Request) : Bool := x.id = r.id || (x.who = r.who && x.space = 5 && !x.done && !x.lost && decide (r.id < x.id))

/-- A peer's probe fault: the request and those behind it are gone, their operands stay, and its node takes the fault (R300, R314). -/
def State.refusePeer (s : State) (p : PlaneId) (r : Request) (cause : Nat) : State :=
  let alone := match r.acc with | .copyRead _ | .copyWrite _ => true | _ => false
  let s := s.modPlane p fun pl =>
    let gone := pl.reqs.filter fun x => if alone then x.id = r.id else x.cancelledBy r
    let pl := { pl with reqs := pl.reqs.filter fun x => !gone.contains x }
    match r.who with
    | .node i => gone.foldl (fun pl x => pl.modNode i (·.unmark x.takes)) (if alone then pl else pl.uncharge r.who)
    | .pe _ => pl.uncharge r.who
  match r.acc with
  | .copyRead _ | .copyWrite _ =>
    match s.ports.find? fun kq => (kq.2.head?).any fun c => c.peer = some r.id with
    | some (key, c :: _) => s.stopCopy key c cause
    | _ => s
  | _ => s.detectFault p (some r.who)
      { cause, access := r.acc.kind, iter := r.iter, opv := r.opv, vaddr := r.addr, md := some r.md, slot := r.slot }

/-- The bytes of data that a request's reply carries. -/
def Access.replyBytes : Access → Nat
  | .load _ size _ => size
  | .atomic .rd ty _ _ _ => ty.bytes
  | .atomic _ ty _ _ returns => if returns then ty.bytes else 0
  | .line _ => 128
  | .copyRead n => n
  | _ => 0

/-- One reply, and the flits after it. A reply whose tag names no outstanding request is discarded. -/
def State.takeReply (s : State) (key : Nat) (h : BitVec 256) (rest : List (BitVec 256)) : State × List (BitVec 256) :=
  let port := s.port key
  let tag := flitBits h 31 0
  let status := flitBits h 39 32
  let size := flitBits h 42 40
  match mapGet port.tags tag with
  | none => (s, rest.drop (if size = 0 then 0 else (2 ^ size + 31) / 32))
  | some (p, id) =>
    let s := s.setPort key { port with tags := mapDel port.tags tag }
    match (s.plane? p).bind fun pl => pl.reqs.find? fun r => r.id = id with
    | none => (s, rest.drop (if size = 0 then 0 else (2 ^ size + 31) / 32))
    | some r =>
      let n := if status = 0 then r.acc.replyBytes else 0
      let flits := (n + 31) / 32
      if r.done ∨ r.timed then (s, rest.drop flits)
      else if status = 0 then
        (s.answerPeer p r (replyMemory r.addr.toNat n (flitsNat (rest.take flits) % 2 ^ (8 * n)) (flitBits h 95 64)), rest.drop flits)
      else if status = 0x10 ∨ status = 0x11 ∨ status = 0x12 ∨ status = 0x18 then (s.refusePeer p r status, rest)
      else (s, rest)

/-- The replies of a frame's flits. -/
def State.takeReplies (s : State) (key : Nat) : Nat → List (BitVec 256) → State
  | 0, _ => s
  | _ + 1, [] => s
  | k + 1, h :: rest => let r := s.takeReply key h rest; r.1.takeReplies key k r.2

/-! ## The events of a port -/

/-- FLITHE_DATA_FRAME (R380): the frame is accepted where its seq is the one expected and, in class 0, where the verdict says
that there is room; its ack is read either way. -/
def execFlitheDataFrame (s : State) : Result :=
  let key := s.arg.index
  let f := s.arg.frame
  if ¬ frameData f ∨ ¬ (s.port key).up then .next s
  else
    let c := f.cls.toNat
    let port := { s.port key with resetting := false }
    let x := port.cls c
    let taken := decide (f.seq = x.expect) && (c = 1 || s.arg.verdict)
    if !taken then .next ((s.setPort key port).readAck key c f.ack)
    else
      let x' := { x with expect := x.expect + 1#24, ackDue := some (x.ackDue.getD (s.portTime key)) }
      let port := port.setCls c x'
      let port := if c = 0 then { port with inbox := port.inbox ++ splitRequests 40 f.flits } else port
      let s := (s.setPort key port).readAck key c f.ack
      .next (if c = 1 then s.takeReplies key 40 f.flits else s)

/-- FLITHE_ACK_FRAME (R380). -/
def execFlitheAckFrame (s : State) : Result :=
  let f := s.arg.frame
  if ¬ frameAck f ∨ ¬ (s.port s.arg.index).up then .next s else .next (s.readAck s.arg.index f.cls.toNat f.ack)

/-- Every stream of a port at seq 0, with nothing kept for resend. -/
def FlithePort.restart (f : FlithePort) : FlithePort := { f with classes := [{}, {}] }

/-- FLITHE_RESET_FRAME (R380): a link-reset frame restarts every stream. -/
def execFlitheResetFrame (s : State) : Result :=
  let key := s.arg.index
  if ¬ frameReset s.arg.frame ∨ ¬ (s.port key).up then .next s
  else .next (s.setPort key { (s.port key).restart with resetting := false })

/-- FLITHE_RESEND_TIMEOUT (R380): class `other` of port `index` resends what is not acknowledged. -/
def execFlitheResendTimeout (s : State) : Result :=
  let key := s.arg.index
  let port := s.port key
  let c := s.arg.other
  let x := port.cls c
  if c ≥ 2 ∨ x.unacked.isEmpty ∨ s.portTime key < x.sentAt + 20000 then .next s
  else
    let x' := { x with sentAt := s.portTime key, ackDue := none }
    .next ((s.setPort key (port.setCls c x')).transmit key ((x.unacked.take flitheWindow).map x.stamp))

/-- An acknowledgment or link-reset frame of a class. -/
def controlFrame (kind : BitVec 4) (c : Nat) (x : FlitheClass) : FlitheFrame :=
  { good := true, seq := x.nextSeq, ack := x.expect, kind, cls := BitVec.ofNat 4 c }

/-- FLITHE_ACK_TIMER (R380): class `other` of port `index` acknowledges with a frame of its own. -/
def execFlitheAckTimer (s : State) : Result :=
  let key := s.arg.index
  let port := s.port key
  let c := s.arg.other
  let x := port.cls c
  match x.ackDue with
  | none => .next s
  | some t =>
    if c ≥ 2 ∨ s.portTime key < t + 2000 then .next s
    else .next ((s.setPort key (port.setCls c { x with ackDue := none })).transmit key [controlFrame 1#4 c x])

/-- A port sends its link-reset frame, which restarts its streams. -/
def State.sendReset (s : State) (key : Nat) : State :=
  let port := { (s.port key).restart with resetting := true, resetAt := s.portTime key }
  (s.setPort key port).transmit key [controlFrame 2#4 0 {}]

/-- FLITHE_LINK_UP (R380). -/
def execFlitheLinkUp (s : State) : Result :=
  let key := s.arg.index
  .next ((s.setPort key { s.port key with up := true }).sendReset key)

/-- FLITHE_RESET_REPEAT (R380): once per millisecond until a frame of kind 0 or 2 has come. -/
def execFlitheResetRepeat (s : State) : Result :=
  let key := s.arg.index
  let port := s.port key
  if ¬ port.resetting ∨ s.portTime key < port.resetAt + 1000000 then .next s else .next (s.sendReset key)

/-! ## The host link (R385) -/

/-- HOST_LINK_UP: the link trains to a generation and width of R385. -/
def execHostLinkUp (s : State) : Result :=
  let l := s.arg.link
  if (l.pcie = 5 ∨ l.pcie = 6 ∨ l.pcie = 7) ∧ (l.lanes = 8 ∨ l.lanes = 16) then .next { s with link := some l } else .next s

/-- TRN_GEN as software reads it (R105): the floor and the current generation. -/
def Regs.trnGen (r : Regs) : W64 := r.genFloor ++ r.genCurrent

/-- SPDM_REQUEST: the measurements that the device reports. -/
def execSpdmRequest (s : State) : Result :=
  let fw := match s.firmware.running with
    | some true => s.firmware.slotB.digest
    | some false => s.firmware.slotA.digest
    | none => 0#384
  if s.link.isNone then .next s
  else .next { s with sent := s.sent ++ [.measurements fw s.regs.recordHash s.regs.trnGen] }

/-! ## FENCE (R358) -/

/-- FENCE: its instant waits for every access in scope that it is wave-after. -/
def execFence (g : GArgs) (s : State) : Result :=
  fireMem s g (.fence g) fun x =>
    match x.n.a.head with
    | none => .wait
    | some t =>
      if t.isMarker then
        .go { takes := takeOne [.a] } [x.pass (if t.level ≥ 6 then [(sinkTarget, t)] else [])]
      else
        .go { x.taking [.a] with } [{ x.pass [] with acc := .fence g.mode.toNat, space := 9, done := false }]

end Sys2Proof.Machine
end

