-- ==== Sys2Proof/Machine/Router.lean ====
section
/-! DEFINITION. The meanings of the control operators of the routers, reductions, scans, compaction, patterns, calls and
ports (R184 to R218). -/

namespace Sys2Proof.Machine

/-- STEER (R192). -/
def execSteer (g : GArgs) (s : State) : Result := fireRouter s g ruleSteer
/-- MERGE (R193). -/
def execMerge (g : GArgs) (s : State) : Result := fireRouter s g ruleMerge
/-- CARRY (R194). -/
def execCarry (g : GArgs) (s : State) : Result := fireRouter s g ruleCarry
/-- INVAR (R195). -/
def execInvar (g : GArgs) (s : State) : Result := fireRouter s g ruleInvar
/-- FORK (R196). -/
def execFork (g : GArgs) (s : State) : Result := fireRouter s g ruleFork
/-- SINK (R197). -/
def execSink (g : GArgs) (s : State) : Result := fireRouter s g ruleSink
/-- GATE (R198). -/
def execGate (g : GArgs) (s : State) : Result := fireRouter s g ruleGate
/-- COUNT (R199). -/
def execCount (g : GArgs) (s : State) : Result := fireRouter s g ruleCount
/-- MARK (R200). -/
def execMark (g : GArgs) (s : State) : Result := fireRouter s g ruleMark
/-- MSTRIP (R201). -/
def execMstrip (g : GArgs) (s : State) : Result := fireRouter s g ruleMstrip
/-- MLIFT (R202). -/
def execMlift (g : GArgs) (s : State) : Result := fireRouter s g ruleMlift
/-- MTEST (R203). -/
def execMtest (g : GArgs) (s : State) : Result := fireRouter s g ruleMtest
/-- ZIP (R204). -/
def execZip (g : GArgs) (s : State) : Result := fireRouter s g ruleZip
/-- ORD (R205). -/
def execOrd (g : GArgs) (s : State) : Result := fireRouter s g ruleOrd
/-- JOIN (R206). -/
def execJoin (g : GArgs) (s : State) : Result := fireRouter s g ruleJoin
/-- BAR (R207). -/
def execBar (g : GArgs) (s : State) : Result := fireRouter s g ruleBar
/-- DRAIN (R42, R208). -/
def execDrain (g : GArgs) (s : State) : Result :=
  match cursorNode s with
  | none => .next s
  | some (_, k, pl, n) => if pl.drainWaits k n then .next s else fireRouter s g ruleDrain
/-- CALL (R209). -/
def execCall (g : GArgs) (s : State) : Result := fireRouter s g ruleCall
/-- ENTRY (R210). -/
def execEntry (g : GArgs) (s : State) : Result := fireRouter s g ruleEntry
/-- EXIT (R210). -/
def execExit (g : GArgs) (s : State) : Result := fireRouter s g ruleExit
/-- CMPCT (R218). -/
def execCmpct (g : GArgs) (s : State) : Result := fireRouter s g ruleCmpct

/-- The cost of one element of a reduction: that of the matching arithmetic (R182). -/
def redCost (g : GArgs) (op : Nat) : Cost :=
  if g.ty.isFloat then (if op ≤ 1 then costFlt g 4 1 else costFlt g 2 1) else if op = 1 then costMul g else costInt g

/-- How many operations of R137 a firing of a reduction or a scan makes; each is charged (R144, R182). -/
def redTimes (r : View → RedSpec) (scan : Bool) (v : View) : Nat :=
  let (ps, n, pois) := redState v
  let tree (ps : List (Option Partial)) := (redTree v v.g.ty (r v).op (r v).mode ps (r v).lw 0).2.length
  match v.a with
  | some (.marker ..) => if scan || decide (v.st = .elem 1) || decide (n = 0) || pois.isSome then 1 else max 1 (tree ps)
  | some (.data x) =>
    let acc := redAccept v (r v) x
    if pois.isSome then 1
    else max 1 (acc.2.length + if scan then (if v.g.opt.getLsbD 0 then tree ps else tree acc.1) else 0)
  | _ => 1


/-- RED with the width of its own block (R214). -/
def execRed (g : GArgs) (s : State) : Result :=
  fireOnce s g (redCost g (g.bits 3 0)) (redTimes redSpec false) fun v => ruleRed v (redSpec v)
/-- REDX with the width in its word (R215). -/
def execRedx (g : GArgs) (s : State) : Result :=
  fireOnce s g (redCost g (g.bits 3 0)) (redTimes redxSpec false) fun v => ruleRed v (redxSpec v)
/-- SCAN (R216). -/
def execScan (g : GArgs) (s : State) : Result :=
  fireOnce s g (redCost g (g.bits 3 0)) (redTimes redSpec true) fun v => ruleScan v (redSpec v) (g.opt.getLsbD 0)
/-- FILT (R217). -/
def execFilt (g : GArgs) (s : State) : Result := fireRouter s g fun v => ruleFilt v (g.bits 2 0) (g.opt.getLsbD 0)
/-- PAT (R211). -/
def execPat (g : GArgs) (s : State) : Result :=
  fireOnce s g (redCost g (g.bits 19 16))
    (fun v => if v.refs.head? = some 1 ∧ (g.mode = 2#3 ∨ g.mode = 3#3) then redTimes patSpec (g.mode = 3#3) v else 1) rulePat

end Sys2Proof.Machine
end

