-- ==== Sys2Proof/Machine/Fetch.lean ====
section
/-! DEFINITION. Fetching: where the next word of a node or of a task-mode PE stands (R90, R219, R222), and what passes in
a cycle in which nothing moves. -/

namespace Sys2Proof.Machine

/-- The plane word of a node, in a plane that holds a load. -/
def nodeWord (s : State) (p : PlaneId) (n : Nat) : Option W64 := (s.plane? p).bind fun pl => (pl.nodes[n]?).map (·.word)

/-- The task-store word at the pc of the activation in progress. -/
def taskWord (s : State) (p : PlaneId) (k : Nat) : Option W32 :=
  (s.plane? p).bind fun pl => (pl.pes[k]?).bind fun t => t.act.bind fun a => t.words[a.pc]?

/-! ## The watchdog (R440, R443) -/

/-- A request that waits for its home: not for a parking place, a round, a wave predecessor or its turn. -/
def Plane.requestOut (pl : Plane) (now : Nat) (r : Request) : Bool :=
  (match r.acc with | .pass _ | .close .. | .child _ | .fence _ => false | _ => true) &&
  !r.done && !r.lost && !r.held && r.parked.isNone && !pl.mustWait now r

/-- A copy of the plane is in flight, or a node of it waits for a place in its port. -/
def State.copying (s : State) (p : PlaneId) : Bool :=
  s.ports.any (fun kq => kq.2.any fun c => decide (c.plane = p)) ||
  ((s.plane? p).map fun pl => pl.nodes.any fun n => match n.st with | .copy _ _ _ (some _) => true | _ => false).getD false

/-- A plane holds an outstanding request. -/
def State.outstanding (s : State) (p : PlaneId) (pl : Plane) : Bool :=
  pl.reqs.any (pl.requestOut s.cycle) || pl.issued.any (·.ticks.isSome) || s.walks.any (fun w => w.plane = some p) || s.copying p

/-- A node meets every condition of R36 but the grant and the governor; a copy node also has what R341 asks. -/
def State.firable (s : State) (p : PlaneId) (pl : Plane) (i : Nat) (n : Node) : Bool :=
  pl.ready (s.enables pl.ctx) i n &&
  match n.instr with
  | some (.cpy g) => (Site.copyMove ⟨s, p, i, pl, n, nodeView s pl i n g⟩ false) ≠ .wait
  | some (.cpym g) => (Site.copyMove ⟨s, p, i, pl, n, nodeView s pl i n g⟩ true) ≠ .wait
  | _ => true

/-- A firing is not charged to the governor, or its weight is within the budget. -/
def State.affordable (s : State) (n : Node) : Bool :=
  match n.instr, n.place with
  | some i, .pe x y _ => decide (classWeight s (tileKey x y) (cost i).cls ≤ actBudgetOf s (tileKey x y))
  | some _, .mfe x y => decide (classWeight s (tileKey x y) ((n.refs[0]?).getD 8) ≤ actBudgetOf s (tileKey x y))
  | _, _ => true

/-- The same of a task-mode PE with work (R225). -/
def State.taskAffordable (s : State) (pl : Plane) (k : Nat) (t : TaskPe) : Bool :=
  (t.act.isSome || (List.range t.chans.length).any (t.runnable k pl)) &&
  match t.place with
  | .pe x y _ => decide (classWeight s (tileKey x y) 5 ≤ actBudgetOf s (tileKey x y))
  | _ => true

/-- What returns a plane's watchdog to 0 in every cycle in which nothing of it moves. -/
def State.kept (s : State) (p : PlaneId) (pl : Plane) : Bool :=
  s.outstanding p pl || pl.nodes.zipIdx.any (fun x => s.firable p pl x.2 x.1 && s.affordable x.1) ||
  pl.pes.zipIdx.any fun x => s.taskAffordable pl x.2 x.1

/-- A plane's watchdog over n cycles (R440). -/
def State.watch (s : State) (p : PlaneId) (pl : Plane) (n : Nat) : Plane :=
  if pl.st = .live ∧ ¬ pl.reload then
    if s.kept p pl then { pl with watchdog := 0, active := false }
    else { pl with watchdog := if pl.active then n - 1 else pl.watchdog + n, active := false }
  else pl

/-! ## Tracks (R178, R179) -/

/-- The first physical token of hop k of a channel moves on, if its plane is granted the cycle, its track has not yet moved one in it,
and the direction of the boundary edge that it crosses has a lane left. Which channels use a boundary's lanes in a cycle is the order
in which they move (log 119). -/
def State.moveTrack (s : State) (p : PlaneId) (d : Dest) (k : Nat) : State :=
  match s.plane? p with
  | none => s
  | some pl =>
    match pl.queue d with
    | none => s
    | some q =>
      if pl.st ≠ .live ∨ pl.reload ∨ ¬ pl.hopReady d q k then s
      else
        let (granted, s1) := grantCycle s p
        if !granted then s1
        else s1.modPlane p fun pl =>
          let rested := (q.hops[k]?).any fun h => decide (h.rest ≤ pl.grants)
          let lane := q.ord || match pl.crossing d q k with
            | some e => decide (pl.crossed e < (s.edge e.1).lanes e.2)
            | none => true
          if rested && lane then { pl.modDest d (·.moveHop k pl.grants) with active := true } else pl

/-! ## Cycles -/

/-- A plane whose last record has been acknowledged resumes in the next cycle (R434). -/
def Plane.resume (pl : Plane) : Plane := if pl.resuming then { pl with st := pl.before, resuming := false } else pl

/-- The cycles in which a plane of a large paddock has requested and has not been granted (R413). -/
def Plane.wait (pl : Plane) (en : Nat → BitVec 8) (now : Nat) (large granted : Bool) (n : Nat) : Plane :=
  if large ∧ pl.requests en now then { pl with waited := if granted then n - 1 else pl.waited + n } else { pl with waited := 0 }

/-- n fabric cycles pass for a paddock, and engine steps complete. -/
def State.passPaddock (s : State) (k : Nat) (d : Paddock) (n : Nat) : Paddock :=
  let granted (i : Nat) : Bool := d.grant = some (s.cycle, some i)
  { d with planes := d.planes.zipIdx.map fun x => ((s.watch ⟨k, x.2⟩ x.1 n).wait s.enables s.cycle d.large (granted x.2) n).resume.ripen (s.cycle + n) }

/-- The cycles until the first freeze that is to take place (R421). -/
def State.freezesIn (s : State) : List Nat :=
  s.planes.filterMap fun x => if x.2.st = .live ∨ x.2.st = .ending then x.2.freezeAt.map (· - s.cycle) else none

/-- n fabric cycles pass, but none in which a freeze is due and has not yet taken place: die times and watchdogs advance. -/
def passCycles (s : State) (n : Nat) : State :=
  let n := s.freezesIn.foldl min n
  if n = 0 then s else { s.advance n with pads := s.pads.map fun kd => (kd.1, s.passPaddock kd.1 kd.2 n) }

/-- The host stores to its own memory. -/
def hostStores (s : State) (a : Nat) (bs : List Byte) : State := s.writeHost a bs

/-- The host marks the word at an address of its memory as poisoned data, or as good (R301). -/
def hostMarks (s : State) (a : Nat) (bad : Bool) : State :=
  let m := if bad then s.host.writePoison a 1 else { s.host with marks := s.host.marks.filter fun w => decide (w ≠ a / 4) }
  { s with host := m }.hostWritten none (hostLine a)

/-- A plane that holds one task word at the pc of an activation in progress, or one graph word on a node. -/
def wordPlane (nbits w : Nat) : Plane :=
  if nbits ≤ 32 then
    { st := .live,
      pes := [{ words := [BitVec.ofNat 32 (w % 2 ^ nbits)], starts := [0], wide := [false],
                chans := [{ toks := [.data 0#64] }], ages := [0], outs := [[], [], [], []],
                regs := List.replicate 16 {}, rowA := List.replicate 16 {}, rowB := List.replicate 32 {},
                act := some { chan := 0, pc := 0 } }] }
  else { st := .live, nodes := [{ word := BitVec.ofNat 64 (w % 2 ^ nbits), outs := [none, none, none, none] }] }

/-- The state in which that plane is the only one and its word is due. -/
def placeWord (s : State) (nbits w : Nat) : State :=
  { s with
    regs := { s.regs with stage := 5 }
    ctxs := mapSet s.ctxs 0 { s.ctx 0 with state := 1 }
    pads := mapSet s.pads 0 { x0 := 0, y0 := 0, w := 2, h := 1, planes := [wordPlane nbits w, {}, {}, {}] }
    agenda := (if nbits ≤ 32 then .task ⟨0, 0⟩ 0 else .fire ⟨0, 0⟩ 0) :: s.agenda }

end Sys2Proof.Machine
end

