-- ==== Sys2Proof/Machine/Tasks.lean ====
section
/-! DEFINITION. The dependence table and its colours (R391 to R393), launches from the host (R387 to R389, R396, R397), what
a task does when it completes (R398, R399, R405), SPAWN, DONE and TWAIT (R401 to R406), and how a plane goes to FREE (R28,
R434, R439). -/

namespace Sys2Proof.Machine

/-! ## Colours (R391) -/

/-- General colours are those below this number; the 64 from it on are the reserved pool. -/
def generalColours : Nat := 4032
def allColours : Nat := 4096

def State.task (s : State) (c : Nat) : Option Task := mapGet s.tasks c
def State.setTask (s : State) (c : Nat) (t : Task) : State := { s with tasks := mapSet s.tasks c t }
def State.modTask (s : State) (c : Nat) (f : Task → Task) : State :=
  match s.task c with
  | some t => s.setTask c (f t)
  | none => s
def State.dropTask (s : State) (c : Nat) : State := { s with tasks := mapDel s.tasks c }

/-- The first free colour of each pool. -/
def State.freeColour (s : State) : Option Nat := (List.range generalColours).find? fun c => (s.task c).isNone
def State.freeReserved (s : State) : Option Nat :=
  ((List.range (allColours - generalColours)).map (· + generalColours)).find? fun c => (s.task c).isNone

/-- The general colours that a context holds, and those in use in all. -/
def State.held (s : State) (ctx : Nat) : Nat := (s.tasks.filter fun t => t.1 < generalColours ∧ t.2.ctx = ctx).length
def State.generalUsed (s : State) : Nat := (s.tasks.filter fun t => t.1 < generalColours).length
def State.reservedUsed (s : State) : Nat := (s.tasks.filter fun t => generalColours ≤ t.1).length

/-- The colour that a new task of a context may take: the pool is not empty and the context is below its quota. -/
def State.colourFor (s : State) (ctx : Nat) : Option Nat :=
  if s.held ctx < (s.ctx ctx).quota then s.freeColour else none

/-! ## Insertion (R393, R397, R430) -/

/-- A task as it becomes READY: at its priority, from this cycle. -/
def Task.makeReady (t : Task) (now : Nat) : Task := { t with st := .ready, level := t.prio, since := now }

/-- A task enters the table with a colour, and a number of its own. -/
def State.insertTask (s : State) (c : Nat) (t : Task) : State :=
  let (serial, s) := s.takeId
  let t := { t with serial }
  s.setTask c (if t.preds.isEmpty then t.makeReady s.cycle else { t with st := .waiting })

/-- A handler task or a restore enters with a reserved colour, or waits for one. -/
def State.insertReserved (s : State) (t : Task) : State :=
  match s.waiting, s.freeReserved with
  | [], some c => s.insertTask c t
  | _, _ => { s with waiting := s.waiting ++ [t] }

/-- The task that a tag names: the one most recently inserted of those of the context that have not reached COMPLETE. -/
def State.tagged (s : State) (ctx : Nat) (tag : W32) : Option Nat :=
  if tag = 0#32 then none
  else ((s.tasks.filter fun t => decide (t.2.ctx = ctx ∧ t.2.tag = tag ∧ t.2.st ≠ .complete)).map (·.2.serial)).max?

/-- A launch record as a task of its context, its predecessors resolved. -/
def State.launchTask (s : State) (ctx : Nat) (l : Launch) : Task :=
  { ctx, ico := l.ico, load := l.load, args := l.args, tag := l.tag, prio := l.prio, wantRet := l.ret,
    preds := (l.preds.filterMap (s.tagged ctx)).eraseDups }

/-! ## Launches (R387 to R390, R396) -/

/-- A little-endian field of a record. -/
def field (bs : List Byte) (lo n : Nat) : Nat := bytesNat ((bs.drop lo).take n)

/-- A record's reserved bytes and the predecessor entries past npred are zero. -/
def launchReserved (bs : List Byte) (v1 : Bool) : Bool :=
  let n := field bs 4 1
  field bs 1 1 < 16 && field bs 5 3 == 0 &&
  (if v1 then n ≥ 1 || field bs 28 4 == 0
   else field bs 28 4 == 0 && ((List.range 8).filter fun k => n ≤ k).all fun k => field bs (32 + 4 * k) 4 == 0)

/-- An address that a record may hold: a multiple of 8 with bits 63:56 zero. -/
def launchAddress (x : Nat) : Bool := x % 8 == 0 && decide (x < 2 ^ 56)

/-- A record that the device takes: its size, version, reserved fields, npred and addresses. -/
def launchOk (bs : List Byte) (v1 : Bool) : Bool :=
  bs.length == (if v1 then 32 else 64) && field bs 0 1 == (if v1 then 1 else 2) && launchReserved bs v1 &&
  decide (field bs 4 1 ≤ (if v1 then 1 else 8)) && launchAddress (field bs 8 8) && launchAddress (field bs 16 8)

/-- The fields of a record; a version-1 record is a version-2 record whose missing fields are zero. -/
def parseLaunch (bs : List Byte) (v1 : Bool) : Launch :=
  let n := field bs 4 1
  { prio := field bs 1 1 % 8, ret := field bs 1 1 / 8 % 2 == 1, load := field bs 2 2
    ico := BitVec.ofNat 64 (field bs 8 8), args := BitVec.ofNat 64 (field bs 16 8), tag := BitVec.ofNat 32 (field bs 24 4)
    preds := (List.range n).map fun k => BitVec.ofNat 32 (field bs ((if v1 then 28 else 32) + 4 * k) 4) }

/-- A taken record enters the table, joins the launch buffer behind earlier records, or is dropped and counted (R396). -/
def State.takeLaunch (s : State) (ctx : Nat) (l : Launch) : State :=
  let c := s.ctx ctx
  let s := s.setCtx ctx { c with taken := c.taken + 1#32 }
  match c.launches, s.colourFor ctx with
  | [], some k => s.insertTask k (s.launchTask ctx l)
  | ls, _ =>
    if ls.length < 16 then s.modCtx ctx fun c => { c with launches := ls ++ [l] }
    else s.modCtx ctx fun c => { c with lost := min (c.lost + 1) 255 }

/-- A write into a slot of the task window: `context` is the slot's context, `other` the offset in the slot, `bytes` what is
written. -/
def launch (s : State) (v1 : Bool) : Result :=
  let x := s.arg
  let ctx := x.context.toNat
  if s.regs.stage ≠ 5 then .next s
  else if x.other ≠ 0 ∨ ¬ launchOk x.bytes v1 ∨ (s.ctx ctx).state ≠ 1 then
    .next (s.modCtx ctx fun c => { c with badCount := c.badCount + 1#32 })
  else .next (s.takeLaunch ctx (parseLaunch x.bytes v1))

/-- LAUNCH_V2 (R387, R388): a 64-byte record. -/
def execLaunchV2 (s : State) : Result := launch s false

/-- LAUNCH_V1 (R389): a 32-byte record. -/
def execLaunchV1 (s : State) : Result := launch s true

/-- BUFFERED_LAUNCH_ENTER (R396): the oldest buffered record of a context enters the table once a colour is free; where
`other` is 1, a handler task or restore that waits for a reserved colour enters instead (R391). -/
def execBufferedLaunchEnter (s : State) : Result :=
  if s.arg.other = 1 then
    match s.waiting, s.freeReserved with
    | t :: rest, some c => .next ({ s with waiting := rest }.insertTask c t)
    | _, _ => .next s
  else
    let ctx := s.arg.context.toNat
    match (s.ctx ctx).launches, s.colourFor ctx with
    | l :: rest, some k =>
      let s := s.modCtx ctx fun c => { c with launches := rest }
      .next (s.insertTask k (s.launchTask ctx l))
    | _, _ => .next s

/-- TASK_AGEING (R393): the READY task of colour `index` rises a level, 2^20 cycles after it reached the last one. -/
def execTaskAgeing (s : State) : Result :=
  match s.task s.arg.index with
  | none => .next s
  | some t =>
    if t.st = .ready ∧ t.level < 7 ∧ t.since + 2 ^ 20 ≤ s.cycle then
      .next (s.setTask s.arg.index { t with level := t.level + 1, since := t.since + 2 ^ 20 })
    else .next s

/-! ## The dispatcher's own accesses (R399, R400) -/

/-- Where an access of the dispatcher or the translator in space 2 of a context lives, or the cause that ends it: its page
is walked anew. -/
def State.probeDevice (s : State) (ctx : Nat) (va : W64) (size kind : Nat) : Except Nat Nat :=
  if wbits va 63 56 ≠ 0 then .error 0x12
  else match s.walk ctx va.toNat with
    | .error c => .error c
    | .ok l =>
      match l.check { space := 2, va, size, align := 1, kind } with
      | .ok loc => .ok loc
      | .fault c => .error c
      | .miss => .error 0x10

/-- Writes of 8 bytes each in space 2 of a context, all of them or, where one would fault, none. -/
def State.writeDevice (s : State) (ctx : Nat) (va : W64) (v0 v1 : W64) : State :=
  match s.probeDevice ctx va 8 1, s.probeDevice ctx (va + 8#64) 8 1 with
  | .ok p, .ok q =>
    { s with dram := (s.dram.write p (wordBytes 8 v0.toNat)).write q (wordBytes 8 v1.toNat) }
  | _, _ => s

/-- The status of a completion record (R399). -/
def Task.status (t : Task) : Nat :=
  if t.abandoned then 3
  else match t.result with
    | none => 1
    | some r => if r.isPoison then 2 else 0

/-- The return value of a completion record; the spec gives none for a poison return token, which leaves it free. -/
def State.returnValue (s : State) (t : Task) : W64 × State :=
  match t.result with
  | none => (0#64, s)
  | some r => if r.isPoison then (Config.freeWord s.fresh, { s with fresh := s.fresh + 1 }) else (r.val, s)

/-- The completion record of R399 and the completion interrupt. -/
def State.completionRecord (s : State) (t : Task) : State :=
  if ¬ t.wantRet then s
  else
    let (v, s) := s.returnValue t
    let s := s.writeDevice t.ctx t.args v (BitVec.ofNat 64 (t.status + t.tag.toNat * 2 ^ 32))
    if (s.ctx t.ctx).irq then s.sendEvent 1 t.ctx t.tag.toNat else s

/-! ## Completion (R398, R403, R405) -/

/-- The token that a spawner gets for a child. -/
def Task.returnToken (t : Task) : Token :=
  if t.abandoned then .poison (BitVec.ofNat 8 t.cause) else t.result.getD (.data 0#64)

/-- Return tokens that a plane still awaits. -/
def Plane.awaits (pl : Plane) (serial : Nat) : Bool := pl.reqs.any fun r => r.acc = .child serial
def Plane.deliver (pl : Plane) (serial : Nat) (t : Token) : Plane :=
  { pl with reqs := pl.reqs.map fun r => if r.acc = .child serial then { r with done := true, replies := [(1, t)] } else r }

/-- Whether some plane, or a saved one, awaits the return token of a child. -/
def State.awaited (s : State) (serial : Nat) : Bool :=
  s.planes.any (fun x => x.2.awaits serial) || s.saves.any fun x => x.2.plane.awaits serial

/-- A child's return token is ready for its spawner. -/
def State.deliver (s : State) (serial : Nat) (t : Token) : State :=
  { s with pads := s.pads.map fun kd => (kd.1, { kd.2 with planes := kd.2.planes.map (·.deliver serial t) })
           saves := s.saves.map fun x => (x.1, { x.2 with plane := x.2.plane.deliver serial t }) }

/-- A predecessor completes: dependants that wait for nothing more become READY. -/
def Task.release (t : Task) (serial now : Nat) : Task :=
  if t.st = .waiting ∧ t.preds.contains serial then
    let ps := eraseNat t.preds serial
    if ps.isEmpty then { t with preds := [] }.makeReady now else { t with preds := ps }
  else t

def State.releaseDependants (s : State) (serial : Nat) : State :=
  { s with tasks := s.tasks.map fun x => (x.1, x.2.release serial s.cycle) }

/-- A task reaches COMPLETE (R405): its completion record, its return token, its dependants, its colour, which it keeps
while its token is awaited. -/
def State.endTask (s : State) (c : Nat) : State :=
  match s.task c with
  | none => s
  | some t =>
    let s := (s.completionRecord t).releaseDependants t.serial
    if t.awaited ∧ s.awaited t.serial then (s.deliver t.serial t.returnToken).setTask c { t with st := .complete }
    else s.dropTask c

/-- A task leaves BOUND: the return tokens of its children are discarded, and the colours of those that have completed are
freed (R403). -/
def State.dropChildren (s : State) (p : PlaneId) (serial : Nat) : State :=
  let s := s.modPlane p fun pl => { pl with reqs := pl.reqs.filter fun r => match r.acc with | .child _ => false | _ => true }
  { s with tasks := (s.tasks.filter fun x => ¬ (x.2.parent = some serial ∧ x.2.st = .complete)).map fun x =>
      (x.1, if x.2.parent = some serial then { x.2 with awaited := false } else x.2) }

/-! ## Planes go to FREE (R28, R131, R372) -/

/-- A request that ENDING and abandonment wait for: one that its home has still to serve. What waits parked in a memory tile,
or for an access that nothing will make any more, is discarded with the plane (R268). -/
def Plane.owed (pl : Plane) (now : Nat) (r : Request) : Bool :=
  (match r.acc with | .pass _ | .close .. | .child _ => false | _ => true) &&
  !r.done && !r.lost && !r.timed && !(r.parked.isSome && r.space = 0 && r.round = 0) && !pl.mustWait now r

def State.owes (s : State) (p : PlaneId) (pl : Plane) : Bool :=
  pl.reqs.any (pl.owed s.cycle) || s.walks.any (fun w => w.plane = some p) ||
  s.ports.any fun kq => kq.2.any fun c => decide (c.plane = p)

/-- An acknowledged agent has still to fire again (R504). -/
def State.refires (s : State) (pl : Plane) : Bool :=
  pl.nodes.zipIdx.any (fun x => x.1.grant ≠ .none && pl.ready (s.enables pl.ctx) x.2 x.1) || pl.pes.any fun t => t.grant ≠ .none && t.act.isSome

/-- Edge controllers forget the contexts that hold no plane by their edges any more. -/
def State.pruneEdges (s : State) : State :=
  { s with edges := s.edges.map fun e =>
      (e.1, { e.2 with queue := e.2.queue.filter fun r => s.heldOn e.1 r.1
                       standing := e.2.standing.filter fun r => s.heldOn e.1 r.1
                       asks := e.2.asks.filter fun r => s.heldOn e.1 r.2.1 }) }

/-- A plane's flags, those of engine steps that have issued among them. -/
def Plane.allFlags (pl : Plane) : FpFlags := pl.nodes.foldl (fun f n => n.mfe.due.foldl (fun f d => f ||| d.2) f) pl.flags

/-- A plane goes to FREE: its flags join its context's, its words stay. -/
def State.freePlane (s : State) (p : PlaneId) : State :=
  match s.plane? p with
  | none => s
  | some pl =>
    let s := s.modCtx pl.ctx fun c => { c with fpflags := c.fpflags ||| pl.allFlags }
    let s := s.setPlane p { entry := pl.entry }
    let s : State := { s with walks := s.walks.filter fun w => w.plane ≠ some p }
    s.pruneEdges.sweepTack

/-- A task ends with its plane; a handler task whose record it has not taken fails its context (R437). -/
def State.endWithPlane (s : State) (pl : Plane) : State :=
  match s.task pl.colour with
  | none => s
  | some t =>
    let s := s.modTask pl.colour fun t => { t with result := pl.result, plane := none }
    match t.handler, t.record with
    | true, some slot =>
      let w := s.recordWord t.ctx slot 0
      if w.getLsbD 13 then s.endTask pl.colour else s.failContext t.ctx slot (wbits w 7 0) 0 0
    | _, _ => s.endTask pl.colour

/-- PLANE_FREE (R28): an ENDING plane whose requests have completed, with no fault held, goes to FREE. -/
def execPlaneFree (s : State) : Result :=
  let p := s.arg.plane
  match s.plane? p with
  | none => .next s
  | some pl =>
    if pl.st ≠ .ending ∨ pl.abandon ∨ pl.faulted ∨ s.owes p pl ∨ s.refires pl then .next s
    else .next ((s.freePlane p).endWithPlane pl)

/-- ABANDONED_PLANE_FREE (R434, R439): the plane of an abandoned task, or of a failed context, goes to FREE once its
requests have completed or timed out; replies are discarded. -/
def execAbandonedPlaneFree (s : State) : Result :=
  let p := s.arg.plane
  match s.plane? p with
  | none => .next s
  | some pl =>
    if ¬ pl.abandon ∨ pl.st = .free ∨ pl.st = .live ∨ s.owes p pl then .next s
    else
      let s := s.freePlane p
      .next (if (s.ctx pl.ctx).state = 2 then s else s.endWithPlane pl)

/-- CONTEXT_TEARDOWN_DONE (R439): once every plane of a failed context is FREE, failed is set and the driver interrupted. -/
def execContextTeardownDone (s : State) : Result :=
  let c := s.arg.context.toNat
  let x := s.ctx c
  if x.state ≠ 2 ∨ x.fail.getLsbD 63 ∨ s.planes.any (fun q => q.2.ctx = c ∧ q.2.st ≠ .free) then .next s
  else .next ((s.setCtx c { x with fail := x.fail ||| (1#64 <<< 63) }).sendEvent 3 c (wbits x.fail 31 0))

/-! ## SPAWN (R402) -/

/-- The task that a SPAWN firing inserts. -/
def childTask (g : GArgs) (t : Task) (a handle : W64) : Task :=
  { ctx := t.ctx, ico := t.ico, load := g.bits 7 0, args := a, prio := if g.opt.getLsbD 1 then t.prio else g.bits 10 8
    parent := some t.serial, handle, awaited := g.opt.getLsbD 0 }

/-- The handle of a firing: the node's rank among the SPAWN nodes and its data firings so far. -/
def spawnHandle (n : Node) : W64 := BitVec.ofNat 64 ((n.refs[0]?).getD 0 % 2 ^ 32 * 2 ^ 32 + n.e % 2 ^ 32)

/-- A data token spawns a child. -/
def State.spawn (s : State) (g : GArgs) (p : PlaneId) (i : Nat) (n : Node) (a : W64) (t : Task) (c : Nat) : State :=
  let h := spawnHandle n
  let serial := s.nextId
  let s := s.insertTask c (childTask g t a h)
  let s := commitEffect s p i n { takes := takeOne [.a], emits := [(0, .data h)], data := 1, counted := true }
  if g.opt.getLsbD 0 then
    s.addRequests p [{ id := 0, who := .node i, acc := .child serial, space := 0, addr := 0#64, loc := 0, size := 0,
                       issued := s.cycle, nth := n.fired.length }]
  else s

/-- What a SPAWN's head leads to. -/
inductive SpawnMove where
  | wait
  | marker (m : Token)
  | fault (cause : Nat)
  | spawn (a : W64) (t : Task) (c : Nat)
deriving DecidableEq, Repr

def State.spawnMove (s : State) (pl : Plane) (n : Node) : SpawnMove :=
  match n.a.head with
  | none => .wait
  | some t =>
    if t.isMarker then .marker t
    else if t.isPoison then .fault 0x30
    else if wbits t.val 63 56 ≠ 0 then .fault 0x12
    else if wbits t.val 2 0 ≠ 0 then .fault 0x18
    else match s.taskOf pl, s.colourFor pl.ctx with
      | some k, some c => .spawn t.val k c
      | _, _ => .wait

/-- What a SPAWN's move emits at once. -/
def SpawnMove.emits : SpawnMove → List (Nat × Token)
  | .marker m => [(0, m)]
  | .spawn .. => [(0, .data 0#64)]
  | _ => []

/-- SPAWN (R402). -/
def execSpawn (g : GArgs) (s : State) : Result :=
  match cursorNode s with
  | none => .next s
  | some (p, i, pl, n) =>
    let move := s.spawnMove pl n
    if !pl.mayFire i n ∨ move = .wait ∨ ¬ pl.canEmit n move.emits then .next s
    else
      let (granted, s1) := grantCycle s p
      if !(granted && s1.routerFree p n) && pl.st = .live then .next s1
      else
        let x : Site := ⟨s1, p, i, pl, n, nodeView s1 pl i n g⟩
        match move with
        | .wait => .next s1
        | .marker m =>
          let s2 := commitEffect s1 p i n { takes := takeOne [.a], emits := [(0, m)] }
          .next (if g.opt.getLsbD 0 then s2.addRequests p [x.pass [(1, m)]] else s2)
        | .fault c => .next (s1.detectFault p (some (.node i)) (x.info [.a] c))
        | .spawn a t c => .next (s1.spawn g p i n a t c)

/-! ## DONE (R404) -/

/-- The task leaves BOUND and its plane goes to ENDING. -/
def State.endPlane (s : State) (p : PlaneId) (pl : Plane) : State :=
  let s := s.modPlane p fun pl => { pl with st := .ending, claimed := none }
  match s.taskOf pl with
  | none => s
  | some t => (s.modTask pl.colour fun t => { t with st := .ending }).dropChildren p t.serial

/-- DONE (R404): a marker reaches its sink; any other token ends the task, unless a fault of the plane stands (R29). -/
def execDone (_ : GArgs) (s : State) : Result :=
  match cursorNode s with
  | none => .next s
  | some (p, i, pl, n) =>
    match n.a.head with
    | none => .next s
    | some t =>
      if !pl.mayFire i n ∨ (¬ t.isMarker ∧ pl.faulted) then .next s
      else
        let (granted, s1) := grantCycle s p
        if !(granted && s1.routerFree p n) && pl.st = .live then .next s1
        else if t.isMarker then
          .next (commitEffect s1 p i n { takes := takeOne [.a], emits := if t.level ≥ 6 then [(sinkTarget, t)] else [] })
        else .next ((commitEffect s1 p i n { takes := takeOne [.a], data := 1, counted := true }).endPlane p pl)

/-! ## TWAIT (R406) -/

/-- A child of the task with a handle has not reached step 3 of R405. -/
def State.childRuns (s : State) (serial : Nat) (h : W64) : Bool :=
  s.tasks.any fun x => x.2.parent = some serial ∧ x.2.handle = h ∧ x.2.st ≠ .complete

/-- TWAIT (R406): the node waits while the child that the handle names runs, then gives an ordering token. -/
def execTwait (g : GArgs) (s : State) : Result :=
  fireRouter s g fun v =>
    match v.a with
    | none => .wait
    | some t =>
      if t.isMarker then .fires { takes := takeOne [.a], emits := if t.level ≥ 6 then [(sinkTarget, t)] else [] }
      else if t.isPoison then v.fail [.a] 0x30
      else
        let running : Bool := match cursorNode s with
          | some (_, _, pl, _) => ((s.taskOf pl).map fun k => s.childRuns k.serial t.val).getD false
          | none => false
        if running then .wait else .fires { takes := takeOne [.a], emits := outAck, data := 1, counted := true }

end Sys2Proof.Machine
end

