-- ==== Sys2Proof/Machine/Traps.lean ====
section
/-! DEFINITION. Taking an exception and returning from it: the freeze (R421), the trap record (R423 to R426), the handler
task (R428 to R430), TRAP, TRAPRD and TRAPACK (R431 to R435), double faults (R437), the watchdog (R440), and errors in
configuration and state (R451 to R455). -/

namespace Sys2Proof.Machine

/-! ## Causes (R427) -/

/-- The class of a cause. -/
def causeClass (c : Nat) : Nat :=
  if c < 0x20 then 1
  else if c < 0x30 then 2
  else if c < 0x40 then 3
  else if c < 0x42 then 4
  else if c < 0x48 then 5
  else if c = 0x48 then 6
  else if c = 0x50 then 7
  else if c = 0x51 then 5
  else 8

/-! ## The record (R424, R425) -/

/-- A context has a handler, and a trap area. -/
def Ctx.traps (c : Ctx) : Bool := c.handler.getLsbD 0 && c.traparea.getLsbD 0

/-- Word 0 of a record as the device writes it. -/
def recordHead (f : HeldFault) : Nat :=
  f.info.cause % 2 ^ 8 + causeClass f.info.cause * 2 ^ 8 + 2 ^ 12 + f.version % 2 ^ 4 * 2 ^ 16 +
  f.info.access % 2 ^ 8 * 2 ^ 32 + f.block % 2 ^ 16 * 2 ^ 40 + f.slot % 2 ^ 7 * 2 ^ 56

/-- Element k of the iteration vector, and two of them in a word. -/
def recordIter (f : HeldFault) (k : Nat) : Nat := (((f.info.iter.getD [])[k]?).getD 0) % 2 ^ 32
def recordIters (f : HeldFault) (k : Nat) : Nat := recordIter f (2 * k) + recordIter f (2 * k + 1) * 2 ^ 32

/-- Operand value k. -/
def recordOpv (f : HeldFault) (k : Nat) : Nat := (((f.info.opv.getD [])[k]?).getD 0#64).toNat

/-- The placement in the native detail: the paddock's rectangle and the plane, or nothing for a fault at binding; and the
detecting die. -/
def nativeWord (place : Option (Paddock × Nat)) (die : Nat) : Nat :=
  (match place with
    | none => 0
    | some (d, k) => d.x0 % 2 ^ 7 + d.y0 % 2 ^ 7 * 2 ^ 7 + d.w % 2 ^ 7 * 2 ^ 14 + d.h % 2 ^ 7 * 2 ^ 21 + k % 4 * 2 ^ 28) +
  die % 2 ^ 4 * 2 ^ 30

/-- The sixteen words of a record; the last is opaque. -/
def recordWords (f : HeldFault) (ctx : Nat) (tag : W32) (place : Option (Paddock × Nat)) (opaqueWord : W64) : List Nat :=
  [recordHead f, ctx % 2 ^ 10, recordIters f 0, recordIters f 1, recordOpv f 0, recordOpv f 1, recordOpv f 2,
   f.info.vaddr.toNat, f.time.toNat, tag.toNat, 0, 0, 0, 0, nativeWord place f.die, opaqueWord.toNat]

/-- A slot is free (R424): not valid, or taken by a handler task that has completed. -/
def State.slotFree (s : State) (ctx slot : Nat) : Bool :=
  let w := s.recordWord ctx slot 0
  let handles (t : Task) : Bool := decide (t.ctx = ctx ∧ t.handler = true ∧ t.record = some slot)
  !w.getLsbD 12 || (w.getLsbD 13 && !(s.tasks.any (fun t => handles t.2) || s.waiting.any handles))

/-- The lowest-numbered free slot of a context's trap area. -/
def State.freeSlot (s : State) (ctx : Nat) : Option Nat :=
  (List.range (wbits (s.ctx ctx).traparea 63 55 + 1)).find? (s.slotFree ctx)

/-- A record is written into a slot, word 0 last. -/
def State.writeRecord (s : State) (ctx slot : Nat) (f : HeldFault) (tag : W32) (place : Option (Paddock × Nat)) : State :=
  let ws := recordWords f ctx tag place (Config.freeWord s.fresh)
  let base := s.slotAddr ctx slot
  let put (m : Memory) (k : Nat) : Memory := m.write (base + 8 * k) (wordBytes 8 ((ws[k]?).getD 0))
  { s with dram := put ((List.range 15).foldl (fun m k => put m (k + 1)) s.dram) 0, fresh := s.fresh + 1 }

/-- The handler task that a record starts (R430). -/
def Ctx.handlerTask (c : Ctx) (ctx slot : Nat) : Task :=
  { ctx, ico := BitVec.ofNat 64 (wbits c.handler 55 3 * 8), load := wbits c.handler 63 56, prio := 7, handler := true, record := some slot }

/-! ## The freeze (R421, R437) -/

/-- A BINRUN that has a range staged and not written back goes back to the beginning of its bin (R113, R329). -/
def OpState.unstaged : OpState → OpState
  | .replay bin closed _ _ => .run bin closed
  | st => st
def Plane.unstaged (pl : Plane) : Plane := { pl with nodes := pl.nodes.map fun n => { n with st := n.st.unstaged } }

/-- PLANE_FREEZE (R421): 12 cycles after a fault's detection the plane takes effect as FROZEN. Where its context has no
handler or no trap area, the context fails. -/
def execPlaneFreeze (s : State) : Result :=
  let p := s.arg.plane
  match s.plane? p with
  | none => .next s
  | some pl =>
    match pl.freezeAt with
    | none => .next s
    | some t =>
      if s.cycle < t ∨ ¬ (pl.st = .live ∨ pl.st = .ending) then .next s
      else
        let (stamp, s) := s.takeId
        let s := s.setPlane p { pl.unstaged with st := .frozen, before := pl.st, freezeAt := none, froze := stamp }
        if pl.abandon ∨ (s.ctx pl.ctx).traps then .next s
        else .next (s.failContext pl.ctx 0 ((pl.faults.head?.map (·.info.cause)).getD 0) 0 0)

/-! ## Records are written (R424, R29) -/

/-- A plane waits for a slot for one of its faults. -/
def Plane.wantsRecord (pl : Plane) : Bool :=
  pl.st = .frozen && !pl.abandon && !pl.resuming && pl.shown.isNone && !pl.faults.isEmpty
def Task.wantsRecord (t : Task) : Bool := t.refused.isSome && t.shown.isNone

/-- No plane or refused task of the context has waited for a slot for longer (R424). -/
def State.firstInLine (s : State) (ctx stamp : Nat) : Bool :=
  !(s.planes.any (fun x => x.2.ctx = ctx ∧ x.2.wantsRecord ∧ x.2.froze < stamp) ||
    s.tasks.any fun t => t.2.ctx = ctx ∧ t.2.wantsRecord ∧ t.2.refusedAt < stamp)

/-- The record of a frozen plane's fault k, and the handler task that it starts. -/
def State.recordPlane (s : State) (p : PlaneId) (d : Paddock) (pl : Plane) (f : HeldFault) (k slot : Nat) : State :=
  let tag := ((s.taskOf pl).map (·.tag)).getD 0#32
  let s := s.writeRecord pl.ctx slot f tag (some (d, p.plane))
  let s := s.setPlane p { pl with shown := some f, record := some slot, faults := pl.faults.eraseIdx k }
  s.insertReserved ((s.ctx pl.ctx).handlerTask pl.ctx slot)

/-- TRAP_RECORD_WRITE (R424): a frozen plane's held fault `index` is recorded in the lowest free slot; which of them is not
predictable (R29). Where `other` is 1, the fault at binding of the task of colour `index` is. -/
def execTrapRecordWrite (s : State) : Result :=
  let x := s.arg
  if x.other = 1 then
    match s.task x.index with
    | none => .next s
    | some t =>
      match t.refused, s.freeSlot t.ctx with
      | some f, some slot =>
        if t.shown.isSome ∨ ¬ s.firstInLine t.ctx t.refusedAt then .next s
        else
          let s := (s.writeRecord t.ctx slot f t.tag none).setTask x.index { t with shown := some slot }
          .next (s.insertReserved ((s.ctx t.ctx).handlerTask t.ctx slot))
      | _, _ => .next s
  else
    match mapGet s.pads x.plane.pad, s.plane? x.plane with
    | some d, some pl =>
      match pl.faults[x.index]?, s.freeSlot pl.ctx with
      | some f, some slot =>
        if ¬ pl.wantsRecord ∨ ¬ s.firstInLine pl.ctx pl.froze then .next s
        else .next (s.recordPlane x.plane d pl f x.index slot)
      | _, _ => .next s
    | _, _ => .next s

/-! ## Refused bindings (R98, R100, R437) -/

/-- A fault refuses the binding of a task: it is held for its record; a handler task's refusal, and one that finds no handler
or no trap area, fail the context. -/
def State.refuse (s : State) (c : Nat) (f : HeldFault) (reason : Nat) : State :=
  match s.task c with
  | none => s
  | some t =>
    let why := if f.info.cause = 0x60 then reason else 0
    match t.handler, t.record with
    | true, some slot => s.failContext t.ctx slot (wbits (s.recordWord t.ctx slot 0) 7 0) f.info.cause why
    | _, _ =>
      if ¬ (s.ctx t.ctx).traps then s.failContext t.ctx 0 f.info.cause 0 why
      else
        let (stamp, s) := s.takeId
        s.setTask c { t with refused := some f, refusedAt := stamp, shown := none, mask := none, chosen := none }

/-! ## What TRAPACK does to the faulting plane (R427, R434) -/

/-- The requests that a retry of a memory timeout issues anew; one to a peer is dropped, and its operands are free again. -/
def Plane.reissue (pl : Plane) (who : Asker) (va : W64) (now : Nat) : Plane :=
  let again (r : Request) : Bool := decide (r.who = who ∧ r.addr = va) && r.timed
  let pl := (pl.reqs.filter fun r => again r && r.space = 5).foldl (fun pl r =>
    match r.who with
    | .node i => pl.modNode i (·.unmark r.takes)
    | .pe _ => pl) pl
  { pl with reqs := (pl.reqs.filter fun r => !(again r && r.space = 5)).map fun r =>
      if again r then { r with timed := false, issued := now } else r }

/-- A node's copies do not fire again after a timeout (R348). -/
def Plane.isCopy (pl : Plane) (i : Nat) : Bool := (((pl.nodes[i]?).bind Node.instr).map copies).getD false

/-- The re-firing of the agent that took an acknowledged fault (R427). -/
def Plane.regrant (pl : Plane) (f : HeldFault) (action now : Nat) : Plane :=
  let c := f.info.cause
  let g : Grant := if action = 1 then .mask c else .retry c
  match f.who with
  | none => { pl with watchdog := 0 }
  | some (.node i) =>
    if c = 0x38 ∧ pl.isCopy i then pl
    else
      let local_ := pl.reqs.any fun r => r.who = .node i ∧ r.addr = f.info.vaddr ∧ r.timed ∧ r.space ≠ 5
      let pl := if c = 0x38 then pl.reissue (.node i) f.info.vaddr now else pl
      if c = 0x38 ∧ local_ then pl else pl.modNode i fun n => { n with grant := g }
  | some (.pe k) =>
    let local_ := pl.reqs.any fun r => r.who = .pe k ∧ r.addr = f.info.vaddr ∧ r.timed ∧ r.space ≠ 5
    let pl := if c = 0x38 then pl.reissue (.pe k) f.info.vaddr now else pl
    if c = 0x38 ∧ local_ then pl
    else pl.modPe k fun t =>
      { t with grant := if c = 0x41 then t.grant else g
               act := if c = 0x41 then t.act.map fun a => { a with count := 0 } else t.act }

/-- The task of a plane is abandoned (R392, R434). -/
def State.abandonPlane (s : State) (p : PlaneId) (pl : Plane) (cause : Nat) : State :=
  let s := s.modPlane p fun pl => { pl with abandon := true, faults := [], shown := none, record := none }
  match s.taskOf pl with
  | none => s
  | some t => (s.modTask pl.colour fun t => { t with abandoned := true, cause, st := .ending }).dropChildren p t.serial

/-- TRAPACK's action on a frozen plane whose record it acknowledges. A fault that cannot resume abandons the task. -/
def State.ackPlane (s : State) (p : PlaneId) (pl : Plane) (f : HeldFault) (action : Nat) : State :=
  if action = 2 ∨ f.fatal then s.abandonPlane p pl f.info.cause
  else
    let pl := { pl.regrant f action s.cycle with shown := none, record := none }
    s.setPlane p { pl with resuming := pl.faults.isEmpty }

/-- A save is released with its pages. -/
def State.dropSave (s : State) (c : Nat) : State :=
  match mapGet s.saves c with
  | none => s
  | some x =>
    let s := s.modCtx x.plane.ctx fun k => { k with saveused := k.saveused - x.pages }
    { s with saves := mapDel s.saves c }.sweepTack

/-- TRAPACK's action on a task whose binding was refused: abandonment, or a retry from the start (R100). -/
def State.ackTask (s : State) (c : Nat) (t : Task) (f : HeldFault) (action : Nat) : State :=
  if action = 2 ∨ f.fatal then
    ((s.dropSave c).setTask c { t with abandoned := true, cause := f.info.cause, refused := none, shown := none }).endTask c
  else s.setTask c { t with refused := none, shown := none }

/-- A record is acknowledged: its plane's fault, its task's, or that of a saved plane, which the restore applies (R435). -/
def State.ackSlot (s : State) (ctx slot action : Nat) : State :=
  match s.tasks.find? fun t => t.2.ctx = ctx ∧ t.2.shown = some slot with
  | some (c, t) =>
    match t.refused with
    | some f => s.ackTask c t f action
    | none => s
  | none =>
    match s.planes.find? fun x => x.2.ctx = ctx ∧ x.2.record = some slot ∧ x.2.st = .frozen with
    | some (p, pl) =>
      match pl.shown with
      | some f => s.ackPlane p pl f action
      | none => s
    | none =>
      { s with saves := s.saves.map fun x =>
          if x.2.plane.ctx = ctx ∧ x.2.plane.record = some slot then (x.1, { x.2 with acks := x.2.acks ++ [action] }) else x }

/-- The taken bit and the action of a record. -/
def State.takeRecord (s : State) (ctx slot action : Nat) : State :=
  let w := s.recordWord ctx slot 0
  let w := wset (w ||| (1#64 <<< 13)) 15 14 action
  { s with dram := s.dram.write (s.slotAddr ctx slot) (wordBytes 8 w.toNat) }

/-! ## TRAP, TRAPRD, TRAPACK -/

/-- TRAP's rule (R432). -/
def ruleTrap (v : View) : Firing :=
  let cond := v.g.opt.getLsbD 0
  let ops := if cond then [Operand.a, .p] else [.a]
  match v.heads ops with
  | none => .wait
  | some heads =>
    if heads.any Token.isMarker then v.joined ops heads fun m => { emits := outBoth m }
    else
      let x := (heads.head?).getD .ord
      if x.isPoison then
        if v.poisonTrap then v.fail ops 0x30
        else .fires { takes := takeOne ops, emits := outBoth x, counted := true }
      else
        let go := !cond || (v.p.map fun t => t.isData && t.val.getLsbD 0).getD false
        if go && !v.acked then
          .fault (takeOne ops) { cause := 0x48, iter := some [v.e], opv := some [BitVec.ofNat 64 (v.g.bits 11 0), x.recorded, 0#64] }
        else .fires { takes := takeOne ops, emits := outBoth x, data := v.dataOn ops, counted := true }

/-- TRAP (R432). -/
def execTrap (g : GArgs) (s : State) : Result := firePe s g (.trap g) ruleTrap

/-- A word of the record of the task that the present step's plane runs. -/
def State.ownRecordWord (s : State) (k : Nat) : W64 :=
  match cursorNode s with
  | none => 0#64
  | some (_, _, pl, _) => s.recordWord pl.ctx (s.handlerSlot pl) k

/-- A firing of several steps is charged with its first (R144). -/
def firstOnly (v : View) : Nat := if v.st.midway then 0 else 1

/-- TRAPRD (R433). -/
def execTraprd (g : GArgs) (s : State) : Result := fireOnce s g (cost (.traprd g)) firstOnly (ruleTraprd s.ownRecordWord)

/-- TRAPACK's effect beside its token, for the handler task's own record. -/
def State.acknowledge (s : State) (pl : Plane) (action : Nat) : State :=
  match (s.taskOf pl).bind (·.record) with
  | none => s
  | some slot =>
    if (s.recordWord pl.ctx slot 0).getLsbD 13 then s
    else (s.takeRecord pl.ctx slot action).ackSlot pl.ctx slot action

/-- TRAPACK (R434). Every access arc-before the firing has performed, because an ordering arc leads only from an access that
has (R353). -/
def execTrapack (g : GArgs) (s : State) : Result :=
  match cursorNode s with
  | none => .next s
  | some (p, i, pl, n) =>
    match n.a.head with
    | none => .next s
    | some t =>
      let emits : List (Nat × Token) := if t.isMarker then (if t.level ≥ 6 then [(sinkTarget, t)] else []) else outAck
      if !pl.mayFire i n ∨ ¬ pl.canEmit n emits then .next s
      else
        let (granted, s1) := grantCycle s p
        if !granted && pl.st = .live then .next s1
        else
          let (ok, s2) := admitPe s1 p n.place (cost (.trapack g))
          if !ok then .next s2
          else
            let s3 := commitEffect s2 p i n
              { takes := takeOne [.a], emits, data := if t.isData then 1 else 0, counted := !t.isMarker }
            .next (if t.isMarker then s3 else s3.acknowledge pl g.opt.toNat)

/-! ## The watchdog (R440) -/

/-- The fabric die of a paddock's origin. -/
def Paddock.originDie (d : Paddock) : Nat := tileDie d.x0 d.y0

/-- A fault that no agent took: it names block 0xFFFF and slot 0. -/
def State.planeFault (s : State) (d : Paddock) (cause : Nat) (fatal : Bool) : HeldFault :=
  { who := none, info := { cause }, version := 0, block := 0xFFFF, slot := 0, time := s.dieTime d.originDie, die := d.originDie, fatal }

/-- WATCHDOG_EXPIRY (R440). -/
def execWatchdogExpiry (s : State) : Result :=
  let p := s.arg.plane
  match mapGet s.pads p.pad, s.plane? p with
  | some d, some pl =>
    if pl.st ≠ .live ∨ pl.reload ∨ pl.watchdog < 2 ^ s.regs.wdogExp ∨ pl.faults.any (fun f => f.info.cause = 0x40) then .next s
    else .next (s.detectHeld p (s.planeFault d 0x40 false))
  | _, _ => .next s

/-! ## Errors in plane words (R451 to R453) -/

/-- A count of 32 bits that saturates. -/
def satAdd (x : W32) : W32 := if x = 0xFFFF_FFFF#32 then x else x + 1#32

/-- A reload starts in a plane that holds a load. -/
def State.startReload (s : State) (p : PlaneId) : State :=
  s.modPlane p fun pl => match pl.st with
    | .free | .config => pl
    | _ => { pl with reload := true }

/-- PLANE_WORD_ECC_ERROR (R451): the verdict says whether the error was corrected. -/
def execPlaneWordEccError (s : State) : Result :=
  if s.arg.verdict then .next { s with regs := { s.regs with corrected := satAdd s.regs.corrected } }
  else .next (s.startReload s.arg.plane)

/-- SCRUB_CHECK (R452): the verdict says whether the words match their signature. -/
def execScrubCheck (s : State) : Result :=
  match s.plane? s.arg.plane with
  | none => .next s
  | some pl => if s.arg.verdict ∨ ¬ (pl.st = .live ∨ pl.st = .frozen) then .next s else .next (s.startReload s.arg.plane)

/-- An entry whose tack-store copy reads back uncorrectable: no lookup finds it, and every plane configured from it takes a
fault that cannot resume (R453). -/
def State.spoilEntry (s : State) (e : Nat) : State :=
  let s : State := { s with tack := s.tack.map fun x => if x.1 = e then (x.1, { x.2 with bad := true }) else x }
  let hit := s.planes.filter fun x => x.2.st ≠ .free ∧ x.2.st ≠ .config ∧ x.2.entry = some e
  hit.foldl (fun s x => match mapGet s.pads x.1.pad with
    | some d => s.detectHeld x.1 (s.planeFault d 0x31 true)
    | none => s) s

/-- PLANE_RELOAD_DONE (R453): the words have been rewritten; a false verdict says that the entry's own copy could not be
read. -/
def execPlaneReloadDone (s : State) : Result :=
  match s.plane? s.arg.plane with
  | none => .next s
  | some pl =>
    if ¬ pl.reload then .next s
    else
      let s := s.setPlane s.arg.plane { pl with reload := false }
      match s.arg.verdict, pl.entry with
      | false, some e => .next (s.spoilEntry e)
      | _, _ => .next { s with regs := { s.regs with reloads := satAdd s.regs.reloads } }

/-! ## Errors in other state (R264, R455) -/

def operandOf (k : Nat) : Operand := match k with | 0 => .a | 1 => .b | 2 => .c | _ => .p

/-- An error strikes plane state that can hold poison. -/
def Plane.strike (pl : Plane) (cause : BitVec 8) : EccSite → Plane
  | .queue i op pos => pl.modNode i (·.modQueue (operandOf op) (·.spoil cause pos))
  | .channel k q pos => pl.modPe k fun t => { t with chans := modifyAt t.chans q (·.spoil cause pos) }
  | .register k r => pl.modPe k fun t => { t with regs := modifyAt t.regs r fun x => { x with tag := some cause } }
  | .cell i k => pl.modNode i fun n => match n.st with
    | .mfe m => { n with st := .mfe { m with pois := modifyAt m.pois k fun _ => some cause } }
    | _ => n
  | .other _ | .taskState _ => pl

/-- STATE_ECC_ERROR (R455). -/
def execStateEccError (s : State) : Result :=
  let p := s.arg.plane
  match s.plane? p with
  | none => .next s
  | some pl =>
    if pl.st = .free ∨ pl.st = .config then .next s
    else match s.arg.site with
      | .other i =>
        let e := ((pl.nodes[i]?).map (·.e)).getD 0
        .next (s.detectFault p (some (.node i)) { cause := 0x31, iter := some [e] } true)
      | .taskState k => .next (s.detectFault p (some (.pe k)) { cause := 0x31 } true)
      | site => .next (s.setPlane p (pl.strike 0x30#8 site))

/-- An uncorrectable error in the 4-byte word at an offset of memory tile k (R264): of a tile store the word is marked; of a FIFO the
entry that far behind the oldest, and of a line buffer the element that the word belongs to, reads as poison (log 117). -/
def Plane.strikeTile (pl : Plane) (k : Nat) (t : TileAlloc) (off : Nat) : Plane :=
  let bad : Token := .poison 0x31#8
  let loc := tileLoc k off
  match t.mode with
  | 0 => { pl with sram := pl.sram.writePoison loc 4 }
  | 1 => { pl with fifos := pl.fifos.map fun f => if f.1 = tileLoc k 0 then (f.1, modifyAt f.2 (off / 8) fun _ => bad) else f }
  | _ =>
    let i := off / t.ty.bytes
    if i < t.lines * t.len then
      let b := (mapGet pl.lbufs k).getD {}
      { pl with lbufs := mapSet pl.lbufs k { b with cells := mapSet b.cells (i / t.len * 512 + i % t.len) bad } }
    else pl

/-- SRAM_ECC_ERROR (R264): the word at offset `other` of memory tile `index` of a plane is struck. -/
def execSramEccError (s : State) : Result :=
  let p := s.arg.plane
  match s.plane? p with
  | none => .next s
  | some pl =>
    match pl.tiles[s.arg.index]? with
    | none => .next s
    | some t => if s.arg.other ≥ t.bytes then .next s else .next (s.setPlane p (pl.strikeTile s.arg.index t s.arg.other))

end Sys2Proof.Machine
end

