-- ==== Sys2Proof/Machine/Binding.lean ====
section
/-! DEFINITION. Binding tasks to planes (R92, R393, R400, R409, R410), configuration (R28, R454), saves and restores (R444 to
R450), the plane sequencer's frames and levels (R412, R413), and what BUDRD reads of a governor (R419). -/

namespace Sys2Proof.Machine

/-! ## Which paddocks an image fits (R25, R92, R408) -/

/-- The offset of the die boundary that an extent crosses, 0 where it crosses none. -/
def crossAt (boundary lo n : Nat) : Nat := if lo < boundary ∧ boundary < lo + n then boundary - lo else 0

/-- A rectangle meets an image's shape, parity, boundaries and edges (R92). -/
def Image.fitsRect (im : Image) (x0 y0 w h : Nat) : Bool :=
  decide (w = im.width ∧ h = im.height ∧ (x0 + y0) % 2 = im.parity) &&
  (crossAt 40 x0 w == 0 || crossAt 40 x0 w == im.bx) && (crossAt 36 y0 h == 0 || crossAt 36 y0 h == im.bY) &&
  (!im.edges.getLsbD 0 || y0 == 0) && (!im.edges.getLsbD 1 || x0 + w == 80) &&
  (!im.edges.getLsbD 2 || y0 + h == 72) && (!im.edges.getLsbD 3 || x0 == 0)

/-- A rectangle lies inside a context's region. -/
def Ctx.covers (c : Ctx) (x0 y0 w h : Nat) : Bool :=
  decide (c.x0 ≤ x0 ∧ c.y0 ≤ y0 ∧ x0 + w ≤ c.x0 + c.w ∧ y0 + h ≤ c.y0 + c.h)

/-- Held storage of a paddock, the save of one task aside: KiB in each memory tile (R445). -/
def State.heldKib (s : State) (pad : Nat) (but : Option Nat) : Nat :=
  (s.saves.filter fun x => decide (x.2.pid.pad = pad ∧ some x.1 ≠ but)).foldl (fun n x => n + x.2.kib) 0

/-- Task-store entries and memory-tile KiB of the planes of a paddock that hold a load, one plane aside. -/
def Paddock.slotsUsed (d : Paddock) (but : Option Nat) : Nat :=
  (d.planes.zipIdx.filter fun x => x.1.st != .free && some x.2 != but).foldl (fun n x => n + x.1.slots) 0
def Paddock.kibUsed (d : Paddock) (but : Option Nat) : Nat :=
  (d.planes.zipIdx.filter fun x => x.1.st != .free && some x.2 != but).foldl (fun n x => n + x.1.kib) 0

/-- An image meets R92 in a paddock in which `held` KiB stay held, one plane aside. -/
def Image.fits (im : Image) (d : Paddock) (but : Option Nat) (held : Nat) : Bool :=
  im.fitsRect d.x0 d.y0 d.w d.h && decide (d.slotsUsed but + im.slots ≤ 256 ∧ d.kibUsed but + held + im.kib ≤ 256)

/-- Some paddock that the context may hold fits the image. -/
def Ctx.mayHold (c : Ctx) (im : Image) : Bool :=
  decide (im.slots ≤ 256 ∧ im.kib ≤ 256) &&
  (List.range 80).any fun x => (List.range 72).any fun y =>
    c.covers x y im.width im.height && im.fitsRect x y im.width im.height

/-- Two rectangles share a tile. -/
def Paddock.meets (d : Paddock) (x0 y0 w h : Nat) : Bool :=
  d.x0 < x0 + w && x0 < d.x0 + d.w && d.y0 < y0 + h && y0 < d.y0 + d.h

/-- A paddock may be dissolved: its four planes are FREE and nothing is held in it. -/
def State.dissolvable (s : State) (k : Nat) (d : Paddock) : Bool :=
  d.planes.all (fun pl => pl.st = .free) && s.heldKib k none == 0 && !(s.saves.any fun x => x.2.pid.pad = k ∧ x.2.kib > 0)

/-- A new paddock may be made there (R409 step 3). -/
def State.mayMake (s : State) (c : Ctx) (im : Image) (x0 y0 w h : Nat) : Bool :=
  c.covers x0 y0 w h && im.fitsRect x0 y0 w h && decide (im.slots ≤ 256 ∧ im.kib ≤ 256) &&
  s.pads.all fun kd => !kd.2.meets x0 y0 w h || s.dissolvable kd.1 kd.2

/-! ## Range servers (R331) -/

/-- Range servers of a die in use. -/
def State.serversUsed (s : State) (md : Nat) : Nat :=
  s.planes.foldl (fun n x => n + (x.2.servers.filter fun v => v.md = md).length) 0

/-- Free servers of the package. -/
def State.serversFree (s : State) : Nat := (List.range 4).foldl (fun n md => n + (64 - s.serversUsed md)) 0

/-- A choice of dies gives each range a server. -/
def State.serversOk (s : State) (mds : List Nat) (n : Nat) : Bool :=
  mds.length == n && mds.all (fun md => decide (md < 4)) &&
  (List.range 4).all fun md => decide ((mds.filter (· = md)).length + s.serversUsed md ≤ 64)

/-! ## The task's image (R88, R101, R106) -/

/-- A tack-store entry that a translation or an admission is still writing (R102). -/
def State.filling (s : State) (e : Nat) : Bool := ((mapGet s.tack e).map (·.filling)).getD false

/-- The context's handler load is in place, where it has one (R101). -/
def State.handlerReady (s : State) (ctx : Nat) : Bool :=
  !(s.ctx ctx).handler.getLsbD 0 || (s.ctx ctx).handlerEntry.any fun e => !s.filling e

/-- A lookup by the first four items of an identity among live entries (R93). -/
def State.lookup (s : State) (digest : BitVec 384) (load mask : Nat) : Option Nat :=
  (s.tack.find? fun e => e.2.digest = digest ∧ e.2.load = load ∧ e.2.mask = mask ∧ ¬ e.2.retiring ∧ ¬ e.2.bad ∧ ¬ e.2.filling).map (·.1)

/-- The features that driver policy enables. -/
def State.features (s : State) : Nat := wbits s.regs.policy 7 0

/-- The graph that a context has bound from an address. -/
def State.graph (s : State) (ctx : Nat) (ico : W64) : Option Graph := (s.ctx ctx).graphs.find? fun g => g.ico = ico

/-- An entry that serves new bindings (R102, R105, R453). -/
def State.serves (s : State) (e : Nat) : Bool :=
  ((mapGet s.tack e).map fun x => !x.retiring && !x.bad && !x.filling).getD false

/-- The features as a task's binding sampled them when it began, the present ones where it has not begun (R106). -/
def State.maskOf (s : State) (t : Task) : Nat := (t.mask.map (·.toNat)).getD s.features

/-- The entry that a task's plane is configured from: its save's, its context's handler's, the one that its binding has selected, or
the one that a lookup finds. A handler entry that a firmware activation has made retiring serves no new binding (log 116). -/
def State.entryOf (s : State) (t : Task) : Option Nat :=
  match t.restores with
  | some v => (mapGet s.saves v).bind fun x => x.plane.entry
  | none =>
    if t.handler then (s.ctx t.ctx).handlerEntry.filter s.serves
    else if s.handlerReady t.ctx then
      match t.chosen.filter fun e => !((mapGet s.tack e).map (·.bad)).getD true with
      | some e => some e
      | none => (s.graph t.ctx t.ico).bind fun g => s.lookup g.digest t.load (s.maskOf t)
    else none

def State.imageOf (s : State) (e : Nat) : Option Image := (mapGet s.tack e).map (·.image)

/-! ## Candidates (R409, R410) -/

/-- The firing priority of a task's plane (R410). -/
def State.firingPrio (s : State) (t : Task) : Nat := min t.prio (s.ctx t.ctx).capPrio

/-- The colour under which a task's plane runs: that of the saved task for a restore. -/
def Task.runs (t : Task) (c : Nat) : Nat := t.restores.getD c

/-- A restore of a save with held storage goes to its own paddock only (R445). -/
def State.padOk (s : State) (t : Task) (pad : Nat) : Bool :=
  match t.restores with
  | some v => match mapGet s.saves v with
    | some x => x.kib == 0 || x.pid.pad == pad
    | none => false
  | none => true

/-- A FREE plane of an allotted paddock that the task may bind to; `held` false leaves held storage out of account. -/
def State.freeFits (s : State) (t : Task) (im : Image) (p : PlaneId) (held : Bool) : Bool :=
  match mapGet s.pads p.pad, s.plane? p with
  | some d, some pl =>
    decide (pl.st = .free) && (s.ctx t.ctx).covers d.x0 d.y0 d.w d.h && s.padOk t p.pad &&
    im.fits d none (if held then s.heldKib p.pad t.restores else 0)
  | _, _ => false

/-- A plane that a lazy claim may take, but for its place in R410's order; its servers go to the claimant (R331). -/
def State.claimable (s : State) (t : Task) (im : Image) (p : PlaneId) (pl : Plane) : Bool :=
  match mapGet s.pads p.pad with
  | none => false
  | some d =>
    !pl.handler && (pl.st = .live || (pl.st = .frozen && pl.before = .live)) && !pl.abandon && pl.claimed.isNone &&
    !(s.ctx pl.ctx).noClaims && (t.handler || decide (pl.prio < s.firingPrio t)) &&
    (s.ctx t.ctx).covers d.x0 d.y0 d.w d.h && s.padOk t p.pad && im.fits d (some p.plane) (s.heldKib p.pad t.restores) &&
    decide (im.ranges.length ≤ s.serversFree + pl.servers.length)

/-- The victim of a lazy claim: the lowest firing priority, then the most recently bound. -/
def State.victim (s : State) (t : Task) (im : Image) : Option PlaneId :=
  (s.planes.filter fun x => s.claimable t im x.1 x.2).foldl (fun (best : Option (PlaneId × Plane)) x =>
    match best with
    | none => some x
    | some b => if x.2.prio < b.2.prio ∨ (x.2.prio = b.2.prio ∧ b.2.bound < x.2.bound) then some x else some b) none |>.map (·.1)

/-- What the dispatcher does with a READY task: passes it over, refuses it, or takes a candidate of a step of R409; step 4 is
the write-out of held storage, 5 the lazy claim. -/
inductive BindPlan where
  | pass
  | refuse
  | bind (step : Nat) (entry : Nat) (im : Image)
deriving DecidableEq, Repr

/-- Planes of the device that satisfy a test. -/
def State.somePlane (s : State) (ok : PlaneId → Plane → Bool) : Bool := s.planes.any fun x => ok x.1 x.2

/-- The rectangles at which a new paddock may be made. -/
def State.someMake (s : State) (t : Task) (im : Image) : Bool :=
  (List.range 80).any fun x => (List.range 72).any fun y => s.mayMake (s.ctx t.ctx) im x y im.width im.height

/-- Held storage of a paddock may be written out. -/
def State.mayWriteOut (s : State) (pad : Nat) : Bool :=
  s.saves.all fun x => !(x.2.pid.pad = pad ∧ x.2.kib > 0) || !(s.ctx x.2.plane.ctx).noClaims

/-- The plan for a task. -/
def State.bindPlan (s : State) (t : Task) : BindPlan :=
  match s.entryOf t with
  | none => .pass
  | some e =>
    match s.imageOf e with
    | none => .pass
    | some im =>
      let inPlace := (t.restores.bind fun v => mapGet s.saves v).any fun x => decide (x.kib > 0)
      if t.restores.isNone ∧ ¬ (s.ctx t.ctx).mayHold im then .refuse
      else if s.planes.any (fun x => x.2.claimed = some t.serial) then .pass
      else
        let served := decide (im.ranges.length ≤ s.serversFree)
        if served ∧ s.somePlane (fun p pl => decide (pl.entry = some e) && s.freeFits t im p true) then .bind 1 e im
        else if served ∧ s.somePlane (fun p _ => s.freeFits t im p true) then .bind 2 e im
        else if served ∧ ¬ inPlace ∧ s.someMake t im then .bind 3 e im
        else if served ∧ s.somePlane (fun p _ => s.freeFits t im p false && s.mayWriteOut p.pad) then .bind 4 e im
        else if (s.victim t im).isSome then .bind 5 e im
        else .pass

/-- The dispatcher's order over READY tasks whose binding has not been refused (R393). -/
def taskBefore (a b : Nat × Task) : Bool :=
  if a.2.handler != b.2.handler then a.2.handler
  else if a.2.handler then decide (a.2.since < b.2.since ∨ (a.2.since = b.2.since ∧ a.2.serial ≤ b.2.serial))
  else if a.2.level ≠ b.2.level then decide (b.2.level < a.2.level)
  else decide (a.2.since < b.2.since ∨ (a.2.since = b.2.since ∧ a.1 ≤ b.1))

def State.readyTasks (s : State) : List (Nat × Task) :=
  inOrder taskBefore (s.tasks.filter fun t => decide (t.2.st = .ready) && t.2.refused.isNone)

/-- The first task that is not passed over; behind a task of level 7 that is, later tasks of level 7 wait (R44, R393). -/
def State.firstBind (s : State) : List (Nat × Task) → Bool → Option (Nat × Task × BindPlan)
  | [], _ => none
  | (c, t) :: rest, stop =>
    if stop ∧ ¬ t.handler ∧ t.level = 7 then s.firstBind rest stop
    else match s.bindPlan t with
      | .pass => s.firstBind rest (stop || (!t.handler && t.level == 7))
      | plan => some (c, t, plan)

/-! ## Argument tokens (R400) -/

/-- A fault of a dispatcher read: no plane is held, and the CD detects it. -/
def State.bindFault (s : State) (cause access : Nat) (va : W64) : HeldFault :=
  { who := none, info := { cause, access, vaddr := va }, version := 0, block := 0xFFFF, slot := 0, time := s.dieTime 8, die := 8 }

/-- The argument tokens of parameters, in record order, or the fault of a read. -/
def State.readArgs (s : State) (ctx : Nat) (args : W64) : List Param → Except (Nat × W64) (List (Nat × Token))
  | [] => .ok []
  | r :: rest =>
    let va := args + BitVec.ofNat 64 r.offset
    match s.probeDevice ctx va r.bytes 0 with
    | .error c => .error (c, va)
    | .ok loc =>
      match s.readArgs ctx args rest with
      | .error f => .error f
      | .ok ts => .ok ((r.port, loadToken r.ty r.bytes (s.dram.readWord loc r.bytes)) :: ts)

/-- The probe of the completion record as a store. -/
def State.probeRecord (s : State) (t : Task) : Except (Nat × W64) Unit :=
  if ¬ t.wantRet then .ok ()
  else match s.probeDevice t.ctx t.args 8 1, s.probeDevice t.ctx (t.args + 8#64) 8 1 with
    | .error c, _ => .error (c, t.args)
    | _, .error c => .error (c, t.args + 8#64)
    | _, _ => .ok ()

/-- The tokens that a task's plane receives when it first becomes LIVE: a handler's slot number, or the arguments. -/
def State.taskArgs (s : State) (t : Task) (im : Image) : Except (Nat × W64) (List (Nat × Token)) :=
  match t.handler, t.record, t.restores with
  | true, some slot, _ => .ok [(0, .data (BitVec.ofNat 64 slot))]
  | _, _, some _ => .ok []
  | _, _, none =>
    match s.readArgs t.ctx t.args im.params, s.probeRecord t with
    | .error f, _ => .error f
    | _, .error f => .error f
    | .ok ts, .ok () => .ok ts

/-! ## Binding -/

/-- A paddock as it is allotted. -/
def newPaddock (x0 y0 w h : Nat) : Paddock := { x0, y0, w, h, planes := [{}, {}, {}, {}] }

/-- A new paddock, made from tiles of no paddock or of dissolved ones: its number and the state. -/
def State.makePaddock (s : State) (x0 y0 w h : Nat) : Nat × State :=
  let left := s.pads.filter fun kd => !kd.2.meets x0 y0 w h
  let k := freshIn (s.pads.map (·.1))
  (k, { s with pads := mapSet left k (newPaddock x0 y0 w h) })

/-- A plane enters CONFIG for a task. -/
def State.configure (s : State) (c : Nat) (t : Task) (e : Nat) (im : Image) (p : PlaneId) (mds : List Nat)
    (args : List (Nat × Token)) : State :=
  let (stamp, s) := s.takeId
  let prio := s.firingPrio t
  let pl : Plane :=
    { st := .config, ctx := t.ctx, colour := t.runs c, entry := some e, writes := 1, handler := t.handler, prio, level := prio
      seed := (s.ctx t.ctx).seed, cap := im.cap, args, slots := im.slots, kib := im.kib, bound := stamp
      servers := im.ranges.zipIdx.map fun r => { range := r.1, md := (mds[r.2]?).getD 0 } }
  let s := s.setPlane p pl
  let s : State := { s with tack := s.tack.map fun x => if x.1 = e then (x.1, { x.2 with last := s.dieTime 8 }) else x }
  s.setTask c { t with st := .bound, plane := some p, mask := none, chosen := none }

/-- The task binds to a plane, unless a read of its arguments faults (R400). -/
def State.bindTo (s : State) (c : Nat) (t : Task) (e : Nat) (im : Image) (p : PlaneId) (mds : List Nat) : State :=
  match s.taskArgs t im with
  | .error (cause, va) => s.refuse c (s.bindFault cause 7 va) 0
  | .ok args => s.configure c t e im p mds args

/-- Pages of a context's save area in all (R446): the sum over its extent list. -/
def State.savePages (s : State) (ctx : Nat) : Nat :=
  let r := (s.ctx ctx).savearea
  (List.range (wbits r 63 52)).foldl (fun n k => n + s.dram.nat (wbits r 39 4 * 16 + 16 * k + 8) 4) 0

/-- The driver is told that a context's save area is exhausted, and lazy claims spare the context (R449). -/
def State.exhausted (s : State) (ctx : Nat) : State := (s.modCtx ctx fun c => { c with noClaims := true }).sendOpenEvent 4 ctx

/-- The memory tiles of a paddock in row-major order: tile k of a plane's regions is the k-th of them (R12, R26). -/
def Paddock.memTileList (d : Paddock) : List (Nat × Nat) :=
  (List.range d.h).flatMap fun j => ((List.range d.w).filter fun i => (d.x0 + i + (d.y0 + j)) % 2 = 1).map fun i => (d.x0 + i, d.y0 + j)

def Paddock.memTiles (d : Paddock) : Nat := d.memTileList.length

/-- Held storage of one save is written to its save area, or the area is found exhausted (R445, R449). -/
def State.writeOut (s : State) (v : Nat) (x : Saved) : State :=
  let m := ((mapGet s.pads x.pid.pad).map Paddock.memTiles).getD 0
  let pages := (m * x.kib + 3) / 4
  let ctx := x.plane.ctx
  if (s.ctx ctx).saveused + pages ≤ s.savePages ctx then
    { s.modCtx ctx fun c => { c with saveused := c.saveused + pages } with
      saves := mapSet s.saves v { x with pages := x.pages + pages, kib := 0 } }
  else s.exhausted ctx

/-- Held storage of a paddock is written out. -/
def State.writeOutAll (s : State) (pad : Nat) : State :=
  (s.saves.filter fun x => x.2.pid.pad = pad ∧ x.2.kib > 0).foldl (fun s x => s.writeOut x.1 x.2) s

/-- The binding has selected its entry, which stays pinned until a plane is configured from it (R103). -/
def State.choose (s : State) (c e : Nat) : State := s.modTask c fun t => { t with chosen := some e }

/-- The dispatcher carries a plan out with the choice that it makes among the candidates of the step; a choice that is none
of them leaves the state as it is. -/
def State.carryOut (s : State) (c : Nat) (t : Task) (plan : BindPlan) (choice : BindChoice) : State :=
  match plan with
  | .pass => s
  | .refuse => s.refuse c { s.bindFault 0x60 0 0#64 with info := { cause := 0x60, opv := some [0x10#64, 0#64, 0#64] } } 0x10
  | .bind step e im =>
    let served := s.serversOk choice.servers im.ranges.length
    match step, choice.target with
    | 1, .plane p =>
      if served ∧ s.freeFits t im p true ∧ ((s.plane? p).bind (·.entry)) = some e then s.bindTo c t e im p choice.servers else s
    | 2, .plane p => if served ∧ s.freeFits t im p true then s.bindTo c t e im p choice.servers else s
    | 3, .fresh x0 y0 w h =>
      if served ∧ s.mayMake (s.ctx t.ctx) im x0 y0 w h then
        let (k, s) := s.makePaddock x0 y0 w h
        s.bindTo c t e im ⟨k, 0⟩ choice.servers
      else s
    | 4, .plane p => if s.freeFits t im p false ∧ s.mayWriteOut p.pad then (s.writeOutAll p.pad).choose c e else s
    | 5, .claim p => if s.victim t im = some p then (s.modPlane p fun pl => { pl with claimed := some t.serial }).choose c e else s
    | _, _ => s

/-- BIND_TASK (R409): the dispatcher takes the first READY task that it does not pass over. -/
def execBindTask (s : State) : Result :=
  match s.firstBind s.readyTasks false with
  | none => .next s
  | some (c, t, plan) => .next (s.carryOut c t plan s.arg.bind)

/-! ## Configuration (R28, R268, R450, R454) -/

/-- A place of an image moved to a paddock's origin. -/
def shiftPlace (x0 y0 : Nat) : Place → Place
  | .pe x y k => .pe (x0 + x) (y0 + y) k
  | .mfe x y => .mfe (x0 + x) (y0 + y)
  | .router x y k => .router (x0 + x) (y0 + y) k
  | .memTile x y => .memTile (x0 + x) (y0 + y)
  | .branch x y => .branch (x0 + x) (y0 + y)
  | .none => .none

/-- The tracks of a channel, and the number of an attach point along its grid edge, moved likewise (R18, R178). -/
def Queue.shift (q : Queue) (x0 y0 : Nat) : Queue :=
  { q with hops := q.hops.map fun h => { h with track := { h.track with x := x0 + h.track.x, y := y0 + h.track.y } } }
def shiftPoint (x0 y0 near point : Nat) : Nat := if near % 2 = 0 then x0 + point else y0 + point

/-- A function of every operand queue of a node. -/
def Node.mapQueues (n : Node) (f : Queue → Queue) : Node := { n with a := f n.a, b := f n.b, c := f n.c, p := f n.p }

/-- The nodes and task PEs of an image in a paddock. -/
def Image.nodesAt (im : Image) (d : Paddock) : List Node := im.nodes.map fun n =>
  { n.mapQueues (·.shift d.x0 d.y0) with place := shiftPlace d.x0 d.y0 n.place, point := shiftPoint d.x0 d.y0 n.near n.point }
def Image.pesAt (im : Image) (d : Paddock) : List TaskPe := im.pes.map fun t =>
  { t with place := shiftPlace d.x0 d.y0 t.place, point := shiftPoint d.x0 d.y0 t.near t.point, chans := t.chans.map (·.shift d.x0 d.y0) }

/-- The plane enters LIVE with its load as R183, R220, R242 and R268 give, and its argument tokens. -/
def Plane.enter (pl : Plane) (im : Image) (d : Paddock) : Plane :=
  { pl with st := .live, nodes := im.nodesAt d, pes := im.pesAt d, tiles := im.tiles, args := [], watchdog := 0 }

/-- Argument tokens are delivered on the entry ports that they name. -/
def Plane.deliverArgs (pl : Plane) (im : Image) (args : List (Nat × Token)) : Plane :=
  args.foldl (fun q a => match im.entries.find? fun e => e.1 = a.1 with
    | some (_, d) => q.emit d a.2
    | none => q) pl

/-- A saved channel on the tracks that it has in its new plane. -/
def Queue.moved (q new : Queue) : Queue :=
  { q with hops := q.hops.zip new.hops |>.map fun h => { h.1 with track := h.2.track } }
def Node.moved (n new : Node) : Node :=
  { n with place := new.place, point := new.point, a := n.a.moved new.a, b := n.b.moved new.b, c := n.c.moved new.c, p := n.p.moved new.p }
def TaskPe.moved (t new : TaskPe) : TaskPe :=
  { t with place := new.place, point := new.point, chans := t.chans.zipIdx.map fun x => match new.chans[x.2]? with
    | some q => x.1.moved q
    | none => x.1 }

/-- Saved state comes back into a plane configured from its entry: places, servers and firing priority are the new
plane's, and a WAITC in flight comes back complete (R176). A fault held since the save freezes it. -/
def Plane.restored (saved pl : Plane) (im : Image) (d : Paddock) (now : Nat) : Plane :=
  { saved with
    nodes := saved.nodes.zip (im.nodesAt d) |>.map fun x => x.1.moved x.2
    pes := saved.pes.zip (im.pesAt d) |>.map fun x => x.1.moved x.2
    issued := saved.issued.map fun f => if f.ticks.isSome then { f with due := 0, ticks := none } else f
    servers := saved.servers.map fun v => { v with md := ((pl.servers.find? fun w => w.range = v.range).map (·.md)).getD v.md }
    colour := pl.colour, prio := pl.prio, level := pl.prio, bound := pl.bound, claimed := none, flags := 0#5, waited := 0
    freezeAt := if saved.st = .live ∧ ¬ saved.faults.isEmpty then some (now + 12) else saved.freezeAt }

/-- The restore of a saved task is complete: its pages are released and the reserved colour is freed (R450). -/
def State.restore (s : State) (p : PlaneId) (d : Paddock) (pl : Plane) (im : Image) (v : Nat) (x : Saved) : State :=
  let s := s.setPlane p (x.plane.restored pl im d s.cycle)
  let s := (s.dropSave v).modTask v fun t => { t with plane := some p }
  let s : State := { s with tasks := s.tasks.filter fun t => t.2.restores ≠ some v }
  x.acks.foldl (fun s a => match s.plane? p with
    | some q => (match q.shown with | some f => s.ackPlane p q f a | none => s)
    | none => s) s

/-- What a poisoned word of saved state becomes (R450): poison with cause 0x31, or a fault that cannot resume. -/
def State.strikeRestore (s : State) (p : PlaneId) (site : EccSite) : State :=
  match site with
  | .other i => s.detectFault p (some (.node i)) { cause := 0x31, iter := some [0] } true
  | .taskState k => s.detectFault p (some (.pe k)) { cause := 0x31 } true
  | site => s.modPlane p (·.strike 0x31#8 site)

/-- The signature of a plane has failed after the third write (R454): no lookup finds the entry, the plane goes to FREE, and
the task takes a fault that cannot resume. -/
def State.configFailed (s : State) (p : PlaneId) (d : Paddock) (pl : Plane) : State :=
  let e := pl.entry.getD 0
  let die := (Config.freeWord s.fresh).toNat % 9
  let s : State := { s with fresh := s.fresh + 1, tack := s.tack.map fun x => if x.1 = e then (x.1, { x.2 with bad := true }) else x }
  let s := (s.setPlane p {}).pruneEdges.sweepTack
  let s : State := { s with tasks := s.tasks.filter fun t => t.2.restores ≠ some pl.colour }
  let s := s.modTask pl.colour fun t => { t with plane := none, st := .ready }
  s.refuse pl.colour { s.planeFault d 0x31 true with die } 0

/-- CONFIG_COMPLETE (R28): the last word of a plane has been written; the verdict says whether its signature checks. Where
`other` is 1, a word of the saved state at `site` was read back poisoned (R450). -/
def execConfigComplete (s : State) : Result :=
  let p := s.arg.plane
  match mapGet s.pads p.pad, s.plane? p with
  | some d, some pl =>
    if pl.st ≠ .config ∨ pl.abandon then .next s
    else if ¬ s.arg.verdict then
      if pl.writes < 3 then
        .next { s.setPlane p { pl with writes := pl.writes + 1 } with regs := { s.regs with reloads := satAdd s.regs.reloads } }
      else .next (s.configFailed p d pl)
    else match pl.entry.bind s.imageOf with
      | none => .next s
      | some im =>
        match mapGet s.saves pl.colour with
        | some x =>
          let s' := s.restore p d pl im pl.colour x
          .next (if s.arg.other = 1 then s'.strikeRestore p s.arg.site else s')
        | none => .next (s.setPlane p ((pl.enter im d).deliverArgs im pl.args))
  | _, _ => .next s

/-! ## Saves (R444 to R449) -/

/-- A selected plane is ready to be saved: its joins, activations and copies have finished, its requests have performed, and
no fault of it waits for its freeze. A WAITC in flight is no bar (R176), and every engine step has updated its last cell (R260). -/
def State.saveReady (s : State) (p : PlaneId) (pl : Plane) : Bool :=
  (pl.st = .live || (pl.st = .frozen && pl.before = .live)) && pl.claimed.isSome && !pl.abandon && pl.freezeAt.isNone &&
  !pl.resuming && !pl.reload && (pl.st = .frozen || pl.pes.all fun t => t.act.isNone) && (pl.issued.all fun f => f.ticks.isSome) &&
  (pl.nodes.all fun n => n.mfe.due.all fun d => decide (d.1 ≤ s.cycle)) && !s.owes p pl

/-- Whether the victim's allotment may stay in place as held storage: the claimant's image fits beside it (R445). -/
def State.staysHeld (s : State) (p : PlaneId) (d : Paddock) (pl : Plane) : Bool :=
  match s.tasks.find? fun t => some t.2.serial = pl.claimed with
  | none => true
  | some (_, t) =>
    match (s.entryOf t).bind s.imageOf with
    | none => true
    | some im => im.fits d (some p.plane) (s.heldKib p.pad t.restores + pl.kib)

/-- The most pages of a save (R447). -/
def Paddock.saveBound (d : Paddock) (kib : Nat) : Nat :=
  let m := d.memTiles
  1 + (8 * (d.w * d.h - m) + m * (1 + kib) + 3) / 4

/-- SAVE_START (R444): the plane enters SAVING and its state is written to `index` pages, at most R447's bound; where the
save area has not so many, the save rolls back (R449). -/
def execSaveStart (s : State) : Result :=
  let p := s.arg.plane
  match mapGet s.pads p.pad, s.plane? p with
  | some d, some pl =>
    if ¬ s.saveReady p pl then .next s
    else
      let kib := if s.staysHeld p d pl then pl.kib else 0
      let bound := d.saveBound (pl.kib - kib)
      let pages := if 1 ≤ s.arg.index ∧ s.arg.index ≤ bound then s.arg.index else bound
      let c := s.ctx pl.ctx
      if c.saveused + pages ≤ s.savePages pl.ctx then
        let s := s.setPlane p { pl with st := .saving, before := pl.st, pages, stay := kib }
        .next (s.modCtx pl.ctx fun c => { c with saveused := c.saveused + pages })
      else .next ((s.setPlane p { pl with claimed := none }).exhausted pl.ctx)
  | _, _ => .next s

/-- A plane's state as a save keeps it (R444): its flags go to its context instead (R131). -/
def Plane.saved (pl : Plane) : Plane := { pl.unstaged with st := pl.before, before := .live, claimed := none, flags := 0#5, pages := 0, stay := 0 }

/-- SAVE_COMMIT (R448): the save commits in one cycle, the plane goes to FREE, and a restore of its task becomes READY. -/
def execSaveCommit (s : State) : Result :=
  let p := s.arg.plane
  match s.plane? p with
  | none => .next s
  | some pl =>
    match pl.st, s.task pl.colour with
    | .saving, some t =>
      let s : State := { s with saves := mapSet s.saves pl.colour { plane := pl.saved, pages := pl.pages, pid := p, kib := pl.stay } }
      let s := (s.freePlane p).modTask pl.colour fun t => { t with plane := none }
      .next (s.insertReserved { ctx := t.ctx, ico := t.ico, load := t.load, prio := t.prio, restores := some pl.colour })
    | _, _ => .next s

/-! ## Frames, levels and urgency (R412, R413, R415) -/

/-- FRAME_BOUNDARY (R412): at a multiple of 256 cycles, paddock `index` rebuilds its frame table when its held planes or their
weights have changed. -/
def execFrameBoundary (s : State) : Result :=
  let k := s.arg.index
  match mapGet s.pads k with
  | none => .next s
  | some d =>
    if d.large ∨ s.cycle % 256 ≠ 0 ∨ d.held = d.heldPlanes then .next s
    else .next { s with pads := mapSet s.pads k { d with held := d.heldPlanes, frame := frameTable d.heldPlanes } }

/-- PLANE_LEVEL_AGEING (R413): a plane of a large paddock that has requested 65,536 cycles without a grant rises a level. -/
def execPlaneLevelAgeing (s : State) : Result :=
  let p := s.arg.plane
  match mapGet s.pads p.pad, s.plane? p with
  | some d, some pl =>
    if ¬ d.large ∨ pl.handler ∨ pl.waited < 65536 then .next s
    else .next (s.setPlane p { pl with level := min 7 (max pl.level pl.prio + 1), waited := pl.waited - 65536 })
  | _, _ => .next s

/-- PE_URGENT (R415): PE `other` of tile `index` has been a blocked candidate for 32 consecutive cycles. -/
def execPeUrgent (s : State) : Result :=
  let key := s.arg.index
  let k := s.arg.other
  match mapGet s.tileGov key with
  | none => .next s
  | some g =>
    if (g.streak[k]?).getD 0 < 32 ∨ g.urgent.contains k then .next s
    else .next { s with tileGov := mapSet s.tileGov key { g with urgent := g.urgent ++ [k] } }

/-! ## BUDRD (R419) -/

/-- The state of a tile's governor in cycle t. -/
def Tile.status (g : Tile) (budget reserve t : Nat) : W64 :=
  let recent (l : List Nat) : Nat := (l.filter fun c => c < t ∧ t ≤ c + 31).length
  BitVec.ofNat 64 (min (g.windowSum t) 65535 + budget % 2 ^ 16 * 2 ^ 16 + recent g.blocks % 2 ^ 16 * 2 ^ 32 +
    reserve % 2 ^ 8 * 2 ^ 48 + recent g.mfe % 2 ^ 8 * 2 ^ 56)

/-- The tile of the node that a BUDRD names: a slot of its own block, in the same copy. -/
def Plane.namedTile (pl : Plane) (n : Node) (slot : Nat) : Option (Nat × Nat) :=
  (pl.nodes.find? fun x => x.info.id = n.info.id ∧ x.copy = n.copy ∧ x.slot = slot).bind fun x => placeXY x.place

/-- BUDRD (R419). -/
def execBudrd (g : GArgs) (s : State) : Result :=
  fireRouter s g fun v => v.unary fun _ =>
    match cursorNode s with
    | none => .ok 0#64
    | some (_, _, pl, n) =>
      match pl.namedTile n (g.bits 6 0) with
      | none => .ok 0#64
      | some (x, y) =>
        let key := tileKey x y
        .ok (((mapGet s.tileGov key).getD {}).status (actBudgetOf s key) (actReserveOf s key) s.cycle)

end Sys2Proof.Machine
end

