-- ==== Sys2Proof/Machine/Special.lean ====
section
/-! DEFINITION. The approximated special functions (R138, R163, R164). Their exact cases are exact; elsewhere the spec
bounds the error and leaves the value to one fixed algorithm per format, so the model takes a free value within the
bound (`Config.specialPick`) around the exact value, which fixed-point arithmetic finds. -/

namespace Sys2Proof.Machine

/-- Fraction bits of the fixed-point arithmetic: more than twice the range of any operand's exponent. -/
def fixBits : Nat := 1300
def fixOne : Nat := 2 ^ fixBits

/-- A finite value in fixed point. -/
def Num.fixed (x : Num) : Int := x.scaled (-(fixBits : Int))

/-- Σ 1/(k 2^k), which is ln 2. -/
def lnTwoGo : Nat → Nat → Nat
  | 0, acc => acc
  | k + 1, acc => lnTwoGo k (acc + fixOne / ((k + 1) * 2 ^ (k + 1)))
def lnTwo : Nat := lnTwoGo fixBits 0

/-- The arctangent of 1/n by its series. -/
def arctanGo (n2 : Nat) : Nat → Nat → Nat → Int → Int
  | 0, _, _, acc => acc
  | fuel + 1, k, t, acc =>
    arctanGo n2 fuel (k + 1) (t / n2) (if k % 2 = 0 then acc + (t / (2 * k + 1) : Nat) else acc - (t / (2 * k + 1) : Nat))
def piFix : Nat := (16 * arctanGo 25 300 0 (fixOne / 5) 0 - 4 * arctanGo 57121 100 0 (fixOne / 239) 0).toNat

/-- The exponential series of a fixed-point number in [0, 1). -/
def expGo (y : Nat) : Nat → Nat → Nat → Nat → Nat
  | 0, _, _, acc => acc
  | fuel + 1, k, t, acc => let t' := t * y / fixOne / k; expGo y fuel (k + 1) t' (acc + t')
def expFrac (y : Nat) : Nat := expGo y 230 1 fixOne fixOne

/-- e^y in fixed point, for y ≥ 0. -/
def expFix (y : Nat) : Nat := expFrac (y % lnTwo) * 2 ^ (y / lnTwo)

/-- Σ s^(2k+1)/(2k+1) for a fixed-point s in [0, 1/3]. -/
def artanhGo (s2 : Nat) : Nat → Nat → Nat → Nat → Nat
  | 0, _, _, acc => acc
  | fuel + 1, k, t, acc => artanhGo s2 fuel (k + 1) (t * s2 / fixOne) (acc + t / (2 * k + 1))

/-- The sine series of a fixed-point number. -/
def sinGo (y2 : Nat) : Nat → Nat → Int → Int → Int
  | 0, _, _, acc => acc
  | fuel + 1, k, t, acc =>
    let t' := -(t * y2 / fixOne / ((2 * k) * (2 * k + 1) : Nat))
    sinGo y2 fuel (k + 1) t' (acc + t')

/-- sin(πx) of a fixed-point number: 1 at a half, and below 1 elsewhere. -/
def sinpiFix (x : Int) : Int :=
  let r := (x % (2 * fixOne : Nat)).toNat
  let neg := r ≥ fixOne
  let r := r % fixOne
  let r := if 2 * r > fixOne then fixOne - r else r
  let y := piFix * r / fixOne
  let v := if 2 * r = fixOne then (fixOne : Int) else min (sinGo (y * y / fixOne) 230 1 y y) (fixOne - 1 : Nat)
  if neg then -v else v

/-- log2 of m times 2^e in fixed point. -/
def logFix (m : Nat) (e : Int) : Int :=
  let z := m * fixOne / 2 ^ m.log2
  let s := (z - fixOne) * fixOne / (z + fixOne)
  let ln := 2 * artanhGo (s * s / fixOne) 430 0 s 0
  topExp m e * fixOne + (ln * fixOne / lnTwo : Nat)

/-- A fixed-point number as an exact value. -/
def Num.ofFix (x : Int) : Num := .ofInt x (-(fixBits : Int)) false

/-- 2^x for a finite x, with the integer part cut beyond every format's range. -/
def exp2Num (x : Num) : Num :=
  let v := x.fixed
  let n := max (-5000) (min 5000 (v / (fixOne : Int)))
  .fin false (expFrac ((v % (fixOne : Int)).toNat * lnTwo / fixOne)) (n - fixBits)

/-- e^|x| in fixed point, with |x| cut at 2000. -/
def expAbs (x : Num) : Nat := expFix (min x.fixed.natAbs (2000 * fixOne))

def tanhNum (x : Num) : Num :=
  let y := expFix (min (2 * x.fixed.natAbs) (600 * fixOne))
  quotient 200 x.isNeg (y - fixOne) 0 (y + fixOne) 0

def sigmNum (x : Num) : Num :=
  let y := expAbs x
  quotient 200 false (if x.isNeg then fixOne else y) 0 (y + fixOne) 0

/-- A magnitude of a format as a multiple of its least spacing; above the largest finite value the binades go on. -/
def Fmt.units (f : Fmt) (y : Nat) : Nat :=
  if y < 2 ^ f.fbits then y else (2 ^ f.fbits + y % 2 ^ f.fbits) * 2 ^ (y / 2 ^ f.fbits - 1)

/-- Whether z, a magnitude or the negative of one with the opposite sign, is within so many ulp of m times 2^e, measured against the
spacing at the exact value (R138). -/
def Fmt.within (f : Fmt) (ulps m : Nat) (e z : Int) : Bool :=
  let lo := min e f.emin
  let x : Int := m * 2 ^ (e - lo).toNat
  let y : Int := f.units z.natAbs * 2 ^ (f.emin - lo).toNat
  decide ((x - (if z < 0 then -y else y)).natAbs ≤ ulps * 2 ^ (f.quantum m e - lo).toNat)

/-- The results that the accuracy of an approximated function allows at m times 2^e. -/
def Fmt.allowed (f : Fmt) (ulps m : Nat) (e : Int) : List Int :=
  let t : Int := f.roundMag 1 0 false m e
  ((List.range 9).map fun k : Nat => t + (k : Int) - 4).filter (f.within ulps m e)

/-- A free value within `ulps` of an exact nonzero value, with the flags of R138. -/
def approximate (f : Fmt) (env : FpEnv) (op ulps a : Nat) (x : Num) : Nat × FpFlags :=
  match x with
  | .fin s m e =>
    let l := f.allowed ulps m e
    let z := (l[Config.specialPick op f.fbits a % l.length]?).getD 0
    let s := if z < 0 then !s else s
    let y := z.natAbs
    if y > f.maxMag then (f.withSign s f.infMag, FpFlags.ovf ||| FpFlags.inx)
    else if y < 2 ^ f.fbits then
      (f.withSign s (if env.ftzOut then 0 else y), FpFlags.unf ||| FpFlags.inx)
    else (f.withSign s y, .inx)
  | _ => (f.withSign x.isNeg 0, .inx)

/-- m is a power of two. -/
def isPow2 (m : Nat) : Bool := m = 2 ^ m.log2

def fpRcp (f : Fmt) (env : FpEnv) (a : Nat) : Nat × FpFlags :=
  let a := env.read f a
  if f.isNan a then fpResult f env [a] none
  else match f.num a with
    | .zero s => (f.inf s, .dz)
    | .inf s => (f.withSign s 0, .none)
    | .fin s m e =>
      if isPow2 m then finish f env (.fin s 1 (-(topExp m e))) else approximate f env 0x60 1 a (quotient 80 s 1 0 m e)

def fpRsq (f : Fmt) (env : FpEnv) (a : Nat) : Nat × FpFlags :=
  let a := env.read f a
  if f.isNan a then fpResult f env [a] none
  else match f.num a with
    | .zero s => (f.inf s, .dz)
    | .inf s => if s then (f.dnan, .inv) else (f.withSign false 0, .none)
    | .fin s m e =>
      if s then (f.dnan, .inv)
      else if isPow2 m && topExp m e % 2 = 0 then finish f env (.fin false 1 (-(topExp m e) / 2))
      else match quotient 400 false 1 0 m e with
        | .fin _ m' e' => approximate f env 0x61 1 a (root 80 m' e')
        | v => approximate f env 0x61 1 a v

/-- An integral value, where x is one. -/
def Num.integral : Num → Option Int
  | .zero _ => some 0
  | .fin s m e =>
    if e ≥ 0 then (let v := m * 2 ^ (min e 4000).toNat; some (if s then -(v : Int) else v))
    else if m % 2 ^ (min (-e).toNat (m.log2 + 1)) = 0 then
      (let v := m / 2 ^ (-e).toNat; some (if s then -(v : Int) else v))
    else none
  | .inf _ => none

/-- The accuracy of EXP2 and LOG2 in units in the last place. -/
def logUlps (f : Fmt) : Nat := if f = .f64 then 2 else 1

def fpExp2 (f : Fmt) (env : FpEnv) (a : Nat) : Nat × FpFlags :=
  let a := env.read f a
  if f.isNan a then fpResult f env [a] none
  else match f.num a with
    | .inf s => if s then (f.withSign false 0, .none) else (f.inf false, .none)
    | x => match x.integral with
      | some n => finish f env (.fin false 1 (max (-5000) (min 5000 n)))
      | none => approximate f env 0x64 (logUlps f) a (exp2Num x)

def fpLog2 (f : Fmt) (env : FpEnv) (a : Nat) : Nat × FpFlags :=
  let a := env.read f a
  if f.isNan a then fpResult f env [a] none
  else match f.num a with
    | .zero _ => (f.inf true, .dz)
    | .inf s => if s then (f.dnan, .inv) else (f.inf false, .none)
    | .fin s m e =>
      if s then (f.dnan, .inv)
      else if isPow2 m then finish f env (.ofInt (topExp m e) 0 false)
      else approximate f env 0x65 (logUlps f) a (.ofFix (logFix m e))

def fpSinpi (f : Fmt) (env : FpEnv) (a : Nat) : Nat × FpFlags :=
  let a := env.read f a
  if f.isNan a then fpResult f env [a] none
  else match f.num a with
    | .inf _ => (f.dnan, .inv)
    | x =>
      if x.integral.isSome then (f.withSign x.isNeg 0, .none)
      else approximate f env 0x66 2 a (.ofFix (sinpiFix x.fixed))

def fpCospi (f : Fmt) (env : FpEnv) (a : Nat) : Nat × FpFlags :=
  let a := env.read f a
  if f.isNan a then fpResult f env [a] none
  else match f.num a with
    | .inf _ => (f.dnan, .inv)
    | x => match x.integral with
      | some n => finish f env (.fin (n % 2 ≠ 0) 1 0)
      | none =>
        if (2 * x.fixed) % (fixOne : Int) = 0 then (f.withSign false 0, .none)
        else approximate f env 0x67 2 a (.ofFix (sinpiFix (x.fixed + fixOne / 2)))

def fpTanh (f : Fmt) (env : FpEnv) (a : Nat) : Nat × FpFlags :=
  let a := env.read f a
  if f.isNan a then fpResult f env [a] none
  else match f.num a with
    | .zero s => (f.withSign s 0, .none)
    | .inf s => finish f env (.fin s 1 0)
    | x => approximate f env 0x68 2 a (tanhNum x)

def fpSigm (f : Fmt) (env : FpEnv) (a : Nat) : Nat × FpFlags :=
  let a := env.read f a
  if f.isNan a then fpResult f env [a] none
  else match f.num a with
    | .zero _ => finish f env (.fin false 1 (-1))
    | .inf s => if s then (f.withSign false 0, .none) else finish f env (.fin false 1 0)
    | x => approximate f env 0x69 2 a (sigmNum x)

end Sys2Proof.Machine
end

