-- ==== Sys2Proof/Machine/Element.lean ====
section
/-! DEFINITION. The integer, bit, compare, select, floating-point, special-function, conversion and lane instructions in
graph form (R145 to R174, R176). Each rule gives the operation of R147; firing on a PE is `firePe`. -/

namespace Sys2Proof.Machine

/-- An integer division's result, or fault 0x28 when the divisor is zero and idz is enabled (R115, R151). -/
def divOut (v : View) (b : W64) (x : W64) : OpOut :=
  if tyVal v.g.ty b = 0 ∧ v.trapen.getLsbD 6 then .fault 0x28 else .ok x

/-- A floating-point operation on one, two and three operands, lane by lane (R118). -/
def fpUnary (v : View) (f : Fmt → FpEnv → Nat → Nat × FpFlags) : Firing :=
  v.unary fun a => .lanes v.g.ty fun k => f (fmtOf v.g.ty) v.env (lane v.g.ty a k)
def fpBinary (v : View) (f : Fmt → FpEnv → Nat → Nat → Nat × FpFlags) : Firing :=
  v.binary fun a b => .lanes v.g.ty fun k => f (fmtOf v.g.ty) v.env (lane v.g.ty a k) (lane v.g.ty b k)
def fpTernary (v : View) (f : Fmt → FpEnv → Nat → Nat → Nat → Nat × FpFlags) : Firing :=
  v.ternary fun a b c => .lanes v.g.ty fun k =>
    f (fmtOf v.g.ty) v.env (lane v.g.ty a k) (lane v.g.ty b k) (lane v.g.ty c k)

/-- FMIN and FMAX follow the block's version (R77, R159). -/
def View.v1 (v : View) : Bool := v.info.version ≤ 1

/-- The value of CVT on operands a and b (R165 to R167). -/
def cvtOut (v : View) (a b : W64) : OpOut :=
  let dst := v.g.ty
  let src := v.g.cvtSrc.getD .tok
  let sf := fmtOf src
  let df := fmtOf dst
  let env := v.env
  let opt := v.g.opt.toNat
  let narrow (k x : Nat) : Nat × FpFlags := fpConvert sf df env true (srDraw v.seed v.info.id v.slot k v.e) x
  let exact (x : Nat) : Nat × FpFlags := fpConvert sf df env false 0 x
  match v.g.cvt with
  | some .intInt => .ok (tyWrap dst (if src = .i32 then tyVal .i32 a else tyNat src a))
  | some .intFloat => .lanes dst fun _ => intToFp df env (tyVal src a)
  | some .floatInt => let r := fpToInt sf env dst (lane src a 0); .value r.1 r.2
  | some .f32f64 | some .f64f32 => .lanes dst fun _ => exact (lane src a 0)
  | some .narrowF32 => .lanes dst fun k => narrow k (lane .f32 (if k = 0 then a else b) 0)
  | some .narrow16 | some .narrow8x8 => .lanes dst fun k => narrow k (lane src a k)
  | some .narrow8 => .lanes dst fun k => narrow k (if k < 2 then lane src a k else lane src b (k - 2))
  | some .exactF32 | some .exact8F32 => .lanes dst fun _ => exact (lane src a opt)
  | some .exact16 => .lanes dst fun k => exact (lane src a (2 * opt + k))
  | none => .ok a

/-- CVT consumes b where its rule takes a second source (R166). -/
def ruleCvt (v : View) : Firing :=
  if v.g.cvt = some .narrowF32 ∨ v.g.cvt = some .narrow8 then
    v.element [.a, .b] [0, 1] fun xs => match xs with | [a, b] => cvtOut v a b | _ => .ok 0#64
  else v.unary fun a => cvtOut v a 0#64

/-- SEL consumes a, b where it is no immediate, and p (R156). -/
def ruleSel (v : View) : Firing :=
  v.element (v.opsAB ++ [.p]) [0, 1] fun xs => match xs with
    | [a, b, p] => .ok (selWord p a b)
    | [a, p] => .ok (selWord p a (immValue v.g.ty v.g.fmt))
    | _ => .ok 0#64

/-- PACK takes 32-bit tokens (R168). -/
def rulePack (v : View) : Firing := v.binary fun a b => .ok (packWords v.g.ty a b)

/-- FSCALE takes an i32 on b whatever its type (R157). -/
def ruleFscale (v : View) : Firing :=
  v.element [.a, .b] [0, 1] fun xs => match xs with
    | [a, b] => .lanes v.g.ty fun _ => fpScale (fmtOf v.g.ty) v.env (lane v.g.ty a 0) (tyVal .i32 b)
    | _ => .ok 0#64

/-- FABS, FNEG and FCPYS move bits (R160). -/
def ruleFabs (v : View) : Firing := v.unary fun a => .lanes v.g.ty fun k => (fpAbs (fmtOf v.g.ty) (lane v.g.ty a k), 0#5)
def ruleFneg (v : View) : Firing := v.unary fun a => .lanes v.g.ty fun k => (fpNeg (fmtOf v.g.ty) (lane v.g.ty a k), 0#5)
def ruleFcpys (v : View) : Firing :=
  v.binary fun a b => .lanes v.g.ty fun k => (fpCopySign (fmtOf v.g.ty) (lane v.g.ty a k) (lane v.g.ty b k), 0#5)

def ruleFcmp (v : View) : Firing :=
  v.binary fun a b =>
    let r := fpCmp (fmtOf v.g.ty) v.env v.g.mode.toNat (lane v.g.ty a 0) (lane v.g.ty b 0)
    .value (predWord r.1) r.2
def ruleFclass (v : View) : Firing := v.unary fun a => .ok (1#64 <<< fpClass (fmtOf v.g.ty) (lane v.g.ty a 0))

/-- ADD (R151). -/
def execAdd (g : GArgs) (s : State) : Result := firePe s g (.add g) (fun v => v.binary fun a b => .ok (intAdd v.g.ty a b))
/-- SUB (R151). -/
def execSub (g : GArgs) (s : State) : Result := firePe s g (.sub g) (fun v => v.binary fun a b => .ok (intSub v.g.ty a b))
/-- MUL (R151). -/
def execMul (g : GArgs) (s : State) : Result := firePe s g (.mul g) (fun v => v.binary fun a b => .ok (intMul v.g.ty a b))
/-- MULHI (R151). -/
def execMulhi (g : GArgs) (s : State) : Result := firePe s g (.mulhi g) (fun v => v.binary fun a b => .ok (intMulhi v.g.ty a b))
/-- MAD (R151). -/
def execMad (g : GArgs) (s : State) : Result := firePe s g (.mad g) (fun v => v.ternary fun a b c => .ok (intMad v.g.ty a b c))
/-- DIV (R151). -/
def execDiv (g : GArgs) (s : State) : Result := firePe s g (.div g) (fun v => v.binary fun a b => divOut v b (intDiv v.g.ty a b))
/-- REM (R151). -/
def execRem (g : GArgs) (s : State) : Result := firePe s g (.rem g) (fun v => v.binary fun a b => divOut v b (intRem v.g.ty a b))
/-- NEG (R151). -/
def execNeg (g : GArgs) (s : State) : Result := firePe s g (.neg g) (fun v => v.unary fun a => .ok (intNeg v.g.ty a))
/-- ABS (R151). -/
def execAbs (g : GArgs) (s : State) : Result := firePe s g (.abs g) (fun v => v.unary fun a => .ok (intAbs v.g.ty a))
/-- MIN (R151). -/
def execMin (g : GArgs) (s : State) : Result := firePe s g (.min g) (fun v => v.binary fun a b => .ok (intMin v.g.ty a b))
/-- MAX (R151). -/
def execMax (g : GArgs) (s : State) : Result := firePe s g (.max g) (fun v => v.binary fun a b => .ok (intMax v.g.ty a b))
/-- ADDSAT (R151). -/
def execAddsat (g : GArgs) (s : State) : Result := firePe s g (.addsat g) (fun v => v.binary fun a b => .ok (intAddsat v.g.ty a b))
/-- SUBSAT (R151). -/
def execSubsat (g : GArgs) (s : State) : Result := firePe s g (.subsat g) (fun v => v.binary fun a b => .ok (intSubsat v.g.ty a b))
/-- AND (R153). -/
def execAnd (g : GArgs) (s : State) : Result := firePe s g (.and g) (fun v => v.binary fun a b => .ok (bitAnd v.g.ty a b))
/-- OR (R153). -/
def execOr (g : GArgs) (s : State) : Result := firePe s g (.or g) (fun v => v.binary fun a b => .ok (bitOr v.g.ty a b))
/-- XOR (R153). -/
def execXor (g : GArgs) (s : State) : Result := firePe s g (.xor g) (fun v => v.binary fun a b => .ok (bitXor v.g.ty a b))
/-- ANDN (R153). -/
def execAndn (g : GArgs) (s : State) : Result := firePe s g (.andn g) (fun v => v.binary fun a b => .ok (bitAndn v.g.ty a b))
/-- NOT (R153). -/
def execNot (g : GArgs) (s : State) : Result := firePe s g (.not g) (fun v => v.unary fun a => .ok (bitNot v.g.ty a))
/-- SHL (R154). -/
def execShl (g : GArgs) (s : State) : Result := firePe s g (.shl g) (fun v => v.binary fun a b => .ok (bitShl v.g.ty a b))
/-- SHR (R154). -/
def execShr (g : GArgs) (s : State) : Result := firePe s g (.shr g) (fun v => v.binary fun a b => .ok (bitShr v.g.ty a b))
/-- SAR (R154). -/
def execSar (g : GArgs) (s : State) : Result := firePe s g (.sar g) (fun v => v.binary fun a b => .ok (bitSar v.g.ty a b))
/-- ROL (R154). -/
def execRol (g : GArgs) (s : State) : Result := firePe s g (.rol g) (fun v => v.binary fun a b => .ok (bitRol v.g.ty a b))
/-- CLZ (R153). -/
def execClz (g : GArgs) (s : State) : Result := firePe s g (.clz g) (fun v => v.unary fun a => .ok (bitClz v.g.ty a))
/-- CTZ (R153). -/
def execCtz (g : GArgs) (s : State) : Result := firePe s g (.ctz g) (fun v => v.unary fun a => .ok (bitCtz v.g.ty a))
/-- POPC (R153). -/
def execPopc (g : GArgs) (s : State) : Result := firePe s g (.popc g) (fun v => v.unary fun a => .ok (bitPopc v.g.ty a))
/-- BREV (R153). -/
def execBrev (g : GArgs) (s : State) : Result := firePe s g (.brev g) (fun v => v.unary fun a => .ok (bitBrev v.g.ty a))
/-- BFX (R154). -/
def execBfx (g : GArgs) (s : State) : Result := firePe s g (.bfx g) (fun v => v.binary fun a b => .ok (bitBfx v.g.ty a b))
/-- BFI (R154). -/
def execBfi (g : GArgs) (s : State) : Result := firePe s g (.bfi g) (fun v => v.ternary fun a b c => .ok (bitBfi v.g.ty a b c))
/-- CMP (R155). -/
def execCmp (g : GArgs) (s : State) : Result := firePe s g (.cmp g) (fun v => v.binary fun a b => .ok (intCmp v.g.ty v.g.mode.toNat a b))
/-- SEL (R156). -/
def execSel (g : GArgs) (s : State) : Result := firePe s g (.sel g) ruleSel
/-- FADD (R158). -/
def execFadd (g : GArgs) (s : State) : Result := firePe s g (.fadd g) (fun v => fpBinary v fpAdd)
/-- FSUB (R158). -/
def execFsub (g : GArgs) (s : State) : Result := firePe s g (.fsub g) (fun v => fpBinary v fpSub)
/-- FMUL (R158). -/
def execFmul (g : GArgs) (s : State) : Result := firePe s g (.fmul g) (fun v => fpBinary v fpMul)
/-- FMA (R158). -/
def execFma (g : GArgs) (s : State) : Result := firePe s g (.fma g) (fun v => fpTernary v (fpFused false false))
/-- FMS (R158). -/
def execFms (g : GArgs) (s : State) : Result := firePe s g (.fms g) (fun v => fpTernary v (fpFused false true))
/-- FNMA (R158). -/
def execFnma (g : GArgs) (s : State) : Result := firePe s g (.fnma g) (fun v => fpTernary v (fpFused true false))
/-- FMIN (R159). -/
def execFmin (g : GArgs) (s : State) : Result := firePe s g (.fmin g) (fun v => fpBinary v (fpMinMax v.v1 false false))
/-- FMAX (R159). -/
def execFmax (g : GArgs) (s : State) : Result := firePe s g (.fmax g) (fun v => fpBinary v (fpMinMax v.v1 true false))
/-- FMINM (R159). -/
def execFminm (g : GArgs) (s : State) : Result := firePe s g (.fminm g) (fun v => fpBinary v (fpMinMax false false true))
/-- FMAXM (R159). -/
def execFmaxm (g : GArgs) (s : State) : Result := firePe s g (.fmaxm g) (fun v => fpBinary v (fpMinMax false true true))
/-- FABS (R160). -/
def execFabs (g : GArgs) (s : State) : Result := firePe s g (.fabs g) ruleFabs
/-- FNEG (R160). -/
def execFneg (g : GArgs) (s : State) : Result := firePe s g (.fneg g) ruleFneg
/-- FCPYS (R160). -/
def execFcpys (g : GArgs) (s : State) : Result := firePe s g (.fcpys g) ruleFcpys
/-- FCMP (R161). -/
def execFcmp (g : GArgs) (s : State) : Result := firePe s g (.fcmp g) ruleFcmp
/-- FCLASS (R162). -/
def execFclass (g : GArgs) (s : State) : Result := firePe s g (.fclass g) ruleFclass
/-- FRND (R157). -/
def execFrnd (g : GArgs) (s : State) : Result := firePe s g (.frnd g) (fun v => fpUnary v fun f env a => fpRnd f env (v.g.opt.getLsbD 0) a)
/-- FSCALE (R157). -/
def execFscale (g : GArgs) (s : State) : Result := firePe s g (.fscale g) ruleFscale
/-- RCP (R163). -/
def execRcp (g : GArgs) (s : State) : Result := firePe s g (.rcp g) (fun v => fpUnary v fpRcp)
/-- RSQ (R163). -/
def execRsq (g : GArgs) (s : State) : Result := firePe s g (.rsq g) (fun v => fpUnary v fpRsq)
/-- SQRT (R163). -/
def execSqrt (g : GArgs) (s : State) : Result := firePe s g (.sqrt g) (fun v => fpUnary v fpSqrt)
/-- FDIV (R164). -/
def execFdiv (g : GArgs) (s : State) : Result := firePe s g (.fdiv g) (fun v => fpBinary v fpDiv)
/-- EXP2 (R163). -/
def execExp2 (g : GArgs) (s : State) : Result := firePe s g (.exp2 g) (fun v => fpUnary v fpExp2)
/-- LOG2 (R163). -/
def execLog2 (g : GArgs) (s : State) : Result := firePe s g (.log2 g) (fun v => fpUnary v fpLog2)
/-- SINPI (R163). -/
def execSinpi (g : GArgs) (s : State) : Result := firePe s g (.sinpi g) (fun v => fpUnary v fpSinpi)
/-- COSPI (R163). -/
def execCospi (g : GArgs) (s : State) : Result := firePe s g (.cospi g) (fun v => fpUnary v fpCospi)
/-- TANH (R163). -/
def execTanh (g : GArgs) (s : State) : Result := firePe s g (.tanh g) (fun v => fpUnary v fpTanh)
/-- SIGM (R163). -/
def execSigm (g : GArgs) (s : State) : Result := firePe s g (.sigm g) (fun v => fpUnary v fpSigm)
/-- CVT (R166). -/
def execCvt (g : GArgs) (s : State) : Result := firePe s g (.cvt g) ruleCvt
/-- PACK (R168). -/
def execPack (g : GArgs) (s : State) : Result := firePe s g (.pack g) rulePack
/-- UNPK (R169). -/
def execUnpk (g : GArgs) (s : State) : Result := firePe s g (.unpk g) (fun v => v.unary fun a => .ok (unpkPart v.g.ty v.g.opt.toNat a))
/-- MOV (R170). -/
def execMov (g : GArgs) (s : State) : Result := firePe s g (.mov g) (fun v => v.unary fun a => .ok a)
/-- CONST (R171). -/
def execConst (g : GArgs) (s : State) : Result := firePe s g (.const g) (fun v => v.unary fun _ => .ok (immValue v.g.ty v.g.fmt))
/-- CONSTH (R172). -/
def execConsth (g : GArgs) (s : State) : Result := firePe s g (.consth g) (fun v => v.unary fun a => .ok (consthWord v.g.fmt a))
/-- SXT (R173). -/
def execSxt (g : GArgs) (s : State) : Result := firePe s g (.sxt g) (fun v => v.binary fun a b => .ok (sxtWord v.g.ty a b))

/-- FMIN1 (R174): FMIN of a version-1 block in every block, counted as deprecated (R78). -/
def execFmin1 (g : GArgs) (s : State) : Result :=
  firePeFor s g (.fmin1 g) true none (fun v => fpBinary v (fpMinMax true false false))

/-- WAITC (R176): emits a unchanged no sooner than N ticks after it issues. -/
def execWaitc (g : GArgs) (s : State) : Result :=
  firePeFor s g (.waitc g) true (some (g.bits 19 0)) (fun v => v.unary fun a => .ok a)

/-- A node's firings use the special-function unit of its tile. -/
def Node.usesSfu (n : Node) : Bool := (n.instr.map fun i => (cost i).sfu).getD false

/-- The special-function unit has still to return a result that it accepted before a firing of the same PE, of whatever plane (R143). -/
def State.sfuWaits (s : State) (p : PlaneId) (n : Node) (f : Issued) : Bool :=
  n.usesSfu && s.planes.any fun x => x.1.pad == p.pad && x.2.issued.any fun y =>
    decide (y.cycle < f.cycle) && ((x.2.nodes[y.node]?).any fun m => m.place == n.place && m.usesSfu)

/-- An issued firing's latency has passed, its ticks too, and the special-function unit's order lets it return (R141, R142, R143, R176). -/
def State.mayComplete (s : State) (p : PlaneId) (n : Node) (f : Issued) : Bool :=
  decide (f.due ≤ s.cycle) && (f.ticks.all fun t => decide (t ≤ (s.dieTime (placeDie n.place)).toNat)) && !s.sfuWaits p n f

/-- The next issued firing of a node completes: its effects take place, or its fault is detected (R141, FIRING_COMPLETE). -/
def execFiringComplete (s : State) : Result :=
  let p := s.arg.plane
  let k := s.arg.index
  match s.plane? p with
  | none => .next s
  | some pl =>
    match pl.nodes[k]?, pl.firstIssued k with
    | some n, some f =>
      if ¬ s.mayComplete p n f then .next s
      else match f.fault with
        | some info => .next ((s.setPlane p (cancelFirings pl k n)).detectFault p (some (.node k)) info)
        | none =>
          let s' := s.setPlane p (completeFiring pl k n f)
          .next (if f.dep then countDeprecated s' pl.ctx else s')
    | _, _ => .next s

end Sys2Proof.Machine
end

