-- ==== Sys2Proof/Machine/TileMemory.lean ====
section
/-! DEFINITION. The instructions of the memory tiles (R266, R271 to R295) and LDV (R175): loads, stores, full-empty accesses,
FIFOs, line buffers, atomics, scatters and address generators. LD, ST, LDV and the atomics reach spaces 1 to 5 by the same
rules (R324). -/

namespace Sys2Proof.Machine

/-! ## Loads and stores (R273, R276, R279) -/

/-- The access of a load, by its size. -/
def loadAcc (g : GArgs) (acq : Bool) : Access := .load g.ty (accessBytes g.opt) acq

def ruleLd (x : Site) : MemFiring :=
  let g := x.v.g
  if g.mode = 2#3 then x.valueAccess (x.ask 1 0 1) .pop
  else x.valueAccess (x.ask (accessBytes g.opt) 0) (loadAcc g (g.mode = 1#3))

/-- ST.push (R279): the token at the head of c is appended as it is; a marker on the address faults with 0x51. -/
def rulePush (x : Site) : MemFiring :=
  let g := x.v.g
  let ops := addrOps g ++ [.c]
  match x.v.heads (addrOps g), x.v.c with
  | some heads, some c =>
    if heads.any Token.isMarker then .fault (x.info ops 0x51)
    else if heads.any Token.isPoison then .fault (x.info ops 0x30)
    else
      let q := x.ask 1 1 1
      x.probing q (x.info ops 0 (accessKind 1) q.va) (x.issue q (x.info ops 0 2 q.va) (x.taking ops) (.push c))
  | _, _ => .wait

def ruleSt (x : Site) : MemFiring :=
  let g := x.v.g
  if g.mode = 2#3 then rulePush x
  else x.ackAccess (x.ask (accessBytes g.opt) 1) true fun v => .store (accessBytes g.opt) v true

def ruleLdfe (x : Site) : MemFiring :=
  let g := x.v.g
  x.valueAccess (x.ask (accessBytes g.opt) 0) (.ldfe g.ty (accessBytes g.opt) (g.mode = 1#3))

def ruleStfe (x : Site) : MemFiring :=
  let g := x.v.g
  x.ackAccess (x.ask (accessBytes g.opt) 1) true fun v => .stfe (accessBytes g.opt) v (g.mode = 1#3)

/-- FECLR and FESET act on the granule that holds the address, whatever its low bits (R271). -/
def ruleMarkGranule (acc : Access) (x : Site) : MemFiring := x.ackAccess (x.ask 1 1) false fun _ => acc

def ruleFetest (x : Site) : MemFiring := x.valueAccess (x.ask 1 0) .fetest

/-- LDV (R175): its size is the width of its type. -/
def ruleLdv (x : Site) : MemFiring := x.valueAccess (x.ask x.v.g.ty.bytes 0) (.load x.v.g.ty x.v.g.ty.bytes false)

/-! ## Atomics (R287 to R293) -/

/-- The operands of an atomic: ACAS takes b as the expected value, ARD takes no c (R287). -/
def atomicOps (g : GArgs) (op : AtomOp) : List Operand :=
  addrOps g ++ (if op = .cas then [.b] else []) ++ (if op = .rd then [] else [.c])

/-- An end-of-round marker at a .rnd node: it must carry the node's round (R40), and leaves when the round has closed
everywhere (R293). -/
def Site.closeRound (x : Site) (ops : List Operand) (m : Token) (space : Nat) (es : List (Nat × Token)) : MemFiring :=
  if m.round ≠ x.n.round then .fault (x.info ops 0x51)
  else
    let info := x.info ops 0
    .go { takes := takeOne ops, round := some (x.n.round + 1#8) }
      [{ x.pass es with acc := .close m es, space, round := x.n.rounds + 1, iter := info.iter, opv := info.opv }]

/-- Markers at an atomic or a BINADD: those of level 4 and above end the round of a .rnd node. -/
def Site.roundMarkers (x : Site) (ops : List Operand) (heads : List Token) (sink rnd : Bool) (space : Nat) : MemFiring :=
  match if heads.all Token.isMarker then joinMarkers heads else none with
  | none => .fault (x.info ops 0x51)
  | some m =>
    if rnd ∧ m.level ≥ 4 then
      x.closeRound ops m space (if sink then (if m.level ≥ 6 then [(sinkTarget, m)] else []) else [(0, m), (1, m)])
    else x.markers ops heads sink

/-- The type by whose width an atomic acts: a tok has the width of the channel of its new value, or, for ARD, of its targets (R287). -/
def Site.atomicTy (x : Site) (op : AtomOp) : Ty :=
  let wide := if op = .rd then x.n.outs.any fun d => (d.map x.pl.wide).getD false else x.n.c.wide
  if x.v.g.ty = .tok ∧ ¬ wide then .n32 else x.v.g.ty

def ruleAtomic (op : AtomOp) (always : Bool) (x : Site) : MemFiring :=
  let g := x.v.g
  let ty := x.atomicTy op
  let ops := atomicOps g op
  let returns := always || g.opt.getLsbD 0
  let rnd := g.opt.getLsbD 1
  match x.v.heads ops with
  | none => .wait
  | some heads =>
    if heads.any Token.isMarker then x.roundMarkers ops heads (!returns) rnd 0
    else if (heads.take (addrOps g).length).any Token.isPoison then .fault (x.info ops 0x30)
    else
      let dead := (heads.drop (addrOps g).length).any Token.isPoison
      if dead && x.v.poisonTrap then .fault (x.info ops 0x30)
      else
        let q := x.ask ty.bytes 2 0 rnd
        let b := (x.v.b.map Token.val).getD 0#64
        let c := if dead then none else x.v.c.map Token.val
        let acc := Access.atomic op ty b (if op = .rd then none else c) returns
        let info := x.info ops 0 3 q.va
        x.probing q info fun loc =>
          match x.issue q info (x.taking ops) acc loc with
          | .go e rs => .go e (rs.map fun r => { r with round := if rnd then x.n.rounds + 1 else 0 })
          | f => f

/-! ## Scatters and gathers (R285, R321) -/

/-- The base that a group holds. -/
def Site.heldBase (x : Site) : Option Token :=
  match x.n.st with
  | .base b => b
  | _ => none

/-- SCAT, SCATX and GATH: one base for a group, one access for each index on b. -/
def ruleGroup (gath : Bool) (x : Site) : MemFiring :=
  let g := x.v.g
  let stream : List Operand := if gath then [.b] else [.b, .c]
  let held := x.heldBase
  let ops := (if held.isSome then [] else [Operand.a]) ++ stream
  match (match held with | some b => some b | none => x.v.a), x.v.heads stream with
  | some base, some heads =>
    if base.isMarker then .fault (x.info ops 0x51)
    else if heads.any Token.isMarker then
      match if heads.all Token.isMarker then joinMarkers heads else none with
      | none => .fault (x.info ops 0x51)
      | some m =>
        let ends := decide (m.level ≥ g.mode.toNat)
        let es := if gath then [(0, m), (1, m)]
          else (if ends then outAck else []) ++ if m.level ≥ 6 then [(sinkTarget, m)] else []
        .go { x.taking ops with counted := held.isNone, st := some (if ends then .plain else .base (some base)) } [x.pass es]
    else if base.isPoison ∨ (heads.head?.map Token.isPoison).getD false then .fault (x.info ops 0x30)
    else
      let c := x.v.c.getD .ord
      if ¬ gath ∧ c.isPoison ∧ x.v.poisonTrap then .fault (x.info ops 0x30)
      else
        let size := accessBytes g.opt
        let index := (((x.v.b.map Token.val).getD 0#64).setWidth 32).setWidth 64
        let q : Ask := { space := g.space, va := base.val + index * BitVec.ofNat 64 size, size, align := size, kind := if gath then 0 else 1 }
        let info := x.info ops 0 (accessKind q.kind) q.va
        let acc := if gath then Access.load g.ty size false else .store size c.word false
        x.probing q info (x.issue q info { x.taking ops with st := some (.base (some base)) } acc)
  | _, _ => .wait

/-! ## Line buffers (R280) -/

/-- The column window: nl elements of column x, the oldest line first. -/
def LineBuf.window (b : LineBuf) (lines : Nat) : List Token :=
  (List.range lines).reverse.map fun j =>
    if j ≤ b.y then
      match mapGet b.cells ((b.y - j) % lines * 512 + b.x) with
      | some (.poison _) => .poison 0x31#8
      | some t => t
      | none => .data 0#64
    else .data 0#64

/-- The buffer after a marker, or the fault of a line out of step. -/
def LineBuf.mark (b : LineBuf) (len level : Nat) : Option LineBuf :=
  if level = 1 ∧ b.x ≠ len then none
  else if level ≥ 2 ∧ b.x ≠ 0 ∧ b.x ≠ len then none
  else if level ≥ 2 then some {} else some { b with x := 0, y := b.y + 1 }

/-- LBWIN: what the firing does, and the line buffer that it changes, by its tile, as it leaves it. A marker before the first element finds
a column and a line count of 0 in no buffer yet named. A tile of another element type is none of the node's line buffers (log 41). -/
def ruleLbwin (x : Site) : MemFiring × Option (Nat × LineBuf) :=
  let ops : List Operand := [.a, .c]
  match x.v.heads ops with
  | none => (.wait, none)
  | some heads =>
    if heads.any Token.isMarker then
      match if heads.all Token.isMarker then joinMarkers heads else none with
      | none => (.fault (x.info ops 0x51), none)
      | some m =>
        let go : MemFiring := .go { takes := takeOne ops } [x.pass [(0, m), (1, m)]]
        match x.n.st with
        | .tally tile =>
          let buf := (mapGet x.pl.lbufs tile).getD {}
          let len := ((x.pl.tiles[tile]?).map (·.len)).getD 1
          match buf.mark len m.level with
          | none => (.fault (x.info ops 0x51), none)
          | some buf' => (go, some (tile, buf'))
        | _ => if m.level = 1 then (.fault (x.info ops 0x51), none) else (go, none)
    else if (x.v.a.map Token.isPoison).getD false then (.fault (x.info ops 0x30), none)
    else
      let c := x.v.c.getD .ord
      if c.isPoison && x.v.poisonTrap then (.fault (x.info ops 0x30), none)
      else
        let q := x.ask 1 1 2
        match x.s.probe x.pl x.n.near q with
        | .fault cause => (.fault (x.info ops cause 2 q.va), none)
        | .miss => (.wait, none)
        | .ok loc =>
          let tile := loc / 2 ^ 18
          let t := (x.pl.tiles[tile]?).getD { region := 0, mode := 2 }
          let buf := (mapGet x.pl.lbufs tile).getD {}
          if t.ty ≠ x.v.g.ty then (.fault (x.info ops 0x13 2 q.va), none)
          else if buf.x = t.len then (.fault (x.info ops 0x51), none)
          else
            let buf := { buf with cells := mapSet buf.cells (buf.y % t.lines * 512 + buf.x) c }
            (.go { x.taking ops with st := some (.tally tile) } [x.pass ((buf.window t.lines).flatMap outBoth)],
              some (tile, { buf with x := buf.x + 1 }))

/-- The line buffer of a tile set. -/
def Plane.setLbuf (pl : Plane) (b : Option (Nat × LineBuf)) : Plane :=
  match b with
  | none => pl
  | some (t, b) => { pl with lbufs := mapSet pl.lbufs t b }

/-- LBWIN's firing with the buffer that it leaves: the buffer changes only where the firing takes place. -/
def fireLbwin (s : State) (g : GArgs) : Result :=
  match fireMem s g (.lbwin g) fun x => (ruleLbwin x).1, cursorNode s with
  | .next s', some (p, k, pl, n) =>
    let fired := decide (s'.nextId ≠ s.nextId)
    .next (if fired then s'.modPlane p (·.setLbuf (ruleLbwin ⟨s, p, k, pl, n, nodeView s pl k n g⟩).2) else s')
  | r, _ => r

/-! ## Address generators (R281 to R284) -/

/-- A descriptor: base, counts, strides. -/
structure Nest where
  base : W64
  n0 : Nat
  n1 : Nat
  n2 : Nat
  s0 : W64
  s1 : W64
  s2 : W64
deriving DecidableEq, Repr

/-- The words of a descriptor at its place, none where a word is poisoned. -/
def descriptorAt (m : Memory) (loc : Nat) : Option (List W64) :=
  if m.poisoned loc 32 then none else some ((List.range 4).map fun k => BitVec.ofNat 64 (m.nat (loc + 8 * k) 8))

def nestOf (d : List W64) : Nest :=
  let w (k : Nat) : W64 := (d[k]?).getD 0#64
  { base := w 0, n0 := wbits (w 1) 31 0, n1 := wbits (w 1) 63 32, n2 := wbits (w 2) 31 0,
    s0 := sext32 (w 2 >>> 32), s1 := sext32 (w 3), s2 := sext32 (w 3 >>> 32) }

/-- One step of a nest: an element, a marker of a level, or the end. -/
inductive NestStep where
  | element (i0 i1 i2 : Nat)
  | mark (level : Nat)
  | stop
deriving DecidableEq, Repr

/-- Step j of a nest, with or without its markers. -/
def Nest.step (d : Nest) (mk : Bool) (j : Nat) : NestStep :=
  let m := if mk then 1 else 0
  let line := d.n0 + m
  let page := d.n1 * line + m
  if j < d.n2 * page then
    let r := j % page
    if r < d.n1 * line then
      if r % line < d.n0 then .element (r % line) (r / line) (j / page) else .mark 1
    else .mark 2
  else if mk ∧ j = d.n2 * page then .mark 3
  else .stop

/-- The base of firing f: the offset b added, and under .rot the buffer f mod nb of the store that holds it (R282). -/
def Site.nestBase (x : Site) (d : Nest) : W64 :=
  let g := x.v.g
  let base := if g.imm then d.base + sext32 ((x.v.b.map Token.val).getD 0#64) else d.base
  if g.opt.getLsbD 1 then
    let t := (x.pl.tiles[wbits d.base 29 18]?).getD { region := 0, mode := 0 }
    base + BitVec.ofNat 64 (x.n.fired.length % max t.buffers 1 * (t.bytes / max t.buffers 1))
  else base

def Nest.addr (d : Nest) (base : W64) (i0 i1 i2 : Nat) : W64 :=
  base + BitVec.ofNat 64 i0 * d.s0 + BitVec.ofNat 64 i1 * d.s1 + BitVec.ofNat 64 i2 * d.s2

/-- A fault of an AGEN firing names the element and the firing (R284). -/
def Site.nestInfo (x : Site) (ops : List Operand) (access : Nat) (va : W64) (i0 i1 i2 : Nat) : FaultInfo :=
  { x.info ops 0 access va with iter := some [i0, i1, i2, x.n.fired.length] }

/-- A beat of the bus as a sink writes it. -/
def sinkBeat (bytes : Nat) : Token → Access
  | .beat ws => .beatWrite ws false
  | _ => .beatWrite (List.replicate (bytes / 4) 0#32) true

/-- One element of a nest, by the mode. -/
def Site.nestElement (x : Site) (ops : List Operand) (d : Nest) (raw : List W64) (j i0 i1 i2 : Nat) : MemFiring :=
  let g := x.v.g
  let va := d.addr (x.nestBase d) i0 i1 i2
  let e : Effect := { st := some (.agen raw (j + 1)) }
  let ask (size align kind : Nat) : Ask := { space := 0, va, size, align, kind }
  let load (access : Nat) (q : Ask) (e : Effect) (acc : Access) : MemFiring :=
    let info := x.nestInfo ops access va i0 i1 i2
    x.probing q info (x.issue q info e acc)
  let sink (bytes : Nat) : MemFiring :=
    match x.v.c with
    | none => .wait
    | some t => load 5 (ask bytes 16 1) { e with takes := takeOne [.c] } (sinkBeat bytes t)
  match g.mode.toNat with
  | 0 => .go e [x.pass (outBoth (.data va))]
  | 1 => load 1 (ask g.ty.bytes g.ty.bytes 0) e (.load g.ty g.ty.bytes false)
  | 2 => load 4 (ask 64 16 0) e (.beat 64)
  | 3 => load 4 (ask 128 16 0) e (.beat 128)
  | 4 => sink 64
  | _ => sink 128

/-- AGEN takes one step of its nest; a firing begins with the read of its descriptor. -/
def ruleAgen (x : Site) : MemFiring :=
  let g := x.v.g
  let ops := addrOps g
  let sinks := decide (g.mode.toNat ≥ 4)
  match (if sinks then x.v.c else none) with
  | some (.marker l r st) =>
    .go { takes := takeOne [.c] } [x.pass (if l.toNat ≥ 6 then [(sinkTarget, .marker l r st)] else [])]
  | _ =>
    match x.v.heads ops with
    | none => .wait
    | some heads =>
      match x.n.st with
      | .agen raw j =>
        let d := nestOf raw
        match d.step (g.opt.getLsbD 0) j with
        | .element i0 i1 i2 => x.nestElement ops d raw j i0 i1 i2
        | .mark l =>
          let m := if l = 3 then marker 3 x.n.round else x.v.made l
          .go { st := some (.agen raw (j + 1)), round := if l = 3 then some (x.n.round + 1#8) else none } [x.pass (outBoth m)]
        | .stop => .go { x.taking ops with st := some .plain } [x.pass (if sinks then outAck else [])]
      | st =>
        if heads.any Token.isMarker then
          match x.markers ops heads sinks with
          | .go e rs => .go { e with round := (joinMarkers heads).bind fun m => if m.level ≥ 4 then some (m.round + 1#8) else none } rs
          | f => f
        else if heads.any Token.isPoison then .fault (x.info ops 0x30)
        else
          let q : Ask := { space := 0, va := (x.v.a.map Token.val).getD 0#64, size := 32, align := 16 }
          let info := x.nestInfo ops 1 q.va 0 0 0
          x.probing q info fun loc =>
            if x.pl.mustWait x.s.cycle { x.request q info loc (.beat 32) with id := x.s.nextId } then .wait
            else match descriptorAt x.pl.sram loc with
              | none => .fault { info with cause := 0x31 }
              | some raw => .go { st := some (.agen raw (match st with | .elem j => j | _ => 0)) } []

/-- A fault in an element of a nest leaves the firing to resume there, with its descriptor read again (R284). -/
def resumeNest (n : Node) : Node := match n.st with | .agen _ j => { n with st := .elem j } | _ => n

def fireAgen (s : State) (g : GArgs) : Result :=
  match fireMem s g (.agen g) ruleAgen, cursorNode s with
  | .next s', some (p, k, pl, _) =>
    let faulted := decide (((s'.plane? p).map (·.faults.length)).getD 0 > pl.faults.length)
    .next (if faulted then s'.modPlane p (·.modNode k resumeNest) else s')
  | r, _ => r

/-! ## The meanings -/

/-- LD (R271, R273, R279, R324). -/
def execLd (g : GArgs) (s : State) : Result := fireMem s g (.ld g) ruleLd
/-- ST (R271, R273, R279, R324). -/
def execSt (g : GArgs) (s : State) : Result := fireMem s g (.st g) ruleSt
/-- LDFE (R276). -/
def execLdfe (g : GArgs) (s : State) : Result := fireMem s g (.ldfe g) ruleLdfe
/-- STFE (R276). -/
def execStfe (g : GArgs) (s : State) : Result := fireMem s g (.stfe g) ruleStfe
/-- FECLR (R276). -/
def execFeclr (g : GArgs) (s : State) : Result := fireMem s g (.feclr g) (ruleMarkGranule .feclr)
/-- FESET (R276). -/
def execFeset (g : GArgs) (s : State) : Result := fireMem s g (.feset g) (ruleMarkGranule .feset)
/-- FETEST (R276). -/
def execFetest (g : GArgs) (s : State) : Result := fireMem s g (.fetest g) ruleFetest
/-- TSCFG (R266): it consumes nothing, has no targets and never fires. -/
def execTscfg (_g : GArgs) (s : State) : Result := .next s
/-- AGEN (R281 to R284). -/
def execAgen (g : GArgs) (s : State) : Result := fireAgen s g
/-- SCAT (R285). -/
def execScat (g : GArgs) (s : State) : Result := fireMem s g (.scat g) (ruleGroup false)
/-- LBWIN (R280). -/
def execLbwin (g : GArgs) (s : State) : Result := fireLbwin s g
/-- AADD (R287, R288). -/
def execAadd (g : GArgs) (s : State) : Result := fireMem s g (.aadd g) (ruleAtomic .add false)
/-- AMIN (R287, R288). -/
def execAmin (g : GArgs) (s : State) : Result := fireMem s g (.amin g) (ruleAtomic .min false)
/-- AMAX (R287, R288). -/
def execAmax (g : GArgs) (s : State) : Result := fireMem s g (.amax g) (ruleAtomic .max false)
/-- AAND (R287, R288). -/
def execAand (g : GArgs) (s : State) : Result := fireMem s g (.aand g) (ruleAtomic .and false)
/-- AOR (R287, R288). -/
def execAor (g : GArgs) (s : State) : Result := fireMem s g (.aor g) (ruleAtomic .or false)
/-- AXOR (R287, R288). -/
def execAxor (g : GArgs) (s : State) : Result := fireMem s g (.axor g) (ruleAtomic .xor false)
/-- AXCHG (R287, R288). -/
def execAxchg (g : GArgs) (s : State) : Result := fireMem s g (.axchg g) (ruleAtomic .xchg false)
/-- ACAS (R287, R288). -/
def execAcas (g : GArgs) (s : State) : Result := fireMem s g (.acas g) (ruleAtomic .cas true)
/-- AINCB (R287, R288). -/
def execAincb (g : GArgs) (s : State) : Result := fireMem s g (.aincb g) (ruleAtomic .incb true)
/-- AFADD (R287 to R289). -/
def execAfadd (g : GArgs) (s : State) : Result := fireMem s g (.afadd g) (ruleAtomic .fadd false)
/-- AMINP (R287, R288). -/
def execAminp (g : GArgs) (s : State) : Result := fireMem s g (.aminp g) (ruleAtomic .minp false)
/-- ARD (R287, R288). -/
def execArd (g : GArgs) (s : State) : Result := fireMem s g (.ard g) (ruleAtomic .rd true)
/-- LDV (R175), counted as deprecated (R78). -/
def execLdv (g : GArgs) (s : State) : Result := fireMemAs s g (.ldv g) true ruleLdv

end Sys2Proof.Machine
end

