-- ==== Sys2Proof/Machine/External.lean ====
section
/-! DEFINITION. Streams, gathers and scatters beyond the tiles, prefetch, sparse lines, binning and range servers (R315 to
R334). -/

namespace Sys2Proof.Machine

/-! ## Requests of streams (R316, R318) -/

/-- The next element of the request at the head of a. -/
def Site.elemIndex (x : Site) : Nat := match x.n.st with | .elem i => i | _ => 0

/-- The elements that a request token asks for. -/
def View.requestCount (v : View) : Nat := wbits ((v.a.map Token.val).getD 0#64) 63 56 + 1

/-- The address of element i of a request, of elements of s bytes. -/
def View.requestAddr (v : View) (i s : Nat) : W64 :=
  let start := ((v.a.map Token.val).getD 0#64).setWidth 56 |>.setWidth 64
  let off := if v.g.imm then sext32 ((v.b.map Token.val).getD 0#64) else 0#64
  start + off + BitVec.ofNat 64 (i * s)

/-- A stream's fault names the element and the request (R320). -/
def Site.streamInfo (x : Site) (ops : List Operand) (access : Nat) (va : W64) (i : Nat) (cause : Nat := 0) : FaultInfo :=
  { x.info ops cause access va with iter := some [i, 0, 0, x.n.fired.length] }

/-- The line of an address of 128-byte lines. -/
def lineOf (va : W64) : Nat := va.toNat / 128

/-- The lines of a node's requests in flight, each once. -/
def Plane.linesOut (pl : Plane) (i : Nat) : List Nat :=
  ((pl.reqs.filter fun r => r.who = .node i ∧ r.size ≠ 0 ∧ ¬ r.done ∧ ¬ r.lost).map fun r => lineOf r.addr).eraseDups

/-- The node's window has a place for the line of an address (R319). -/
def Site.inWindow (x : Site) (va : W64) : Bool :=
  let out := x.pl.linesOut x.i
  out.contains (lineOf va) || decide (out.length < x.n.window)

/-- Element i of a stream: its probe and its request, once the window has a place for its line; the request token stays at the head of
a. -/
def Site.streamElement (x : Site) (ops : List Operand) (i size kind : Nat) (takes : List Nat) (acc : Access) : MemFiring :=
  let q : Ask := { space := x.v.g.space, va := x.v.requestAddr i size, size, align := size, kind }
  let info := x.streamInfo ops (accessKind kind) q.va i
  if ¬ x.inWindow q.va then .wait
  else x.probing q info (x.issue q info { takes, st := some (.elem (i + 1)) } acc)

/-- The end of a request: its token and the offset leave, and what follows its elements, a closing marker with the POISON bit of its
group (R31). -/
def Site.streamEnd (x : Site) (ops : List Operand) (takes : List Nat) (es : List (Nat × Token)) : MemFiring :=
  .go { x.taking ops with takes, st := some .plain } [{ x.pass es with acc := .ending es }]

def ruleSld (x : Site) : MemFiring :=
  let g := x.v.g
  let ops := addrOps g
  let mk := g.mode.getLsbD 1
  let close : List (Nat × Token) := if mk then outBoth (x.v.made 1) else []
  match x.v.heads ops with
  | none => .wait
  | some heads =>
    if heads.any Token.isMarker then x.markers ops heads false
    else match heads.find? Token.isPoison with
      | some t =>
        if x.v.poisonTrap then .fault (x.info ops 0x30)
        else match x.streamEnd ops (takeOne ops) close with
          | .go e rs => .go e (x.pass (outBoth t) :: rs)
          | f => f
      | none =>
        let i := x.elemIndex
        if i < x.v.requestCount then
          x.streamElement ops i (accessBytes g.opt) 0 [0, 0, 0, 0] (loadAcc g (g.mode.getLsbD 0))
        else x.streamEnd ops (takeOne ops) close

def ruleSst (x : Site) : MemFiring :=
  let g := x.v.g
  let ops := addrOps g
  let size := accessBytes g.opt
  match x.v.heads ops with
  | none => .wait
  | some heads =>
    if heads.any Token.isMarker then x.markers ops heads true
    else if heads.any Token.isPoison then .fault (x.info ops 0x30)
    else
      let i := x.elemIndex
      let all := ops ++ [.c]
      if i < x.v.requestCount then
        match x.v.c with
        | none => .wait
        | some c =>
          let info := x.streamInfo all 2 (x.v.requestAddr i size) i
          if c.isMarker then .fault { info with cause := 0x51, access := 0, vaddr := 0#64 }
          else if c.isPoison ∧ x.v.poisonTrap then .fault { info with cause := 0x30, access := 0, vaddr := 0#64 }
          else x.streamElement all i size 1 (takeOne [.c]) (.store size c.word false)
      else if g.mode.getLsbD 1 then
        match x.v.c with
        | none => .wait
        | some c =>
          if 1 ≤ c.level ∧ c.level ≤ 4 then x.streamEnd ops (takeOne all) outAck
          else .fault { x.streamInfo all 0 0#64 i with cause := 0x51 }
      else x.streamEnd ops (takeOne ops) outAck

/-- PREF (R322). A marker reaches a sink: an ordering channel carries none (R34). -/
def rulePref (x : Site) : MemFiring :=
  let g := x.v.g
  let ops := addrOps g
  match x.v.heads ops with
  | none => .wait
  | some heads =>
    if heads.any Token.isMarker then x.markers ops heads true
    else if heads.any Token.isPoison then
      if x.v.poisonTrap then .fault (x.info ops 0x30) else .go (x.taking ops) []
    else
      let q : Ask := { space := g.space, va := x.v.requestAddr 0 1, size := 128 * x.v.requestCount, align := 1 }
      .go (x.taking ops) [x.request q (x.info ops 0 1 q.va) 0 .bring, x.pass outAck]

/-- SPLD (R323): one line after another, until a line whose last bit is set or the end of the request. -/
def ruleSpld (x : Site) : MemFiring :=
  let ops := addrOps x.v.g
  match x.v.heads ops with
  | none => .wait
  | some heads =>
    if heads.any Token.isMarker then x.markers ops heads false
    else match heads.find? Token.isPoison with
      | some t => if x.v.poisonTrap then .fault (x.info ops 0x30) else .go (x.taking ops) [x.pass (outBoth t)]
      | none =>
        let i := x.elemIndex
        let busy := x.pl.reqs.any fun r => r.who = .node x.i ∧ ¬ r.done ∧ ¬ r.lost
        if busy then .wait
        else if i ≥ 1000 then x.streamEnd ops (takeOne ops) (outBoth (x.v.made 3))
        else if i < x.v.requestCount then
          match x.streamElement ops i 128 0 [0, 0, 0, 0] (.line false) with
          | .go e rs => .go { e with st := none } (rs.map fun r => { r with elem := i })
          | .peer e r => .peer { e with st := none } { r with elem := i, after := none }
          | f => f
        else x.streamEnd ops (takeOne ops) (outBoth (x.v.made 2))

/-! ## Binning (R325 to R330) -/

/-- A context's bins: their base, span, number, records each, and the die and first page of the staging area. -/
structure BinSet where
  base : Nat
  span : Nat
  bins : Nat
  cap  : Nat
  md   : Nat
  stage : Nat
  va   : Nat
deriving DecidableEq, Repr

def Ctx.binSet (c : Ctx) : BinSet :=
  let span := 2 ^ (12 + wbits c.binbase 59 56)
  { base := wbits c.binbase 55 0 / span * span, span, bins := wbits c.binctl 28 16, cap := wbits c.binctl 63 48 + 1,
    md := wbits c.binctl 47 46, stage := wbits c.binctl 14 0, va := wbits c.binrec 55 16 * 2 ^ 16 }

/-- The bin of an address, or the cause of R328 that refuses it. -/
def BinSet.binOf (b : BinSet) (va : W64) (size : Nat) : Except Nat Nat :=
  let x := va.toNat
  let i := (x - b.base) / b.span
  if wbits va 63 56 ≠ 0 then .error 0x12
  else if b.bins = 0 ∨ x < b.base ∨ i ≥ b.bins then .error 0x14
  else if x % size ≠ 0 then .error 0x18
  else .ok i

/-- Where the model keeps a bin apart from every memory, as the place of a BINADD's access. -/
def binLoc (bin : Nat) : Nat := 2 ^ 60 + bin

/-- BINADDs of a context that have issued and have still to append to a bin: each will take a slot of it. -/
def State.appending (s : State) (ctx bin : Nat) : Nat :=
  (s.planes.filter fun x => x.2.ctx = ctx).foldl (fun n x => n + (x.2.reqs.filter fun r => !r.done && !r.lost && match r.acc with
    | .binAppend i .. => i == bin
    | _ => false).length) 0

def ruleBinadd (x : Site) : MemFiring :=
  let g := x.v.g
  let ops := addrOps g ++ [.c]
  let rnd := g.opt.getLsbD 0
  match x.v.heads ops with
  | none => .wait
  | some heads =>
    if heads.any Token.isMarker then x.roundMarkers ops heads true rnd 2
    else if (heads.take (addrOps g).length).any Token.isPoison then .fault (x.info ops 0x30)
    else
      let c := x.v.c.getD .ord
      if c.isPoison && x.v.poisonTrap then .fault (x.info ops 0x30)
      else
        let b := (x.s.ctx x.pl.ctx).binSet
        let va := x.v.addr
        match b.binOf va g.ty.bytes with
        | .error cause => .fault (x.info ops cause 2 va)
        | .ok i =>
          let fill := min b.cap (((mapGet (x.s.ctx x.pl.ctx).bins i).getD []).length + x.s.appending x.pl.ctx i)
          let slot : Ask := { space := 2, va := BitVec.ofNat 64 (b.va + (i * b.cap + fill) * 16), size := 16, align := 16, kind := 1 }
          x.probing slot (x.info ops 0 2 slot.va) fun _ =>
            let q : Ask := { space := 2, va, size := 1, align := 1, kind := 1 }
            .go (x.taking ops) [{ x.request q (x.info ops 0 2 va) (binLoc i) (.binAppend i g.mode.toNat g.ty c.word rnd) with
              round := if rnd then x.n.rounds + 1 else 0 }]

/-- The new value of a staged word (R329): min and max of floats are FMIN and FMAX of version 2. -/
def binApply (op : Nat) (ty : Ty) (old v : W64) : W64 × FpFlags :=
  let fp (f : Nat × FpFlags) : W64 × FpFlags := (BitVec.ofNat 64 f.1, f.2)
  let env : FpEnv := .ofPolicy 0#8 0
  match op with
  | 0 => atomicNew (if ty.isFloat then .fadd else .add) ty 0#8 old 0#64 v
  | 1 => if ty.isFloat then fp (fpMinMax false false false (fmtOf ty) env old.toNat v.toNat) else atomicNew .min ty 0#8 old 0#64 v
  | 2 => if ty.isFloat then fp (fpMinMax false true false (fmtOf ty) env old.toNat v.toNat) else atomicNew .max ty 0#8 old 0#64 v
  | 3 => atomicNew .and ty 0#8 old 0#64 v
  | 4 => atomicNew .or ty 0#8 old 0#64 v
  | 5 => atomicNew .xor ty 0#8 old 0#64 v
  | _ => (v, 0#5)

/-- One record replayed on the staged range, which begins at `base` of virtual addresses and at `at_` of the memory. -/
def BinRec.replay (r : BinRec) (m : Memory) (base at_ : Nat) : Memory × FpFlags :=
  let loc := at_ + (r.addr.toNat - base)
  let n := r.ty.bytes
  match m.readWord loc n, r.v with
  | none, _ => (m, 0#5)
  | some _, none => (m.writePoison loc n, 0#5)
  | some old, some v =>
    let x := binApply r.op r.ty (BitVec.ofNat 64 old) v
    (m.write loc (wordBytes n x.1.toNat), x.2)

def replayAll (base at_ : Nat) : List BinRec → Memory → FpFlags → Memory × FpFlags
  | [], m, fl => (m, fl)
  | r :: rest, m, fl => let x := r.replay m base at_; replayAll base at_ rest x.1 (fl ||| x.2)

/-- A record of a round that the engine had closed when it had closed so many. -/
def BinRec.inClosed (closed : Nat) (r : BinRec) : Bool := r.owner.isNone && (r.round.any fun k => decide (k < closed))

/-- The records of a bin that a firing replays, in their order (R329). -/
def replayOrder (rnd : Bool) (closed : Nat) (rs : List BinRec) : List BinRec :=
  if rnd then
    let key (r : BinRec) := (r.round.getD 0, r.rank, r.elem)
    inOrder (fun a b =>
      let x := key a; let y := key b
      decide (x.1 < y.1 ∨ (x.1 = y.1 ∧ (x.2.1 < y.2.1 ∨ (x.2.1 = y.2.1 ∧ x.2.2 ≤ y.2.2)))))
      (rs.filter (·.inClosed closed))
  else rs

/-- What is left of a bin once a firing has replayed so many records: in default mode those that have arrived since wait for the next
BINRUN (R330). -/
def replayLeft (rnd : Bool) (closed taken : Nat) (rs : List BinRec) : List BinRec :=
  if rnd then rs.filter fun r => !r.inClosed closed else rs.drop taken

/-- The 64 KiB pages, or the smaller piece, of a bin's range: offset and bytes. -/
def binPieces (span : Nat) : List (Nat × Nat) :=
  if span ≤ 2 ^ 16 then [(0, span)] else (List.range (span / 2 ^ 16)).map fun k => (k * 2 ^ 16, 2 ^ 16)

/-- The probes of a bin's range as a store, page by page: places, or the first that faults or misses. -/
def Site.probeRange (x : Site) (info : FaultInfo) (base : Nat) : List (Nat × Nat) → (List (Nat × Nat × Nat) → MemFiring) → MemFiring
  | [], k => k []
  | (off, n) :: rest, k =>
    let q : Ask := { space := 2, va := BitVec.ofNat 64 (base + off), size := 4, align := 4, kind := 1 }
    x.probing q { info with vaddr := q.va } fun loc => x.probeRange info base rest fun ls => k ((off, n, loc) :: ls)

/-- Where a context stages a bin's range in the port store (R327, R329). -/
def State.stageAt (s : State) (ctx : Nat) : Nat :=
  let c := s.ctx ctx
  portLoc c.binSet.md (((c.window c.binSet.md).1 + c.binSet.stage) * 4096)

/-- A bin's range is staged in the port store and the records are applied there (R329). -/
def State.stageBin (s : State) (p : PlaneId) (ctx bin : Nat) (places : List (Nat × Nat × Nat)) (recs : List BinRec) : State :=
  let b := (s.ctx ctx).binSet
  let at_ := s.stageAt ctx
  let staged := places.foldl (fun m (off, n, loc) => m.copyFrom (at_ + off) s.dram loc n) s.store
  let (store, flags) := replayAll (b.base + bin * b.span) at_ recs staged 0#5
  ({ s with store } : State).modPlane p fun pl => { pl with flags := pl.flags ||| flags }

/-- The staged range is written back, its records leave the bin, and BINADDs that waited for room may go on (R328, R329). -/
def State.writeBack (s : State) (ctx bin : Nat) (places : List (Nat × Nat × Nat)) (left : List BinRec) : State :=
  let at_ := s.stageAt ctx
  let dram := places.foldl (fun m (off, n, loc) => m.copyFrom loc s.store (at_ + off) n) s.dram
  let s : State := ({ s with dram } : State).modCtx ctx fun c => { c with bins := mapSet c.bins bin left }
  let wakes (pl : Plane) : Plane := { pl with reqs := pl.reqs.map fun r =>
    match r.acc with | .binAppend i .. => if i = bin ∧ pl.ctx = ctx then { r with parked := none } else r | _ => r }
  { s with pads := s.pads.map fun kd => (kd.1, { kd.2 with planes := kd.2.planes.map wakes }) }

/-- Another BINRUN of the context has a range staged. -/
def Site.staging (x : Site) : Bool :=
  x.s.planes.any fun y => decide (y.2.ctx = x.pl.ctx ∧ y.2.st = .live) && y.2.nodes.zipIdx.any fun m =>
    !decide (y.1 = x.p ∧ m.2 = x.i) && match m.1.st with | .replay .. => true | _ => false

/-- What a step of a BINRUN does beside its firing: nothing, a bin's staging, or its write-back. -/
inductive BinWork where
  | nothing
  | stage (bin : Nat) (places : List (Nat × Nat × Nat)) (recs : List BinRec)
  | back (bin : Nat) (places : List (Nat × Nat × Nat)) (left : List BinRec)
deriving DecidableEq, Repr

/-- The next step of a firing whose bins before i are done: the end, the next bin that holds records to replay, or, at that bin, the
probes of its range and its staging, which a fault leaves to be done again. -/
def Site.nextBin (x : Site) (ops : List Operand) (rnd : Bool) (i closed : Nat) : MemFiring × BinWork :=
  let c := x.s.ctx x.pl.ctx
  let b := c.binSet
  let recsOf (j : Nat) : List BinRec := replayOrder rnd closed ((mapGet c.bins j).getD [])
  match ((List.range b.bins).drop i).find? fun j => !(recsOf j).isEmpty with
  | none => (.go { x.taking ops with st := some .plain } [x.pass outAck], .nothing)
  | some j =>
    if j ≠ i then (.go { st := some (.run j closed) } [], .nothing)
    else if x.staging then (.wait, .nothing)
    else
      let info : FaultInfo := { x.info ops 0 5 with iter := some [j, 0, 0, x.n.fired.length] }
      match x.probeRange info (b.base + j * b.span) (binPieces b.span) fun ls =>
          .go { st := some (.replay j closed (recsOf j).length ls) } [] with
      | .go { st := some (.replay k m taken ls), .. } _ =>
        (.go { st := some (.replay k m taken ls) } [], .stage k ls (recsOf k))
      | f => (f, .nothing)

/-- A step of BINRUN (R329): the rounds closed are noted and the staging area checked, then the bins one after another, each staged in
one step and written back in the next (R330). -/
def ruleBinrun (x : Site) : MemFiring × BinWork :=
  let ops : List Operand := [.a]
  let rnd := x.v.g.opt.getLsbD 0
  match x.v.a with
  | none => (.wait, .nothing)
  | some t =>
    if t.isMarker then (x.markers ops [t] true, .nothing)
    else if t.isPoison && x.v.poisonTrap then (.fault (x.info ops 0x30), .nothing)
    else
      let c := x.s.ctx x.pl.ctx
      let b := c.binSet
      match x.n.st with
      | .run i closed => x.nextBin ops rnd i closed
      | .replay j closed taken ls =>
        (.go { st := some (.run (j + 1) closed) } [], .back j ls (replayLeft rnd closed taken ((mapGet c.bins j).getD [])))
      | _ =>
        if b.stage * 4096 + b.span > (c.window b.md).2 * 4096 then
          (.fault { x.info ops 0x14 with iter := some [0, 0, 0, x.n.fired.length] }, .nothing)
        else (.go { st := some (.run 0 c.closed) } [], .nothing)

/-- The work of a BINRUN step. -/
def State.binWork (s : State) (p : PlaneId) (ctx : Nat) : BinWork → State
  | .nothing => s
  | .stage bin places recs => s.stageBin p ctx bin places recs
  | .back bin places left => s.writeBack ctx bin places left

/-- BINRUN's firing and the work that goes with it, where it takes place. -/
def fireBinrun (s : State) (g : GArgs) : Result :=
  match fireMem s g (.binrun g) fun x => (ruleBinrun x).1, cursorNode s with
  | .next s', some (p, k, pl, n) =>
    let st' := ((s'.plane? p).bind fun q => (q.nodes[k]?).map (·.st)).getD n.st
    .next (if st' = n.st then s' else s'.binWork p pl.ctx (ruleBinrun ⟨s, p, k, pl, n, nodeView s pl k n g⟩).2)
  | r, _ => r

/-! ## Range servers (R331 to R333) -/

/-- A request to the server of a range. -/
def Site.atServer (x : Site) (ops : List Operand) (acc : Access) : MemFiring :=
  .go (x.taking ops) [x.request { space := 1, va := 0#64, size := 0, align := 1 } (x.info ops 0) 0 acc]

def ruleRangeInit (x : Site) : MemFiring :=
  let g := x.v.g
  let ops : List Operand := [.a, .b]
  match x.v.heads ops with
  | none => .wait
  | some heads =>
    if heads.any Token.isMarker then x.markers ops heads true
    else if heads.any Token.isPoison then
      if x.v.poisonTrap then .fault (x.info ops 0x30) else x.atServer ops (.rangeInit (g.bits 5 0) 0 0)
    else x.atServer ops (.rangeInit (g.bits 5 0) (tyVal g.ty ((x.v.a.map Token.val).getD 0#64))
      (tyVal g.ty ((x.v.b.map Token.val).getD 0#64)))

def ruleRangePull (x : Site) : MemFiring :=
  let g := x.v.g
  match x.v.a with
  | none => .wait
  | some t =>
    if t.isMarker then x.markers [.a] [t] false
    else x.atServer [.a] (.rangePull (g.bits 5 0) (g.bits 21 6 + 1) g.ty)

/-! ## The meanings -/

/-- SLD (R317 to R320). -/
def execSld (g : GArgs) (s : State) : Result := fireMem s g (.sld g) ruleSld
/-- SST (R317 to R320). -/
def execSst (g : GArgs) (s : State) : Result := fireMem s g (.sst g) ruleSst
/-- GATH (R321). -/
def execGath (g : GArgs) (s : State) : Result := fireMem s g (.gath g) (ruleGroup true)
/-- SCATX (R321). -/
def execScatx (g : GArgs) (s : State) : Result := fireMem s g (.scatx g) (ruleGroup false)
/-- PREF (R322). -/
def execPref (g : GArgs) (s : State) : Result := fireMem s g (.pref g) rulePref
/-- SPLD (R323). -/
def execSpld (g : GArgs) (s : State) : Result := fireMem s g (.spld g) ruleSpld
/-- BINADD (R328). -/
def execBinadd (g : GArgs) (s : State) : Result := fireMem s g (.binadd g) ruleBinadd
/-- BINRUN (R329). -/
def execBinrun (g : GArgs) (s : State) : Result := fireBinrun s g
/-- RANGE.init (R332). -/
def execRangeInit (g : GArgs) (s : State) : Result := fireMem s g (.rangeInit g) ruleRangeInit
/-- RANGE (R332). -/
def execRangePull (g : GArgs) (s : State) : Result := fireMem s g (.rangePull g) ruleRangePull

end Sys2Proof.Machine
end

