-- ==== Sys2Proof/Machine/Kstep.lean ====
section
/-! DEFINITION. The arithmetic of a matrix engine's k-step (R117, R119, R136) and the formats of R244. -/

namespace Sys2Proof.Machine

/-- A format of R244: its elements, their width, the k of a step, the accumulator's type, the largest rows and columns of
one element, issue cycles, governor class, and whether it takes scales. -/
structure MxFormat where
  elem  : Fmt
  bits  : Nat
  kp    : Nat
  acc   : Ty
  rows  : Nat := 16
  cols  : Nat := 32
  issue : Nat := 1
  cls   : Nat
  mx    : Bool := false
deriving DecidableEq, Repr

/-- The table of R244. INT8 has no floating-point elements; its entry's `elem` is not used. -/
def mxTable (code : Nat) : MxFormat :=
  match code with
  | 0 => { elem := .bf16, bits := 16, kp := 1, acc := .f32, cls := 8 }
  | 1 => { elem := .f16, bits := 16, kp := 1, acc := .f32, cls := 8 }
  | 2 => { elem := .e4m3, bits := 8, kp := 2, acc := .f32, cls := 9 }
  | 3 => { elem := .e5m2, bits := 8, kp := 2, acc := .f32, cls := 9 }
  | 4 => { elem := .e4m3, bits := 8, kp := 2, acc := .f32, cls := 10, mx := true }
  | 5 => { elem := .e5m2, bits := 8, kp := 2, acc := .f32, cls := 10, mx := true }
  | 6 => { elem := .e2m3, bits := 6, kp := 4, acc := .f32, cls := 11, mx := true }
  | 7 => { elem := .e3m2, bits := 6, kp := 4, acc := .f32, cls := 11, mx := true }
  | 8 => { elem := .e2m1, bits := 4, kp := 8, acc := .f32, cls := 12, mx := true }
  | 9 => { elem := .e4m3, bits := 8, kp := 2, acc := .i32, cls := 9 }
  | 10 => { elem := .f32, bits := 32, kp := 1, acc := .f32, issue := 4, cls := 13 }
  | _ => { elem := .f64, bits := 64, kp := 1, acc := .f64, rows := 8, cols := 16, issue := 8, cls := 14 }

/-- An operand of a product: a NaN, signalling or not, or a value. -/
inductive MxNum where
  | nan (signalling : Bool)
  | num (x : Num)
deriving DecidableEq, Repr

/-- An element as a product takes it (R116, R117). -/
def mxElem (f : Fmt) (x : Nat) : MxNum := if f.isNan x then .nan (f.isSnan x) else .num (f.num x)

/-- An element under an E8M0 scale (R119): 0xFF makes every element a NaN, an infinity too (log 112); under any other scale a NaN or an
infinity keeps its meaning. -/
def mxScaled (scale : Option Nat) (x : MxNum) : MxNum :=
  match scale, x with
  | some 255, .nan sg => .nan sg
  | some 255, _ => .nan false
  | some k, .num (.fin s m e) => .num (.fin s m (e + (k : Int) - 127))
  | _, x => x

/-- What a step has met so far: a NaN result, the invalid flag, and the exact sum of the products. -/
structure MxSum where
  nan : Bool := false
  inv : Bool := false
  sum : Option Num := none
deriving DecidableEq, Repr

/-- The zero sum of products is a zero of one sign only when every product is (R121). -/
def mxAdd (x : Option Num) (y : Num) : Option Num :=
  match x with
  | none => some y
  | some x => x.add false y

/-- One more product of a step. -/
def MxSum.product (t : MxSum) (a b : MxNum) : MxSum :=
  match a, b with
  | .nan s, .nan r => { t with nan := true, inv := t.inv || s || r }
  | .nan s, _ | _, .nan s => { t with nan := true, inv := t.inv || s }
  | .num a, .num b =>
    match a.mul b with
    | none => { t with nan := true, inv := true }
    | some p =>
      match mxAdd t.sum p with
      | none => { t with nan := true, inv := true }
      | some x => { t with sum := some x }

/-- The accumulation of R136: one rounding with RNE; a NaN is the default NaN of the accumulator's format. -/
def mxAccumulate (f : Fmt) (t : MxSum) (acc : Nat) : Nat × FpFlags :=
  let inv := t.inv || f.isSnan acc
  let opposite : Bool := match t.sum, f.isNan acc with
    | some (.inf s), false => f.isInf acc && f.neg acc != s
    | _, _ => false
  if t.nan ∨ f.isNan acc ∨ opposite then (f.dnan, FpFlags.when (inv || opposite) .inv)
  else
    match mxAdd t.sum (f.num acc) with
    | none => (f.dnan, .inv)
    | some x => let r := finish f {} x; (r.1, r.2 ||| FpFlags.when inv .inv)

/-- A row group as one number: bit g of the group is bit g of it (R245). -/
def beatNat : List W32 → Nat
  | [] => 0
  | w :: rest => w.toNat + 2 ^ 32 * beatNat rest

/-- Element (i, q) of a group. -/
def MxFormat.element (f : MxFormat) (group i q : Nat) : Nat := (group >>> ((i * f.kp + q) * f.bits)) % 2 ^ f.bits

/-- A signed byte. -/
def int8 (x : Nat) : Int := if x ≥ 128 then (x : Int) - 256 else x

/-- A k-step on one cell: row i of an A group, column j of a B group, their scales, the old value (R136, R251). -/
def MxFormat.cell (f : MxFormat) (ga gb : Nat) (i j : Nat) (sa sb : Option Nat) (acc : W64) : W64 × FpFlags :=
  if f.acc = .i32 then
    let s := (List.range f.kp).foldl (fun t q => t + int8 (f.element ga i q) * int8 (f.element gb j q)) (0 : Int)
    (tyWrap .i32 (tyVal .i32 acc + s), 0#5)
  else
    let t := (List.range f.kp).foldl (fun (t : MxSum) q =>
      t.product (mxScaled sa (mxElem f.elem (f.element ga i q))) (mxScaled sb (mxElem f.elem (f.element gb j q)))) {}
    let r := mxAccumulate (fmtOf f.acc) t acc.toNat
    (BitVec.ofNat 64 r.1, r.2)

end Sys2Proof.Machine
end

