-- ==== Sys2Proof/Machine/Matrix.lean ====
section
/-! DEFINITION. The matrix fragment engines (R242 to R260): array elements of hand-built arrays, and the array that the
translator makes of an MXTILE, which one engine node stands for. -/

namespace Sys2Proof.Machine

/-! ## What an engine is -/

/-- An engine: its format, its M and N, its position, the row and column groups it takes at a step, and the nodes of its
accumulator controls. The translator lays `refs` as class, MXCFG, ACCRD, ACCCLR, ACCLD, the last three plus 1, or 0. -/
structure Engine where
  f     : MxFormat
  rows  : Nat
  cols  : Nat
  r     : Nat := 0
  c     : Nat := 0
  nr    : Nat := 1
  nc    : Nat := 1
  tile  : Bool := false
  rd    : Option Nat := none
  clr   : Option Nat := none
  ld    : Option Nat := none
deriving DecidableEq, Repr

/-- A reference that is 0 where there is none. -/
def refAt (refs : List Nat) (i : Nat) : Option Nat :=
  match refs[i]? with
  | some (k + 1) => some k
  | _ => none

/-- The engine of a node, by its MXCFG (R247, R258). -/
def Plane.engine (pl : Plane) (n : Node) : Option Engine :=
  match (n.refs[1]?).bind fun k => (pl.nodes[k]?).bind fun x => (decodeGraph x.word).toOption with
  | some (.mxcfg g) =>
    some { f := mxTable (g.bits 3 0), rows := g.bits 7 4 + 1, cols := g.bits 12 8 + 1, r := g.bits 15 13, c := g.bits 19 16,
           rd := refAt n.refs 2, clr := refAt n.refs 3, ld := refAt n.refs 4 }
  | some (.mxcfgTile g) =>
    let f := mxTable (g.bits 3 0)
    let m := g.bits 10 4 + 1
    let k := g.bits 19 11 + 1
    some { f, rows := m, cols := k, nr := (m + f.rows - 1) / f.rows, nc := (k + f.cols - 1) / f.cols, tile := true }
  | _ => none

/-- A fault of an engine: R260's iteration vector. -/
def Engine.info (e : Engine) (m : Mfe) (cause : Nat) (ops : List W64) (dr dc : Nat := 0) : FaultInfo :=
  { cause, iter := some [m.tensor, m.k0, e.r + dr, e.c + dc], opv := some ops }

/-- The operand values of fault 0x30: the cause in the poison token. -/
def poisonOps (c : BitVec 8) : List W64 := [c.setWidth 64, 0#64, 0#64]

def Node.setMfe (n : Node) (m : Mfe) : Node := { n with st := .mfe m }
def Plane.setMfe (pl : Plane) (i : Nat) (m : Mfe) : Plane := { pl.modNode i (·.setMfe m) with active := true }

/-! ## A step (R251, R254) -/

/-- The scale of row or column i: byte i mod 4 of scale token i div 4 (R246). -/
def scaleAt (ts : List Token) (i : Nat) : Option Nat :=
  match ts[i / 4]? with
  | some (.data v) => some (wbits v (i % 4 * 8 + 7) (i % 4 * 8))
  | _ => none

/-- The cause of a token that is poison. -/
def Token.cause : Token → Option (BitVec 8)
  | .poison c => some c
  | _ => none

/-- The poison that an element of the engine's array meets in a step: on its row group, its column group, or their
scales. -/
def Engine.poison (e : Engine) (m : Mfe) (as bs : List Token) (r c : Nat) : Option (BitVec 8) :=
  let scales := if e.f.mx then
      (m.scaleA.drop (r * (e.f.rows / 4))).take (e.f.rows / 4) ++ (m.scaleB.drop (c * (e.f.cols / 4))).take (e.f.cols / 4)
    else []
  ((as[r]?).toList ++ (bs[c]?).toList ++ scales).findSome? Token.cause

/-- The elements of the array in order. -/
def Engine.elements (e : Engine) : List (Nat × Nat) :=
  (List.range e.nr).flatMap fun r => (List.range e.nc).map fun c => (r, c)

/-- The first element that meets poison in a step, with its cause. -/
def Engine.firstPoison (e : Engine) (m : Mfe) (as bs : List Token) : Option (Nat × Nat × BitVec 8) :=
  e.elements.findSome? fun rc => (e.poison m as bs rc.1 rc.2).map fun p => (rc.1, rc.2, p)

/-- The words of a row group as one number. -/
def groupNat (ts : List Token) (k : Nat) : Nat :=
  match ts[k]? with
  | some (.beat ws) => beatNat ws
  | _ => 0

/-- One cell after a step: its value, its poison, and the flags. -/
def Engine.cell (e : Engine) (m : Mfe) (as bs : List Token) (i j : Nat) : W64 × Option (BitVec 8) × FpFlags :=
  let at_ := i * e.cols + j
  let acc := (m.acc[at_]?).getD 0#64
  let old := (m.pois[at_]?).getD none
  let r := i / e.f.rows
  let c := j / e.f.cols
  match e.poison m as bs r c with
  | some p => (acc, some (old.getD p), 0#5)
  | none =>
    let sa := if e.f.mx then scaleAt m.scaleA i else none
    let sb := if e.f.mx then scaleAt m.scaleB j else none
    let v := e.f.cell (groupNat as r) (groupNat bs c) (i % e.f.rows) (j % e.f.cols) sa sb acc
    (v.1, old, v.2)

/-- The last cycle in which a step fired in a cycle updates a cell: an element of an array runs behind the first one (R252). -/
def Engine.lastCell (e : Engine) (now : Nat) : Nat :=
  now + e.f.issue + 3 + 2 * (e.nr - 1 + (e.nc - 1)) + (min e.rows e.f.rows - 1) + (min e.cols e.f.cols - 1)

/-- The engine after a step, whose flags it raises once the step has completed (R251). -/
def Engine.step (e : Engine) (m : Mfe) (as bs : List Token) (now : Nat) : Mfe :=
  let cells := (List.range (e.rows * e.cols)).map fun k => e.cell m as bs (k / e.cols) (k % e.cols)
  let k0 := m.k0 + e.f.kp
  let fresh := decide (k0 % 32 = 0)
  { m with
      acc := cells.map (·.1), pois := cells.map (·.2.1), k0, latchA := [], latchB := []
      scaleA := if fresh then [] else m.scaleA, scaleB := if fresh then [] else m.scaleB, point := .run
      busy := e.lastCell now, due := m.due ++ [(e.lastCell now, cells.foldl (fun t x => t ||| x.2.2) 0#5)] }

/-! ## An engine's firing (R249, R250) -/

/-- What an engine does next. -/
inductive MfeMove where
  | wait
  | latch (n : Node) (m : Mfe) (emits : List (Nat × Token))
  | boundary (n : Node) (m : Mfe) (emits : List (Nat × Token))
  | step (as bs : List Token)
  | fault (info : FaultInfo)
deriving DecidableEq, Repr

/-- The tokens of a scale group that reached an element: one beat of words, or poison for all of them. -/
def scaleTokens (n : Nat) : Token → List Token
  | .beat ws => ws.map fun w => .data (w.setWidth 64)
  | t => List.replicate n t

/-- Scale tokens still wanted at the first step of a block (R246): an array element takes a whole group and passes it on,
an MXTILE takes tokens one by one and drops markers. None where both groups are held. -/
def Engine.scales (e : Engine) (n : Node) (m : Mfe) : Option MfeMove :=
  let wantA := decide (m.scaleA.length < e.nr * (e.f.rows / 4))
  let wantB := decide (m.scaleB.length < e.nc * (e.f.cols / 4))
  if ¬ e.f.mx ∨ ¬ (wantA ∨ wantB) then none
  else if wantA then
    match n.c.head with
    | none => some .wait
    | some t =>
      let n' := n.take [0, 0, 1, 0]
      if t.isMarker then some (.latch n' m [])
      else if e.tile then some (.latch n' { m with scaleA := m.scaleA ++ [t] } [])
      else some (.latch n' { m with scaleA := scaleTokens 4 t } [(4, t)])
  else
    match n.p.head with
    | none => some .wait
    | some t =>
      let n' := n.take [0, 0, 0, 1]
      if t.isMarker then some (.latch n' m [])
      else if e.tile then some (.latch n' { m with scaleB := m.scaleB ++ [t] } [])
      else some (.latch n' { m with scaleB := scaleTokens 8 t } [(5, t)])

/-- The engine may take its next tokens: not in a load, at a boundary or ended, and no tensor start is due (R255). -/
def Engine.open (e : Engine) (m : Mfe) : Bool :=
  match m.point with
  | .run => true
  | .start => e.ld.isNone
  | _ => false

/-- A tensor start or a load is pending, and no boundary waits behind it: a marker may pass, but no step (R250, R255). -/
def Engine.pending (e : Engine) (m : Mfe) : Bool :=
  m.behind.isNone && match m.point with
  | .start => e.ld.isSome
  | .load .. => true
  | _ => false

/-- The engine once its tensor start is done: at the boundary that waited for it, or ready for its steps. -/
def Mfe.started (m : Mfe) : Mfe :=
  match m.behind with
  | some t => { m with point := .boundary t 0, behind := none }
  | none => { m with point := .run }

/-- The move that the heads of a and b allow. -/
def Engine.move (e : Engine) (n : Node) (m : Mfe) : MfeMove :=
  let fault (a b : Token) : MfeMove := .fault (e.info m 0x51 [a.recorded, b.recorded, 0#64])
  let isGroup (t : Token) : Bool := !t.isMarker
  match n.a.head, n.b.head with
  | some (.marker l r st), some (.marker l' r' st') =>
    let a : Token := .marker l r st
    let b : Token := .marker l' r' st'
    if ¬ (m.latchA.isEmpty ∧ m.latchB.isEmpty) then fault a b
    else match joinMarkers [a, b] with
      | none => fault a b
      | some j =>
        let m' := if j.level < 3 then m else if e.open m then { m with point := .boundary j 0 } else { m with behind := some j }
        .boundary (n.take [1, 1, 0, 0]) m' [(2, j), (3, j)]
  | a, b =>
    let clash := match a, b with
      | some a, some b => a.isMarker != b.isMarker
      | _, _ => false
    if clash then fault (a.getD .ord) (b.getD .ord)
    else match a, b with
      | some t, _ =>
        if isGroup t ∧ m.latchA.length + 1 < e.nr then
          .latch (n.take [1, 0, 0, 0]) { m with latchA := m.latchA ++ [t] } []
        else match b with
          | none => .wait
          | some u =>
            if m.latchB.length + 1 < e.nc then .latch (n.take [0, 1, 0, 0]) { m with latchB := m.latchB ++ [u] } []
            else (e.scales n m).getD (.step (m.latchA ++ [t]) (m.latchB ++ [u]))
      | none, some u =>
        if isGroup u ∧ m.latchB.length + 1 < e.nc then
          .latch (n.take [0, 1, 0, 0]) { m with latchB := m.latchB ++ [u] } []
        else .wait
      | none, none => .wait

/-- The effect of moving tokens without an issue. -/
def Plane.moveTokens (pl : Plane) (i : Nat) (n : Node) (m : Mfe) (es : List (Nat × Token)) : Plane :=
  { (pl.modNode i fun _ => { n.setMfe m with grant := .none }).emitAll n es with active := true }

/-- A step issues: it is charged in its class, its groups leave east and south unchanged (R250, R251). -/
def issueStep (s : State) (p : PlaneId) (i : Nat) (pl : Plane) (n : Node) (e : Engine) (m : Mfe) (as bs : List Token) : State :=
  let es := if e.tile then [] else (as.map fun t => (2, t)) ++ bs.map fun t => (3, t)
  if ¬ pl.canEmit n es then s
  else
    let (granted, s1) := grantCycle s p
    if !granted && pl.st = .live then s1
    else
      let (ok, s2) := admitMfe s1 p n.mfeTiles e.f.cls e.f.issue
      if !ok then s2
      else
        match e.firstPoison m as bs, (maskEnables n.grant (s.ctx pl.ctx).trapen).getLsbD 7 with
        | some (r, c, cause), true => s2.detectFault p (some (.node i)) (e.info m 0x30 (poisonOps cause) r c)
        | _, _ =>
          s2.modPlane p fun pl => pl.moveTokens i (n.take [1, 1, 0, 0]) (e.step m as bs s.cycle) es

/-- A move that a pending tensor start does not hold back. -/
def MfeMove.passes : MfeMove → Bool
  | .boundary .. => true
  | _ => false

/-- MXOP and MXTILE at their engine: the next move of a and b. -/
def fireEngine (s : State) : Result :=
  match cursorNode s with
  | none => .next s
  | some (p, i, pl, n) =>
    match pl.engine n with
    | none => .next s
    | some e =>
      let m := n.mfe
      let move := e.move n m
      if !pl.mayFire i n ∨ ¬ (e.open m ∨ (e.pending m ∧ move.passes)) then .next s
      else match move with
        | .wait => .next s
        | .latch n' m' es => if ¬ pl.canEmit n es then .next s else .next (s.setPlane p (pl.moveTokens i n' m' es))
        | .boundary n' m' es =>
          if ¬ pl.canEmit n es then .next s
          else
            let (granted, s1) := grantCycle s p
            if !granted && pl.st = .live then .next s1
            else .next (s1.modPlane p fun pl => pl.moveTokens i n' m' es)
        | .fault info =>
          let (granted, s1) := grantCycle s p
          if !granted && pl.st = .live then .next s1 else .next (s1.detectFault p (some (.node i)) info)
        | .step as bs => .next (issueStep s p i pl n e m as bs)

/-! ## Readout (R256, R257) -/

/-- A readout: each row's values, poison for poisoned cells, and its marker; then the boundary marker. -/
def Engine.readout (e : Engine) (acc : List W64) (pois : List (Option (BitVec 8))) (m : Token) : List Token :=
  ((List.range e.rows).flatMap fun i =>
    ((List.range e.cols).map fun j =>
      let k := i * e.cols + j
      match (pois[k]?).getD none with
      | some c => Token.poison c
      | none => .data ((acc[k]?).getD 0#64)) ++ [marker (if i + 1 < e.rows then 1 else 2) m.round]) ++ [m]

/-- A reader emits the next token of its engine's readout, one in a granted cycle (R257). -/
def fireReader (s : State) : Result :=
  match cursorNode s with
  | none => .next s
  | some (p, i, pl, n) =>
    match n.refs with
    | [e] =>
      let target := match decodeGraph n.word with | .ok (.mxtile _) => [4] | _ => [0, 1]
      match pl.readout e with
      | [] => .next s
      | t :: rest =>
        let es := toTargets target t
        if !pl.mayFire i n ∨ ¬ pl.canEmit n es then .next s
        else
          let (granted, s1) := grantCycle s p
          if !granted && pl.st = .live then .next s1
          else .next (s1.modPlane p fun pl =>
            { (pl.modNode e fun x => x.setMfe { x.mfe with readout := rest }).emitAll n es with active := true })
    | _ => .next s

/-! ## Accumulator controls (R255, R256) -/

/-- An engine's predicate: markers at the head of an operand of a control node are dropped and the next token is taken. -/
inductive Taken where
  | none
  | marker
  | token (t : Token)
deriving DecidableEq, Repr

def takenOf (q : Queue) : Taken :=
  match q.head with
  | none => .none
  | some t => if t.isMarker then .marker else .token t

/-- The truth of a control token; poison reads as false (R187). -/
def Token.isOn : Token → Bool
  | .data v => v.getLsbD 0
  | _ => false

/-- What a control token decides: it faults where it is poison and the trap is enabled. -/
def controlToken (s : State) (p : PlaneId) (pl : Plane) (e : Engine) (m : Mfe) (j : Nat) (x : Node) (take : List Nat) (q : Queue)
    (k : Bool → Plane → Plane) : State :=
  match takenOf q with
  | .none => s
  | .marker => s.setPlane p { pl.modNode j (·.take take) with active := true }
  | .token t =>
    match t.cause, (maskEnables x.grant (s.ctx pl.ctx).trapen).getLsbD 7 with
    | some c, true => if pl.stopped (.node j) then s else s.detectFault p (some (.node j)) (e.info m 0x30 (poisonOps c))
    | _, _ => s.setPlane p { k t.isOn (pl.modNode j fun y => { y.take take with grant := .none }) with active := true }

/-- Step 1 of R256: the copy into the readout buffer. -/
def boundaryRead (s : State) (p : PlaneId) (i : Nat) (pl : Plane) (e : Engine) (m : Mfe) (mk : Token) : State :=
  let next (m : Mfe) : Mfe := { m with point := .boundary mk 1 }
  let full : Mfe := next { m with readout := m.readout ++ e.readout m.acc m.pois mk }
  if m.readout.any (fun t => !t.isMarker) then s
  else if e.tile then s.setPlane p (pl.setMfe i full)
  else match e.rd with
    | none => s.setPlane p (pl.setMfe i (next m))
    | some j =>
      match pl.nodes[j]? with
      | none => s
      | some x => controlToken s p pl e m j x [1, 0, 0, 0] x.a fun on pl =>
          pl.setMfe i (if on then full else next { m with readout := m.readout ++ [mk] })

/-- Step 2 of R256: ACCCLR's token. -/
def boundaryClear (s : State) (p : PlaneId) (i : Nat) (pl : Plane) (e : Engine) (m : Mfe) (mk : Token) : State :=
  let next (m : Mfe) : Mfe := { m with point := .boundary mk 2 }
  let clear : Mfe := next { m with acc := [], pois := [] }
  if e.tile then s.setPlane p (pl.setMfe i clear)
  else match e.clr with
    | none => s.setPlane p (pl.setMfe i (next m))
    | some j =>
      match pl.nodes[j]? with
      | none => s
      | some x => controlToken s p pl e m j x [1, 0, 0, 0] x.a fun on pl => pl.setMfe i (if on then clear else next m)

/-- Step 3 of R256: k0 becomes 0, and a tensor start follows a boundary below level 7. -/
def boundaryEnd (m : Mfe) (mk : Token) : Mfe :=
  { m with k0 := 0, scaleA := [], scaleB := [], tensor := m.tensor + 1, point := if mk.level = 7 then .ended else .start }

/-- The next step of an engine's boundary sequence, which begins once the tensor's last step has updated its last cell
(R252, R256). -/
def boundaryStep (s : State) (p : PlaneId) (i : Nat) (pl : Plane) (e : Engine) (m : Mfe) : State :=
  match m.point with
  | .boundary mk 0 => if s.cycle ≤ m.busy ∧ m.busy > 0 then s else boundaryRead s p i pl e m mk
  | .boundary mk 1 => boundaryClear s p i pl e m mk
  | .boundary mk _ => s.setPlane p (pl.setMfe i (boundaryEnd m mk))
  | _ => s

/-- The plane's engine `index`, where the plane may act. -/
def engineAt (s : State) (p : PlaneId) (i : Nat) : Option (Plane × Node × Engine) :=
  (s.plane? p).bind fun pl => (pl.nodes[i]?).bind fun n => (pl.engine n).bind fun e =>
    if pl.st = .live ∧ ¬ pl.reload then some (pl, n, e) else none

/-- MFE_BOUNDARY (R256): the engine at node `index` takes the next step of its boundary sequence. -/
def execMfeBoundary (s : State) : Result :=
  let x := s.arg
  match engineAt s x.plane x.index with
  | none => .next s
  | some (pl, n, e) => .next (boundaryStep s x.plane x.index pl e n.mfe)

/-- A tensor start (R255): ACCLD's predicate decides whether the bank is loaded. -/
def tensorStart (s : State) (p : PlaneId) (i : Nat) (pl : Plane) (e : Engine) (m : Mfe) : State :=
  match m.point with
  | .start =>
    match e.ld with
    | none => s.setPlane p (pl.setMfe i m.started)
    | some j =>
      match pl.nodes[j]? with
      | none => s
      | some x => controlToken s p pl e m j x [0, 0, 0, 1] x.p fun on pl =>
          pl.setMfe i (if on then { m with point := .load 0 0, acc := [], pois := [] } else m.started)
  | _ => s

/-- MFE_TENSOR_START (R255): the engine at node `index` begins its tensor. -/
def execMfeTensorStart (s : State) : Result :=
  let x := s.arg
  match engineAt s x.plane x.index with
  | none => .next s
  | some (pl, n, e) => .next (tensorStart s x.plane x.index pl e n.mfe)

/-- A list with one place set, with a filler up to it. -/
def setAt {α : Type} (d : α) (l : List α) (k : Nat) (v : α) : List α :=
  modifyAt (l ++ List.replicate (k + 1 - l.length) d) k fun _ => v

/-- The next token of a load (R255): a value into its cell, or the marker of its row; the wrong kind faults with 0x51. -/
def Engine.load (e : Engine) (m : Mfe) (row col : Nat) (t : Token) : Option Mfe :=
  if col < e.cols then
    match t with
    | .marker .. => none
    | .poison c => some { m with pois := setAt none m.pois (row * e.cols + col) (some c), point := .load row (col + 1) }
    | t => some { m with acc := setAt 0#64 m.acc (row * e.cols + col) t.val, point := .load row (col + 1) }
  else if t.isMarker then some (if row + 1 < e.rows then { m with point := .load (row + 1) 0 } else m.started)
  else none

/-- The tokens that a load has taken before a cell. -/
def Engine.loaded (e : Engine) (m : Mfe) (row col : Nat) : List Token :=
  let value (k : Nat) : Token := match (m.pois[k]?).getD none with | some c => .poison c | none => .data ((m.acc[k]?).getD 0#64)
  ((List.range row).flatMap fun i => ((List.range e.cols).map fun j => value (i * e.cols + j)) ++ [marker 1]) ++
    (List.range col).map fun j => value (row * e.cols + j)

/-- A load that faults consumes nothing: what it has taken stands before the channel's tokens again, and the whole load is read anew
(R255, R260). -/
def Plane.loadAgain (pl : Plane) (i j : Nat) (e : Engine) (m : Mfe) (row col : Nat) : Plane :=
  (pl.modNode j fun n => { n with a := { n.a with toks := e.loaded m row col ++ n.a.toks } }).setMfe i
    { m with point := .load 0 0, acc := [], pois := [] }

/-- The engine that a control node belongs to: the node that `refs` names. -/
def Plane.engineNode (pl : Plane) (n : Node) : Option (Nat × Node × Engine) :=
  (n.refs.head?).bind fun i => (pl.nodes[i]?).bind fun x => (pl.engine x).map fun e => (i, x, e)

/-- ACCLD takes the next token of a load in progress (R255). -/
def fireLoad (s : State) : Result :=
  match cursorNode s with
  | none => .next s
  | some (p, j, pl, n) =>
    match pl.engineNode n, n.a.head with
    | some (i, x, e), some t =>
      match x.mfe.point with
      | .load row col =>
        if !pl.mayFire j n then .next s
        else match e.load x.mfe row col t with
          | none => .next ((s.setPlane p (pl.loadAgain i j e x.mfe row col)).detectFault p (some (.node j))
              (e.info x.mfe 0x51 [t.recorded, 0#64, 0#64]))
          | some m => .next (s.setPlane p ((pl.modNode j fun y => { y.take [1, 0, 0, 0] with grant := .none }).setMfe i m))
      | _ => .next s
    | _, _ => .next s

/-- ACCCLR takes its token at the boundary that its engine has reached (R256). -/
def fireClear (s : State) : Result :=
  match cursorNode s with
  | none => .next s
  | some (p, j, pl, n) =>
    match pl.engineNode n with
    | some (i, x, e) =>
      match x.mfe.point with
      | .boundary mk 1 => if !pl.mayFire j n then .next s else .next (boundaryClear s p i pl e x.mfe mk)
      | _ => .next s
    | none => .next s

/-! ## Feeding an array (R246, R248) -/

/-- MXA and MXB hand a beat, poison or a marker to their element. -/
def fireFeed (s : State) : Result :=
  match cursorNode s with
  | none => .next s
  | some (p, i, pl, n) =>
    match n.a.head with
    | none => .next s
    | some t =>
      if !pl.mayFire i n ∨ ¬ pl.canEmit n [(0, t)] then .next s
      else .next (s.setPlane p { (pl.modNode i (·.take [1, 0, 0, 0])).emitAll n [(0, t)] with active := true })

/-- A scale group as it rides the side channel: its words, or poison where any of its tokens is (R246). -/
def scaleGroup (ts : List Token) : Token :=
  match ts.findSome? Token.cause with
  | some c => .poison c
  | none => .beat (ts.map fun t => t.val.setWidth 32)

/-- MXSC gathers a scale group of four tokens for operand c, of eight for operand p, and drops markers. -/
def fireScale (s : State) : Result :=
  match cursorNode s with
  | none => .next s
  | some (p, i, pl, n) =>
    match n.a.head with
    | none => .next s
    | some t =>
      let held := match n.st with | .scales ts => ts | _ => []
      let size := match n.out 0 with | some (.operand _ .p) => 8 | _ => 4
      let ts := held ++ [t]
      if !pl.mayFire i n then .next s
      else if t.isMarker then .next (s.setPlane p { pl.modNode i (·.take [1, 0, 0, 0]) with active := true })
      else if ts.length < size then
        .next (s.setPlane p { pl.modNode i fun y => { y.take [1, 0, 0, 0] with st := .scales ts } with active := true })
      else
        let g := [(0, scaleGroup ts)]
        if ¬ pl.canEmit n g then .next s
        else .next (s.setPlane p
          { (pl.modNode i fun y => { y.take [1, 0, 0, 0] with st := .scales [] }).emitAll n g with active := true })

/-! ## The meanings -/

/-- MXCFG in element form (R247): it consumes nothing, has no targets and never fires. -/
def execMxcfg (_g : GArgs) (s : State) : Result := .next s
/-- MXCFG in tile form (R258): it never fires. -/
def execMxcfgTile (_g : GArgs) (s : State) : Result := .next s
/-- MXA (R248). -/
def execMxa (_g : GArgs) (s : State) : Result := fireFeed s
/-- MXB (R248). -/
def execMxb (_g : GArgs) (s : State) : Result := fireFeed s
/-- MXSC (R246). -/
def execMxsc (_g : GArgs) (s : State) : Result := fireScale s
/-- MXOP (R249 to R251). -/
def execMxop (_g : GArgs) (s : State) : Result := fireEngine s
/-- ACCRD (R257). -/
def execAccrd (_g : GArgs) (s : State) : Result := fireReader s
/-- ACCCLR (R256). -/
def execAccclr (_g : GArgs) (s : State) : Result := fireClear s
/-- ACCLD (R255). -/
def execAccld (_g : GArgs) (s : State) : Result := fireLoad s
/-- MXTILE (R258, R259): the part that steps, or the part that reads the tile out into its body. -/
def execMxtile (_g : GArgs) (s : State) : Result :=
  match cursorNode s with
  | some (_, _, _, n) => if n.refs.length = 1 then fireReader s else fireEngine s
  | none => .next s

end Sys2Proof.Machine
end

