-- ==== Sys2Proof/Machine/System.lean ====
section
/-! DEFINITION. System registers (R457 to R464), SYSRD, SYSWR, RDTIME and TCONV (R465, R466, R469), the register writes that
act (R109, R134, R311, R327, R417, R449, R461, R462, R468), start-up and firmware (R471 to R473), scan (R474) and clock steps
(R475). -/

namespace Sys2Proof.Machine

/-! ## Reading (R6, R7, R458) -/

def word (n : Nat) : W64 := BitVec.ofNat 64 n

/-- The bits of a register's fields hi:lo of a written value, at their places. -/
def keep (v : W64) (fields : List (Nat × Nat)) : W64 := fields.foldl (fun (x : W64) f => wset x f.1 f.2 (wbits v f.1 f.2)) 0#64

/-- Planes of a context that are not FREE. -/
def State.planesOf (s : State) (c : Nat) : Nat := (s.planes.filter fun x => x.2.ctx = c ∧ x.2.st ≠ .free).length

/-- CTX_FPFLAGS as it reads (R133). -/
def State.ctxFlags (s : State) (c : Nat) : FpFlags :=
  (s.planes.filter fun x => x.2.ctx = c ∧ x.2.st ≠ .free).foldl (fun f x => f ||| x.2.flags) (s.ctx c).fpflags

/-- Register n of a context block (R458); none where the index is unassigned. -/
def State.ctxReg (s : State) (c n : Nat) : Option W64 :=
  let x := s.ctx c
  match n with
  | 0 => some (word (x.state + min (s.planesOf c) 65535 * 2 ^ 8))
  | 1 => some x.seed
  | 2 => some (word x.depcount)
  | 3 => some (word (x.deplimit % 2 ^ 48 + if x.dephit then 2 ^ 63 else 0))
  | 4 => some ((s.ctxFlags c).setWidth 64)
  | 5 => some (x.trapen.setWidth 64)
  | 6 => some (word (x.capPrio + (if x.irq then 16 else 0) + x.quota * 2 ^ 16 + x.launches.length * 2 ^ 32 + s.held c * 2 ^ 40 + x.lost * 2 ^ 56))
  | 7 => some (x.taken ++ x.badCount)
  | 8 => some (word (x.x0 + x.y0 * 2 ^ 8 + x.w * 2 ^ 16 + x.h * 2 ^ 24))
  | 9 => some x.ptbase
  | 10 | 11 | 12 | 13 => some ((x.pswin[n - 10]?).getD 0#64)
  | 14 => some x.binbase
  | 15 => some x.binrec
  | 16 => some x.binctl
  | 17 => some x.peer
  | 18 => some x.handler
  | 19 => some x.traparea
  | 20 => some x.fail
  | 21 => some x.savearea
  | 22 => some (word x.saveused)
  | _ => none

/-- Pages of the tack store that entries with a property take (R109). -/
def State.tackPages (s : State) (ok : Nat × TackEntry → Bool) : Nat := (s.tack.filter ok).foldl (fun n e => n + e.2.pages) 0

/-- TACK_STATUS (R109), DISP_STATUS (R395), BOOT_STATUS (R471), FW_CTL (R472), CLK_STATUS (R475). -/
def State.tackStatus (s : State) : W64 :=
  word (s.tackPages (fun _ => true) % 2 ^ 15 + s.tackPages (fun e => s.pinned e.1) % 2 ^ 15 * 2 ^ 15 + s.tack.length % 2 ^ 13 * 2 ^ 35 +
    (s.tack.filter fun e => e.2.retiring).length % 2 ^ 13 * 2 ^ 48)
def State.dispStatus (s : State) : W64 :=
  word (generalColours - s.generalUsed + (allColours - generalColours - s.reservedUsed) * 2 ^ 12 +
    min (s.tasks.filter fun t => t.2.st = .ready).length 4095 * 2 ^ 32)
def Regs.bootStatus (r : Regs) : W64 := word (r.stage % 2 ^ 8 + r.bootErr % 2 ^ 8 * 2 ^ 8 + r.bootSlot % 2 * 2 ^ 16)
def Regs.fwCtl (r : Regs) : W64 := word (r.fwAddr % 2 ^ 28 * 2 ^ 12 + r.fwResult % 4 * 2 ^ 60 + if r.fwBusy then 2 ^ 62 else 0)
def Regs.clkStatus (r : Regs) : W64 := word (r.clkCur % 2 ^ 8 + r.clkLow % 2 ^ 8 * 2 ^ 8 + r.clkSteps.toNat * 2 ^ 32)

/-- A device register (R457); none where the address is unassigned or belongs to a context. -/
def State.deviceReg (s : State) (a : Nat) : Option W64 :=
  let r := s.regs
  if a = 0 then some r.devId
  else if a = 1 then some r.devRows
  else if a = 2 then some r.bootStatus
  else if a = 3 then some r.fwCtl
  else if a = 4 then some r.fwRecover
  else if a = 8 then some r.policy
  else if a = 9 then some r.trnGen
  else if a = 0xA then some s.tackStatus
  else if a = 0x10 then some s.dispStatus
  else if a = 0x11 then some r.actBudget
  else if a = 0x12 then some r.actLo
  else if a = 0x13 then some r.actHi
  else if a = 0x14 then some (word r.wdogExp)
  else if a = 0x15 then some (r.reloads ++ r.corrected)
  else if a = 0x16 then some (r.tlbInv ||| if r.tlbBusy then 1#64 <<< 63 else 0#64)
  else if a = 0x18 then some r.evqBase
  else if a = 0x19 then some r.evqPtr
  else if a = 0x1C then some r.clkStatus
  else if a = 0x1E then some r.scanCtl
  else if a = 0x1F then some r.scanData
  else if 0x20 ≤ a ∧ a ≤ 0x28 then some (s.dieTime (a - 0x20))
  else if 0x30 ≤ a ∧ a ≤ 0x38 then some ((r.heldOffsets[a - 0x30]?).getD 0#64)
  else if 0x40 ≤ a ∧ a ≤ 0x48 then some ((r.rates[a - 0x40]?).getD 0#64)
  else if 0x100 ≤ a ∧ a ≤ 0x1FF then some ((mapGet r.peerTab (a - 0x100)).getD 0#64)
  else none

/-- A register every one of whose fields is RZ in the unprivileged view (R459), by its address with the context's own
registers at the alias. -/
def privileged (a : Nat) : Bool :=
  (1 ≤ a && a ≤ 4) || a == 0x10 || a == 0x14 || a == 0x15 || a == 0x16 || a == 0x18 || a == 0x19 || a == 0x1E || a == 0x1F ||
  (0x20 ≤ a && a ≤ 0x28) || (0x100 ≤ a && a ≤ 0x1FF) || a == 0x7FE9 || a == 0x7FF2 || a == 0x7FF3 || a == 0x7FF5

/-- A register as a graph of a context reads it; none where the access takes fault 0x50 (R459). -/
def State.graphReg (s : State) (c a : Nat) : Option W64 :=
  if privileged a ∨ 0x8000 ≤ a then none
  else if 0x7FE0 ≤ a then s.ctxReg c (a - 0x7FE0)
  else s.deviceReg a

/-- A register as the driver reads it in BAR0, the alias and unassigned addresses as zero; before start-up is complete only BOOT_STATUS,
FW_CTL and FW_RECOVER answer (R457, R471). That a read of SCAN_DATA moves its index on is SCAN_DATA_READ. -/
def State.driverReg (s : State) (a : Nat) : W64 :=
  if s.regs.stage ≠ 5 ∧ ¬ (2 ≤ a ∧ a ≤ 4) then 0#64
  else if 0x8000 ≤ a then (s.ctxReg ((a - 0x8000) / 32) (a % 32)).getD 0#64
  else if 0x7FE0 ≤ a then 0#64
  else (s.deviceReg a).getD 0#64

/-- A read of n bytes at an offset of BAR0: the task window, what is reserved, and any access to the registers that is not of 8 aligned
bytes read as zero (R386, R387). -/
def State.readBar0 (s : State) (off n : Nat) : W64 :=
  if n = 8 ∧ off % 8 = 0 ∧ off < 0x80000 then s.driverReg (off / 8) else 0#64

/-! ## Writes that act -/

/-- The activity registers: 0 ACT_BUDGET, 1 ACT_WEIGHT_LO, 2 ACT_WEIGHT_HI; the old value may serve for 64 cycles (R417). -/
def State.writeAct (s : State) (which : Nat) (v : W64) : State :=
  let r := s.regs
  let old := match which with | 0 => r.actBudget | 1 => r.actLo | _ => r.actHi
  let r := { r with actPending := (r.actPending.filter fun (w : Nat × W64 × Nat) => w.1 ≠ which) ++ [(which, old, s.cycle + 64)] }
  { s with regs := match which with
      | 0 => { r with actBudget := keep v [(23, 0)] }
      | 1 => { r with actLo := v }
      | _ => { r with actHi := v } }

/-- A write to a die's offset is held (R468). -/
def State.writeOffset (s : State) (d : Nat) (v : W64) : State :=
  { s with regs := { s.regs with heldOffsets := modifyAt s.regs.heldOffsets d fun _ => v } }

/-- A nonzero write to a die's rate applies it with the held offset (R468). -/
def State.writeRate (s : State) (d : Nat) (v : W64) : State :=
  if v = 0#64 then s
  else
    let r := s.regs
    let off := (r.heldOffsets[d]?).getD 0#64
    { s with regs := { r with rates := modifyAt r.rates d fun _ => v, offsets := modifyAt r.offsets d fun _ => off } }

/-- Every unpinned entry of the tack store is freed (R109). -/
def State.flushTack (s : State) : State := { s with tack := s.tack.filter fun e => s.pinned e.1 }

/-- An invalidation starts, unless one runs (R311). -/
def State.startInvalidation (s : State) (v : W64) : State :=
  if s.regs.tlbBusy then s
  else { s with regs := { s.regs with tlbBusy := true, tlbInv := keep v [(62, 52), (39, 0)] } }

/-- Whether an invalidation removes a TLB entry. -/
def TlbEntry.hitBy (e : TlbEntry) (v : W64) : Bool :=
  decide (e.asid = wbits v 61 52) && (v.getLsbD 62 || decide (wbits v 39 0 * 2 ^ 16 / 2 ^ e.bits = e.page))

/-- A context goes live: its counting registers take their reset values (R462). -/
def Ctx.makeLive (x : Ctx) : Ctx :=
  { x with state := 1, fpflags := 0#5, depcount := 0, dephit := false, taken := 0#32, badCount := 0#32, lost := 0, fail := 0#64 }

/-- The write that takes a context from OFF to LIVE. -/
def State.makeLive (s : State) (c : Nat) : State := if (s.ctx c).state = 0 then s.modCtx c (·.makeLive) else s

/-- The write that takes a context from LIVE to OFF, once it has no plane, no colour and no buffered record (R461). -/
def State.makeOff (s : State) (c : Nat) : State :=
  let x := s.ctx c
  if x.state = 1 ∧ s.planesOf c = 0 ∧ s.held c = 0 ∧ x.launches.isEmpty then
    (s.setCtx c { x with state := 0, handlerEntry := none, handlerOld := [], graphs := [] }).sweepTack
  else s

/-- The write that takes a context from FAILED to OFF, once its teardown is complete (R461). -/
def State.clearFailed (s : State) (c : Nat) : State :=
  let x := s.ctx c
  if x.state = 2 ∧ x.fail.getLsbD 63 then s.setCtx c { x with state := 0 } else s

/-- Flags written as 1 are cleared in the context's word and in its planes' (R134). -/
def State.clearFlags (s : State) (c : Nat) (v : W64) : State :=
  let mask : FpFlags := ~~~(v.setWidth 5)
  let s := s.modCtx c fun x => { x with fpflags := x.fpflags &&& mask }
  { s with pads := s.pads.map fun kd => (kd.1, { kd.2 with planes := kd.2.planes.map fun pl =>
      if pl.ctx = c ∧ pl.st ≠ .free then { pl with flags := pl.flags &&& mask } else pl }) }

/-- Bins that the other contexts of a die's engine have. -/
def State.otherBins (s : State) (c md : Nat) : Nat :=
  (s.ctxs.filter fun x => x.1 ≠ c ∧ wbits x.2.binctl 47 46 = md).foldl (fun n x => n + wbits x.2.binctl 28 16) 0

/-- A write to CTX_BINCTL (R327). -/
def State.writeBinctl (s : State) (c : Nat) (v : W64) : State :=
  let v := keep v [(63, 46), (28, 16), (14, 0)]
  if s.otherBins c (wbits v 47 46) + wbits v 28 16 > 4096 then s
  else s.modCtx c fun x => { x with binctl := v, bins := [] }

/-- A write to CTX_SAVEAREA lifts the block on lazy claims (R446, R449). -/
def State.writeSavearea (s : State) (c : Nat) (v : W64) : State :=
  s.modCtx c fun x => { x with savearea := keep v [(63, 52), (39, 4)], noClaims := false }

/-- A plane takes a new priority; a raised level stays raised. -/
def Plane.recap (pl : Plane) (prio : Nat) : Plane :=
  { pl with prio, level := if pl.level = pl.prio then prio else max pl.level prio }
/-- What a cap does to a plane of context c. -/
def State.recapped (s : State) (c cap : Nat) (pl : Plane) : Plane :=
  if pl.ctx ≠ c ∨ pl.st = .free then pl
  else
    match s.taskOf pl with
    | none => pl
    | some t => pl.recap (min t.prio cap)

/-- A write to CTX_TASKS; the cap acts on the priorities of the context's planes (R394, R410). -/
def State.writeTasks (s : State) (c : Nat) (v : W64) : State :=
  let cap := wbits v 2 0
  let s := s.modCtx c fun x =>
    { x with lost := wbits v 63 56, quota := min (wbits v 27 16) 4032, irq := v.getLsbD 4, capPrio := cap }
  { s with pads := s.pads.map fun kd => (kd.1, { kd.2 with planes := kd.2.planes.map (s.recapped c cap) }) }

/-- A write to CTX_REGION, unless the rectangle leaves the grid (R408). -/
def State.writeRegion (s : State) (c : Nat) (v : W64) : State :=
  let x0 := wbits v 6 0
  let y0 := wbits v 14 8
  let w := wbits v 22 16
  let h := wbits v 30 24
  if w = 0 ∨ h = 0 ∨ x0 + w > 80 ∨ y0 + h > 72 then s else s.modCtx c fun x => { x with x0, y0, w, h }

/-- A driver's write to CTX_STATUS.state (R461). -/
def State.writeStatus (s : State) (c : Nat) (v : W64) : State :=
  match wbits v 1 0, (s.ctx c).state with
  | 1, 0 => s.makeLive c
  | 0, 1 => s.makeOff c
  | 0, 2 => s.clearFailed c
  | _, _ => s

/-- A driver's write to register n of a context block. -/
def State.writeCtx (s : State) (c n : Nat) (v : W64) : State :=
  match n with
  | 0 => s.writeStatus c v
  | 1 => s.modCtx c fun x => { x with seed := v }
  | 2 => s.modCtx c fun x => { x with depcount := wbits v 47 0 }
  | 3 => s.modCtx c fun x => { x with deplimit := wbits v 47 0, dephit := x.dephit && !v.getLsbD 63 }
  | 4 => s.clearFlags c v
  | 5 => s.modCtx c fun x => { x with trapen := v.setWidth 8 &&& 0xDF#8 }
  | 6 => s.writeTasks c v
  | 7 => s.modCtx c fun x => { x with taken := (v >>> 32).setWidth 32, badCount := v.setWidth 32 }
  | 8 => s.writeRegion c v
  | 9 => s.modCtx c fun x => { x with ptbase := keep v [(39, 16), (0, 0)] }
  | 10 | 11 | 12 | 13 => s.modCtx c fun x => { x with pswin := modifyAt x.pswin (n - 10) fun _ => keep v [(31, 16), (14, 0)] }
  | 14 => s.modCtx c fun x => { x with binbase := keep v [(59, 0)] }
  | 15 => s.modCtx c fun x => { x with binrec := keep v [(55, 16)] }
  | 16 => s.writeBinctl c v
  | 17 => s.modCtx c fun x => { x with peer := keep v [(15, 0)] }
  | 18 => (s.modCtx c fun x => { x with handler := keep v [(63, 3), (0, 0)], handlerEntry := none, handlerOld := [] }).sweepTack
  | 19 => s.modCtx c fun x => { x with traparea := keep v [(63, 55), (39, 12), (0, 0)] }
  | 20 => s.modCtx c fun x => { x with fail := if v.getLsbD 63 then x.fail &&& ~~~(1#64 <<< 63) else x.fail }
  | 21 => s.writeSavearea c v
  | _ => s

/-! ## Firmware (R472, R473) -/

/-- The security engine accepts an image: both signatures, and its generation against the fused floor (R471). -/
def imageOk (f : Firmware) (i : FwImage) : Bool := i.sigOk && decide (f.fused.toNat ≤ i.generation.toNat)

/-- Writes of 1 to FW_CTL.go on a running device: the image is verified and written to the slot that is not running, and an
activation begins; or the refusal is reported. -/
def State.activate (s : State) (i : FwImage) : State :=
  let r := s.regs
  let refuse (k : Nat) : State := { s with regs := { r with fwResult := k, fwBusy := false } }
  if ¬ i.sigOk then refuse 2
  else if ¬ imageOk s.firmware i ∨ i.generation.toNat ≤ r.genCurrent.toNat then refuse 3
  else
    let b := s.firmware.running = some false
    { s with regs := { r with fwBusy := true, fwResult := 0 }
             firmware := { s.firmware with
               slotA := if b then s.firmware.slotA else i, slotB := if b then i else s.firmware.slotB, first := b, pending := some (b, i) } }

/-! ## Start-up (R471) -/

/-- The slots in the order in which they are tried. -/
def Firmware.order (f : Firmware) : List (Bool × FwImage) :=
  if f.first then [(true, f.slotB), (false, f.slotA)] else [(false, f.slotA), (true, f.slotB)]

/-- What start-up leaves of a device whose power has just come: everything at reset, with the package's flash, the host's
memory and what has been sent. -/
def State.restart (s : State) (f : Firmware) : State :=
  { State.reset with firmware := { f with pending := none, running := none }, host := s.host, link := s.link, sent := s.sent,
                     nextId := s.nextId, fresh := s.fresh, agenda := s.agenda, arg := s.arg, cursor := s.cursor }

/-- Start-up has failed at a step (R471). -/
def State.bootFailed (s : State) (error : Nat) : State := { s with regs := { s.regs with stage := 0xFF, bootErr := error } }

/-- A list of nine values with the reset value of pair 8. -/
def calibrated (vs : List W64) (reset : W64) : List W64 :=
  (List.range 9).map fun d => if d = 8 then reset else (vs[d]?).getD reset

/-- The part record names one physical row of each die, with an index from 0 to 36 (R15). A record that does not is a failure of
the step that reads it (DESIGN CHOICE, log 106). -/
def rowsOk (rows : List (BitVec 6)) : Bool := rows.length == 4 && rows.all fun r => decide (r.toNat ≤ 36)

/-- DEV_ROWS from the part record (R464). -/
def devRows (rows : List (BitVec 6)) : W64 :=
  word ((List.range 4).foldl (fun n d => n + ((rows[d]?).getD 0#6).toNat * 2 ^ (8 * d)) 0)

/-- The registers when start-up is complete. -/
def bootRegs (b : BootFacts) (slot : Bool) (i : FwImage) : Regs :=
  let offsets := calibrated b.offsets 0#64
  { devId := 0x8800_0300_0000_0000#64 ||| b.serial.setWidth 64
    devRows := devRows b.rows, stage := 5, bootSlot := if slot then 1 else 0
    genFloor := i.floor, genCurrent := i.generation, offsets, heldOffsets := offsets
    rates := calibrated b.rates 0x0001_0000_0000_0000#64, recordHash := b.recordHash }

/-- Start-up from step 1 (R471): every step in order, with what the package holds. -/
def State.boot (s : State) (b : BootFacts) (f : Firmware) : State :=
  let s := s.restart f
  match f.order.find? fun x => imageOk f x.2 with
  | none => s.bootFailed 1
  | some (slot, i) =>
    let s : State := { s with firmware := { s.firmware with running := some slot }, regs := { s.regs with bootSlot := if slot then 1 else 0 } }
    if ¬ b.recordOk ∨ rowsOk b.rows = false then s.bootFailed 2
    else if ¬ b.steppings.getLsbD 0 then s.bootFailed 5
    else if ¬ b.diesOk then s.bootFailed 3
    else if ¬ b.trainOk then s.bootFailed 4
    else { s with regs := bootRegs b slot i }

/-- The firmware state at power-on: the flash as it was left, or as the package came. -/
def Firmware.atPower (f : Firmware) (b : BootFacts) : Firmware :=
  if f.known then f else { f with known := true, slotA := b.slotA, slotB := b.slotB, fused := b.fusedFloor }

/-- POWER_ON (R471). -/
def execPowerOn (s : State) : Result := .next (s.boot s.arg.boot (s.firmware.atPower s.arg.boot))

/-- The image that a failed device reads over the host link (R473): it is written to slot A and the device restarts, or the
refusal is reported. -/
def State.recover (s : State) (i : FwImage) (b : BootFacts) : State :=
  if s.regs.bootErr = 0 ∨ s.regs.bootErr > 5 then s
  else if ¬ i.sigOk then { s with regs := { s.regs with fwResult := 2 } }
  else if ¬ imageOk s.firmware i then { s with regs := { s.regs with fwResult := 3 } }
  else s.boot b { s.firmware with slotA := i, first := false }

/-- A write to FW_CTL (R472, R473): addr takes the written bits whatever go does, as each field applies its own code to its own
bits (R6). While busy is set the write has no effect (R472). -/
def State.writeFwCtl (s : State) (v : W64) (i : FwImage) (b : BootFacts) : State :=
  if s.regs.fwBusy then s
  else
    let s : State := { s with regs := { s.regs with fwAddr := wbits v 39 12 } }
    if ¬ v.getLsbD 63 then s
    else if s.regs.stage = 0xFF then s.recover i b
    else s.activate i

/-! ## A driver's write (R457) -/

/-- A driver's write to a device register. -/
def State.writeDeviceReg (s : State) (a : Nat) (v : W64) : State :=
  let r := s.regs
  if a = 8 then { s with regs := { r with policy := keep v [(8, 0)] } }
  else if a = 0xA then (if v.getLsbD 63 then s.flushTack else s)
  else if a = 0x11 then s.writeAct 0 v
  else if a = 0x12 then s.writeAct 1 v
  else if a = 0x13 then s.writeAct 2 v
  else if a = 0x14 then
    (if 16 ≤ wbits v 5 0 ∧ wbits v 5 0 ≤ 40 then { s with regs := { r with wdogExp := wbits v 5 0 } } else s)
  else if a = 0x15 then { s with regs := { r with reloads := (v >>> 32).setWidth 32, corrected := v.setWidth 32 } }
  else if a = 0x16 then s.startInvalidation v
  else if a = 0x18 then { s with regs := { r with evqBase := keep v [(63, 12), (10, 8), (0, 0)] } }
  else if a = 0x19 then { s with regs := { r with evqPtr := keep v [(31, 16), (14, 0)] ||| keep r.evqPtr [(46, 32)] } }
  else if a = 0x1C then { s with regs := { r with clkSteps := (v >>> 32).setWidth 32, clkLow := wbits v 15 8 } }
  else if a = 0x1E then { s with regs := { r with scanCtl := keep v [(63, 48), (31, 0)] } }
  else if 0x30 ≤ a ∧ a ≤ 0x38 then s.writeOffset (a - 0x30) v
  else if 0x40 ≤ a ∧ a ≤ 0x48 then s.writeRate (a - 0x40) v
  else if 0x100 ≤ a ∧ a ≤ 0x1FF then { s with regs := { r with peerTab := mapSet r.peerTab (a - 0x100) (keep v [(63, 53), (47, 0)]) } }
  else s

/-- A driver's write of register `a` in BAR0. Before start-up is complete only BOOT_STATUS, FW_CTL and FW_RECOVER answer. -/
def State.writeReg (s : State) (a : Nat) (v : W64) (i : FwImage) (b : BootFacts) : State :=
  if a = 3 then s.writeFwCtl v i b
  else if a = 4 then { s with regs := { s.regs with fwRecover := keep v [(63, 12)] } }
  else if s.regs.stage ≠ 5 then s
  else if 0x8000 ≤ a then s.writeCtx ((a - 0x8000) / 32) (a % 32) v
  else s.writeDeviceReg a v

/-- REGISTER_WRITE (R6): the driver writes `value` to register `index`; a write that starts firmware finds `image`. -/
def execRegisterWrite (s : State) : Result :=
  .next (s.writeReg (s.arg.index % 2 ^ 16) s.arg.value s.arg.image s.arg.boot)

/-- The address of register n of a context. -/
def ctxAddr (c n : Nat) : Nat := 0x8000 + 32 * c + n

/-- A driver's write to a register of the stimulus's context. -/
def writeOwn (s : State) (n : Nat) (v : W64) : Result := .next (s.writeReg (ctxAddr s.arg.context.toNat n) v {} {})

/-- TACK_FLUSH (R109). -/
def execTackFlush (s : State) : Result := .next (s.writeReg 0xA (1#64 <<< 63) {} {})

/-- TLB_INV_START (R311). -/
def execTlbInvStart (s : State) : Result := .next (s.writeReg 0x16 s.arg.value {} {})

/-- A walk of an address space whose entries an invalidation removes begins again, so that no table that it met before is used after
the invalidation (R312). -/
def Walk.restart (w : Walk) (inv : W64) : Walk := if w.asid = wbits inv 61 52 then { w with met := [] } else w

/-- TLB_INV_DONE (R311): the removal is complete on all four dies. -/
def execTlbInvDone (s : State) : Result :=
  if ¬ s.regs.tlbBusy then .next s
  else .next { s with regs := { s.regs with tlbBusy := false }, tlbs := s.tlbs.filter fun e => !e.2.hitBy s.regs.tlbInv
                      walks := s.walks.map (·.restart s.regs.tlbInv) }

/-- FW_ACTIVATE (R472): FW_CTL is written with go set on a running device. -/
def execFwActivate (s : State) : Result :=
  if s.regs.stage = 0xFF then .next s else .next (s.writeReg 3 (s.arg.value ||| (1#64 <<< 63)) s.arg.image {})

/-- FW_RECOVERY (R473): FW_CTL is written with go set on a device whose start-up has failed. -/
def execFwRecovery (s : State) : Result :=
  if s.regs.stage ≠ 0xFF then .next s else .next (s.writeReg 3 (s.arg.value ||| 1#64 <<< 63) s.arg.image s.arg.boot)

/-- FW_ACTIVATION (R105, R472): the generation rises, every entry is retiring, and event 6 is sent. -/
def execFwActivation (s : State) : Result :=
  match s.firmware.pending with
  | none => .next s
  | some (slot, i) =>
    if s.tack.any fun e => e.2.filling then .next s
    else
    let r := { s.regs with genCurrent := i.generation, genFloor := i.floor, fwBusy := false, fwResult := 1, bootSlot := if slot then 1 else 0 }
    let s : State := { s with regs := r, firmware := { s.firmware with pending := none, running := some slot }
                              tack := s.tack.map fun e => (e.1, { e.2 with retiring := true }) }
    .next (s.sweepTack.sendEvent 6 deviceCtx i.generation.toNat)

/-- CTX_MAKE_LIVE (R462). -/
def execCtxMakeLive (s : State) : Result :=
  if (s.ctx s.arg.context.toNat).state ≠ 0 then .next s else writeOwn s 0 1#64

/-- CTX_MAKE_OFF (R461). -/
def execCtxMakeOff (s : State) : Result :=
  if (s.ctx s.arg.context.toNat).state ≠ 1 then .next s else writeOwn s 0 0#64

/-- CTX_CLEAR_FAILED (R461). -/
def execCtxClearFailed (s : State) : Result :=
  if (s.ctx s.arg.context.toNat).state ≠ 2 then .next s else writeOwn s 0 0#64

/-- FPFLAGS_CLEAR (R134). -/
def execFpflagsClear (s : State) : Result := writeOwn s 4 s.arg.value

/-- BINCTL_WRITE (R327). -/
def execBinctlWrite (s : State) : Result := writeOwn s 16 s.arg.value

/-- SAVEAREA_WRITE (R446, R449). -/
def execSaveareaWrite (s : State) : Result := writeOwn s 21 s.arg.value

/-- ACT_BUDGET_WRITE (R417, R418): `index` 0 is ACT_BUDGET, 1 ACT_WEIGHT_LO, 2 ACT_WEIGHT_HI. -/
def execActBudgetWrite (s : State) : Result := .next (s.writeReg (0x11 + s.arg.index % 3) s.arg.value {} {})

/-- DIE_TIME_OFFSET_WRITE (R468): the pair of die `index`. -/
def execDieTimeOffsetWrite (s : State) : Result := .next (s.writeReg (0x30 + s.arg.index % 9) s.arg.value {} {})

/-- DIE_TIME_RATE_WRITE (R468). -/
def execDieTimeRateWrite (s : State) : Result := .next (s.writeReg (0x40 + s.arg.index % 9) s.arg.value {} {})

/-- SCAN_DATA_READ (R422, R474): a word of a FROZEN plane is native and left free; of any other plane it is zero. -/
def execScanDataRead (s : State) : Result :=
  let r := s.regs
  if r.stage ≠ 5 then .next s
  else
    let x := wbits r.scanCtl 63 57
    let y := wbits r.scanCtl 56 50
    let frozen := s.pads.any fun kd => kd.2.spans x (x + 1) y (y + 1) &&
      decide (((kd.2.planes[wbits r.scanCtl 49 48]?).map (·.st)) = some .frozen)
    let v := if frozen then Config.freeWord s.fresh else 0#64
    .next { s with fresh := s.fresh + 1
                   regs := { r with scanData := v, scanCtl := wset r.scanCtl 31 0 (wbits r.scanCtl 31 0 + 1) } }

/-! ## Clock steps (R475) -/

/-- Ticks of the configuration die's counter since the last clock step are at least n. -/
def State.stepDue (s : State) (n : Nat) : Bool := (s.regs.clkAt.map fun t => decide (t + n ≤ (s.dieTime 8).toNat)).getD true

/-- The clock takes a new value, in units of 100 MHz. -/
def State.stepClock (s : State) (cur : Nat) (down : Bool) : State :=
  let r := s.regs
  let s : State := { s with regs := { r with
    clkCur := cur, clkLow := min r.clkLow cur, clkSteps := if down then satAdd r.clkSteps else r.clkSteps, clkAt := some (s.dieTime 8).toNat } }
  s.sendEvent 5 deviceCtx cur

/-- CLOCK_STEP_DOWN: a sensor reads above 105 °C. -/
def execClockStepDown (s : State) : Result :=
  if s.regs.stage ≠ 5 ∨ s.regs.clkCur ≤ 18 ∨ ¬ s.stepDue 10000 then .next s else .next (s.stepClock (s.regs.clkCur - 1) true)

/-- CLOCK_STEP_UP: every sensor reads below 100 °C. -/
def execClockStepUp (s : State) : Result :=
  if s.regs.stage ≠ 5 ∨ s.regs.clkCur ≥ 36 ∨ ¬ s.stepDue 1000000 then .next s else .next (s.stepClock (s.regs.clkCur + 1) false)

/-- THERMAL_SHUTDOWN: a sensor has stayed above 105 °C for 1 s at 1.8 GHz. The fabric clock stops: nothing of the fabric and
the dispatcher moves again before a reset, which leaves nothing of them. -/
def execThermalShutdown (s : State) : Result :=
  if s.regs.stage ≠ 5 ∨ s.regs.clkCur ≠ 18 ∨ ¬ s.stepDue 1000000000 then .next s
  else .next { s with regs := { s.regs with stage := 0xFF, bootErr := 6 }, pads := [], tasks := [], waiting := [], walks := []
                      ports := [], saves := [], flithe := [], link := none }

/-! ## SYSRD, SYSWR (R466) -/

/-- The context of the plane that the present step fires in. -/
def cursorCtx (s : State) : Nat := match cursorNode s with | some (_, _, pl, _) => pl.ctx | none => 0

/-- SYSRD. -/
def execSysrd (g : GArgs) (s : State) : Result :=
  fireRouter s g fun v => v.unary fun _ =>
    match s.graphReg (cursorCtx s) (g.bits 15 0) with
    | some x => .ok x
    | none => .fault 0x50

/-- What an unprivileged write changes: of the registers that a graph reaches, CTX_TRAPEN alone has fields it may write. -/
def State.graphWrite (s : State) (c a : Nat) (v : W64) : State :=
  if a = 0x7FE5 then s.writeCtx c 5 v else s

/-- SYSWR. -/
def execSyswr (g : GArgs) (s : State) : Result :=
  let a := g.bits 15 0
  let r := fireRouter s g fun v =>
    match v.a with
    | none => .wait
    | some t =>
      if t.isMarker then .fires { takes := takeOne [.a], emits := if t.level ≥ 6 then [(sinkTarget, t)] else [] }
      else if t.isPoison then
        if v.poisonTrap then v.fail [.a] 0x30 else .fires { takes := takeOne [.a], emits := outAck, counted := true }
      else if (s.graphReg (cursorCtx s) a).isNone then v.fail [.a] 0x50
      else .fires { takes := takeOne [.a], emits := outAck, data := 1, counted := true }
  match cursorNode s, r with
  | some (p, i, pl, n), .next s' =>
    let fired := ((s'.plane? p).bind fun pl => pl.nodes[i]?).any fun m => decide (m.firings = n.firings + 1)
    match n.a.head with
    | some (.data v) => if fired ∧ (s.graphReg pl.ctx a).isSome then .next (s'.graphWrite pl.ctx a v) else .next s'
    | _ => .next s'
  | _, r => r

/-! ## RDTIME and TCONV (R466, R469) -/

/-- conv of R469: a reading of die s as one of die d; 15 is the package timebase. -/
def State.conv (s : State) (r : W64) (src dst : Nat) : W64 :=
  let p : Int := if src = 15 then r.toNat else s.commonTime src r
  if dst = 15 then BitVec.ofInt 64 p
  else
    let off := ((s.regs.offsets[dst]?).getD 0#64).toInt
    let rate := ((s.regs.rates[dst]?).getD 0#64).toNat
    BitVec.ofNat 64 (((p - off) % (2 ^ 64 : Nat)).toNat * 2 ^ 48 / rate)

/-- A firing that answers a pair of values to A and B. -/
def View.pairOut (v : View) (f : W64 → W64 × W64) : Firing :=
  match v.a with
  | none => .wait
  | some t =>
    if t.isData then
      let r := f t.val
      .fires { takes := takeOne [.a], emits := [(0, .data r.1), (1, .data r.2)], data := 1, counted := true }
    else v.unary fun x => .ok x

/-- RDTIME. -/
def execRdtime (g : GArgs) (s : State) : Result :=
  fireRouter s g fun v => v.pairOut fun _ =>
    let d := match cursorNode s with | some (_, _, _, n) => placeDie n.place | none => 0
    let r := s.dieTime d
    (if g.opt.getLsbD 0 then s.conv r d 15 else r, BitVec.ofNat 64 d)

/-- A value that names a die or the package timebase (R465). -/
def dieOk (d : Nat) : Bool := decide (d ≤ 8) || d == 15

/-- TCONV. -/
def execTconv (g : GArgs) (s : State) : Result :=
  let to_ := g.bits 3 0
  fireRouter s g fun v =>
    if g.imm then v.unary fun r => .ok (s.conv r (g.bits 7 4) to_)
    else v.element [.a, .b] [0, 1] fun xs => match xs with
      | [r, d] => if dieOk d.toNat then .ok (s.conv r d.toNat to_) else .fault 0x44
      | _ => .ok 0#64

end Sys2Proof.Machine
end

