-- ==== Sys2Proof/Machine/TaskOps.lean ====
section
/-! DEFINITION. The task-form instructions: the shared operations of R149 in register and immediate form, and the
channel, control, request and walker instructions of R230 to R240. -/

namespace Sys2Proof.Machine

/-- The issue cycles and latencies of R142 for the matching 32-bit operation; the class is always 5 (R225). -/
def costTask (issue lat : Nat) : Cost := ⟨issue, lat, 5, false⟩

/-! ## Integer and bit operations, CMP and SEL (R149, R151, R153 to R156) -/

/-- ADD, register form (R151). -/
def execTaskAddReg (d a b : BitVec 4) (n : BitVec 1) (s : State) : Result :=
  runTask s (costTask 1 1) fun x => x.shared d a (.reg b) false fun u v _ => .ok (intAdd (taskInt n) u v)
/-- ADD, immediate form (R151). -/
def execTaskAddImm (d a : BitVec 4) (n : BitVec 1) (i : BitVec 12) (s : State) : Result :=
  runTask s (costTask 1 1) fun x => x.shared d a (.imm i) false fun u v _ => .ok (intAdd (taskInt n) u v)
/-- SUB, register form (R151). -/
def execTaskSubReg (d a b : BitVec 4) (n : BitVec 1) (s : State) : Result :=
  runTask s (costTask 1 1) fun x => x.shared d a (.reg b) false fun u v _ => .ok (intSub (taskInt n) u v)
/-- SUB, immediate form (R151). -/
def execTaskSubImm (d a : BitVec 4) (n : BitVec 1) (i : BitVec 12) (s : State) : Result :=
  runTask s (costTask 1 1) fun x => x.shared d a (.imm i) false fun u v _ => .ok (intSub (taskInt n) u v)
/-- MUL, register form (R151). -/
def execTaskMulReg (d a b : BitVec 4) (n : BitVec 1) (s : State) : Result :=
  runTask s (costTask 1 3) fun x => x.shared d a (.reg b) false fun u v _ => .ok (intMul (taskInt n) u v)
/-- MUL, immediate form (R151). -/
def execTaskMulImm (d a : BitVec 4) (n : BitVec 1) (i : BitVec 12) (s : State) : Result :=
  runTask s (costTask 1 3) fun x => x.shared d a (.imm i) false fun u v _ => .ok (intMul (taskInt n) u v)
/-- MULHI, register form (R151). -/
def execTaskMulhiReg (d a b : BitVec 4) (n : BitVec 1) (s : State) : Result :=
  runTask s (costTask 1 3) fun x => x.shared d a (.reg b) false fun u v _ => .ok (intMulhi (taskInt n) u v)
/-- MULHI, immediate form (R151). -/
def execTaskMulhiImm (d a : BitVec 4) (n : BitVec 1) (i : BitVec 12) (s : State) : Result :=
  runTask s (costTask 1 3) fun x => x.shared d a (.imm i) false fun u v _ => .ok (intMulhi (taskInt n) u v)
/-- MAD, register form (R151). -/
def execTaskMadReg (d a b : BitVec 4) (n : BitVec 1) (s : State) : Result :=
  runTask s (costTask 1 3) fun x => x.shared d a (.reg b) true fun u v w => .ok (intMad (taskInt n) u v w)
/-- MAD, immediate form (R151). -/
def execTaskMadImm (d a : BitVec 4) (n : BitVec 1) (i : BitVec 12) (s : State) : Result :=
  runTask s (costTask 1 3) fun x => x.shared d a (.imm i) true fun u v w => .ok (intMad (taskInt n) u v w)
/-- DIV, register form (R151). -/
def execTaskDivReg (d a b : BitVec 4) (n : BitVec 1) (s : State) : Result :=
  runTask s (costTask 16 18) fun x => x.shared d a (.reg b) false fun u v _ => x.div (taskInt n) v (intDiv (taskInt n) u v)
/-- DIV, immediate form (R151). -/
def execTaskDivImm (d a : BitVec 4) (n : BitVec 1) (i : BitVec 12) (s : State) : Result :=
  runTask s (costTask 16 18) fun x => x.shared d a (.imm i) false fun u v _ => x.div (taskInt n) v (intDiv (taskInt n) u v)
/-- REM, register form (R151). -/
def execTaskRemReg (d a b : BitVec 4) (n : BitVec 1) (s : State) : Result :=
  runTask s (costTask 16 18) fun x => x.shared d a (.reg b) false fun u v _ => x.div (taskInt n) v (intRem (taskInt n) u v)
/-- REM, immediate form (R151). -/
def execTaskRemImm (d a : BitVec 4) (n : BitVec 1) (i : BitVec 12) (s : State) : Result :=
  runTask s (costTask 16 18) fun x => x.shared d a (.imm i) false fun u v _ => x.div (taskInt n) v (intRem (taskInt n) u v)
/-- NEG, register form (R151). -/
def execTaskNegReg (d a _b : BitVec 4) (n : BitVec 1) (s : State) : Result :=
  runTask s (costTask 1 1) fun x => x.shared d a .none false fun u _ _ => .ok (intNeg (taskInt n) u)
/-- NEG, immediate form (R151). -/
def execTaskNegImm (d a : BitVec 4) (n : BitVec 1) (i : BitVec 12) (s : State) : Result :=
  runTask s (costTask 1 1) fun x => x.shared d a (.imm i) false fun u _ _ => .ok (intNeg (taskInt n) u)
/-- ABS, register form (R151). -/
def execTaskAbsReg (d a _b : BitVec 4) (n : BitVec 1) (s : State) : Result :=
  runTask s (costTask 1 1) fun x => x.shared d a .none false fun u _ _ => .ok (intAbs (taskInt n) u)
/-- ABS, immediate form (R151). -/
def execTaskAbsImm (d a : BitVec 4) (n : BitVec 1) (i : BitVec 12) (s : State) : Result :=
  runTask s (costTask 1 1) fun x => x.shared d a (.imm i) false fun u _ _ => .ok (intAbs (taskInt n) u)
/-- MIN, register form (R151). -/
def execTaskMinReg (d a b : BitVec 4) (n : BitVec 1) (s : State) : Result :=
  runTask s (costTask 1 1) fun x => x.shared d a (.reg b) false fun u v _ => .ok (intMin (taskInt n) u v)
/-- MIN, immediate form (R151). -/
def execTaskMinImm (d a : BitVec 4) (n : BitVec 1) (i : BitVec 12) (s : State) : Result :=
  runTask s (costTask 1 1) fun x => x.shared d a (.imm i) false fun u v _ => .ok (intMin (taskInt n) u v)
/-- MAX, register form (R151). -/
def execTaskMaxReg (d a b : BitVec 4) (n : BitVec 1) (s : State) : Result :=
  runTask s (costTask 1 1) fun x => x.shared d a (.reg b) false fun u v _ => .ok (intMax (taskInt n) u v)
/-- MAX, immediate form (R151). -/
def execTaskMaxImm (d a : BitVec 4) (n : BitVec 1) (i : BitVec 12) (s : State) : Result :=
  runTask s (costTask 1 1) fun x => x.shared d a (.imm i) false fun u v _ => .ok (intMax (taskInt n) u v)
/-- ADDSAT, register form (R151). -/
def execTaskAddsatReg (d a b : BitVec 4) (n : BitVec 1) (s : State) : Result :=
  runTask s (costTask 1 1) fun x => x.shared d a (.reg b) false fun u v _ => .ok (intAddsat (taskInt n) u v)
/-- ADDSAT, immediate form (R151). -/
def execTaskAddsatImm (d a : BitVec 4) (n : BitVec 1) (i : BitVec 12) (s : State) : Result :=
  runTask s (costTask 1 1) fun x => x.shared d a (.imm i) false fun u v _ => .ok (intAddsat (taskInt n) u v)
/-- SUBSAT, register form (R151). -/
def execTaskSubsatReg (d a b : BitVec 4) (n : BitVec 1) (s : State) : Result :=
  runTask s (costTask 1 1) fun x => x.shared d a (.reg b) false fun u v _ => .ok (intSubsat (taskInt n) u v)
/-- SUBSAT, immediate form (R151). -/
def execTaskSubsatImm (d a : BitVec 4) (n : BitVec 1) (i : BitVec 12) (s : State) : Result :=
  runTask s (costTask 1 1) fun x => x.shared d a (.imm i) false fun u v _ => .ok (intSubsat (taskInt n) u v)
/-- AND, register form (R153). -/
def execTaskAndReg (d a b : BitVec 4) (n : BitVec 1) (s : State) : Result :=
  runTask s (costTask 1 1) fun x => x.shared d a (.reg b) false fun u v _ => .ok (bitAnd (taskInt n) u v)
/-- AND, immediate form (R153). -/
def execTaskAndImm (d a : BitVec 4) (n : BitVec 1) (i : BitVec 12) (s : State) : Result :=
  runTask s (costTask 1 1) fun x => x.shared d a (.imm i) false fun u v _ => .ok (bitAnd (taskInt n) u v)
/-- OR, register form (R153). -/
def execTaskOrReg (d a b : BitVec 4) (n : BitVec 1) (s : State) : Result :=
  runTask s (costTask 1 1) fun x => x.shared d a (.reg b) false fun u v _ => .ok (bitOr (taskInt n) u v)
/-- OR, immediate form (R153). -/
def execTaskOrImm (d a : BitVec 4) (n : BitVec 1) (i : BitVec 12) (s : State) : Result :=
  runTask s (costTask 1 1) fun x => x.shared d a (.imm i) false fun u v _ => .ok (bitOr (taskInt n) u v)
/-- XOR, register form (R153). -/
def execTaskXorReg (d a b : BitVec 4) (n : BitVec 1) (s : State) : Result :=
  runTask s (costTask 1 1) fun x => x.shared d a (.reg b) false fun u v _ => .ok (bitXor (taskInt n) u v)
/-- XOR, immediate form (R153). -/
def execTaskXorImm (d a : BitVec 4) (n : BitVec 1) (i : BitVec 12) (s : State) : Result :=
  runTask s (costTask 1 1) fun x => x.shared d a (.imm i) false fun u v _ => .ok (bitXor (taskInt n) u v)
/-- ANDN, register form (R153). -/
def execTaskAndnReg (d a b : BitVec 4) (n : BitVec 1) (s : State) : Result :=
  runTask s (costTask 1 1) fun x => x.shared d a (.reg b) false fun u v _ => .ok (bitAndn (taskInt n) u v)
/-- ANDN, immediate form (R153). -/
def execTaskAndnImm (d a : BitVec 4) (n : BitVec 1) (i : BitVec 12) (s : State) : Result :=
  runTask s (costTask 1 1) fun x => x.shared d a (.imm i) false fun u v _ => .ok (bitAndn (taskInt n) u v)
/-- NOT, register form (R153). -/
def execTaskNotReg (d a _b : BitVec 4) (n : BitVec 1) (s : State) : Result :=
  runTask s (costTask 1 1) fun x => x.shared d a .none false fun u _ _ => .ok (bitNot (taskInt n) u)
/-- NOT, immediate form (R153). -/
def execTaskNotImm (d a : BitVec 4) (n : BitVec 1) (i : BitVec 12) (s : State) : Result :=
  runTask s (costTask 1 1) fun x => x.shared d a (.imm i) false fun u _ _ => .ok (bitNot (taskInt n) u)
/-- SHL, register form (R154). -/
def execTaskShlReg (d a b : BitVec 4) (n : BitVec 1) (s : State) : Result :=
  runTask s (costTask 1 1) fun x => x.shared d a (.reg b) false fun u v _ => .ok (bitShl (taskInt n) u v)
/-- SHL, immediate form (R154). -/
def execTaskShlImm (d a : BitVec 4) (n : BitVec 1) (i : BitVec 12) (s : State) : Result :=
  runTask s (costTask 1 1) fun x => x.shared d a (.imm i) false fun u v _ => .ok (bitShl (taskInt n) u v)
/-- SHR, register form (R154). -/
def execTaskShrReg (d a b : BitVec 4) (n : BitVec 1) (s : State) : Result :=
  runTask s (costTask 1 1) fun x => x.shared d a (.reg b) false fun u v _ => .ok (bitShr (taskInt n) u v)
/-- SHR, immediate form (R154). -/
def execTaskShrImm (d a : BitVec 4) (n : BitVec 1) (i : BitVec 12) (s : State) : Result :=
  runTask s (costTask 1 1) fun x => x.shared d a (.imm i) false fun u v _ => .ok (bitShr (taskInt n) u v)
/-- SAR, register form (R154). -/
def execTaskSarReg (d a b : BitVec 4) (n : BitVec 1) (s : State) : Result :=
  runTask s (costTask 1 1) fun x => x.shared d a (.reg b) false fun u v _ => .ok (bitSar (taskInt n) u v)
/-- SAR, immediate form (R154). -/
def execTaskSarImm (d a : BitVec 4) (n : BitVec 1) (i : BitVec 12) (s : State) : Result :=
  runTask s (costTask 1 1) fun x => x.shared d a (.imm i) false fun u v _ => .ok (bitSar (taskInt n) u v)
/-- ROL, register form (R154). -/
def execTaskRolReg (d a b : BitVec 4) (n : BitVec 1) (s : State) : Result :=
  runTask s (costTask 1 1) fun x => x.shared d a (.reg b) false fun u v _ => .ok (bitRol (taskInt n) u v)
/-- ROL, immediate form (R154). -/
def execTaskRolImm (d a : BitVec 4) (n : BitVec 1) (i : BitVec 12) (s : State) : Result :=
  runTask s (costTask 1 1) fun x => x.shared d a (.imm i) false fun u v _ => .ok (bitRol (taskInt n) u v)
/-- CLZ, register form (R153). -/
def execTaskClzReg (d a _b : BitVec 4) (n : BitVec 1) (s : State) : Result :=
  runTask s (costTask 1 1) fun x => x.shared d a .none false fun u _ _ => .ok (bitClz (taskInt n) u)
/-- CLZ, immediate form (R153). -/
def execTaskClzImm (d a : BitVec 4) (n : BitVec 1) (i : BitVec 12) (s : State) : Result :=
  runTask s (costTask 1 1) fun x => x.shared d a (.imm i) false fun u _ _ => .ok (bitClz (taskInt n) u)
/-- CTZ, register form (R153). -/
def execTaskCtzReg (d a _b : BitVec 4) (n : BitVec 1) (s : State) : Result :=
  runTask s (costTask 1 1) fun x => x.shared d a .none false fun u _ _ => .ok (bitCtz (taskInt n) u)
/-- CTZ, immediate form (R153). -/
def execTaskCtzImm (d a : BitVec 4) (n : BitVec 1) (i : BitVec 12) (s : State) : Result :=
  runTask s (costTask 1 1) fun x => x.shared d a (.imm i) false fun u _ _ => .ok (bitCtz (taskInt n) u)
/-- POPC, register form (R153). -/
def execTaskPopcReg (d a _b : BitVec 4) (n : BitVec 1) (s : State) : Result :=
  runTask s (costTask 1 1) fun x => x.shared d a .none false fun u _ _ => .ok (bitPopc (taskInt n) u)
/-- POPC, immediate form (R153). -/
def execTaskPopcImm (d a : BitVec 4) (n : BitVec 1) (i : BitVec 12) (s : State) : Result :=
  runTask s (costTask 1 1) fun x => x.shared d a (.imm i) false fun u _ _ => .ok (bitPopc (taskInt n) u)
/-- BREV, register form (R153). -/
def execTaskBrevReg (d a _b : BitVec 4) (n : BitVec 1) (s : State) : Result :=
  runTask s (costTask 1 1) fun x => x.shared d a .none false fun u _ _ => .ok (bitBrev (taskInt n) u)
/-- BREV, immediate form (R153). -/
def execTaskBrevImm (d a : BitVec 4) (n : BitVec 1) (i : BitVec 12) (s : State) : Result :=
  runTask s (costTask 1 1) fun x => x.shared d a (.imm i) false fun u _ _ => .ok (bitBrev (taskInt n) u)
/-- BFX, register form (R154). -/
def execTaskBfxReg (d a b : BitVec 4) (n : BitVec 1) (s : State) : Result :=
  runTask s (costTask 1 1) fun x => x.shared d a (.reg b) false fun u v _ => .ok (bitBfx (taskInt n) u v)
/-- BFX, immediate form (R154). -/
def execTaskBfxImm (d a : BitVec 4) (n : BitVec 1) (i : BitVec 12) (s : State) : Result :=
  runTask s (costTask 1 1) fun x => x.shared d a (.imm i) false fun u v _ => .ok (bitBfx (taskInt n) u v)
/-- BFI, register form (R154). -/
def execTaskBfiReg (d a b : BitVec 4) (n : BitVec 1) (s : State) : Result :=
  runTask s (costTask 1 1) fun x => x.shared d a (.reg b) true fun u v w => .ok (bitBfi (taskInt n) u v w)
/-- BFI, immediate form (R154). -/
def execTaskBfiImm (d a : BitVec 4) (n : BitVec 1) (i : BitVec 12) (s : State) : Result :=
  runTask s (costTask 1 1) fun x => x.shared d a (.imm i) true fun u v w => .ok (bitBfi (taskInt n) u v w)
/-- CMP, register form (R155). -/
def execTaskCmpReg (d a b : BitVec 4) (n : BitVec 1) (c : BitVec 3) (s : State) : Result :=
  runTask s (costTask 1 1) fun x => x.shared d a (.reg b) false fun u v _ => .ok (intCmp (taskInt n) c.toNat u v)
/-- CMP, immediate form (R155). -/
def execTaskCmpImm (d a : BitVec 4) (n : BitVec 1) (c : BitVec 3) (i : BitVec 12) (s : State) : Result :=
  runTask s (costTask 1 1) fun x => x.shared d a (.imm i) false fun u v _ => .ok (intCmp (taskInt n) c.toNat u v)
/-- SEL, register form (R156). -/
def execTaskSelReg (d a b : BitVec 4) (_n : BitVec 1) (s : State) : Result :=
  runTask s (costTask 1 1) fun x => x.shared d a (.reg b) true fun u v w => .ok (selWord w u v)
/-- SEL, immediate form (R156). -/
def execTaskSelImm (d a : BitVec 4) (_n : BitVec 1) (i : BitVec 12) (s : State) : Result :=
  runTask s (costTask 1 1) fun x => x.shared d a (.imm i) true fun u v w => .ok (selWord w u v)
/-! ## Floating point on f32 (R149, R158, R159, R161, R230) -/

/-- FADD, register form (R158). -/
def execTaskFaddReg (d a b : BitVec 4) (m : BitVec 3) (s : State) : Result :=
  runTask s (costTask 1 4) fun x => x.shared d a (.reg b) false fun u v _ => .f32 (fpAdd .f32 (x.env m) u.toNat v.toNat)
/-- FADD, immediate form (R158). -/
def execTaskFaddImm (d a : BitVec 4) (m : BitVec 3) (i : BitVec 12) (s : State) : Result :=
  runTask s (costTask 1 4) fun x => x.shared d a (.imm i) false fun u v _ => .f32 (fpAdd .f32 (x.env m) u.toNat v.toNat)
/-- FSUB, register form (R158). -/
def execTaskFsubReg (d a b : BitVec 4) (m : BitVec 3) (s : State) : Result :=
  runTask s (costTask 1 4) fun x => x.shared d a (.reg b) false fun u v _ => .f32 (fpSub .f32 (x.env m) u.toNat v.toNat)
/-- FSUB, immediate form (R158). -/
def execTaskFsubImm (d a : BitVec 4) (m : BitVec 3) (i : BitVec 12) (s : State) : Result :=
  runTask s (costTask 1 4) fun x => x.shared d a (.imm i) false fun u v _ => .f32 (fpSub .f32 (x.env m) u.toNat v.toNat)
/-- FMUL, register form (R158). -/
def execTaskFmulReg (d a b : BitVec 4) (m : BitVec 3) (s : State) : Result :=
  runTask s (costTask 1 4) fun x => x.shared d a (.reg b) false fun u v _ => .f32 (fpMul .f32 (x.env m) u.toNat v.toNat)
/-- FMUL, immediate form (R158). -/
def execTaskFmulImm (d a : BitVec 4) (m : BitVec 3) (i : BitVec 12) (s : State) : Result :=
  runTask s (costTask 1 4) fun x => x.shared d a (.imm i) false fun u v _ => .f32 (fpMul .f32 (x.env m) u.toNat v.toNat)
/-- FMA, register form (R158). -/
def execTaskFmaReg (d a b : BitVec 4) (m : BitVec 3) (s : State) : Result :=
  runTask s (costTask 1 4) fun x => x.shared d a (.reg b) true fun u v w => .f32 (fpFused false false .f32 (x.env m) u.toNat v.toNat w.toNat)
/-- FMA, immediate form (R158). -/
def execTaskFmaImm (d a : BitVec 4) (m : BitVec 3) (i : BitVec 12) (s : State) : Result :=
  runTask s (costTask 1 4) fun x => x.shared d a (.imm i) true fun u v w => .f32 (fpFused false false .f32 (x.env m) u.toNat v.toNat w.toNat)
/-- FMIN, register form (R159). -/
def execTaskFminReg (d a b : BitVec 4) (s : State) : Result :=
  runTask s (costTask 1 2) fun x => x.shared d a (.reg b) false fun u v _ => .f32 (fpMinMax (decide (x.t.info.version ≤ 1)) false false .f32 (x.env 0#3) u.toNat v.toNat)
/-- FMIN, immediate form (R159). -/
def execTaskFminImm (d a : BitVec 4) (i : BitVec 12) (s : State) : Result :=
  runTask s (costTask 1 2) fun x => x.shared d a (.imm i) false fun u v _ => .f32 (fpMinMax (decide (x.t.info.version ≤ 1)) false false .f32 (x.env 0#3) u.toNat v.toNat)
/-- FMAX, register form (R159). -/
def execTaskFmaxReg (d a b : BitVec 4) (s : State) : Result :=
  runTask s (costTask 1 2) fun x => x.shared d a (.reg b) false fun u v _ => .f32 (fpMinMax (decide (x.t.info.version ≤ 1)) true false .f32 (x.env 0#3) u.toNat v.toNat)
/-- FMAX, immediate form (R159). -/
def execTaskFmaxImm (d a : BitVec 4) (i : BitVec 12) (s : State) : Result :=
  runTask s (costTask 1 2) fun x => x.shared d a (.imm i) false fun u v _ => .f32 (fpMinMax (decide (x.t.info.version ≤ 1)) true false .f32 (x.env 0#3) u.toNat v.toNat)
/-- FCMP, register form (R161). -/
def execTaskFcmpReg (d a b : BitVec 4) (c : BitVec 3) (s : State) : Result :=
  runTask s (costTask 1 2) fun x => x.shared d a (.reg b) false fun u v _ => let r := fpCmp .f32 (x.env c) c.toNat u.toNat v.toNat; .value (predWord r.1) r.2
/-- FCMP, immediate form (R161). -/
def execTaskFcmpImm (d a : BitVec 4) (c : BitVec 3) (i : BitVec 12) (s : State) : Result :=
  runTask s (costTask 1 2) fun x => x.shared d a (.imm i) false fun u v _ => let r := fpCmp .f32 (x.env c) c.toNat u.toNat v.toNat; .value (predWord r.1) r.2

/-- CVT in task form (R166, R167, R230). -/
def execTaskCvt (d a : BitVec 4) (v n : BitVec 1) (m : BitVec 3) (s : State) : Result :=
  runTask s (costTask 1 3) fun x => x.shared d a .none false fun u _ _ =>
    if v = 0#1 then .f32 (intToFp .f32 (x.env m) (tyVal (taskInt n) u))
    else let r := fpToInt .f32 (x.env m) (taskInt n) u.toNat; .value r.1 r.2

/-! ## Channels (R231) -/

/-- The trigger is a 64-bit token. -/
def TaskSite.triggerWide (x : TaskSite) : Bool :=
  x.trigger.isData &&
  if x.a.chan < x.t.inputs then (x.t.wide[x.a.chan]?).getD false
  else (((x.t.widths[x.a.chan - x.t.inputs]?).getD []).head?).getD false

/-- RECV (R231). -/
def execTaskRecv (d : BitVec 4) (w : BitVec 1) (s : State) : Result :=
  runTask s taskCost fun x =>
    let t := x.trigger
    if t.isPoison && x.trapen.getLsbD 7 then .fault (x.info 0x30 [0#64, 0#64, (x.t.reg (x.td d)).recorded])
    else
      let v := t.payload >>> (32 * w.toNat)
      .done { writes := [(x.td d, { v := v.setWidth 32, tag := match t with | .poison c => some c | _ => none })] }

/-- PEEK (R231). -/
def execTaskPeek (d : BitVec 4) (s : State) : Result :=
  runTask s taskCost fun x =>
    let t := x.trigger
    let bit (c : Bool) (k : Nat) : Nat := if c then 2 ^ k else 0
    .done { writes := [(x.td d, { v := BitVec.ofNat 32 (bit t.isMarker 0 + bit t.isPoison 1 + bit x.triggerWide 2) })] }

/-- SEND (R231). -/
def execTaskSend (k : BitVec 2) (a b : BitVec 4) (w : BitVec 1) (s : State) : Result :=
  runTask s taskCost fun x =>
    let ra := x.t.reg (x.ta a)
    let rb := x.t.reg (x.tb b)
    let t : Token := match firstTag (ra :: if w = 1#1 then [rb] else []) with
      | some c => .poison c
      | none => .data (if w = 1#1 then rb.v ++ ra.v else ra.wide)
    .done { sends := [(k.toNat, t)] }

/-- SENDM (R231). -/
def execTaskSendm (k : BitVec 2) (a : BitVec 4) (s : State) : Result :=
  runTask s taskCost fun x =>
    let ra := x.t.reg (x.ta a)
    let level := ra.v.extractLsb' 0 3
    let ops := [ra.recorded, 0#64, 0#64]
    if ra.tag.isSome then .fault (x.info 0x30 ops)
    else if level = 0#3 ∨ level = 5#3 then .fault (x.info 0x44 ops)
    else .done { sends := [(k.toNat, .marker level (ra.v.extractLsb' 8 8) (ra.v.extractLsb' 16 8))] }

/-! ## Memory requests (R234) -/

/-- The address fields of a request: ta, and tb above it where the address is wide. -/
def TaskSite.addrRegs (x : TaskSite) (a b : BitVec 4) (wide : BitVec 1) : List TaskReg :=
  x.t.reg (x.ta a) :: if wide = 1#1 then [x.t.reg (x.tb b)] else []
def TaskSite.addr (x : TaskSite) (a b : BitVec 4) (wide : BitVec 1) : W64 :=
  let lo := (x.t.reg (x.ta a)).v
  if wide = 1#1 then (x.t.reg (x.tb b)).v ++ lo else lo.setWidth 64

/-- Requests in flight on a PE's request port, over the planes of its paddock (R234). -/
def State.portRequests (s : State) (pad : Nat) (place : Place) : Nat :=
  (s.planes.filter fun q => q.1.pad = pad).foldl (fun n q =>
    (q.2.pes.zipIdx.filter fun t => t.1.place = place).foldl (fun n t => n + q.2.inFlight (.pe t.2)) n) 0

/-- A request instruction: it waits for the port, faults on a tagged address, probes, and sends one request. -/
def TaskSite.send (x : TaskSite) (q : Ask) (regs : List TaskReg) (ops : List W64) (valueFault : Bool) (acc : Access)
    (tag : Option W32) (chan : Nat) : TaskOut :=
  let q := { q with cluster := some (x.t.point / 8) }
  let info := { x.info 0 ops (accessKind q.kind) q.va with slot := some (x.a.pc / 2) }
  if x.s.portRequests x.p.pad x.t.place ≥ 16 then .wait
  else if (firstTag regs).isSome ∨ valueFault then .fault (x.info 0x30 ops)
  else match x.s.probe x.pl x.t.near q with
    | .fault c => .fault { info with cause := c, md := probeDie q.space x.t.near }
    | .miss => .walk (missWalk x.p x.pl (.pe x.k) x.t.near q info x.s.cycle)
    | .ok loc =>
      let device := decide (2 ≤ q.space ∧ q.space ≤ 4) && ((x.s.tlbFind x.t.near x.pl.ctx q.va.toNat q.cluster).map (·.device)).getD false
      let r : Request :=
        { id := 0, who := .pe x.k, acc, space := q.space, addr := q.va, loc, size := q.size, issued := x.s.cycle,
          tag, chan, md := x.t.near, iter := info.iter, opv := info.opv, device, slot := info.slot, act := x.t.acts }
      if q.space = 5 then .peer r else .done { reqs := [r] }

/-- LDREQ (R229, R234). -/
def execTaskLdreq (d a b : BitVec 4) (t : BitVec 1) (j : BitVec 2) (w x' : BitVec 1) (z : BitVec 2) (sp : BitVec 3)
    (s : State) : Result :=
  runTask s taskCost fun x =>
    let size := 2 ^ z.toNat
    let ra := x.t.reg (x.ta a)
    let rb := if w = 1#1 then (x.t.reg (x.tb b)).recorded else 0#64
    let rd := x.t.reg (x.td d)
    let ty : Ty := if size = 8 then .n64 else if x' = 1#1 then .i32 else .n32
    x.send { space := sp.toNat, va := x.addr a b w, size, align := size } (x.addrRegs a b w)
      [ra.recorded, rb, rd.recorded] false (.load ty size false)
      (if t = 1#1 then some rd.v else none) j.toNat

/-- STREQ (R229, R234). -/
def execTaskStreq (d a b : BitVec 4) (k : BitVec 1) (j : BitVec 2) (w : BitVec 1) (z : BitVec 2) (sp : BitVec 3)
    (s : State) : Result :=
  runTask s taskCost fun x =>
    let size := 2 ^ z.toNat
    let ra := x.t.reg (x.ta a)
    let rb := if w = 1#1 then (x.t.reg (x.tb b)).recorded else 0#64
    let rd := x.t.reg (x.td d)
    let hi := x.t.reg (x.td d + 1)
    let tagged := (firstTag (rd :: if size = 8 then [hi] else [])).isSome
    let v : Option W64 := if tagged then none else some (if size = 8 then hi.v ++ rd.v else rd.wide)
    x.send { space := sp.toNat, va := x.addr a b w, size, align := size, kind := 1 } (x.addrRegs a b w)
      [ra.recorded, rb, rd.recorded] (tagged && x.trapen.getLsbD 7) (.store size v (k = 1#1)) none j.toNat

/-- The atomic that AREQ names, and its type. -/
def areqOp (o : BitVec 3) (x : BitVec 1) : AtomOp × Ty :=
  match o.toNat with
  | 0 => (.add, .n32)
  | 1 => (.min, if x = 1#1 then .i32 else .n32)
  | 2 => (.max, if x = 1#1 then .i32 else .n32)
  | 3 => (.and, .n32)
  | 4 => (.or, .n32)
  | 5 => (.xor, .n32)
  | 6 => (.xchg, .n32)
  | _ => (.fadd, .f32)

/-- AREQ (R229, R234, R288). -/
def execTaskAreq (d a b : BitVec 4) (o : BitVec 3) (r : BitVec 1) (j : BitVec 2) (w x' : BitVec 1) (sp : BitVec 3)
    (s : State) : Result :=
  runTask s taskCost fun x =>
    let ra := x.t.reg (x.ta a)
    let rb := if w = 1#1 then (x.t.reg (x.tb b)).recorded else 0#64
    let rd := x.t.reg (x.td d)
    let (op, ty) := areqOp o x'
    x.send { space := sp.toNat, va := x.addr a b w, size := 4, align := 4, kind := 2 } (x.addrRegs a b w)
      [ra.recorded, rb, rd.recorded] (rd.tag.isSome && x.trapen.getLsbD 7)
      (.atomic op ty 0#64 (if rd.tag.isSome then none else some rd.wide) (r = 1#1)) none j.toNat

/-! ## Branches, constants, end, trap (R226, R232) -/

/-- A target: the index of the next instruction plus the offset. -/
def Activation.target (a : Activation) (i : BitVec 13) : Nat := ((a.pc : Int) + 1 + i.toInt).toNat

/-- BR (R232). -/
def execTaskBr (i : BitVec 13) (s : State) : Result :=
  runTask s taskCost fun x => .done { next := some (x.a.target i) }

/-- BRC (R232). -/
def execTaskBrc (a : BitVec 4) (n : BitVec 1) (i : BitVec 13) (s : State) : Result :=
  runTask s taskCost fun x =>
    let ra := x.t.reg (x.ta a)
    if ra.tag.isSome then .fault (x.info 0x30 [ra.recorded, 0#64, 0#64])
    else .done { next := if (ra.v = 0#32) = (n = 0#1) then some (x.a.target i) else none }

/-- END (R226). -/
def execTaskEnd (s : State) : Result := runTask s taskCost fun _ => .done { stop := true }

/-- SETI (R232). -/
def execTaskSeti (d : BitVec 4) (v : BitVec 13) (s : State) : Result :=
  runTask s taskCost fun x => .done { writes := [(x.td d, { v := v.signExtend 32 })] }

/-- LUI (R232). -/
def execTaskLui (d : BitVec 4) (u : BitVec 21) (s : State) : Result :=
  runTask s taskCost fun x =>
    .done { writes := [(x.td d, { v := u ++ ((x.t.reg (x.td d)).v.extractLsb' 0 11) })] }

/-- TRAP in a task (R232): after TRAPACK the task continues at the next instruction. -/
def execTaskTrap (a : BitVec 4) (c : BitVec 12) (s : State) : Result :=
  runTask s taskCost fun x =>
    if x.acked 0x48 then .done {}
    else .fault (x.info 0x48 [c.setWidth 64, (x.t.reg (x.ta a)).recorded, 0#64])

/-! ## REP (R233) -/

/-- How far above its td, ta and tb fields an instruction reaches: SPLIT's ranges and the second word of an 8-byte STREQ. -/
def repReach : Instr → Nat × Nat × Nat
  | .taskSplitDec .. => (3, 0, 0)
  | .taskSplitEnc .. => (1, 3, 0)
  | .taskStreq _ _ _ _ _ _ z _ => (if z = 3#2 then 1 else 0, 0, 0)
  | _ => (0, 0, 0)

/-- Some register that the mask names would pass t15 in the last repetition. -/
def repPasses (w : W32) (mask : BitVec 3) (stride count : Nat) : Bool :=
  let reach := match decodeTask w with | .ok i => repReach i | .error _ => (0, 0, 0)
  let past (field extra bit : Nat) : Bool := mask.getLsbD bit && decide (field + extra + stride * (count - 1) > 15)
  past (taskD w).toNat reach.1 0 || past (taskA w).toNat reach.2.1 1 || past (taskB w).toNat reach.2.2 2

/-- REP (R233). -/
def execTaskRep (m : BitVec 3) (a : BitVec 4) (c : BitVec 1) (st : BitVec 4) (n : BitVec 8) (s : State) : Result :=
  runTask s taskCost fun x =>
    let ra := x.t.reg (x.ta a)
    let count := if c = 1#1 then n.toNat else ra.v.toNat
    let ops := [if c = 1#1 then 0#64 else ra.recorded, 0#64, 0#64]
    let w := (x.t.words[x.a.pc + 1]?).getD 0#32
    if c = 0#1 ∧ ra.tag.isSome then .fault (x.info 0x30 ops)
    else if count = 0 then .done { next := some (x.a.pc + 2) }
    else if repPasses w m st.toNat count then .fault (x.info 0x42 ops)
    else .done { rep := some { k := 0, count, mask := m, stride := st.toNat } }

/-! ## The walker (R239, R240) -/

/-- A row with one word written. -/
def writeRow (row : List TaskReg) (w : Nat) (r : TaskReg) : List TaskReg := modifyAt row w fun _ => r

/-- A row as a row group: poison where a word was written from a tagged register. -/
def rowToken (row : List TaskReg) : Token :=
  match firstTag row with
  | some c => .poison c
  | none => .beat (row.map (·.v))

/-- What EMITA and EMITB send: the row where it is pushed, and the end-of-tensor marker. -/
def TaskSite.emits (x : TaskSite) (k : Nat) (row : List TaskReg) (push eot : BitVec 1) : List (Nat × Token) :=
  (if push = 1#1 then [(k, rowToken row)] else []) ++
  (if eot = 1#1 then [(k, marker 3 (Config.lowRound x.t.info.id (x.a.pc / 2) x.s.cycle))] else [])

/-- EMITA (R240). -/
def execTaskEmita (k : BitVec 2) (a : BitVec 4) (e p : BitVec 1) (w : BitVec 5) (s : State) : Result :=
  runTask s taskCost fun x =>
    let row := writeRow x.t.rowA w.toNat (x.t.reg (x.ta a))
    .done { sends := x.emits k.toNat row p e
            rows := some (if p = 1#1 then List.replicate 16 ({} : TaskReg) else row, x.t.rowB) }

/-- EMITB (R240). -/
def execTaskEmitb (k : BitVec 2) (a : BitVec 4) (e p : BitVec 1) (w : BitVec 5) (s : State) : Result :=
  runTask s taskCost fun x =>
    let row := writeRow x.t.rowB w.toNat (x.t.reg (x.ta a))
    .done { sends := x.emits k.toNat row p e
            rows := some (x.t.rowA, if p = 1#1 then List.replicate 32 ({} : TaskReg) else row) }

/-- The format-range check of an ISL header's count and flags (R237, R239). -/
def islBad (count flags : Nat) : Bool := decide (count > (if flags % 2 = 1 then 12 else 20)) || decide (flags / 4 ≠ 0)

/-- Register writes to consecutive registers. -/
def writesFrom (d : Nat) (vs : List Nat) : List (Nat × TaskReg) :=
  vs.zipIdx.map fun (v, i) => (d + i, { v := BitVec.ofNat 32 v })

/-- SPLIT.dec (R239). -/
def execTaskSplitDec (d a b : BitVec 4) (s : State) : Result :=
  runTask s taskCost fun x =>
    let ra := x.t.reg (x.ta a)
    let rb := x.t.reg (x.tb b)
    let h : W64 := rb.v ++ ra.v
    let ops := [ra.recorded, rb.recorded, (x.t.reg (x.td d)).recorded]
    if (firstTag [ra, rb]).isSome then .fault (x.info 0x30 ops)
    else if islBad (wbits h 15 11) (wbits h 10 0) then .fault (x.info 0x44 ops)
    else .done { writes := writesFrom (x.td d) [wbits h 63 40, wbits h 39 16, wbits h 15 11, wbits h 10 0] }

/-- SPLIT.enc (R239). -/
def execTaskSplitEnc (d a _b : BitVec 4) (s : State) : Result :=
  runTask s taskCost fun x =>
    let rs := (List.range 4).map fun i => x.t.reg (x.ta a + i)
    let v (i : Nat) : Nat := (((rs[i]?).getD ({} : TaskReg)).v).toNat
    let ops := [((rs[0]?).getD ({} : TaskReg)).recorded, 0#64, (x.t.reg (x.td d)).recorded]
    if (firstTag rs).isSome then .fault (x.info 0x30 ops)
    else if islBad (v 2) (v 3) ∨ v 0 ≥ 2 ^ 24 ∨ v 1 ≥ 2 ^ 24 then .fault (x.info 0x44 ops)
    else
      let h := v 0 * 2 ^ 40 + v 1 * 2 ^ 16 + v 2 * 2 ^ 11 + v 3
      .done { writes := writesFrom (x.td d) [h % 2 ^ 32, h / 2 ^ 32] }

end Sys2Proof.Machine
end

