-- ==== Sys2Proof/Machine/Ico.lean ====
section
/-! DEFINITION. Idisk code objects as the translator reads them: pieces of an ICO by byte offset, its header, section table,
graph table, feature section and signature section (R50 to R60), and the checks of the first binding in the scan order of
R83. -/

namespace Sys2Proof.Machine

/-- A failed check as R82 names it: the reason, the block and slot, the byte offset of the failing field, the half of the
slot. -/
structure Bad where
  reason : Nat
  off    : Nat := 0
  block  : Nat := 0xFFFF
  slot   : Nat := 0
  half   : Nat := 0
deriving DecidableEq, Repr

/-- A check: whether it passes, and what it reports if not. -/
abbrev Check := Bool × Bad

def firstBad : List Check → Option Bad
  | [] => none
  | (ok, b) :: rest => if ok then firstBad rest else some b

/-! ## Bytes of an ICO -/

/-- The pieces of an ICO that have been read, each with its byte offset. -/
abbrev Parts := List (Nat × List Byte)

/-- n bytes from an offset, as far as one piece holds them. -/
def partBytes (ps : Parts) (off n : Nat) : List Byte :=
  match ps.find? fun p => decide (p.1 ≤ off ∧ off < p.1 + p.2.length) with
  | some (o, bs) => (bs.drop (off - o)).take n
  | none => []

/-- The little-endian number of n bytes (R4). -/
def icoNat (ps : Parts) (off n : Nat) : Nat := bytesNat (partBytes ps off n)

/-- n bytes are zero. -/
def icoZero (ps : Parts) (off n : Nat) : Bool := (partBytes ps off n).all (· == 0#8)

/-! ## Header and section table (R50 to R52) -/

/-- A section entry in use. -/
structure IcoSection where
  ty   : Nat
  size : Nat
  off  : Nat
deriving DecidableEq, Repr

def icoSize (ps : Parts) : Nat := icoNat ps 8 4
def codeOffset (ps : Parts) : Nat := icoNat ps 16 8
def codeSize (ps : Parts) : Nat := icoNat ps 24 8
def sectionCount (ps : Parts) : Nat := icoNat ps 12 2

/-- The section entries in use, in table order. -/
def icoSections (ps : Parts) : List IcoSection :=
  (List.range (min (sectionCount ps) 14)).map fun i =>
    { ty := icoNat ps (32 + 16 * i) 2, size := icoNat ps (36 + 16 * i) 4, off := icoNat ps (40 + 16 * i) 8 }

/-- The first section of a type. -/
def sectionOf (ps : Parts) (ty : Nat) : Option IcoSection := (icoSections ps).find? fun x => x.ty == ty

/-- Two byte ranges share a byte. -/
def overlap (o1 n1 o2 n2 : Nat) : Bool := decide (o1 < o2 + n2 ∧ o2 < o1 + n1 ∧ 0 < n1 ∧ 0 < n2)

/-- Entry i of the section table. -/
def sectionChecks (ps : Parts) (i : Nat) : List Check :=
  let e := 32 + 16 * i
  if i ≥ sectionCount ps then [(icoZero ps e 16, ⟨0x06, e, 0xFFFF, 0, 0⟩)]
  else
    let secs := icoSections ps
    let x := (secs[i]?).getD ⟨0, 0, 0⟩
    let inside := decide (codeOffset ps ≤ x.off ∧ x.off + x.size ≤ codeOffset ps + codeSize ps)
    let apart := !overlap x.off x.size (codeOffset ps) (codeSize ps)
    let earlier := secs.take i
    [(decide (1 ≤ x.ty ∧ x.ty ≤ 6), { reason := 0x01, off := e }),
     (x.ty == 2 || x.ty == 5 || earlier.all fun y => y.ty != x.ty, { reason := 0x01, off := e }),
     (icoZero ps (e + 2) 2, { reason := 0x06, off := e + 2 }),
     (x.ty != 3 || decide (x.size ≤ 2 ^ 24), { reason := 0x01, off := e + 4 }),
     (x.ty != 1 || decide (32 ≤ x.size), { reason := 0x02, off := e + 4 }),
     (x.ty != 4 || x.size == 16, { reason := 0x02, off := e + 4 }),
     (x.ty != 6 || x.size == 3384, { reason := 0x01, off := e + 4 }),
     (decide (x.off % 8 = 0 ∧ 256 ≤ x.off ∧ x.off + x.size ≤ icoSize ps), { reason := 0x01, off := e + 8 }),
     (if x.ty == 2 then inside else apart, { reason := 0x01, off := e + 8 }),
     (earlier.all fun y => !overlap x.off x.size y.off y.size, { reason := 0x01, off := e + 8 })]

/-- The header and the section table. Block sections fill the code segment: it holds nothing else (R52). R83 gives no place to the
two checks that need every entry, that the required sections are there and that the block sections' sizes sum to code_size: they
follow the section table (DESIGN CHOICE, log 107). -/
def headerChecks (ps : Parts) : List Check :=
  let secs := icoSections ps
  [(icoNat ps 0 4 == 0x4B534449, { reason := 0x01 }),
   (icoNat ps 4 2 == 1, { reason := 0x04, off := 4 }),
   (decide (icoNat ps 6 2 < 2), { reason := 0x06, off := 6 }),
   (decide (256 ≤ icoSize ps), { reason := 0x01, off := 8 }),
   (decide (2 ≤ sectionCount ps ∧ sectionCount ps ≤ 14), { reason := 0x01, off := 12 }),
   (icoZero ps 14 2, { reason := 0x06, off := 14 }),
   (decide (codeOffset ps % 8 = 0 ∧ 256 ≤ codeOffset ps ∧ codeOffset ps ≤ icoSize ps), { reason := 0x01, off := 16 }),
   (decide (codeSize ps % 8 = 0 ∧ 0 < codeSize ps ∧ codeOffset ps + codeSize ps ≤ icoSize ps), { reason := 0x01, off := 24 })]
  ++ (List.range 14).flatMap (sectionChecks ps) ++
  [((secs.any fun x => x.ty == 1) && (secs.any fun x => x.ty == 2), { reason := 0x01, off := 12 }),
   (((secs.filter fun x => x.ty == 2).foldl (fun n x => n + x.size) 0) == codeSize ps, { reason := 0x01, off := 24 })]

/-! ## Records of the graph table (R57, R58) -/

structure LoadRec where
  entry   : Nat
  exitB   : Nat
  handler : Bool
deriving DecidableEq, Repr

structure EdgeRec where
  src  : Nat
  srcPort : Nat
  ord  : Bool
  dst  : Nat
  dstPort : Nat
  off  : Nat
deriving DecidableEq, Repr

structure ParamRec where
  ty   : Nat
  port : Nat
  load : Nat
  at_  : Nat
  off  : Nat
deriving DecidableEq, Repr

structure FactorRec where
  symbol : Nat
  off    : Nat
deriving DecidableEq, Repr

structure RegionRec where
  id    : Nat
  load  : Nat
  tiles : Nat
  mode  : Nat
  rounded : Bool
  buffers : Nat
  off   : Nat
deriving DecidableEq, Repr

structure StreamRec where
  id    : Nat
  load  : Nat
  space : Nat
  window : Nat
  dir   : Nat
  off   : Nat
deriving DecidableEq, Repr

/-- A block: its record's identifier and load, the record's and the header's offsets in the ICO, the two halves of its
header (R60) and its slots. -/
structure Blk where
  id    : Nat
  load  : Nat
  rec_  : Nat
  off   : Nat
  lo    : Nat
  hi    : Nat
  words : List W64
deriving DecidableEq, Repr

namespace Blk

/-- Bits of the upper and of the lower half of a header. -/
def up (b : Blk) (h l : Nat) : Nat := (b.hi >>> l) % 2 ^ (h - l + 1)
def low (b : Blk) (h l : Nat) : Nat := (b.lo >>> l) % 2 ^ (h - l + 1)
def magic (b : Blk) : Nat := b.up 63 56
def version (b : Blk) : Nat := b.up 55 52
def kind (b : Blk) : Nat := b.up 51 48
def count (b : Blk) : Nat := b.up 46 40
def pattern (b : Blk) : Nat := b.up 39 36
def factor (b : Blk) : Nat := b.up 35 28
def width (b : Blk) : Nat := b.up 27 20
def entries (b : Blk) : Nat := b.up 19 14
def exits (b : Blk) : Nat := b.up 13 8
def policy (b : Blk) : Nat := b.up 7 0
def ident (b : Blk) : Nat := b.low 63 48
def waveFirst (b : Blk) : Nat := b.low 47 41
def waveLast (b : Blk) : Nat := b.low 40 34

/-- The instruction of a slot of a graph-form block. -/
def instr (b : Blk) (s : Nat) : Option Instr := if b.kind = 1 then none else (b.words[s]?).bind fun w => (decodeGraph w).toOption

/-- The instructions of a graph-form block, by slot; a task block has none. -/
def nodes (b : Blk) : List (Nat × Instr) :=
  if b.kind = 1 then []
  else b.words.zipIdx.filterMap fun x => ((decodeGraph x.1).toOption).map fun i => (x.2, i)

/-- The 32-bit words of a task block, the low half of each slot first, a padding word left out (R72). -/
def taskWords (b : Blk) : List W32 :=
  let ws : List W32 := b.words.flatMap fun (w : W64) => [w.setWidth 32, (w >>> 32).setWidth 32]
  if ws.getLast? = some 0#32 then ws.dropLast else ws

/-- The instructions of a task block, none for a word that is no instruction. -/
def tasks (b : Blk) : List (Option Instr) := b.taskWords.map fun w => (decodeTask w).toOption

end Blk

/-- A graph as the translator has read it. -/
structure IcoGraph where
  parts   : Parts
  loads   : List LoadRec := []
  blocks  : List Blk := []
  edges   : List EdgeRec := []
  params  : List ParamRec := []
  factors : List FactorRec := []
  regions : List RegionRec := []
  streams : List StreamRec := []
  table   : Nat := 0
  declared : Nat := 0
deriving DecidableEq, Repr

/-- The counts of a graph table's header, and the offset of each array. -/
structure TableShape where
  base    : Nat
  size    : Nat
  nl : Nat
  nb : Nat
  ne : Nat
  np : Nat
  nf : Nat
  nr : Nat
  ns : Nat
deriving DecidableEq, Repr

def TableShape.loads (t : TableShape) : Nat := t.base + 32
def TableShape.blocks (t : TableShape) : Nat := t.loads + 16 * t.nl
def TableShape.edges (t : TableShape) : Nat := t.blocks + 8 * t.nb
def TableShape.params (t : TableShape) : Nat := t.edges + 8 * t.ne
def TableShape.factors (t : TableShape) : Nat := t.params + 8 * t.np
def TableShape.regions (t : TableShape) : Nat := t.factors + 8 * t.nf
def TableShape.streams (t : TableShape) : Nat := t.regions + 16 * t.nr
def TableShape.total (t : TableShape) : Nat := t.streams + 8 * t.ns - t.base

def tableShape (ps : Parts) : TableShape :=
  let x := (sectionOf ps 1).getD ⟨1, 0, 0⟩
  let b := x.off
  { base := b, size := x.size, nl := icoNat ps b 2, nb := icoNat ps (b + 2) 2, ne := icoNat ps (b + 4) 4
    np := icoNat ps (b + 8) 2, nf := icoNat ps (b + 10) 1, nr := icoNat ps (b + 12) 2, ns := icoNat ps (b + 14) 2 }

/-- A block record's block: its header, and as many of its slots as the code segment holds. -/
def readBlk (ps : Parts) (r : Nat) : Blk :=
  let o := codeOffset ps + icoNat ps (r + 4) 4
  let hi := icoNat ps (o + 8) 8
  let room := (codeOffset ps + codeSize ps - (o + 16)) / 8
  { id := icoNat ps r 2, load := icoNat ps (r + 2) 2, rec_ := r, off := o, lo := icoNat ps o 8, hi
    words := (List.range (min ((hi >>> 40) % 128 + 1) room)).map fun k => BitVec.ofNat 64 (icoNat ps (o + 16 + 8 * k) 8) }

/-- The graph in the pieces read. -/
def readGraph (ps : Parts) : IcoGraph :=
  let t := tableShape ps
  let each {α : Type} (base size n : Nat) (f : Nat → α) : List α := (List.range n).map fun k => f (base + size * k)
  { parts := ps
    loads := each t.loads 16 t.nl fun o =>
      { entry := icoNat ps o 2, exitB := icoNat ps (o + 2) 2, handler := icoNat ps (o + 4) 1 % 2 == 1 }
    blocks := each t.blocks 8 t.nb (readBlk ps)
    edges := each t.edges 8 t.ne fun o =>
      { src := icoNat ps o 2, srcPort := icoNat ps (o + 2) 1, ord := icoNat ps (o + 3) 1 % 2 == 1, dst := icoNat ps (o + 4) 2,
        dstPort := icoNat ps (o + 6) 1, off := o }
    params := each t.params 8 t.np fun o =>
      { ty := icoNat ps o 1, port := icoNat ps (o + 1) 1, load := icoNat ps (o + 2) 2, at_ := icoNat ps (o + 4) 2, off := o }
    factors := each t.factors 8 t.nf fun o => { symbol := icoNat ps o 1, off := o }
    regions := each t.regions 16 t.nr fun o =>
      { id := icoNat ps o 2, load := icoNat ps (o + 2) 2, tiles := icoNat ps (o + 4) 2, mode := icoNat ps (o + 6) 1,
        rounded := icoNat ps (o + 7) 1 % 2 == 1, buffers := icoNat ps (o + 8) 1, off := o }
    streams := each t.streams 8 t.ns fun o =>
      { id := icoNat ps o 2, load := icoNat ps (o + 2) 2, space := icoNat ps (o + 4) 1, window := icoNat ps (o + 5) 1,
        dir := icoNat ps (o + 6) 1, off := o }
    table := t.base
    declared := match sectionOf ps 4 with | some x => icoNat ps x.off 8 | none => 0 }

/-- The block of an identifier. -/
def IcoGraph.blk (g : IcoGraph) (id : Nat) : Option Blk := g.blocks.find? fun b => b.id == id

/-- A record of a graph table fails with reason 0x02 or 0x06 at an offset. -/
def bad2 (off : Nat) : Bad := { reason := 0x02, off }
def bad6 (off : Nat) : Bad := { reason := 0x06, off }

def isPowerOf2 (n : Nat) : Bool := (List.range 13).any fun k => n == 2 ^ k

def IcoGraph.loadChecks (g : IcoGraph) (o i : Nat) (r : LoadRec) : List Check :=
  let here (b : Nat) : Bool := (g.blk b).any fun x => x.load == i
  [(here r.entry, bad2 o), (r.exitB == 0xFFFF || here r.exitB, bad2 (o + 2)),
   (decide (icoNat g.parts (o + 4) 1 < 2), bad6 (o + 4)), (icoZero g.parts (o + 5) 11, bad6 (o + 5))]

def IcoGraph.blockChecks (g : IcoGraph) (i : Nat) (b : Blk) : List Check :=
  [(b.id != 0xFFFF && (g.blocks.take i).all fun x => x.id != b.id, bad2 b.rec_),
   (decide (b.load < g.loads.length), bad2 (b.rec_ + 2)),
   (decide (b.off % 8 = 0 ∧ b.off + 16 ≤ codeOffset g.parts + codeSize g.parts), bad2 (b.rec_ + 4))]

def IcoGraph.edgeChecks (g : IcoGraph) (e : EdgeRec) : List Check :=
  [((g.blk e.src).isSome, bad2 e.off), (decide (icoNat g.parts (e.off + 3) 1 < 2), bad6 (e.off + 3)),
   ((g.blk e.dst).isSome && (g.blk e.dst).map (·.load) == (g.blk e.src).map (·.load), bad2 (e.off + 4)),
   (icoZero g.parts (e.off + 7) 1, bad6 (e.off + 7))]

/-- The bytes of a parameter's value; a tok takes at least 4 (R58). -/
def paramBytes (ty : Nat) : Nat := match Ty.ofCode ty with | some t => if t.is64 then 8 else 4 | none => 4

def IcoGraph.paramChecks (g : IcoGraph) (p : ParamRec) : List Check :=
  [((Ty.ofCode p.ty).isSome, bad2 p.off), (decide (p.port < 64), bad2 (p.off + 1)),
   (decide (p.load < g.loads.length), bad2 (p.off + 2)), (p.at_ % paramBytes p.ty == 0, bad2 (p.off + 4)),
   (icoZero g.parts (p.off + 6) 2, bad6 (p.off + 6))]

def IcoGraph.factorChecks (g : IcoGraph) (i : Nat) (f : FactorRec) : List Check :=
  let fl := icoNat g.parts (f.off + 1) 1
  let lo := icoNat g.parts (f.off + 4) 2
  let hi := icoNat g.parts (f.off + 6) 2
  [(f.symbol != 0 && (g.factors.take i).all fun x => x.symbol != f.symbol, bad2 f.off), (decide (fl < 2), bad6 (f.off + 1)),
   (icoZero g.parts (f.off + 2) 2, bad6 (f.off + 2)), (decide (1 ≤ lo) && (fl % 2 == 0 || isPowerOf2 lo), bad2 (f.off + 4)),
   (decide (lo ≤ hi ∧ hi ≤ 4096) && (fl % 2 == 0 || isPowerOf2 hi), bad2 (f.off + 6))]

def IcoGraph.regionChecks (g : IcoGraph) (i : Nat) (r : RegionRec) : List Check :=
  [((g.regions.take i).all fun x => !(x.load == r.load && x.id == r.id), bad2 r.off),
   (decide (r.load < g.loads.length), bad2 (r.off + 2)), (decide (1 ≤ r.tiles ∧ r.tiles ≤ 2880), bad2 (r.off + 4)),
   (decide (r.mode ≤ 2), bad2 (r.off + 6)), (decide (icoNat g.parts (r.off + 7) 1 < 2), bad6 (r.off + 7)),
   (if r.mode == 0 then decide (1 ≤ r.buffers ∧ r.buffers ≤ 4) else r.buffers == 0, bad2 (r.off + 8)),
   (icoZero g.parts (r.off + 9) 7, bad6 (r.off + 9))]

def IcoGraph.streamChecks (g : IcoGraph) (i : Nat) (r : StreamRec) : List Check :=
  [((g.streams.take i).all fun x => !(x.load == r.load && x.id == r.id), bad2 r.off),
   (decide (r.load < g.loads.length), bad2 (r.off + 2)), (decide (1 ≤ r.space ∧ r.space ≤ 5), bad2 (r.off + 4)),
   (r.space != 4 || g.declared.testBit 4, { reason := 0x0E, off := r.off + 4 }),
   (r.space != 5 || g.declared.testBit 3, { reason := 0x0E, off := r.off + 4 }),
   (decide (1 ≤ r.window ∧ r.window ≤ 64), bad2 (r.off + 5)), (decide (r.dir ≤ 1), bad2 (r.off + 6)),
   (icoZero g.parts (r.off + 7) 1, bad6 (r.off + 7))]

/-- The graph table (R57, R58), header first, then its records in order. -/
def IcoGraph.tableChecks (g : IcoGraph) : List Check :=
  let t := tableShape g.parts
  [(decide (1 ≤ t.nl ∧ t.nl ≤ 256), bad2 t.base), (decide (1 ≤ t.nb), bad2 (t.base + 2)), (decide (t.np ≤ 64), bad2 (t.base + 8)),
   (icoZero g.parts (t.base + 11) 1, bad6 (t.base + 11)), (icoZero g.parts (t.base + 16) 16, bad6 (t.base + 16)),
   (t.total == t.size, bad2 t.base)] ++
  (g.loads.zipIdx.flatMap fun x => g.loadChecks (t.loads + 16 * x.2) x.2 x.1) ++
  (g.blocks.zipIdx.flatMap fun x => g.blockChecks x.2 x.1) ++ g.edges.flatMap g.edgeChecks ++ g.params.flatMap g.paramChecks ++
  (g.factors.zipIdx.flatMap fun x => g.factorChecks x.2 x.1) ++ (g.regions.zipIdx.flatMap fun x => g.regionChecks x.2 x.1) ++
  (g.streams.zipIdx.flatMap fun x => g.streamChecks x.2 x.1)

/-! ## Features and signatures (R55, R56, R107) -/

/-- The feature section: reserved bits, and features that driver policy does not enable. The mask's reserved bits 63:8 are one
field and its bits 7:0 another (log 81). -/
def IcoGraph.featureChecks (g : IcoGraph) (enabled : Nat) (x : IcoSection) : List Check :=
  [(decide (g.declared < 256), bad6 (x.off + 1)), ((List.range 8).all fun k => !g.declared.testBit k || enabled.testBit k,
    { reason := 0x0E, off := x.off }), (icoZero g.parts (x.off + 8) 8, bad6 (x.off + 8))]

/-- The signature section at an offset has the layout of R55. -/
def signatureShape (ps : Parts) (o : Nat) : Bool :=
  icoNat ps o 2 == 3 && decide (icoNat ps (o + 2) 2 ≤ 15) && icoZero ps (o + 4) 4 && icoZero ps (o + 3381) 3

/-- The two signatures of a block laid out as R55 gives verify over some bytes. -/
def signaturesVerify (ps : Parts) (o : Nat) (message : List Byte) : Bool :=
  Config.verifies message (icoNat ps (o + 2) 2) (partBytes ps (o + 8) 64) (partBytes ps (o + 72) 3309)

/-- The signature section; where a signature is required, both verify over the graph digest. -/
def IcoGraph.signatureChecks (g : IcoGraph) (required : Bool) (digest : BitVec 384) (x : IcoSection) : List Check :=
  [(!required || icoNat g.parts x.off 2 == 3, { reason := 0x11, off := x.off }),
   (!required || decide (icoNat g.parts (x.off + 2) 2 ≤ 15), { reason := 0x11, off := x.off + 2 }),
   (icoZero g.parts (x.off + 4) 4, bad6 (x.off + 4)),
   (!required || signaturesVerify g.parts x.off (wordBytes 48 digest.toNat), { reason := 0x11, off := x.off + 8 }),
   (icoZero g.parts (x.off + 3381) 3, bad6 (x.off + 3381))]

/-- The ICO must carry a signature that verifies (R55): its own flag, or driver policy. -/
def sigRequired (ps : Parts) (sigAll : Bool) : Bool := icoNat ps 6 2 % 2 == 1 || sigAll

/-- What the first binding of a graph checks of its sections, in section-table order (R81, R83). An absent signature section names
no place in that order: it is found after every section (DESIGN CHOICE, log 107). -/
def IcoGraph.sectionsChecks (g : IcoGraph) (enabled : Nat) (sigAll : Bool) (digest : BitVec 384) : List Check :=
  let required := sigRequired g.parts sigAll
  ((icoSections g.parts).flatMap fun x =>
    match x.ty with
    | 1 => g.tableChecks
    | 4 => g.featureChecks enabled x
    | 6 => g.signatureChecks required digest x
    | _ => []) ++
  [(!required || (sectionOf g.parts 6).isSome, { reason := 0x11, off := if icoNat g.parts 6 2 % 2 == 1 then 6 else 0 })]

/-- The bytes that the graph digest covers (R53). -/
def digestBytes (ps : Parts) : List Byte :=
  (icoSections ps).flatMap fun x => if x.ty ≤ 4 then partBytes ps x.off x.size else []

/-! ## What a load holds (R58, R59) -/

/-- A load of a graph, as the translator checks and lowers it: its record, its blocks in block-record order and the records
that are its own, and the features that are declared and enabled. -/
structure LoadCode where
  g       : IcoGraph
  index   : Nat
  rec_    : LoadRec
  blocks  : List Blk
  edges   : List EdgeRec
  params  : List ParamRec
  regions : List RegionRec
  streams : List StreamRec
  enabled : Nat
deriving DecidableEq, Repr

def IcoGraph.load (g : IcoGraph) (k enabled : Nat) : Option LoadCode :=
  (g.loads[k]?).map fun r =>
    { g, index := k, rec_ := r, blocks := g.blocks.filter fun b => b.load == k
      edges := g.edges.filter fun e => (g.blk e.src).any fun b => b.load == k
      params := g.params.filter fun p => p.load == k, regions := g.regions.filter fun r => r.load == k
      streams := g.streams.filter fun r => r.load == k, enabled }

def LoadCode.blk (c : LoadCode) (id : Nat) : Option Blk := c.blocks.find? fun b => b.id == id

/-- The block that a CALL, PAT or MXTILE names. -/
def namedBlock : Instr → Option Nat
  | .call g => some (g.bits 15 0)
  | .pat g => some (g.bits 15 0)
  | .mxtile g => some (g.bits 15 0)
  | _ => none

/-- The blocks of a load that CALL, PAT and MXTILE nodes name. -/
def LoadCode.named (c : LoadCode) : List Nat :=
  c.blocks.flatMap fun b => if b.kind == 1 then [] else b.nodes.filterMap fun x => namedBlock x.2

/-- A stream node (R315). -/
def isStream : Instr → Bool
  | .sld _ | .sst _ | .spld _ => true
  | _ => false

/-- The stream nodes of a load in their numbers' order: block and slot, space, direction (R315). -/
def LoadCode.streamNodes (c : LoadCode) : List (Nat × Nat × Nat × Nat) :=
  c.blocks.flatMap fun b =>
    if b.kind == 1 then []
    else b.nodes.filterMap fun x => if isStream x.2 then
      some (b.id, x.1, ((x.2.gargs).map GArgs.space).getD 0, match x.2 with | .sst _ => 1 | _ => 0) else none

/-- How the ports of a load are joined (R59), and its stream records (R315). R83 gives these checks no place in its order: they
belong to the load, so they are made when it is first translated, after all sections and before its blocks, and a port that
nothing feeds is reported at its block's record (DESIGN CHOICE, log 107). -/
def LoadCode.portChecks (c : LoadCode) : List Check :=
  let named := c.named
  let fed (id k : Nat) : Nat := (c.edges.filter fun e => e.dst == id && e.dstPort == k).length
  let feeds (id k : Nat) : Nat := (c.edges.filter fun e => e.src == id && e.srcPort == k).length
  let isExit (id k : Nat) : Bool := c.rec_.exitB == id && k == 0
  let t := tableShape c.g.parts
  [((c.blk c.rec_.exitB).all fun b => decide (0 < b.exits), bad2 (t.loads + 16 * c.index + 2))] ++
  (c.blocks.flatMap fun b =>
    if named.contains b.id then []
    else
      [((List.range b.entries).all fun k => if b.id == c.rec_.entry then fed b.id k == 0 else fed b.id k == 1, bad2 b.rec_),
       ((List.range b.exits).all fun k => feeds b.id k == if isExit b.id k then 0 else 1, bad2 b.rec_)]) ++
  (c.edges.flatMap fun e =>
    [(!named.contains e.src, bad2 e.off), ((c.blk e.src).any fun b => decide (e.srcPort < b.exits), bad2 (e.off + 2)),
     (!named.contains e.dst, bad2 (e.off + 4)), ((c.blk e.dst).any fun b => decide (e.dstPort < b.entries), bad2 (e.off + 6))]) ++
  (c.params.map fun p => ((c.blk c.rec_.entry).any fun b => decide (p.port < b.entries), bad2 (p.off + 1))) ++
  (c.streams.flatMap fun r =>
    match c.streamNodes[r.id]? with
    | none => [(false, bad2 r.off)]
    | some (_, _, space, dir) => [(r.space == space, bad2 (r.off + 4)), (r.dir == dir, bad2 (r.off + 6))])

end Sys2Proof.Machine
end

