-- ==== Sys2Proof/Machine/Wiring.lean ====
section
/-! DEFINITION. How the nodes of a load are joined: targets and what feeds them, ordering channels (R186), the widths of
channels (R58, R145), and the checks that need the whole load: reasons 0x0A, 0x0B and 0x0F (R43, R64, R82, R83). -/

namespace Sys2Proof.Machine

/-! ## Targets -/

/-- The present targets of an instruction with their numbers 0 to 3 (R62, R70). -/
def targetsOf (i : Instr) : List (Nat × Target) :=
  let main := match i.gargs with | some g => [(0, g.tgtA), (1, g.tgtB)] | none => []
  let more := match i with
    | .fork g => [(2, (forkTarget (g.bits 25 16)).getD none), (3, (forkTarget (g.bits 15 6)).getD none)]
    | _ => []
  (main ++ more).filterMap fun x => x.2.map fun t => (x.1, t)

/-- The lowest bit of a target's field in its word. -/
def targetBit (k : Nat) : Nat := match k with | 0 => 36 | 1 => 26 | 2 => 16 | _ => 6

/-- Every target of a block in scan order: producer's slot, target's number, target. -/
def Blk.arcs (b : Blk) : List (Nat × Nat × Target) := b.nodes.flatMap fun x => (targetsOf x.2).map fun t => (x.1, t.1, t.2)

/-- The targets that feed an operand of a slot: producer's slot and target's number. -/
def Blk.feeds (b : Blk) (s : Nat) (o : Operand) : List (Nat × Nat) :=
  (b.arcs.filter fun x => x.2.2.slot.toNat == s && x.2.2.operand == o).map fun x => (x.1, x.2.1)

/-- The slot and type of the ENTRY or EXIT node of a port. -/
def Blk.entryAt (b : Blk) (k : Nat) : Option (Nat × Ty) :=
  b.nodes.findSome? fun x => match x.2 with | .entry g => if g.bits 5 0 = k then some (x.1, g.ty) else none | _ => none
def Blk.exitAt (b : Blk) (k : Nat) : Option (Nat × Ty) :=
  b.nodes.findSome? fun x => match x.2 with | .exit g => if g.bits 5 0 = k then some (x.1, g.ty) else none | _ => none

/-- The edge that leaves an exit port, and the one that feeds an entry port. -/
def LoadCode.edgeFrom (c : LoadCode) (id k : Nat) : Option EdgeRec := c.edges.find? fun e => e.src == id && e.srcPort == k
def LoadCode.edgeTo (c : LoadCode) (id k : Nat) : Option EdgeRec := c.edges.find? fun e => e.dst == id && e.dstPort == k

/-! ## What an operand takes and what a target carries -/

/-- What feeds an operand: nothing may, something must, or something may. -/
inductive Want where
  | no
  | must (c : Chan)
  | may (c : Chan)
deriving DecidableEq, Repr

def operandIndex : Operand → Nat
  | .a => 0 | .b => 1 | .c => 2 | .p => 3

/-- The MXCFG in tile form of a body (R258). -/
def Blk.tileCfg (b : Blk) : Option GArgs :=
  b.nodes.findSome? fun x => match x.2 with | .mxcfgTile g => some g | _ => none

/-- A format that takes scales (R244, R246). -/
def mxScaledFormat (f : Nat) : Bool := decide (4 ≤ f ∧ f ≤ 8)

/-- An MXTILE's body selects a format that takes scales. -/
def LoadCode.tileScaled (c : LoadCode) (g : GArgs) : Bool :=
  ((c.blk (g.bits 15 0)).bind Blk.tileCfg).any fun x => mxScaledFormat (x.bits 3 0)

/-- Port k of a body or callee. -/
def LoadCode.portWant (c : LoadCode) (id k : Nat) : Want :=
  match c.blk id with
  | some x => if k < x.entries then .must (((x.entryAt k).map fun e => e.2.chan).getD .any) else .no
  | none => .no

/-- What an operand of an instruction takes (R64, R191, R209, R211, R247). -/
def LoadCode.want (c : LoadCode) (ver : Nat) (i : Instr) (o : Operand) : Want :=
  match i with
  | .join _ => .may .ord
  | .zip g => match o with | .a | .b => .must g.ty.chan | .c => .may g.ty.chan | .p => .no
  | .call g => if o = .p then .no else c.portWant (g.bits 15 0) (3 * g.mode.toNat + (operandIndex o))
  | .pat g => if o = .p then .no else c.portWant (g.bits 15 0) (operandIndex o)
  | .mxop _ => match o with | .a | .b => .may .beat | _ => .may .w32
  | .mxtile g => match o with | .a | .b => .must .beat | _ => if c.tileScaled g then .must .w32 else .no
  | i =>
    match opInfo ver i with
    | none => .no
    | some x =>
      match (match o with | .a => x.a | .b => x.b | .c => x.c | .p => x.p) with
      | .no => .no
      | ch => .must ch

/-- What a target of an instruction carries. -/
def LoadCode.carries (c : LoadCode) (ver : Nat) (i : Instr) (k : Nat) : Chan :=
  let exitOf (id port : Nat) : Chan := (((c.blk id).bind fun x => x.exitAt port).map fun e => e.2.chan).getD .any
  match i with
  | .call g => exitOf (g.bits 15 0) (2 * g.mode.toNat + k)
  | .pat g => if g.mode = 1#3 then exitOf (g.bits 15 0) k else if k = 0 then g.ty.chan else .w32
  | .fork g => g.ty.chan
  | i => match opInfo ver i with
    | none => .no
    | some x => if k = 0 then x.outA else x.outB

/-! ## Ordering channels (R186) -/

/-- Whether target k of slot s carries ordering tokens. -/
def LoadCode.isOrd (c : LoadCode) (b : Blk) : Nat → Nat → Nat → Bool
  | 0, _, _ => false
  | n + 1, s, k =>
    match b.instr s with
    | some (.fork g) => g.ty == .tok && match b.feeds s .a with | (s', k') :: _ => c.isOrd b n s' k' | [] => false
    | some (.entry g) => (c.edgeTo b.id (g.bits 5 0)).any fun e => e.ord
    | some i => c.carries b.version i k == .ord
    | none => false

def LoadCode.ordering (c : LoadCode) (b : Blk) (s k : Nat) : Bool := c.isOrd b (b.words.length + 1) s k

/-- Operand a of a FORK, SINK or EXIT of type tok takes ordering tokens or data. -/
def eitherKind : Instr → Bool
  | .fork g | .sink g | .exit g => g.ty == .tok
  | _ => false

/-! ## Widths (R58, R145) -/

/-- The width that a channel's kind fixes: 64 bits or not. -/
def chanWide : Chan → Option Bool
  | .w32 => some false
  | .w64 => some true
  | _ => none

/-- A SEND of a 64-bit value stands in a block, on output channel k. -/
def Blk.sendsWide (b : Blk) (k : Nat) : Bool :=
  b.tasks.any fun x => match x with | some (.taskSend o _ _ w) => o.toNat == k && w == 1#1 | _ => false

/-- The width of the tokens that a load of type tok makes (R271, R321). -/
def tokWidth : Instr → Option Bool
  | .ld g | .ldfe g | .sld g | .gath g => if g.ty = .tok then some (g.opt = 3#2) else none
  | _ => none

/-- The operand whose tokens target k of a node of type tok hands on: AXCHG returns what operand c carries to memory and ARD makes its
value, PAT hands its operands to the entries of its body, and every other node hands on operand a. -/
def handsOn (i : Instr) (k : Nat) : Option Operand :=
  match i with
  | .axchg _ => some .c
  | .ard _ => none
  | .pat _ => match k with | 5 => some .b | 6 => some .c | _ => some .a
  | _ => some .a

/-- The width at an exit port of a block that a CALL or PAT names. -/
def LoadCode.exitWidth (c : LoadCode) (look : Blk → Nat → Nat → Option Bool) (id port : Nat) : Option Bool :=
  (c.blk id).bind fun x => (x.exitAt port).bind fun y => match x.feeds y.1 .a with
    | (s, k) :: _ => look x s k
    | [] => none

/-- The width of what target k of slot s carries, where the load fixes it: a node of type tok hands on what feeds one of its
operands. -/
def LoadCode.outWidth (c : LoadCode) : Nat → Blk → Nat → Nat → Option Bool
  | 0, _, _, _ => none
  | n + 1, b, s, k =>
    match b.instr s with
    | none => none
    | some i =>
      match (chanWide (c.carries b.version i k)).orElse fun _ => tokWidth i, i with
      | some w, _ => some w
      | none, .entry g =>
        (c.edgeTo b.id (g.bits 5 0)).bind fun e => (c.blk e.src).bind fun x =>
          if x.kind = 1 then some (x.sendsWide e.srcPort)
          else (x.exitAt e.srcPort).bind fun y => match x.feeds y.1 .a with
            | (s', k') :: _ => c.outWidth n x s' k'
            | [] => none
      | none, .call g => c.exitWidth (c.outWidth n) (g.bits 15 0) (2 * g.mode.toNat + k)
      | none, .pat g => c.exitWidth (c.outWidth n) (g.bits 15 0) k
      | none, _ => (handsOn i k).bind fun o => match b.feeds s o with
        | (s', k') :: _ => c.outWidth n b s' k'
        | [] => none

/-- The width that the consumers behind an entry port of a named block fix. -/
def LoadCode.entryWidth (c : LoadCode) (look : Blk → Target → Option Bool) (id port : Nat) : Option Bool :=
  (c.blk id).bind fun x => (x.entryAt port).bind fun y =>
    (((x.instr y.1).map targetsOf).getD []).findSome? fun (u : Nat × Target) => look x u.2

/-- The width that the consumers of a node fix, seen through nodes of type tok. -/
def LoadCode.inWidth (c : LoadCode) : Nat → Blk → Target → Option Bool
  | 0, _, _ => none
  | n + 1, b, t =>
    match b.instr t.slot.toNat with
    | none => none
    | some i =>
      match c.want b.version i t.operand with
      | .must ch | .may ch =>
        match chanWide ch, i with
        | some w, _ => some w
        | none, .exit g =>
          (c.edgeFrom b.id (g.bits 5 0)).bind fun e => (c.blk e.dst).bind fun x => (x.entryAt e.dstPort).bind fun y =>
            match chanWide y.2.chan with
            | some w => some w
            | none => (((x.instr y.1).map targetsOf).getD []).findSome? fun (u : Nat × Target) => c.inWidth n x u.2
        | none, .call g => c.entryWidth (c.inWidth n) (g.bits 15 0) (3 * g.mode.toNat + operandIndex t.operand)
        | none, .pat g => c.entryWidth (c.inWidth n) (g.bits 15 0) (operandIndex t.operand)
        | none, _ => (targetsOf i).findSome? fun (u : Nat × Target) => c.inWidth n b u.2
      | .no => none

/-- How far widths are followed. -/
def LoadCode.reach (c : LoadCode) : Nat := c.blocks.foldl (fun n b => n + b.words.length) 1

/-- The widths that the targets of a node agree on, each where it is fixed. -/
def LoadCode.targetWidths (c : LoadCode) (b : Blk) (i : Instr) : List Bool :=
  (targetsOf i).filterMap fun t => c.inWidth c.reach b t.2

/-- A target names an operand of its producer's width, where both are fixed (R145). R203 says that target A of MTEST must feed a
pred operand and names no reason: nothing but the width is held against it (DESIGN CHOICE, log 108). -/
def LoadCode.widthOk (c : LoadCode) (b : Blk) (s : Nat) (k : Nat) (t : Target) : Bool :=
  match (b.instr t.slot.toNat).map fun i => c.want b.version i t.operand with
  | some (.must ch) | some (.may ch) =>
    if c.ordering b s k then true else match chanWide ch, c.outWidth c.reach b s k with
    | some w, some v => w == v
    | _, _ => true
  | _ => true

/-- The bytes of a parameter's value (R58): a tok takes the width of the channels that its ENTRY feeds. -/
def LoadCode.paramWidth (c : LoadCode) (p : ParamRec) : Nat :=
  if p.ty = 12 then
    match (c.blk c.rec_.entry).bind fun b => (b.entryAt p.port).bind fun e => (b.instr e.1).map fun i => c.targetWidths b i with
    | some (true :: _) => 8
    | _ => 4
  else paramBytes p.ty

/-! ## Reasons 0x0A, 0x0B and 0x0F (R82) -/

/-- A failure in a word of a block. -/
def Blk.bad (b : Blk) (reason s bit : Nat) : Bad := { reason, off := b.off + 16 + 8 * s + bit / 8, block := b.id, slot := s }

/-- Operand p of CPYM takes several producers (R350). -/
def manyFeed (i : Option Instr) (o : Operand) : Bool :=
  match i, o with
  | some (.cpym _), .p => true
  | _, _ => false

/-- No target before target k of slot s, in scan order, feeds the same operand. -/
def Blk.onceOk (b : Blk) (s k : Nat) (t : Target) : Bool :=
  manyFeed (b.instr t.slot.toNat) t.operand ||
    (b.arcs.takeWhile fun y => !(y.1 == s && y.2.1 == k)).all fun y => y.2.2 != t

/-- A channel of an array's buses joins what R246, R248 and R259 say. -/
def LoadCode.busOk (c : LoadCode) (b : Blk) (i j : Instr) (k : Nat) (o : Operand) : Bool :=
  let fromEmit (first : Bool) : Bool := match i with
    | .entry g => (c.edgeTo b.id (g.bits 5 0)).any fun e => (c.blk e.src).any fun x => x.kind == 1 && x.tasks.any fun t => match t with
      | some (.taskEmita q _ _ _ _) => first && q.toNat == e.srcPort
      | some (.taskEmitb q _ _ _ _) => !first && q.toNat == e.srcPort
      | _ => false
    | _ => false
  let agen (m : Nat) : Bool := match i with | .agen g => g.mode.toNat == m | _ => false
  match j, o with
  | .mxop _, .a => match i with | .mxa _ => true | _ => false
  | .mxop _, .b => match i with | .mxb _ => true | _ => false
  | .mxop _, _ => match i with | .mxsc _ => true | _ => false
  | .mxa _, .a => agen 2 || fromEmit true
  | .mxb _, .a => agen 3 || fromEmit false
  | .mxtile _, .a => agen 2
  | .mxtile _, .b => agen 3
  | _, _ => c.carries b.version i k != .beat && match i with | .mxsc _ => false | _ => true

/-- One target feeds an operand as R64 and R186 ask. -/
def LoadCode.arcOk (c : LoadCode) (b : Blk) (s k : Nat) (t : Target) : Bool :=
  match b.instr s, b.instr t.slot.toNat with
  | some i, some j =>
    match c.want b.version j t.operand with
    | .no => false
    | .must ch | .may ch =>
      t.slot.toNat != s && c.busOk b i j k t.operand &&
      (if c.ordering b s k then ch == .ord || (eitherKind j && t.operand == .a) else ch != .ord) &&
      decide ((b.feeds t.slot.toNat t.operand).length ≤ 16 ∨
        ((b.feeds t.slot.toNat t.operand).take 16).contains (s, k) ∨ ¬ manyFeed (some j) t.operand)
  | _, _ => true

/-- The ordering edges of a block's ports match what its nodes carry. -/
def LoadCode.portOrdOk (c : LoadCode) (b : Blk) (s : Nat) (i : Instr) : Bool :=
  match i with
  | .entry g => g.ty == .tok || !((c.edgeTo b.id (g.bits 5 0)).any fun e => e.ord)
  | .exit g =>
    let fedOrd := match b.feeds s .a with | (s', k') :: _ => c.ordering b s' k' | [] => false
    let edge := c.edgeFrom b.id (g.bits 5 0)
    (edge.any fun e => e.ord) == fedOrd && (!fedOrd || (g.ty == .tok && (edge.bind fun e => c.blk e.dst).all fun x => x.kind != 1))
  | _ => true

/-- The operands of a node that must be fed are. -/
def LoadCode.fedOk (c : LoadCode) (b : Blk) (s : Nat) (i : Instr) : Bool :=
  [Operand.a, .b, .c, .p].all fun o => match c.want b.version i o with
    | .must _ => !(b.feeds s o).isEmpty
    | _ => true

/-- Reasons 0x0A and 0x0B of a block, one stage in scan order: by slot, a word's targets before what its operands lack (R82). -/
def LoadCode.wiringChecks (c : LoadCode) (b : Blk) : List Check :=
  b.nodes.flatMap fun x =>
    ((targetsOf x.2).flatMap fun t =>
      [(b.onceOk x.1 t.1 t.2, b.bad 0x0A x.1 (targetBit t.1)), (c.arcOk b x.1 t.1 t.2, b.bad 0x0B x.1 (targetBit t.1))]) ++
    [(c.portOrdOk b x.1 x.2, b.bad 0x0B x.1 0), (c.fedOk b x.1 x.2, b.bad 0x0B x.1 0)]

/-- Task channels carry no ordering tokens. The failing field is an edge record's, which comes before the blocks (log 81). -/
def LoadCode.taskEdgeChecks (c : LoadCode) : List Check :=
  c.edges.map fun e => (!e.ord || ((c.blk e.src).all fun x => x.kind != 1), { reason := 0x0B, off := e.off + 3 })

/-- The blocks that a block calls. -/
def Blk.calls (b : Blk) : List Nat := b.nodes.filterMap fun x => match x.2 with | .call g => some (g.bits 15 0) | _ => none

/-- Whether a block is reached from another through CALLs. -/
def LoadCode.calledFrom (c : LoadCode) : Nat → Nat → Nat → Bool
  | 0, _, _ => false
  | n + 1, id, goal => id == goal || match c.blk id with
    | some b => b.calls.eraseDups.any fun k => c.calledFrom n k goal
    | none => false

/-- No block reaches itself through CALLs (R43). -/
def LoadCode.recursionChecks (c : LoadCode) : List Check :=
  c.blocks.flatMap fun b =>
    if b.kind == 1 then []
    else b.nodes.filterMap fun x => match x.2 with
      | .call g => some (!c.calledFrom (c.blocks.length + 1) (g.bits 15 0) b.id, b.bad 0x0F x.1 0)
      | _ => none

/-- The checks that need the whole load, in the order of R83. -/
def LoadCode.wholeChecks (c : LoadCode) : List Check :=
  let graphs := c.blocks.filter fun b => b.kind != 1
  c.taskEdgeChecks ++ graphs.flatMap c.wiringChecks ++ c.recursionChecks

end Sys2Proof.Machine
end

