-- ==== Sys2Proof/Machine/NodeRules.lean ====
section
/-! DEFINITION. What the translator checks of a graph-form word beside the word itself: the rules that its block, the other
nodes of its block, and the records of its load set (R69, R145, R209, R211, R212, R239 to R248, R258, R266, R283, R295,
R323, R334, R351, R407, R419, R429). Each check carries a reason of R82 and the lowest bit of the failing field. -/

namespace Sys2Proof.Machine

/-- A check of one word: whether it passes, the reason and the lowest bit of the field. -/
abbrev WordCheck := Bool × Failure

/-- The Form M fields of a node, where it has wave fields (R68). -/
def waveArgs (ver : Nat) (i : Instr) : Option GArgs :=
  if (opInfo ver i).any fun o => o.wave then i.gargs else none

/-- The Form M nodes of a block before a slot and all of them. -/
def Blk.waves (b : Blk) : List (Nat × GArgs) := b.nodes.filterMap fun x => (waveArgs b.version x.2).map fun g => (x.1, g)

/-- R69: own is unique; pred and succ name Form M nodes, and the successor's pred fits. -/
def Blk.waveChecks (b : Blk) (s : Nat) (i : Instr) : List WordCheck :=
  match waveArgs b.version i with
  | none => []
  | some g =>
    let ws := b.waves
    [(ws.all fun x => decide (x.1 ≥ s) || x.2.own != g.own, (0x0C, 19)),
     (g.pred == 127 || ws.any fun x => x.2.own == g.pred, (0x0C, 12)),
     (g.succ == 127 || ws.any fun x => x.2.own == g.succ && (x.2.pred == g.own || x.2.pred == 127), (0x0C, 5))]

/-- Nodes that are element-wise under R38, memory nodes that return one value per request among them. -/
def elementNode (i : Instr) : Bool :=
  match i.graphOpcode with
  | none => false
  | some op =>
    let n := op.toNat
    let old : Bool := match i.gargs with | some g => g.opt.getLsbD 0 | none => false
    decide (1 ≤ n ∧ n ≤ 0x7D) || n == 0xC0 || n == 0xC2 || n == 0xC6 || n == 0xD7 || n == 0xD8 || n == 0xDC ||
      (decide (0xD0 ≤ n ∧ n ≤ 0xDB) && old) || n == 0xEF || (n == 0xF5 && !old) || decide (0xF7 ≤ n ∧ n ≤ 0xFB)

/-- What a PAT or MXTILE body may hold (R212, R258). -/
def bodyNode (pattern : Nat) (i : Instr) : Bool :=
  elementNode i || match i with
    | .entry _ | .exit _ | .fork _ => true
    | .mxcfgTile _ => pattern == 5
    | _ => false

/-- The nodes of one kind in a load, in scan order: block and slot. -/
def LoadCode.having (c : LoadCode) (p : Instr → Bool) : List (Nat × Nat) :=
  c.blocks.flatMap fun b => if b.kind == 1 then [] else b.nodes.filterMap fun x => if p x.2 then some (b.id, x.1) else none

def isDone : Instr → Bool
  | .done _ => true
  | _ => false

/-- Whether a value is returned with a BINADD or BINRUN: its .rnd. -/
def binRnd : Instr → Option Bool
  | .binadd g | .binrun g => some (g.opt.getLsbD 0)
  | _ => none

/-- The .rnd of the first binning node of the load (R334). -/
def LoadCode.firstRnd (c : LoadCode) : Option Bool :=
  c.blocks.findSome? fun b => if b.kind == 1 then none else b.nodes.findSome? fun x => binRnd x.2

/-! ## Regions (R266, R280, R295) -/

def tscfgArgs : Instr → Option GArgs
  | .tscfg g => some g
  | _ => none

/-- The TSCFG nodes of a load with their places. -/
def LoadCode.tscfgs (c : LoadCode) : List ((Nat × Nat) × GArgs) :=
  c.blocks.flatMap fun b => if b.kind == 1 then [] else b.nodes.filterMap fun x => (tscfgArgs x.2).map fun g => ((b.id, x.1), g)

def LoadCode.region (c : LoadCode) (id : Nat) : Option RegionRec := c.regions.find? fun r => r.id == id

/-- A TSCFG names a region that no earlier TSCFG names, and fits its mode. -/
def LoadCode.tscfgChecks (c : LoadCode) (b : Blk) (s : Nat) (g : GArgs) : List WordCheck :=
  let first := (c.tscfgs.find? fun x => x.2.bits 15 0 == g.bits 15 0).any fun x => x.1 == (b.id, s)
  let r := c.region (g.bits 15 0)
  [(b.pattern == 0, (0x0D, 56)),
   (r.all fun r => (g.ty == .tok) == (r.mode != 2), (0x0D, 52)),
   (r.all fun r => r.mode != 0 || (g.bits 24 16 + 1) % r.buffers == 0, (0x0D, 16)),
   (r.isSome && first, (0x0D, 0))]

/-- The type that the TSCFG of the region of a tile index gives (R265, R266). -/
def LoadCode.tileTy (c : LoadCode) (tile : Nat) : Option Ty :=
  ((c.regions.flatMap fun r => List.replicate r.tiles r.id)[tile]?).bind fun id =>
    (c.tscfgs.find? fun x => x.2.bits 15 0 == id).map fun x => x.2.ty

/-- An LBWIN has the element type of its line buffer: of the one that a CONST on operand a names, else of some line buffer of its load, for
the address is known only when it runs (log 41). -/
def LoadCode.lbwinOk (c : LoadCode) (b : Blk) (s : Nat) (g : GArgs) : Bool :=
  let tys := c.tscfgs.filterMap fun x => if x.2.ty == .tok then none else some x.2.ty
  let named := match (b.feeds s .a).head?.bind fun x => b.instr x.1 with
    | some (.const k) => (c.tileTy (wbits (immValue k.ty k.fmt) 29 18)).filter (· != .tok)
    | _ => none
  match named with
  | some ty => ty == g.ty
  | none => tys.isEmpty || tys.contains g.ty

/-! ## Arrays (R242, R248, R283) -/

/-- The kind, row and column of an element-form node that names its position. -/
inductive MxKind where
  | cfg | op | rd | clr | ld
deriving DecidableEq, Repr

def mxPos : Instr → Option (MxKind × Nat × Nat × GArgs)
  | .mxcfg g => some (.cfg, g.bits 15 13, g.bits 19 16, g)
  | .mxop g => some (.op, g.bits 2 0, g.bits 6 3, g)
  | .accrd g => some (.rd, g.bits 2 0, g.bits 6 3, g)
  | .accclr g => some (.clr, g.bits 2 0, g.bits 6 3, g)
  | .accld g => some (.ld, g.bits 2 0, g.bits 6 3, g)
  | _ => none

/-- A node of the element form of an array. -/
def elementForm : Instr → Bool
  | .mxa _ | .mxb _ | .mxsc _ => true
  | i => (mxPos i).isSome

/-- The positioned nodes of a block: slot, kind, row, column, fields. -/
def Blk.elements (b : Blk) : List (Nat × MxKind × Nat × Nat × GArgs) :=
  b.nodes.filterMap fun x => (mxPos x.2).map fun y => (x.1, y)

/-- The MXCFG nodes of a block: slot, row, column, fields. -/
def Blk.cfgs (b : Blk) : List (Nat × Nat × Nat × GArgs) :=
  b.elements.filterMap fun x => match x with | (s, .cfg, r, c, g) => some (s, r, c, g) | _ => none

/-- The rows and columns of a block's array. -/
def Blk.arrayRows (b : Blk) : Nat := b.cfgs.foldl (fun n x => max n (x.2.1 + 1)) 0
def Blk.arrayCols (b : Blk) : Nat := b.cfgs.foldl (fun n x => max n (x.2.2.1 + 1)) 0

/-- The format of a block's array. -/
def Blk.arrayFormat (b : Blk) : Nat := ((b.cfgs.head?).map fun x => x.2.2.2.bits 3 0).getD 0

/-- The MXOP of a slot: its row and column. -/
def Blk.opAt (b : Blk) (s : Nat) : Option (Nat × Nat) :=
  b.elements.findSome? fun x => match x with | (s', .op, r, c, _) => if s' == s then some (r, c) else none | _ => none

/-- Rules 1 and 2 of R248 at a positioned node, and the accumulator type of R247. -/
def Blk.elementChecks (b : Blk) (s : Nat) (k : MxKind) (r c : Nat) (g : GArgs) : List WordCheck :=
  let cfgs := b.cfgs
  let fst (p : Nat × Nat × Nat × GArgs → Bool) : Option GArgs := (cfgs.find? p).map fun x => x.2.2.2
  let here := fst fun x => x.2.1 == r && x.2.2.1 == c
  let acc : Option Ty := here.bind fun x => (mxFormat (x.bits 3 0)).map fun f => f.1
  let full := (List.range b.arrayRows).all fun i => (List.range b.arrayCols).all fun j => cfgs.any fun x => x.2.1 == i && x.2.2.1 == j
  let single := b.elements.all fun x => decide (x.1 ≥ s) || x.2.1 != k || x.2.2.1 != r || x.2.2.2.1 != c
  match k with
  | .cfg =>
    [((fst fun x => x.2.2.1 == c).all fun x => x.bits 12 8 == g.bits 12 8, (0x0D, 8)),
     ((fst fun x => x.2.1 == r).all fun x => x.bits 7 4 == g.bits 7 4, (0x0D, 4)),
     ((fst fun _ => true).all fun x => x.bits 3 0 == g.bits 3 0, (0x0D, 0)),
     (single && full && b.elements.any fun x => x.2.1 == .op && x.2.2.1 == r && x.2.2.2.1 == c, (0x0D, 0))]
  | _ =>
    [(k == .clr || acc.all fun t => t == g.ty, (0x07, 52)), (here.isSome && single, (0x0D, 0))]

/-- The edge nodes of a kind that target an operand of the MXOP at a position. -/
def Blk.edgeNodes (b : Blk) (is : Instr → Bool) (o : Operand) (r c : Nat) : List Nat :=
  b.nodes.filterMap fun x =>
    match x.2.gargs.bind fun g => g.tgtA with
    | some t => if is x.2 && t.operand == o && b.opAt t.slot.toNat == some (r, c) then some x.1 else none
    | none => none

def isMxa : Instr → Bool
  | .mxa _ => true
  | _ => false
def isMxb : Instr → Bool
  | .mxb _ => true
  | _ => false
def isMxsc : Instr → Bool
  | .mxsc _ => true
  | _ => false

/-- Rules 3 and 4 of R248 at an MXOP: its edge nodes are there. -/
def Blk.edgesPresent (b : Blk) (r c : Nat) : Bool :=
  let scaled := mxScaledFormat b.arrayFormat
  let one (p : Bool) (is : Instr → Bool) (o : Operand) : Bool := !p || (b.edgeNodes is o r c).length == 1
  one (c == 0) isMxa .a && one (r == 0) isMxb .b && one (scaled && c == 0) isMxsc .c && one (scaled && r == 0) isMxsc .p

/-- Rules 3 and 4 of R248 at an edge node: it targets an element of its edge. An MXSC that targets an operand other than c or p of
any node breaks no rule here: it is reason 0x0B (R261). -/
def Blk.edgeTarget (b : Blk) (i : Instr) : Bool :=
  match i.gargs.bind fun g => g.tgtA with
  | none => false
  | some t => (isMxsc i && (t.operand == .a || t.operand == .b)) || (b.opAt t.slot.toNat).any fun x =>
    match i with
    | .mxa _ => t.operand == .a && x.2 == 0
    | .mxb _ => t.operand == .b && x.1 == 0
    | _ => (t.operand == .c && x.2 == 0) || (t.operand == .p && x.1 == 0)

/-- Every array rule at a node of a block. -/
def Blk.arrayChecks (b : Blk) (s : Nat) (i : Instr) : List WordCheck :=
  if !elementForm i then
    match i with
    | .agen g =>
      let before := (b.nodes.filter fun x => decide (x.1 < s) && match x.2 with | .agen h => h.mode == g.mode | _ => false).length
      [(g.mode != 4#3 || decide (before < b.arrayRows), (0x0D, 46)), (g.mode != 5#3 || decide (before < b.arrayCols), (0x0D, 46))]
    | _ => []
  else
    [(b.pattern != 5, (0x0D, 56)), (!isMxsc i || mxScaledFormat b.arrayFormat, (0x0D, 56))] ++
    (match mxPos i with
      | some (k, r, c, g) => b.elementChecks s k r c g ++ (if k == .op then [(b.edgesPresent r c, (0x0D, 0))] else [])
      | none => [(b.edgeTarget i, (0x0D, 36))])

/-! ## Blocks that nodes name (R209, R211, R258, R407) -/

/-- The type that leaves exit port 0 of a load: its EXIT node's, where a graph-form block holds it. -/
def IcoGraph.returnType (g : IcoGraph) (r : LoadRec) : Option Ty :=
  (g.blk r.exitB).bind fun b => if b.kind == 1 then none else (b.exitAt 0).map fun e => e.2

def IcoGraph.spawnChecks (gr : IcoGraph) (g : GArgs) : List WordCheck :=
  let ret := g.opt.getLsbD 0
  match gr.loads[g.bits 7 0]? with
  | none => [(false, (0x0D, 0))]
  | some r =>
    [(!ret || (gr.returnType r).all fun t => t == g.ty, (0x07, 52)), (!ret || r.exitB != 0xFFFF, (0x0D, 46)),
     (!r.handler, (0x0D, 0))]

/-- The parts of a CALL's site. -/
def Blk.siteParts (b : Blk) (g : GArgs) : List Nat :=
  b.nodes.filterMap fun x => match x.2 with
    | .call h => if h.bits 23 0 == g.bits 23 0 then some h.mode.toNat else none
    | _ => none

/-- The rules of R209 at a part of a CALL's site. A callee with no port at all has a site of one part (DESIGN CHOICE, log 109). -/
def LoadCode.callChecks (c : LoadCode) (b : Blk) (g : GArgs) : List WordCheck :=
  match c.blk (g.bits 15 0) with
  | none => [(false, (0x0D, 0))]
  | some x =>
    let k := max 1 (max ((x.entries + 2) / 3) ((x.exits + 1) / 2))
    let parts := b.siteParts g
    let port (t : Option Target) (j : Nat) : Bool := t.isNone || decide (2 * g.mode.toNat + j < x.exits)
    [(parts.length == k && (List.range k).all fun j => parts.contains j, (0x0D, 46)),
     (port g.tgtA 0, (0x0D, 36)), (port g.tgtB 1, (0x0D, 26)),
     (x.kind == 0 && x.pattern == 0 && decide (x.entries ≤ 24 ∧ x.exits ≤ 16), (0x0D, 0))]

/-- The rules of R211 at a PAT: its type is that of exit 0 for reduce and scan, and that of operand a, which is body entry 0, for
map and filter. -/
def LoadCode.patChecks (c : LoadCode) (b : Blk) (g : GArgs) : List WordCheck :=
  match c.blk (g.bits 15 0) with
  | none => [(false, (0x0D, 0))]
  | some x =>
    let m := g.mode.toNat
    let out := (x.exitAt 0).map fun e => e.2
    [(if m == 2 || m == 3 then out.all fun t => t == g.ty else (x.entryAt 0).all fun e => e.2 == g.ty, (0x07, 52)),
     (m != 1 || g.tgtB.isNone || x.exits == 2, (0x0D, 26)),
     (decide (1 ≤ x.entries ∧ x.entries ≤ 3) && (x.exits == 1 || (m == 1 && x.exits == 2)) && x.kind != 1 && x.id != b.id &&
      (m != 4 || out.all fun t => t == .pred), (0x0D, 0))]

def LoadCode.tileChecks (c : LoadCode) (g : GArgs) : List WordCheck :=
  match c.blk (g.bits 15 0) with
  | none => [(false, (0x0D, 0))]
  | some x =>
    let cfg := x.tileCfg
    let acc : Option Ty := cfg.bind fun h => (mxFormat (h.bits 3 0)).map fun f => f.1
    let one := (x.nodes.filter fun y => match y.2 with | .mxcfgTile _ => true | _ => false).length == 1
    [(((x.exitAt 0).map fun e => e.2).all fun t => t == g.ty, (0x07, 52)),
     (x.kind == 0 && x.entries == 1 && x.exits == 1 && one && (x.entryAt 0).map (fun e => e.2) == acc, (0x0D, 0))]

/-! ## SPLD's targets (R323) -/

/-- A target reaches input channels of task blocks, through EXIT, ENTRY and FORK only. -/
def LoadCode.reachesTask (c : LoadCode) : Nat → Blk → Target → Bool
  | 0, _, _ => false
  | n + 1, b, t =>
    let all (x : Blk) (i : Instr) : Bool := (targetsOf i).all fun (u : Nat × Target) => c.reachesTask n x u.2
    match b.instr t.slot.toNat with
    | some (.fork g) => t.operand == .a && all b (.fork g)
    | some (.exit g) =>
      match c.edgeFrom b.id (g.bits 5 0) with
      | none => false
      | some e => match c.blk e.dst with
        | none => false
        | some x => x.kind == 1 || match (x.entryAt e.dstPort).bind fun y => x.instr y.1 with
          | some i => all x i
          | none => false
    | _ => false

/-! ## ENTRY, EXIT and channels (R58, R145, R210, R351, R429) -/

/-- Operand a of a copy takes a packet, operand p of a CPYM its slots; the others take no token. -/
def copyOperand (i : Option Instr) (o : Operand) : Bool :=
  match i, o with
  | some (.cpy _), .a | some (.cpym _), .a | some (.cpym _), .p => true
  | some (.cpy _), _ | some (.cpym _), _ => false
  | _, _ => true

def LoadCode.entryChecks (c : LoadCode) (b : Blk) (s : Nat) (g : GArgs) : List WordCheck :=
  if b.id != c.rec_.entry then []
  else
    let ws := match b.instr s with | some i => c.targetWidths b i | none => []
    let mine := c.params.filter fun p => p.port == g.bits 5 0
    [(mine.all fun p => p.ty == g.ty.code, (0x07, 52)),
     (g.ty != .tok || mine.isEmpty || ws.all fun w => some w == ws.head?, (0x07, 52)),
     (!c.rec_.handler || g.ty == .n32, (0x0D, 52))]

/-- The two ends of an edge between graph-form blocks carry one width. -/
def LoadCode.exitChecks (c : LoadCode) (b : Blk) (s : Nat) (g : GArgs) : List WordCheck :=
  let mine : Option Bool := match chanWide g.ty.chan with
    | some w => some w
    | none => match b.feeds s .a with | (s', k) :: _ => c.outWidth c.reach b s' k | [] => none
  let other : Option Bool := (c.edgeFrom b.id (g.bits 5 0)).bind fun e => (c.blk e.dst).bind fun x =>
    if x.kind == 1 then none else (x.entryAt e.dstPort).bind fun y => chanWide y.2.chan
  [(match mine, other with | some w, some v => w == v | _, _ => true, (0x07, 52))]

/-- Checks of the targets of a word. -/
def LoadCode.targetChecks (c : LoadCode) (b : Blk) (s : Nat) (i : Instr) : List WordCheck :=
  (targetsOf i).flatMap fun t =>
    [(copyOperand (b.instr t.2.slot.toNat) t.2.operand, (0x06, targetBit t.1)), (c.widthOk b s t.1 t.2, (0x07, targetBit t.1))]

/-- A store of type tok has the size of the channel of its value (R271), where the load fixes that. -/
def LoadCode.tokSizeOk (c : LoadCode) (b : Blk) (s : Nat) (i : Instr) : Bool :=
  match i with
  | .st g | .stfe g | .scat g | .sst g | .scatx g =>
    g.ty != .tok || (((b.feeds s .c).head?.bind fun x => c.outWidth c.reach b x.1 x.2).all fun w => w == (g.opt == 3#2))
  | _ => true

/-- Everything that the surroundings of a graph-form word ask of it. -/
def LoadCode.nodeChecks (c : LoadCode) (b : Blk) (s : Nat) (i : Instr) : List WordCheck :=
  let body : List WordCheck := if b.pattern == 0 then [] else [(bodyNode b.pattern i, (0x0D, 56))]
  let own : List WordCheck := match i with
    | .mxcfgTile _ => [(b.pattern == 5, (0x0D, 56))]
    | .done _ => [((c.having isDone).head? == some (b.id, s), (0x0D, 56))]
    | .entry g => c.entryChecks b s g
    | .exit g => c.exitChecks b s g
    | .tscfg g => c.tscfgChecks b s g
    | .lbwin g => [(c.lbwinOk b s g, (0x07, 52))]
    | .call g => c.callChecks b g
    | .pat g => c.patChecks b g
    | .mxtile g => c.tileChecks g
    | .spawn g => c.g.spawnChecks g
    | .binadd g | .binrun g => [(c.firstRnd == some (g.opt.getLsbD 0), (0x0D, 46))]
    | .spld g => ((targetsOf (.spld g)).map fun t => (c.reachesTask c.reach b t.2, (0x0D, targetBit t.1)))
    | .budrd g =>
      [((b.instr (g.bits 6 0)).any fun j => !inRouter j && match j with | .agen _ | .tscfg _ | .mxcfgTile _ => false | _ => true, (0x0D, 0))]
    | _ => []
  [(c.tokSizeOk b s i, (0x08, 46))] ++ body ++ b.waveChecks s i ++ b.arrayChecks s i ++ own ++ c.targetChecks b s i

end Sys2Proof.Machine
end

