-- ==== Sys2Proof/Machine/TaskRules.lean ====
section
/-! DEFINITION. What the translator checks of a task block beside its words (R221, R222, R227, R231 to R234, R241), and the
figures that those rules fix: where each task starts and how many physical tokens it can send (R223). -/

namespace Sys2Proof.Machine

/-! ## One word -/

/-- A task word's registers: those that it reads, those that it writes, and which of its fields td, ta, tb name registers
(R73, R228, R233). -/
structure TaskUse where
  reads  : List Nat := []
  writes : List Nat := []
  fields : Bool × Bool × Bool := (false, false, false)
deriving DecidableEq, Repr

def taskOp (w : W32) : Nat := (w.extractLsb' 25 7).toNat

/-- A word sends on an output channel. -/
def taskSends (w : W32) : Bool := taskOp w == 0x62 || taskOp w == 0x63 || taskOp w == 0x6D || taskOp w == 0x6E

/-- The reply channel that a request word names, with the physical tokens of its reply (R221, R223, R229). -/
def taskReply (w : W32) : Option (Nat × Nat) :=
  let j := (w.extractLsb' 7 2).toNat
  let op := taskOp w
  if op = 0x64 then some (j, if w.getLsbD 9 || w.extractLsb' 3 2 == 3#2 then 2 else 1)
  else if (op = 0x65 ∨ op = 0x66) ∧ w.getLsbD 9 = true then some (j, 1)
  else none

/-- The output channel that a word sends on, with the physical tokens (R227 rule 2). -/
def taskSent (w : W32) : Option (Nat × Nat) :=
  let k := (w.extractLsb' 21 2).toNat
  match taskOp w with
  | 0x62 => some (k, if w.getLsbD 0 then 2 else 1)
  | 0x63 => some (k, 1)
  | 0x6D | 0x6E => some (k, (if w.getLsbD 5 then 1 else 0) + (if w.getLsbD 6 then 1 else 0))
  | _ => none

def taskUse (w : W32) : TaskUse :=
  let d := (taskD w).toNat
  let a := (taskA w).toNat
  let b := (taskB w).toNat
  let reg := !w.getLsbD 12
  let wide := w.getLsbD 6
  let op := taskOp w
  let isWide := if wide then [b] else []
  match op with
  | 0x08 | 0x09 | 0x14 | 0x19 | 0x1A | 0x1B | 0x1C => { reads := [a], writes := [d], fields := (true, true, false) }
  | 0x05 | 0x1E | 0x21 | 0x43 => { reads := [d, a] ++ (if reg then [b] else []), writes := [d], fields := (true, true, reg) }
  | 0x47 => { reads := [a], writes := [d], fields := (true, true, false) }
  | 0x60 | 0x61 | 0x6B => { writes := [d], fields := (true, false, false) }
  | 0x6C => { reads := [d], writes := [d], fields := (true, false, false) }
  | 0x62 => { reads := [a] ++ (if w.getLsbD 0 then [b] else []), fields := (false, true, w.getLsbD 0) }
  | 0x63 | 0x6D | 0x6E | 0x70 => { reads := [a], fields := (false, true, false) }
  | 0x64 => { reads := (if w.getLsbD 9 then [d] else []) ++ [a] ++ isWide, fields := (w.getLsbD 9, true, wide) }
  | 0x65 => { reads := [d] ++ (if w.extractLsb' 3 2 == 3#2 then [d + 1] else []) ++ [a] ++ isWide, fields := (true, true, wide) }
  | 0x66 => { reads := [d, a] ++ isWide, fields := (true, true, wide) }
  | 0x68 => { reads := [a], fields := (false, true, false) }
  | 0x69 => { reads := if reg then [a] else [], fields := (false, true, false) }
  | 0x6F =>
    if w.getLsbD 0 then { reads := [a, a + 1, a + 2, a + 3], writes := [d, d + 1], fields := (true, true, false) }
    else { reads := [a, b], writes := [d, d + 1, d + 2, d + 3], fields := (true, true, true) }
  | 0x67 | 0x6A => {}
  | _ => { reads := [a] ++ (if reg then [b] else []), writes := [d], fields := (true, true, reg) }

/-- REP's fields: step mask, register or immediate count, stride, count (R228, R233). -/
def repMask (w : W32) : Nat := (w.extractLsb' 21 4).toNat
def repImm (w : W32) : Bool := w.getLsbD 12
def repStride (w : W32) : Nat := (w.extractLsb' 8 4).toNat
def repCount (w : W32) : Nat := (w.extractLsb' 0 8).toNat

/-- The registers of repetition k of an instruction under REP; none once a named field passes t15 (R233). -/
def stepped (rep : W32) (w : W32) (k : Nat) : TaskUse :=
  let n := k * repStride rep
  let past (bit : Nat) (x : BitVec 4) : Bool := (repMask rep).testBit bit && decide (15 < x.toNat + n)
  if past 0 (taskD w) || past 1 (taskA w) || past 2 (taskB w) then {} else
  let at_ (bit base : Nat) (x : BitVec 4) : W32 := if (repMask rep).testBit bit then BitVec.ofNat 32 ((x.toNat + n) * 2 ^ base) else (x.setWidth 32) <<< base
  taskUse ((w &&& 0xFE001FFF#32) ||| at_ 0 21 (taskD w) ||| at_ 1 17 (taskA w) ||| at_ 2 13 (taskB w))

/-! ## Paths -/

/-- The words of a task block with the figures that its channels give. -/
structure TaskCode where
  words  : List W32
  inputs : Nat
deriving DecidableEq, Repr

def Blk.taskCode (b : Blk) : TaskCode := { words := b.taskWords, inputs := b.entries }

namespace TaskCode

def word (t : TaskCode) (k : Nat) : W32 := (t.words[k]?).getD 0#32

/-- Where a branch at index k goes (R232). -/
def goal (t : TaskCode) (k : Nat) : Int := (k : Int) + 1 + ((t.word k).extractLsb' 0 13).toInt

/-- Instructions that may come after the one at index k. -/
def succ (t : TaskCode) (k : Nat) : List Nat :=
  let next := if k + 1 < t.words.length then [k + 1] else []
  match taskOp (t.word k) with
  | 0x6A => []
  | 0x67 => [(t.goal k).toNat]
  | 0x68 => (t.goal k).toNat :: next
  | 0x69 => next ++ (if k + 2 < t.words.length then [k + 2] else [])
  | _ => next

/-- One round of following paths: the set with the successors of its members. -/
def spread (t : TaskCode) (seen : List Bool) : List Bool :=
  let more := seen.zipIdx.flatMap fun x => if x.1 then t.succ x.2 else []
  seen.zipIdx.map fun x => x.1 || more.contains x.2

/-- What can be reached from some instructions, each itself included. -/
def reach (t : TaskCode) (from_ : List Nat) : List Bool :=
  t.words.foldl (fun seen _ => t.spread seen) (t.words.zipIdx.map fun x => from_.contains x.2)

/-- An instruction lies on a cycle of branches. -/
def onCycle (t : TaskCode) (k : Nat) : Bool := ((t.reach (t.succ k))[k]?).getD false

/-- The word before an instruction, where that is a REP. -/
def repBefore (t : TaskCode) (k : Nat) : Option W32 :=
  if 0 < k ∧ taskOp (t.word (k - 1)) = 0x69 then some (t.word (k - 1)) else none

/-- Reply channels named, and the ENDs before the last instruction. -/
def named (t : TaskCode) : List Nat := (t.words.filterMap fun w => (taskReply w).map fun x => x.1).eraseDups
def replies (t : TaskCode) : Nat := t.named.length
def ends (t : TaskCode) : List Nat := (t.words.dropLast.zipIdx.filter fun x => taskOp x.1 == 0x6A).map fun x => x.2

/-- Where the task of each channel starts, inputs first (R222). -/
def starts (t : TaskCode) : List Nat := 0 :: ((t.ends.take (t.inputs + t.replies - 1)).map fun k => k + 1)

/-- The greatest sums of a weight over the paths from each instruction (R227 rule 2). -/
def longest (t : TaskCode) (weight : W32 → Nat) : List Nat :=
  let at_ (best : List Nat) (k : Nat) : Nat := (best[k]?).getD 0
  let round (best : List Nat) : List Nat := t.words.zipIdx.map fun x =>
    if taskOp x.1 = 0x69 then (if repImm x.1 then repCount x.1 else 0) * weight (t.word (x.2 + 1)) + at_ best (x.2 + 2)
    else weight x.1 + (t.succ x.2).foldl (fun m j => max m (at_ best j)) 0
  t.words.foldl (fun best _ => round best) (t.words.map fun _ => 0)

/-- The most physical tokens that each task can send on each output channel, and request on each reply channel. -/
def maxima (t : TaskCode) (f : W32 → Option (Nat × Nat)) (n : Nat) : List (List Nat) :=
  let per : List (List Nat) := (List.range n).map fun k => t.longest fun w => match f w with | some (j, x) => if j = k then x else 0 | none => 0
  t.starts.map fun s => per.map fun l => (l[s]?).getD 0

/-- What each task can reach. -/
def reached (t : TaskCode) : List (List Bool) := t.starts.map fun s => t.reach [s]

/-- The indexes of the instructions that a task can reach. -/
def own (t : TaskCode) (s : Nat) : List Nat :=
  ((t.reach [(t.starts[s]?).getD 0]).zipIdx.filter fun x => x.1).map fun x => x.2

/-- Ordered tasks (R227 rule 3), by rounds over the reply channels. -/
def ordered (t : TaskCode) : List Bool :=
  let n := t.starts.length
  let namers : List (List Nat) := (List.range t.replies).map fun j =>
    (List.range n).filter fun s => (t.own s).any fun k => ((taskReply (t.word k)).map fun x => x.1) == some j
  let round (o : List Bool) : List Bool := (List.range n).map fun s =>
    if s < t.inputs then true
    else match (namers[s - t.inputs]?).getD [] with
      | [x] => x != s && (o[x]?).getD false
      | _ => false
  (List.range (n + 1)).foldl (fun o _ => round o) (List.replicate n false)

/-- Registers that an instruction writes, under the REP before it as well. -/
def writes (t : TaskCode) (k : Nat) : List Nat :=
  match t.repBefore k with
  | some r => (List.range 16).flatMap fun i => (stepped r (t.word k) i).writes.filter (· < 16)
  | none => (taskUse (t.word k)).writes

/-- Registers read before they are written, given those live after an instruction. -/
def before (u : TaskUse) (live : List Nat) : List Nat := (u.reads ++ live.filter fun r => !u.writes.contains r).eraseDups

/-- Registers live before each instruction, one round (R227 rule 4). A REP stands for its repetitions. -/
def liveRound (t : TaskCode) (live : List (List Nat)) : List (List Nat) :=
  let at_ (k : Nat) : List Nat := (live[k]?).getD []
  t.words.zipIdx.map fun x =>
    let k := x.2
    if taskOp x.1 = 0x69 then
      let after := at_ (k + 2)
      let runs (n : Nat) : List Nat := (List.range n).foldr (fun i l => before (stepped x.1 (t.word (k + 1)) i) l) after
      let counts : List Nat := if repImm x.1 then [min (repCount x.1) 16] else List.range 17
      ((if repImm x.1 then [] else [(taskA x.1).toNat]) ++ counts.flatMap runs).eraseDups.filter (· < 16)
    else before (taskUse x.1) ((t.succ k).flatMap at_).eraseDups

/-- The registers that are live-in to each task. -/
def liveIn (t : TaskCode) : List (List Nat) :=
  let l := t.words.foldl (fun l _ => t.liveRound l) (t.words.map fun _ => [])
  t.starts.map fun s => (l[s]?).getD []

end TaskCode

/-! ## Checks -/

/-- Reason and lowest bit of a check of one task word. -/
abbrev TaskCheck := Bool × Failure

/-- The channel that an output of a task block feeds: the ENTRY's block, slot and type. -/
def LoadCode.taskOut (c : LoadCode) (b : Blk) (k : Nat) : Option (Blk × Nat × Ty) :=
  (c.edgeFrom b.id k).bind fun e => (c.blk e.dst).bind fun x => if x.kind = 1 then none else (x.entryAt e.dstPort).map fun y => (x, y.1, y.2)

/-- The width that the consumer of an output channel reads. Where that fixes none, as in a task block or for a tok that only passes
through, the channel carries 64-bit values as soon as one SEND of the block puts one on it, for a channel has one width (R145). -/
def LoadCode.taskOutWidth (c : LoadCode) (b : Blk) (k : Nat) : Bool :=
  let reads : Option Bool := (c.taskOut b k).bind fun y => match chanWide y.2.2.chan with
    | some w => some w
    | none => (((y.1.instr y.2.1).map targetsOf).getD []).findSome? fun (u : Nat × Target) => c.inWidth c.reach y.1 u.2
  reads.getD (b.sendsWide k)

/-- The width of the tokens that reach an input channel: an edge's producer, or a parameter (R231). -/
def LoadCode.taskInWidth (c : LoadCode) (b : Blk) (k : Nat) : Option Bool :=
  match c.edgeTo b.id k with
  | some e => (c.blk e.src).bind fun x =>
    if x.kind = 1 then some (x.sendsWide e.srcPort)
    else (x.exitAt e.srcPort).bind fun y => match chanWide y.2.chan with
      | some w => some w
      | none => match x.feeds y.1 .a with | (s, j) :: _ => c.outWidth c.reach x s j | [] => none
  | none => if b.id = c.rec_.entry then (c.params.find? fun p => p.port == k).map fun p => decide (paramBytes p.ty = 8) else none

/-- The triggers that a RECV of word 1 can read are 64-bit, where the load fixes their width. -/
def LoadCode.recvOk (c : LoadCode) (b : Blk) (t : TaskCode) (k : Nat) : Bool :=
  (List.range t.starts.length).all fun s =>
    !(t.own s).contains k ||
    (if s < t.inputs then c.taskInWidth b s != some false
     else t.words.any fun w => match taskReply w with | some (j, n) => j + t.inputs == s && n == 2 | none => false)

/-- The MXOP that the row groups of an output channel reach: its block and slot. -/
def LoadCode.emitGoal (c : LoadCode) (b : Blk) (k : Nat) : Option (Nat × Nat) :=
  let next (x : Blk) (s : Nat) : Option Nat := (((x.instr s).map targetsOf).getD []).head?.map fun u => u.2.slot.toNat
  (c.taskOut b k).bind fun y => ((next y.1 y.2.1).bind (next y.1)).map fun s => (y.1.id, s)

/-- The output channels of a block's EMITA and EMITB. -/
def TaskCode.emits (t : TaskCode) : List Nat :=
  (t.words.filter fun w => taskOp w == 0x6D || taskOp w == 0x6E).map fun w => (w.extractLsb' 21 2).toNat

/-- An EMITA or EMITB channel feeds an ENTRY whose only target is operand a of an MXA or MXB (R241), and carries no SEND
tokens; all those of a block reach one MXOP, for the block stands on its tile. -/
def LoadCode.emitOk (c : LoadCode) (b : Blk) (t : TaskCode) (op k : Nat) : Bool :=
  (t.words.all fun w => !(taskOp w == 0x62 && ((w.extractLsb' 21 2).toNat == k))) &&
  (t.words.all fun w => !((taskOp w == 0x6D || taskOp w == 0x6E) && (w.extractLsb' 21 2).toNat == k) || taskOp w == op) &&
  (t.emits.all fun j => c.emitGoal b j == c.emitGoal b k) &&
  match c.taskOut b k with
  | none => false
  | some (x, s, _) => match (x.instr s).map targetsOf with
    | some [(_, u)] => u.operand == .a && (x.instr u.slot.toNat).any fun i => match i with
      | .mxa _ => op == 0x6D
      | .mxb _ => op == 0x6E
      | _ => false
    | _ => false

/-- What a REP asks of the instruction after it (R233, R234). -/
def TaskCode.repChecks (t : TaskCode) (k : Nat) (w : W32) : List TaskCheck :=
  let n := t.word (k + 1)
  let op := taskOp n
  let u := (taskUse n).fields
  let m := repMask w
  let next := decide (k + 1 < t.words.length) && !(op == 0x67 || op == 0x68 || op == 0x69 || op == 0x6A || op == 0x70)
  [(next, (0x0D, 25)),
   ((!m.testBit 0 || u.1) && (!m.testBit 1 || u.2.1) && (!m.testBit 2 || u.2.2), (0x0D, 21)),
   (!(op == 0x65 && n.extractLsb' 3 2 == 3#2 && m.testBit 0 && repStride w % 2 == 1), (0x0D, 8))]

/-- The checks of one task word that need its block or load. -/
def LoadCode.taskWordChecks (c : LoadCode) (b : Blk) (t : TaskCode) (k : Nat) : List TaskCheck :=
  let w := t.word k
  let op := taskOp w
  let talks := taskSends w || (taskReply w).isSome
  let target : List TaskCheck :=
    if op == 0x67 || op == 0x68 then [(decide (0 ≤ t.goal k ∧ t.goal k < t.words.length), (0x09, 0))] else []
  let last : List TaskCheck := if k + 1 = t.words.length then [(op == 0x67 || op == 0x6A, (0x0D, 25))] else []
  let rep : List TaskCheck := if op == 0x69 then t.repChecks k w else []
  let rule1 : List TaskCheck := if talks then [(!t.onCycle k && (t.repBefore k).all repImm, (0x0D, 25))] else []
  let out : List TaskCheck := if taskSends w then [(decide ((w.extractLsb' 21 2).toNat < b.exits), (0x0D, 21))] else []
  let emit : List TaskCheck := if op == 0x6D || op == 0x6E then [(c.emitOk b t op (w.extractLsb' 21 2).toNat, (0x0D, 21))] else []
  let send : List TaskCheck := if op == 0x62 then
    [(c.taskOutWidth b (w.extractLsb' 21 2).toNat == w.getLsbD 0, (0x07, 0))] else []
  let recv : List TaskCheck := if op == 0x60 && w.getLsbD 0 then [(c.recvOk b t k, (0x07, 0))] else []
  last ++ rep ++ rule1 ++ out ++ emit ++ send ++ recv ++ target

/-- The rules of a whole task block (R221, R222, R227 rules 2 to 5), each reported at the ports of its header. -/
def TaskCode.blockChecks (t : TaskCode) : List Bool :=
  let m := t.replies
  let n := t.starts.length
  let ord := t.ordered
  let live := t.liveIn
  let isOrd (s : Nat) : Bool := (ord[s]?).getD false
  let liveOf (s : Nat) : List Nat := (live[s]?).getD []
  [(List.range m).all fun j => t.named.contains j,
   decide (t.inputs + m ≤ t.ends.length + 1),
   ((t.maxima taskSent 4) ++ t.maxima taskReply 4).all fun l => l.all fun x => decide (x ≤ 4),
   (List.range n).all fun s =>
     if isOrd s then (List.range n).all fun s' => s' == s || (t.own s').all fun k => (t.writes k).all fun r => !(liveOf s).contains r
     else (liveOf s).isEmpty,
   (List.range 4).all fun o =>
     let ws := (List.range n).filter fun s => (t.own s).any fun k => match taskSent (t.word k) with | some (j, _) => j == o | none => false
     decide (ws.length ≤ 1) && ws.all isOrd]

end Sys2Proof.Machine
end

