-- ==== Sys2Proof/Machine/Blocks.lean ====
section
/-! DEFINITION. The checks of one load (R59 to R83): the joins of its ports, its blocks in block-record order, each header
before its slots, its regions, a handler load's shape (R429), and the checks that need the whole load. -/

namespace Sys2Proof.Machine

/-! ## Words -/

/-- A failing check with the greatest lowest bit, the first such one: fields are checked downwards (R83). -/
def worst : List WordCheck → Option Failure
  | [] => none
  | (ok, f) :: rest =>
    match worst rest with
    | none => if ok then none else some f
    | some g => if ok || decide (f.2 < g.2) then some g else some f

/-- A number with bits lo to hi cleared. -/
def clearBits (w lo hi : Nat) : Nat := w - ((w >>> lo) % 2 ^ (hi + 1 - lo)) <<< lo

/-- The highest bit that must be cleared, from lo upwards, for a decoder no longer to reject at lo. -/
def rejectTop (dec : Nat → Except Reject Instr) (w lo : Nat) : Nat :=
  ((List.range 64).find? fun k => decide (lo ≤ k) && match dec (clearBits w lo k) with
    | .ok _ => true
    | .error r => r.failure.2 != lo).getD lo

/-- A rejected word with the rejected fields cleared, so that the fields above them can be checked. -/
def mended (dec : Nat → Except Reject Instr) : Nat → Nat → Option Instr
  | 0, _ => none
  | n + 1, w =>
    match dec w with
    | .ok i => some i
    | .error r => mended dec n (clearBits w r.failure.2 (rejectTop dec w r.failure.2))

/-- The field of a task word that a bit lies in, by its lowest bit (R72). -/
def taskField (k : Nat) : Nat := if 25 ≤ k then 25 else if 21 ≤ k then 21 else if 17 ≤ k then 17 else if 13 ≤ k then 13 else 0

/-- The first failure of a word: the decoder's rejection, or a check of a higher field. -/
def wordFailure (dec : Nat → Except Reject Instr) (field : Nat → Nat) (checks : Instr → List WordCheck) (w : Nat) : Option Failure :=
  match dec w with
  | .ok i => worst (checks i)
  | .error r =>
    let (reason, lo) := r.failure
    let bit := max lo (field (rejectTop dec w lo))
    let above := ((mended dec 4 w).bind fun i => worst (checks i)).filter fun f => decide (bit < f.2)
    some (above.getD (reason, bit))

/-! ## Headers (R60, R61) -/

/-- Opcodes of Form M, by number (R74). -/
def formM (op : Nat) : Bool :=
  match graphOp op false with
  | some mk =>
    let i := mk { ty := .tok, mode := 0#3, imm := false, opt := 0#2, tgtA := none, tgtB := none, fmt := 0#26 }
    (opInfo 3 i).any fun o => o.wave
  | none => false

def wordOp (w : W64) : Nat := (w >>> 56).toNat

/-- The patterns that the nodes naming a block require. -/
def LoadCode.patterns (c : LoadCode) (id : Nat) : List Nat :=
  c.blocks.flatMap fun b => if b.kind == 1 then [] else b.nodes.filterMap fun x => match x.2 with
    | .pat g => if g.bits 15 0 == id then some g.mode.toNat else none
    | .mxtile g => if g.bits 15 0 == id then some 5 else none
    | _ => none

/-- Exactly one word of an opcode for each port below n. -/
def Blk.portNodes (b : Blk) (op n : Nat) : Bool :=
  (List.range n).all fun k => (b.words.filter fun w => wordOp w == op && w.toNat % 64 == k).length == 1

def LoadCode.headerChecks (c : LoadCode) (b : Blk) : List Check :=
  let task := b.kind == 1
  let at_ (byte reason : Nat) : Bad := { reason, off := b.off + byte, block := b.id }
  let ps := c.patterns b.id
  let waves := !task && b.words.any fun w => formM (wordOp w)
  let nodes (op n : Nat) : Bool := task || b.portNodes op n
  [(b.magic == 0xB7, at_ 15 0x03),
   (decide (1 ≤ b.version ∧ b.version ≤ 3), at_ 14 0x04),
   (b.kind == 1 || b.kind == (if c.rec_.handler then 2 else 0), at_ 14 0x03),
   (b.up 47 47 == 0, at_ 13 0x06),
   (b.words.length == b.count + 1, at_ 13 0x03),
   (decide (b.pattern ≤ 5) && (!task || b.pattern == 0) && (ps.all (· == b.pattern)) && (b.pattern == 0 || !ps.isEmpty), at_ 12 0x03),
   (b.factor == 0 || (!task && c.g.factors.any fun f => f.symbol == b.factor), at_ 11 0x03),
   (b.width == 0 || (decide (b.width ≤ 6) && !task && (b.pattern == 0 || b.pattern == 2 || b.pattern == 3)), at_ 10 0x03),
   ((!task || decide (1 ≤ b.entries ∧ b.entries ≤ 4)) && nodes 0x92 b.entries, at_ 9 0x03),
   ((!task || decide (b.exits ≤ 4)) && nodes 0x93 b.exits, at_ 9 0x03),
   (b.policy / 32 == 0, at_ 8 0x06),
   (b.ident == b.id, at_ 6 0x03),
   (if waves then decide (b.waveFirst ≤ b.waveLast) else b.waveFirst == 127, at_ 5 0x03),
   (if waves then decide (b.waveLast ≤ 126) else b.waveLast == 127, at_ 4 0x03),
   (b.low 33 0 == 0, at_ 0 0x06)]

/-! ## Blocks -/

def LoadCode.env (c : LoadCode) (b : Blk) : BlockEnv :=
  { version := b.version, kind := b.kind, slots := b.words.length, entries := b.entries, exits := b.exits
    waveFirst := b.waveFirst, waveLast := b.waveLast, features := c.enabled }

/-- The checks that a word's own fields and its block's header set (R66 and after). -/
def fieldChecks (env : BlockEnv) (i : Instr) : List WordCheck :=
  match opInfo env.version i, i.gargs with
  | some o, some g => graphChecks env i g o
  | _, _ => taskChecks env i

/-- A check that reports the failure of a word, where it has one. -/
def Blk.slotCheck (b : Blk) (s half : Nat) (f : Option Failure) : List Check :=
  match f with
  | none => []
  | some (reason, bit) => [(false, { reason, off := b.off + 16 + 8 * s + 4 * half + bit / 8, block := b.id, slot := s, half })]

def LoadCode.graphWords (c : LoadCode) (b : Blk) : List Check :=
  let env := c.env b
  b.words.zipIdx.flatMap fun x =>
    b.slotCheck x.2 0 (wordFailure (fun w => decodeGraph (BitVec.ofNat 64 w)) id
      (fun i => fieldChecks env i ++ c.nodeChecks b x.2 i) x.1.toNat)

def LoadCode.taskBlock (c : LoadCode) (b : Blk) : List Check :=
  let env := c.env b
  let t := b.taskCode
  (t.words.zipIdx.flatMap fun x =>
    b.slotCheck (x.2 / 2) (x.2 % 2) (wordFailure (fun w => decodeTask (BitVec.ofNat 32 w)) taskField
      (fun i => fieldChecks env i ++ c.taskWordChecks b t x.2) x.1.toNat)) ++
  t.blockChecks.map fun ok => (ok, { reason := 0x0D, off := b.off + 9, block := b.id })

def LoadCode.blockChecks (c : LoadCode) (b : Blk) : List Check :=
  c.headerChecks b ++ (if b.kind == 1 then c.taskBlock b else c.graphWords b)

/-! ## The load -/

/-- A parameter of type tok lies at a multiple of its width (R58). -/
def LoadCode.tokParams (c : LoadCode) : List Check :=
  c.params.map fun p => (p.at_ % c.paramWidth p == 0, bad2 (p.off + 4))

/-- Every region has its TSCFG (R295), and a handler load the shape of R429: failures of records of the graph table, which come
before the blocks in the order of R83. -/
def LoadCode.loadChecks (c : LoadCode) : List Check :=
  let at_ := (tableShape c.g.parts).loads + 16 * c.index
  (c.regions.map fun r => (c.tscfgs.any fun x => x.2.bits 15 0 == r.id, { reason := 0x0D, off := r.off })) ++
  [(!c.rec_.handler || (c.params.isEmpty && c.rec_.exitB == 0xFFFF && (c.blk c.rec_.entry).any fun b => b.entries == 1),
    { reason := 0x0D, off := at_ })]

/-- The first failure of a load, in the scan order of R83. -/
def LoadCode.failure (c : LoadCode) : Option Bad :=
  match firstBad (c.portChecks ++ c.tokParams ++ c.loadChecks) with
  | some b => some b
  | none =>
    match c.blocks.findSome? fun b => firstBad (c.blockChecks b) with
    | some b => some b
    | none => firstBad c.wholeChecks

end Sys2Proof.Machine
end

