-- ==== Sys2Proof/Machine/Lower.lean ====
section
/-! DEFINITION. Lowering a load (R43, R89, R177, R209, R211, R258, R265, R315): the copies of its blocks, the nodes with where
their targets lead, the task-mode PEs, the memory tiles, the channels with their widths and tracks, and the image that binding reads. A
CALL's nodes stand for nothing; a reduce, scan or filter PAT has a second node, and an MXTILE a reader. -/

namespace Sys2Proof.Machine

/-! ## Copies of blocks -/

/-- One copy of a graph-form block: how it came about, innermost first, as (naming block, site), a body counting as site
65,536 + slot; and the index of its first node. -/
structure Inst where
  blk  : Blk
  path : List (Nat × Nat) := []
  base : Nat := 0
deriving DecidableEq, Repr

/-- The copies that a block's nodes ask for, in slot order: (block named, site). -/
def Blk.children (b : Blk) : List (Nat × Nat) :=
  (b.nodes.filterMap fun x => match x.2 with
    | .call g => some (g.bits 15 0, g.bits 23 16)
    | .pat g | .mxtile g => some (g.bits 15 0, 65536 + x.1)
    | _ => none).eraseDups

/-- A block's copy and the copies under it. -/
def LoadCode.expand (c : LoadCode) : Nat → Blk → List (Nat × Nat) → List Inst
  | 0, _, _ => []
  | n + 1, b, path =>
    { blk := b, path } :: b.children.flatMap fun k => match c.blk k.1 with
      | some x => c.expand n x ((b.id, k.2) :: path)
      | none => []

/-- Copies with the indexes of their first nodes. -/
def withBases : Nat → List Inst → List Inst
  | _, [] => []
  | n, i :: rest => { i with base := n } :: withBases (n + i.blk.words.length) rest

/-- What lowering has laid out: the copies, the PAT and MXTILE nodes that have a second node, and the task blocks. -/
structure Layout where
  c      : LoadCode
  insts  : List Inst
  seconds : List (Nat × Nat)
  pes    : List Blk
deriving DecidableEq, Repr

/-- The slots of a copy whose nodes have a second node. -/
def Inst.seconds (i : Inst) : List Nat :=
  i.blk.nodes.filterMap fun x => match x.2 with
    | .pat g => if g.mode = 1#3 then none else some x.1
    | .mxtile _ => some x.1
    | _ => none

def LoadCode.layout (c : LoadCode) : Layout :=
  let named := c.named
  let roots := c.blocks.filter fun b => b.kind != 1 && !named.contains b.id
  let insts := withBases 0 (roots.flatMap fun b => c.expand (c.blocks.length + 1) b [])
  { c, insts, seconds := insts.flatMap fun i => i.seconds.map fun s => (i.base, s), pes := c.blocks.filter fun b => b.kind == 1 }

namespace Layout

def inst (l : Layout) (id : Nat) (path : List (Nat × Nat)) : Option Inst := l.insts.find? fun i => i.blk.id == id && i.path == path

/-- The nodes of the copies, before the second nodes. -/
def total (l : Layout) : Nat := l.insts.foldl (fun n i => n + i.blk.words.length) 0

/-- The index of a second node. -/
def second (l : Layout) (i : Inst) (s : Nat) : Nat := l.total + (l.seconds.idxOf (i.base, s))

/-- The ENTRY node of a port of a copy. -/
def entry (l : Layout) (id : Nat) (path : List (Nat × Nat)) (port : Nat) : Option Dest :=
  (l.inst id path).bind fun i => (i.blk.entryAt port).map fun e => .operand (i.base + e.1) .a

/-- Where a target of slot s of a copy leads (R63, R209, R350). -/
def dest (l : Layout) (i : Inst) (s : Nat) (t : Target) : Option Dest :=
  let k := t.slot.toNat
  match i.blk.instr k with
  | none => none
  | some (.call g) =>
    l.entry (g.bits 15 0) ((i.blk.id, g.bits 23 16) :: i.path) (3 * g.mode.toNat + operandIndex t.operand)
  | some (.cpym _) =>
    if t.operand = .p then
      let slots := (((i.blk.feeds k .p).map fun x => x.1).eraseDups).filter (· < s)
      some (.slotOf (i.base + k) slots.length)
    else some (.operand (i.base + k) t.operand)
  | some _ => some (.operand (i.base + k) t.operand)

/-- Where an edge leads: an input channel of a task block, or an ENTRY. -/
def edge (l : Layout) (e : EdgeRec) : Option Dest :=
  match l.pes.findIdx? fun b => b.id == e.dst with
  | some k => some (.pe k e.dstPort)
  | none => l.entry e.dst [] e.dstPort

/-- Where a port of a root block leads: along its edge, or out of the load (R59). -/
def port (l : Layout) (id k : Nat) : Option Dest :=
  match l.c.edgeFrom id k with
  | some e => l.edge e
  | none => if l.c.rec_.exitB = id ∧ k = 0 then some (.exit 0) else none

/-- What a CALL, PAT or MXTILE node hands exit port k of the copy it names to. -/
def handOver (l : Layout) (up : Inst) (id n k : Nat) : List (Option Dest) :=
  let lead (s : Nat) (t : Option Target) : Option Dest := t.bind (l.dest up s)
  if n < 65536 then
    match up.blk.nodes.find? fun x => match x.2 with
      | .call g => g.bits 15 0 == id && g.bits 23 16 == n && g.mode.toNat == k / 2
      | _ => false with
    | some (s, i) => match i.gargs with
      | some g => [lead s (if k % 2 = 0 then g.tgtA else g.tgtB)]
      | none => []
    | none => []
  else
    let s := n - 65536
    match up.blk.instr s with
    | some (.pat g) =>
      if g.mode = 1#3 then [lead s (if k = 0 then g.tgtA else g.tgtB)]
      else [some (.operand (l.second up s) (if g.mode = 4#3 then .p else .a))]
    | some (.mxtile g) => [lead s g.tgtA, lead s g.tgtB]
    | _ => []

/-- Where exit port k of a copy leads (R209 to R211, R259). -/
def exits (l : Layout) (i : Inst) (k : Nat) : List (Option Dest) :=
  match i.path with
  | [] => [l.port i.blk.id k]
  | (up, n) :: rest => match l.inst up rest with
    | some u => l.handOver u i.blk.id n k
    | none => []

/-- The copy number: the rank of a copy among those of its block, by their sites, innermost first (R292). -/
def copyOf (l : Layout) (i : Inst) : Nat :=
  let less : List (Nat × Nat) → List (Nat × Nat) → Bool := fun p q =>
    match (p.zip q).find? fun x => x.1 != x.2 with
    | some (a, b) => decide (a.1 < b.1 ∨ (a.1 = b.1 ∧ a.2 < b.2))
    | none => decide (p.length < q.length)
  (l.insts.filter fun j => j.blk.id == i.blk.id && less j.path i.path).length

/-! ## Arrays (R243, R248, R283) -/

/-- The slot of the node of a kind at a position, or none. -/
def at_ (b : Blk) (k : MxKind) (r c : Nat) : Option Nat :=
  (b.elements.find? fun x => x.2.1 == k && x.2.2.1 == r && x.2.2.2.1 == c).map fun x => x.1

/-- The k-th AGEN of a mode in a block. -/
def agenAt (b : Blk) (mode k : Nat) : Option Nat :=
  ((b.nodes.filter fun x => match x.2 with | .agen g => g.mode.toNat == mode | _ => false)[k]?).map fun x => x.1

/-- Where an element's buses lead: east and south, to the neighbours, or from the last element to a sink. -/
def buses (i : Inst) (r c : Nat) : List (Option Dest) :=
  let lead (s : Option Nat) (o : Operand) : Option Dest := s.map fun k => .operand (i.base + k) o
  let b := i.blk
  let east (o : Operand) : Option Dest := lead (at_ b .op r (c + 1)) o
  let south (o : Operand) : Option Dest := lead (at_ b .op (r + 1) c) o
  let a := if c + 1 < b.arrayCols then east .a else lead (agenAt b 4 r) .c
  let s := if r + 1 < b.arrayRows then south .b else lead (agenAt b 5 c) .c
  [none, none, a, s, east .c, south .p]

/-- What an element's engine node refers to: its governor class, MXCFG, and accumulator controls. -/
def engineRefs (i : Inst) (r c : Nat) : List Nat :=
  let ref (k : MxKind) : Nat := ((at_ i.blk k r c).map fun s => i.base + s + 1).getD 0
  [(mxTable i.blk.arrayFormat).cls, i.base + (at_ i.blk .cfg r c).getD 0, ref .rd, ref .clr, ref .ld]

/-- The rows and columns of the array that an MXTILE is lowered into (R258). -/
def tileShape (g : GArgs) : Nat × Nat :=
  let f := mxTable (g.bits 3 0)
  ((g.bits 10 4 + f.rows) / f.rows, (g.bits 19 11 + f.cols) / f.cols)

/-- The engine node of an MXTILE: its class, the MXCFG of its body, and the rows and columns of its array. -/
def tileRefs (l : Layout) (i : Inst) (s id : Nat) : List Nat :=
  match l.inst id ((i.blk.id, 65536 + s) :: i.path) with
  | none => []
  | some body =>
    let cfg := (body.blk.nodes.find? fun x => match x.2 with | .mxcfgTile _ => true | _ => false).map fun x => x.1
    let (nr, nc) := (body.blk.tileCfg.map tileShape).getD (1, 1)
    [((body.blk.tileCfg.map fun g => (mxTable (g.bits 3 0)).cls).getD 8), body.base + cfg.getD 0, 0, 0, 0, nr, nc]

/-! ## Nodes -/

/-- Where the targets of a node lead. -/
def outs (l : Layout) (i : Inst) (s : Nat) (ins : Instr) : List (Option Dest) :=
  let lead (t : Option Target) : Option Dest := t.bind (l.dest i s)
  match ins with
  | .call _ | .mxtile _ => [none, none, none, none]
  | .exit g => l.exits i (g.bits 5 0)
  | .fork g =>
    [lead g.tgtA, lead g.tgtB, lead ((forkTarget (g.bits 25 16)).getD none), lead ((forkTarget (g.bits 15 6)).getD none)]
  | .mxop g => buses i (g.bits 2 0) (g.bits 6 3)
  | .pat g =>
    let body (k : Nat) : Option Dest := l.entry (g.bits 15 0) ((i.blk.id, 65536 + s) :: i.path) k
    [none, none, none, none, body 0, body 1, body 2] ++
      (if g.mode = 4#3 then [some (.operand (l.second i s) .a)] else [])
  | ins => match ins.gargs with
    | some g => [lead g.tgtA, lead g.tgtB, none, none]
    | none => []

/-- What a node refers to. -/
def refs (l : Layout) (i : Inst) (s : Nat) (ins : Instr) : List Nat :=
  match mxPos ins with
  | some (.op, r, c, _) => engineRefs i r c
  | some (.cfg, _, _, _) => []
  | some (_, r, c, _) => ((at_ i.blk .op r c).map fun k => i.base + k).toList
  | none => match ins with
    | .mxtile g => l.tileRefs i s (g.bits 15 0)
    | .cpym _ => [(((i.blk.feeds s .p).map fun x => x.1).eraseDups).length]
    | _ => []

/-- The prefetch window of a stream node (R315). -/
def window (l : Layout) (id s : Nat) : Nat :=
  match l.c.streamNodes.findIdx? fun x => x.1 == id && x.2.1 == s with
  | none => 8
  | some j => ((l.c.streams.find? fun r => r.id == j).map fun r => r.window).getD 8

def info (b : Blk) (features : Nat) : BlockInfo :=
  { id := b.id, version := b.version, kind := b.kind, pattern := b.pattern, policy := BitVec.ofNat 8 b.policy
    widthLog2 := b.width, features }

/-- The nodes of a copy. -/
def nodesOf (l : Layout) (features : Nat) (i : Inst) : List Node :=
  let copy := l.copyOf i
  i.blk.words.zipIdx.map fun x =>
    let ins := i.blk.instr x.2
    { word := x.1, info := info i.blk features, slot := x.2, copy, outs := (ins.map (l.outs i x.2)).getD []
      window := l.window i.blk.id x.2, refs := (ins.map (l.refs i x.2)).getD [] }

/-- The second node of a PAT, which reduces, scans or filters, or of an MXTILE, which reads its tile out. -/
def secondNode (l : Layout) (features : Nat) (x : Nat × Nat) : Option Node :=
  (l.insts.find? fun i => i.base == x.1 && i.seconds.contains x.2).bind fun i =>
    (i.blk.instr x.2).map fun ins =>
      let word := (i.blk.words[x.2]?).getD 0#64
      let node : Node := { word, info := info i.blk features, slot := x.2, copy := l.copyOf i }
      match ins with
      | .mxtile g =>
        { node with outs := [none, none, none, none, l.entry (g.bits 15 0) ((i.blk.id, 65536 + x.2) :: i.path) 0], refs := [i.base + x.2] }
      | .pat g =>
        { node with outs := [g.tgtA.bind (l.dest i x.2), g.tgtB.bind (l.dest i x.2), none, none],
                    refs := [1, ((l.c.blk (g.bits 15 0)).map fun b => b.width).getD 0] }
      | _ => node

/-! ## Task-mode PEs (R219 to R227) -/

def taskPe (l : Layout) (features : Nat) (b : Blk) : TaskPe :=
  let t := b.taskCode
  let n := t.starts.length
  { words := b.words.flatMap fun (w : W64) => [w.setWidth 32, (w >>> 32).setWidth 32]
    info := info b features, inputs := b.entries, starts := t.starts
    wide := (List.range n).map fun k => (if k < b.entries then l.c.taskInWidth b k else none).getD false
    chans := List.replicate n {}, ages := List.replicate n 0
    outs := (List.range b.exits).map fun k => (l.port b.id k).toList, outWide := (List.range b.exits).map b.sendsWide
    sendMax := t.maxima taskSent 4, replyMax := t.maxima taskReply 4
    regs := List.replicate 16 {}, rowA := List.replicate 16 {}, rowB := List.replicate 32 {} }

/-! ## Memory tiles (R265, R266) -/

/-- KiB of a region in each of its tiles. -/
def kib (r : RegionRec) (g : GArgs) : Nat :=
  if r.mode = 2 then ((g.mode.toNat + 1) * (g.bits 24 16 + 1) * paddedBytes g.ty + 1023) / 1024 else g.bits 24 16 + 1
where
  paddedBytes (t : Ty) : Nat := if t.is64 then 8 else 4

def alloc (r : RegionRec) (g : GArgs) : TileAlloc :=
  { region := r.id, mode := r.mode, rounded := r.rounded, buffers := max r.buffers 1, bytes := 1024 * kib r g, ty := g.ty
    lines := if r.mode = 2 then g.mode.toNat + 1 else 1, len := if r.mode = 2 then g.bits 24 16 + 1 else 1 }

/-- The regions of a load with their TSCFG fields, in record order. -/
def regions (c : LoadCode) : List (RegionRec × GArgs) :=
  c.regions.filterMap fun r => (c.tscfgs.find? fun x => x.2.bits 15 0 == r.id).map fun x => (r, x.2)

def tiles (c : LoadCode) : List TileAlloc := (regions c).flatMap fun x => List.replicate x.1.tiles (alloc x.1 x.2)

/-- The range numbers that a load uses (R331). -/
def ranges (c : LoadCode) : List Nat :=
  (c.blocks.flatMap fun b => b.nodes.filterMap fun x => match x.2 with
    | .rangeInit g | .rangePull g => some (g.bits 5 0)
    | _ => none).eraseDups

end Layout

/-! ## Channels (R30, R140, R177, R186) -/

/-- A channel: the node or task PE that sends into it, by its number among the nodes and then the PEs, the target or output channel
there, and where it leads. -/
structure Wire where
  src : Nat
  out : Nat
  dst : Dest
deriving DecidableEq, Repr

/-- The channels of nodes and task PEs. -/
def wiresOf (nodes : List Node) (pes : List TaskPe) : List Wire :=
  (nodes.zipIdx.flatMap fun x => x.1.outs.zipIdx.filterMap fun o => o.1.map fun d => { src := x.2, out := o.2, dst := d }) ++
  pes.zipIdx.flatMap fun x => x.1.outs.zipIdx.flatMap fun o => o.1.map fun d => { src := nodes.length + x.2, out := o.2, dst := d }

/-- The channel that feeds an operand. -/
def feedOf (ws : List Wire) (j : Nat) (o : Operand) : Option Wire := ws.find? fun w => w.dst == .operand j o

/-- What is known of channels before they are routed: the load, its nodes, task PEs and channels, and the number of the first second
node. -/
structure Net where
  c      : LoadCode
  nodes  : List Node
  pes    : List TaskPe
  wires  : List Wire
  firsts : Nat
deriving DecidableEq, Repr

namespace Net

/-- The width that a channel's consumer fixes. -/
def wantWide (t : Net) : Dest → Option Bool
  | .operand j o => if t.firsts ≤ j then none else (t.nodes[j]?).bind fun n => n.instr.bind fun i =>
      match t.c.want n.info.version i o with
      | .must ch | .may ch => chanWide ch
      | .no => none
  | .pe k q => (t.pes[k]?).bind fun x => x.wide[q]?
  | _ => none

/-- The width of an argument of the load, at an ENTRY of its entry block. -/
def argWide (t : Net) (n : Node) : Option Bool :=
  match n.instr with
  | some (.entry g) =>
    if n.info.id = t.c.rec_.entry then (t.c.params.find? fun p => p.port == g.bits 5 0).map fun p => t.c.paramWidth p == 8 else none
  | _ => none

/-- A channel carries 64-bit values, where the load fixes its width (R145): its consumer does, or its producer, or what feeds the operand
that its producer hands on. -/
def wide (t : Net) : Nat → Wire → Option Bool
  | 0, _ => none
  | f + 1, w => (t.wantWide w.dst).orElse fun _ =>
    match t.nodes[w.src]? with
    | none => (t.pes[w.src - t.nodes.length]?).bind fun x => x.outWide[w.out]?
    | some n => n.instr.bind fun i =>
      let own := if 4 ≤ w.out then none else chanWide (t.c.carries n.info.version i w.out)
      (own.orElse fun _ => tokWidth i).orElse fun _ =>
        ((handsOn i w.out).bind fun o => (feedOf t.wires w.src o).bind (t.wide f)).orElse fun _ => t.argWide n

/-- A channel carries ordering tokens (R186). -/
def ord (t : Net) : Nat → Wire → Bool
  | 0, _ => false
  | f + 1, w =>
    match t.nodes[w.src]? with
    | none => false
    | some n => match n.instr with
      | some (.fork g) | some (.entry g) | some (.exit g) => g.ty == .tok && (feedOf t.wires w.src .a).any (t.ord f)
      | some i => t.c.carries n.info.version i w.out == .ord
      | none => false

def reach (t : Net) : Nat := t.nodes.length + t.pes.length + 1

/-- The tracks of a channel as a plan routes it (R178): where its consumer stands in a router, the last track's buffer is its queue. -/
def hops (plan : Plan) (place : Place) (j op : Nat) : List Hop :=
  match plan.routes.find? fun r => r.node == j && r.op == op with
  | none => []
  | some r =>
    let path := match place with
      | .router .. | .branch .. => r.path.dropLast
      | _ => r.path
    path.map fun k => { track := k }

/-- The capacity of a node's queues by its place, in physical tokens: four entries on a PE (R140), a track's buffer in a router (R177),
two beats on an engine (R242); the spec gives memory tiles no figure. -/
def capAt : Place → Option Nat
  | .pe .. => some 4
  | .router .. | .branch .. => some trackPlaces
  | .mfe .. => some 2
  | _ => none

/-- The queue of operand o of node j as the plane enters LIVE. -/
def queue (t : Net) (plan : Plan) (j : Nat) (n : Node) (place : Place) (o : Operand) : Queue :=
  let feed := feedOf t.wires j o
  { hops := hops plan place j (operandIndex o), cap := capAt place
    wide := match feed with
      | some w => (t.wide t.reach w).getD false
      | none => (if o = .a then t.argWide n else none).getD false
    ord := feed.any (t.ord t.reach) }

/-- The channels of a task-mode PE as the plane enters LIVE; the memory system feeds its reply channels. -/
def chans (t : Net) (plan : Plan) (k : Nat) (x : TaskPe) : List Queue :=
  x.chans.zipIdx.map fun q =>
    { q.1 with hops := hops plan (.pe 0 0 0) (t.nodes.length + k) q.2, cap := some 4, wide := (x.wide[q.2]?).getD false }

end Net

namespace Layout

/-! ## The image -/

/-- The operands of a node that something feeds. -/
def fedBits (ds : List Dest) (k : Nat) : BitVec 4 :=
  ds.foldl (fun (m : BitVec 4) d => match d with
    | .operand j o => if j = k then m ||| (1#4 <<< operandIndex o) else m
    | .slotOf j _ => if j = k then m ||| 8#4 else m
    | _ => m) 0#4

/-- Where the argument tokens of the load's entry block go. -/
def entries (l : Layout) : List (Nat × Dest) :=
  let b := l.c.rec_.entry
  match l.pes.findIdx? fun x => x.id == b with
  | some k => (List.range (((l.pes[k]?).map fun x => x.entries).getD 0)).map fun p => (p, .pe k p)
  | none => (List.range (((l.c.blk b).map fun x => x.entries).getD 0)).filterMap fun p => (l.entry b [] p).map fun d => (p, d)

/-- The number of a SPAWN node among the SPAWN nodes, by rank. -/
def numberSpawns (ns : List Node) (rank : Node → Nat) : List Node :=
  let isSpawn (n : Node) : Bool := match (decodeGraph n.word).toOption with | some (.spawn _) => true | _ => false
  let ranks := (ns.filter isSpawn).map rank
  ns.map fun n => if isSpawn n then { n with refs := [(ranks.filter fun r => decide (r < rank n)).length] } else n

/-- The nodes of a load before they are placed, and its task PEs. -/
def raw (l : Layout) (features : Nat) : List Node := l.insts.flatMap (l.nodesOf features) ++ l.seconds.filterMap (l.secondNode features)

/-- The channels of a load. -/
def net (l : Layout) (features : Nat) : Net :=
  let nodes := l.raw features
  let pes := l.pes.map (l.taskPe features)
  { c := l.c, nodes, pes, wires := wiresOf nodes pes, firsts := l.total }

/-- The image of a load, placed, routed and shaped as a plan says. -/
def image (l : Layout) (features : Nat) (rank : Node → Nat) (plan : Plan) : Image :=
  let t := l.net features
  let ds := (t.wires.map fun w => w.dst) ++ l.entries.map fun e => e.2
  let place (k : Nat) : Place := (plan.places[k]?).getD .none
  let near (k : Nat) : Nat := (plan.near[k]?).getD 0
  let point (k : Nat) : Nat := ((plan.attach.find? fun a => a.node == k).map fun a => a.point).getD 0
  let nodes := t.nodes.zipIdx.map fun x =>
    let q (o : Operand) : Queue := t.queue plan x.2 x.1 (place x.2) o
    { x.1 with fed := fedBits ds x.2, place := place x.2, near := near x.2, point := point x.2, port := (plan.ports[x.2]?).getD 0
               a := q .a, b := q .b, c := q .c, p := q .p }
  { nodes := numberSpawns nodes rank
    pes := t.pes.zipIdx.map fun x =>
      let k := nodes.length + x.2
      { x.1 with place := place k, near := near k, point := point k, chans := t.chans plan x.2 x.1 }
    tiles := tiles l.c
    width := plan.width, height := plan.height, parity := if plan.parity then 1 else 0, bx := plan.bx, bY := plan.bY
    edges := plan.edges, cap := max 1 plan.cap
    kib := (regions l.c).foldl (fun m x => max m (kib x.1 x.2)) 0
    slots := l.pes.foldl (fun m b => max m (2 * b.words.length)) 0
    entries := l.entries
    params := l.c.params.map fun p => { port := p.port, ty := (Ty.ofCode p.ty).getD .tok, offset := p.at_, bytes := l.c.paramWidth p }
    ranges := ranges l.c }

end Layout

end Sys2Proof.Machine
end

