-- ==== Sys2Proof/Machine/PlanRules.lean ====
section
/-! DEFINITION. What a plan must respect (R12, R17, R25, R92, R139, R177 to R181, R211, R239 to R243, R258, R265, R281, R283, R296,
R335, R375, R419): the manual leaves the translator's choices open, and these are their bounds. A load for which no plan respects them
cannot fit any paddock (reason 0x10). -/

namespace Sys2Proof.Machine

/-- A position inside a rectangle. -/
def planInside (p : Plan) (x y : Nat) : Bool := decide (x < p.width ∧ y < p.height)

/-- A position of a compute tile, and of a memory tile (R12). -/
def planCompute (p : Plan) (x y : Nat) : Bool := planInside p x y && (x + y + (if p.parity then 1 else 0)) % 2 == 0
def planMemory (p : Plan) (x y : Nat) : Bool := planInside p x y && (x + y + (if p.parity then 1 else 0)) % 2 == 1

/-- A place exists in the rectangle. -/
def planHas (p : Plan) : Place → Bool
  | .pe x y k => planCompute p x y && decide (k < 8)
  | .mfe x y => planCompute p x y
  | .router x y k => planInside p x y && decide (k < 4)
  | .memTile x y => planMemory p x y
  | .branch x y => planInside p x y
  | .none => true

/-- Memory tiles of a rectangle. -/
def planMemTiles (p : Plan) : Nat :=
  (List.range p.height).foldl (fun n y => n + ((List.range p.width).filter fun x => planMemory p x y).length) 0

/-- Kinds of places. -/
inductive PlaceKind where
  | pe | mfe | router | memTile | branch | none
deriving DecidableEq, Repr

def placeKind : Place → PlaceKind
  | .pe .. => .pe
  | .mfe .. => .mfe
  | .router .. => .router
  | .memTile .. => .memTile
  | .branch .. => .branch
  | .none => .none

/-! ## Nodes by what they are -/

/-- The nodes of an image that hold an instruction, each with its number. -/
def Image.decoded (im : Image) : List (Nat × Node × Instr) :=
  im.nodes.zipIdx.filterMap fun x => x.1.instr.map fun i => (x.2, x.1, i)

/-- The node that a target leads to. -/
def nodeTo (nodes : List Node) (d : Option Dest) : Option Node :=
  match d with
  | some (.operand j _) => nodes[j]?
  | _ => none

/-- An ENTRY that hands row groups on to a matrix operand (R241): it is a place on a bus, and takes no slot. -/
def beatEntry (nodes : List Node) (n : Node) : Bool :=
  match n.instr with
  | some (.entry _) => match (nodeTo nodes (n.out 0)).bind Node.instr with
    | some (.mxa _) | some (.mxb _) => true
    | _ => false
  | _ => false

/-- The kinds of place that a node may take. RED, REDX, SCAN, FILT, CMPCT and the patterns take more than one place (R181): the others
stand among the plan's `extras`. Where a memory node stands the spec leaves open but for a PE (R144): a PE or a memory-tile function
(DESIGN CHOICE, log 120). -/
def placesFor (nodes : List Node) (n : Node) (i : Instr) (second : Bool) : List PlaceKind :=
  match i with
  | .call _ | .tscfg _ | .mxcfg _ | .mxcfgTile _ | .mxa _ | .mxb _ | .mxsc _ | .accrd _ | .accclr _ | .accld _ => [.none]
  | .mxop _ => [.mfe]
  | .mxtile _ => if second then [.none] else [.mfe]
  | .agen _ => [.memTile]
  | .entry _ => if beatEntry nodes n then [.none] else [.router]
  | .exit _ => [.router]
  | .fork _ => [.router, .branch]
  | .red _ | .redx _ | .scan _ => [.pe]
  | .pat g => if second && (g.mode == 2#3 || g.mode == 3#3) then [.pe] else [.router]
  | i =>
    if inRouter i then [.router]
    else if (opInfo 3 i).any fun o => o.wave then [.pe, .memTile]
    else [.pe]

/-- A node reaches memory through a stream port (R296). -/
def portNode (i : Instr) : Bool :=
  match i with
  | .rangeInit _ | .rangePull _ | .binrun _ | .cpy _ | .cpym _ => true
  | .fence _ | .agen _ | .scat _ | .lbwin _ => false
  | i => ((opInfo 3 i).any fun o => o.wave) && (i.gargs.any fun g => g.space != 0)

def copyNode : Instr → Bool
  | .cpy _ | .cpym _ => true
  | _ => false

/-- A task block sends requests beyond tile space. -/
def peOutside (t : TaskPe) : Bool :=
  t.words.any fun w => (taskOp w == 0x64 || taskOp w == 0x65 || taskOp w == 0x66) && w.extractLsb' 0 3 != 0#3

def peIsl (t : TaskPe) : Bool := t.words.any fun w => taskOp w == 0x6D || taskOp w == 0x6E || taskOp w == 0x6F

/-! ## Shape and places -/

/-- A plan's rectangle and die boundaries (R25, R92). -/
def planShapeOk (p : Plan) : Bool :=
  decide (1 ≤ p.width ∧ p.width ≤ 80 ∧ 1 ≤ p.height ∧ p.height ≤ 72 ∧ 2 ≤ p.width * p.height) &&
  decide (if p.bx = 0 then p.width ≤ 40 else p.bx < p.width ∧ p.bx ≤ 40 ∧ p.width - p.bx ≤ 40) &&
  decide (if p.bY = 0 then p.height ≤ 36 else p.bY < p.height ∧ p.bY ≤ 36 ∧ p.height - p.bY ≤ 36)

/-- The compute tiles that an image's arrays take. -/
def Image.mfeTiles (im : Image) : List (Nat × Nat) := im.nodes.flatMap Node.mfeTiles

/-- Every place is one that the rectangle has, of a kind that the node may take, and no two share one. -/
def Image.placesOk (im : Image) (plan : Plan) (firsts : Nat) : Bool :=
  let all := im.nodes.map (·.place) ++ im.pes.map (·.place) ++ plan.extras
  let used := all.filter fun p => match p with | .none | .memTile .. | .branch .. => false | _ => true
  let agens := im.decoded.filterMap fun x => match x.2.2 with | .agen _ => some x.2.1.place | _ => none
  all.all (planHas plan) && used.eraseDups.length == used.length &&
  (im.decoded.all fun x => (placesFor im.nodes x.2.1 x.2.2 (decide (firsts ≤ x.1))).contains (placeKind x.2.1.place)) &&
  (im.pes.all fun t => placeKind t.place == .pe) &&
  im.mfeTiles.eraseDups.length == im.mfeTiles.length && im.mfeTiles.all (fun t => planCompute plan t.1 t.2) &&
  agens.all fun p => decide ((agens.filter (· == p)).length ≤ 2)

/-! ## Factors, and what lowering adds (R89, R110, R181, R211) -/

/-- The physical factors respect their records (R58). -/
def factorsOk (g : IcoGraph) (plan : Plan) : Bool :=
  plan.factors.length == g.factors.length &&
  (plan.factors.zip g.factors).all fun x =>
    decide (icoNat g.parts (x.2.off + 4) 2 ≤ x.1 ∧ x.1 ≤ icoNat g.parts (x.2.off + 6) 2) &&
    (icoNat g.parts (x.2.off + 1) 1 % 2 == 0 || isPowerOf2 x.1)

/-- The physical factor of a symbol, 1 for symbol 0 (R211). -/
def factorOf (g : IcoGraph) (fs : List Nat) (symbol : Nat) : Nat :=
  if symbol = 0 then 1 else ((g.factors.zip fs).find? fun x => x.1.symbol == symbol).elim 1 fun x => x.2

/-- PEs and router slots that a node takes beside its own place: RED, REDX and SCAN a slot, FILT and CMPCT a PE, and a PAT those of the
further copies of its body, its own second slot or PE among them. -/
def extraPlaces (c : LoadCode) (fs : List Nat) (i : Instr) (second : Bool) : Nat × Nat :=
  match i with
  | .red _ | .redx _ | .scan _ => (0, 1)
  | .filt _ | .cmpct _ => (1, 0)
  | .pat g =>
    if second then (if g.mode = 4#3 then (1, 0) else (0, 1))
    else match c.blk (g.bits 15 0) with
      | none => (0, 0)
      | some b =>
        let kinds := b.nodes.map fun x => placesFor [] { word := 0#64 } x.2 false
        let more := factorOf c.g fs b.factor - 1
        (more * (kinds.filter fun k => k.contains .pe).length, more * (kinds.filter fun k => k == [.router]).length)
  | _ => (0, 0)

/-- The PEs and router slots that lowering adds to a load. -/
def Layout.added (l : Layout) (nodes : List Node) (fs : List Nat) : Nat × Nat :=
  nodes.zipIdx.foldl (fun n x => match x.1.instr with
    | some i => let e := extraPlaces l.c fs i (decide (l.total ≤ x.2)); (n.1 + e.1, n.2 + e.2)
    | none => n) (0, 0)

/-- The plan's further places hold what lowering adds. -/
def Layout.extrasOk (l : Layout) (im : Image) (plan : Plan) : Bool :=
  let (pes, slots) := l.added im.nodes plan.factors
  decide (pes ≤ (plan.extras.filter fun p => placeKind p == .pe).length ∧
    slots ≤ (plan.extras.filter fun p => placeKind p == .router).length)

/-! ## Arrays (R243, R258, R283) -/

/-- The origin that an element's place and position give its array. -/
def elementOrigin (n : Node) (i : Instr) : Option (Nat × Nat) :=
  match i, n.place with
  | .mxop g, .mfe a b => if 2 * g.bits 6 3 ≤ a ∧ 2 * g.bits 2 0 ≤ b then some (a - 2 * g.bits 6 3, b - 2 * g.bits 2 0) else none
  | _, _ => none

/-- Tiles lie in one die of the rectangle. -/
def planOneDie (p : Plan) (ts : List (Nat × Nat)) : Bool :=
  (p.bx == 0 || ts.all (fun t => decide (t.1 < p.bx)) || ts.all fun t => decide (p.bx ≤ t.1)) &&
  (p.bY == 0 || ts.all (fun t => decide (t.2 < p.bY)) || ts.all fun t => decide (p.bY ≤ t.2))

/-- The elements of the array of an MXOP: those of its copy of its block. -/
def Image.elements (im : Image) (n : Node) : List (Node × Instr) :=
  im.decoded.filterMap fun y => match y.2.2 with
    | .mxop g => if y.2.1.info.id = n.info.id ∧ y.2.1.copy = n.copy then some (y.2.1, .mxop g) else none
    | _ => none

/-- The tiles of the array of an MXOP or MXTILE. -/
def Image.arrayOf (im : Image) (n : Node) : List (Nat × Nat) :=
  match n.instr with
  | some (.mxop _) => (im.elements n).flatMap fun y => y.1.mfeTiles
  | _ => n.mfeTiles

/-- The elements of each array stand as R243 says. -/
def Image.arraysOk (im : Image) : Bool :=
  im.decoded.all fun x => match x.2.2 with
    | .mxop _ => (elementOrigin x.2.1 x.2.2).isSome &&
        (im.elements x.2.1).all fun y => elementOrigin y.1 y.2 == elementOrigin x.2.1 x.2.2
    | _ => true

/-- The tiles of the array that an AGEN node in a bus mode serves, and whether the AGEN stands where R243 and R283 put it: a source
beside its row or column, for an MXTILE beside one of them, a sink beyond the last element. -/
def Image.agenArray (im : Image) (k : Nat) (n : Node) (mode : Nat) : List (Nat × Nat) × Bool :=
  let at_ (e : Node) (ok : Nat × Nat → Nat × Nat → Bool) : Bool := (placeXY e.place).any fun p => e.mfeTiles.any (ok p)
  let west (e : Node) : Bool := at_ e fun p t => t.1 == p.1 && decide (0 < t.1) && n.place == .memTile (t.1 - 1) t.2
  let north (e : Node) : Bool := at_ e fun p t => t.2 == p.2 && decide (0 < t.2) && n.place == .memTile t.1 (t.2 - 1)
  let last (out : Nat) : Option Node := im.nodes.find? fun e => e.out out == some (.operand k .c)
  let fed : Option Node := (nodeTo im.nodes (n.out 0)).bind fun e => match e.instr with
    | some (.mxa _) | some (.mxb _) => nodeTo im.nodes (e.out 0)
    | _ => some e
  match mode with
  | 2 => fed.elim ([], (n.out 0).isNone) fun e => (im.arrayOf e, west e)
  | 3 => fed.elim ([], (n.out 0).isNone) fun e => (im.arrayOf e, north e)
  | 4 => (last 2).elim ([], true) fun e => (im.arrayOf e, (placeXY e.place).any fun p => n.place == .memTile (p.1 + 1) p.2)
  | 5 => (last 3).elim ([], true) fun e => (im.arrayOf e, (placeXY e.place).any fun p => n.place == .memTile p.1 (p.2 + 1))
  | _ => ([], true)

/-- No array, and no bus between an array and its sources and sinks, crosses a die boundary. -/
def Image.busesOk (im : Image) (plan : Plan) : Bool :=
  im.decoded.all fun x => match x.2.2 with
    | .agen g =>
      let (ts, ok) := im.agenArray x.1 x.2.1 g.mode.toNat
      ok && planOneDie plan (ts ++ (if ts.isEmpty then [] else (placeXY x.2.1.place).toList))
    | .mxop _ | .mxtile _ => planOneDie plan (im.arrayOf x.2.1)
    | _ => true

/-- A task block that fills staging rows stands on PE7, on the tile of the element that it feeds (R239, R241). -/
def Image.islOk (im : Image) (t : TaskPe) : Bool :=
  if !peIsl t then true
  else match t.place with
    | .pe x y 7 =>
      t.words.all fun w =>
        if taskOp w == 0x6D || taskOp w == 0x6E then
          ((t.outs[(w.extractLsb' 21 2).toNat]?).getD []).all fun d =>
            let next (n : Node) : Option Node := nodeTo im.nodes (n.out 0)
            (((nodeTo im.nodes (some d)).bind next).bind next).any fun e => e.place == .mfe x y
        else true
    | _ => false

/-- A BUDRD stands on the tile of the node that it names (R419). -/
def Image.budrdOk (im : Image) : Bool :=
  im.decoded.all fun x => match x.2.2 with
    | .budrd g =>
      match im.nodes.find? fun y => y.info.id == x.2.1.info.id && y.copy == x.2.1.copy && y.slot == g.bits 6 0 with
      | some y => placeXY y.place == placeXY x.2.1.place
      | none => true
    | _ => true

/-! ## Stream ports and copy ports (R296, R335, R375) -/

/-- What the attach point with a number on an edge serves: nodes and task PEs, and the windows of its streams. -/
def Image.served (im : Image) (md point : Nat) : Nat × Nat :=
  let ns := im.decoded.filter fun x => portNode x.2.2 && x.2.1.near == md && x.2.1.point == point
  (ns.length + (im.pes.filter fun t => peOutside t && t.near == md && t.point == point).length,
   (ns.filter fun x => isStream x.2.2).foldl (fun n x => n + x.2.1.window) 0)

/-- The attach points and copy ports serve the nodes, and the edges that nodes need are named (R91). -/
def Image.portsOk (im : Image) (plan : Plan) : Bool :=
  let uses := (im.decoded.filter fun x => portNode x.2.2).map (fun x => (x.2.1.near, x.2.1.point)) ++
    (im.pes.filter peOutside).map fun t => (t.near, t.point)
  let copies := (im.decoded.filter fun x => copyNode x.2.2).map fun x => x.2.1
  uses.all (fun u => decide (u.1 < 4) && plan.edges.getLsbD u.1 && decide (u.2 < if u.1 % 2 = 0 then plan.width else plan.height) &&
    decide ((im.served u.1 u.2).1 ≤ 16 ∧ (im.served u.1 u.2).2 ≤ 256)) &&
  copies.all (fun x => decide (x.port < 64 ∧ x.port / 16 = x.near) && decide ((copies.filter fun y => y.port == x.port).length ≤ 8)) &&
  im.decoded.all fun x => match x.2.2 with
    | .kturn g | .lstat g => decide (4 ≤ g.bits 9 7) || plan.edges.getLsbD (g.bits 9 7)
    | _ => true

/-! ## Routes (R177 to R180) -/

/-- A channel that no track carries: out of the load, along an array's buses, or from a staging row. -/
def onBus (nodes : List Node) (w : Wire) : Bool :=
  match w.dst with
  | .exit _ => true
  | .operand j o => match nodes[j]? with
    | none => false
    | some n => match n.instr with
      | some (.mxop _) | some (.mxa _) | some (.mxb _) => true
      | some (.mxtile _) => o == .a || o == .b
      | some (.agen _) => o == .c
      | some (.entry _) => beatEntry nodes n
      | _ => false
  | _ => false

/-- The number under which a plan routes a channel: its consumer's, and the operand, input channel or receiver there. -/
def routeKey (nodes : Nat) : Dest → Nat × Nat
  | .operand j o => (j, operandIndex o)
  | .pe k q => (nodes + k, q)
  | .slotOf j r => (j, 16 + r)
  | .exit k => (0, 100 + k)

/-- Where a node or task PE stands: a part of an element at its engine (R242), which an MXSC feeds and the others refer to. -/
def Image.spot (im : Image) (k : Nat) : Place :=
  match im.nodes[k]? with
  | none => ((im.pes[k - im.nodes.length]?).map (·.place)).getD .none
  | some n => match n.place, n.instr, n.refs with
    | .none, some (.mxsc _), _ => ((nodeTo im.nodes (n.out 0)).map (·.place)).getD .none
    | .none, _, [r] => ((im.nodes[r]?).map (·.place)).getD .none
    | p, _, _ => p

def inSwitch : Place → Bool
  | .router .. | .branch .. => true
  | _ => false

/-- A token enters a track from the neighbouring tile that its port faces. -/
def enters (p : Nat × Nat) (t : Track) : Bool :=
  match t.port with
  | .west => t.x == p.1 + 1 && t.y == p.2
  | .east => t.x + 1 == p.1 && t.y == p.2
  | .north => t.x == p.1 && t.y == p.2 + 1
  | .south => t.x == p.1 && t.y + 1 == p.2
  | .element => false

/-- Tracks that follow each other from a tile on end at another tile. -/
def leadsTo (q : Nat × Nat) : Nat × Nat → List Track → Bool
  | p, [] => p == q
  | p, t :: rest => enters p t && leadsTo q (t.x, t.y) rest

/-- A path from a place to a place: out of an element by a track of its router's local port, by which two operators of one router
are joined too. -/
def pathOk (a b : Place) (path : List Track) : Bool :=
  match placeXY a, placeXY b with
  | some p, some q =>
    if !inSwitch a || (inSwitch b && p == q) then match path with
      | t :: rest => t.port == .element && (t.x, t.y) == p && leadsTo q p rest
      | [] => false
    else leadsTo q p path
  | _, _ => false

/-- A track crosses a die boundary of the rectangle. -/
def atBoundary (p : Plan) (t : Track) : Bool :=
  match t.port with
  | .west => p.bx != 0 && t.x == p.bx
  | .east => p.bx != 0 && t.x + 1 == p.bx
  | .north => p.bY != 0 && t.y == p.bY
  | .south => p.bY != 0 && t.y + 1 == p.bY
  | .element => false

/-- A track exists in the rectangle: data tracks 0 to 7 and control tracks 0 to 15 of a port, on a boundary edge 0 to 3 and 0 to 1. -/
def trackOk (p : Plan) (ord : Bool) (t : Track) : Bool :=
  planInside p t.x t.y &&
  decide (t.k < if atBoundary p t then (if ord then 2 else 4) else if ord then 16 else 8)

/-- The edge that a track crosses a boundary on, whichever way: the tile west or north of it, and whether it lies on a column. -/
def edgeOf (t : Track) : Nat × Nat × Bool :=
  match t.port with
  | .west => (t.x - 1, t.y, true)
  | .east => (t.x, t.y, true)
  | .north => (t.x, t.y - 1, false)
  | _ => (t.x, t.y, false)

/-- The channels that an image routes, each with its route's key and whether it carries ordering tokens. -/
def Image.routed (im : Image) : List (Wire × (Nat × Nat) × Bool) :=
  ((wiresOf im.nodes im.pes).filter fun w => !onBus im.nodes w).map fun w =>
    (w, routeKey im.nodes.length w.dst, match w.dst with
      | .operand j o => ((im.nodes[j]?).map fun n => (n.queue o).ord).getD false
      | .slotOf .. => true
      | _ => false)

/-- Every channel has its circuit, no two channels share a track or a local track, and at most four data channels cross a boundary
edge, in both directions together. -/
def Image.routesOk (im : Image) (plan : Plan) : Bool :=
  let ws := im.routed
  let found := ws.filterMap fun w => (plan.routes.find? fun r => (r.node, r.op) == w.2.1).map fun r => (w, r)
  let tracks : List (Bool × Track) := found.flatMap fun x => x.2.path.map fun t => (x.1.2.2, t)
  let locals := found.filterMap fun x => x.2.out.map fun k => (x.1.2.2, placeXY (im.spot x.1.2.1.1), k)
  let crossings := (tracks.filter fun t => !t.1 && atBoundary plan t.2).map fun t => edgeOf t.2
  found.length == ws.length && plan.routes.length == ws.length &&
  found.all (fun x =>
    let a := im.spot x.1.1.src
    let b := im.spot x.1.2.1.1
    pathOk a b x.2.path && x.2.path.all (trackOk plan x.1.2.2) &&
    (x.2.out.isSome == !inSwitch b) && x.2.out.all fun k => decide (k < if x.1.2.2 then 16 else 8)) &&
  tracks.eraseDups.length == tracks.length && locals.eraseDups.length == locals.length &&
  crossings.all fun e => decide ((crossings.filter (· == e)).length ≤ 4)

/-! ## Plans -/

/-- A plan that the translator may take for an image made with it. -/
def Image.admits (im : Image) (l : Layout) (plan : Plan) : Bool :=
  planShapeOk plan && decide (im.tiles.length ≤ planMemTiles plan ∧ im.kib ≤ 256 ∧ im.slots ≤ 256 ∧ im.ranges.length ≤ 64) &&
  im.placesOk plan l.total && factorsOk l.c.g plan && l.extrasOk im plan &&
  im.arraysOk && im.busesOk plan && im.pes.all im.islOk && im.budrdOk && im.portsOk plan && im.routesOk plan

/-- The lists of n elements of a list. -/
def tuples {α : Type} (xs : List α) : Nat → List (List α)
  | 0 => [[]]
  | n + 1 => (tuples xs n).flatMap fun t => xs.map fun x => x :: t

/-- A choice from each of several lists. -/
def choices {α : Type} : List (List α) → List (List α)
  | [] => [[]]
  | xs :: rest => (choices rest).flatMap fun t => xs.map fun x => x :: t

/-- The tiles of a rectangle. -/
def tilesOf (w h : Nat) : List (Nat × Nat) := (List.range h).flatMap fun y => (List.range w).map fun x => (x, y)

/-- The places of a rectangle. -/
def allPlaces (w h : Nat) : List Place :=
  Place.none :: (tilesOf w h).flatMap fun t =>
    (List.range 8).map (Place.pe t.1 t.2) ++ (List.range 4).map (Place.router t.1 t.2) ++
    [.mfe t.1 t.2, .memTile t.1 t.2, .branch t.1 t.2]

/-- The routes of a channel in a rectangle: every list of its tracks without a repetition is among them. -/
def allRoutes (w h : Nat) (key : Nat × Nat) : List Route :=
  let tracks := (tilesOf w h).flatMap fun t => [Port.north, .east, .south, .west, .element].flatMap fun p =>
    (List.range 16).map fun k => { x := t.1, y := t.2, port := p, k : Track }
  (List.range (tracks.length + 1)).flatMap fun n => (tuples tracks n).flatMap fun path =>
    (none :: (List.range 16).map some).map fun out => { node := key.1, op := key.2, path, out }

/-- The plans of a load in a shape. Pages and queue capacities, which no bound concerns, are left at their defaults. -/
def Layout.plansIn (l : Layout) (features : Nat) (shape : Plan) : List Plan :=
  let t := l.net features
  let n := t.nodes.length + t.pes.length
  let places := allPlaces shape.width shape.height
  let keys := (t.wires.filter fun w => !onBus t.nodes w).map fun w => routeKey t.nodes.length w.dst
  (tuples (List.range 4097) l.c.g.factors.length).flatMap fun factors =>
  let (pes, slots) := l.added t.nodes factors
  (tuples places (pes + slots)).flatMap fun extras =>
  (tuples places n).flatMap fun ps =>
  (tuples (List.range 4) n).flatMap fun near =>
  (tuples (List.range 64) n).flatMap fun ports =>
  (tuples (List.range 80) n).flatMap fun points =>
  (choices (keys.map (allRoutes shape.width shape.height))).map fun routes =>
    { shape with places := ps, near, ports, factors, extras, routes, attach := points.zipIdx.map fun x => { node := x.2, point := x.1 } }

/-- The plans of a load. -/
def Layout.plans (l : Layout) (features : Nat) : List Plan :=
  (List.range 81).flatMap fun width => (List.range 73).flatMap fun height => [false, true].flatMap fun parity =>
  (List.range 41).flatMap fun bx => (List.range 37).flatMap fun bY => (List.range 16).flatMap fun e =>
    let shape : Plan := { width, height, parity, bx, bY, edges := BitVec.ofNat 4 e }
    if planShapeOk shape then l.plansIn features shape else []

/-- The least physical factors of a graph. -/
def leastFactors (g : IcoGraph) : List Nat := g.factors.map fun f => icoNat g.parts (f.off + 4) 2

/-- A load takes no more PEs, engines, router slots, memory tiles, attach points and copy ports than the whole grid has. -/
def Layout.countsFit (l : Layout) (features : Nat) : Bool :=
  let t := l.net features
  let add := l.added t.nodes (leastFactors l.c.g)
  let kinds := t.nodes.zipIdx.filterMap fun x => x.1.instr.map fun i => (i, placesFor t.nodes x.1 i (decide (l.total ≤ x.2)))
  let only (k : PlaceKind) : Nat := (kinds.filter fun x => x.2 == [k]).length
  let engines : Nat := (t.nodes.map fun x => match x.instr with
    | some (.mxop _) => 1
    | some (.mxtile _) => ((x.refs[5]?).getD 0) * ((x.refs[6]?).getD 0)
    | _ => 0).foldl (· + ·) 0
  let kib := (Layout.regions l.c).foldl (fun m x => max m (Layout.kib x.1 x.2)) 0
  decide (only .pe + t.pes.length + add.1 ≤ 23040 ∧ only .router + add.2 ≤ 23040 ∧ engines ≤ 2880 ∧
    (Layout.tiles l.c).length ≤ 2880 ∧ kib ≤ 256 ∧
    (kinds.filter fun x => portNode x.1).length + (t.pes.filter peOutside).length ≤ 304 * 16 ∧
    (kinds.filter fun x => copyNode x.1).length ≤ 64 * 8)

/-- Some plan respects every bound, so that some paddock can hold the load; the counts are looked at first. -/
def Layout.canFit (l : Layout) (features : Nat) : Bool :=
  l.countsFit features && (l.plans features).any fun plan => (l.image features Node.rank plan).admits l plan

/-- KTURN and LSTAT name edges that the shape has (R375, R378): the block, slot and lowest bit of the failing field. -/
def LoadCode.edgeFailure (c : LoadCode) (plan : Plan) : Option Bad :=
  let has (group : Nat) : Bool := match group with
    | 4 => plan.bx != 0
    | 5 => plan.bY != 0
    | _ => true
  let count (group : Nat) : Nat := match group with
    | 0 | 2 => if plan.bx = 0 then 1 else 2
    | 1 | 3 => if plan.bY = 0 then 1 else 2
    | 4 => plan.height
    | _ => plan.width
  c.blocks.findSome? fun b => if b.kind == 1 then none else b.nodes.findSome? fun x =>
    match x.2 with
    | .kturn g => if has (g.bits 9 7) then none else some (b.bad 0x0D x.1 7)
    | .lstat g =>
      if decide (count (g.bits 9 7) ≤ g.bits 16 10) then some (b.bad 0x0D x.1 10)
      else if has (g.bits 9 7) then none else some (b.bad 0x0D x.1 7)
    | _ => none

end Sys2Proof.Machine
end

