-- ==== Sys2Proof/Machine/Sha.lean ====
section
/-! DEFINITION. SHA-384, which gives the graph digest (R53) and the content digest of an image (R91), as FIPS 180-4
defines it (notes/assumptions/30.md). -/

namespace Sys2Proof.Machine

/-- The round constants: the fractions of the cube roots of the first eighty primes. -/
def shaK0 : List W64 :=
  [0x428a2f98d728ae22#64, 0x7137449123ef65cd#64, 0xb5c0fbcfec4d3b2f#64, 0xe9b5dba58189dbbc#64,
   0x3956c25bf348b538#64, 0x59f111f1b605d019#64, 0x923f82a4af194f9b#64, 0xab1c5ed5da6d8118#64,
   0xd807aa98a3030242#64, 0x12835b0145706fbe#64, 0x243185be4ee4b28c#64, 0x550c7dc3d5ffb4e2#64,
   0x72be5d74f27b896f#64, 0x80deb1fe3b1696b1#64, 0x9bdc06a725c71235#64, 0xc19bf174cf692694#64,
   0xe49b69c19ef14ad2#64, 0xefbe4786384f25e3#64, 0x0fc19dc68b8cd5b5#64, 0x240ca1cc77ac9c65#64,
   0x2de92c6f592b0275#64, 0x4a7484aa6ea6e483#64, 0x5cb0a9dcbd41fbd4#64, 0x76f988da831153b5#64,
   0x983e5152ee66dfab#64, 0xa831c66d2db43210#64, 0xb00327c898fb213f#64, 0xbf597fc7beef0ee4#64,
   0xc6e00bf33da88fc2#64, 0xd5a79147930aa725#64, 0x06ca6351e003826f#64, 0x142929670a0e6e70#64,
   0x27b70a8546d22ffc#64, 0x2e1b21385c26c926#64, 0x4d2c6dfc5ac42aed#64, 0x53380d139d95b3df#64,
   0x650a73548baf63de#64, 0x766a0abb3c77b2a8#64, 0x81c2c92e47edaee6#64, 0x92722c851482353b#64]
def shaK1 : List W64 :=
  [0xa2bfe8a14cf10364#64, 0xa81a664bbc423001#64, 0xc24b8b70d0f89791#64, 0xc76c51a30654be30#64,
   0xd192e819d6ef5218#64, 0xd69906245565a910#64, 0xf40e35855771202a#64, 0x106aa07032bbd1b8#64,
   0x19a4c116b8d2d0c8#64, 0x1e376c085141ab53#64, 0x2748774cdf8eeb99#64, 0x34b0bcb5e19b48a8#64,
   0x391c0cb3c5c95a63#64, 0x4ed8aa4ae3418acb#64, 0x5b9cca4f7763e373#64, 0x682e6ff3d6b2b8a3#64,
   0x748f82ee5defb2fc#64, 0x78a5636f43172f60#64, 0x84c87814a1f0ab72#64, 0x8cc702081a6439ec#64,
   0x90befffa23631e28#64, 0xa4506cebde82bde9#64, 0xbef9a3f7b2c67915#64, 0xc67178f2e372532b#64,
   0xca273eceea26619c#64, 0xd186b8c721c0c207#64, 0xeada7dd6cde0eb1e#64, 0xf57d4f7fee6ed178#64,
   0x06f067aa72176fba#64, 0x0a637dc5a2c898a6#64, 0x113f9804bef90dae#64, 0x1b710b35131c471b#64,
   0x28db77f523047d84#64, 0x32caab7b40c72493#64, 0x3c9ebe0a15c9bebc#64, 0x431d67c49c100d4c#64,
   0x4cc5d4becb3e42b6#64, 0x597f299cfc657e2a#64, 0x5fcb6fab3ad6faec#64, 0x6c44198c4a475817#64]
def shaK : List W64 := shaK0 ++ shaK1

/-- The eight words that a hash begins from. -/
def shaStart : List W64 :=
  [0xcbbb9d5dc1059ed8#64, 0x629a292a367cd507#64, 0x9159015a3070dd17#64, 0x152fecd8f70e5939#64,
   0x67332667ffc00b31#64, 0x8eb44a8768581511#64, 0xdb0c2e0d64f98fa7#64, 0x47b5481dbefa4fa4#64]

/-- A word rotated right. -/
def rotr (x : W64) (n : Nat) : W64 := (x >>> n) ||| (x <<< (64 - n))

/-- The words of a block, first byte highest. -/
def beWords : Nat → List Byte → List W64
  | 0, _ => []
  | n + 1, bs => (bs.take 8).foldl (fun (w : W64) (b : Byte) => (w <<< 8) ||| b.setWidth 64) 0#64 :: beWords n (bs.drop 8)

/-- The message schedule, last word first: each new word from the 2nd, 7th, 15th and 16th before it. -/
def shaExtend : Nat → List W64 → List W64
  | 0, w => w
  | n + 1, w =>
    let at_ (k : Nat) : W64 := (w[k]?).getD 0#64
    let s0 := rotr (at_ 14) 1 ^^^ rotr (at_ 14) 8 ^^^ (at_ 14 >>> 7)
    let s1 := rotr (at_ 1) 19 ^^^ rotr (at_ 1) 61 ^^^ (at_ 1 >>> 6)
    shaExtend n ((s1 + at_ 6 + s0 + at_ 15) :: w)

/-- The eight working words. -/
structure ShaWords where
  a : W64
  b : W64
  c : W64
  d : W64
  e : W64
  f : W64
  g : W64
  h : W64
deriving DecidableEq, Repr

/-- One round with its constant and its word of the schedule. -/
def ShaWords.round (v : ShaWords) (kw : W64 × W64) : ShaWords :=
  let s1 := rotr v.e 14 ^^^ rotr v.e 18 ^^^ rotr v.e 41
  let ch := (v.e &&& v.f) ^^^ (~~~v.e &&& v.g)
  let t1 := v.h + s1 + ch + kw.1 + kw.2
  let s0 := rotr v.a 28 ^^^ rotr v.a 34 ^^^ rotr v.a 39
  let maj := (v.a &&& v.b) ^^^ (v.a &&& v.c) ^^^ (v.b &&& v.c)
  { a := t1 + s0 + maj, b := v.a, c := v.b, d := v.c, e := v.d + t1, f := v.e, g := v.f, h := v.g }

/-- The hash after one block of 128 bytes. -/
def ShaWords.block (v : ShaWords) (bs : List Byte) : ShaWords :=
  let w := (shaExtend 64 (beWords 16 bs).reverse).reverse
  let r := (shaK.zip w).foldl ShaWords.round v
  { a := v.a + r.a, b := v.b + r.b, c := v.c + r.c, d := v.d + r.d, e := v.e + r.e, f := v.f + r.f, g := v.g + r.g, h := v.h + r.h }

def shaBlocks : Nat → List Byte → ShaWords → ShaWords
  | 0, _, v => v
  | n + 1, bs, v => shaBlocks n (bs.drop 128) (v.block (bs.take 128))

/-- A message padded to whole blocks: a 1 bit, zeros, the length in bits. -/
def shaPad (bs : List Byte) : List Byte :=
  let n := bs.length
  let len := (List.range 16).map fun k => BitVec.ofNat 8 (n * 8 / 256 ^ (15 - k))
  bs ++ [0x80#8] ++ List.replicate ((239 - n % 128) % 128) 0#8 ++ len

/-- SHA-384 of a message: the digest's first byte stands lowest, as it lies in memory. -/
def sha384 (bs : List Byte) : BitVec 384 :=
  let m := shaPad bs
  let v := shaBlocks (m.length / 128) m
    ⟨(shaStart[0]?).getD 0#64, (shaStart[1]?).getD 0#64, (shaStart[2]?).getD 0#64, (shaStart[3]?).getD 0#64,
     (shaStart[4]?).getD 0#64, (shaStart[5]?).getD 0#64, (shaStart[6]?).getD 0#64, (shaStart[7]?).getD 0#64⟩
  let bytes := [v.a, v.b, v.c, v.d, v.e, v.f].flatMap fun (w : W64) =>
    (List.range 8).map fun k => w.extractLsb' (8 * (7 - k)) 8
  BitVec.ofNat 384 (bytes.foldr (fun (b : Byte) (n : Nat) => b.toNat + 256 * n) 0)

end Sys2Proof.Machine
end

