-- ==== Sys2Proof/Machine/Translate.lean ====
section
/-! DEFINITION. TRANSLATE_LOAD (R81, R88 to R106, R428, R429): the translator reads an ICO, checks it, finds, admits or makes
the image of a load and writes it into the tack store, or refuses the binding. -/

namespace Sys2Proof.Machine

/-! ## Reading an ICO (R97, R98, R99) -/

/-- n bytes of device memory; a byte of a poisoned word is free, for the spec gives the translator's read of one no value. -/
def State.codeBytes (s : State) (loc n : Nat) : List Byte :=
  let bs := s.dram.bytes loc n
  if s.dram.poisoned loc n then
    bs.zipIdx.map fun x => if s.dram.poisoned (loc + x.2) 1 then (Config.freeWord (s.fresh + x.2)).setWidth 8 else x.1
  else bs

/-- n bytes of an ICO from an offset, page by page, or the cause and the offset of the read that faults. -/
def State.icoBytes (s : State) (ctx : Nat) (ico : W64) : Nat → Nat → Nat → Except (Nat × Nat) (List Byte)
  | 0, _, _ => .ok []
  | k + 1, off, n =>
    if n = 0 then .ok []
    else
      let va := ico + BitVec.ofNat 64 off
      let m := min n (65536 - va.toNat % 65536)
      match s.probeDevice ctx va m 0 with
      | .error c => .error (c, off)
      | .ok loc => match s.icoBytes ctx ico k (off + m) (n - m) with
        | .error f => .error f
        | .ok rest => .ok (s.codeBytes loc m ++ rest)

/-- One piece of an ICO. -/
def State.icoPiece (s : State) (ctx : Nat) (ico : W64) (off n : Nat) : Except (Nat × Nat) (Nat × List Byte) :=
  match s.icoBytes ctx ico (n / 65536 + 2) off n with
  | .error f => .error f
  | .ok bs => .ok (off, bs)

/-- Pieces in order, up to the first read that faults. -/
def State.icoPieces (s : State) (ctx : Nat) (ico : W64) : List (Nat × Nat) → Parts × Option (Nat × Nat)
  | [] => ([], none)
  | (off, n) :: rest =>
    match s.icoPiece ctx ico off n with
    | .error f => ([], some f)
    | .ok p => let (ps, f) := s.icoPieces ctx ico rest; (p :: ps, f)

/-- The block and slot of the word at an offset; none where it lies outside every block. -/
def IcoGraph.locate (g : IcoGraph) (off : Nat) : Option (Nat × Nat × Nat) :=
  (g.blocks.find? fun b => decide (b.off ≤ off ∧ off < b.off + 16 + 8 * (b.count + 1))).map fun b =>
    (b.id, if off < b.off + 16 then 0 else (off - (b.off + 16)) / 8, b.version)

/-! ## What ends a translation -/

/-- A check that failed, or a read that faulted: its cause, its offset, and the block, slot and version of the word. -/
inductive Stopped where
  | bad (b : Bad) (version : Nat)
  | read (cause off block slot version : Nat)
deriving DecidableEq, Repr

/-- The fault that a stop records (R82, R98). -/
def State.stopFault (s : State) (ico : W64) (x : Stopped) : HeldFault × Nat :=
  let f := s.bindFault 0x60 0 0#64
  match x with
  | .bad b v =>
    let w (n : Nat) : W64 := BitVec.ofNat 64 n
    ({ f with info := { cause := 0x60, opv := some [w b.reason, w b.off, w b.half] }, version := v % 16, block := b.block, slot := b.slot },
     b.reason)
  | .read c off block slot v =>
    ({ f with info := { cause := c, access := 6, vaddr := ico + BitVec.ofNat 64 off }, version := v % 16, block, slot }, 0)

/-- What is to be translated: the load of a READY task, or the handler load of a context (R101), and the feature mask that the binding
has sampled (R106). -/
structure Wanted where
  ctx    : Nat
  ico    : W64
  load   : Nat
  colour : Option Nat
  mask   : Nat
deriving DecidableEq, Repr

/-- A stop refuses the task's binding, or, for a handler load, fails the context (R98, R100, R101). -/
def State.stopped (s : State) (w : Wanted) (x : Stopped) : State :=
  let (f, reason) := s.stopFault w.ico x
  match w.colour with
  | some c => s.refuse c f reason
  | none => s.failContext w.ctx 0 f.info.cause 0 reason

def Bad.stop (g : IcoGraph) (b : Bad) : Stopped := .bad b (((g.blk b.block).map Blk.version).getD 0)

/-! ## The first reads of a graph (R53, R55, R81) -/

def State.sigAll (s : State) : Bool := s.regs.policy.getLsbD 8

/-- The pieces that hold the sections outside the code segment, in table order (R97): those that the first binding of a graph reads,
or the native images, which are read only where no entry is found (R81, R88). -/
def sectionPieces (ps : Parts) (native : Bool) : List (Nat × Nat) :=
  (icoSections ps).filterMap fun x => if x.ty == 2 || (x.ty == 5) != native then none else some (x.off, x.size)

/-- The digest of a graph (R53). -/
def IcoGraph.digest (g : IcoGraph) : BitVec 384 := sha384 (digestBytes g.parts)

/-- The whole graph but for its native images, read and checked. -/
def State.readIco (s : State) (ctx : Nat) (ico : W64) (mask : Nat) : Except Stopped IcoGraph :=
  match s.icoPiece ctx ico 0 256 with
  | .error (c, off) => .error (.read c off 0xFFFF 0 0)
  | .ok head =>
    match firstBad (headerChecks [head]) with
    | some b => .error (.bad b 0)
    | none =>
      match s.icoPieces ctx ico (sectionPieces [head] false) with
      | (_, some (c, off)) => .error (.read c off 0xFFFF 0 0)
      | (secs, none) =>
        match s.icoPiece ctx ico (codeOffset [head]) (codeSize [head]) with
        | .error (c, off) =>
          let before := match s.icoPiece ctx ico (codeOffset [head]) (off - codeOffset [head]) with
            | .ok p => [p]
            | .error _ => []
          let (b, sl, v) := ((readGraph (head :: before ++ secs)).locate off).getD (0xFFFF, 0, 0)
          .error (.read c off b sl v)
        | .ok code =>
          let g := readGraph (head :: code :: secs)
          match firstBad (g.sectionsChecks mask s.sigAll g.digest) with
          | some b => .error (b.stop g)
          | none => .ok g

/-- The blocks of a load are read once more, in order of increasing address; where their bytes have changed, the old or the new ones
count (R81, R97, R99). -/
def State.rereadLoad (s : State) (ctx : Nat) (ico : W64) (g : IcoGraph) (load : Nat) : Except Stopped IcoGraph :=
  let mine := inOrder (fun (x y : Blk) => decide (x.off ≤ y.off)) (g.blocks.filter fun b => b.load == load)
  match s.icoPieces ctx ico (mine.map fun b => (b.off, 16 + 8 * b.words.length)) with
  | (_, some (c, off)) => let (b, sl, v) := (g.locate off).getD (0xFFFF, 0, 0); .error (.read c off b sl v)
  | (ps, none) =>
    if ps.all (fun p => decide (p.2 = partBytes g.parts p.1 p.2.length)) ∨ ¬ Config.freeBit s.fresh then .ok g
    else .ok (readGraph (ps ++ g.parts))

/-! ## Native images in an ICO (R91, R95, R96) -/

/-- The fields of an image's header that an image in the tack store keeps, its content's digest and its size in bytes. -/
structure NativeHeader where
  generation : Nat
  features   : Nat
  width  : Nat
  height : Nat
  parity : Nat
  bx     : Nat
  bY     : Nat
  edges  : BitVec 4
  slots  : Nat
  kib    : Nat
  content : BitVec 384
  bytes  : Nat
deriving DecidableEq, Repr

/-- The header of an image at an offset, where every test of R95 holds. -/
def IcoGraph.native (g : IcoGraph) (off size load stepping features floor current : Nat) (digest : BitVec 384) : Option NativeHeader :=
  let n (o k : Nat) : Nat := icoNat g.parts (off + o) k
  let content := n 128 8
  let gen := n 24 4
  let w := n 136 1
  let h := n 137 1
  let fixed := n 0 4 == 0x494E4449 && n 4 2 == 1 && n 6 1 == 3 && n 7 1 == 0 && n 30 2 == 0 && icoZero g.parts (off + 146) 54 &&
    decide (n 138 1 < 2 ∧ n 141 1 < 16 ∧ n 142 2 ≤ 256 ∧ n 144 2 ≤ 256 ∧ 1 ≤ w ∧ w ≤ 80 ∧ 1 ≤ h ∧ h ≤ 72 ∧ n 16 8 < 256) &&
    decide ((n 139 1 = 0 ∨ n 139 1 < w) ∧ (n 140 1 = 0 ∨ n 140 1 < h))
  let mine := decide (n 28 2 = load ∧ n 32 48 = digest.toNat) && (n 8 8).testBit stepping
  let allowed := (List.range 8).all fun k => !(n 16 8).testBit k || features.testBit k
  let signed := signatureShape g.parts (off + 200) && signaturesVerify g.parts (off + 200) (partBytes g.parts off 200)
  let hash := sha384 (partBytes g.parts (off + 3584) content)
  let whole := decide (content % 8 = 0 ∧ 3584 + content ≤ size) && decide (n 80 48 = hash.toNat)
  if fixed && mine && allowed && decide (floor ≤ gen ∧ gen ≤ current) && signed && whole then
    some { generation := gen, features := n 16 8, width := w, height := h, parity := n 138 1, bx := n 139 1, bY := n 140 1
           edges := BitVec.ofNat 4 (n 141 1), slots := n 142 2, kib := n 144 2, content := hash, bytes := 3584 + content }
  else none

/-- The eligible images of a load, in listed order. -/
def State.eligible (s : State) (g : IcoGraph) (w : Wanted) (digest : BitVec 384) : List NativeHeader :=
  ((icoSections g.parts).filter fun x => x.ty == 5).filterMap fun x =>
    g.native x.off x.size w.load (wbits s.regs.devId 39 32) w.mask s.regs.genFloor.toNat s.regs.genCurrent.toNat digest

/-- The greatest generation, the one listed first among equals (R96). -/
def chooseImage (hs : List NativeHeader) : Option NativeHeader :=
  hs.foldl (fun (best : Option NativeHeader) h => match best with
    | some b => if b.generation < h.generation then some h else some b
    | none => some h) none

/-- A plan with the shape of an image's header. -/
def planOf (p : Plan) (h : NativeHeader) : Plan :=
  { p with width := h.width, height := h.height, parity := h.parity == 1, bx := h.bx, bY := h.bY, edges := h.edges }

/-! ## The tack store (R102 to R104) -/

def State.pagesUsed (s : State) : Nat := s.tack.foldl (fun n e => n + e.2.pages) 0

/-- An entry of so many pages fits. -/
def State.tackFits (s : State) (pages : Nat) : Bool := decide (s.tack.length < 4096 ∧ s.pagesUsed + pages ≤ 16384)

/-- The unpinned entry that is freed first: a retiring one, then the one bound longest ago. Of entries with the same die time the first
in the table is taken, for R104 gives no order among them (DESIGN CHOICE, log 121). -/
def State.oldest (s : State) : Option Nat :=
  ((s.tack.filter fun e => !s.pinned e.1).foldl (fun (best : Option (Nat × TackEntry)) e =>
    match best with
    | none => some e
    | some b =>
      if b.2.retiring != e.2.retiring then (if e.2.retiring then some e else some b)
      else if e.2.last.toNat < b.2.last.toNat then some e else some b) none).map (·.1)

/-- Entries are freed until a new one fits. -/
def State.makeRoom (s : State) (pages : Nat) : Nat → State
  | 0 => s
  | n + 1 =>
    if s.tackFits pages then s
    else match s.oldest with
      | none => s
      | some e => State.makeRoom { s with tack := s.tack.filter fun x => x.1 != e } pages n

/-- A graph that a context has bound from is recorded, and an entry as its handler's; the one that it replaces stays pinned until
the context ends (R101). -/
def State.served (s : State) (w : Wanted) (g : IcoGraph) (digest : BitVec 384) (entry : Nat) : State :=
  s.modCtx w.ctx fun c =>
    let graph : Graph := { ico := w.ico, digest, parts := g.parts }
    let c := { c with graphs := if c.graphs.any fun x => x.ico == w.ico then c.graphs else c.graphs ++ [graph] }
    if w.colour.isSome then c else { c with handlerEntry := some entry, handlerOld := c.handlerOld ++ c.handlerEntry.toList }

/-- A new entry, being filled, once room has been made for it, or the refusal with reason 0x12. -/
def State.enterImage (s : State) (w : Wanted) (g : IcoGraph) (digest : BitVec 384) (im : Image) (pages : Nat) : State :=
  let s := s.makeRoom (max 1 pages) s.tack.length
  if ¬ s.tackFits (max 1 pages) then s.stopped w (.bad { reason := 0x12 } 0)
  else
    let k := freshIn (s.tack.map (·.1))
    let e : TackEntry :=
      { digest, load := w.load, mask := w.mask, gen := s.regs.genCurrent, image := im, pages := max 1 pages, last := s.dieTime 8
        filling := true }
    State.served { s with tack := mapSet s.tack k e } w g digest k

/-! ## The translator's choices (R89, R94) -/

/-- What the choices for a load depend on. -/
def State.planKey (s : State) (w : Wanted) (digest native : BitVec 384) : PlanKey :=
  { digest, load := w.load, mask := w.mask, gen := s.regs.genCurrent, native }

/-- The plan that the translator has taken before, or the one that the stimulus proposes. -/
def State.planFor (s : State) (k : PlanKey) : Plan := ((s.plans.find? fun x => x.1 == k).map fun x => x.2).getD s.arg.plan

/-- A plan is taken: translating the load again takes it again. -/
def State.keepPlan (s : State) (k : PlanKey) (plan : Plan) : State :=
  if s.plans.any fun x => x.1 == k then s else { s with plans := (k, plan) :: s.plans }

/-! ## TRANSLATE_LOAD -/

/-- What the stimulus asks to be translated, where it may be: a READY task for which no entry stands, or a live context's
handler load for which none serves. -/
def State.wanted (s : State) : Option Wanted :=
  if s.arg.third = 1 then
    let ctx := s.arg.context.toNat
    let c := s.ctx ctx
    if c.state = 1 ∧ c.handler.getLsbD 0 = true ∧ ¬ c.handlerEntry.any (fun e => s.serves e || s.filling e) then
      some { ctx, ico := BitVec.ofNat 64 (wbits c.handler 55 3 * 8), load := wbits c.handler 63 56, colour := none, mask := s.features }
    else none
  else
    match s.task s.arg.index with
    | none => none
    | some t =>
      if t.st = .ready ∧ t.refused.isNone ∧ t.restores.isNone ∧ ¬ t.handler ∧ s.handlerReady t.ctx ∧ (s.entryOf t).isNone then
        some { ctx := t.ctx, ico := t.ico, load := t.load, colour := some s.arg.index, mask := s.maskOf t }
      else none

/-- The graph: as the context's first binding read it, or read now. -/
def State.graphOf (s : State) (w : Wanted) : Except Stopped (IcoGraph × BitVec 384) :=
  match s.graph w.ctx w.ico with
  | some k => .ok (readGraph k.parts, k.digest)
  | none =>
    match s.readIco w.ctx w.ico w.mask with
    | .error e => .error e
    | .ok g => .ok (g, g.digest)

/-- A load is lowered in a native image's shape; where no plan of that shape respects the bounds of lowering, its places and routes
stay unknown (R90, R96). -/
def State.admitNative (s : State) (w : Wanted) (g : IcoGraph) (digest : BitVec 384) (c : LoadCode) (h : NativeHeader) : State :=
  let key := s.planKey w digest h.content
  let plan := planOf (s.planFor key) h
  let build (plan : Plan) : Image := { c.layout.image w.mask Node.rank plan with slots := h.slots, kib := h.kib }
  let plan := if (build plan).admits c.layout plan then plan else { plan with places := [], routes := [], attach := [] }
  (s.keepPlan key plan).enterImage w g digest (build plan) (max plan.pages ((h.bytes + 4095) / 4096))

/-- A load is translated with a plan. While a proposed plan breaks its bounds, the translator goes on looking, unless no plan at all
respects them (reason 0x10). -/
def State.translateLoad (s : State) (w : Wanted) (g : IcoGraph) (digest : BitVec 384) (c : LoadCode) : State :=
  match c.failure with
  | some b => s.stopped w (b.stop g)
  | none =>
    let key := s.planKey w digest 0#384
    let plan := s.planFor key
    let im := c.layout.image w.mask Node.rank plan
    if im.admits c.layout plan then
      let s := s.keepPlan key plan
      match c.edgeFailure plan with
      | some b => s.stopped w (b.stop g)
      | none => s.enterImage w g digest im plan.pages
    else if c.layout.canFit w.mask then s
    else s.stopped w (.bad { reason := 0x10 } 0)

/-- An image is admitted from the ICO, or made from the load's blocks, read once more (R81, R88). -/
def State.makeImage (s : State) (w : Wanted) (g : IcoGraph) (digest : BitVec 384) (c : LoadCode) : State :=
  match s.icoPieces w.ctx w.ico (sectionPieces g.parts true) with
  | (_, some (cause, off)) => s.stopped w (.read cause off 0xFFFF 0 0)
  | (natives, none) =>
    match chooseImage (s.eligible { g with parts := natives ++ g.parts } w digest) with
    | some h => s.admitNative w g digest c h
    | none =>
      match s.rereadLoad w.ctx w.ico g w.load with
      | .error e => s.stopped w e
      | .ok g' => match g'.load w.load (g'.declared &&& w.mask) with
        | some c' => s.translateLoad w g' digest c'
        | none => s.translateLoad w g digest c

/-- The translator serves one load. A load whose identity another translation is filling an entry for shares that one (R88). -/
def State.translate (s : State) (w : Wanted) : State :=
  match s.graphOf w with
  | .error e => s.stopped w e
  | .ok (g, digest) =>
    match g.load w.load (g.declared &&& w.mask) with
    | none => s.stopped w (.bad { reason := 0x0D } 0)
    | some c =>
      if c.rec_.handler != w.colour.isNone then s.stopped w (.bad { reason := 0x0D } 0)
      else match s.lookup digest w.load w.mask with
        | some e => s.served w g digest e
        | none =>
          match s.tack.find? fun e => e.2.filling && !e.2.retiring && e.2.digest == digest && e.2.load == w.load && e.2.mask == w.mask with
          | some e => s.served w g digest e.1
          | none => s.makeImage w g digest c

/-- A task's binding has begun: it has sampled the feature mask (R106). -/
def State.begun (s : State) (w : Wanted) : State :=
  match w.colour with
  | some c => s.modTask c fun t => { t with mask := some (BitVec.ofNat 64 w.mask) }
  | none => s

/-- An entry has been written: it serves bindings from now on (R102). -/
def State.filled (s : State) (e : Nat) : State :=
  { s with tack := s.tack.map fun x => if x.1 = e then (x.1, { x.2 with filling := false }) else x }

/-- TRANSLATE_LOAD (R88, R89): the load of task `index`, or, where `third` is 1, the handler load of a context, is looked up, admitted
or translated; the plan stands for the translator's choices. Where `third` is 2, the entry `index` has been filled. -/
def execTranslateLoad (s : State) : Result :=
  if s.arg.third = 2 then .next (s.filled s.arg.index)
  else match s.wanted with
  | none => .next s
  | some w => .next { (s.begun w).translate w with fresh := s.fresh + 2 ^ 32 }

end Sys2Proof.Machine
end

