-- ==== Sys2Proof/Machine/Dispatch.lean ====
section
/-! DEFINITION. Dispatch: each instruction and each device step has one meaning, which its arm calls. -/

namespace Sys2Proof.Machine

/-- The meaning of an instruction in a state. -/
def exec (i : Instr) (s : State) : Host.Outcome State Fault Refusal :=
  match i with
  | .add g => Sys2Proof.Machine.execAdd g s
  | .sub g => Sys2Proof.Machine.execSub g s
  | .mul g => Sys2Proof.Machine.execMul g s
  | .mulhi g => Sys2Proof.Machine.execMulhi g s
  | .mad g => Sys2Proof.Machine.execMad g s
  | .div g => Sys2Proof.Machine.execDiv g s
  | .rem g => Sys2Proof.Machine.execRem g s
  | .neg g => Sys2Proof.Machine.execNeg g s
  | .abs g => Sys2Proof.Machine.execAbs g s
  | .min g => Sys2Proof.Machine.execMin g s
  | .max g => Sys2Proof.Machine.execMax g s
  | .addsat g => Sys2Proof.Machine.execAddsat g s
  | .subsat g => Sys2Proof.Machine.execSubsat g s
  | .and g => Sys2Proof.Machine.execAnd g s
  | .or g => Sys2Proof.Machine.execOr g s
  | .xor g => Sys2Proof.Machine.execXor g s
  | .andn g => Sys2Proof.Machine.execAndn g s
  | .not g => Sys2Proof.Machine.execNot g s
  | .shl g => Sys2Proof.Machine.execShl g s
  | .shr g => Sys2Proof.Machine.execShr g s
  | .sar g => Sys2Proof.Machine.execSar g s
  | .rol g => Sys2Proof.Machine.execRol g s
  | .clz g => Sys2Proof.Machine.execClz g s
  | .ctz g => Sys2Proof.Machine.execCtz g s
  | .popc g => Sys2Proof.Machine.execPopc g s
  | .brev g => Sys2Proof.Machine.execBrev g s
  | .bfx g => Sys2Proof.Machine.execBfx g s
  | .bfi g => Sys2Proof.Machine.execBfi g s
  | .cmp g => Sys2Proof.Machine.execCmp g s
  | .sel g => Sys2Proof.Machine.execSel g s
  | .fadd g => Sys2Proof.Machine.execFadd g s
  | .fsub g => Sys2Proof.Machine.execFsub g s
  | .fmul g => Sys2Proof.Machine.execFmul g s
  | .fma g => Sys2Proof.Machine.execFma g s
  | .fms g => Sys2Proof.Machine.execFms g s
  | .fnma g => Sys2Proof.Machine.execFnma g s
  | .fmin g => Sys2Proof.Machine.execFmin g s
  | .fmax g => Sys2Proof.Machine.execFmax g s
  | .fminm g => Sys2Proof.Machine.execFminm g s
  | .fmaxm g => Sys2Proof.Machine.execFmaxm g s
  | .fabs g => Sys2Proof.Machine.execFabs g s
  | .fneg g => Sys2Proof.Machine.execFneg g s
  | .fcpys g => Sys2Proof.Machine.execFcpys g s
  | .fcmp g => Sys2Proof.Machine.execFcmp g s
  | .fclass g => Sys2Proof.Machine.execFclass g s
  | .frnd g => Sys2Proof.Machine.execFrnd g s
  | .fscale g => Sys2Proof.Machine.execFscale g s
  | .rcp g => Sys2Proof.Machine.execRcp g s
  | .rsq g => Sys2Proof.Machine.execRsq g s
  | .sqrt g => Sys2Proof.Machine.execSqrt g s
  | .fdiv g => Sys2Proof.Machine.execFdiv g s
  | .exp2 g => Sys2Proof.Machine.execExp2 g s
  | .log2 g => Sys2Proof.Machine.execLog2 g s
  | .sinpi g => Sys2Proof.Machine.execSinpi g s
  | .cospi g => Sys2Proof.Machine.execCospi g s
  | .tanh g => Sys2Proof.Machine.execTanh g s
  | .sigm g => Sys2Proof.Machine.execSigm g s
  | .cvt g => Sys2Proof.Machine.execCvt g s
  | .pack g => Sys2Proof.Machine.execPack g s
  | .unpk g => Sys2Proof.Machine.execUnpk g s
  | .mov g => Sys2Proof.Machine.execMov g s
  | .const g => Sys2Proof.Machine.execConst g s
  | .consth g => Sys2Proof.Machine.execConsth g s
  | .sxt g => Sys2Proof.Machine.execSxt g s
  | .fmin1 g => Sys2Proof.Machine.execFmin1 g s
  | .ldv g => Sys2Proof.Machine.execLdv g s
  | .waitc g => Sys2Proof.Machine.execWaitc g s
  | .steer g => Sys2Proof.Machine.execSteer g s
  | .merge g => Sys2Proof.Machine.execMerge g s
  | .carry g => Sys2Proof.Machine.execCarry g s
  | .invar g => Sys2Proof.Machine.execInvar g s
  | .fork g => Sys2Proof.Machine.execFork g s
  | .sink g => Sys2Proof.Machine.execSink g s
  | .gate g => Sys2Proof.Machine.execGate g s
  | .count g => Sys2Proof.Machine.execCount g s
  | .mark g => Sys2Proof.Machine.execMark g s
  | .mstrip g => Sys2Proof.Machine.execMstrip g s
  | .mlift g => Sys2Proof.Machine.execMlift g s
  | .mtest g => Sys2Proof.Machine.execMtest g s
  | .zip g => Sys2Proof.Machine.execZip g s
  | .ord g => Sys2Proof.Machine.execOrd g s
  | .join g => Sys2Proof.Machine.execJoin g s
  | .bar g => Sys2Proof.Machine.execBar g s
  | .drain g => Sys2Proof.Machine.execDrain g s
  | .call g => Sys2Proof.Machine.execCall g s
  | .entry g => Sys2Proof.Machine.execEntry g s
  | .exit g => Sys2Proof.Machine.execExit g s
  | .pat g => Sys2Proof.Machine.execPat g s
  | .red g => Sys2Proof.Machine.execRed g s
  | .redx g => Sys2Proof.Machine.execRedx g s
  | .scan g => Sys2Proof.Machine.execScan g s
  | .filt g => Sys2Proof.Machine.execFilt g s
  | .cmpct g => Sys2Proof.Machine.execCmpct g s
  | .mxcfg g => Sys2Proof.Machine.execMxcfg g s
  | .mxcfgTile g => Sys2Proof.Machine.execMxcfgTile g s
  | .mxa g => Sys2Proof.Machine.execMxa g s
  | .mxb g => Sys2Proof.Machine.execMxb g s
  | .mxsc g => Sys2Proof.Machine.execMxsc g s
  | .mxop g => Sys2Proof.Machine.execMxop g s
  | .accrd g => Sys2Proof.Machine.execAccrd g s
  | .accclr g => Sys2Proof.Machine.execAccclr g s
  | .accld g => Sys2Proof.Machine.execAccld g s
  | .mxtile g => Sys2Proof.Machine.execMxtile g s
  | .ld g => Sys2Proof.Machine.execLd g s
  | .st g => Sys2Proof.Machine.execSt g s
  | .ldfe g => Sys2Proof.Machine.execLdfe g s
  | .stfe g => Sys2Proof.Machine.execStfe g s
  | .feclr g => Sys2Proof.Machine.execFeclr g s
  | .feset g => Sys2Proof.Machine.execFeset g s
  | .fetest g => Sys2Proof.Machine.execFetest g s
  | .tscfg g => Sys2Proof.Machine.execTscfg g s
  | .agen g => Sys2Proof.Machine.execAgen g s
  | .scat g => Sys2Proof.Machine.execScat g s
  | .lbwin g => Sys2Proof.Machine.execLbwin g s
  | .aadd g => Sys2Proof.Machine.execAadd g s
  | .amin g => Sys2Proof.Machine.execAmin g s
  | .amax g => Sys2Proof.Machine.execAmax g s
  | .aand g => Sys2Proof.Machine.execAand g s
  | .aor g => Sys2Proof.Machine.execAor g s
  | .axor g => Sys2Proof.Machine.execAxor g s
  | .axchg g => Sys2Proof.Machine.execAxchg g s
  | .acas g => Sys2Proof.Machine.execAcas g s
  | .aincb g => Sys2Proof.Machine.execAincb g s
  | .afadd g => Sys2Proof.Machine.execAfadd g s
  | .aminp g => Sys2Proof.Machine.execAminp g s
  | .ard g => Sys2Proof.Machine.execArd g s
  | .sld g => Sys2Proof.Machine.execSld g s
  | .sst g => Sys2Proof.Machine.execSst g s
  | .gath g => Sys2Proof.Machine.execGath g s
  | .scatx g => Sys2Proof.Machine.execScatx g s
  | .binadd g => Sys2Proof.Machine.execBinadd g s
  | .binrun g => Sys2Proof.Machine.execBinrun g s
  | .rangeInit g => Sys2Proof.Machine.execRangeInit g s
  | .rangePull g => Sys2Proof.Machine.execRangePull g s
  | .pref g => Sys2Proof.Machine.execPref g s
  | .spld g => Sys2Proof.Machine.execSpld g s
  | .cpy g => Sys2Proof.Machine.execCpy g s
  | .cpym g => Sys2Proof.Machine.execCpym g s
  | .kturn g => Sys2Proof.Machine.execKturn g s
  | .lstat g => Sys2Proof.Machine.execLstat g s
  | .fence g => Sys2Proof.Machine.execFence g s
  | .spawn g => Sys2Proof.Machine.execSpawn g s
  | .done g => Sys2Proof.Machine.execDone g s
  | .twait g => Sys2Proof.Machine.execTwait g s
  | .trap g => Sys2Proof.Machine.execTrap g s
  | .traprd g => Sys2Proof.Machine.execTraprd g s
  | .trapack g => Sys2Proof.Machine.execTrapack g s
  | .sysrd g => Sys2Proof.Machine.execSysrd g s
  | .syswr g => Sys2Proof.Machine.execSyswr g s
  | .rdtime g => Sys2Proof.Machine.execRdtime g s
  | .tconv g => Sys2Proof.Machine.execTconv g s
  | .budrd g => Sys2Proof.Machine.execBudrd g s
  | .taskAddReg d a b n => Sys2Proof.Machine.execTaskAddReg d a b n s
  | .taskAddImm d a n im => Sys2Proof.Machine.execTaskAddImm d a n im s
  | .taskSubReg d a b n => Sys2Proof.Machine.execTaskSubReg d a b n s
  | .taskSubImm d a n im => Sys2Proof.Machine.execTaskSubImm d a n im s
  | .taskMulReg d a b n => Sys2Proof.Machine.execTaskMulReg d a b n s
  | .taskMulImm d a n im => Sys2Proof.Machine.execTaskMulImm d a n im s
  | .taskMulhiReg d a b n => Sys2Proof.Machine.execTaskMulhiReg d a b n s
  | .taskMulhiImm d a n im => Sys2Proof.Machine.execTaskMulhiImm d a n im s
  | .taskMadReg d a b n => Sys2Proof.Machine.execTaskMadReg d a b n s
  | .taskMadImm d a n im => Sys2Proof.Machine.execTaskMadImm d a n im s
  | .taskDivReg d a b n => Sys2Proof.Machine.execTaskDivReg d a b n s
  | .taskDivImm d a n im => Sys2Proof.Machine.execTaskDivImm d a n im s
  | .taskRemReg d a b n => Sys2Proof.Machine.execTaskRemReg d a b n s
  | .taskRemImm d a n im => Sys2Proof.Machine.execTaskRemImm d a n im s
  | .taskNegReg d a b n => Sys2Proof.Machine.execTaskNegReg d a b n s
  | .taskNegImm d a n im => Sys2Proof.Machine.execTaskNegImm d a n im s
  | .taskAbsReg d a b n => Sys2Proof.Machine.execTaskAbsReg d a b n s
  | .taskAbsImm d a n im => Sys2Proof.Machine.execTaskAbsImm d a n im s
  | .taskMinReg d a b n => Sys2Proof.Machine.execTaskMinReg d a b n s
  | .taskMinImm d a n im => Sys2Proof.Machine.execTaskMinImm d a n im s
  | .taskMaxReg d a b n => Sys2Proof.Machine.execTaskMaxReg d a b n s
  | .taskMaxImm d a n im => Sys2Proof.Machine.execTaskMaxImm d a n im s
  | .taskAddsatReg d a b n => Sys2Proof.Machine.execTaskAddsatReg d a b n s
  | .taskAddsatImm d a n im => Sys2Proof.Machine.execTaskAddsatImm d a n im s
  | .taskSubsatReg d a b n => Sys2Proof.Machine.execTaskSubsatReg d a b n s
  | .taskSubsatImm d a n im => Sys2Proof.Machine.execTaskSubsatImm d a n im s
  | .taskAndReg d a b n => Sys2Proof.Machine.execTaskAndReg d a b n s
  | .taskAndImm d a n im => Sys2Proof.Machine.execTaskAndImm d a n im s
  | .taskOrReg d a b n => Sys2Proof.Machine.execTaskOrReg d a b n s
  | .taskOrImm d a n im => Sys2Proof.Machine.execTaskOrImm d a n im s
  | .taskXorReg d a b n => Sys2Proof.Machine.execTaskXorReg d a b n s
  | .taskXorImm d a n im => Sys2Proof.Machine.execTaskXorImm d a n im s
  | .taskAndnReg d a b n => Sys2Proof.Machine.execTaskAndnReg d a b n s
  | .taskAndnImm d a n im => Sys2Proof.Machine.execTaskAndnImm d a n im s
  | .taskNotReg d a b n => Sys2Proof.Machine.execTaskNotReg d a b n s
  | .taskNotImm d a n im => Sys2Proof.Machine.execTaskNotImm d a n im s
  | .taskShlReg d a b n => Sys2Proof.Machine.execTaskShlReg d a b n s
  | .taskShlImm d a n im => Sys2Proof.Machine.execTaskShlImm d a n im s
  | .taskShrReg d a b n => Sys2Proof.Machine.execTaskShrReg d a b n s
  | .taskShrImm d a n im => Sys2Proof.Machine.execTaskShrImm d a n im s
  | .taskSarReg d a b n => Sys2Proof.Machine.execTaskSarReg d a b n s
  | .taskSarImm d a n im => Sys2Proof.Machine.execTaskSarImm d a n im s
  | .taskRolReg d a b n => Sys2Proof.Machine.execTaskRolReg d a b n s
  | .taskRolImm d a n im => Sys2Proof.Machine.execTaskRolImm d a n im s
  | .taskClzReg d a b n => Sys2Proof.Machine.execTaskClzReg d a b n s
  | .taskClzImm d a n im => Sys2Proof.Machine.execTaskClzImm d a n im s
  | .taskCtzReg d a b n => Sys2Proof.Machine.execTaskCtzReg d a b n s
  | .taskCtzImm d a n im => Sys2Proof.Machine.execTaskCtzImm d a n im s
  | .taskPopcReg d a b n => Sys2Proof.Machine.execTaskPopcReg d a b n s
  | .taskPopcImm d a n im => Sys2Proof.Machine.execTaskPopcImm d a n im s
  | .taskBrevReg d a b n => Sys2Proof.Machine.execTaskBrevReg d a b n s
  | .taskBrevImm d a n im => Sys2Proof.Machine.execTaskBrevImm d a n im s
  | .taskBfxReg d a b n => Sys2Proof.Machine.execTaskBfxReg d a b n s
  | .taskBfxImm d a n im => Sys2Proof.Machine.execTaskBfxImm d a n im s
  | .taskBfiReg d a b n => Sys2Proof.Machine.execTaskBfiReg d a b n s
  | .taskBfiImm d a n im => Sys2Proof.Machine.execTaskBfiImm d a n im s
  | .taskCmpReg d a b n c => Sys2Proof.Machine.execTaskCmpReg d a b n c s
  | .taskCmpImm d a n c im => Sys2Proof.Machine.execTaskCmpImm d a n c im s
  | .taskSelReg d a b n => Sys2Proof.Machine.execTaskSelReg d a b n s
  | .taskSelImm d a n im => Sys2Proof.Machine.execTaskSelImm d a n im s
  | .taskFaddReg d a b m => Sys2Proof.Machine.execTaskFaddReg d a b m s
  | .taskFaddImm d a m im => Sys2Proof.Machine.execTaskFaddImm d a m im s
  | .taskFsubReg d a b m => Sys2Proof.Machine.execTaskFsubReg d a b m s
  | .taskFsubImm d a m im => Sys2Proof.Machine.execTaskFsubImm d a m im s
  | .taskFmulReg d a b m => Sys2Proof.Machine.execTaskFmulReg d a b m s
  | .taskFmulImm d a m im => Sys2Proof.Machine.execTaskFmulImm d a m im s
  | .taskFmaReg d a b m => Sys2Proof.Machine.execTaskFmaReg d a b m s
  | .taskFmaImm d a m im => Sys2Proof.Machine.execTaskFmaImm d a m im s
  | .taskFminReg d a b => Sys2Proof.Machine.execTaskFminReg d a b s
  | .taskFminImm d a im => Sys2Proof.Machine.execTaskFminImm d a im s
  | .taskFmaxReg d a b => Sys2Proof.Machine.execTaskFmaxReg d a b s
  | .taskFmaxImm d a im => Sys2Proof.Machine.execTaskFmaxImm d a im s
  | .taskFcmpReg d a b c => Sys2Proof.Machine.execTaskFcmpReg d a b c s
  | .taskFcmpImm d a c im => Sys2Proof.Machine.execTaskFcmpImm d a c im s
  | .taskCvt d a v n m => Sys2Proof.Machine.execTaskCvt d a v n m s
  | .taskRecv d w => Sys2Proof.Machine.execTaskRecv d w s
  | .taskPeek d => Sys2Proof.Machine.execTaskPeek d s
  | .taskSend k a b w => Sys2Proof.Machine.execTaskSend k a b w s
  | .taskSendm k a => Sys2Proof.Machine.execTaskSendm k a s
  | .taskLdreq d a b t j w x z f => Sys2Proof.Machine.execTaskLdreq d a b t j w x z f s
  | .taskStreq d a b k j w z f => Sys2Proof.Machine.execTaskStreq d a b k j w z f s
  | .taskAreq d a b o r j w x f => Sys2Proof.Machine.execTaskAreq d a b o r j w x f s
  | .taskBr im => Sys2Proof.Machine.execTaskBr im s
  | .taskBrc a n im => Sys2Proof.Machine.execTaskBrc a n im s
  | .taskRep m a c f n => Sys2Proof.Machine.execTaskRep m a c f n s
  | .taskEnd => Sys2Proof.Machine.execTaskEnd s
  | .taskSeti d v => Sys2Proof.Machine.execTaskSeti d v s
  | .taskLui d u => Sys2Proof.Machine.execTaskLui d u s
  | .taskEmita k a e p w => Sys2Proof.Machine.execTaskEmita k a e p w s
  | .taskEmitb k a e p w => Sys2Proof.Machine.execTaskEmitb k a e p w s
  | .taskSplitDec d a b => Sys2Proof.Machine.execTaskSplitDec d a b s
  | .taskSplitEnc d a b => Sys2Proof.Machine.execTaskSplitEnc d a b s
  | .taskTrap a c => Sys2Proof.Machine.execTaskTrap a c s
  | .powerOn => Sys2Proof.Machine.execPowerOn s
  | .hostLinkUp => Sys2Proof.Machine.execHostLinkUp s
  | .spdmRequest => Sys2Proof.Machine.execSpdmRequest s
  | .launchV2 => Sys2Proof.Machine.execLaunchV2 s
  | .launchV1 => Sys2Proof.Machine.execLaunchV1 s
  | .registerWrite => Sys2Proof.Machine.execRegisterWrite s
  | .tackFlush => Sys2Proof.Machine.execTackFlush s
  | .tlbInvStart => Sys2Proof.Machine.execTlbInvStart s
  | .tlbInvDone => Sys2Proof.Machine.execTlbInvDone s
  | .fwActivate => Sys2Proof.Machine.execFwActivate s
  | .fwRecovery => Sys2Proof.Machine.execFwRecovery s
  | .fwActivation => Sys2Proof.Machine.execFwActivation s
  | .ctxMakeLive => Sys2Proof.Machine.execCtxMakeLive s
  | .ctxMakeOff => Sys2Proof.Machine.execCtxMakeOff s
  | .ctxClearFailed => Sys2Proof.Machine.execCtxClearFailed s
  | .fpflagsClear => Sys2Proof.Machine.execFpflagsClear s
  | .binctlWrite => Sys2Proof.Machine.execBinctlWrite s
  | .saveareaWrite => Sys2Proof.Machine.execSaveareaWrite s
  | .actBudgetWrite => Sys2Proof.Machine.execActBudgetWrite s
  | .dieTimeOffsetWrite => Sys2Proof.Machine.execDieTimeOffsetWrite s
  | .dieTimeRateWrite => Sys2Proof.Machine.execDieTimeRateWrite s
  | .scanDataRead => Sys2Proof.Machine.execScanDataRead s
  | .bufferedLaunchEnter => Sys2Proof.Machine.execBufferedLaunchEnter s
  | .taskAgeing => Sys2Proof.Machine.execTaskAgeing s
  | .bindTask => Sys2Proof.Machine.execBindTask s
  | .translateLoad => Sys2Proof.Machine.execTranslateLoad s
  | .configComplete => Sys2Proof.Machine.execConfigComplete s
  | .frameBoundary => Sys2Proof.Machine.execFrameBoundary s
  | .planeLevelAgeing => Sys2Proof.Machine.execPlaneLevelAgeing s
  | .peUrgent => Sys2Proof.Machine.execPeUrgent s
  | .firingComplete => Sys2Proof.Machine.execFiringComplete s
  | .activationStart => Sys2Proof.Machine.execActivationStart s
  | .homePerform => Sys2Proof.Machine.execHomePerform s
  | .memoryReply => Sys2Proof.Machine.execMemoryReply s
  | .roundMarkerArrival => Sys2Proof.Machine.execRoundMarkerArrival s
  | .tableWalk => Sys2Proof.Machine.execTableWalk s
  | .requestSlotFree => Sys2Proof.Machine.execRequestSlotFree s
  | .copyRun => Sys2Proof.Machine.execCopyRun s
  | .copyTimeout => Sys2Proof.Machine.execCopyTimeout s
  | .slotReturn => Sys2Proof.Machine.execSlotReturn s
  | .mfeTensorStart => Sys2Proof.Machine.execMfeTensorStart s
  | .mfeBoundary => Sys2Proof.Machine.execMfeBoundary s
  | .planeFreeze => Sys2Proof.Machine.execPlaneFreeze s
  | .trapRecordWrite => Sys2Proof.Machine.execTrapRecordWrite s
  | .watchdogExpiry => Sys2Proof.Machine.execWatchdogExpiry s
  | .memoryTimeout => Sys2Proof.Machine.execMemoryTimeout s
  | .planeFree => Sys2Proof.Machine.execPlaneFree s
  | .abandonedPlaneFree => Sys2Proof.Machine.execAbandonedPlaneFree s
  | .contextTeardownDone => Sys2Proof.Machine.execContextTeardownDone s
  | .saveStart => Sys2Proof.Machine.execSaveStart s
  | .saveCommit => Sys2Proof.Machine.execSaveCommit s
  | .planeWordEccError => Sys2Proof.Machine.execPlaneWordEccError s
  | .scrubCheck => Sys2Proof.Machine.execScrubCheck s
  | .planeReloadDone => Sys2Proof.Machine.execPlaneReloadDone s
  | .stateEccError => Sys2Proof.Machine.execStateEccError s
  | .sramEccError => Sys2Proof.Machine.execSramEccError s
  | .edgeTurnPoint => Sys2Proof.Machine.execEdgeTurnPoint s
  | .turnComplete => Sys2Proof.Machine.execTurnComplete s
  | .flitheDataFrame => Sys2Proof.Machine.execFlitheDataFrame s
  | .flitheAckFrame => Sys2Proof.Machine.execFlitheAckFrame s
  | .flitheResetFrame => Sys2Proof.Machine.execFlitheResetFrame s
  | .flitheResendTimeout => Sys2Proof.Machine.execFlitheResendTimeout s
  | .flitheAckTimer => Sys2Proof.Machine.execFlitheAckTimer s
  | .flitheLinkUp => Sys2Proof.Machine.execFlitheLinkUp s
  | .flitheResetRepeat => Sys2Proof.Machine.execFlitheResetRepeat s
  | .hostSnoop => Sys2Proof.Machine.execHostSnoop s
  | .hostMemoryAccess => Sys2Proof.Machine.execHostMemoryAccess s
  | .clockStepDown => Sys2Proof.Machine.execClockStepDown s
  | .clockStepUp => Sys2Proof.Machine.execClockStepUp s
  | .thermalShutdown => Sys2Proof.Machine.execThermalShutdown s
  | .systemCacheCopyUpdate => Sys2Proof.Machine.execSystemCacheCopyUpdate s

end Sys2Proof.Machine
end

