-- ==== Sys2Proof/Machine/Step.lean ====
section
/-! DEFINITION. One step of the machine: the next entry of the agenda moves. A node's or a task's step fetches its word,
decodes it and executes it; a device step executes its row of the table; a track passes a token on; the host stores; otherwise cycles
pass. -/

namespace Sys2Proof.Machine

/-- Executes what a decoder read, or stops on a word that is no instruction. -/
def runWord (r : Except Reject Instr) (w : Nat) (s : State) : Host.Outcome State Fault Refusal :=
  match r with
  | .ok i => exec i s
  | .error _ => .fault (.undecodable w)

/-- One step. -/
def step (s : State) : Host.Outcome State Fault Refusal :=
  match s.agenda with
  | [] => .next (passCycles s 1)
  | .cycles n :: rest => .next (passCycles { s with agenda := rest } n)
  | .hostStore a bs :: rest => .next (hostStores { s with agenda := rest } a bs)
  | .hostPoison a bad :: rest => .next (hostMarks { s with agenda := rest } a bad)
  | .track p d k :: rest => .next ({ s with agenda := rest }.moveTrack p d k)
  | .event i x :: rest => exec i { s with agenda := rest, cursor := .event, arg := x }
  | .fire p n :: rest =>
    let s' := { s with agenda := rest, cursor := .node p n }
    match nodeWord s' p n with
    | none => .next s'
    | some w => runWord (decodeGraph w) w.toNat s'
  | .task p k :: rest =>
    let s' := { s with agenda := rest, cursor := .task p k }
    match taskWord s' p k with
    | none => .next s'
    | some w => runWord (decodeTask w) w.toNat s'

/-- The state with a plane that holds one word, due to run next (notes/assumptions/2.md): a task word in the store of a
task-mode PE with an activation in progress at it, or a graph word on a node. -/
def State.withFetchWord (s : State) (nbits w : Nat) : State := placeWord s nbits w

end Sys2Proof.Machine
end

