-- ==== Sys2Proof/Safety.lean ====
section
/-! DEFINITION. What a safe run keeps, and whose turn it is: the invariants and the turns that statements take as
premises. -/

namespace Sys2Proof.Machine

/-- Every memory of the device, the host's and the saved SRAMs among them, is in canonical form. -/
def State.memoriesWf (s : State) : Prop :=
  s.dram.wf ∧ s.host.wf ∧ s.store.wf ∧ (∀ kd ∈ s.pads, ∀ pl ∈ kd.2.planes, pl.sram.wf) ∧ ∀ x ∈ s.saves, x.2.plane.sram.wf

/-! ## Turns -/

/-- The state in which a firing of so many operations that has been granted and admitted takes place: s with the decisions of the plane
sequencer (R412, R413) and of the governor (R415), the charges and the busy issue port (R142). -/
def State.admitted (s : State) (p : PlaneId) (place : Place) (c : Cost) (times : Nat := 1) : State :=
  (admitTimes (grantCycle s p).2 p place c times).2

/-- The plane sequencer grants the plane this cycle (R411); a re-firing in an ENDING plane needs no grant (R504). -/
def State.granted (s : State) (p : PlaneId) (pl : Plane) : Prop := pl.st = .live → (grantCycle s p).1 = true

/-- The issue port is free and the governor admits the charges (R142, R415). -/
def State.admits (s : State) (p : PlaneId) (place : Place) (c : Cost) (times : Nat := 1) : Prop :=
  (admitTimes (grantCycle s p).2 p place c times).1 = true

/-- The present step is that of node k of plane p; the node may fire (R36, R421), its router slot, where it stands in one, has rested
(R182), and its firing, of so many operations of cost c, is granted and admitted in this cycle. -/
structure NodeTurn (s : State) (p : PlaneId) (k : Nat) (pl : Plane) (n : Node) (c : Cost) (times : Nat := 1) : Prop where
  cursor : s.cursor = .node p k
  plane  : s.plane? p = some pl
  node   : pl.nodes[k]? = some n
  may    : pl.mayFire k n = true
  grant  : s.granted p pl
  rested : pl.st = .live → (grantCycle s p).2.routerFree p n = true
  admitted : s.admits p n.place c times

/-- The state in which a memory firing that has been granted and admitted takes place; one that the governor has charged before is not
charged again (R144). -/
def State.admittedMem (s : State) (p : PlaneId) (n : Node) (i : Instr) : State := (admitMem (grantCycle s p).2 p n i).2

/-- The present step is that of a memory node: no walk of its own is under way, its targets have room, it is below its bound on requests
in flight, no claim has selected the plane, and its firing is granted and admitted (R274, R300, R309, R409). -/
structure MemStep (s : State) (p : PlaneId) (k : Nat) (pl : Plane) (n : Node) (g : GArgs) (i : Instr) : Prop where
  cursor : s.cursor = .node p k
  plane  : s.plane? p = some pl
  node   : pl.nodes[k]? = some n
  may    : pl.mayFire k n = true
  walks  : s.walking p (.node k) = false
  ready  : pl.memReady k n (requestsMax i g) = true
  grant  : s.granted p pl
  admitted : (admitMem (grantCycle s p).2 p n i).1 = true

/-- The same of a node none of whose firings still awaits a peer's answer (R314). -/
structure MemTurn (s : State) (p : PlaneId) (k : Nat) (pl : Plane) (n : Node) (g : GArgs) (i : Instr) : Prop
    extends MemStep s p k pl n g i where
  first : pl.pending (.node k) = []

/-- The state in which a task instruction that has been granted and admitted takes place, charged once (R225). -/
def State.admittedTask (s : State) (x : TaskSite) (c : Cost) : State := (admitTask (grantCycle s x.p).2 x c).2

/-- The present step is that of a task-mode PE with an activation in progress, which may execute, is within R226's bound,
and is granted and admitted (R225). -/
structure TaskTurn (s : State) (x : TaskSite) (c : Cost) : Prop where
  cursor : cursorTask s = some x
  ready  : x.ready = true
  bound  : x.overrun = false
  grant  : s.granted x.p x.pl
  admitted : (admitTask (grantCycle s x.p).2 x c).1 = true

end Sys2Proof.Machine
end

