-- ==== Sys2Proof/Claims/Control.lean ====
section
/-! DEFINITION. What the control operators do, as relations between an instruction, the view of a firing and its effect (R182 to R218). -/

namespace Sys2Proof.Claims

open Sys2Proof.Machine

/-! ## Control operators (R182 to R218) -/

/-- What a firing that takes one token from each of `ops` does: data on operand a counts for the element index (R123), data
or poison on any operand for the firing (R354). -/
def took (v : View) (ops : List Operand) (emits : List (Nat × Token)) (st : Option OpState := none)
    (round : Option (BitVec 8) := none) : Effect :=
  { takes := takeOne ops, emits, st, round
    data := if ops.contains .a && (v.a.map Token.isData).getD false then 1 else 0
    counted := ops.any fun o => (v.head o).any fun t => t.isData || t.isPoison }

/-- The same token on targets A and B (R185). -/
def onBoth (t : Token) : List (Nat × Token) := [(0, t), (1, t)]

/-- A barrier or end-of-stream marker that its node ends: it counts as reaching a sink of its region (R42, R197). -/
def atSink (t : Token) : List (Nat × Token) := if t.level ≥ 6 then [(sinkTarget, t)] else []

/-- A true predicate; a false one, or poison where its trap is off (R187). -/
def isTrue : Token → Bool
  | .data x => x.getLsbD 0
  | _ => false

/-- Data or poison, not a marker. -/
abbrev plain (t : Token) : Prop := t.isMarker = false

/-- Poison on a predicate does not trap (R39, R187). -/
def quiet (v : View) (c : Token) : Prop := c.isPoison = true → v.trapen.getLsbD 7 = false

/-- The state of CARRY or INVAR (R194, R195). -/
def loopAt (v : View) (s : LoopState) : Prop :=
  match v.st with
  | .loop t _ => t = s
  | _ => s = .idle

/-- STEER, MERGE, CARRY, INVAR, FORK, SINK and GATE (R192 to R198): which firing of an instruction with a view has which
effect. -/
inductive SteersTo : Instr → View → Effect → Prop
  | steerMarkers {v : View} {a c m : Token} : v.a = some a → v.p = some c → v.g.opt ≠ 3#2 → a.isMarker = true → c.isMarker = true →
      joinMarkers [a, c] = some m →
      SteersTo (.steer v.g) v { takes := [1, 0, 0, 1]
                                emits := (if v.g.opt = 2#2 then [] else [(0, m)]) ++ (if v.g.opt = 1#2 then [] else [(1, m)]) }
  | steerTrue {v : View} {a : Token} {x : W64} : v.a = some a → v.p = some (.data x) → x.getLsbD 0 = true →
      (v.g.opt = 3#2 ∨ plain a) → SteersTo (.steer v.g) v (took v [.a, .p] [(0, a)])
  | steerFalse {v : View} {a : Token} {x : W64} : v.a = some a → v.p = some (.data x) → x.getLsbD 0 = false →
      (v.g.opt = 3#2 ∨ plain a) → SteersTo (.steer v.g) v (took v [.a, .p] [(1, a)])
  | steerPoison {v : View} {a : Token} {q : BitVec 8} : v.a = some a → v.p = some (.poison q) → v.trapen.getLsbD 7 = false →
      (v.g.opt = 3#2 ∨ plain a) → SteersTo (.steer v.g) v (took v [.a, .p] [(1, .poison q)])
  | mergeMarkers {v : View} {ops : List Operand} {hs : List Token} {c m : Token} : v.p = some c → c.isMarker = true → v.g.opt ≠ 3#2 →
      ops = (if v.g.opt = 1#2 then [.a, .p] else if v.g.opt = 2#2 then [.b, .p] else [.a, .b, .p]) →
      ops.map v.head = hs.map some → hs.all Token.isMarker = true → joinMarkers hs = some m →
      SteersTo (.merge v.g) v { takes := takeOne ops, emits := onBoth m }
  | mergeTrue {v : View} {x : Token} {y : W64} : v.p = some (.data y) → y.getLsbD 0 = true → v.a = some x →
      (v.g.opt = 3#2 ∨ plain x) → SteersTo (.merge v.g) v (took v [.a, .p] (onBoth x))
  | mergeFalse {v : View} {x : Token} {y : W64} : v.p = some (.data y) → y.getLsbD 0 = false → v.b = some x →
      (v.g.opt = 3#2 ∨ plain x) → SteersTo (.merge v.g) v (took v [.b, .p] (onBoth x))
  | mergePoison {v : View} {x : Token} {q : BitVec 8} : v.p = some (.poison q) → v.trapen.getLsbD 7 = false → v.b = some x →
      (v.g.opt = 3#2 ∨ plain x) → SteersTo (.merge v.g) v (took v [.b, .p] (onBoth (.poison q)))
  | carryInitMarker {v : View} {m : Token} : loopAt v .idle → v.a = some m → m.isMarker = true →
      SteersTo (.carry v.g) v (took v [.a] (onBoth m) (some (.loop (if v.g.opt.getLsbD 0 then .idle else .echo) none)))
  | carryInit {v : View} {x : Token} : loopAt v .idle → v.a = some x → plain x →
      SteersTo (.carry v.g) v (took v [.a] (onBoth x) (some (.loop .busy none)))
  | carryEcho {v : View} {m : Token} : loopAt v .echo → v.p = some m → m.isMarker = true →
      SteersTo (.carry v.g) v (took v [.p] [] (some (.loop .idle none)))
  | carryLoop {v : View} {x : Token} {y : W64} : loopAt v .busy → v.p = some (.data y) → y.getLsbD 0 = true → v.b = some x → plain x →
      SteersTo (.carry v.g) v (took v [.b, .p] (onBoth x))
  | carryRearm {v : View} {c : Token} : loopAt v .busy → v.p = some c → plain c → isTrue c = false → quiet v c →
      SteersTo (.carry v.g) v (took v [.p] [] (some (.loop .idle none)))
  | invarEmptyMarker {v : View} {m : Token} : loopAt v .idle → v.a = some m → m.isMarker = true →
      SteersTo (.invar v.g) v (took v [.a] (onBoth m) (some (.loop (if v.g.opt.getLsbD 0 then .idle else .echo) none)))
  | invarEmpty {v : View} {x : Token} : loopAt v .idle → v.a = some x → plain x →
      SteersTo (.invar v.g) v (took v [.a] (onBoth x) (some (.loop .busy (some x))))
  | invarEcho {v : View} {m : Token} : loopAt v .echo → v.p = some m → m.isMarker = true →
      SteersTo (.invar v.g) v (took v [.p] [] (some (.loop .idle none)))
  | invarHold {v : View} {x : Token} {y : W64} : v.st = .loop .busy (some x) → v.p = some (.data y) → y.getLsbD 0 = true →
      SteersTo (.invar v.g) v (took v [.p] (onBoth x))
  | invarRelease {v : View} {c : Token} : loopAt v .busy → v.p = some c → plain c → isTrue c = false → quiet v c →
      SteersTo (.invar v.g) v (took v [.p] [] (some (.loop .idle none)))
  | fork {v : View} {t : Token} : v.a = some t → SteersTo (.fork v.g) v (took v [.a] [(0, t), (1, t), (2, t), (3, t)])
  | sink {v : View} {t : Token} : v.a = some t → SteersTo (.sink v.g) v (took v [.a] (atSink t))
  | gateMarker {v : View} {m : Token} : v.a = some m → m.isMarker = true → SteersTo (.gate v.g) v (took v [.a] (onBoth m))
  | gate {v : View} {t o : Token} : v.a = some t → plain t → v.p = some o → SteersTo (.gate v.g) v (took v [.a, .p] (onBoth t))

/-- A value k of a COUNT is in its range up to hi (R199). -/
def inRange (g : GArgs) (k hi : Int) : Prop :=
  let s := (BitVec.ofNat 16 (g.bits 15 0)).toInt
  (s > 0 ∧ k < hi) ∨ (¬ s > 0 ∧ k > hi) ∨ (g.opt.getLsbD 0 = true ∧ k = hi)

/-- The next value of a COUNT. -/
def nextValue (g : GArgs) (k : Int) : Int := k + (BitVec.ofNat 16 (g.bits 15 0)).toInt

/-- The level field of COUNT and MARK. -/
def levelOf (g : GArgs) : Nat := g.bits 18 16

/-- A COUNT that stands at value k: it has just taken the range lo to hi, or is part-way through it. -/
def countsAt (v : View) (k hi : Int) : Prop :=
  ∃ x y : Token, v.a = some x ∧ v.b = some y ∧ hi = tyVal v.g.ty y.val ∧
    (v.st = .count (some k) ∨ (v.st = .plain ∧ x.isData = true ∧ y.isData = true ∧ k = tyVal v.g.ty x.val))

/-- Both operands of a COUNT leave with its last firing. -/
def countDone (v : View) (emits : List (Nat × Token)) (st : OpState) (round : Option (BitVec 8) := none) : Effect :=
  { takes := [1, 1, 0, 0], emits, st := some st, round, data := if (v.a.map Token.isData).getD false then 1 else 0, counted := true }

/-- A marker of a level that a punctuating operator makes with a status: from level 4 it carries the round counter, which
then advances (R189); below, its round field is free. -/
def makes (v : View) (level : Nat) (status : BitVec 8) : Token × BitVec 8 :=
  if level ≥ 4 then (.marker (BitVec.ofNat 3 level) v.round status, v.round + 1#8)
  else (.marker (BitVec.ofNat 3 level) (Config.lowRound v.info.id v.slot v.n) status, v.round)

/-- The round counter after a marker that passes through (R189). -/
def passed (v : View) (m : Token) : BitVec 8 := if m.level ≥ 4 then m.round + 1#8 else v.round

/-- The status of MARK's marker (R200). -/
def markStat (g : GArgs) : BitVec 8 := BitVec.ofNat 8 (g.bits 25 19 * 2)

/-- MARK's count and pending marker. -/
def markAt (v : View) (n : Nat) (pending : Bool) : Prop := v.st = .mark n pending ∨ (v.st = .plain ∧ n = 0 ∧ pending = false)

/-- ZIP's turn and the tokens of its group taken. -/
def zipAt (v : View) (turn taken : Nat) : Prop := v.st = .zip turn taken ∨ (v.st = .plain ∧ turn = 0 ∧ taken = 0)

/-- The operand of a turn of ZIP, and the operands that are fed. -/
def zipOp (turn : Nat) : Operand := if turn = 0 then .a else if turn = 1 then .b else .c
def zipOps (v : View) : List Operand := if v.fed.getLsbD 2 then [.a, .b, .c] else [.a, .b]

/-- COUNT, MARK, MSTRIP, MLIFT, MTEST and ZIP (R199 to R204). -/
inductive SequencesTo : Instr → View → Effect → Prop
  | countMarkers {v : View} {x y m : Token} : v.st = .plain → v.a = some x → v.b = some y → x.isMarker = true → y.isMarker = true →
      joinMarkers [x, y] = some m →
      SequencesTo (.count v.g) v { takes := [1, 1, 0, 0], emits := onBoth m, round := some (passed v m) }
  | countValue {v : View} {k hi : Int} : countsAt v k hi → inRange v.g k hi → inRange v.g (nextValue v.g k) hi →
      SequencesTo (.count v.g) v { emits := onBoth (.data (tyWrap v.g.ty k)), st := some (.count (some (nextValue v.g k))) }
  | countLast {v : View} {k hi : Int} : countsAt v k hi → inRange v.g k hi → ¬ inRange v.g (nextValue v.g k) hi → levelOf v.g ≠ 0 →
      SequencesTo (.count v.g) v { emits := onBoth (.data (tyWrap v.g.ty k)), st := some (.count none) }
  | countLastBare {v : View} {k hi : Int} : countsAt v k hi → inRange v.g k hi → ¬ inRange v.g (nextValue v.g k) hi → levelOf v.g = 0 →
      SequencesTo (.count v.g) v (countDone v (onBoth (.data (tyWrap v.g.ty k))) .plain)
  | countEmpty {v : View} {k hi : Int} : countsAt v k hi → ¬ inRange v.g k hi → levelOf v.g ≠ 0 →
      SequencesTo (.count v.g) v
        (countDone v (onBoth (makes v (levelOf v.g) 0#8).1) .plain (some (makes v (levelOf v.g) 0#8).2))
  | countEmptyBare {v : View} {k hi : Int} : countsAt v k hi → ¬ inRange v.g k hi → levelOf v.g = 0 →
      SequencesTo (.count v.g) v (countDone v [] .plain)
  | countMarker {v : View} {x y : Token} : v.a = some x → v.b = some y → v.st = .count none → levelOf v.g ≠ 0 →
      SequencesTo (.count v.g) v
        (countDone v (onBoth (makes v (levelOf v.g) 0#8).1) .plain (some (makes v (levelOf v.g) 0#8).2))
  | countPoison {v : View} {x y q : Token} : v.st = .plain → v.a = some x → v.b = some y → plain x → plain y →
      v.trapen.getLsbD 7 = false → [x, y].find? Token.isPoison = some q → levelOf v.g ≠ 0 →
      SequencesTo (.count v.g) v { emits := onBoth q, st := some (.count none) }
  | countPoisonBare {v : View} {x y q : Token} : v.st = .plain → v.a = some x → v.b = some y → plain x → plain y →
      v.trapen.getLsbD 7 = false → [x, y].find? Token.isPoison = some q → levelOf v.g = 0 →
      SequencesTo (.count v.g) v (took v [.a, .b] (onBoth q))
  | markPass {v : View} {t : Token} {n : Nat} : markAt v n false → v.a = some t → plain t →
      SequencesTo (.mark v.g) v
        (took v [.a] (onBoth t) (some (if n + 1 ≥ v.g.bits 15 0 + 1 then .mark 0 true else .mark (n + 1) false)))
  | markMarker {v : View} {m : Token} {n : Nat} : markAt v n false → v.a = some m → m.isMarker = true →
      SequencesTo (.mark v.g) v
        (took v [.a] (onBoth m) (some (.mark (if m.level ≥ levelOf v.g then 0 else n) false)) (some (passed v m)))
  | markPending {v : View} {t : Token} {n : Nat} : v.st = .mark n true → v.a = some t → plain t →
      SequencesTo (.mark v.g) v
        { emits := onBoth (makes v (levelOf v.g) (markStat v.g)).1, st := some (.mark 0 false)
          round := some (makes v (levelOf v.g) (markStat v.g)).2 }
  | markMerges {v : View} {l : BitVec 3} {r st : BitVec 8} {n : Nat} : v.st = .mark n true → v.a = some (.marker l r st) → l.toNat < 4 →
      SequencesTo (.mark v.g) v
        (took v [.a] (onBoth (makes v (max l.toNat (levelOf v.g)) (st ||| markStat v.g)).1) (some (.mark 0 false))
          (some (makes v (max l.toNat (levelOf v.g)) (st ||| markStat v.g)).2))
  | markMergesRound {v : View} {l : BitVec 3} {r st : BitVec 8} {n : Nat} : v.st = .mark n true → v.a = some (.marker l r st) →
      4 ≤ l.toNat →
      SequencesTo (.mark v.g) v
        (took v [.a] (onBoth (.marker (BitVec.ofNat 3 (max l.toNat (levelOf v.g))) r (st ||| markStat v.g))) (some (.mark 0 false))
          (some (r + 1#8)))
  | mstripDrop {v : View} {m : Token} : v.a = some m → m.isMarker = true → m.level ≤ v.g.bits 2 0 →
      SequencesTo (.mstrip v.g) v (took v [.a] [])
  | mstripPass {v : View} {t : Token} : v.a = some t → (plain t ∨ v.g.bits 2 0 < t.level) →
      SequencesTo (.mstrip v.g) v (took v [.a] (onBoth t))
  | mliftUp {v : View} {l : BitVec 3} {r st : BitVec 8} : v.a = some (.marker l r st) → l.toNat = v.g.bits 2 0 → v.g.bits 2 0 < 4 →
      4 ≤ v.g.bits 5 3 →
      SequencesTo (.mlift v.g) v (took v [.a] (onBoth (.marker (BitVec.ofNat 3 (v.g.bits 5 3)) v.round st)) none (some (v.round + 1#8)))
  | mliftKeep {v : View} {l : BitVec 3} {r st : BitVec 8} : v.a = some (.marker l r st) → l.toNat = v.g.bits 2 0 →
      (4 ≤ v.g.bits 2 0 ∨ v.g.bits 5 3 < 4) →
      SequencesTo (.mlift v.g) v
        (took v [.a] (onBoth (.marker (BitVec.ofNat 3 (v.g.bits 5 3)) r st)) none
          (some (passed v (.marker (BitVec.ofNat 3 (v.g.bits 5 3)) r st))))
  | mliftOther {v : View} {m : Token} : v.a = some m → m.isMarker = true → m.level ≠ v.g.bits 2 0 →
      SequencesTo (.mlift v.g) v (took v [.a] (onBoth m) none (some (passed v m)))
  | mliftPass {v : View} {t : Token} : v.a = some t → plain t → SequencesTo (.mlift v.g) v (took v [.a] (onBoth t))
  | mtest {v : View} {t : Token} : v.a = some t →
      SequencesTo (.mtest v.g) v
        (took v [.a] [(0, .data (if t.isMarker = true ∧ v.g.bits 2 0 ≤ t.level then 1#64 else 0#64)), (1, t)])
  | zipMarkers {v : View} {hs : List Token} {m : Token} : zipAt v 0 0 → (zipOps v).map v.head = hs.map some → hs.all Token.isMarker = true →
      joinMarkers hs = some m → SequencesTo (.zip v.g) v { takes := takeOne (zipOps v), emits := onBoth m }
  | zipMore {v : View} {t : Token} {turn taken : Nat} : zipAt v turn taken → v.head (zipOp turn) = some t → plain t →
      taken + 1 < v.g.bits 7 0 + 1 →
      SequencesTo (.zip v.g) v (took v [zipOp turn] (onBoth t) (some (.zip turn (taken + 1))))
  | zipTurn {v : View} {t : Token} {turn taken : Nat} : zipAt v turn taken → v.head (zipOp turn) = some t → plain t →
      v.g.bits 7 0 + 1 ≤ taken + 1 →
      SequencesTo (.zip v.g) v
        (took v [zipOp turn] (onBoth t) (some (.zip (if turn + 1 ≥ (zipOps v).length then 0 else turn + 1) 0)))

/-- JOIN's counts, in the order a, b, c, p. -/
def joinAt (v : View) (k : List Nat) : Prop :=
  (∃ a b c p, v.st = .join a b c p ∧ k = [a, b, c, p]) ∨ (v.st = .plain ∧ k = [0, 0, 0, 0])

/-- The inputs that JOIN takes from: fed, below their count, with a token (R206). -/
def joinOps (v : View) (k : List Nat) : List Operand :=
  ([Operand.a, .b, .c, .p].zipIdx.filter fun x =>
    v.fed.getLsbD x.2 && decide ((k[x.2]?).getD 0 < v.g.bits 15 0 + 1) && (v.head x.1).isSome).map (·.1)

/-- The counts after those tokens. -/
def joinNext (v : View) (k : List Nat) : List Nat :=
  [Operand.a, .b, .c, .p].zipIdx.map fun x => (k[x.2]?).getD 0 + if (joinOps v k).contains x.1 then 1 else 0

/-- Every fed input has delivered its tokens. -/
def joinFull (v : View) (k : List Nat) : Prop :=
  ∀ i < 4, v.fed.getLsbD i = true → v.g.bits 15 0 + 1 ≤ ((joinNext v k)[i]?).getD 0

/-- BAR between two counts. -/
def barIdle (v : View) : Prop := v.st = .plain ∨ v.st = .bar none

/-- BAR between two counts, with no marker of level 6 or 7 on a, which would pass first (R188). -/
def barAsks (v : View) : Prop := barIdle v ∧ ∀ t, v.a = some t → t.level < 6

/-- ORD, JOIN, BAR, DRAIN, CALL, ENTRY and EXIT (R205 to R210). -/
inductive OrdersTo : Instr → View → Effect → Prop
  | ordToken {v : View} {t : Token} : v.a = some t → (plain t ∨ v.g.opt.getLsbD 0 = true) →
      OrdersTo (.ord v.g) v (took v [.a] (onBoth .ord))
  | ordMarker {v : View} {m : Token} : v.a = some m → m.isMarker = true → v.g.opt.getLsbD 0 = false → OrdersTo (.ord v.g) v (took v [.a] [])
  | joinTake {v : View} {k : List Nat} {a b c p : Nat} : joinAt v k → joinOps v k ≠ [] → ¬ joinFull v k → joinNext v k = [a, b, c, p] →
      OrdersTo (.join v.g) v { takes := takeOne (joinOps v k), st := some (.join a b c p) }
  | joinEmit {v : View} {k : List Nat} : joinAt v k → joinOps v k ≠ [] → joinFull v k →
      OrdersTo (.join v.g) v { takes := takeOne (joinOps v k), emits := onBoth .ord, st := some (.join 0 0 0 0) }
  | barCount {v : View} {k : W64} : barAsks v → v.b = some (.data k) →
      OrdersTo (.bar v.g) v (took v [.b] [] (some (.bar (some (k.toNat % 2 ^ 32)))))
  | barPoison {v : View} {q : BitVec 8} : barAsks v → v.b = some (.poison q) → v.trapen.getLsbD 7 = false →
      OrdersTo (.bar v.g) v (took v [.b] [] (some (.bar (some 0))))
  | barIgnore {v : View} {m : Token} : barAsks v → v.b = some m → m.isMarker = true → OrdersTo (.bar v.g) v (took v [.b] [])
  | barMarkerIdle {v : View} {m : Token} : barIdle v → v.a = some m → 6 ≤ m.level →
      OrdersTo (.bar v.g) v (took v [.a] (onBoth m) none (some (passed v m)))
  | barMarker {v : View} {m : Token} {k : Nat} : v.st = .bar (some (k + 1)) → v.a = some m → m.isMarker = true →
      OrdersTo (.bar v.g) v (took v [.a] (onBoth m) none (some (passed v m)))
  | barPass {v : View} {t : Token} {k : Nat} : v.st = .bar (some (k + 1)) → v.a = some t → plain t →
      OrdersTo (.bar v.g) v (took v [.a] (onBoth t) (some (.bar (some k))))
  | barInject {v : View} : v.st = .bar (some 0) →
      OrdersTo (.bar v.g) v
        { emits := onBoth (makes v (if v.g.opt.getLsbD 0 then 7 else 6) 0#8).1, st := some (.bar none)
          round := some (makes v (if v.g.opt.getLsbD 0 then 7 else 6) 0#8).2 }
  | drainPass {v : View} {t : Token} : v.a = some t → t.level < 6 → OrdersTo (.drain v.g) v (took v [.a] [(0, t)])
  | drainBarrier {v : View} {m : Token} : v.a = some m → 6 ≤ m.level →
      OrdersTo (.drain v.g) v
        (took v [.a] ([(1, .ord), (sinkTarget, m)] ++ if v.g.opt.getLsbD 0 then [(0, m)] else []))
  | callA {v : View} {t : Token} : v.a = some t → OrdersTo (.call v.g) v (took v [.a] [(4, t)])
  | callB {v : View} {t : Token} : v.a = none → v.b = some t → OrdersTo (.call v.g) v (took v [.b] [(5, t)])
  | callC {v : View} {t : Token} : v.a = none → v.b = none → v.c = some t → OrdersTo (.call v.g) v (took v [.c] [(6, t)])
  | entry {v : View} {t : Token} : v.a = some t → OrdersTo (.entry v.g) v (took v [.a] (onBoth t))
  | exit {v : View} {t : Token} : v.a = some t → OrdersTo (.exit v.g) v (took v [.a] (onBoth t))

/-! ### Reductions, scans, filters (R137, R211 to R218) -/

/-- A reduction word: operator, group level, rounding mode, log2 of the width; the views that a RED, a REDX, a SCAN or the
reducing part of a PAT has it in. -/
inductive ReducesAs : Instr → View → RedSpec → Prop
  | red {v : View} : ReducesAs (.red v.g) v ⟨v.g.bits 3 0, v.g.bits 6 4, v.g.mode.toNat, v.info.widthLog2⟩
  | redx {v : View} : ReducesAs (.redx v.g) v ⟨v.g.bits 3 0, v.g.bits 6 4, v.g.mode.toNat, v.g.bits 9 7⟩
  | pat {v : View} : v.refs.head? = some 1 → v.g.mode = 2#3 →
      ReducesAs (.pat v.g) v ⟨v.g.bits 19 16, v.g.bits 22 20, v.g.bits 25 23, (v.refs[1]?).getD 0⟩
inductive ScansAs : Instr → View → RedSpec → Prop
  | scan {v : View} : ScansAs (.scan v.g) v ⟨v.g.bits 3 0, v.g.bits 6 4, v.g.mode.toNat, v.info.widthLog2⟩
  | pat {v : View} : v.refs.head? = some 1 → v.g.mode = 3#3 →
      ScansAs (.pat v.g) v ⟨v.g.bits 19 16, v.g.bits 22 20, v.g.bits 25 23, (v.refs[1]?).getD 0⟩
inductive FiltersAs : Instr → View → Nat → Prop
  | filt {v : View} : FiltersAs (.filt v.g) v (v.g.bits 2 0)
  | pat {v : View} : v.refs.head? = some 1 → v.g.mode = 4#3 → FiltersAs (.pat v.g) v (v.g.bits 22 20)

/-- A group so far: its partials, the number of its elements, its first poison. -/
def groupAt (v : View) (ps : List (Option Partial)) (n : Nat) (pois : Option (BitVec 8)) : Prop :=
  v.st = .red ps n pois ∨ (v.st = .plain ∧ ps = [] ∧ n = 0 ∧ pois = none)

/-- The partials of a group of width 2^lw, all absent at first, with element n combined into partial n mod 2^lw (R137). -/
def accepts (v : View) (r : RedSpec) (ps : List (Option Partial)) (n : Nat) (x : W64) : List (Option Partial) × List FpFlags :=
  let ps := if ps.length = 2 ^ r.lw then ps else List.replicate (2 ^ r.lw) none
  let c := combine v v.g.ty r.op r.mode (ps[n % 2 ^ r.lw]?).join (some ⟨x, n⟩)
  (ps.set (n % 2 ^ r.lw) c.1, c.2)

/-- No rounding of a sequence traps (R147); the flags that they raise. -/
def untrapped (v : View) (fs : List FpFlags) : Prop := ∀ f ∈ fs, flagFault f (v.info.policy.getLsbD 4) v.trapen = none
def raised (fs : List FpFlags) : FpFlags := fs.foldl (· ||| ·) 0#5

/-- A marker's round as a stateful node checks it: levels from 4 must carry the counter, which then advances (R40). -/
def roundOk (v : View) (stateful : Bool) (m : Token) (after : BitVec 8) : Prop :=
  if stateful = true ∧ m.level ≥ 4 then m.round = v.round ∧ after = v.round + 1#8 else after = v.round

/-- Markers on both operands of a FILT.cnt of level l, which are joined; where l is from 4, each of a level from 4 carries the round (R40). -/
def filtMarks (v : View) (l : Nat) (x y m : Token) : Prop :=
  v.a = some x ∧ v.p = some y ∧ x.isMarker = true ∧ y.isMarker = true ∧ joinMarkers [x, y] = some m ∧
  (4 ≤ l → (4 ≤ x.level → x.round = v.round) ∧ (4 ≤ y.level → y.round = v.round))

/-- They end the group: the joined level has reached l, and the round is closed on both operands where l is from 4. -/
def filtEnd (l : Nat) (x y m : Token) : Prop := l ≤ m.level ∧ (4 ≤ l → 4 ≤ x.level ∧ 4 ≤ y.level)

/-- The round counter after them. -/
def filtAfter (v : View) (l : Nat) (x y : Token) : BitVec 8 := if 4 ≤ l ∧ 4 ≤ x.level ∧ 4 ≤ y.level then v.round + 1#8 else v.round

/-- RED, REDX, SCAN, FILT, CMPCT and PAT. -/
inductive GroupsTo : Instr → View → Effect → Prop
  | element {i : Instr} {v : View} {r : RedSpec} {ps : List (Option Partial)} {n : Nat} {x : W64} : ReducesAs i v r →
      groupAt v ps n none → v.a = some (.data x) → untrapped v (accepts v r ps n x).2 →
      GroupsTo i v { took v [.a] [] (some (.red (accepts v r ps n x).1 (n + 1) none)) with flags := raised (accepts v r ps n x).2 }
  | poisonFirst {i : Instr} {v : View} {r : RedSpec} {ps : List (Option Partial)} {n : Nat} {c : BitVec 8} : ReducesAs i v r →
      groupAt v ps n none → v.a = some (.poison c) → v.trapen.getLsbD 7 = false →
      GroupsTo i v (took v [.a] [] (some (.red ps (n + 1) (some c))))
  | poisoned {i : Instr} {v : View} {r : RedSpec} {ps : List (Option Partial)} {n : Nat} {c : BitVec 8} {t : Token} : ReducesAs i v r →
      groupAt v ps n (some c) → v.a = some t → (t.isData = true ∨ t.isPoison = true ∧ v.trapen.getLsbD 7 = false) →
      GroupsTo i v (took v [.a] [] (some (.red ps (n + 1) (some c))))
  | below {i : Instr} {v : View} {r : RedSpec} {ps : List (Option Partial)} {n : Nat} {q : Option (BitVec 8)} {m : Token}
      {rc : BitVec 8} : ReducesAs i v r → groupAt v ps n q → v.a = some m → m.isMarker = true → m.level < r.level →
      roundOk v (decide (r.level ≥ 4)) m rc → GroupsTo i v (took v [.a] (if m.level ≥ 6 then onBoth m else []) none (some rc))
  | resultPoison {i : Instr} {v : View} {r : RedSpec} {ps : List (Option Partial)} {n : Nat} {c : BitVec 8} {m : Token}
      {rc : BitVec 8} : ReducesAs i v r → groupAt v ps n (some c) → v.a = some m → m.isMarker = true → r.level ≤ m.level →
      roundOk v (decide (r.level ≥ 4)) m rc → GroupsTo i v { emits := onBoth (.poison c), st := some (.elem 1) }
  | resultEmpty {i : Instr} {v : View} {r : RedSpec} {ps : List (Option Partial)} {m : Token} {rc : BitVec 8} : ReducesAs i v r →
      groupAt v ps 0 none → v.a = some m → m.isMarker = true → r.level ≤ m.level → roundOk v (decide (r.level ≥ 4)) m rc →
      GroupsTo i v
        { emits := if r.op = 8 ∨ r.op = 9 then [(0, .data (redIdentity v.g.ty r.op)), (1, .data 0xFFFFFFFF#64)]
            else onBoth (.data (redIdentity v.g.ty r.op))
          st := some (.elem 1) }
  | result {i : Instr} {v : View} {r : RedSpec} {ps : List (Option Partial)} {n : Nat} {m : Token} {rc : BitVec 8} {y : Partial}
      {fs : List FpFlags} : ReducesAs i v r → groupAt v ps n none → n ≠ 0 → v.a = some m → m.isMarker = true → r.level ≤ m.level →
      roundOk v (decide (r.level ≥ 4)) m rc → redTree v v.g.ty r.op r.mode ps r.lw 0 = (some y, fs) → untrapped v fs →
      GroupsTo i v
        { emits := if r.op = 8 ∨ r.op = 9 then [(0, .data y.value), (1, .data (BitVec.ofNat 64 (y.index % 2 ^ 32)))]
            else onBoth (.data y.value)
          flags := raised fs, st := some (.elem 1) }
  | close {i : Instr} {v : View} {r : RedSpec} {m : Token} {rc : BitVec 8} : ReducesAs i v r → v.st = .elem 1 → v.a = some m →
      m.isMarker = true → roundOk v (decide (r.level ≥ 4)) m rc → GroupsTo i v (took v [.a] (onBoth m) (some .plain) (some rc))
  | scan {i : Instr} {v : View} {r : RedSpec} {ps : List (Option Partial)} {n : Nat} {x : W64} {y : Partial} {fs : List FpFlags} :
      ScansAs i v r → groupAt v ps n none → v.a = some (.data x) → v.g.opt.getLsbD 0 = false →
      redTree v v.g.ty r.op r.mode (accepts v r ps n x).1 r.lw 0 = (some y, fs) → untrapped v ((accepts v r ps n x).2 ++ fs) →
      GroupsTo i v { took v [.a] (onBoth (.data y.value)) (some (.red (accepts v r ps n x).1 (n + 1) none)) with
                       flags := raised ((accepts v r ps n x).2 ++ fs) }
  | scanFirst {i : Instr} {v : View} {r : RedSpec} {ps : List (Option Partial)} {x : W64} :
      ScansAs i v r → groupAt v ps 0 none → v.a = some (.data x) → v.g.opt.getLsbD 0 = true → untrapped v (accepts v r ps 0 x).2 →
      GroupsTo i v { took v [.a] (onBoth (.data (redIdentity v.g.ty r.op))) (some (.red (accepts v r ps 0 x).1 1 none)) with
                       flags := raised (accepts v r ps 0 x).2 }
  | scanBefore {i : Instr} {v : View} {r : RedSpec} {ps : List (Option Partial)} {n : Nat} {x : W64} {y : Partial} {fs : List FpFlags} :
      ScansAs i v r → groupAt v ps n none → n ≠ 0 → v.a = some (.data x) → v.g.opt.getLsbD 0 = true →
      redTree v v.g.ty r.op r.mode ps r.lw 0 = (some y, fs) → untrapped v ((accepts v r ps n x).2 ++ fs) →
      GroupsTo i v { took v [.a] (onBoth (.data y.value)) (some (.red (accepts v r ps n x).1 (n + 1) none)) with
                       flags := raised ((accepts v r ps n x).2 ++ fs) }
  | scanPoisoned {i : Instr} {v : View} {r : RedSpec} {ps : List (Option Partial)} {n : Nat} {c : BitVec 8} {t : Token} : ScansAs i v r →
      groupAt v ps n (some c) → v.a = some t → (t.isData = true ∨ t.isPoison = true ∧ v.trapen.getLsbD 7 = false) →
      GroupsTo i v (took v [.a] (onBoth (.poison c)) (some (.red ps (n + 1) (some c))))
  | scanPoison {i : Instr} {v : View} {r : RedSpec} {ps : List (Option Partial)} {n : Nat} {c : BitVec 8} : ScansAs i v r →
      groupAt v ps n none → v.a = some (.poison c) → v.trapen.getLsbD 7 = false → v.g.opt.getLsbD 0 = false →
      GroupsTo i v (took v [.a] (onBoth (.poison c)) (some (.red ps (n + 1) (some c))))
  | scanPoisonFirst {i : Instr} {v : View} {r : RedSpec} {ps : List (Option Partial)} {c : BitVec 8} : ScansAs i v r →
      groupAt v ps 0 none → v.a = some (.poison c) → v.trapen.getLsbD 7 = false → v.g.opt.getLsbD 0 = true →
      GroupsTo i v (took v [.a] (onBoth (.data (redIdentity v.g.ty r.op))) (some (.red ps 1 (some c))))
  | scanPoisonBefore {i : Instr} {v : View} {r : RedSpec} {ps : List (Option Partial)} {n : Nat} {c : BitVec 8} {y : Partial}
      {fs : List FpFlags} : ScansAs i v r → groupAt v ps n none → n ≠ 0 → v.a = some (.poison c) → v.trapen.getLsbD 7 = false →
      v.g.opt.getLsbD 0 = true → redTree v v.g.ty r.op r.mode ps r.lw 0 = (some y, fs) → untrapped v fs →
      GroupsTo i v { took v [.a] (onBoth (.data y.value)) (some (.red ps (n + 1) (some c))) with flags := raised fs }
  | scanMarker {i : Instr} {v : View} {r : RedSpec} {m : Token} {rc : BitVec 8} : ScansAs i v r → v.a = some m → m.isMarker = true →
      roundOk v (decide (r.level ≥ 4)) m rc →
      GroupsTo i v (took v [.a] (onBoth m) (if r.level ≤ m.level then some .plain else none) (some rc))
  | filtPass {i : Instr} {v : View} {l n : Nat} {t c : Token} : FiltersAs i v l → (v.st = .tally n ∨ v.st = .plain ∧ n = 0) →
      v.a = some t → plain t → v.p = some c → isTrue c = true → GroupsTo i v (took v [.a, .p] [(0, t)] (some (.tally (n + 1))))
  | filtDrop {i : Instr} {v : View} {l : Nat} {t c : Token} : FiltersAs i v l → v.a = some t → plain t → v.p = some c → plain c →
      isTrue c = false → quiet v c → GroupsTo i v (took v [.a, .p] [])
  | filtMarker {i : Instr} {v : View} {l : Nat} {x y m : Token} : FiltersAs i v l → v.g.opt.getLsbD 0 = false → v.a = some x →
      v.p = some y → x.isMarker = true → y.isMarker = true → joinMarkers [x, y] = some m →
      GroupsTo i v { takes := [1, 0, 0, 1], emits := [(0, m)], st := if l ≤ m.level then some (.tally 0) else none, round := some v.round }
  | filtCount {i : Instr} {v : View} {l n : Nat} {x y m : Token} : FiltersAs i v l → v.g.opt.getLsbD 0 = true →
      (v.st = .tally n ∨ v.st = .plain ∧ n = 0) → filtMarks v l x y m → filtEnd l x y m →
      GroupsTo i v { emits := [(1, .data (BitVec.ofNat 64 (n % 2 ^ 32)))], st := some (.elem 1) }
  | filtClose {i : Instr} {v : View} {l : Nat} {x y m : Token} : FiltersAs i v l → v.g.opt.getLsbD 0 = true →
      v.st = .elem 1 → filtMarks v l x y m → filtEnd l x y m →
      GroupsTo i v { takes := [1, 0, 0, 1], emits := [(0, m), (1, m)], st := some (.tally 0), round := some (filtAfter v l x y) }
  | filtBelow {i : Instr} {v : View} {l : Nat} {x y m : Token} : FiltersAs i v l → v.g.opt.getLsbD 0 = true →
      filtMarks v l x y m → ¬ filtEnd l x y m →
      GroupsTo i v { takes := [1, 0, 0, 1], emits := [(0, m)], round := some (filtAfter v l x y) }
  | cmpctTrue {v : View} {x : W64} {n : Nat} : (v.st = .tally n ∨ v.st = .plain ∧ n = 0) → v.a = some (.data x) → x.getLsbD 0 = true →
      GroupsTo (.cmpct v.g) v (took v [.a] [(0, .data (BitVec.ofNat 64 (n % 2 ^ 32)))] (some (.tally (n + 1))))
  | cmpctFalse {v : View} {c : Token} : v.a = some c → plain c → isTrue c = false → quiet v c → GroupsTo (.cmpct v.g) v (took v [.a] [])
  | cmpctCount {v : View} {m : Token} {n : Nat} {rc : BitVec 8} : (v.st = .tally n ∨ v.st = .plain ∧ n = 0) → v.a = some m →
      m.isMarker = true → v.g.bits 2 0 ≤ m.level → roundOk v (decide (v.g.bits 2 0 ≥ 4)) m rc →
      GroupsTo (.cmpct v.g) v { emits := [(1, .data (BitVec.ofNat 64 (n % 2 ^ 32)))], st := some (.elem 1) }
  | cmpctClose {v : View} {m : Token} {rc : BitVec 8} : v.st = .elem 1 → v.a = some m → m.isMarker = true → v.g.bits 2 0 ≤ m.level →
      roundOk v (decide (v.g.bits 2 0 ≥ 4)) m rc → GroupsTo (.cmpct v.g) v (took v [.a] (onBoth m) (some (.tally 0)) (some rc))
  | cmpctBelow {v : View} {m : Token} {rc : BitVec 8} : v.a = some m → m.isMarker = true → m.level < v.g.bits 2 0 →
      roundOk v (decide (v.g.bits 2 0 ≥ 4)) m rc → GroupsTo (.cmpct v.g) v (took v [.a] [(0, m)] none (some rc))
  | patMap {v : View} {t : Token} : v.refs.head? = some 1 → v.g.mode = 1#3 → v.a = some t → GroupsTo (.pat v.g) v (took v [.a] (onBoth t))
  | patFeed {v : View} {ops : List Operand} {hs : List Token} : v.refs.head? ≠ some 1 →
      ops = [.a] ++ (if v.fed.getLsbD 1 then [.b] else []) ++ (if v.fed.getLsbD 2 then [.c] else []) → ops.map v.head = hs.map some →
      GroupsTo (.pat v.g) v
        (took v ops ((hs.zipIdx.map fun x => (4 + x.2, x.1)) ++ if v.g.mode = 4#3 then (hs.head?.map fun t => (7, t)).toList else []))

/-- What a control operator is charged as: a router slot is not charged; a reduction costs its arithmetic (R182). -/
def controlCost : Instr → Cost
  | .red g | .redx g | .scan g => redCost g (g.bits 3 0)
  | .pat g => redCost g (g.bits 19 16)
  | _ => ⟨1, 1, 0, false⟩

/-- How many operations of that cost a firing is: those that a reduction or a scan makes on its element or at the end of its group. -/
def controlTimes : Instr → View → Nat
  | .red _, v => redTimes redSpec false v
  | .redx _, v => redTimes redxSpec false v
  | .scan _, v => redTimes redSpec true v
  | .pat g, v => if v.refs.head? = some 1 ∧ (g.mode = 2#3 ∨ g.mode = 3#3) then redTimes patSpec (g.mode = 3#3) v else 1
  | _, _ => 1

/-- In a granted and admitted cycle, an operator's firing takes place at once (R182) with the effect that a relation
gives. A DRAIN fires only once the barrier has reached every sink of its region (R42). -/
def controlFires (does : Instr → View → Effect → Prop) : Prop :=
  ∀ (i : Instr) (s : State) (p : PlaneId) (k : Nat) (pl : Plane) (n : Node) (g : GArgs) (e : Effect),
    let v := nodeView s pl k n g
    does i v e → NodeTurn s p k pl n (controlCost i) (controlTimes i v) → pl.canEmit n e.emits = true →
    (∀ g, i = .drain g → pl.drainWaits k n = false) →
    exec i s = .next (commitEffect (s.admitted p n.place (controlCost i) (controlTimes i v)) p k n e)

/-- Heads that marker_join refuses: some are markers, and some are not or their rounds differ (R38, R187). -/
def clash (hs : List Token) : Prop := hs.any Token.isMarker = true ∧ (hs.all Token.isMarker = false ∨ joinMarkers hs = none)

/-- The first trap that a sequence of roundings takes (R147). -/
def trapsWith (v : View) (fs : List FpFlags) (cause : Nat) : Prop :=
  fs.findSome? (fun f => flagFault f (v.info.policy.getLsbD 4) v.trapen) = some cause

/-- The faults of control operators, with the operands that the firing would have taken: markers out of step (R187, R192 to
R195, R204), a marker of the wrong round at a stateful node (R40), poison where its trap is on (R39, R187). -/
inductive ControlFaults : Instr → View → List Operand → Nat → Prop
  | steerRoute {v : View} {a c : Token} : v.a = some a → v.p = some c → v.g.opt = 3#2 → c.isMarker = true →
      ControlFaults (.steer v.g) v [.a, .p] 0x51
  | steerMixed {v : View} {a c : Token} : v.a = some a → v.p = some c → v.g.opt ≠ 3#2 → clash [a, c] →
      ControlFaults (.steer v.g) v [.a, .p] 0x51
  | steerPoison {v : View} {a : Token} {q : BitVec 8} : v.a = some a → v.p = some (.poison q) → (v.g.opt = 3#2 ∨ plain a) →
      v.trapen.getLsbD 7 = true → ControlFaults (.steer v.g) v [.a, .p] 0x30
  | mergeRoute {v : View} {c : Token} : v.p = some c → v.g.opt = 3#2 → c.isMarker = true → ControlFaults (.merge v.g) v [.p] 0x51
  | mergeMixed {v : View} {ops : List Operand} {hs : List Token} {c : Token} : v.p = some c → c.isMarker = true → v.g.opt ≠ 3#2 →
      ops = (if v.g.opt = 1#2 then [.a, .p] else if v.g.opt = 2#2 then [.b, .p] else [.a, .b, .p]) →
      ops.map v.head = hs.map some → clash hs → ControlFaults (.merge v.g) v ops 0x51
  | mergeMarker {v : View} {x : Token} {y : W64} : v.p = some (.data y) → v.g.opt ≠ 3#2 →
      v.head (if y.getLsbD 0 then .a else .b) = some x → x.isMarker = true →
      ControlFaults (.merge v.g) v [if y.getLsbD 0 then .a else .b, .p] 0x51
  | mergePoison {v : View} {x : Token} {q : BitVec 8} : v.p = some (.poison q) → v.b = some x → (v.g.opt = 3#2 ∨ plain x) →
      v.trapen.getLsbD 7 = true → ControlFaults (.merge v.g) v [.b, .p] 0x30
  | carryEcho {v : View} {t : Token} : loopAt v .echo → v.p = some t → plain t → ControlFaults (.carry v.g) v [.p] 0x51
  | carryTest {v : View} {m : Token} : loopAt v .busy → v.p = some m → m.isMarker = true → ControlFaults (.carry v.g) v [.p] 0x51
  | carryBack {v : View} {m : Token} {y : W64} : loopAt v .busy → v.p = some (.data y) → y.getLsbD 0 = true → v.b = some m →
      m.isMarker = true → ControlFaults (.carry v.g) v [.b, .p] 0x51
  | carryPoison {v : View} {q : BitVec 8} : loopAt v .busy → v.p = some (.poison q) → v.trapen.getLsbD 7 = true →
      ControlFaults (.carry v.g) v [.p] 0x30
  | invarEcho {v : View} {t : Token} : loopAt v .echo → v.p = some t → plain t → ControlFaults (.invar v.g) v [.p] 0x51
  | invarTest {v : View} {m : Token} : loopAt v .busy → v.p = some m → m.isMarker = true → ControlFaults (.invar v.g) v [.p] 0x51
  | invarPoison {v : View} {q : BitVec 8} : loopAt v .busy → v.p = some (.poison q) → v.trapen.getLsbD 7 = true →
      ControlFaults (.invar v.g) v [.p] 0x30
  | countMixed {v : View} {x y : Token} : v.st = .plain → v.a = some x → v.b = some y → clash [x, y] →
      ControlFaults (.count v.g) v [.a, .b] 0x51
  | countPoison {v : View} {x y : Token} : v.st = .plain → v.a = some x → v.b = some y → plain x → plain y →
      (x.isPoison = true ∨ y.isPoison = true) → v.trapen.getLsbD 7 = true → ControlFaults (.count v.g) v [.a, .b] 0x30
  | zipMixed {v : View} {hs : List Token} {m : Token} : zipAt v 0 0 → v.a = some m → m.isMarker = true →
      (zipOps v).map v.head = hs.map some → clash hs → ControlFaults (.zip v.g) v (zipOps v) 0x51
  | zipInside {v : View} {m : Token} {turn taken : Nat} : zipAt v turn taken → (turn, taken) ≠ (0, 0) → v.head (zipOp turn) = some m →
      m.isMarker = true → ControlFaults (.zip v.g) v [zipOp turn] 0x51
  | barPoison {v : View} {q : BitVec 8} : barAsks v → v.b = some (.poison q) → v.trapen.getLsbD 7 = true →
      ControlFaults (.bar v.g) v [.b] 0x30
  | redRound {i : Instr} {v : View} {r : RedSpec} {m : Token} : ReducesAs i v r → v.st ≠ .elem 1 → v.a = some m → m.isMarker = true →
      4 ≤ r.level → 4 ≤ m.level → m.round ≠ v.round → ControlFaults i v [.a] 0x51
  | redPoison {i : Instr} {v : View} {r : RedSpec} {q : BitVec 8} : ReducesAs i v r → v.a = some (.poison q) →
      v.trapen.getLsbD 7 = true → ControlFaults i v [.a] 0x30
  | redTrap {i : Instr} {v : View} {r : RedSpec} {ps : List (Option Partial)} {n : Nat} {x : W64} {c : Nat} :
      ReducesAs i v r → groupAt v ps n none → v.a = some (.data x) → trapsWith v (accepts v r ps n x).2 c → ControlFaults i v [.a] c
  | redResultTrap {i : Instr} {v : View} {r : RedSpec} {ps : List (Option Partial)} {n : Nat} {m : Token} {rc : BitVec 8}
      {c : Nat} : ReducesAs i v r → groupAt v ps n none → n ≠ 0 → v.a = some m → m.isMarker = true → r.level ≤ m.level →
      roundOk v (decide (r.level ≥ 4)) m rc → trapsWith v (redTree v v.g.ty r.op r.mode ps r.lw 0).2 c → ControlFaults i v [.a] c
  | scanTrap {i : Instr} {v : View} {r : RedSpec} {ps : List (Option Partial)} {n : Nat} {x : W64} {c : Nat} : ScansAs i v r →
      groupAt v ps n none → v.a = some (.data x) →
      trapsWith v ((accepts v r ps n x).2 ++
        (if v.g.opt.getLsbD 0 = false then (redTree v v.g.ty r.op r.mode (accepts v r ps n x).1 r.lw 0).2
         else if n = 0 then [] else (redTree v v.g.ty r.op r.mode ps r.lw 0).2)) c →
      ControlFaults i v [.a] c
  | scanRound {i : Instr} {v : View} {r : RedSpec} {m : Token} : ScansAs i v r → v.a = some m → m.isMarker = true → 4 ≤ r.level →
      4 ≤ m.level → m.round ≠ v.round → ControlFaults i v [.a] 0x51
  | scanPoison {i : Instr} {v : View} {r : RedSpec} {q : BitVec 8} : ScansAs i v r → v.a = some (.poison q) →
      v.trapen.getLsbD 7 = true → ControlFaults i v [.a] 0x30
  | filtMixed {i : Instr} {v : View} {l : Nat} {x y : Token} : FiltersAs i v l → v.a = some x → v.p = some y →
      clash [x, y] → ControlFaults i v [.a, .p] 0x51
  | filtRound {i : Instr} {v : View} {l : Nat} {x y m : Token} : FiltersAs i v l → v.g.opt.getLsbD 0 = true → v.a = some x →
      v.p = some y → x.isMarker = true → y.isMarker = true → 4 ≤ l → (m = x ∨ m = y) → 4 ≤ m.level →
      m.round ≠ v.round → ControlFaults i v [.a, .p] 0x51
  | filtPoison {i : Instr} {v : View} {l : Nat} {x : Token} {q : BitVec 8} : FiltersAs i v l → v.a = some x → plain x →
      v.p = some (.poison q) → v.trapen.getLsbD 7 = true → ControlFaults i v [.a, .p] 0x30
  | cmpctRound {v : View} {m : Token} : v.a = some m → m.isMarker = true → 4 ≤ v.g.bits 2 0 → 4 ≤ m.level → m.round ≠ v.round →
      ControlFaults (.cmpct v.g) v [.a] 0x51
  | cmpctPoison {v : View} {q : BitVec 8} : v.a = some (.poison q) → v.trapen.getLsbD 7 = true →
      ControlFaults (.cmpct v.g) v [.a] 0x30

/-- In a granted and admitted cycle the fault of a control operator is detected in its plane, with the element index and
operand values of R426. -/
def controlFault : Prop :=
  ∀ (i : Instr) (s : State) (p : PlaneId) (k : Nat) (pl : Plane) (n : Node) (g : GArgs) (ops : List Operand) (cause : Nat),
    let v := nodeView s pl k n g
    ControlFaults i v ops cause → NodeTurn s p k pl n (controlCost i) (controlTimes i v) →
    exec i s = .next ((s.admitted p n.place (controlCost i) (controlTimes i v)).detectFault p (some (.node k))
      { cause, iter := some [v.e], opv := some ([Operand.a, .b, .c].map (v.recorded ops)) })

end Sys2Proof.Claims
end

