-- ==== Sys2Proof/Claims/Elements.lean ====
section
/-! DEFINITION. What the element-wise instructions of a PE do, as the tables that the statements range over (R149 to R176). -/

namespace Sys2Proof.Claims

open Sys2Proof.Machine

/-! ## Nodes on a PE (R36 to R39, R141, R147) -/

/-- One element-wise instruction: the operands it consumes with b from a channel, whether b may be an immediate (R67), its
value and flags, the fault that the operation itself takes, and the ticks of its die's counter that it waits for (R176). -/
structure ElementOp where
  make   : GArgs → Instr
  ops    : List Operand
  immB   : Bool
  value  : View → (Operand → W64) → W64 × FpFlags
  fault  : View → (Operand → W64) → Option Nat := fun _ _ => none
  dep    : Bool := false
  ticks  : GArgs → Option Nat := fun _ => none

/-- The operands whose tokens a firing takes. -/
def ElementOp.takes (c : ElementOp) (g : GArgs) : List Operand := if c.immB && g.imm then c.ops.erase .b else c.ops

/-- A value for every operand: the data token at its head, or the immediate. -/
def ElementOp.reads (c : ElementOp) (n : Node) (g : GArgs) (x : Operand → W64) : Prop :=
  (∀ o ∈ c.takes g, (n.queue o).head = some (.data (x o))) ∧ (c.immB = true → g.imm = true → x .b = immValue g.ty g.fmt)

/-- The state in which a firing f of node k has issued (R141). -/
def ElementOp.issued (c : ElementOp) (s : State) (p : PlaneId) (k : Nat) (n : Node) (g : GArgs) (f : Firing) : State :=
  issueFiring (s.admitted p n.place (cost (c.make g))) p k n c.dep
    ((c.ticks g).map fun t => (s.dieTime (placeDie n.place)).toNat + t) (s.cycle + (cost (c.make g)).lat) f

/-- The record of a fault of an element-wise firing (R426): element index, operands a, b and c. -/
def elementFault (v : View) (ops : List Operand) (cause : Nat) : Firing :=
  .fault (takeOne ops) { cause, iter := some [v.e], opv := some ([Operand.a, .b, .c].map (v.recorded ops)) }

/-- An integer operation on values of the type (R151), which raises nothing. -/
def int1 (f : Int → Int) (v : View) (x : Operand → W64) : W64 × FpFlags := (tyWrap v.g.ty (f (tyVal v.g.ty (x .a))), 0#5)
def int2 (f : Int → Int → Int) (v : View) (x : Operand → W64) : W64 × FpFlags :=
  (tyWrap v.g.ty (f (tyVal v.g.ty (x .a)) (tyVal v.g.ty (x .b))), 0#5)
/-- R151's division by zero: the fault where idz is enabled. -/
def divFault (v : View) (x : Operand → W64) : Option Nat :=
  if tyVal v.g.ty (x .b) = 0 ∧ v.trapen.getLsbD 6 = true then some 0x28 else none
/-- A bit operation: on pred only bit 0 acts (R153). -/
def bits2 (f : W64 → W64 → W64) (v : View) (x : Operand → W64) : W64 × FpFlags :=
  (if v.g.ty = .pred then f (x .a) (x .b) &&& 1#64 else tyWrap v.g.ty (f (x .a) (x .b)).toNat, 0#5)
/-- Clamping to the limits of the type (R114). -/
def saturate (v : View) (y : Int) : W64 := tyWrap v.g.ty (min (max y (tyLo v.g.ty)) (tyHi v.g.ty))

/-- The integer instructions of R150 and R151. -/
def integerOps : List ElementOp :=
  [{ make := .add, ops := [.a, .b], immB := true, value := int2 (· + ·) },
   { make := .sub, ops := [.a, .b], immB := true, value := int2 (· - ·) },
   { make := .mul, ops := [.a, .b], immB := true, value := int2 (· * ·) },
   { make := .mulhi, ops := [.a, .b], immB := true,
     value := fun v => int2 (fun a b => Int.fdiv (a * b) (2 ^ tyWidth v.g.ty : Nat)) v },
   { make := .mad, ops := [.a, .b, .c], immB := true,
     value := fun v x => int2 (fun a b => a * b + tyVal v.g.ty (x .c)) v x },
   { make := .div, ops := [.a, .b], immB := true, value := int2 fun a b => if b = 0 then -1 else Int.tdiv a b, fault := divFault },
   { make := .rem, ops := [.a, .b], immB := true, value := int2 fun a b => if b = 0 then a else a - b * Int.tdiv a b,
     fault := divFault },
   { make := .neg, ops := [.a], immB := false, value := int1 fun a => -a },
   { make := .abs, ops := [.a], immB := false, value := int1 fun a => a.natAbs },
   { make := .min, ops := [.a, .b], immB := true, value := int2 fun a b => if a ≤ b then a else b },
   { make := .max, ops := [.a, .b], immB := true, value := int2 fun a b => if a ≥ b then a else b },
   { make := .addsat, ops := [.a, .b], immB := true,
     value := fun v x => (saturate v (tyVal v.g.ty (x .a) + tyVal v.g.ty (x .b)), 0#5) },
   { make := .subsat, ops := [.a, .b], immB := true,
     value := fun v x => (saturate v (tyVal v.g.ty (x .a) - tyVal v.g.ty (x .b)), 0#5) }]

/-- The bit operations of R153 and R154, CMP and SEL (R155, R156). -/
def bitOps : List ElementOp :=
  [{ make := .and, ops := [.a, .b], immB := true, value := bits2 (· &&& ·) },
   { make := .or, ops := [.a, .b], immB := true, value := bits2 (· ||| ·) },
   { make := .xor, ops := [.a, .b], immB := true, value := bits2 (· ^^^ ·) },
   { make := .andn, ops := [.a, .b], immB := true, value := bits2 fun a b => a &&& ~~~b },
   { make := .not, ops := [.a], immB := false, value := fun v x => bits2 (fun a _ => ~~~a) v x },
   { make := .shl, ops := [.a, .b], immB := true,
     value := fun v x => (tyWrap v.g.ty (tyNat v.g.ty (x .a) * 2 ^ ((x .b).toNat % tyWidth v.g.ty) : Nat), 0#5) },
   { make := .shr, ops := [.a, .b], immB := true,
     value := fun v x => (tyWrap v.g.ty (tyNat v.g.ty (x .a) / 2 ^ ((x .b).toNat % tyWidth v.g.ty) : Nat), 0#5) },
   { make := .sar, ops := [.a, .b], immB := true,
     value := fun v x => (tyWrap v.g.ty (Int.fdiv (tyVal v.g.ty (x .a)) (2 ^ ((x .b).toNat % tyWidth v.g.ty) : Nat)), 0#5) },
   { make := .rol, ops := [.a, .b], immB := true,
     value := fun v x =>
       let n := (x .b).toNat % tyWidth v.g.ty
       (tyWrap v.g.ty (tyNat v.g.ty (x .a) * 2 ^ n : Nat) ||| tyWrap v.g.ty (tyNat v.g.ty (x .a) / 2 ^ (tyWidth v.g.ty - n) : Nat), 0#5) },
   { make := .clz, ops := [.a], immB := false, value := fun v x => (bitClz v.g.ty (x .a), 0#5) },
   { make := .ctz, ops := [.a], immB := false, value := fun v x => (bitCtz v.g.ty (x .a), 0#5) },
   { make := .popc, ops := [.a], immB := false, value := fun v x => (bitPopc v.g.ty (x .a), 0#5) },
   { make := .brev, ops := [.a], immB := false, value := fun v x => (bitBrev v.g.ty (x .a), 0#5) },
   { make := .bfx, ops := [.a, .b], immB := true, value := fun v x => (bitBfx v.g.ty (x .a) (x .b), 0#5) },
   { make := .bfi, ops := [.a, .b, .c], immB := true, value := fun v x => (bitBfi v.g.ty (x .a) (x .b) (x .c), 0#5) },
   { make := .cmp, ops := [.a, .b], immB := true,
     value := fun v x => (predWord (condHolds v.g.mode.toNat (cmpVal v.g.ty (x .a)) (cmpVal v.g.ty (x .b))), 0#5) },
   { make := .sel, ops := [.a, .b, .p], immB := true,
     value := fun _ x => (if (x .p).getLsbD 0 then x .a else x .b, 0#5) }]

/-- A floating-point operation lane by lane in the format of the type (R118). -/
def flt1 (f : Fmt → FpEnv → Nat → Nat × FpFlags) (v : View) (x : Operand → W64) : W64 × FpFlags :=
  perLane v.g.ty fun k => f (fmtOf v.g.ty) v.env (lane v.g.ty (x .a) k)
def flt2 (f : Fmt → FpEnv → Nat → Nat → Nat × FpFlags) (v : View) (x : Operand → W64) : W64 × FpFlags :=
  perLane v.g.ty fun k => f (fmtOf v.g.ty) v.env (lane v.g.ty (x .a) k) (lane v.g.ty (x .b) k)
def flt3 (f : Fmt → FpEnv → Nat → Nat → Nat → Nat × FpFlags) (v : View) (x : Operand → W64) : W64 × FpFlags :=
  perLane v.g.ty fun k =>
    f (fmtOf v.g.ty) v.env (lane v.g.ty (x .a) k) (lane v.g.ty (x .b) k) (lane v.g.ty (x .c) k)

/-- The floating-point instructions of R157 to R162, and FMIN1 (R174). -/
def floatOps : List ElementOp :=
  [{ make := .fadd, ops := [.a, .b], immB := true, value := flt2 fpAdd },
   { make := .fsub, ops := [.a, .b], immB := true, value := flt2 fpSub },
   { make := .fmul, ops := [.a, .b], immB := true, value := flt2 fpMul },
   { make := .fma, ops := [.a, .b, .c], immB := true, value := flt3 (fpFused false false) },
   { make := .fms, ops := [.a, .b, .c], immB := true, value := flt3 (fpFused false true) },
   { make := .fnma, ops := [.a, .b, .c], immB := true, value := flt3 (fpFused true false) },
   { make := .fmin, ops := [.a, .b], immB := true, value := fun v => flt2 (fpMinMax (decide (v.info.version ≤ 1)) false false) v },
   { make := .fmax, ops := [.a, .b], immB := true, value := fun v => flt2 (fpMinMax (decide (v.info.version ≤ 1)) true false) v },
   { make := .fminm, ops := [.a, .b], immB := true, value := flt2 (fpMinMax false false true) },
   { make := .fmaxm, ops := [.a, .b], immB := true, value := flt2 (fpMinMax false true true) },
   { make := .fabs, ops := [.a], immB := false,
     value := fun v x => perLane v.g.ty fun k => (fpAbs (fmtOf v.g.ty) (lane v.g.ty (x .a) k), 0#5) },
   { make := .fneg, ops := [.a], immB := false,
     value := fun v x => perLane v.g.ty fun k => (fpNeg (fmtOf v.g.ty) (lane v.g.ty (x .a) k), 0#5) },
   { make := .fcpys, ops := [.a, .b], immB := true,
     value := fun v x => perLane v.g.ty fun k =>
       (fpCopySign (fmtOf v.g.ty) (lane v.g.ty (x .a) k) (lane v.g.ty (x .b) k), 0#5) },
   { make := .fcmp, ops := [.a, .b], immB := true,
     value := fun v x =>
       let r := fpCmp (fmtOf v.g.ty) v.env v.g.mode.toNat (lane v.g.ty (x .a) 0) (lane v.g.ty (x .b) 0)
       (predWord r.1, r.2) },
   { make := .fclass, ops := [.a], immB := false,
     value := fun v x => (1#64 <<< fpClass (fmtOf v.g.ty) (lane v.g.ty (x .a) 0), 0#5) },
   { make := .frnd, ops := [.a], immB := false, value := fun v => flt1 (fun f e => fpRnd f e (v.g.opt.getLsbD 0)) v },
   { make := .fscale, ops := [.a, .b], immB := false,
     value := fun v x => perLane v.g.ty fun _ => fpScale (fmtOf v.g.ty) v.env (lane v.g.ty (x .a) 0) (tyVal .i32 (x .b)) },
   { make := .fmin1, ops := [.a, .b], immB := true, value := flt2 (fpMinMax true false false), dep := true }]

/-- The special functions of R163 and R164. -/
def specialOps : List ElementOp :=
  [{ make := .rcp, ops := [.a], immB := false, value := flt1 fpRcp },
   { make := .rsq, ops := [.a], immB := false, value := flt1 fpRsq },
   { make := .sqrt, ops := [.a], immB := false, value := flt1 fpSqrt },
   { make := .fdiv, ops := [.a, .b], immB := true, value := flt2 fpDiv },
   { make := .exp2, ops := [.a], immB := false, value := flt1 fpExp2 },
   { make := .log2, ops := [.a], immB := false, value := flt1 fpLog2 },
   { make := .sinpi, ops := [.a], immB := false, value := flt1 fpSinpi },
   { make := .cospi, ops := [.a], immB := false, value := flt1 fpCospi },
   { make := .tanh, ops := [.a], immB := false, value := flt1 fpTanh },
   { make := .sigm, ops := [.a], immB := false, value := flt1 fpSigm }]

/-- PACK, UNPK, MOV, CONST, CONSTH, SXT and WAITC (R168 to R173, R176). -/
def laneOps : List ElementOp :=
  [{ make := .pack, ops := [.a, .b], immB := true,
     value := fun v x => (if v.g.ty = .i64 ∨ v.g.ty = .n64 ∨ v.g.ty = .f64 ∨ v.g.ty = .addr
       then ((x .b).setWidth 32 ++ (x .a).setWidth 32 : BitVec 64)
       else ((x .b).setWidth 16 ++ (x .a).setWidth 16 : BitVec 32).setWidth 64, 0#5) },
   { make := .unpk, ops := [.a], immB := false,
     value := fun v x =>
       let w := match v.g.ty with | .bf16x2 | .f16x2 => 16 | .e4m3x4 | .e5m2x4 => 8 | _ => 32
       (BitVec.ofNat 64 ((x .a).toNat / 2 ^ (w * v.g.opt.toNat) % 2 ^ w), 0#5) },
   { make := .mov, ops := [.a], immB := false, value := fun _ x => (x .a, 0#5) },
   { make := .const, ops := [.a], immB := false, value := fun v _ => (immValue v.g.ty v.g.fmt, 0#5) },
   { make := .consth, ops := [.a], immB := false,
     value := fun v x => ((v.g.fmt ++ (x .a).setWidth 6 : BitVec 32).setWidth 64, 0#5) },
   { make := .sxt, ops := [.a, .b], immB := true,
     value := fun v x =>
       let k := (x .b).toNat % tyWidth v.g.ty
       let y := tyNat v.g.ty (x .a) % 2 ^ (k + 1)
       (tyWrap v.g.ty (if y.testBit k then (y : Int) - (2 ^ (k + 1) : Nat) else y), 0#5) },
   { make := .waitc, ops := [.a], immB := false, value := fun _ x => (x .a, 0#5), dep := true,
     ticks := fun g => some (g.bits 19 0) }]

/-- The rules of R166 by source and destination type: value and flags of CVT on a, and on b where it is consumed. -/
def convert (v : View) (src dst : Ty) (x : Operand → W64) : W64 × FpFlags :=
  let int (t : Ty) : Bool := t = .i32 ∨ t = .n32 ∨ t = .i64 ∨ t = .n64 ∨ t = .addr
  let half (t : Ty) : Bool := t = .bf16x2 ∨ t = .f16x2
  let byte (t : Ty) : Bool := t = .e4m3x4 ∨ t = .e5m2x4
  let sel := v.g.opt.toNat
  let narrow (k y : Nat) : Nat × FpFlags :=
    fpConvert (fmtOf src) (fmtOf dst) v.env true (srDraw v.seed v.info.id v.slot k v.e) y
  let exact (y : Nat) : Nat × FpFlags := fpConvert (fmtOf src) (fmtOf dst) v.env false 0 y
  if int src ∧ int dst then (tyWrap dst (if src = .i32 then tyVal .i32 (x .a) else tyNat src (x .a)), 0#5)
  else if int src then perLane dst fun _ => intToFp (fmtOf dst) v.env (tyVal src (x .a))
  else if int dst then fpToInt (fmtOf src) v.env dst (lane src (x .a) 0)
  else if half src ∧ half dst ∨ byte src ∧ byte dst then perLane dst fun k => narrow k (lane src (x .a) k)
  else if src = .f32 ∧ half dst then perLane dst fun k => narrow k (lane .f32 (if k = 0 then x .a else x .b) 0)
  else if half src ∧ byte dst then perLane dst fun k => narrow k (if k < 2 then lane src (x .a) k else lane src (x .b) (k - 2))
  else if byte src ∧ half dst then perLane dst fun k => exact (lane src (x .a) (2 * sel + k))
  else if dst = .f32 ∧ (half src ∨ byte src) then perLane dst fun _ => exact (lane src (x .a) sel)
  else perLane dst fun _ => exact (lane src (x .a) 0)

/-- CVT from a source type: b is consumed where the destination has lanes for it (R166). -/
def cvtOp (src dst : Ty) : ElementOp :=
  { make := .cvt
    ops := if (src = .f32 ∧ (dst = .bf16x2 ∨ dst = .f16x2)) ∨ ((src = .bf16x2 ∨ src = .f16x2) ∧ (dst = .e4m3x4 ∨ dst = .e5m2x4))
      then [.a, .b] else [.a]
    immB := false
    value := fun v x => convert v src dst x }

/-- An element-wise firing on data: in a granted and admitted cycle it issues, and will complete with the value on both
targets unless a flag that it raises traps (R36, R38, R141, R147). -/
def ElementOp.firesOnData (c : ElementOp) (g : GArgs) : Prop :=
  ∀ (s : State) (p : PlaneId) (k : Nat) (pl : Plane) (n : Node) (x : Operand → W64),
    NodeTurn s p k pl n (cost (c.make g)) → c.reads n g x →
    let v := nodeView s pl k n g
    let r := c.value v x
    c.fault v x = none → flagFault r.2 (n.info.policy.getLsbD 4) v.trapen = none →
    pl.canEmit n [(0, .data r.1), (1, .data r.1)] = true →
    exec (c.make g) s = .next (c.issued s p k n g (.fires
      { takes := takeOne (c.takes g), emits := [(0, .data r.1), (1, .data r.1)], flags := r.2, data := 1, counted := true }))

/-- A context traps no floating-point flag, or a node's block raises none as a trap (R131, R147). -/
def noFlagTraps (s : State) (pl : Plane) (policy : BitVec 8) : Prop :=
  policy.getLsbD 4 = false ∨ (s.ctx pl.ctx).trapen &&& 0x1F#8 = 0#8

/-- A floating-point firing completes its issue on any data (R36, R141, R147): where no flag traps and both targets have room for a data
token, it issues with the value and the flags of its rule, whatever they are. -/
def ElementOp.completes (c : ElementOp) (g : GArgs) : Prop :=
  ∀ (s : State) (p : PlaneId) (k : Nat) (pl : Plane) (n : Node) (x : Operand → W64),
    NodeTurn s p k pl n (cost (c.make g)) → c.reads n g x → noFlagTraps s pl n.info.policy →
    pl.canEmit n [(0, .data 0#64), (1, .data 0#64)] = true →
    let r := c.value (nodeView s pl k n g) x
    exec (c.make g) s = .next (c.issued s p k n g (.fires
      { takes := takeOne (c.takes g), emits := [(0, .data r.1), (1, .data r.1)], flags := r.2, data := 1, counted := true }))

/-- The same firing where the operation faults, or a flag of it traps: it issues, will fault, and takes nothing. -/
def ElementOp.faultsOnData (c : ElementOp) (g : GArgs) : Prop :=
  ∀ (s : State) (p : PlaneId) (k : Nat) (pl : Plane) (n : Node) (x : Operand → W64) (cause : Nat),
    NodeTurn s p k pl n (cost (c.make g)) → c.reads n g x →
    let v := nodeView s pl k n g
    (c.fault v x = some cause ∨ c.fault v x = none ∧ flagFault (c.value v x).2 (n.info.policy.getLsbD 4) v.trapen = some cause) →
    exec (c.make g) s = .next (c.issued s p k n g (elementFault v (c.takes g) cause))

/-- Markers at an element-wise node (R38): heads that are all markers are joined and leave as one on both targets; heads
of which only some are markers, or markers of level 4 or more with different rounds, fault with 0x51. -/
def ElementOp.joinsMarkers (c : ElementOp) (g : GArgs) : Prop :=
  ∀ (s : State) (p : PlaneId) (k : Nat) (pl : Plane) (n : Node) (hs : List Token),
    NodeTurn s p k pl n (cost (c.make g)) → (c.takes g).map (fun o => (n.queue o).head) = hs.map some →
    (∀ m, hs.all Token.isMarker = true → joinMarkers hs = some m → pl.canEmit n [(0, m), (1, m)] = true →
      exec (c.make g) s = .next (c.issued s p k n g (.fires { takes := takeOne (c.takes g), emits := [(0, m), (1, m)] }))) ∧
    (hs.any Token.isMarker = true → (hs.all Token.isMarker = false ∨ joinMarkers hs = none) →
      exec (c.make g) s = .next (c.issued s p k n g (elementFault (nodeView s pl k n g) (c.takes g) 0x51)))

/-- Poison at an element-wise node (R38, R39): the first poison in operand order leaves on both targets, or the firing
faults with 0x30 where the trap is enabled. -/
def ElementOp.passesPoison (c : ElementOp) (g : GArgs) : Prop :=
  ∀ (s : State) (p : PlaneId) (k : Nat) (pl : Plane) (n : Node) (hs : List Token) (q : Token),
    NodeTurn s p k pl n (cost (c.make g)) → (c.takes g).map (fun o => (n.queue o).head) = hs.map some →
    hs.any Token.isMarker = false → hs.find? Token.isPoison = some q →
    let v := nodeView s pl k n g
    (v.trapen.getLsbD 7 = true → exec (c.make g) s = .next (c.issued s p k n g (elementFault v (c.takes g) 0x30))) ∧
    (v.trapen.getLsbD 7 = false → pl.canEmit n [(0, q), (1, q)] = true →
      exec (c.make g) s = .next (c.issued s p k n g (.fires
        { takes := takeOne (c.takes g), emits := [(0, q), (1, q)],
          data := if (n.a.head.map Token.isData).getD false then 1 else 0, counted := true })))

/-- Every element-wise instruction with one meaning of its operands. -/
def plainOps : List ElementOp := integerOps ++ bitOps ++ floatOps ++ specialOps ++ laneOps

/-- A property of every element-wise instruction, CVT among them. -/
def elementTables (P : ElementOp → GArgs → Prop) : Prop :=
  (∀ c ∈ plainOps, ∀ g, P c g) ∧ 
  ∀ (src dst : Ty) (g : GArgs), g.cvtSrc = some src → g.ty = dst → (cvtRule src dst).isSome = true → P (cvtOp src dst) g

end Sys2Proof.Claims
end

