-- ==== Sys2Proof/Claims/Tasks.lean ====
section
/-! DEFINITION. What the task-form instructions do in their turn (R149, R219 to R240), and how an activation goes on. -/

namespace Sys2Proof.Claims

open Sys2Proof.Machine

/-! ## Registers and records -/

/-- The number of the register that a field names in the present repetition: bit 0 of the step mask raises td, bit 1 ta, bit 2
tb (R233). -/
def fieldReg (x : TaskSite) (f : BitVec 4) (bit : Nat) : Nat :=
  match x.a.rep with
  | some r => if r.mask.getLsbD bit then f.toNat + r.k * r.stride else f.toNat
  | none => f.toNat

/-- The register that a field names. -/
def named (x : TaskSite) (f : BitVec 4) (bit : Nat) : TaskReg := (x.t.regs[fieldReg x f bit]?).getD {}
def atD (x : TaskSite) (f : BitVec 4) : TaskReg := named x f 0
def atA (x : TaskSite) (f : BitVec 4) : TaskReg := named x f 1
def atB (x : TaskSite) (f : BitVec 4) : TaskReg := named x f 2

/-- A register in a trap record: poison in the form of R426 (R236). -/
def shown (r : TaskReg) : W64 := if r.tag.isSome then r.v.setWidth 64 ||| (1#64 <<< 63) else r.v.setWidth 64

/-- The bound channel as R236 numbers it: 0 to 3 for c0 to c3, 4 to 7 for y0 to y3. -/
def boundChannel (x : TaskSite) : Nat := if x.a.chan < x.t.inputs then x.a.chan else 4 + (x.a.chan - x.t.inputs)

/-- The record of a fault of a task instruction (R236): the half, the repetition, the count, the bound channel. -/
def taskRecord (x : TaskSite) (cause : Nat) (ops : List W64) : FaultInfo :=
  { cause, iter := some [x.a.pc % 2, match x.a.rep with | some r => r.k | none => 0, x.a.count, boundChannel x], opv := some ops }

/-- The state in which an instruction has issued in its cycle with a number of issue cycles. -/
def issuedTask (s : State) (x : TaskSite) (issue lat : Nat) : State := s.admittedTask x ⟨issue, lat, 5, false⟩

/-- A task instruction faults: once acknowledged it executes anew, and is charged as an execution of its own. -/
def faultsTask (t : State) (x : TaskSite) (i : FaultInfo) : State :=
  (t.chargeTask x.p x.k false).detectFault x.p (some (.pe x.k)) i

/-- A task instruction that has issued waits for its port, its walk or its peer: it has been charged once (R225). -/
def waitsTask (t : State) (x : TaskSite) : State := t.chargeTask x.p x.k true

/-- Poison traps, as this instruction sees the enable (R39, R427). -/
def taskTraps (x : TaskSite) : Prop := (maskEnables x.t.grant (x.s.ctx x.pl.ctx).trapen).getLsbD 7 = true

/-! ## The shared operations (R149, R220, R232) -/

/-- Operand b of a shared operation. -/
inductive BField where
  | reg (b : BitVec 4)
  | imm (i : BitVec 12)

/-- One shared operation: its two forms with sub-field bits 3 (n) and 2:0 (m), issue cycles and latency (R142, R225), whether
it reads the prior td, whether it reads operand a alone (R150, R153), its value and flags, and a fault of its own. -/
structure SharedOp where
  reg : BitVec 4 → BitVec 4 → BitVec 4 → BitVec 1 → BitVec 3 → Instr
  imm : BitVec 4 → BitVec 4 → BitVec 12 → BitVec 1 → BitVec 3 → Instr
  issue : Nat := 1
  lat : Nat := 1
  third : Bool := false
  unary : Bool := false
  zeroFaults : Bool := false
  value : TaskSite → BitVec 1 → BitVec 3 → W64 → W64 → W64 → W64 × FpFlags

def SharedOp.make (c : SharedOp) (d a : BitVec 4) (b : BField) (n : BitVec 1) (m : BitVec 3) : Instr :=
  match b with
  | .reg b => c.reg d a b n m
  | .imm i => c.imm d a i n m

/-- The value of operand b, and the register that it is read from. -/
def BField.value (x : TaskSite) : BField → W64
  | .reg b => (atB x b).v.setWidth 64
  | .imm i => taskImm i
def BField.regs (x : TaskSite) : BField → List TaskReg
  | .reg b => [atB x b]
  | .imm _ => []

/-- The type of the integer side: n32 where bit 3 of the sub-field is 1 (R73). -/
def side (n : BitVec 1) : Ty := if n = 1#1 then .n32 else .i32

/-- Operations on integer values, on words, and on f32. -/
def onInts (f : Int → Int → Int → Int) (_ : TaskSite) (n : BitVec 1) (_ : BitVec 3) (a b c : W64) : W64 × FpFlags :=
  (tyWrap (side n) (f (tyVal (side n) a) (tyVal (side n) b) (tyVal (side n) c)), 0#5)
def onWords (f : Ty → W64 → W64 → W64 → W64) (_ : TaskSite) (n : BitVec 1) (_ : BitVec 3) (a b c : W64) : W64 × FpFlags :=
  (f (side n) a b c, 0#5)
def clampTo (t : Ty) (y : Int) : Int := min (max y (tyLo t)) (tyHi t)
def onSides (f : Ty → Int → Int → Int) (_ : TaskSite) (n : BitVec 1) (_ : BitVec 3) (a b _c : W64) : W64 × FpFlags :=
  (tyWrap (side n) (f (side n) (tyVal (side n) a) (tyVal (side n) b)), 0#5)
def onFloats (f : TaskSite → FpEnv → Nat → Nat → Nat → Nat × FpFlags) (x : TaskSite) (_ : BitVec 1) (m : BitVec 3) (a b c : W64) :
    W64 × FpFlags :=
  let r := f x (.ofPolicy x.t.info.policy m.toNat) a.toNat b.toNat c.toNat
  (BitVec.ofNat 64 r.1, r.2)

/-- The integer operations (R151). -/
def sharedIntegers : List SharedOp :=
  [{ reg := fun d a b n _ => .taskAddReg d a b n, imm := fun d a i n _ => .taskAddImm d a n i, value := onInts fun a b _ => a + b },
   { reg := fun d a b n _ => .taskSubReg d a b n, imm := fun d a i n _ => .taskSubImm d a n i, value := onInts fun a b _ => a - b },
   { reg := fun d a b n _ => .taskMulReg d a b n, imm := fun d a i n _ => .taskMulImm d a n i, lat := 3,
     value := onInts fun a b _ => a * b },
   { reg := fun d a b n _ => .taskMulhiReg d a b n, imm := fun d a i n _ => .taskMulhiImm d a n i, lat := 3,
     value := onInts fun a b _ => Int.fdiv (a * b) (2 ^ 32) },
   { reg := fun d a b n _ => .taskMadReg d a b n, imm := fun d a i n _ => .taskMadImm d a n i, lat := 3, third := true,
     value := onInts fun a b c => a * b + c },
   { reg := fun d a b n _ => .taskDivReg d a b n, imm := fun d a i n _ => .taskDivImm d a n i, issue := 16, lat := 18,
     zeroFaults := true, value := onInts fun a b _ => if b = 0 then -1 else Int.tdiv a b },
   { reg := fun d a b n _ => .taskRemReg d a b n, imm := fun d a i n _ => .taskRemImm d a n i, issue := 16, lat := 18,
     zeroFaults := true, value := onInts fun a b _ => if b = 0 then a else a - b * Int.tdiv a b },
   { reg := fun d a b n _ => .taskNegReg d a b n, imm := fun d a i n _ => .taskNegImm d a n i, unary := true, value := onInts fun a _ _ => -a },
   { reg := fun d a b n _ => .taskAbsReg d a b n, imm := fun d a i n _ => .taskAbsImm d a n i, unary := true, value := onInts fun a _ _ => a.natAbs },
   { reg := fun d a b n _ => .taskMinReg d a b n, imm := fun d a i n _ => .taskMinImm d a n i,
     value := onInts fun a b _ => if a ≤ b then a else b },
   { reg := fun d a b n _ => .taskMaxReg d a b n, imm := fun d a i n _ => .taskMaxImm d a n i,
     value := onInts fun a b _ => if a ≥ b then a else b },
   { reg := fun d a b n _ => .taskAddsatReg d a b n, imm := fun d a i n _ => .taskAddsatImm d a n i,
     value := onSides fun t a b => clampTo t (a + b) },
   { reg := fun d a b n _ => .taskSubsatReg d a b n, imm := fun d a i n _ => .taskSubsatImm d a n i,
     value := onSides fun t a b => clampTo t (a - b) }]

/-- The bit operations, CMP and SEL (R153 to R156). -/
def sharedBits : List SharedOp :=
  [{ reg := fun d a b n _ => .taskAndReg d a b n, imm := fun d a i n _ => .taskAndImm d a n i,
     value := onWords fun t a b _ => tyWrap t (a &&& b).toNat },
   { reg := fun d a b n _ => .taskOrReg d a b n, imm := fun d a i n _ => .taskOrImm d a n i,
     value := onWords fun t a b _ => tyWrap t (a ||| b).toNat },
   { reg := fun d a b n _ => .taskXorReg d a b n, imm := fun d a i n _ => .taskXorImm d a n i,
     value := onWords fun t a b _ => tyWrap t (a ^^^ b).toNat },
   { reg := fun d a b n _ => .taskAndnReg d a b n, imm := fun d a i n _ => .taskAndnImm d a n i,
     value := onWords fun t a b _ => tyWrap t (a &&& ~~~b).toNat },
   { reg := fun d a b n _ => .taskNotReg d a b n, imm := fun d a i n _ => .taskNotImm d a n i, unary := true,
     value := onWords fun t a _ _ => tyWrap t (~~~a).toNat },
   { reg := fun d a b n _ => .taskShlReg d a b n, imm := fun d a i n _ => .taskShlImm d a n i,
     value := onWords fun t a b _ => tyWrap t (tyNat t a * 2 ^ (b.toNat % 32) : Nat) },
   { reg := fun d a b n _ => .taskShrReg d a b n, imm := fun d a i n _ => .taskShrImm d a n i,
     value := onWords fun t a b _ => tyWrap t (tyNat t a / 2 ^ (b.toNat % 32) : Nat) },
   { reg := fun d a b n _ => .taskSarReg d a b n, imm := fun d a i n _ => .taskSarImm d a n i,
     value := onWords fun t a b _ => tyWrap t (Int.fdiv (tyVal t a) (2 ^ (b.toNat % 32) : Nat)) },
   { reg := fun d a b n _ => .taskRolReg d a b n, imm := fun d a i n _ => .taskRolImm d a n i,
     value := onWords fun t a b _ =>
       tyWrap t (tyNat t a * 2 ^ (b.toNat % 32) : Nat) ||| tyWrap t (tyNat t a / 2 ^ (32 - b.toNat % 32) : Nat) },
   { reg := fun d a b n _ => .taskClzReg d a b n, imm := fun d a i n _ => .taskClzImm d a n i, unary := true, value := onWords fun t a _ _ => bitClz t a },
   { reg := fun d a b n _ => .taskCtzReg d a b n, imm := fun d a i n _ => .taskCtzImm d a n i, unary := true, value := onWords fun t a _ _ => bitCtz t a },
   { reg := fun d a b n _ => .taskPopcReg d a b n, imm := fun d a i n _ => .taskPopcImm d a n i, unary := true, value := onWords fun t a _ _ => bitPopc t a },
   { reg := fun d a b n _ => .taskBrevReg d a b n, imm := fun d a i n _ => .taskBrevImm d a n i, unary := true, value := onWords fun t a _ _ => bitBrev t a },
   { reg := fun d a b n _ => .taskBfxReg d a b n, imm := fun d a i n _ => .taskBfxImm d a n i, value := onWords fun t a b _ => bitBfx t a b },
   { reg := fun d a b n _ => .taskBfiReg d a b n, imm := fun d a i n _ => .taskBfiImm d a n i, third := true, value := onWords bitBfi },
   { reg := fun d a b n c => .taskCmpReg d a b n c, imm := fun d a i n c => .taskCmpImm d a n c i,
     value := fun _ n c a b _ => (predWord (condHolds c.toNat (tyVal (side n) a) (tyVal (side n) b)), 0#5) },
   { reg := fun d a b n _ => .taskSelReg d a b n, imm := fun d a i n _ => .taskSelImm d a n i, third := true,
     value := fun _ _ _ a b c => (if c.getLsbD 0 then a else b, 0#5) }]

/-- The f32 operations (R158, R159, R161). -/
def sharedFloats : List SharedOp :=
  [{ reg := fun d a b _ m => .taskFaddReg d a b m, imm := fun d a i _ m => .taskFaddImm d a m i, lat := 4,
     value := onFloats fun _ e a b _ => fpAdd .f32 e a b },
   { reg := fun d a b _ m => .taskFsubReg d a b m, imm := fun d a i _ m => .taskFsubImm d a m i, lat := 4,
     value := onFloats fun _ e a b _ => fpSub .f32 e a b },
   { reg := fun d a b _ m => .taskFmulReg d a b m, imm := fun d a i _ m => .taskFmulImm d a m i, lat := 4,
     value := onFloats fun _ e a b _ => fpMul .f32 e a b },
   { reg := fun d a b _ m => .taskFmaReg d a b m, imm := fun d a i _ m => .taskFmaImm d a m i, lat := 4, third := true,
     value := onFloats fun _ e a b c => fpFused false false .f32 e a b c },
   { reg := fun d a b _ _ => .taskFminReg d a b, imm := fun d a i _ _ => .taskFminImm d a i, lat := 2,
     value := fun x n _ => onFloats (fun x e a b _ => fpMinMax (decide (x.t.info.version ≤ 1)) false false .f32 e a b) x n 0#3 },
   { reg := fun d a b _ _ => .taskFmaxReg d a b, imm := fun d a i _ _ => .taskFmaxImm d a i, lat := 2,
     value := fun x n _ => onFloats (fun x e a b _ => fpMinMax (decide (x.t.info.version ≤ 1)) true false .f32 e a b) x n 0#3 },
   { reg := fun d a b _ c => .taskFcmpReg d a b c, imm := fun d a i _ c => .taskFcmpImm d a c i, lat := 2,
     value := fun x _ c a b _ =>
       let r := fpCmp .f32 (.ofPolicy x.t.info.policy c.toNat) c.toNat a.toNat b.toNat
       (predWord r.1, r.2) }]

/-- The values and registers that a shared operation works on. -/
def SharedOp.result (c : SharedOp) (x : TaskSite) (d a : BitVec 4) (b : BField) (n : BitVec 1) (m : BitVec 3) : W64 × FpFlags :=
  c.value x n m ((atA x a).v.setWidth 64) (b.value x) ((atD x d).v.setWidth 64)
def SharedOp.regsB (c : SharedOp) (x : TaskSite) (b : BField) : List TaskReg := if c.unary then [] else b.regs x
def SharedOp.readsOf (c : SharedOp) (x : TaskSite) (d a : BitVec 4) (b : BField) : List TaskReg :=
  atA x a :: c.regsB x b ++ if c.third then [atD x d] else []

/-- The divisor is zero and its trap is on (R115). -/
def SharedOp.traps (c : SharedOp) (x : TaskSite) (b : BField) (n : BitVec 1) : Prop :=
  c.zeroFaults = true ∧ tyVal (side n) (b.value x) = 0 ∧ (maskEnables x.t.grant (x.s.ctx x.pl.ctx).trapen).getLsbD 6 = true

/-- The trap that the flags of a result take (R147). -/
def flagTrap (x : TaskSite) (f : FpFlags) : Option Nat :=
  flagFault f (x.t.info.policy.getLsbD 4) (maskEnables x.t.grant (x.s.ctx x.pl.ctx).trapen)

/-- In its turn a shared operation writes td with its value and the tag of the first tagged register that it read, and raises
its flags; a zero divisor or a flag whose trap is on faults instead. -/
def SharedOp.executes (c : SharedOp) : Prop :=
  ∀ (s : State) (x : TaskSite) (d a : BitVec 4) (b : BField) (n : BitVec 1) (m : BitVec 3), TaskTurn s x ⟨c.issue, c.lat, 5, false⟩ →
    let t := issuedTask s x c.issue c.lat
    let r := c.result x d a b n m
    let ops := [shown (atA x a), ((c.regsB x b).head?.map shown).getD 0#64, shown (atD x d)]
    (¬ c.traps x b n → flagTrap x r.2 = none →
      exec (c.make d a b n m) s = .next (t.commitTask x.p x.k x.a
        { writes := [(fieldReg x d 0, { v := r.1.setWidth 32, tag := (c.readsOf x d a b).findSome? (·.tag) })], flags := r.2 })) ∧
    (c.traps x b n → exec (c.make d a b n m) s = .next (faultsTask t x (taskRecord x 0x28 ops))) ∧
    (∀ cause, ¬ c.traps x b n → flagTrap x r.2 = some cause →
      exec (c.make d a b n m) s = .next (faultsTask t x (taskRecord x cause ops)))

/-- A shared operation that faults on no divisor completes in its turn on any operands where no flag traps (R36, R147, R225). -/
def SharedOp.completes (c : SharedOp) : Prop :=
  ∀ (s : State) (x : TaskSite) (d a : BitVec 4) (b : BField) (n : BitVec 1) (m : BitVec 3), TaskTurn s x ⟨c.issue, c.lat, 5, false⟩ →
    noFlagTraps s x.pl x.t.info.policy →
    let r := c.result x d a b n m
    exec (c.make d a b n m) s = .next ((issuedTask s x c.issue c.lat).commitTask x.p x.k x.a
      { writes := [(fieldReg x d 0, { v := r.1.setWidth 32, tag := (c.readsOf x d a b).findSome? (·.tag) })], flags := r.2 })

/-- So does CVT: its register takes the converted value and operand a's tag (R230). -/
def convertCompletes : Prop :=
  ∀ (s : State) (x : TaskSite) (d a : BitVec 4) (v n : BitVec 1) (m : BitVec 3), TaskTurn s x ⟨1, 3, 5, false⟩ →
    noFlagTraps s x.pl x.t.info.policy →
    let e := FpEnv.ofPolicy x.t.info.policy m.toNat
    let u := (atA x a).v.setWidth 64
    let r : W64 × FpFlags :=
      if v = 0#1 then (BitVec.ofNat 64 (intToFp .f32 e (tyVal (side n) u)).1, (intToFp .f32 e (tyVal (side n) u)).2)
      else fpToInt .f32 e (side n) u.toNat
    exec (.taskCvt d a v n m) s = .next ((issuedTask s x 1 3).commitTask x.p x.k x.a
      { writes := [(fieldReg x d 0, { v := r.1.setWidth 32, tag := (atA x a).tag })], flags := r.2 })

/-- CVT converts between an integer and f32 (R230). -/
def converts : Prop :=
  ∀ (s : State) (x : TaskSite) (d a : BitVec 4) (v n : BitVec 1) (m : BitVec 3), TaskTurn s x ⟨1, 3, 5, false⟩ →
    let t := issuedTask s x 1 3
    let e := FpEnv.ofPolicy x.t.info.policy m.toNat
    let u := (atA x a).v.setWidth 64
    let ops := [shown (atA x a), 0#64, shown (atD x d)]
    ∀ (y : W64) (f : FpFlags),
      (if v = 0#1 then y = BitVec.ofNat 64 (intToFp .f32 e (tyVal (side n) u)).1 ∧ f = (intToFp .f32 e (tyVal (side n) u)).2
       else y = (fpToInt .f32 e (side n) u.toNat).1 ∧ f = (fpToInt .f32 e (side n) u.toNat).2) →
      (flagTrap x f = none → exec (.taskCvt d a v n m) s = .next (t.commitTask x.p x.k x.a
        { writes := [(fieldReg x d 0, { v := y.setWidth 32, tag := (atA x a).tag })], flags := f })) ∧
      (∀ cause, flagTrap x f = some cause →
        exec (.taskCvt d a v n m) s = .next (faultsTask t x (taskRecord x cause ops)))

/-! ## Channels, control and the walker (R226, R231 to R233, R239, R240) -/

/-- A word with no tag. -/
def clean (v : W32) : TaskReg := { v }

/-- A marker's payload (R31). -/
def markerWord (l : BitVec 3) (r st : BitVec 8) : W32 := 0#8 ++ st ++ r ++ 0#5 ++ l

/-- The index of a branch's target: that of the next instruction plus the offset (R232). -/
def lands (x : TaskSite) (i : BitVec 13) (target : Nat) : Prop := (target : Int) = x.a.pc + 1 + i.toInt

/-- A staging row with one word written, and what a push of it sends (R240). -/
def staged (row : List TaskReg) (w : BitVec 5) (r : TaskReg) : List TaskReg := modifyAt row w.toNat fun _ => r
def pushed (row : List TaskReg) : Token :=
  match row.findSome? (·.tag) with
  | some q => .poison q
  | none => .beat (row.map (·.v))

/-- What EMITA and EMITB send: the row where push is 1, then the end-of-tensor marker where eot is 1; that marker's round
field is open (R189). -/
def emitted (x : TaskSite) (k : BitVec 2) (row : List TaskReg) (push eot : BitVec 1) : List (Nat × Token) :=
  (if push = 1#1 then [(k.toNat, pushed row)] else []) ++
  if eot = 1#1 then [(k.toNat, .marker 3#3 (Config.lowRound x.t.info.id (x.a.pc / 2) x.s.cycle) 0#8)] else []

/-- The header of an ISL line (R237), and the check of its count and flags (R239). -/
def header (lo hi : TaskReg) : W64 := hi.v ++ lo.v
def headerOk (count flags : Nat) : Prop := count ≤ (if flags % 2 = 1 then 12 else 20) ∧ flags < 4

/-- What a task instruction does in its turn. -/
inductive TaskDoes : Instr → TaskSite → TaskEffect → Prop
  | recvData {d : BitVec 4} {w : BitVec 1} {x : TaskSite} {y : W64} : x.trigger = .data y →
      TaskDoes (.taskRecv d w) x { writes := [(fieldReg x d 0, clean (if w = 1#1 then y.extractLsb' 32 32 else y.extractLsb' 0 32))] }
  | recvMarker {d : BitVec 4} {w : BitVec 1} {x : TaskSite} {l : BitVec 3} {r st : BitVec 8} : x.trigger = .marker l r st →
      TaskDoes (.taskRecv d w) x { writes := [(fieldReg x d 0, clean (if w = 1#1 then 0#32 else markerWord l r st))] }
  | recvPoison {d : BitVec 4} {w : BitVec 1} {x : TaskSite} {q : BitVec 8} : x.trigger = .poison q → ¬ taskTraps x →
      TaskDoes (.taskRecv d w) x
        { writes := [(fieldReg x d 0, { v := if w = 1#1 then 0#32 else q.setWidth 32, tag := some q })] }
  | peek {d : BitVec 4} {x : TaskSite} :
      TaskDoes (.taskPeek d) x
        { writes := [(fieldReg x d 0, clean (0#29 ++ BitVec.ofBool x.triggerWide ++ BitVec.ofBool x.trigger.isPoison ++
            BitVec.ofBool x.trigger.isMarker))] }
  | send {k : BitVec 2} {a b : BitVec 4} {x : TaskSite} : (atA x a).tag = none →
      TaskDoes (.taskSend k a b 0#1) x { sends := [(k.toNat, .data ((atA x a).v.setWidth 64))] }
  | sendWide {k : BitVec 2} {a b : BitVec 4} {x : TaskSite} : (atA x a).tag = none → (atB x b).tag = none →
      TaskDoes (.taskSend k a b 1#1) x { sends := [(k.toNat, .data ((atB x b).v ++ (atA x a).v))] }
  | sendPoison {k : BitVec 2} {a b : BitVec 4} {w : BitVec 1} {x : TaskSite} {q : BitVec 8} :
      ((atA x a).tag = some q ∨ ((atA x a).tag = none ∧ w = 1#1 ∧ (atB x b).tag = some q)) →
      TaskDoes (.taskSend k a b w) x { sends := [(k.toNat, .poison q)] }
  | sendm {k : BitVec 2} {a : BitVec 4} {x : TaskSite} {l : BitVec 3} : (atA x a).tag = none → l = (atA x a).v.extractLsb' 0 3 →
      l ≠ 0#3 → l ≠ 5#3 →
      TaskDoes (.taskSendm k a) x
        { sends := [(k.toNat, .marker l ((atA x a).v.extractLsb' 8 8) ((atA x a).v.extractLsb' 16 8))] }
  | br {i : BitVec 13} {x : TaskSite} {target : Nat} : lands x i target → TaskDoes (.taskBr i) x { next := some target }
  | brcTaken {a : BitVec 4} {n : BitVec 1} {i : BitVec 13} {x : TaskSite} {target : Nat} : (atA x a).tag = none →
      ((atA x a).v = 0#32 ↔ n = 0#1) → lands x i target → TaskDoes (.taskBrc a n i) x { next := some target }
  | brcNot {a : BitVec 4} {n : BitVec 1} {i : BitVec 13} {x : TaskSite} : (atA x a).tag = none → ¬ ((atA x a).v = 0#32 ↔ n = 0#1) →
      TaskDoes (.taskBrc a n i) x {}
  | stop {x : TaskSite} : TaskDoes .taskEnd x { stop := true }
  | seti {d : BitVec 4} {v : BitVec 13} {x : TaskSite} :
      TaskDoes (.taskSeti d v) x { writes := [(fieldReg x d 0, clean (v.signExtend 32))] }
  | lui {d : BitVec 4} {u : BitVec 21} {x : TaskSite} :
      TaskDoes (.taskLui d u) x { writes := [(fieldReg x d 0, clean (u ++ (atD x d).v.extractLsb' 0 11))] }
  | trapAcked {a : BitVec 4} {c : BitVec 12} {x : TaskSite} : (x.t.grant = .retry 0x48 ∨ x.t.grant = .mask 0x48) →
      TaskDoes (.taskTrap a c) x {}
  | repNone {m : BitVec 3} {a : BitVec 4} {c : BitVec 1} {st : BitVec 4} {n : BitVec 8} {x : TaskSite} :
      (c = 1#1 ∧ n = 0#8 ∨ c = 0#1 ∧ (atA x a).tag = none ∧ (atA x a).v = 0#32) →
      TaskDoes (.taskRep m a c st n) x { next := some (x.a.pc + 2) }
  | rep {m : BitVec 3} {a : BitVec 4} {c : BitVec 1} {st : BitVec 4} {n : BitVec 8} {x : TaskSite} {count : Nat} :
      (c = 1#1 ∧ count = n.toNat ∨ c = 0#1 ∧ (atA x a).tag = none ∧ count = (atA x a).v.toNat) → count ≠ 0 →
      repPasses ((x.t.words[x.a.pc + 1]?).getD 0#32) m st.toNat count = false →
      TaskDoes (.taskRep m a c st n) x { rep := some { k := 0, count, mask := m, stride := st.toNat } }
  | emita {k : BitVec 2} {a : BitVec 4} {e p : BitVec 1} {w : BitVec 5} {x : TaskSite} {row : List TaskReg} :
      row = staged x.t.rowA w (atA x a) →
      TaskDoes (.taskEmita k a e p w) x
        { sends := emitted x k row p e, rows := some (if p = 1#1 then List.replicate 16 {} else row, x.t.rowB) }
  | emitb {k : BitVec 2} {a : BitVec 4} {e p : BitVec 1} {w : BitVec 5} {x : TaskSite} {row : List TaskReg} :
      row = staged x.t.rowB w (atA x a) →
      TaskDoes (.taskEmitb k a e p w) x
        { sends := emitted x k row p e, rows := some (x.t.rowA, if p = 1#1 then List.replicate 32 {} else row) }
  | dec {d a b : BitVec 4} {x : TaskSite} {h : W64} : h = header (atA x a) (atB x b) → (atA x a).tag = none → (atB x b).tag = none →
      headerOk (h.extractLsb' 11 5).toNat (h.extractLsb' 0 11).toNat →
      TaskDoes (.taskSplitDec d a b) x
        { writes := [(fieldReg x d 0, clean ((h.extractLsb' 40 24).setWidth 32)), (fieldReg x d 0 + 1, clean ((h.extractLsb' 16 24).setWidth 32)),
            (fieldReg x d 0 + 2, clean ((h.extractLsb' 11 5).setWidth 32)), (fieldReg x d 0 + 3, clean ((h.extractLsb' 0 11).setWidth 32))] }
  | enc {d a b : BitVec 4} {x : TaskSite} {r0 r1 r2 r3 : TaskReg} {h : W64} :
      (∀ k r, (k, r) ∈ [(0, r0), (1, r1), (2, r2), (3, r3)] → (x.t.regs[fieldReg x a 1 + k]?).getD {} = r ∧ r.tag = none) →
      r0.v.toNat < 2 ^ 24 → r1.v.toNat < 2 ^ 24 → headerOk r2.v.toNat r3.v.toNat →
      h = r0.v.setWidth 24 ++ r1.v.setWidth 24 ++ r2.v.setWidth 5 ++ r3.v.setWidth 11 →
      TaskDoes (.taskSplitEnc d a b) x
        { writes := [(fieldReg x d 0, clean (h.extractLsb' 0 32)), (fieldReg x d 0 + 1, clean (h.extractLsb' 32 32))] }

/-- The faults of these instructions, with their operand values. -/
inductive TaskFaults : Instr → TaskSite → Nat → List W64 → Prop
  | recv {d : BitVec 4} {w : BitVec 1} {x : TaskSite} {q : BitVec 8} : x.trigger = .poison q → taskTraps x →
      TaskFaults (.taskRecv d w) x 0x30 [0#64, 0#64, shown (atD x d)]
  | sendmTag {k : BitVec 2} {a : BitVec 4} {x : TaskSite} : (atA x a).tag ≠ none →
      TaskFaults (.taskSendm k a) x 0x30 [shown (atA x a), 0#64, 0#64]
  | sendmLevel {k : BitVec 2} {a : BitVec 4} {x : TaskSite} : (atA x a).tag = none →
      ((atA x a).v.extractLsb' 0 3 = 0#3 ∨ (atA x a).v.extractLsb' 0 3 = 5#3) →
      TaskFaults (.taskSendm k a) x 0x44 [shown (atA x a), 0#64, 0#64]
  | brc {a : BitVec 4} {n : BitVec 1} {i : BitVec 13} {x : TaskSite} : (atA x a).tag ≠ none →
      TaskFaults (.taskBrc a n i) x 0x30 [shown (atA x a), 0#64, 0#64]
  | trap {a : BitVec 4} {c : BitVec 12} {x : TaskSite} : x.t.grant ≠ .retry 0x48 → x.t.grant ≠ .mask 0x48 →
      TaskFaults (.taskTrap a c) x 0x48 [c.setWidth 64, shown (atA x a), 0#64]
  | repTag {m : BitVec 3} {a : BitVec 4} {st : BitVec 4} {n : BitVec 8} {x : TaskSite} : (atA x a).tag ≠ none →
      TaskFaults (.taskRep m a 0#1 st n) x 0x30 [shown (atA x a), 0#64, 0#64]
  | repRange {m : BitVec 3} {a : BitVec 4} {c : BitVec 1} {st : BitVec 4} {n : BitVec 8} {x : TaskSite} {count : Nat} :
      (c = 1#1 ∧ count = n.toNat ∨ c = 0#1 ∧ (atA x a).tag = none ∧ count = (atA x a).v.toNat) → count ≠ 0 →
      repPasses ((x.t.words[x.a.pc + 1]?).getD 0#32) m st.toNat count = true →
      TaskFaults (.taskRep m a c st n) x 0x42 [if c = 1#1 then 0#64 else shown (atA x a), 0#64, 0#64]
  | decTag {d a b : BitVec 4} {x : TaskSite} : ((atA x a).tag ≠ none ∨ (atB x b).tag ≠ none) →
      TaskFaults (.taskSplitDec d a b) x 0x30 [shown (atA x a), shown (atB x b), shown (atD x d)]
  | decFormat {d a b : BitVec 4} {x : TaskSite} {h : W64} : h = header (atA x a) (atB x b) → (atA x a).tag = none →
      (atB x b).tag = none → ¬ headerOk (h.extractLsb' 11 5).toNat (h.extractLsb' 0 11).toNat →
      TaskFaults (.taskSplitDec d a b) x 0x44 [shown (atA x a), shown (atB x b), shown (atD x d)]
  | encFormat {d a b : BitVec 4} {x : TaskSite} {r0 r1 r2 r3 : TaskReg} :
      (∀ k r, (k, r) ∈ [(0, r0), (1, r1), (2, r2), (3, r3)] → (x.t.regs[fieldReg x a 1 + k]?).getD {} = r ∧ r.tag = none) →
      ¬ (r0.v.toNat < 2 ^ 24 ∧ r1.v.toNat < 2 ^ 24 ∧ headerOk r2.v.toNat r3.v.toNat) →
      TaskFaults (.taskSplitEnc d a b) x 0x44 [shown r0, 0#64, shown (atD x d)]
  | encTag {d a b : BitVec 4} {x : TaskSite} {k : Nat} : k < 4 → (((x.t.regs[fieldReg x a 1 + k]?).getD {}).tag ≠ none) →
      TaskFaults (.taskSplitEnc d a b) x 0x30 [shown (atA x a), 0#64, shown (atD x d)]

/-- In its turn a channel, control or walker instruction has its effect, or its fault. -/
def taskControl : Prop :=
  ∀ (i : Instr) (s : State) (x : TaskSite), TaskTurn s x ⟨1, 1, 5, false⟩ →
    (∀ e, TaskDoes i x e → exec i s = .next ((issuedTask s x 1 1).commitTask x.p x.k x.a e)) ∧
    ∀ cause ops, TaskFaults i x cause ops →
      exec i s = .next (faultsTask (issuedTask s x 1 1) x (taskRecord x cause ops))

/-- The range check of REP (R233): some field that the mask names, with what the next instruction reaches above it, would pass
t15 in the last repetition. SPLIT.dec reaches td + 3, SPLIT.enc td + 1 and ta + 3, an 8-byte STREQ td + 1. -/
def repRange : Prop :=
  ∀ (w : W32) (i : Instr) (m : BitVec 3) (stride count up : Nat), decodeTask w = .ok i → count ≠ 0 →
    let field (lo : Nat) : Nat := (w >>> lo).toNat % 16
    let passes (f bit : Nat) : Prop := m.getLsbD bit = true ∧ 15 < f + stride * (count - 1)
    up = (match i with
      | .taskSplitDec .. => 3 | .taskSplitEnc .. => 1 | .taskStreq _ _ _ _ _ _ z _ => if z = 3#2 then 1 else 0 | _ => 0) →
    (repPasses w m stride count = true ↔
      passes (field 21 + up) 0 ∨ passes (field 17 + match i with | .taskSplitEnc .. => 3 | _ => 0) 1 ∨ passes (field 13) 2)

/-! ## Requests of tasks (R229, R234) -/

/-- The address of a request: concat(tb, ta) where it is wide, ta zero-extended otherwise. -/
def askAddr (x : TaskSite) (a b : BitVec 4) (wide : BitVec 1) : W64 :=
  if wide = 1#1 then (atB x b).v ++ (atA x a).v else (atA x a).v.setWidth 64

/-- What a request instruction sends: its space, address, size, the access at its home, the tag that rides in word 1 and the
reply channel, with the operand values of its faults, whether an address register is tagged, and whether its value is. -/
structure TaskRequest where
  space : Nat
  va : W64
  size : Nat
  kind : Nat
  acc : Access
  tag : Option W32 := none
  chan : Nat
  ops : List W64
  badAddr : Bool
  badValue : Bool := false

/-- LDREQ, STREQ and AREQ as requests. -/
inductive Asks : Instr → TaskSite → TaskRequest → Prop
  | ldreq {d a b : BitVec 4} {t : BitVec 1} {j : BitVec 2} {w sx : BitVec 1} {z : BitVec 2} {sp : BitVec 3} {x : TaskSite} :
      Asks (.taskLdreq d a b t j w sx z sp) x
        { space := sp.toNat, va := askAddr x a b w, size := 2 ^ z.toNat, kind := 0, chan := j.toNat
          acc := .load (if z = 3#2 then .n64 else if sx = 1#1 then .i32 else .n32) (2 ^ z.toNat) false
          tag := if t = 1#1 then some (atD x d).v else none
          ops := [shown (atA x a), if w = 1#1 then shown (atB x b) else 0#64, shown (atD x d)]
          badAddr := (atA x a).tag.isSome || (w == 1#1 && (atB x b).tag.isSome) }
  | streq {d a b : BitVec 4} {k : BitVec 1} {j : BitVec 2} {w : BitVec 1} {z : BitVec 2} {sp : BitVec 3} {x : TaskSite}
      {hi : TaskReg} {tagged : Bool} : hi = (x.t.regs[fieldReg x d 0 + 1]?).getD {} →
      tagged = ((atD x d).tag.isSome || (z == 3#2 && hi.tag.isSome)) →
      Asks (.taskStreq d a b k j w z sp) x
        { space := sp.toNat, va := askAddr x a b w, size := 2 ^ z.toNat, kind := 1, chan := j.toNat
          acc := .store (2 ^ z.toNat)
            (if tagged then none else some (if z = 3#2 then hi.v ++ (atD x d).v else (atD x d).v.setWidth 64)) (k = 1#1)
          ops := [shown (atA x a), if w = 1#1 then shown (atB x b) else 0#64, shown (atD x d)]
          badAddr := (atA x a).tag.isSome || (w == 1#1 && (atB x b).tag.isSome), badValue := tagged }
  | areq {d a b : BitVec 4} {o : BitVec 3} {r : BitVec 1} {j : BitVec 2} {w sx : BitVec 1} {sp : BitVec 3} {x : TaskSite}
      {op : AtomOp} {ty : Ty} :
      [(0#3, AtomOp.add, Ty.n32), (1#3, .min, if sx = 1#1 then .i32 else .n32), (2#3, .max, if sx = 1#1 then .i32 else .n32),
        (3#3, .and, .n32), (4#3, .or, .n32), (5#3, .xor, .n32), (6#3, .xchg, .n32), (7#3, .fadd, .f32)].lookup o = some (op, ty) →
      Asks (.taskAreq d a b o r j w sx sp) x
        { space := sp.toNat, va := askAddr x a b w, size := 4, kind := 2, chan := j.toNat
          acc := .atomic op ty 0#64 (if (atD x d).tag.isSome then none else some ((atD x d).v.setWidth 64)) (r = 1#1)
          ops := [shown (atA x a), if w = 1#1 then shown (atB x b) else 0#64, shown (atD x d)]
          badAddr := (atA x a).tag.isSome || (w == 1#1 && (atB x b).tag.isSome), badValue := (atD x d).tag.isSome }

/-- The question of a request's probe. -/
def TaskRequest.ask (q : TaskRequest) (x : TaskSite) : Ask :=
  { space := q.space, va := q.va, size := q.size, align := q.size, kind := q.kind, cluster := some (x.t.point / 8) }

/-- The record of a request's probe fault: the slot is that of the request's instruction (R236), and the die is that of the MD
which translated the address, in the spaces that are translated (R20). -/
def TaskRequest.record (q : TaskRequest) (x : TaskSite) (cause : Nat) : FaultInfo :=
  { taskRecord x cause q.ops with access := q.kind + 1, vaddr := q.va, slot := some (x.a.pc / 2), md := probeDie q.space x.t.near }

/-- A request instruction in its turn (R234): it waits while its PE's port holds 16 requests; a tagged address always faults,
a tagged value where poison traps; a probe that faults leaves everything as it was, and one that needs a walk starts it;
otherwise one request leaves, to a peer in space 5. -/
def taskRequests : Prop :=
  ∀ (i : Instr) (s : State) (x : TaskSite) (q : TaskRequest), Asks i x q → TaskTurn s x ⟨1, 1, 5, false⟩ →
    let t := issuedTask s x 1 1
    let busy := 16 ≤ s.portRequests x.p.pad x.t.place
    let bad := q.badAddr = true ∨ (q.badValue = true ∧ taskTraps x)
    let r (loc : Nat) (device : Bool) : Request :=
      { id := 0, who := .pe x.k, acc := q.acc, space := q.space, addr := q.va, loc, size := q.size, issued := s.cycle, tag := q.tag
        chan := q.chan, md := x.t.near, iter := (q.record x 0).iter, opv := (q.record x 0).opv, device, slot := some (x.a.pc / 2), act := x.t.acts }
    (busy → exec i s = .next (waitsTask t x)) ∧
    (¬ busy → bad → exec i s = .next (faultsTask t x (taskRecord x 0x30 q.ops))) ∧
    (∀ c, ¬ busy → ¬ bad → s.probe x.pl x.t.near (q.ask x) = .fault c →
      exec i s = .next (faultsTask t x (q.record x c))) ∧
    (¬ busy → ¬ bad → s.probe x.pl x.t.near (q.ask x) = .miss →
      exec i s = .next { waitsTask t x with
        walks := t.walks ++ [missWalk x.p x.pl (.pe x.k) x.t.near (q.ask x) (q.record x 0) s.cycle] }) ∧
    (∀ loc, ¬ busy → ¬ bad → s.probe x.pl x.t.near (q.ask x) = .ok loc → q.space ≠ 5 → ∃ device : Bool,
      exec i s = .next (t.commitTask x.p x.k x.a { reqs := [r loc device] })) ∧
    (∀ loc, ¬ busy → ¬ bad → s.probe x.pl x.t.near (q.ask x) = .ok loc → q.space = 5 →
      exec i s = .next ((waitsTask t x).startPeer x.p x.pl.ctx (.pe x.k) (r loc false)))

/-! ## How an activation goes on (R220, R225, R226, R233) -/

/-- The PE after an instruction that writes registers, goes to a next instruction or starts a repetition. -/
def wentOn (t : TaskPe) (a : Activation) (e : TaskEffect) : TaskPe :=
  let count := a.count + 1
  let act : Activation :=
    match a.rep with
    | none => { a with count, pc := e.next.getD (a.pc + 1), rep := e.rep }
    | some r =>
      if r.k + 1 < r.count then { a with count, rep := some { r with k := r.k + 1 } } else { a with count, rep := none, pc := a.pc + 1 }
  { t with
    regs := e.writes.foldl (fun rs w => modifyAt rs w.1 fun _ => w.2) t.regs
    rowA := (e.rows.map (·.1)).getD t.rowA, rowB := (e.rows.map (·.2)).getD t.rowB, grant := .none, charged := false, act := some act }

/-- The PE after END: the trigger leaves the bound channel (R226), and a barrier among the triggers has been met there (R42). -/
def endsOn (t : TaskPe) (a : Activation) : TaskPe :=
  let level := (((t.chans[a.chan]?).bind fun q => q.toks.head?).map Token.level).getD 0
  { t with
    act := none, grant := .none, charged := false
    chans := modifyAt t.chans a.chan fun q => { q with toks := q.toks.drop 1 }
    barriers := if 6 ≤ level then modifyAt (t.barriers ++ List.replicate (a.chan + 1 - t.barriers.length) 0) a.chan (· + 1)
      else t.barriers
    widths := if a.chan < t.inputs then t.widths else modifyAt t.widths (a.chan - t.inputs) (·.drop 1) }

/-- An instruction that sends and requests nothing changes its own PE and its plane's flags, and nothing else; END takes the
trigger from the bound channel. -/
def taskCommits : Prop :=
  ∀ (s : State) (p : PlaneId) (k : Nat) (a : Activation) (e : TaskEffect), e.sends = [] → e.reqs = [] →
    (e.stop = false → s.commitTask p k a e = s.modPlane p fun pl =>
      { pl.modPe k (wentOn · a e) with flags := pl.flags ||| e.flags, active := true }) ∧
    (e.stop = true → e.writes = [] → e.rows = none → s.commitTask p k a e = s.modPlane p fun pl =>
      { pl.modPe k (endsOn · a) with flags := pl.flags ||| e.flags, active := true })

/-- A request of PE k of the plane has not completed (R41). -/
def outstanding (pl : Plane) (k : Nat) : Prop :=
  ∃ r ∈ pl.reqs, r.who = .pe k ∧ r.done = false ∧ r.lost = false ∧ (∀ es, r.acc ≠ .pass es)

/-- A token of the PE waits on output channel o behind a held barrier. -/
def behindBarrier (pl : Plane) (k o : Nat) : Prop := ∃ r ∈ pl.reqs, r.who = .pe k ∧ r.chan = 8 + o ∧ ∃ es, r.acc = .pass es

/-- A sent token enters its output channel at every consumer; a level-6 or level-7 marker waits while a request of its PE is
outstanding, and later tokens wait behind it (R41, R231). -/
def taskSends : Prop :=
  ∀ (s : State) (p : PlaneId) (k o : Nat) (t : Token) (pl : Plane), s.plane? p = some pl →
    ((¬ behindBarrier pl k o ∧ ¬ (6 ≤ t.level ∧ outstanding pl k)) →
      s.taskSend p k o t = s.modPlane p fun q => ((((q.pes[k]?).bind fun x => x.outs[o]?).getD []).foldl (fun q d => q.emit d t) q)) ∧
    ((behindBarrier pl k o ∨ (6 ≤ t.level ∧ outstanding pl k)) →
      s.taskSend p k o t = { s.modPlane p (fun q => { q with reqs := q.reqs ++
        [{ id := s.nextId, who := .pe k, acc := .pass [(o, t)], space := 0, addr := 0#64, loc := 0, size := 0, issued := s.cycle
           done := true, replies := [(o, t)], chan := 8 + o }] }) with nextId := s.nextId + 1 })

/-- The 4,097th instruction of an activation faults with 0x41 in place of executing, whichever it is (R226). -/
def overruns : Prop :=
  ∀ (w : W32) (i : Instr) (s : State) (x : TaskSite), decodeTask w = .ok i → cursorTask s = some x → x.ready = true →
    s.granted x.p x.pl → (∀ c, (admitTask (grantCycle s x.p).2 x c).1 = true) → 4096 ≤ x.a.count → ∃ c : Cost,
      c.cls = 5 ∧ exec i s = .next ((s.admittedTask x c).detectFault x.p (some (.pe x.k)) (taskRecord x 0x41 []))

/-- ACTIVATION_START (R224): of the runnable tasks of a PE, the first in order starts at its first instruction; the others that
are runnable have waited one dispatch more. -/
def activates : Prop :=
  ∀ (s : State) (pl : Plane) (t : TaskPe) (c : Nat), s.plane? s.arg.plane = some pl → pl.pes[s.arg.index]? = some t → pl.st = .live →
    pl.claimed = none → pl.reload = false → pl.stopped (.pe s.arg.index) = false →
    t.order.find? (t.runnable s.arg.index pl) = some c → ∃ ages : List Nat,
      exec .activationStart s = .next (s.setPlane s.arg.plane
        { pl.modPe s.arg.index (fun t => { t with act := some { chan := c, pc := (t.starts[c]?).getD 0 }, ages, acts := t.acts + 1 }) with active := true }) ∧
      ages.length = t.chans.length ∧
      ∀ i < t.chans.length, ages[i]? = some (if i = c ∨ t.runnable s.arg.index pl i = false then 0 else (t.ages[i]?).getD 0 + 1)

/-- The order of R224: a channel runnable through 248 dispatches comes before one that is not, reply channels come before
input channels otherwise. -/
def activationOrder : Prop :=
  ∀ (t : TaskPe) (c d i j : Nat), t.order[i]? = some c → c < t.chans.length → d < t.chans.length →
    (∀ i' < i, t.order[i']? ≠ some c) → t.order[j]? = some d → (∀ j' < j, t.order[j']? ≠ some d) →
    let age (k : Nat) : Nat := (t.ages[k]?).getD 0
    (248 ≤ age c → age d < 248 → i < j) ∧ (248 ≤ age c → 248 ≤ age d → age d < age c → i < j) ∧
    (age c < 248 → age d < 248 → (t.inputs ≤ c ∧ d < t.inputs ∨ (t.inputs ≤ c ∧ c < d) ∨ (c < d ∧ d < t.inputs)) → i < j)

end Sys2Proof.Claims
end

