-- ==== Sys2Proof/Claims/Traps.lean ====
section
/-! DEFINITION. Taking an exception and what follows (R421 to R440), and errors in plane words and plane state (R451 to
R455). -/

namespace Sys2Proof.Claims

open Sys2Proof.Machine

/-! ## Detection (R29, R421, R437) -/

/-- A plane in which a fault may be held: it holds a load, and its task has not been abandoned. -/
def mayHold (pl : Plane) : Prop := pl.st ≠ .free ∧ pl.st ≠ .config ∧ pl.abandon = false

/-- A fault is held in its plane; the first one of a LIVE or ENDING plane freezes it 12 cycles later. In a handler-class plane
it is a double fault. In a plane that holds no load, or whose task is abandoned, it has no effect. -/
def detects : Prop :=
  ∀ (s : State) (p : PlaneId) (pl : Plane) (f : HeldFault), s.plane? p = some pl →
    (mayHold pl → pl.handler = false → s.detectHeld p f = s.setPlane p
      { pl with
        faults := pl.faults ++ [f]
        freezeAt := if pl.freezeAt.isNone ∧ (pl.st = .live ∨ pl.st = .ending) then some (s.cycle + 12) else pl.freezeAt }) ∧
    (∀ t slot, mayHold pl → pl.handler = true → s.taskOf pl = some t → t.record = some slot →
      s.detectHeld p f = s.failContext pl.ctx slot (wbits (s.recordWord pl.ctx slot 0) 7 0) f.info.cause 0) ∧
    (¬ mayHold pl → s.detectHeld p f = s)

/-- The die that detects a fault: the memory-port die whose check failed, where the fault names one, else the die of the agent
(R20). -/
def detectingDie (info : FaultInfo) (place : Place) : Nat :=
  match info.md with
  | some md => 4 + md
  | none => placeDie place

/-- What a held fault says of the agent that took it: version and identifier of its block, its slot, or that of the request that failed,
and the time on the die that detected it (R20, R236, R425). -/
def locates : Prop :=
  ∀ (s : State) (p : PlaneId) (pl : Plane) (info : FaultInfo) (fatal : Bool) (k : Nat), s.plane? p = some pl →
    (∀ n, pl.nodes[k]? = some n → s.detectFault p (some (.node k)) info fatal = s.detectHeld p
      { who := some (.node k), info, version := n.info.version, block := n.info.id, slot := info.slot.getD n.slot
        time := s.dieTime (detectingDie info n.place), die := detectingDie info n.place, fatal }) ∧
    (∀ t a, pl.pes[k]? = some t → t.act = some a → s.detectFault p (some (.pe k)) info fatal = s.detectHeld p
      { who := some (.pe k), info, version := t.info.version, block := t.info.id, slot := info.slot.getD (a.pc / 2)
        time := s.dieTime (detectingDie info t.place), die := detectingDie info t.place, fatal })

/-- A context of a state z as it was in s when it fails. -/
def failedCtx (x : Ctx) (slot first second reason : Nat) : Ctx :=
  { x with
    state := 2, launches := [], bins := [], saveused := 0, handlerEntry := none, handlerOld := [], graphs := []
    fail := BitVec.ofNat 64 (first % 2 ^ 8 + second % 2 ^ 8 * 2 ^ 8 + reason % 2 ^ 8 * 2 ^ 16 + slot % 2 ^ 9 * 2 ^ 32) }

/-- A live context fails (R437 to R439): CTX_FAIL shows the two causes, the slot and the reason; its LIVE planes freeze, its
saves stop, its planes will go to FREE, its tasks and saves are gone. Memory, the other contexts and their tasks are left. -/
def contextFails : Prop :=
  ∀ (s : State) (c slot first second reason : Nat), (s.ctx c).state = 1 →
    let z := s.failContext c slot first second reason
    z.ctx c = failedCtx (s.ctx c) slot first second reason ∧ (∀ d, d ≠ c → z.ctx d = s.ctx d) ∧
    (∀ p pl, s.plane? p = some pl → pl.ctx ≠ c → z.plane? p = some pl) ∧
    (∀ p pl, s.plane? p = some pl → pl.ctx = c → pl.st = .live →
      z.plane? p = some { pl with abandon := true, claimed := none, freezeAt := some (pl.freezeAt.getD (s.cycle + 12)) }) ∧
    (∀ p pl, s.plane? p = some pl → pl.ctx = c → pl.st = .saving →
      z.plane? p = some { pl with abandon := true, claimed := none, st := .frozen }) ∧
    (∀ p pl, s.plane? p = some pl → pl.ctx = c → (pl.st = .config ∨ pl.st = .frozen ∨ pl.st = .ending) →
      z.plane? p = some { pl with abandon := true, claimed := none, resuming := false }) ∧
    z.tasks = s.tasks.filter (fun t => t.2.ctx ≠ c) ∧ z.waiting = s.waiting.filter (fun t => t.ctx ≠ c) ∧
    z.saves = s.saves.filter (fun x => x.2.plane.ctx ≠ c) ∧
    z.dram = s.dram ∧ z.store = s.store ∧ z.host = s.host ∧ z.regs = s.regs

/-! ## Freeze and record (R421, R424, R425, R430) -/

/-- The context has a handler, and a trap area in use. -/
def takesTraps (c : Ctx) : Prop := c.handler.getLsbD 0 = true ∧ c.traparea.getLsbD 0 = true

/-- A node in which no range of a replay is staged: a BINRUN that has read one and not written it back stands at the beginning of its
bin (R113, R329). -/
def atBin (n : Node) : Node :=
  match n.st with
  | .replay bin closed _ _ => { n with st := .run bin closed }
  | _ => n

/-- PLANE_FREEZE: twelve cycles after its fault was detected the plane is FROZEN, and nothing else of it has changed, but that a replay
goes back to the beginning of its bin. Where
its context has no handler or no trap area, the context fails. -/
def freezes : Prop :=
  ∀ (s : State) (pl : Plane) (t : Nat), s.plane? s.arg.plane = some pl → pl.freezeAt = some t → (pl.st = .live ∨ pl.st = .ending) →
    let z : State := { s.setPlane s.arg.plane
        { pl with st := .frozen, before := pl.st, freezeAt := none, froze := s.nextId, nodes := pl.nodes.map atBin } with
      nextId := s.nextId + 1 }
    (s.cycle < t → exec .planeFreeze s = .next s) ∧
    (t ≤ s.cycle → (pl.abandon = true ∨ takesTraps (s.ctx pl.ctx)) → exec .planeFreeze s = .next z) ∧
    (∀ f rest, t ≤ s.cycle → pl.abandon = false → ¬ takesTraps (s.ctx pl.ctx) → pl.faults = f :: rest →
      exec .planeFreeze s = .next (z.failContext pl.ctx 0 f.info.cause 0 0))

/-- A slot is free (R424): not valid, or taken by a handler task that has completed. -/
def slotIsFree (s : State) (c slot : Nat) : Prop :=
  let w := s.recordWord c slot 0
  let handles (t : Task) : Prop := t.ctx = c ∧ t.handler = true ∧ t.record = some slot
  w.getLsbD 12 = false ∨ (w.getLsbD 13 = true ∧ (∀ t ∈ s.tasks, ¬ handles t.2) ∧ ∀ t ∈ s.waiting, ¬ handles t)

/-- The lowest-numbered free slot of a context's trap area. -/
def lowestFree (s : State) (c slot : Nat) : Prop :=
  slot ≤ wbits (s.ctx c).traparea 63 55 ∧ slotIsFree s c slot ∧ ∀ k < slot, ¬ slotIsFree s c k

/-- The class of a cause (R427). -/
def classOf (c : Nat) : Nat :=
  if c ∈ [0x10, 0x11, 0x12, 0x13, 0x14, 0x18] then 1
  else if c ∈ [0x20, 0x21, 0x22, 0x23, 0x24, 0x28] then 2
  else if c ∈ [0x30, 0x31, 0x38] then 3
  else if c ∈ [0x40, 0x41] then 4
  else if c ∈ [0x42, 0x44, 0x51] then 5
  else if c = 0x48 then 6
  else if c = 0x50 then 7
  else 8

/-- The causes of R427. -/
def causes : List Nat :=
  [0x10, 0x11, 0x12, 0x13, 0x14, 0x18, 0x20, 0x21, 0x22, 0x23, 0x24, 0x28, 0x30, 0x31, 0x38, 0x40, 0x41, 0x42, 0x44, 0x48, 0x50, 0x51, 0x60]

/-- A fault as R425's fields can show it. -/
def showable (f : HeldFault) : Prop :=
  f.info.cause ∈ causes ∧ f.version < 16 ∧ f.info.access < 256 ∧ f.block < 65536 ∧ f.slot < 128 ∧ f.die < 16 ∧
  ∀ x ∈ f.info.iter.getD [], x < 2 ^ 32

/-- Element k of an iteration vector, and operand value k. -/
def iterOf (f : HeldFault) (k : Nat) : Nat := ((f.info.iter.getD [])[k]?).getD 0
def opvOf (f : HeldFault) (k : Nat) : W64 := ((f.info.opv.getD [])[k]?).getD 0#64

/-- The record of a fault stands in a slot (R425), with its placement; word 15 is opaque. -/
structure Recorded (z : State) (c slot : Nat) (f : HeldFault) (tag : W32) (native : Nat) : Prop where
  cause   : wbits (z.recordWord c slot 0) 7 0 = f.info.cause
  class_  : wbits (z.recordWord c slot 0) 11 8 = classOf f.info.cause
  valid   : wbits (z.recordWord c slot 0) 15 12 = 1
  version : wbits (z.recordWord c slot 0) 19 16 = f.version
  zeros   : wbits (z.recordWord c slot 0) 31 20 = 0 ∧ wbits (z.recordWord c slot 0) 63 63 = 0
  access  : wbits (z.recordWord c slot 0) 39 32 = f.info.access
  block   : wbits (z.recordWord c slot 0) 55 40 = f.block
  slotOf  : wbits (z.recordWord c slot 0) 62 56 = f.slot
  context : z.recordWord c slot 1 = BitVec.ofNat 64 (c % 1024)
  iter    : z.recordWord c slot 2 = BitVec.ofNat 64 (iterOf f 0 + iterOf f 1 * 2 ^ 32) ∧
            z.recordWord c slot 3 = BitVec.ofNat 64 (iterOf f 2 + iterOf f 3 * 2 ^ 32)
  opv     : ∀ k < 3, z.recordWord c slot (4 + k) = opvOf f k
  vaddr   : z.recordWord c slot 7 = f.info.vaddr
  time    : z.recordWord c slot 8 = f.time
  tag_    : z.recordWord c slot 9 = tag.setWidth 64
  blank   : ∀ k, 10 ≤ k → k < 14 → z.recordWord c slot k = 0#64
  native_ : z.recordWord c slot 14 = BitVec.ofNat 64 native

/-- A paddock's rectangle, the plane and the die in the native detail. -/
def nativeOf (d : Paddock) (plane die : Nat) : Nat :=
  d.x0 % 128 + d.y0 % 128 * 2 ^ 7 + d.w % 128 * 2 ^ 14 + d.h % 128 * 2 ^ 21 + plane % 4 * 2 ^ 28 + die * 2 ^ 30

/-- The handler task that a record starts (R430): under the context's handler load, with no predecessors, for its slot. -/
def handlerOf (c : Ctx) (ctx slot : Nat) : Task :=
  { ctx, ico := BitVec.ofNat 64 (wbits c.handler 55 3 * 8), load := wbits c.handler 63 56, prio := 7, handler := true, record := some slot }

/-- The handler task enters with the first free reserved colour, or waits for one (R391, R430). -/
def handlerEnters (s z : State) (t : Task) : Prop :=
  (∀ k, s.waiting = [] → s.freeReserved = some k → ∃ serial, z.task k =
    some { t with serial, st := .ready, level := t.prio, since := s.cycle }) ∧
  ((s.waiting ≠ [] ∨ s.freeReserved = none) → z.waiting = s.waiting ++ [t] ∧ z.tasks = s.tasks)

/-- TRAP_RECORD_WRITE for a frozen plane whose turn it is: one of its held faults, whichever the stimulus names, is recorded in
the lowest free slot and starts a handler task. Outside the slot memory is unchanged. -/
def records : Prop :=
  ∀ (s : State) (d : Paddock) (pl : Plane) (f : HeldFault) (slot : Nat), s.arg.other ≠ 1 → s.dram.wf →
    mapGet s.pads s.arg.plane.pad = some d → s.plane? s.arg.plane = some pl → pl.st = .frozen → pl.abandon = false → pl.resuming = false →
    pl.shown = none → pl.faults[s.arg.index]? = some f → s.firstInLine pl.ctx pl.froze = true → lowestFree s pl.ctx slot → showable f →
    ∃ z : State, exec .trapRecordWrite s = .next z ∧
      Recorded z pl.ctx slot f (((s.taskOf pl).map (·.tag)).getD 0#32) (nativeOf d s.arg.plane.plane f.die) ∧
      (∀ a, (a < s.slotAddr pl.ctx slot ∨ s.slotAddr pl.ctx slot + 128 ≤ a) → z.dram.byte a = s.dram.byte a) ∧
      z.plane? s.arg.plane = some { pl with shown := some f, record := some slot, faults := pl.faults.eraseIdx s.arg.index } ∧
      handlerEnters s z (handlerOf (s.ctx pl.ctx) pl.ctx slot) ∧ z.ctxs = s.ctxs

/-- TRAP_RECORD_WRITE for a task whose binding was refused: no plane is held (R98, R425). -/
def refusalRecords : Prop :=
  ∀ (s : State) (t : Task) (f : HeldFault) (slot : Nat), s.arg.other = 1 → s.dram.wf → s.task s.arg.index = some t →
    t.refused = some f → t.shown = none → s.firstInLine t.ctx t.refusedAt = true → lowestFree s t.ctx slot → showable f →
    ∃ z : State, exec .trapRecordWrite s = .next z ∧ Recorded z t.ctx slot f t.tag (f.die * 2 ^ 30) ∧
      (∀ a, (a < s.slotAddr t.ctx slot ∨ s.slotAddr t.ctx slot + 128 ≤ a) → z.dram.byte a = s.dram.byte a) ∧
      z.task s.arg.index = some { t with shown := some slot } ∧ z.ctxs = s.ctxs ∧ z.pads = s.pads

/-- While no slot is free the record is not written, and the plane stays as it is (R424). -/
def recordsWait : Prop :=
  ∀ (s : State) (pl : Plane), s.arg.other ≠ 1 → s.plane? s.arg.plane = some pl →
    (∀ k ≤ wbits (s.ctx pl.ctx).traparea 63 55, ¬ slotIsFree s pl.ctx k) → exec .trapRecordWrite s = .next s

/-! ## Resumption, and what passes in a cycle (R434, R440, R467) -/

/-- No freeze is due (R421). -/
def nothingFreezes (s : State) : Prop :=
  ∀ x ∈ s.planes, (x.2.st = .live ∨ x.2.st = .ending) → ∀ t, x.2.freezeAt = some t → s.cycle < t

/-- A cycle in which nothing moves, and no freeze is due: the cycle counter goes on by one; the flags of engine steps that complete in it are raised (R251); every LIVE plane that no reload holds has its watchdog
returned to 0, or counted on by one; a plane whose last record was acknowledged resumes in the state it froze from. Nothing
else of any plane changes. -/
def cyclesPass : Prop :=
  ∀ (s : State) (p : PlaneId) (pl : Plane), s.agenda = [] → nothingFreezes s → s.plane? p = some pl → ∃ (z : State) (q : Plane),
    step s = .next z ∧ z.cycle = s.cycle + 1 ∧ z.plane? p = some q ∧
    q.st = (if pl.resuming then pl.before else pl.st) ∧ q.resuming = false ∧
    (pl.st ≠ .live ∨ pl.reload = true → q.watchdog = pl.watchdog) ∧
    (pl.st = .live → pl.reload = false → s.kept p pl = true → q.watchdog = 0) ∧
    (pl.st = .live → pl.reload = false → s.kept p pl = false → pl.active = false → q.watchdog = pl.watchdog + 1) ∧
    (pl.st = .live → pl.reload = false → s.kept p pl = false → pl.active = true → q.watchdog = 0) ∧
    q = { pl.ripen (s.cycle + 1) with st := q.st, resuming := false, watchdog := q.watchdog, active := q.active, waited := q.waited } ∧
    z.dram = s.dram ∧ z.store = s.store ∧ z.host = s.host ∧ z.tasks = s.tasks ∧ z.ctxs = s.ctxs

/-- No cycle passes in which a freeze is due: the freeze takes place exactly 12 cycles after the fault was detected (R421). -/
def freezeHolds : Prop :=
  ∀ (s : State) (p : PlaneId) (pl : Plane) (t : Nat), s.agenda = [] → (p, pl) ∈ s.planes → (pl.st = .live ∨ pl.st = .ending) →
    pl.freezeAt = some t → t ≤ s.cycle → step s = .next s

/-- WATCHDOG_EXPIRY (R440): the watchdog fault is detected once the counter has reached 2^WDOG_CTL.exp, and not before; it
names block 0xFFFF and slot 0. -/
def watchdogExpires : Prop :=
  ∀ (s : State) (d : Paddock) (pl : Plane), mapGet s.pads s.arg.plane.pad = some d → s.plane? s.arg.plane = some pl → pl.st = .live →
    pl.reload = false → (∀ f ∈ pl.faults, f.info.cause ≠ 0x40) →
    let die := (if d.x0 ≥ 40 then 1 else 0) + if d.y0 ≥ 36 then 2 else 0
    (pl.watchdog < 2 ^ s.regs.wdogExp → exec .watchdogExpiry s = .next s) ∧
    (2 ^ s.regs.wdogExp ≤ pl.watchdog → exec .watchdogExpiry s = .next (s.detectHeld s.arg.plane
      { who := none, info := { cause := 0x40 }, version := 0, block := 0xFFFF, slot := 0, time := s.dieTime die, die }))

/-! ## Errors (R451 to R453, R455, R264) -/

/-- One more, in a count of 32 bits that saturates. -/
def oneMore (x : W32) : W32 := BitVec.ofNat 32 (min (x.toNat + 1) (2 ^ 32 - 1))

/-- A reload holds the plane. -/
def reloading (s : State) (p : PlaneId) (pl : Plane) : State := s.setPlane p { pl with reload := true }

/-- PLANE_WORD_ECC_ERROR, SCRUB_CHECK and PLANE_RELOAD_DONE (R451 to R453). -/
def reloads : Prop :=
  ∀ (s : State) (pl : Plane), s.plane? s.arg.plane = some pl →
    (s.arg.verdict = true →
      exec .planeWordEccError s = .next { s with regs := { s.regs with corrected := oneMore s.regs.corrected } }) ∧
    (s.arg.verdict = false → pl.st ≠ .free → pl.st ≠ .config → exec .planeWordEccError s = .next (reloading s s.arg.plane pl)) ∧
    (s.arg.verdict = false → (pl.st = .live ∨ pl.st = .frozen) → exec .scrubCheck s = .next (reloading s s.arg.plane pl)) ∧
    (s.arg.verdict = true → exec .scrubCheck s = .next s) ∧
    (s.arg.verdict = true → pl.reload = true → exec .planeReloadDone s = .next
      { s.setPlane s.arg.plane { pl with reload := false } with regs := { s.regs with reloads := oneMore s.regs.reloads } })

/-- STATE_ECC_ERROR (R455): a queued token becomes poison 0x30, a register gets its tag set with 0x30, an accumulator cell its
poison bit; any other state makes the plane take fault 0x31, naming the node or the task-mode PE, and that fault cannot resume. -/
def stateErrors : Prop :=
  ∀ (s : State) (pl : Plane), s.plane? s.arg.plane = some pl → pl.st ≠ .free → pl.st ≠ .config →
    (∀ i n k t, s.arg.site = .queue i 0 k → pl.nodes[i]? = some n → n.a.toks[k]? = some t → t ≠ .ord →
      exec .stateEccError s = .next (s.setPlane s.arg.plane (pl.modNode i fun n =>
        { n with a := { n.a with toks := modifyAt n.a.toks k fun _ => .poison 0x30#8 } }))) ∧
    (∀ k q i t c x, s.arg.site = .channel k q i → pl.pes[k]? = some t → t.chans[q]? = some c → c.toks[i]? = some x → x ≠ .ord →
      exec .stateEccError s = .next (s.setPlane s.arg.plane (pl.modPe k fun t =>
        { t with chans := modifyAt t.chans q fun c => { c with toks := modifyAt c.toks i fun _ => .poison 0x30#8 } }))) ∧
    (∀ k r, s.arg.site = .register k r → exec .stateEccError s = .next (s.setPlane s.arg.plane (pl.modPe k fun t =>
      { t with regs := modifyAt t.regs r fun x => { x with tag := some 0x30#8 } }))) ∧
    (∀ i n m k, s.arg.site = .cell i k → pl.nodes[i]? = some n → n.st = .mfe m →
      exec .stateEccError s = .next (s.setPlane s.arg.plane (pl.modNode i fun n =>
        { n with st := .mfe { m with pois := modifyAt m.pois k fun _ => some 0x30#8 } }))) ∧
    (∀ i n, s.arg.site = .other i → pl.nodes[i]? = some n → exec .stateEccError s = .next
      (s.detectFault s.arg.plane (some (.node i)) { cause := 0x31, iter := some [n.e] } true)) ∧
    (∀ k, s.arg.site = .taskState k → exec .stateEccError s = .next
      (s.detectFault s.arg.plane (some (.pe k)) { cause := 0x31 } true))

/-- SRAM_ECC_ERROR (R264): the word of a memory tile that the error struck is poisoned; in a FIFO, the entry that holds it, and in a
line buffer the element. Which entry a word of a FIFO is of is the model's choice (log 117). -/
def sramErrors : Prop :=
  ∀ (s : State) (pl : Plane) (t : TileAlloc), s.plane? s.arg.plane = some pl → pl.tiles[s.arg.index]? = some t →
    s.arg.other < t.bytes →
    (t.mode = 0 → exec .sramEccError s = .next (s.setPlane s.arg.plane
      { pl with sram := pl.sram.writePoison (s.arg.index * 2 ^ 18 + s.arg.other) 4 })) ∧
    (t.mode = 1 → ∃ z : Plane, exec .sramEccError s = .next (s.setPlane s.arg.plane z) ∧ z = { pl with fifos := z.fifos } ∧
      ∀ q, mapGet pl.fifos (s.arg.index * 2 ^ 18) = some q →
        mapGet z.fifos (s.arg.index * 2 ^ 18) = some (modifyAt q (s.arg.other / 8) fun _ => .poison 0x31#8)) ∧
    (2 ≤ t.mode → s.arg.other / t.ty.bytes < t.lines * t.len → ∃ z : Plane,
      exec .sramEccError s = .next (s.setPlane s.arg.plane z) ∧ z = { pl with lbufs := z.lbufs } ∧
      ∃ b, mapGet z.lbufs s.arg.index = some b ∧
        mapGet b.cells (s.arg.other / t.ty.bytes / t.len * 512 + s.arg.other / t.ty.bytes % t.len) = some (.poison 0x31#8))

end Sys2Proof.Claims
end

