-- ==== Sys2Proof/Claims/Device.lean ====
section
/-! DEFINITION. What the driver, the package and the outside do to registers, contexts and firmware: writes (R6, R109, R134,
R311, R327, R408, R417, R446, R457, R461, R462, R468), start-up and firmware (R471 to R473), scan (R422, R474), clock steps
(R475), the host link (R385). -/

namespace Sys2Proof.Claims

open Sys2Proof.Machine

/-! ## Register writes (R457, R458) -/

/-- Device registers whose write only stores fields of the value: address and the registers after it. -/
def storedRegs (v : W64) : List (Nat × (Regs → Regs)) :=
  [(8, fun r => { r with policy := keep v [(8, 0)] }),
   (0x15, fun r => { r with reloads := (v >>> 32).setWidth 32, corrected := v.setWidth 32 }),
   (0x18, fun r => { r with evqBase := keep v [(63, 12), (10, 8), (0, 0)] }),
   (0x19, fun r => { r with evqPtr := keep v [(31, 16), (14, 0)] ||| keep r.evqPtr [(46, 32)] }),
   (0x1C, fun r => { r with clkSteps := (v >>> 32).setWidth 32, clkLow := wbits v 15 8 }),
   (0x1E, fun r => { r with scanCtl := keep v [(63, 48), (31, 0)] })] ++
  (List.range 256).map fun k => (0x100 + k, fun r => { r with peerTab := mapSet r.peerTab k (keep v [(63, 53), (47, 0)]) })

/-- Context registers whose write only stores fields of the value: index and the context after it. -/
def storedCtx (v : W64) : List (Nat × (Ctx → Ctx)) :=
  [(1, fun x => { x with seed := v }), (2, fun x => { x with depcount := wbits v 47 0 }),
   (3, fun x => { x with deplimit := wbits v 47 0, dephit := x.dephit && !v.getLsbD 63 }),
   (5, fun x => { x with trapen := v.setWidth 8 &&& 0xDF#8 }),
   (7, fun x => { x with taken := (v >>> 32).setWidth 32, badCount := v.setWidth 32 }),
   (9, fun x => { x with ptbase := keep v [(39, 16), (0, 0)] }),
   (14, fun x => { x with binbase := keep v [(59, 0)] }), (15, fun x => { x with binrec := keep v [(55, 16)] }),
   (17, fun x => { x with peer := keep v [(15, 0)] }),
   (19, fun x => { x with traparea := keep v [(63, 55), (39, 12), (0, 0)] })] ++
  (List.range 4).map fun k => (10 + k, fun x => { x with pswin := modifyAt x.pswin k fun _ => keep v [(31, 16), (14, 0)] })

/-- Addresses that no write changes: read-only registers and unassigned addresses, the alias range among them. -/
def unwritten (a : Nat) : Prop :=
  a < 0x8000 ∧ ¬ (a ∈ [3, 4, 8, 0xA, 0x11, 0x12, 0x13, 0x14, 0x15, 0x16, 0x18, 0x19, 0x1C, 0x1E]) ∧ ¬ (0x30 ≤ a ∧ a ≤ 0x38) ∧
  ¬ (0x40 ≤ a ∧ a ≤ 0x48) ∧ ¬ (0x100 ≤ a ∧ a ≤ 0x1FF)

/-- REGISTER_WRITE on a running device: the fields that the driver may write take the value's bits, and nothing else
changes; WDOG_CTL.exp outside 16 to 40 and a CTX_REGION off the grid leave their register (R440, R408). -/
def registerWrites : Prop :=
  ∀ (s : State) (v : W64) (c : Nat), s.arg.value = v → s.regs.stage = 5 → c < 1024 →
    (∀ row ∈ storedRegs v, s.arg.index = row.1 → exec .registerWrite s = .next { s with regs := row.2 s.regs }) ∧
    (∀ row ∈ storedCtx v, s.arg.index = 0x8000 + 32 * c + row.1 →
      exec .registerWrite s = .next (s.setCtx c (row.2 (s.ctx c)))) ∧
    (s.arg.index = 0x14 → 16 ≤ wbits v 5 0 → wbits v 5 0 ≤ 40 →
      exec .registerWrite s = .next { s with regs := { s.regs with wdogExp := wbits v 5 0 } }) ∧
    (s.arg.index = 0x14 → (wbits v 5 0 < 16 ∨ 40 < wbits v 5 0) → exec .registerWrite s = .next s) ∧
    (∀ x0 y0 w h, x0 = wbits v 6 0 → y0 = wbits v 14 8 → w = wbits v 22 16 → h = wbits v 30 24 → s.arg.index = 0x8008 + 32 * c →
      ((0 < w ∧ 0 < h ∧ x0 + w ≤ 80 ∧ y0 + h ≤ 72) →
        exec .registerWrite s = .next (s.setCtx c { s.ctx c with x0, y0, w, h })) ∧
      ((w = 0 ∨ h = 0 ∨ 80 < x0 + w ∨ 72 < y0 + h) → exec .registerWrite s = .next s)) ∧
    (s.arg.index = 0x8012 + 32 * c → exec .registerWrite s = .next
      (s.setCtx c { s.ctx c with handler := keep v [(63, 3), (0, 0)], handlerEntry := none, handlerOld := [] }).sweepTack) ∧
    (s.arg.index = 0x8006 + 32 * c → ∃ z : State, exec .registerWrite s = .next z ∧
      z.ctx c = { s.ctx c with lost := wbits v 63 56, quota := min (wbits v 27 16) 4032, irq := v.getLsbD 4, capPrio := wbits v 2 0 } ∧
      ∀ p pl t, s.plane? p = some pl → pl.ctx = c → pl.st ≠ .free → s.taskOf pl = some t →
        ∃ q, z.plane? p = some q ∧ q.prio = min t.prio (wbits v 2 0) ∧ q = { pl with prio := q.prio, level := q.level }) ∧
    (unwritten s.arg.index → exec .registerWrite s = .next s) ∧
    (∀ n, 22 ≤ n → n < 32 → s.arg.index = 0x8000 + 32 * c + n → exec .registerWrite s = .next s)

/-- A device whose start-up has not completed answers no write but those of FW_CTL and FW_RECOVER (R471). -/
def registersClosed : Prop :=
  ∀ (s : State), s.arg.index < 2 ^ 16 → s.regs.stage ≠ 5 →
    (s.arg.index ≠ 3 → s.arg.index ≠ 4 → exec .registerWrite s = .next s) ∧
    (s.arg.index = 4 → exec .registerWrite s = .next { s with regs := { s.regs with fwRecover := keep s.arg.value [(63, 12)] } })

/-- What the driver reads in BAR0 (R386, R387, R457, R471): zero but for 8 aligned bytes of the register range, zero at the alias and
at unassigned addresses, zero before start-up but for BOOT_STATUS, FW_CTL and FW_RECOVER, and otherwise the register's fields. -/
def barReads : Prop :=
  ∀ (s : State) (off n : Nat), let a := off / 8
    ((n ≠ 8 ∨ off % 8 ≠ 0 ∨ 0x80000 ≤ off) → s.readBar0 off n = 0#64) ∧
    (s.regs.stage ≠ 5 → (a < 2 ∨ 4 < a) → s.readBar0 off n = 0#64) ∧
    (0x7FE0 ≤ a → a < 0x8000 → s.readBar0 off n = 0#64) ∧
    ((a ∈ [5, 6, 7, 0xB, 0xC, 0xD, 0xE, 0xF, 0x17, 0x1A, 0x1B, 0x1D] ∨ (0x29 ≤ a ∧ a < 0x30) ∨ (0x39 ≤ a ∧ a < 0x40) ∨ (0x49 ≤ a ∧ a < 0x100) ∨
      (0x200 ≤ a ∧ a < 0x7FE0) ∨ (0x8000 ≤ a ∧ 23 ≤ a % 32)) → s.readBar0 off n = 0#64) ∧
    (n = 8 → off % 8 = 0 →
      (a = 2 → s.readBar0 off n = BitVec.ofNat 64 (s.regs.stage % 256 + s.regs.bootErr % 256 * 2 ^ 8 + s.regs.bootSlot % 2 * 2 ^ 16)) ∧
      (a = 4 → s.readBar0 off n = s.regs.fwRecover) ∧
      (s.regs.stage = 5 →
        (a = 0 → s.readBar0 off n = s.regs.devId) ∧ (a = 8 → s.readBar0 off n = s.regs.policy) ∧ (a = 9 → s.readBar0 off n = s.regs.trnGen) ∧
        (∀ c, c < 1024 → (a = 0x8000 + 32 * c + 1 → s.readBar0 off n = (s.ctx c).seed) ∧
          (a = 0x8000 + 32 * c + 9 → s.readBar0 off n = (s.ctx c).ptbase) ∧ (a = 0x8000 + 32 * c + 18 → s.readBar0 off n = (s.ctx c).handler))))

/-! ## Contexts (R461, R462) -/

/-- No plane of a context is anything but FREE, it holds no general colour and no record waits in its launch buffer. -/
def idleCtx (s : State) (c : Nat) : Prop :=
  (∀ q ∈ s.planes, q.2.ctx = c → q.2.st = .free) ∧ (∀ t ∈ s.tasks, t.1 < 4032 → t.2.ctx ≠ c) ∧ (s.ctx c).launches = []

/-- CTX_MAKE_LIVE, CTX_MAKE_OFF and CTX_CLEAR_FAILED: the write of CTX_STATUS.state has its effect in the state and under the
conditions of R461, with R462's resets, and is ignored otherwise. -/
def statusWrites : Prop :=
  ∀ (s : State) (c : Nat), s.arg.context.toNat = c → s.regs.stage = 5 →
    ((s.ctx c).state = 0 → exec .ctxMakeLive s = .next (s.setCtx c
      { s.ctx c with state := 1, fpflags := 0#5, depcount := 0, dephit := false, taken := 0#32, badCount := 0#32, lost := 0, fail := 0#64 })) ∧
    ((s.ctx c).state ≠ 0 → exec .ctxMakeLive s = .next s) ∧
    ((s.ctx c).state = 1 → idleCtx s c → exec .ctxMakeOff s = .next
      (s.setCtx c { s.ctx c with state := 0, handlerEntry := none, handlerOld := [], graphs := [] }).sweepTack) ∧
    (((s.ctx c).state ≠ 1 ∨ ¬ idleCtx s c) → exec .ctxMakeOff s = .next s) ∧
    ((s.ctx c).state = 2 → (s.ctx c).fail.getLsbD 63 = true →
      exec .ctxClearFailed s = .next (s.setCtx c { s.ctx c with state := 0 })) ∧
    (((s.ctx c).state ≠ 2 ∨ (s.ctx c).fail.getLsbD 63 = false) → exec .ctxClearFailed s = .next s)

/-- FPFLAGS_CLEAR (R134): every flag written as 1 is cleared in the context's word and in the word of each of its planes that
is not FREE; no other context's flags change. -/
def flagsClear : Prop :=
  ∀ (s : State) (c : Nat), s.arg.context.toNat = c → s.regs.stage = 5 → ∃ z : State, exec .fpflagsClear s = .next z ∧
    z.ctx c = { s.ctx c with fpflags := (s.ctx c).fpflags &&& ~~~(s.arg.value.setWidth 5) } ∧ (∀ d, d ≠ c → z.ctx d = s.ctx d) ∧
    (∀ p pl, s.plane? p = some pl → pl.ctx = c → pl.st ≠ .free →
      z.plane? p = some { pl with flags := pl.flags &&& ~~~(s.arg.value.setWidth 5) }) ∧
    (∀ p pl, s.plane? p = some pl → (pl.ctx ≠ c ∨ pl.st = .free) → z.plane? p = some pl)

/-- BINCTL_WRITE (R327): a write that would take the bins of the contexts of one die above 4,096 in all changes nothing; any
other empties the context's bins. SAVEAREA_WRITE (R446, R449) also lifts the block on lazy claims. -/
def areaWrites : Prop :=
  ∀ (s : State) (c : Nat) (v : W64), s.arg.context.toNat = c → s.arg.value = v → s.regs.stage = 5 →
    let others := ((s.ctxs.filter fun x => x.1 ≠ c ∧ wbits x.2.binctl 47 46 = wbits v 47 46).map fun x => wbits x.2.binctl 28 16).sum
    (others + wbits v 28 16 ≤ 4096 →
      exec .binctlWrite s = .next (s.setCtx c { s.ctx c with binctl := keep v [(63, 46), (28, 16), (14, 0)], bins := [] })) ∧
    (4096 < others + wbits v 28 16 → exec .binctlWrite s = .next s) ∧
    exec .saveareaWrite s = .next (s.setCtx c { s.ctx c with savearea := keep v [(63, 52), (39, 4)], noClaims := false })

/-! ## Registers whose write acts -/

/-- TACK_FLUSH (R109), TLB_INV_START and TLB_INV_DONE (R311): an invalidation removes the entries of the identifier that it
names, all of them or those whose page holds the 64 KiB page named; a walk of that address space begins again (R312). -/
def purges : Prop :=
  ∀ (s : State), s.regs.stage = 5 →
    exec .tackFlush s = .next { s with tack := s.tack.filter fun e => s.pinned e.1 } ∧
    (s.regs.tlbBusy = true → exec .tlbInvStart s = .next s) ∧
    (s.regs.tlbBusy = false → exec .tlbInvStart s =
      .next { s with regs := { s.regs with tlbBusy := true, tlbInv := keep s.arg.value [(62, 52), (39, 0)] } }) ∧
    (s.regs.tlbBusy = true → ∃ z : State, exec .tlbInvDone s = .next z ∧ z.regs = { s.regs with tlbBusy := false } ∧
      (∀ w ∈ z.walks, w.asid = wbits s.regs.tlbInv 61 52 → w.met = []) ∧
      ∀ e, e ∈ z.tlbs ↔ e ∈ s.tlbs ∧ ¬ (e.2.asid = wbits s.regs.tlbInv 61 52 ∧
        (s.regs.tlbInv.getLsbD 62 = true ∨ wbits s.regs.tlbInv 39 0 * 2 ^ 16 / 2 ^ e.2.bits = e.2.page)))

/-- ACT_BUDGET_WRITE (R417): for 64 cycles the old value may still serve. DIE_TIME_OFFSET_WRITE and DIE_TIME_RATE_WRITE
(R468): the offset is held until the rate of the same die is written and not 0, and both then apply together. -/
def pacingWrites : Prop :=
  ∀ (s : State) (v : W64), s.arg.value = v → s.regs.stage = 5 →
    let r := s.regs
    let pend (k : Nat) (old : W64) : List (Nat × W64 × Nat) :=
      (r.actPending.filter fun (w : Nat × W64 × Nat) => w.1 ≠ k) ++ [(k, old, s.cycle + 64)]
    (s.arg.index = 0 → exec .actBudgetWrite s =
      .next { s with regs := { r with actPending := pend 0 r.actBudget, actBudget := keep v [(23, 0)] } }) ∧
    (s.arg.index = 1 → exec .actBudgetWrite s = .next { s with regs := { r with actPending := pend 1 r.actLo, actLo := v } }) ∧
    (s.arg.index = 2 → exec .actBudgetWrite s = .next { s with regs := { r with actPending := pend 2 r.actHi, actHi := v } }) ∧
    (∀ d < 9, s.arg.index = d → exec .dieTimeOffsetWrite s =
      .next { s with regs := { r with heldOffsets := modifyAt r.heldOffsets d fun _ => v } }) ∧
    (v = 0#64 → exec .dieTimeRateWrite s = .next s) ∧
    (∀ d off, d < 9 → s.arg.index = d → v ≠ 0#64 → r.heldOffsets[d]? = some off → exec .dieTimeRateWrite s =
      .next { s with regs := { r with rates := modifyAt r.rates d fun _ => v, offsets := modifyAt r.offsets d fun _ => off } })

/-- The plane that SCAN_CTL selects by a tile's column and row is FROZEN. -/
def scansFrozen (s : State) : Prop :=
  ∃ kd ∈ s.pads, ∃ pl, kd.2.planes[wbits s.regs.scanCtl 49 48]? = some pl ∧ pl.st = .frozen ∧
    kd.2.x0 ≤ wbits s.regs.scanCtl 63 57 ∧ wbits s.regs.scanCtl 63 57 < kd.2.x0 + kd.2.w ∧
    kd.2.y0 ≤ wbits s.regs.scanCtl 56 50 ∧ wbits s.regs.scanCtl 56 50 < kd.2.y0 + kd.2.h

/-- SCAN_DATA_READ (R422, R474): the index rises by one, and a plane that is not FROZEN reads as zero. No plane changes. -/
def scans : Prop :=
  ∀ (s : State), s.regs.stage = 5 → ∃ (z : State) (v : W64), exec .scanDataRead s = .next z ∧
    z.regs = { s.regs with scanData := v, scanCtl := wset s.regs.scanCtl 31 0 (wbits s.regs.scanCtl 31 0 + 1) } ∧
    (¬ scansFrozen s → v = 0#64) ∧ z.pads = s.pads ∧ z.dram = s.dram ∧ z.tasks = s.tasks ∧ z.ctxs = s.ctxs

/-! ## Start-up and firmware (R471 to R473) -/

/-- The flash that a start-up finds: as it was left, or as the package came. -/
def flashOf (s : State) (f : Firmware) : Prop :=
  (s.firmware.known = true → f = s.firmware) ∧
  (s.firmware.known = false → f =
    { s.firmware with known := true, slotA := s.arg.boot.slotA, slotB := s.arg.boot.slotB, fused := s.arg.boot.fusedFloor })

/-- The security engine accepts an image at start-up: both signatures verify, and its generation reaches the fused floor. -/
def startable (f : Firmware) (i : FwImage) : Prop := i.sigOk = true ∧ f.fused.toNat ≤ i.generation.toNat

/-- The slot that start-up runs, true for B, and its image: the slot marked to be tried first where it is accepted, else the
other. -/
def startsFrom (f : Firmware) (slot : Bool) (i : FwImage) : Prop :=
  i = (if slot then f.slotB else f.slotA) ∧ startable f i ∧ (slot = f.first ∨ ¬ startable f (if f.first then f.slotB else f.slotA))

/-- The error that a start-up stops with, in the order of R471's steps; 0 for none. -/
def startError (b : BootFacts) : Nat :=
  if b.recordOk = false ∨ b.rows.length ≠ 4 ∨ (∃ r ∈ b.rows, 36 < r.toNat) then 2 else if b.steppings.getLsbD 0 = false then 5 else if b.diesOk = false then 3
  else if b.trainOk = false then 4 else 0

/-- What start-up leaves (R464, R468, R471): with flash f and package b, of a state s that only its host memory and links
matter of. -/
structure Started (s : State) (f : Firmware) (b : BootFacts) (z : State) : Prop where
  neither : ¬ startable f f.slotA → ¬ startable f f.slotB → z.regs.stage = 0xFF ∧ z.regs.bootErr = 1
  failed  : ∀ slot i, startsFrom f slot i → startError b ≠ 0 → z.regs.stage = 0xFF ∧ z.regs.bootErr = startError b
  runs    : ∀ slot i, startsFrom f slot i → startError b = 0 →
    z.regs.stage = 5 ∧ z.regs.bootErr = 0 ∧ z.regs.bootSlot = (if slot then 1 else 0) ∧ z.firmware.running = some slot ∧
    z.regs.genCurrent = i.generation ∧ z.regs.genFloor = i.floor ∧ wbits z.regs.devId 63 32 = 0x88000300 ∧
    wbits z.regs.devId 31 0 = b.serial.toNat ∧ (∀ d < 8, ∀ v, b.offsets[d]? = some v → z.regs.offsets[d]? = some v) ∧
    (∀ d < 8, ∀ v, b.rates[d]? = some v → z.regs.rates[d]? = some v) ∧ z.regs.offsets[8]? = some 0#64 ∧
    z.regs.rates[8]? = some 0x0001_0000_0000_0000#64 ∧ z.regs.policy = 0xFF#64 ∧ z.regs.actBudget = 3072#64 ∧
    z.regs.wdogExp = 24 ∧ z.regs.clkCur = 36
  contexts : ∀ c, z.ctx c = {}
  empty    : z.pads = [] ∧ z.tasks = [] ∧ z.tack = [] ∧ z.edges = [] ∧ z.tlbs = [] ∧ z.saves = []
  unmarked : z.dram.marks = [] ∧ z.store.marks = []
  flash    : z.firmware.slotA = f.slotA ∧ z.firmware.slotB = f.slotB ∧ z.firmware.fused = f.fused
  host     : z.host = s.host

/-- POWER_ON (R471). -/
def powersOn : Prop := ∀ (s : State) (f : Firmware), flashOf s f → ∃ z, exec .powerOn s = .next z ∧ Started s f s.arg.boot z

/-- FW_ACTIVATE (R472) on a running device: a refusal is reported; an image that both checks accept is written to the slot that
is not running, marked to be tried first, and its activation begins. While one runs the write is ignored. -/
def activatesFirmware : Prop :=
  ∀ (s : State) (i : FwImage), s.arg.image = i → s.regs.stage ≠ 0xFF →
    let addr := wbits s.arg.value 39 12
    let b : Bool := s.firmware.running = some false
    (s.regs.fwBusy = true → exec .fwActivate s = .next s) ∧
    (s.regs.fwBusy = false → i.sigOk = false →
      exec .fwActivate s = .next { s with regs := { s.regs with fwAddr := addr, fwResult := 2, fwBusy := false } }) ∧
    (s.regs.fwBusy = false → i.sigOk = true →
      (i.generation.toNat < s.firmware.fused.toNat ∨ i.generation.toNat ≤ s.regs.genCurrent.toNat) →
      exec .fwActivate s = .next { s with regs := { s.regs with fwAddr := addr, fwResult := 3, fwBusy := false } }) ∧
    (s.regs.fwBusy = false → startable s.firmware i → s.regs.genCurrent.toNat < i.generation.toNat →
      exec .fwActivate s = .next
        { s with
          regs := { s.regs with fwAddr := addr, fwBusy := true, fwResult := 0 }
          firmware := { s.firmware with slotA := if b then s.firmware.slotA else i, slotB := if b then i else s.firmware.slotB
                                        first := b, pending := some (b, i) } })

/-- FW_ACTIVATION (R105, R472): it waits while an entry of the tack store is being filled. Then the generations are the image's, every entry of the tack store is retiring or gone, and event 6
reports the new generation. -/
def firmwareActive : Prop :=
  ∀ (s : State) (slot : Bool) (i : FwImage), s.firmware.pending = some (slot, i) →
    ((∃ e ∈ s.tack, e.2.filling = true) → exec .fwActivation s = .next s) ∧
    ((∀ e ∈ s.tack, e.2.filling = false) → ∃ z : State,
    exec .fwActivation s = .next (z.sendEvent 6 0xFFFF i.generation.toNat) ∧
    z.regs = { s.regs with genCurrent := i.generation, genFloor := i.floor, fwBusy := false, fwResult := 1, bootSlot := if slot then 1 else 0 } ∧
    z.firmware = { s.firmware with pending := none, running := some slot } ∧
    (∀ e, e ∈ z.tack ↔ ∃ x ∈ s.tack, e = (x.1, { x.2 with retiring := true }) ∧ s.pinned x.1 = true) ∧
    z.pads = s.pads ∧ z.ctxs = s.ctxs ∧ z.tasks = s.tasks ∧ z.dram = s.dram)

/-- FW_RECOVERY (R473): on a device whose start-up failed with an error from 1 to 5, a verified image goes to slot A, to be tried
first, and the device restarts; a refused one leaves both slots and is reported. -/
def recovers : Prop :=
  ∀ (s : State) (i : FwImage), s.arg.image = i → s.regs.stage = 0xFF → s.regs.fwBusy = false → 1 ≤ s.regs.bootErr → s.regs.bootErr ≤ 5 →
    let addr := wbits s.arg.value 39 12
    (i.sigOk = false → exec .fwRecovery s = .next { s with regs := { s.regs with fwAddr := addr, fwResult := 2 } }) ∧
    (i.sigOk = true → i.generation.toNat < s.firmware.fused.toNat →
      exec .fwRecovery s = .next { s with regs := { s.regs with fwAddr := addr, fwResult := 3 } }) ∧
    (startable s.firmware i → ∃ z, exec .fwRecovery s = .next z ∧
      Started s { s.firmware with slotA := i, first := false } s.arg.boot z)

/-! ## Clock steps (R475), the host link (R385) -/

/-- At least n ticks of die 8 have passed since the last clock step. -/
def sinceStep (s : State) (n : Nat) : Prop := ∀ t, s.regs.clkAt = some t → t + n ≤ (s.dieTime 8).toNat

/-- The state after a clock step, before its event. -/
def stepped (s : State) (cur : Nat) (steps : W32) : State :=
  { s with regs := { s.regs with clkCur := cur, clkLow := min s.regs.clkLow cur, clkSteps := steps, clkAt := some (s.dieTime 8).toNat } }

/-- CLOCK_STEP_DOWN, CLOCK_STEP_UP and THERMAL_SHUTDOWN: a step is 100 MHz, no lower than 1.8 GHz at 10 µs and no higher than 3.6
GHz at 1 ms after the last one, and sends event 5; the shutdown after 1 s at 1.8 GHz leaves stage 0xFF with error 6. -/
def clockSteps : Prop :=
  ∀ (s : State), s.regs.stage = 5 →
    let cur := s.regs.clkCur
    (18 < cur → sinceStep s 10000 →
      exec .clockStepDown s = .next ((stepped s (cur - 1) (oneMore s.regs.clkSteps)).sendEvent 5 0xFFFF (cur - 1))) ∧
    ((cur ≤ 18 ∨ ¬ sinceStep s 10000) → exec .clockStepDown s = .next s) ∧
    (cur < 36 → sinceStep s 1000000 →
      exec .clockStepUp s = .next ((stepped s (cur + 1) s.regs.clkSteps).sendEvent 5 0xFFFF (cur + 1))) ∧
    ((36 ≤ cur ∨ ¬ sinceStep s 1000000) → exec .clockStepUp s = .next s) ∧
    (cur = 18 → sinceStep s 1000000000 → ∃ z : State, exec .thermalShutdown s = .next z ∧
      z.regs = { s.regs with stage := 0xFF, bootErr := 6 } ∧ z.dram = s.dram ∧ z.host = s.host) ∧
    ((cur ≠ 18 ∨ ¬ sinceStep s 1000000000) → exec .thermalShutdown s = .next s)

/-- HOST_LINK_UP (R385) and SPDM_REQUEST: the link takes a generation and width of R385; measurements are sent over a link that
is up. -/
def hostLink : Prop :=
  ∀ (s : State) (l : HostLink), s.arg.link = l →
    (l.pcie ∈ [5, 6, 7] → l.lanes ∈ [8, 16] → exec .hostLinkUp s = .next { s with link := some l }) ∧
    (∀ slot up, s.link = some up → s.firmware.running = some slot → exec .spdmRequest s = .next
      { s with sent := s.sent ++ [.measurements (if slot then s.firmware.slotB.digest else s.firmware.slotA.digest) s.regs.recordHash
        (s.regs.genFloor ++ s.regs.genCurrent)] })

end Sys2Proof.Claims
end

