-- ==== Sys2Proof/Claims/Memory.lean ====
section
/-! DEFINITION. What the memory nodes do: the accesses of one request each as a table, the streams, groups, generators
and servers as a relation between an instruction, where it fires, and what it takes, keeps and asks for (R271 to R334,
R358). -/

namespace Sys2Proof.Claims

open Sys2Proof.Machine

/-! ## Accesses of one request (R273, R276, R279, R287) -/

/-- An instruction, or a form of one, whose firing makes one access: the operands beside the address, whether one of them
may be a marker, the question of its probe, the access, whether it returns a value (and then passes markers and poison
through), whether its end-of-round markers are those of a rounded region, and its fields as the access takes them: a tok atomic has the
width of its channel (R287). -/
structure MemOp where
  make  : GArgs → Instr
  form  : GArgs → Bool := fun _ => true
  vals  : List Operand := []
  any   : Bool := false
  kind  : Nat
  size  : GArgs → Nat
  align : GArgs → Nat
  mode  : Nat := 0
  acc   : View → Access
  value : Bool
  rnd   : GArgs → Bool := fun _ => false
  dep   : Bool := false
  access : Nat := kind + 1
  seen  : Plane → Node → GArgs → GArgs := fun _ _ g => g

/-- What a firing reads, its fields as the access takes them. -/
def MemOp.view (c : MemOp) (s : State) (k : Nat) (pl : Plane) (n : Node) (g : GArgs) : View :=
  { nodeView s pl k n g with g := c.seen pl n g }

/-- The word of a value operand: none for poison, whose word is then written poisoned (R39). -/
def valueOf (v : View) (o : Operand) : Option W64 :=
  match v.head o with
  | some (.data x) => some x
  | some (.poison _) => none
  | some t => some t.payload
  | none => some 0#64

/-- The value of an atomic's b or c: 0 where the operand is not consumed, or is no data. -/
def atomVal (v : View) (o : Operand) : W64 := ((v.head o).map Token.val).getD 0#64

/-- An atomic (R287): its access poisons its word where b or c is poison (R291). -/
def atomOp (make : GArgs → Instr) (op : AtomOp) (vals : List Operand) (always : Bool) : MemOp where
  make := make
  vals := vals
  kind := 2
  size := fun g => g.ty.bytes
  align := fun g => g.ty.bytes
  acc := fun v =>
    let dead := vals.any fun o => (v.head o).any Token.isPoison
    .atomic op v.g.ty (atomVal v .b) (if op = .rd ∨ dead then none else some (atomVal v .c)) (always || v.g.opt.getLsbD 0)
  value := false
  rnd := fun g => g.opt.getLsbD 1
  seen := fun pl n g =>
    let wide := if op = .rd then n.outs.any fun d => (d.map pl.wide).getD false else n.c.wide
    if g.ty = .tok ∧ ¬ wide then { g with ty := .n32 } else g

/-- The instructions of one request. -/
def memOps : List MemOp :=
  [{ make := .ld, form := fun g => g.mode ≠ 2#3, kind := 0, size := fun g => accessBytes g.opt, align := fun g => accessBytes g.opt,
     acc := fun v => .load v.g.ty (accessBytes v.g.opt) (v.g.mode = 1#3), value := true },
   { make := .ld, form := fun g => g.mode = 2#3, kind := 0, size := fun _ => 1, align := fun _ => 1, mode := 1,
     acc := fun _ => .pop, value := true },
   { make := .st, form := fun g => g.mode ≠ 2#3, vals := [.c], kind := 1, size := fun g => accessBytes g.opt,
     align := fun g => accessBytes g.opt, acc := fun v => .store (accessBytes v.g.opt) (valueOf v .c) true, value := false },
   { make := .st, form := fun g => g.mode = 2#3, vals := [.c], any := true, kind := 1, size := fun _ => 1, align := fun _ => 1,
     mode := 1, acc := fun v => .push (v.c.getD .ord), value := false },
   { make := .ldfe, kind := 0, size := fun g => accessBytes g.opt, align := fun g => accessBytes g.opt,
     acc := fun v => .ldfe v.g.ty (accessBytes v.g.opt) (v.g.mode = 1#3), value := true },
   { make := .stfe, vals := [.c], kind := 1, size := fun g => accessBytes g.opt, align := fun g => accessBytes g.opt,
     acc := fun v => .stfe (accessBytes v.g.opt) (valueOf v .c) (v.g.mode = 1#3), value := false },
   { make := .feclr, kind := 1, size := fun _ => 1, align := fun _ => 1, acc := fun _ => .feclr, value := false },
   { make := .feset, kind := 1, size := fun _ => 1, align := fun _ => 1, acc := fun _ => .feset, value := false },
   { make := .fetest, kind := 0, size := fun _ => 1, align := fun _ => 1, acc := fun _ => .fetest, value := true },
   { make := .ldv, kind := 0, size := fun g => g.ty.bytes, align := fun g => g.ty.bytes,
     acc := fun v => .load v.g.ty v.g.ty.bytes false, value := true, dep := true },
   atomOp .aadd .add [.c] false, atomOp .amin .min [.c] false, atomOp .amax .max [.c] false, atomOp .aand .and [.c] false,
   atomOp .aor .or [.c] false, atomOp .axor .xor [.c] false, atomOp .axchg .xchg [.c] false, atomOp .acas .cas [.b, .c] true,
   atomOp .aincb .incb [.c] true, atomOp .afadd .fadd [.c] false, atomOp .aminp .minp [.c] false, atomOp .ard .rd [] true]

/-- Every operand that a firing takes. -/
def MemOp.ops (c : MemOp) (g : GArgs) : List Operand := addrOps g ++ c.vals

/-- The probe's question (R68, R270, R271). -/
def MemOp.ask (c : MemOp) (n : Node) (v : View) : Ask :=
  { space := v.g.space, va := v.addr, size := c.size v.g, align := c.align v.g, kind := c.kind, mode := c.mode,
    rnd := c.rnd v.g, cluster := some n.cluster }

/-- What a record says of a fault of a firing: the element index, the operands a, b and c, access kind and address
(R270, R308, R426). -/
def memInfo (v : View) (ops : List Operand) (cause : Nat) (access : Nat := 0) (va : W64 := 0#64) : FaultInfo :=
  { cause, access, iter := some [v.e], opv := some ([Operand.a, .b, .c].map (v.recorded ops)), vaddr := va }

/-- The request of an access. -/
def MemOp.request (c : MemOp) (s : State) (k : Nat) (pl : Plane) (n : Node) (v : View) (loc : Nat) : Request :=
  let x := (c.acc v).extent loc (c.size v.g)
  { id := 0, who := .node k, acc := c.acc v, space := v.g.space, addr := v.addr, loc := x.1, size := x.2, issued := s.cycle
    nth := n.fired.length, elem := v.e, round := if c.rnd v.g then n.rounds + 1 else 0, md := n.near, iter := some [v.e]
    opv := some ([Operand.a, .b, .c].map (v.recorded (c.ops v.g)))
    device := decide (2 ≤ v.g.space ∧ v.g.space ≤ 4) && ((s.tlbFind n.near pl.ctx v.addr.toNat (some n.cluster)).map (·.device)).getD false }

/-- The operands are ready for an access: the address is data; every other operand is data, or poison where its trap is
off, or where the instruction appends it as it is, any token (R39, R279). -/
def MemOp.readyFor (c : MemOp) (v : View) : Prop :=
  (∀ o ∈ addrOps v.g, ∃ x, v.head o = some (.data x)) ∧
  ∀ o ∈ c.vals, ∃ t, v.head o = some t ∧ (c.any = true ∨ (t.isMarker = false ∧ (t.isPoison = true → v.trapen.getLsbD 7 = false)))

/-- What its firing takes, and what it counts (R123, R354). -/
def MemOp.effect (c : MemOp) (g : GArgs) : Effect := { takes := takeOne (c.ops g), data := 1, counted := true }

/-- The state after a firing of the node takes its effect and its requests leave, in order. -/
def sends (s : State) (p : PlaneId) (k : Nat) (pl : Plane) (n : Node) (dep : Bool) (e : Effect) (rs : List Request) : State :=
  let t := (commitEffect s p k n e).addRequests p rs
  if dep then countDeprecated t pl.ctx else t

/-- An access whose probe passes: the operands leave and the request goes to its home; one to a peer keeps its operands
marked until the peer has answered (R314). -/
def MemOp.accesses (c : MemOp) : Prop :=
  ∀ (g : GArgs) (s : State) (p : PlaneId) (k : Nat) (pl : Plane) (n : Node) (loc : Nat),
    let v := c.view s k pl n g
    let t := s.admittedMem p n (c.make g)
    c.form g = true → MemTurn s p k pl n g (c.make g) → c.readyFor v → s.probe pl n.near (c.ask n v) = .ok loc →
    (g.space ≠ 5 → exec (c.make g) s = .next (sends t p k pl n c.dep (c.effect g) [c.request s k pl n v loc])) ∧
    (g.space = 5 → c.rnd g = false → exec (c.make g) s = .next ((t.setCharged p k false).startPeer p pl.ctx (.node k)
      { c.request s k pl n v loc with takes := takeOne (c.ops g), data := 1, counted := true }))

/-- An access to a peer while earlier firings of the node still await their answers (R300, R314): it reads what these will leave, and its
request follows theirs. -/
def MemOp.pipelines (c : MemOp) : Prop :=
  ∀ (g : GArgs) (s : State) (p : PlaneId) (k : Nat) (pl : Plane) (n : Node) (loc : Nat),
    let n' := pl.ahead k n
    let v := c.view s k pl n' g
    c.form g = true → MemStep s p k pl n g (c.make g) → c.readyFor v → s.probe pl n'.near (c.ask n' v) = .ok loc →
    g.space = 5 → c.rnd g = false →
    exec (c.make g) s = .next (((s.admittedMem p n' (c.make g)).setCharged p k false).startPeer p pl.ctx (.node k)
      { c.request s k pl n' v loc with takes := takeOne (c.ops g), data := 1, counted := true })

/-- An access whose probe faults is a fault with its kind and address; one whose probe misses waits for a walk of the
tables (R308, R309). In neither case does anything leave an operand. A fault outside tile space is the near die's (R20). -/
def MemOp.probes (c : MemOp) : Prop :=
  ∀ (g : GArgs) (s : State) (p : PlaneId) (k : Nat) (pl : Plane) (n : Node),
    let v := c.view s k pl n g
    let t := s.admittedMem p n (c.make g)
    c.form g = true → MemTurn s p k pl n g (c.make g) → c.readyFor v →
    (∀ cause, s.probe pl n.near (c.ask n v) = .fault cause →
      exec (c.make g) s = .next ((t.setCharged p k n.st.midway).detectFault p (some (.node k))
        { memInfo v (c.ops g) cause c.access v.addr with md := probeDie g.space n.near })) ∧
    (s.probe pl n.near (c.ask n v) = .miss →
      exec (c.make g) s = .next { t.setCharged p k true with walks := t.walks ++
        [{ asid := pl.ctx, va := v.addr, md := n.near, space := g.space, write := decide (c.kind ≥ 1), atomic := decide (c.kind = 2)
           plane := some p, who := some (.node k), size := c.align v.g, iter := some [v.e]
           opv := some ([Operand.a, .b, .c].map (v.recorded (c.ops g))), access := c.access, since := s.cycle, cluster := some n.cluster }] })

/-- Tokens that leave a node in their turn behind the replies of its earlier requests (R37, R41). -/
def inTurn (s : State) (k : Nat) (n : Node) (es : List (Nat × Token)) : Request :=
  { id := 0, who := .node k, acc := .pass es, space := 0, addr := 0#64, loc := 0, size := 0, issued := s.cycle,
    nth := n.fired.length, done := true, replies := es }

/-- Where a marker leaves a memory node: on both targets with a value's replies; a node that returns acknowledgments is
its sink (R41, R42, R273). -/
def markerOut (returns : Bool) (m : Token) : List (Nat × Token) :=
  if returns then [(0, m), (1, m)] else if m.level ≥ 6 then [(sinkTarget, m)] else []

/-- The instruction's replies carry data. -/
def MemOp.returns (c : MemOp) (v : View) : Bool :=
  c.value || match c.acc v with | .atomic _ _ _ _ r => r | _ => false

/-- Markers at the operands of an access (R38, R40, R273, R293). -/
def MemOp.marks (c : MemOp) : Prop :=
  ∀ (g : GArgs) (s : State) (p : PlaneId) (k : Nat) (pl : Plane) (n : Node) (hs : List Token),
    let v := c.view s k pl n g
    let t := s.admittedMem p n (c.make g)
    c.form g = true → MemTurn s p k pl n g (c.make g) → (c.ops g).map v.head = hs.map some →
    (c.any = true → (hs.take (addrOps g).length).any Token.isMarker = true →
      exec (c.make g) s = .next ((t.setCharged p k n.st.midway).detectFault p (some (.node k)) (memInfo v (c.ops g) 0x51))) ∧
    (c.any = false →
    (∀ m, hs.all Token.isMarker = true → joinMarkers hs = some m → (c.rnd g = false ∨ m.level < 4) →
      exec (c.make g) s = .next (sends t p k pl n c.dep { takes := takeOne (c.ops g) } [inTurn s k n (markerOut (c.returns v) m)])) ∧
    (∀ m, hs.all Token.isMarker = true → joinMarkers hs = some m → c.rnd g = true → m.level ≥ 4 → m.round ≠ n.round →
      exec (c.make g) s = .next ((t.setCharged p k n.st.midway).detectFault p (some (.node k)) (memInfo v (c.ops g) 0x51))) ∧
    (∀ m, hs.all Token.isMarker = true → joinMarkers hs = some m → c.rnd g = true → m.level ≥ 4 → m.round = n.round →
      exec (c.make g) s = .next ((sends t p k pl n c.dep { takes := takeOne (c.ops g), round := some (n.round + 1#8) }
        [{ inTurn s k n (markerOut (c.returns v) m) with
             acc := .close m (markerOut (c.returns v) m), round := n.rounds + 1, iter := some [v.e]
             opv := some ([Operand.a, .b, .c].map (v.recorded (c.ops g))) }]).modPlane p
          (·.modNode k fun n => { n with rounds := n.rounds + 1 }))) ∧
    (hs.any Token.isMarker = true → (hs.all Token.isMarker = false ∨ joinMarkers hs = none) →
      exec (c.make g) s = .next ((t.setCharged p k n.st.midway).detectFault p (some (.node k)) (memInfo v (c.ops g) 0x51))))

/-- Poison at the operands of an access (R38, R39): a read of a poison address passes it or traps; a write, an atomic or a
full-empty change at a poison address always faults; a poison value faults where its trap is on. -/
def MemOp.poisons (c : MemOp) : Prop :=
  ∀ (g : GArgs) (s : State) (p : PlaneId) (k : Nat) (pl : Plane) (n : Node) (hs : List Token),
    let v := c.view s k pl n g
    let t := s.admittedMem p n (c.make g)
    c.form g = true → MemTurn s p k pl n g (c.make g) → (c.ops g).map v.head = hs.map some →
    (hs.take (addrOps g).length).any Token.isMarker = false → (c.any = true ∨ hs.any Token.isMarker = false) →
    (∀ q, c.value = true → hs.find? Token.isPoison = some q → v.trapen.getLsbD 7 = false →
      exec (c.make g) s = .next (sends t p k pl n c.dep
        { takes := takeOne (c.ops g), data := if (v.a.map Token.isData).getD false then 1 else 0, counted := true }
        [inTurn s k n [(0, q), (1, q)]])) ∧
    ((c.value = true ∧ hs.any Token.isPoison = true ∧ v.trapen.getLsbD 7 = true ∨
        c.value = false ∧ ((hs.take (addrOps g).length).any Token.isPoison = true ∨
          c.any = false ∧ hs.any Token.isPoison = true ∧ v.trapen.getLsbD 7 = true)) →
      exec (c.make g) s = .next ((t.setCharged p k n.st.midway).detectFault p (some (.node k)) (memInfo v (c.ops g) 0x30)))

end Sys2Proof.Claims
end

