-- ==== Sys2Proof/Claims/Homes.lean ====
section
/-! DEFINITION. What becomes of a firing that has issued and of a request that has left: completion (R141), the access at its
home (R264, R273 to R279, R288 to R291, R353), replies in their turn (R300), the rounds of rounded regions (R293), walks
(R309), timeouts (R442), and the copies of host lines (R363). -/

namespace Sys2Proof.Claims

open Sys2Proof.Machine

/-! ## Memory (R4, R264) -/

/-- A word w of four bytes lies wholly among n bytes at x, or shares a byte with them. -/
def inside (w x n : Nat) : Prop := x ≤ 4 * w ∧ 4 * w + 4 ≤ x + n
def meets (w x n : Nat) : Prop := 4 * w < x + n ∧ x < 4 * w + 4

/-- A write of bytes changes those bytes alone and clears the marks of whole words alone; a write of poison marks every word
that it touches and changes no byte (R264). -/
def memoryWrites : Prop :=
  ∀ (m : Memory) (x : Nat) (bs : List Byte) (n : Nat),
    (m.wf → ∀ a, (m.write x bs).byte a = if x ≤ a ∧ a < x + bs.length then (bs[a - x]?).getD 0#8 else m.byte a) ∧
    (∀ w, w ∈ (m.write x bs).marks ↔ w ∈ m.marks ∧ ¬ (bs ≠ [] ∧ inside w x bs.length)) ∧
    (∀ a, (m.writePoison x n).byte a = m.byte a) ∧
    (∀ w, w ∈ (m.writePoison x n).marks ↔ w ∈ m.marks ∨ (n ≠ 0 ∧ meets w x n))

/-- The value that a read of n bytes gives: poison 0x31 where a word that it touches is marked, otherwise the bytes, the
lowest address least significant, extended with their sign for i32 and i64 and with zeros otherwise (R264, R273). -/
def readsAs (m : Memory) (x n : Nat) (ty : Ty) (t : Token) : Prop :=
  (n ≠ 0 ∧ (∃ w ∈ m.marks, meets w x n) ∧ t = .poison 0x31#8) ∨
  (n ≠ 0 ∧ (∀ w ∈ m.marks, ¬ meets w x n) ∧ ∃ v : W64, t = .data v ∧
    (∀ i < n, v.extractLsb' (8 * i) 8 = m.byte (x + i)) ∧
    (∀ i, 8 * n ≤ i → i < tyWidth ty → v.getLsbD i = (decide (ty = .i32 ∨ ty = .i64) && v.getLsbD (8 * n - 1))) ∧
    ∀ i, 8 * n ≤ i → tyWidth ty ≤ i → v.getLsbD i = false)

/-- Reads of 1, 2, 4 and 8 bytes as the types they serve (R68). -/
def memoryReads : Prop :=
  ∀ (m : Memory) (x n : Nat) (ty : Ty), (n = 1 ∨ n = 2 ∨ n = 4 ∨ n = 8) → 8 * n ≤ tyWidth ty →
    readsAs m x n ty (loadToken ty n (m.readWord x n))

/-! ## Answers -/

/-- Request r of plane p is answered: its reply waits its turn, or is discarded where it has timed out. -/
def answered (s : State) (p : PlaneId) (r : Request) (out : List (Nat × Token)) (flags : FpFlags := 0#5) : State :=
  s.modPlane p fun q => { q with
    flags := q.flags ||| flags
    reqs := if r.lost then q.reqs.filter fun x => x.id ≠ r.id
      else q.reqs.map fun x => if x.id = r.id then { x with done := true, parked := none, held := false, replies := x.reply out } else x }

/-- A request may perform: its turn has come in issue order, wave order and its round (R274, R293, R300, R354), and it finds its
lines in the port cache of their home, or request slots to fill them, which leaves state t (R299, R305). -/
structure HomeTurn (s : State) (pl : Plane) (r : Request) (t : State) : Prop where
  local_ : s.arg.other ≠ 1
  plane  : s.plane? s.arg.plane = some pl
  found  : pl.reqs.find? (fun r => r.id = s.arg.index) = some r
  fresh  : r.done = false ∧ r.timed = false ∧ r.parked = none
  notChild : ∀ k, r.acc ≠ .child k
  here   : r.space ≠ 5
  held   : pl.st ≠ .free
  turn   : pl.mustWait s.cycle r = false
  slot   : s.takeSlot s.arg.plane r = some t

/-- The new word of an atomic (R288): `old` and the operands b and c. -/
def atomNew (op : AtomOp) (ty : Ty) (policy : BitVec 8) (old b c : W64) : W64 × FpFlags :=
  let x := tyVal ty old
  let y := tyVal ty c
  match op with
  | .add => (tyWrap ty (x + y), 0#5)
  | .min => (if x ≤ y then old else c, 0#5)
  | .max => (if y ≤ x then old else c, 0#5)
  | .and => (old &&& c, 0#5)
  | .or => (old ||| c, 0#5)
  | .xor => (old ^^^ c, 0#5)
  | .xchg => (c, 0#5)
  | .cas => (if old = b then c else old, 0#5)
  | .incb => (if x < y then tyWrap ty (x + 1) else old, 0#5)
  | .fadd =>
    let r := fpAdd (fmtOf ty) (.ofPolicy policy 0) old.toNat c.toNat
    (BitVec.ofNat 64 r.1, r.2)
  | .minp => (if old.toNat ≤ c.toNat then old else c, 0#5)
  | .rd => (old, 0#5)

/-- Words of n bytes of a number, the lowest first. -/
def littleEndian (n : Nat) (v : W64) : List Byte := (List.range n).map fun i => v.extractLsb' (8 * i) 8

/-- Loads, stores and atomics at a memory: the memory after the access, the reply and the flags. -/
inductive AtMemory (policy : BitVec 8) (m : Memory) (loc : Nat) : Access → Memory → List (Nat × Token) → FpFlags → Prop
  | load {ty : Ty} {n : Nat} {acq : Bool} {t : Token} : readsAs m loc n ty t →
      AtMemory policy m loc (.load ty n acq) m [(0, t), (1, t)] 0#5
  | store {n : Nat} {v : W64} {ack : Bool} :
      AtMemory policy m loc (.store n (some v) ack) (m.write loc (littleEndian n v)) (if ack then [(0, .ord)] else []) 0#5
  | storePoison {n : Nat} {ack : Bool} :
      AtMemory policy m loc (.store n none ack) (m.writePoison loc n) (if ack then [(0, .ord)] else []) 0#5
  | read {ty : Ty} {b : W64} {c : Option W64} {returns : Bool} {t : Token} : readsAs m loc ty.bytes ty t →
      AtMemory policy m loc (.atomic .rd ty b c returns) m (if returns then [(0, t), (1, t)] else [(0, .ord)]) 0#5
  | atomic {op : AtomOp} {ty : Ty} {b c old : W64} {returns : Bool} : op ≠ .rd → readsAs m loc ty.bytes ty (.data old) →
      AtMemory policy m loc (.atomic op ty b (some c) returns)
        (m.write loc (littleEndian ty.bytes (atomNew op ty policy old b c).1))
        (if returns then [(0, .data old), (1, .data old)] else [(0, .ord)]) (atomNew op ty policy old b c).2
  | atomicDead {op : AtomOp} {ty : Ty} {b old : W64} {returns : Bool} : op ≠ .rd → readsAs m loc ty.bytes ty (.data old) →
      AtMemory policy m loc (.atomic op ty b none returns) (m.writePoison loc ty.bytes)
        (if returns then [(0, .data old), (1, .data old)] else [(0, .ord)]) 0#5
  | atomicPoison {op : AtomOp} {ty : Ty} {b : W64} {c : Option W64} {returns : Bool} {q : BitVec 8} : op ≠ .rd →
      readsAs m loc ty.bytes ty (.poison q) →
      AtMemory policy m loc (.atomic op ty b c returns) m
        (if returns then [(0, .poison q), (1, .poison q)] else [(0, .ord)]) 0#5

/-- HOME_PERFORM of a load, store or atomic in the port store or in device memory (R353): its memory changes as the access
gives and the request is answered. -/
def homeExternal : Prop :=
  ∀ (s : State) (pl : Plane) (r : Request) (t : State) (m : Memory) (out : List (Nat × Token)) (flags : FpFlags),
    HomeTurn s pl r t →
    (r.space = 1 → AtMemory (pl.policyOf r.who) s.store r.loc r.acc m out flags →
      exec .homePerform s = .next (answered { t with store := m } s.arg.plane r out flags)) ∧
    (r.space = 2 ∨ r.space = 3 → AtMemory (pl.policyOf r.who) s.dram r.loc r.acc m out flags →
      exec .homePerform s = .next (answered { t with dram := m } s.arg.plane r out flags))

/-! ## Memory tiles (R275 to R279) -/

/-- Granule of a place, and its bit. -/
def fullAt (pl : Plane) (loc : Nat) : Prop := loc / 16 ∈ pl.full
def setFull (full : List Nat) (loc : Nat) : List Nat := full.filter (· < loc / 16) ++ loc / 16 :: full.filter (· > loc / 16)
def setEmpty (full : List Nat) (loc : Nat) : List Nat := full.filter (· ≠ loc / 16)

/-- The entries of the FIFO of a place, and how many it has room for. -/
def fifoAt (pl : Plane) (loc : Nat) : List Token := (mapGet pl.fifos loc).getD []
def fifoSize (pl : Plane) (loc : Nat) : Nat := ((pl.tiles[loc / 2 ^ 18]?).map fun t => t.bytes / 1024 * 128).getD 0

/-- An access at a memory tile: the SRAM, the full-empty bits and the FIFOs after it, its reply and flags. -/
inductive AtTile (pl : Plane) (policy : BitVec 8) (loc : Nat) :
    Access → Memory → List Nat → Map (List Token) → List (Nat × Token) → FpFlags → Prop
  | plain {a : Access} {m : Memory} {out : List (Nat × Token)} {flags : FpFlags} : AtMemory policy pl.sram loc a m out flags →
      AtTile pl policy loc a m pl.full pl.fifos out flags
  | ldfe {ty : Ty} {n : Nat} {clr : Bool} {t : Token} : fullAt pl loc → readsAs pl.sram loc n ty t →
      AtTile pl policy loc (.ldfe ty n clr) pl.sram (if clr then setEmpty pl.full loc else pl.full) pl.fifos [(0, t), (1, t)] 0#5
  | stfe {n : Nat} {v : W64} {force : Bool} : (force = true ∨ ¬ fullAt pl loc) →
      AtTile pl policy loc (.stfe n (some v) force) (pl.sram.write loc (littleEndian n v)) (setFull pl.full loc) pl.fifos
        [(0, .ord)] 0#5
  | stfePoison {n : Nat} {force : Bool} : (force = true ∨ ¬ fullAt pl loc) →
      AtTile pl policy loc (.stfe n none force) (pl.sram.writePoison loc n) (setFull pl.full loc) pl.fifos [(0, .ord)] 0#5
  | feclr : AtTile pl policy loc .feclr pl.sram (setEmpty pl.full loc) pl.fifos [(0, .ord)] 0#5
  | feset : AtTile pl policy loc .feset pl.sram (setFull pl.full loc) pl.fifos [(0, .ord)] 0#5
  | fetest {t : Token} : (fullAt pl loc ∧ t = .data 1#64 ∨ ¬ fullAt pl loc ∧ t = .data 0#64) →
      AtTile pl policy loc .fetest pl.sram pl.full pl.fifos [(0, t), (1, t)] 0#5
  | push {t : Token} : (fifoAt pl loc).length < fifoSize pl loc →
      AtTile pl policy loc (.push t) pl.sram pl.full (mapSet pl.fifos loc (fifoAt pl loc ++ [t])) [(0, .ord)] 0#5
  | pop {t : Token} {q : List Token} : fifoAt pl loc = t :: q →
      AtTile pl policy loc .pop pl.sram pl.full (mapSet pl.fifos loc q) [(0, t), (1, t)] 0#5

/-- An access whose condition does not hold: an LDFE of an empty granule, an STFE that is not forced of a full one, a push to a
full FIFO, a pop from an empty one. -/
inductive Parks (pl : Plane) (loc : Nat) : Access → Prop
  | ldfe {ty : Ty} {n : Nat} {clr : Bool} : ¬ fullAt pl loc → Parks pl loc (.ldfe ty n clr)
  | stfe {n : Nat} {v : Option W64} : fullAt pl loc → Parks pl loc (.stfe n v false)
  | push {t : Token} : fifoSize pl loc ≤ (fifoAt pl loc).length → Parks pl loc (.push t)
  | pop : fifoAt pl loc = [] → Parks pl loc .pop

/-- The plane after one access of request r at its tile. -/
def tiled (pl : Plane) (r : Request) (m : Memory) (full : List Nat) (fifos : Map (List Token)) (out : List (Nat × Token))
    (flags : FpFlags) : Plane :=
  { pl with
    sram := m, full, fifos, flags := pl.flags ||| flags
    reqs := if r.lost then pl.reqs.filter fun x => x.id ≠ r.id
      else pl.reqs.map fun x => if x.id = r.id then { x with done := true, parked := none, held := false, replies := x.reply out } else x }

/-- The requests that wait parked at a granule of tile space. -/
def parkedAt (pl : Plane) (loc : Nat) : List Request :=
  pl.reqs.filter fun r => r.parked.isSome ∧ r.round = 0 ∧ r.space = 0 ∧ r.loc / 16 = loc / 16

/-- The places that a request reaches, its own at the least. -/
def reaches (r : Request) (x : Nat) : Prop := r.loc ≤ x ∧ x < r.loc + max r.size 1

/-- HOME_PERFORM in tile space: the access performs; where it leaves the bit and the FIFO as they were, or nothing waits at
the granule, that is all. Where its condition does not hold it parks, or waits for one of the tile's 16 places (R276 to
R279). -/
def homeTile : Prop :=
  ∀ (s : State) (pl : Plane) (r : Request) (t : State), HomeTurn s pl r t → r.space = 0 →
    (∀ m full fifos out flags, AtTile pl (pl.policyOf r.who) r.loc r.acc m full fifos out flags →
      ((full = pl.full ∧ fifos = pl.fifos) ∨ ∀ x, reaches r x → parkedAt pl x = []) →
      exec .homePerform s = .next (s.setPlane s.arg.plane (tiled pl r m full fifos out flags))) ∧
    (Parks pl r.loc r.acc → pl.parkedIn (r.loc / 2 ^ 18) < 16 →
      exec .homePerform s = .next { s.modPlane s.arg.plane (fun q => { q with reqs := q.reqs.map fun x =>
        if x.id = r.id then { x with parked := some s.nextId, held := false } else x }) with nextId := s.nextId + 1 }) ∧
    (Parks pl r.loc r.acc → 16 ≤ pl.parkedIn (r.loc / 2 ^ 18) →
      exec .homePerform s = .next (s.modPlane s.arg.plane fun q => { q with reqs := q.reqs.map fun x =>
        if x.id = r.id then { x with held := true } else x }))

/-- An access that changes the bit or the FIFO of a granule at which one request waits: where the request's condition then
holds, it performs before any other access (R277). -/
def wakesParked : Prop :=
  ∀ (s : State) (pl : Plane) (r q : Request) (t : State) (m m' : Memory) (full full' : List Nat) (fifos fifos' : Map (List Token))
    (out out' : List (Nat × Token)) (flags flags' : FpFlags), HomeTurn s pl r t → r.space = 0 → parkedAt pl r.loc = [q] → q.id ≠ r.id →
    (∀ x, reaches r x → x / 16 = r.loc / 16) →
    (∀ x ∈ pl.reqs, x.id = q.id → x = q) → r.lost = false → q.lost = false →
    AtTile pl (pl.policyOf r.who) r.loc r.acc m full fifos out flags → (full ≠ pl.full ∨ fifos ≠ pl.fifos) →
    AtTile (tiled pl r m full fifos out flags) (pl.policyOf q.who) q.loc q.acc m' full' fifos' out' flags' →
    exec .homePerform s = .next (s.setPlane s.arg.plane
      (tiled (tiled pl r m full fifos out flags) q m' full' fifos' out' flags'))

/-! ## Host memory (R313, R363) -/

/-- The copy of a line that a die's part of the system cache may still show. -/
def copyOf (s : State) (md line : Nat) (c : HostCopy) : Prop :=
  s.copies.find? (fun c => decide (c.md = md ∧ c.line = line) && match c.since with | none => true | some t => decide (s.cycle < t + 2 ^ 20)) =
    some c

/-- The bytes of a copy as memory at their host addresses. -/
def copyMemory (c : HostCopy) : Memory := { ({} : Memory).put (128 * c.line) c.bytes with marks := c.marks }

/-- A new copy of a line as host memory stands: a line with a word of poisoned data is poison in every word (R301). -/
def newCopy (s : State) (md line : Nat) : HostCopy :=
  { md, line, bytes := (List.range 128).map fun i => s.host.byte (128 * line + i)
    marks := if s.host.marks.any (fun w => w / 32 = line) then (List.range 32).map (· + 32 * line) else [] }

/-- What a read of n bytes of host memory gives: poison where a line that it touches has a word of poisoned data (R301). -/
def hostReads (m : Memory) (x n : Nat) (ty : Ty) (t : Token) : Prop :=
  let bad := ∃ w ∈ m.marks, x / 128 ≤ w / 32 ∧ w / 32 ≤ (x + n - 1) / 128
  (n ≠ 0 ∧ bad ∧ t = .poison 0x31#8) ∨ (¬ bad ∧ readsAs m x n ty t)

/-- The copies with a new one, which takes the place of its die's copy of the line, and of the oldest where 32 MiB are held (R22). -/
def withCopy (s : State) (md line : Nat) : List HostCopy :=
  (newCopy s md line :: s.copies.filter fun c => ¬ (c.md = md ∧ c.line = line)).take (2 ^ 18)

/-- The line is copied where its page is of normal type and the link has CXL. -/
def caches (s : State) (r : Request) : Prop := r.device = false ∧ ∃ l, s.link = some l ∧ l.cxl = true

/-- HOME_PERFORM in host memory. A plain load is served from its die's copy where there is one, and otherwise from host
memory, whose line is then copied; a load that acquires bypasses the copies. A store changes host memory and its own die's
copy at once; the other copies are out of date from then on. -/
def homeHost : Prop :=
  ∀ (s : State) (pl : Plane) (r : Request) (t : State), HomeTurn s pl r t → r.space = 4 →
    let line := r.loc / 128
    let both (x : Token) : List (Nat × Token) := [(0, x), (1, x)]
    (∀ ty n c x, r.acc = .load ty n false → copyOf s r.md line c → readsAs (copyMemory c) r.loc n ty x →
      exec .homePerform s = .next (answered t s.arg.plane r (both x))) ∧
    (∀ ty n x, r.acc = .load ty n false → (∀ c, ¬ copyOf s r.md line c) → caches s r → hostReads s.host r.loc n ty x →
      exec .homePerform s = .next (answered { t with copies := withCopy s r.md line } s.arg.plane r (both x))) ∧
    (∀ ty n x, r.acc = .load ty n false → (∀ c, ¬ copyOf s r.md line c) → ¬ caches s r → hostReads s.host r.loc n ty x →
      exec .homePerform s = .next (answered t s.arg.plane r (both x))) ∧
    (∀ ty n x, r.acc = .load ty n true → hostReads s.host r.loc n ty x →
      exec .homePerform s = .next (answered t s.arg.plane r (both x))) ∧
    (∀ n v ack, r.acc = .store n (some v) ack → ∃ z : State,
      exec .homePerform s = .next (answered z s.arg.plane r (if ack then [(0, .ord)] else [])) ∧
      z.host = s.host.write r.loc (littleEndian n v) ∧ z.dram = s.dram ∧ z.store = s.store ∧ z.pads = s.pads ∧
      z.copies = s.copies.map fun c =>
        if c.line ≠ line then c
        else if c.md = r.md then newCopy z c.md line
        else { c with since := some (c.since.getD s.cycle) })

/-! ## Fences, servers and waits -/

/-- A request whose turn has not come is held, or takes a place in its tile's collection buffer where it is its round that has not come
and a place is free (R293); one that finds no slot joins those that wait for one, in order (R274, R299, R354). -/
def homeWaits : Prop :=
  ∀ (s : State) (pl : Plane) (r : Request), s.arg.other ≠ 1 → s.plane? s.arg.plane = some pl →
    pl.reqs.find? (fun r => r.id = s.arg.index) = some r → r.done = false → r.timed = false → r.parked = none →
    (∀ k, r.acc ≠ .child k) → r.space ≠ 5 → pl.st ≠ .free →
    let collects := pl.roundHeld r = true ∧ pl.collectedIn (r.loc / 2 ^ 18) < 512
    (pl.mustWait s.cycle r = true → ¬ collects → exec .homePerform s = .next (s.modPlane s.arg.plane fun q =>
      { q with reqs := q.reqs.map fun x => if x.id = r.id then { x with held := true } else x })) ∧
    (pl.mustWait s.cycle r = true → collects → exec .homePerform s = .next { s.modPlane s.arg.plane (fun q =>
      { q with reqs := q.reqs.map fun x => if x.id = r.id then { x with parked := some s.nextId, held := false } else x }) with
        nextId := s.nextId + 1 }) ∧
    (pl.mustWait s.cycle r = false → s.takeSlot s.arg.plane r = none → ∃ z : State,
      exec .homePerform s = .next z ∧ z = { s with slotQueues := z.slotQueues } ∧
      ∀ l ∈ r.cacheUse.1, SlotWaiter.request s.arg.plane r.id ∈ z.slotQueue l)

/-- A line of device memory that its port cache holds needs no slot; one that it does not hold, of normal type and with no other miss
ahead of it, takes one slot of its home's pool and is held from then on, with a second slot for a dirty line that it puts out
(R299, R305). -/
def linesCached : Prop :=
  ∀ (s : State) (who : SlotWaiter) (u : CacheUse) (line : Nat),
    let lp := (homeOf (128 * line)).2
    let md := (homeOf (128 * line)).1
    let held (z : State) : Prop := ∃ c ∈ z.cacheSetOf line, c.line = line
    (held s → ∃ z : State, s.cacheLine who u line = some z ∧ held z ∧ z = { s with caches := z.caches }) ∧
    (¬ held s → s.slotQueue line = [] → u.device = false → (s.cacheSetOf line).length < 16 → s.slotsUsed lp md < slotsMax lp →
      md < (if lp then s.slotsLp else s.slotsHbm).length →
      ∃ z : State, s.cacheLine who u line = some z ∧ held z ∧ z.slotsUsed lp md = s.slotsUsed lp md + 1) ∧
    (¬ held s → slotsMax lp ≤ s.slotsUsed lp md → s.cacheLine who u line = none)

/-- A fence's instant answers it (R358); a range server takes its range, gives its next chunk, or says that it is exhausted
with a marker of level 7 (R332). -/
def homeServers : Prop :=
  ∀ (s : State) (pl : Plane) (r : Request) (t : State), HomeTurn s pl r t →
    (∀ scope, r.acc = .fence scope → exec .homePerform s = .next (answered t s.arg.plane r [(0, .ord)])) ∧
    (∀ k lo hi v, r.acc = .rangeInit k lo hi → pl.servers.find? (fun v => v.range = k) = some v →
      exec .homePerform s = .next (answered (t.modPlane s.arg.plane fun q =>
        { q with servers := q.servers.map fun x => if x.range = v.range then { v with next := lo, hi := hi } else x }) s.arg.plane r
        [(0, .ord)])) ∧
    (∀ k chunk ty v, r.acc = .rangePull k chunk ty → pl.servers.find? (fun v => v.range = k) = some v → v.next < v.hi →
      exec .homePerform s = .next (answered (t.modPlane s.arg.plane fun q =>
        { q with servers := q.servers.map fun x => if x.range = v.range then { v with next := min (v.next + chunk) v.hi } else x })
        s.arg.plane r [(0, .data (tyWrap ty v.next)), (1, .data (tyWrap ty (min (v.next + chunk) v.hi)))])) ∧
    (∀ k chunk ty v, r.acc = .rangePull k chunk ty → pl.servers.find? (fun v => v.range = k) = some v → v.hi ≤ v.next →
      exec .homePerform s = .next (answered (t.modPlane s.arg.plane fun q =>
        { q with servers := q.servers.map fun x => if x.range = v.range then v else x })
        s.arg.plane r [(0, .marker 7#3 0#8 0#8), (1, .marker 7#3 0#8 0#8)]))

/-- A record is appended to its bin, with its round and rank in rounded mode; where the bin is full its BINADD parks
(R328). -/
def homeBins : Prop :=
  ∀ (s : State) (pl : Plane) (r : Request) (t : State) (bin op : Nat) (ty : Ty) (v : Option W64) (rnd : Bool) (i : Nat) (n : Node),
    HomeTurn s pl r t → r.acc = .binAppend bin op ty v rnd → r.who = .node i → pl.nodes[i]? = some n → r.space ≠ 0 →
    let c := s.ctx pl.ctx
    let recs := (mapGet c.bins bin).getD []
    (recs.length ≤ wbits c.binctl 63 48 → ∃ x : BinRec,
      exec .homePerform s = .next (answered
        { t with ctxs := mapSet s.ctxs pl.ctx { c with bins := mapSet c.bins bin (recs ++ [x]) } } s.arg.plane r [(0, .ord)]) ∧
      x.addr = r.addr ∧ x.v = v ∧ x.op = op ∧ x.ty = ty ∧ x.rank = n.rank ∧ x.elem = r.elem ∧ (x.round.isSome ↔ r.round ≠ 0) ∧
      (x.owner.isSome ↔ r.round ≠ 0)) ∧
    (wbits c.binctl 63 48 < recs.length →
      exec .homePerform s = .next { t.modPlane s.arg.plane (fun q => { q with reqs := q.reqs.map fun x =>
        if x.id = r.id then { x with parked := some s.nextId, held := false } else x }) with nextId := s.nextId + 1 })

/-- REQUEST_SLOT_FREE (R299): a slot of a memory's pool on a die is free again. -/
def slotFrees : Prop :=
  ∀ (s : State),
    exec .requestSlotFree s = .next (if s.arg.verdict
      then { s with slotsLp := modifyAt s.slotsLp s.arg.index fun _ => ((s.slotsLp[s.arg.index]?).getD 0) - 1 }
      else { s with slotsHbm := modifyAt s.slotsHbm s.arg.index fun _ => ((s.slotsHbm[s.arg.index]?).getD 0) - 1 })

/-! ## Completion of a PE's firing (R141, R147) -/

/-- The node after its firing f has completed: marked tokens leave, and it counts what the firing took. -/
def firedNode (n : Node) (f : Issued) : Node :=
  let took (q : Queue) (k : Nat) : Queue := { q with toks := q.toks.drop k, marked := q.marked - k }
  let k (i : Nat) : Nat := (f.takes[i]?).getD 0
  { n with
    a := took n.a (k 0), b := took n.b (k 1), c := took n.c (k 2), p := took n.p (k 3), e := n.e + f.data, st := f.st.getD n.st
    barriers := n.barriers + if f.emits.any (fun e => 6 ≤ e.2.level) then 1 else 0
    grant := .none, firings := n.firings + 1, fired := if f.counted then n.fired ++ [f.cycle] else n.fired }

/-- What holds an issued firing back: its latency; the ticks of a WAITC, on its die's clock (R176); a result of the same
special-function unit that was issued before (R143). -/
def unfinished (s : State) (n : Node) (f : Issued) : Prop :=
  s.cycle < f.due ∨ (∃ t, f.ticks = some t ∧ (s.dieTime (placeDie n.place)).toNat < t) ∨
  (n.usesSfu = true ∧ ∃ x ∈ s.planes, ∃ y ∈ x.2.issued, ∃ m, x.1.pad = s.arg.plane.pad ∧ y.cycle < f.cycle ∧
    x.2.nodes[y.node]? = some m ∧ m.place = n.place ∧ m.usesSfu = true)

/-- FIRING_COMPLETE: not before its latency has passed, and in the order of its unit. The earliest firing of a node takes its tokens,
gives its emissions into the room that it had reserved, and raises its flags; an FMIN1 or LDV is counted as deprecated. -/
def firingCompletes : Prop :=
  ∀ (s : State) (pl : Plane) (n : Node) (f : Issued), s.plane? s.arg.plane = some pl → pl.nodes[s.arg.index]? = some n →
    (pl.issued.filter fun f => f.node = s.arg.index).head? = some f →
    (unfinished s n f → exec .firingComplete s = .next s) ∧
    (¬ unfinished s n f → f.fault = none →
      let q := ((pl.release n f.emits).emitAll n f.emits).modNode s.arg.index (firedNode · f)
      let t := s.setPlane s.arg.plane { q with issued := pl.issued.erase f, flags := pl.flags ||| f.flags, active := true }
      exec .firingComplete s = .next (if f.dep then countDeprecated t pl.ctx else t))

/-- A firing that faults consumes nothing: its marks and room and those of the node's later firings are given back, and the
fault is detected (R9, R141). -/
def faultCompletes : Prop :=
  ∀ (s : State) (pl : Plane) (n : Node) (f : Issued) (info : FaultInfo), s.plane? s.arg.plane = some pl →
    pl.nodes[s.arg.index]? = some n → (pl.issued.filter fun f => f.node = s.arg.index).head? = some f → ¬ unfinished s n f →
    f.fault = some info → ∃ q : Plane,
      exec .firingComplete s = .next ((s.setPlane s.arg.plane q).detectFault s.arg.plane (some (.node s.arg.index)) info) ∧
      q.issued = pl.issued.filter (fun f => f.node ≠ s.arg.index) ∧ q.flags = pl.flags ∧ q.sram = pl.sram ∧ q.reqs = pl.reqs ∧
      q.nodes.map (fun m => [m.a.toks, m.b.toks, m.c.toks, m.p.toks]) = pl.nodes.map (fun m => [m.a.toks, m.b.toks, m.c.toks, m.p.toks]) ∧
      q.nodes.map (·.e) = pl.nodes.map (·.e) ∧ q.nodes.map (·.st) = pl.nodes.map (·.st)

/-- An emission enters the channel that its target names: behind the tokens there where no track lies between, and otherwise, as its
physical tokens, into the buffer of the channel's first track (R30, R177). Nothing else changes. -/
def tokensMove : Prop :=
  ∀ (pl : Plane) (j : Nat) (o : Operand) (t : Token) (m : Node), pl.nodes[j]? = some m →
    ∃ m', (pl.emit (.operand j o) t).nodes[j]? = some m' ∧
      (m'.queue o = match (m.queue o).hops with
        | [] => { m.queue o with toks := (m.queue o).toks ++ [t] }
        | h :: hs => { m.queue o with hops := { h with buf := h.buf ++ t.words (m.queue o).wide } :: hs }) ∧
      (∀ o', o' ≠ o → m'.queue o' = m.queue o') ∧ m'.st = m.st ∧ m'.e = m.e ∧
      (∀ i, i ≠ j → (pl.emit (.operand j o) t).nodes[i]? = pl.nodes[i]?) ∧
      (pl.emit (.operand j o) t).sram = pl.sram ∧ (pl.emit (.operand j o) t).flags = pl.flags ∧
      (pl.emit (.operand j o) t).pes = pl.pes ∧ (pl.emit (.operand j o) t).reqs = pl.reqs

/-- The physical tokens of a value, marker or poison, reaching a consumer in order, are that token there; and a virtual token is one
physical token, but a 64-bit value is two, the low word first (R30). -/
def tokensPack : Prop :=
  ∀ (q : Queue) (t : Token), q.half = none → q.ord = false → t ≠ .ord → (∀ ws, t ≠ .beat ws) →
    (∀ v, t = .data v → q.wide = true ∨ v.toNat < 2 ^ 32) →
    (t.words q.wide).foldl Queue.arrive q = { q with toks := q.toks ++ [t] } ∧
    (t.words q.wide).length = t.size q.wide ∧
    ∀ v, t = .data v → q.wide = true → t.words true = [3#2 ++ v.extractLsb' 0 32, 0#2 ++ v.extractLsb' 32 32]

/-- A track of a LIVE plane in a granted cycle moves the first token of its buffer one hop on, into the next track's buffer or to the
consumer, where there is a place for it, it has rested since its last, and the hop crosses no boundary edge (R177, R178, R182). -/
def tracksMove : Prop :=
  ∀ (s : State) (p : PlaneId) (d : Dest) (k : Nat) (rest : List Agenda) (pl : Plane) (q : Queue) (h : Hop) (w : BitVec 34)
      (ws : List (BitVec 34)),
    s.agenda = .track p d k :: rest → s.plane? p = some pl → pl.st = .live → pl.reload = false → pl.queue d = some q →
    q.hops[k]? = some h → h.buf = w :: ws → pl.hopRoom d q k = true → pl.crossing d q k = none →
    let t := { s with agenda := rest }
    (grantCycle t p).1 = true → (∀ x, (grantCycle t p).2.plane? p = some x → h.rest ≤ x.grants) → ∃ q' : Queue,
      step s = .next ((grantCycle t p).2.modPlane p fun x => { x.modDest d (fun _ => q') with active := true }) ∧
      q'.toks = (if k + 1 < q.hops.length then q.toks else (q.arrive w).toks) ∧
      q'.hops.map (·.buf) = modifyAt (modifyAt (q.hops.map (·.buf)) k (·.drop 1)) (k + 1) (· ++ [w])

/-! ## Replies (R300, R403) -/

/-- A request whose reply may leave: it is complete, it is the first of its agent that still replies, its plane moves. -/
structure ReplyTurn (s : State) (pl : Plane) (r : Request) : Prop where
  plane : s.plane? s.arg.plane = some pl
  found : pl.reqs.find? (fun r => r.id = s.arg.index) = some r
  done  : r.done = true
  alive : r.lost = false
  first : ∀ q ∈ pl.reqs, q.who = r.who → q.id < r.id → q.lost = true
  moves : pl.st = .live ∧ pl.reload = false

/-- The node after a reply has left it: it counts a barrier that it hands on, and no group of it holds poison. -/
def repliedNode (n : Node) (out : List (Nat × Token)) : Node :=
  { n with pois := false, barriers := n.barriers + if out.any (fun e => 6 ≤ e.2.level) then 1 else 0 }

/-- A stream whose group's closing marker says whether it held poison (R31). -/
def streamNode (n : Node) : Prop := ∃ g, n.instr = some (.sld g) ∨ n.instr = some (.spld g)

/-- MEMORY_REPLY for a node whose reply is a value for both targets, or an acknowledgment: the tokens leave and the request is
over. A reply that is not the first of its agent waits. -/
def repliesLeave : Prop :=
  ∀ (s : State) (pl : Plane) (r : Request),
    (∀ i n, ReplyTurn s pl r → r.who = .node i → pl.nodes[i]? = some n → (∀ k, r.acc ≠ .child k) → (∀ m es, r.acc ≠ .close m es) →
      (∀ a b c, r.acc ≠ .rangePull a b c) → (∀ g, n.instr ≠ some (.rangePull g)) → ¬ streamNode n →
      (∀ es, r.acc ≠ .ending es) →
      ((∃ t, r.replies = [(0, t), (1, t)]) ∨ ∃ t, r.replies = [(0, t)]) → pl.canEmit n r.replies = true →
      exec .memoryReply s = .next (s.setPlane s.arg.plane
        { (pl.modNode i (repliedNode · r.replies)).emitAll n r.replies with reqs := pl.reqs.filter fun x => x.id ≠ r.id, active := true })) ∧
    (∀ q, s.plane? s.arg.plane = some pl → pl.reqs.find? (fun r => r.id = s.arg.index) = some r → (∀ m es, r.acc ≠ .close m es) →
      (r.done = false ∨ (q ∈ pl.reqs ∧ q.who = r.who ∧ q.id < r.id ∧ q.lost = false ∧ (∃ i, r.who = .node i) ∧ q.chan = r.chan)) →
      exec .memoryReply s = .next s)

/-- A stream's closing marker leaves with the POISON bit of its status set where its group delivered poison (R31). -/
def streamsClose : Prop :=
  ∀ (s : State) (pl : Plane) (r : Request) (i : Nat) (n : Node) (es : List (Nat × Token)) (l : BitVec 3) (rd st : BitVec 8),
    ReplyTurn s pl r → r.who = .node i → pl.nodes[i]? = some n → streamNode n → r.acc = .ending es →
    r.replies = [(0, .marker l rd st), (1, .marker l rd st)] → l.toNat < 6 →
    let m : Token := .marker l rd (if n.pois then st ||| 1#8 else st)
    pl.canEmit n r.replies = true →
    exec .memoryReply s = .next (s.setPlane s.arg.plane
      { (pl.modNode i fun x => { x with pois := false }).emitAll n [(0, m), (1, m)] with
        reqs := pl.reqs.filter fun x => x.id ≠ r.id, active := true })

/-- MEMORY_REPLY for a task: the reply joins its reply channel (R234). -/
def taskReplies : Prop :=
  ∀ (s : State) (pl : Plane) (r : Request) (k j : Nat) (t : Token), ReplyTurn s pl r → r.who = .pe k → r.replies = [(j, t)] →
    (∀ es, r.acc ≠ .pass es) → (∀ m es, r.acc ≠ .close m es) → (∀ c, r.acc ≠ .child c) → ∃ wide : Bool,
      exec .memoryReply s = .next (s.setPlane s.arg.plane
        { pl.modPe k (fun x => { x with
            chans := modifyAt x.chans (x.inputs + j) (·.push t)
            widths := modifyAt x.widths j (· ++ [wide]) }) with
          reqs := pl.reqs.filter fun x => x.id ≠ r.id, active := true }) ∧
      (wide = true → t.isData = true)

/-! ## Rounds (R293) -/

/-- ROUND_MARKER_ARRIVAL at a tile of a rounded region, behind the node's own requests of the round: a marker of another round than the tile's faults with 0x51; the
marker of one input among several is kept; with the last the round closes, and the tile's counter goes on by one. -/
def roundsClose : Prop :=
  ∀ (s : State) (pl : Plane) (r : Request) (m : Token) (es : List (Nat × Token)) (i : Nat), s.plane? s.arg.plane = some pl →
    pl.reqs.find? (fun r => r.id = s.arg.index) = some r → r.acc = .close m es → r.who = .node i → r.space ≠ 2 →
    s.arg.other ∈ pl.roundedTiles →
    let t := (mapGet pl.rounds s.arg.other).getD {}
    let all (arrived : List (Nat × Token)) : Prop := ∀ n ∈ pl.inputs false, ∃ a ∈ arrived, a.1 = n.1
    r.round = t.closed + 1 → (∀ a ∈ t.arrived, a.1 ≠ i) → pl.roundOwes r s.arg.other = false →
    (m.round ≠ t.counter → exec .roundMarkerArrival s =
      .next (s.detectFault s.arg.plane (some r.who) { cause := 0x51, iter := r.iter, opv := r.opv })) ∧
    (m.round = t.counter → ¬ all (t.arrived ++ [(i, m)]) → exec .roundMarkerArrival s =
      .next (s.setPlane s.arg.plane
        { pl with rounds := mapSet pl.rounds s.arg.other { t with arrived := t.arrived ++ [(i, m)] }, active := true })) ∧
    (m.round = t.counter → all (t.arrived ++ [(i, m)]) → exec .roundMarkerArrival s =
      .next (s.setPlane s.arg.plane
        { pl with rounds := mapSet pl.rounds s.arg.other { counter := t.counter + 1#8, closed := t.closed + 1 }, active := true }))

/-! ## Walks and timers (R309, R442) -/

/-- The state in which the walks that share w have come to a table of a level. -/
def walksTo (s : State) (w : Walk) (x : Nat × Nat) : State :=
  { s with walks := s.walks.map fun y => if w.shares y then { y with met := x :: w.met } else y }

/-- A walk has come to a table of a level, and the line of its entry there is at hand, which leaves state t (R306, R309). -/
structure WalkTurn (s : State) (w : Walk) (level table : Nat) (lv : WalkLevel) (e : Option Nat) (t : State) : Prop where
  act   : s.arg.other = 0
  found : s.walks[s.arg.index]? = some w
  met   : w.met.head? = some (level, table)
  isLv  : walkLevels[level]? = some lv
  line  : s.cacheLine (.walk w.md w.asid (w.va.toNat / 2 ^ 16)) {}
            ((table + w.va.toNat / 2 ^ lv.shift % 2 ^ lv.width * 8) / 128) = some t
  read  : s.dram.readWord (table + w.va.toNat / 2 ^ lv.shift % 2 ^ lv.width * 8) 8 = e

/-- TABLE_WALK: a walk begins with a free walker, at the lowest table that a pointer held leads to or at the root, and goes down one
table for each valid pointer; it waits while every walker is at work (R306, R309). -/
def walksGoOn : Prop :=
  ∀ (s : State) (w : Walk),
    (s.arg.other = 0 → s.walks[s.arg.index]? = some w → w.met = [] → s.walkerFree w = false → exec .tableWalk s = .next s) ∧
    (∀ x, s.arg.other = 0 → s.walks[s.arg.index]? = some w → w.met = [] → s.walkerFree w = true →
      s.walkStart w.md w.asid w.va.toNat = some x → exec .tableWalk s = .next (walksTo s w x)) ∧
    ∀ level table lv e t pa, WalkTurn s w level table lv (some e) t → lv.entry (BitVec.ofNat 64 e) = .table pa →
      exec .tableWalk s = .next (walksTo t w (level + 1, pa))

/-- A walk that one agent waits for ends, at an entry that is not valid or is poison, in a fault of the agent, which leaves
nothing in any TLB; at a leaf, where it permits the access, the TLBs that the agent uses hold the leaf and the agent may try again; in
an ENDING plane it fires once more, since its request was issued before DONE (R28, R308, R309, R504). The die that detects the fault is
that of the walk (R20). -/
def walksEnd : Prop :=
  ∀ (s : State) (w : Walk) (level table : Nat) (lv : WalkLevel) (e : Option Nat) (t : State) (p : PlaneId) (who : Asker),
    WalkTurn s w level table lv e t → w.plane = some p → w.who = some who → (s.walks.filter fun x => w.shares x) = [w] →
    let left := { t with walks := t.walks.filter fun x => ¬ w.shares x }
    let permits (l : Leaf) : Prop := (w.write = true → l.write = true) ∧ (w.atomic = true → l.device = false ∧ l.write = true) ∧
      (w.space = 4 ↔ l.host = true)
    let ends (c : Nat) : Prop := exec .tableWalk s = .next ((left.modPlane p (·.uncharge who)).detectFault p (some who)
      { cause := c, access := w.access, iter := w.iter, opv := w.opv, vaddr := w.va, md := some w.md, slot := w.slot })
    (∀ v, e = some v → lv.entry (BitVec.ofNat 64 v) = .invalid → ends 0x10) ∧ (e = none → ends 0x31) ∧
    (∀ v l, e = some v → lv.entry (BitVec.ofNat 64 v) = .leaf l → ¬ permits l → ends 0x11) ∧
    (∀ v l, e = some v → lv.entry (BitVec.ofNat 64 v) = .leaf l → permits l → ∃ z : State,
      exec .tableWalk s = .next z ∧
      (∀ pl, s.plane? p = some pl → pl.st ≠ .ending → (pl.st ≠ .frozen ∨ pl.before ≠ .ending) → z = { left with tlbs := z.tlbs }) ∧
      (∀ pl i, s.plane? p = some pl → pl.st = .ending → who = .node i →
        z = { left.setPlane p (pl.modNode i fun n => if n.grant = .none then { n with grant := .retry 0 } else n) with tlbs := z.tlbs }) ∧
      z.tlbFind w.md w.asid w.va.toNat w.cluster =
        some ⟨w.asid, w.va.toNat / 2 ^ l.bits, l.bits, l.frame, l.host, l.device, l.write, false⟩)

/-- MEMORY_TIMEOUT (R442, R443): never for a request that waits for another to perform, for its round or for a wave predecessor, and not
before 2^20 cycles, or 2^26 in space 5, have passed. Then the node takes fault 0x38 with the
request's address and access kind, and what is left of the request may still perform. -/
def requestsTimeOut : Prop :=
  ∀ (s : State) (pl : Plane) (r : Request), s.arg.other ≠ 1 → s.plane? s.arg.plane = some pl →
    pl.reqs.find? (fun r => r.id = s.arg.index) = some r → r.done = false → r.lost = false → r.timed = false → r.held = false →
    r.parked = none → r.acc.touches = true →
    let bound := if r.space = 5 then 2 ^ 26 else 2 ^ 20
    (pl.mustWait s.cycle r = true → exec .memoryTimeout s = .next s) ∧
    (s.cycle < r.issued + bound → exec .memoryTimeout s = .next s) ∧
    (r.issued + bound ≤ s.cycle → pl.mustWait s.cycle r = false → exec .memoryTimeout s = .next
      ({ s.modPlane s.arg.plane (fun q => { q with
          reqs := (q.reqs.map fun (x : Request) => if x.id = r.id then { x with timed := true } else x) ++
            if r.space = 5 then [] else [{ r with id := s.nextId, lost := true }] }) with nextId := s.nextId + 1 }.detectFault
        s.arg.plane (some r.who) { cause := 0x38, access := r.acc.kind, iter := r.iter, opv := r.opv, vaddr := r.addr, slot := r.slot }))

/-! ## Copies of host lines, and the host's accesses (R363, R364) -/

/-- SYSTEM_CACHE_COPY_UPDATE brings a die's copy of a line up to date or removes it, HOST_SNOOP removes every copy of a line,
and HOST_MEMORY_ACCESS reads or writes device memory where the link has CXL, through the port cache of its lines (R305). -/
def hostLines : Prop :=
  ∀ (s : State) (l : HostLink) (pa : BitVec 40) (n : Nat) (bs : List Byte),
    let line := s.arg.value.toNat / 128
    (exec .hostSnoop s = .next { s with copies := s.copies.filter fun c => c.line ≠ line }) ∧
    ((∃ c ∈ s.copies, c.md = s.arg.index ∧ c.line = line) → s.arg.verdict = true →
      exec .systemCacheCopyUpdate s = .next
        { s with copies := withCopy s s.arg.index line }) ∧
    ((∃ c ∈ s.copies, c.md = s.arg.index ∧ c.line = line) → s.arg.verdict = false →
      exec .systemCacheCopyUpdate s = .next { s with copies := s.copies.filter fun c => ¬ (c.md = s.arg.index ∧ c.line = line) }) ∧
    (∀ t, s.link = some l → l.cxl = true → s.arg.access = .read pa n →
      s.cacheLines (.peer 16) {} (linesOf pa.toNat n) = some t →
      exec .hostMemoryAccess s = .next
        { t with sent := s.sent ++ [.hostData ((List.range n).map fun i => s.dram.byte (pa.toNat + i))] }) ∧
    (∀ t, s.link = some l → l.cxl = true → s.arg.access = .write pa bs →
      s.cacheLines (.peer 16) { write := true } (linesOf pa.toNat bs.length) = some t →
      exec .hostMemoryAccess s = .next { t with dram := s.dram.write pa.toNat bs })

end Sys2Proof.Claims
end

