-- ==== Sys2Proof/Claims/Dispatch.lean ====
section
/-! DEFINITION. The dispatcher: launches (R387 to R397), binding (R92, R393, R400, R409, R410), translation (R88 to R106),
configuration (R28, R454), the end of tasks and planes (R28, R398, R399, R405, R439), saves and restores (R444 to R450), and
the sequencer's frames and levels (R412, R413, R415). -/

namespace Sys2Proof.Claims

open Sys2Proof.Machine

/-! ## Launch records (R387 to R389) -/

/-- A record whose fields fit: priority 0 to 7, a 16-bit load index, at most n predecessors, addresses that are multiples of 8
below 2^56. -/
def goodLaunch (n : Nat) (l : Launch) : Prop :=
  l.prio < 8 ∧ l.load < 65536 ∧ l.preds.length ≤ n ∧ l.ico.toNat % 8 = 0 ∧ l.ico.toNat < 2 ^ 56 ∧ l.args.toNat % 8 = 0 ∧
  l.args.toNat < 2 ^ 56

/-- The first 28 bytes of a record. -/
def recordStart (version : Byte) (l : Launch) : List Byte :=
  [version, BitVec.ofNat 8 (l.prio + if l.ret then 8 else 0)] ++ wordBytes 2 l.load ++
  [BitVec.ofNat 8 l.preds.length, 0#8, 0#8, 0#8] ++ wordBytes 8 l.ico.toNat ++ wordBytes 8 l.args.toNat ++ wordBytes 4 l.tag.toNat

/-- The 64 bytes of a version-2 record and the 32 of a version-1 record. -/
def recordV2 (l : Launch) : List Byte :=
  recordStart 2#8 l ++ [0#8, 0#8, 0#8, 0#8] ++ l.preds.flatMap (fun t => wordBytes 4 t.toNat) ++
  List.replicate (32 - 4 * l.preds.length) 0#8
def recordV1 (l : Launch) : List Byte :=
  recordStart 1#8 l ++ l.preds.flatMap (fun t => wordBytes 4 t.toNat) ++ List.replicate (4 - 4 * l.preds.length) 0#8

/-! ## Tasks enter the table (R391, R393, R396, R397) -/

/-- The first free colour of the general pool, for a context below its quota. -/
def freeColourOf (s : State) (c k : Nat) : Prop :=
  (s.tasks.filter fun t => t.1 < 4032 ∧ t.2.ctx = c).length < (s.ctx c).quota ∧ k < 4032 ∧ s.task k = none ∧ ∀ j < k, s.task j ≠ none

/-- The number of the task that a tag names: of the tasks of the context that carry it and have not reached COMPLETE, the one
most recently inserted. -/
def tagNames (s : State) (c : Nat) (tag : W32) (n : Nat) : Prop :=
  let named (t : Task) : Prop := t.ctx = c ∧ t.tag = tag ∧ t.st ≠ .complete
  tag ≠ 0#32 ∧ (∃ x ∈ s.tasks, named x.2 ∧ x.2.serial = n) ∧ ∀ x ∈ s.tasks, named x.2 → x.2.serial ≤ n

/-- The tasks that a record's predecessor tags name. -/
def predecessors (s : State) (c : Nat) (l : Launch) (ns : List Nat) : Prop :=
  ns.Nodup ∧ ∀ n, n ∈ ns ↔ ∃ tag ∈ l.preds, tagNames s c tag n

/-- The task of a record. -/
def taskFor (c : Nat) (l : Launch) (preds : List Nat) : Task :=
  { ctx := c, ico := l.ico, load := l.load, args := l.args, tag := l.tag, prio := l.prio, wantRet := l.ret, preds }

/-- A task enters the table with a colour: READY at its priority where it waits for no predecessor, else WAITING. -/
def enters (s : State) (k : Nat) (t : Task) : State :=
  { s with
    nextId := s.nextId + 1
    tasks := mapSet s.tasks k (if t.preds = [] then { t with serial := s.nextId, st := .ready, level := t.prio, since := s.cycle }
      else { t with serial := s.nextId, st := .waiting }) }

/-- A record is taken (R387, R396): counted, and into the table, the launch buffer behind earlier records, or, where the buffer
holds 16, dropped and counted. -/
structure Takes (i : Instr) (s : State) (c : Nat) (l : Launch) : Prop where
  table : ∀ k, (s.ctx c).launches = [] → freeColourOf s c k →
    ∃ ms, predecessors s c l ms ∧
      exec i s = .next (enters (s.setCtx c { s.ctx c with taken := (s.ctx c).taken + 1#32 }) k (taskFor c l ms))
  queue : ((s.ctx c).launches ≠ [] ∨ ∀ k, ¬ freeColourOf s c k) → (s.ctx c).launches.length < 16 → ∃ z : State, exec i s = .next z ∧
    z.ctx c = { s.ctx c with taken := (s.ctx c).taken + 1#32, launches := (s.ctx c).launches ++ [l] } ∧ z.tasks = s.tasks
  drop : 16 ≤ (s.ctx c).launches.length → ∃ z : State, exec i s = .next z ∧ z.tasks = s.tasks ∧
    z.ctx c = { s.ctx c with taken := (s.ctx c).taken + 1#32, lost := min ((s.ctx c).lost + 1) 255 }

/-- LAUNCH_V2 and LAUNCH_V1: a record written at a slot's first byte is taken where its fields fit and its context is live, and
is otherwise discarded and counted. -/
def launches : Prop :=
  ∀ (s : State) (c : Nat), s.arg.context.toNat = c → s.regs.stage = 5 →
    let bad : State := s.setCtx c { s.ctx c with badCount := (s.ctx c).badCount + 1#32 }
    (∀ l, goodLaunch 8 l → s.arg.bytes = recordV2 l → s.arg.other = 0 → (s.ctx c).state = 1 → Takes .launchV2 s c l) ∧
    (∀ l, goodLaunch 1 l → s.arg.bytes = recordV1 l → s.arg.other = 0 → (s.ctx c).state = 1 → Takes .launchV1 s c l) ∧
    ((s.arg.other ≠ 0 ∨ (s.ctx c).state ≠ 1 ∨ ∀ l, goodLaunch 8 l → s.arg.bytes ≠ recordV2 l) → exec .launchV2 s = .next bad) ∧
    ((s.arg.other ≠ 0 ∨ (s.ctx c).state ≠ 1 ∨ ∀ l, goodLaunch 1 l → s.arg.bytes ≠ recordV1 l) → exec .launchV1 s = .next bad)

/-- BUFFERED_LAUNCH_ENTER: the oldest buffered record enters once a colour is free; a handler task or a restore that waits
enters with the first free colour of the reserved pool. -/
def buffersEmpty : Prop :=
  ∀ (s : State),
    (∀ c l rest k, s.arg.other ≠ 1 → s.arg.context.toNat = c → (s.ctx c).launches = l :: rest → freeColourOf s c k →
      ∃ ms, predecessors s c l ms ∧
        exec .bufferedLaunchEnter s = .next (enters (s.setCtx c { s.ctx c with launches := rest }) k (taskFor c l ms))) ∧
    (∀ t rest k, s.arg.other = 1 → s.waiting = t :: rest → 4032 ≤ k → k < 4096 → s.task k = none →
      (∀ j, 4032 ≤ j → j < k → s.task j ≠ none) → exec .bufferedLaunchEnter s = .next (enters { s with waiting := rest } k t))

/-- TASK_AGEING (R393): a READY task below level 7 rises one level 2^20 cycles after it reached the last one, and not before. -/
def tasksAge : Prop :=
  ∀ (s : State) (t : Task), s.task s.arg.index = some t →
    (t.st = .ready → t.level < 7 → t.since + 2 ^ 20 ≤ s.cycle →
      exec .taskAgeing s = .next (s.setTask s.arg.index { t with level := t.level + 1, since := t.since + 2 ^ 20 })) ∧
    ((t.st ≠ .ready ∨ 7 ≤ t.level ∨ s.cycle < t.since + 2 ^ 20) → exec .taskAgeing s = .next s)

/-! ## Binding (R92, R393, R400, R409, R410) -/

/-- An extent meets a die boundary where its image crosses it. -/
def crossesAt (boundary lo n cross : Nat) : Prop := lo < boundary → boundary < lo + n → cross = boundary - lo

/-- An image fits a paddock (R92) that keeps `held` KiB of each memory tile, one plane aside: shape, parity, boundaries, edges,
task-store entries and memory-tile storage. -/
def imageFits : Prop :=
  ∀ (im : Image) (d : Paddock) (but : Option Nat) (held : Nat),
    let used (f : Plane → Nat) : Nat := ((d.planes.zipIdx.filter fun x => x.1.st ≠ .free ∧ some x.2 ≠ but).map fun x => f x.1).sum
    im.fits d but held = true ↔
      d.w = im.width ∧ d.h = im.height ∧ (d.x0 + d.y0) % 2 = im.parity ∧ crossesAt 40 d.x0 d.w im.bx ∧ crossesAt 36 d.y0 d.h im.bY ∧
      (im.edges.getLsbD 0 = true → d.y0 = 0) ∧ (im.edges.getLsbD 1 = true → d.x0 + d.w = 80) ∧
      (im.edges.getLsbD 2 = true → d.y0 + d.h = 72) ∧ (im.edges.getLsbD 3 = true → d.x0 = 0) ∧
      used (·.slots) + im.slots ≤ 256 ∧ used (·.kib) + held + im.kib ≤ 256

/-- Task a stands before task b in R393's order. -/
def standsBefore (a b : Nat × Task) : Prop :=
  if a.2.handler = true ∨ b.2.handler = true then
    a.2.handler = true ∧ (b.2.handler = true → a.2.since < b.2.since ∨ (a.2.since = b.2.since ∧ a.2.serial < b.2.serial))
  else b.2.level < a.2.level ∨ (a.2.level = b.2.level ∧ (a.2.since < b.2.since ∨ (a.2.since = b.2.since ∧ a.1 < b.1)))

/-- The task that the dispatcher takes next: READY, not refused, not passed over; every task that stands before it finds no plane
or waits behind a level-7 task that finds none (R44, R393). -/
def bindOrder : Prop :=
  ∀ (s : State) (c : Nat) (t : Task) (plan : BindPlan), s.firstBind s.readyTasks false = some (c, t, plan) →
    (c, t) ∈ s.tasks ∧ t.st = .ready ∧ t.refused = none ∧ plan = s.bindPlan t ∧ plan ≠ .pass ∧
    (∀ x ∈ s.tasks, x.2.st = .ready → x.2.refused = none → standsBefore x (c, t) → s.bindPlan x.2 = .pass ∨
      (x.2.handler = false ∧ x.2.level = 7)) ∧
    (t.handler = false → t.level = 7 → ∀ x ∈ s.tasks, x.2.st = .ready → x.2.refused = none → x.2.handler = false → x.2.level = 7 →
      ¬ standsBefore x (c, t))

/-- The argument tokens of an ordinary task (R400): for each parameter in record order, what stands at its offset in the argument
record; with a return record wanted, its 16 bytes are probed as stores. -/
def argsRead (s : State) (t : Task) (im : Image) (ts : List (Nat × Token)) : Prop :=
  ts.length = im.params.length ∧
  (∀ (i : Nat) (r : Param) (x : Nat × Token), im.params[i]? = some r → ts[i]? = some x → x.1 = r.port ∧
    ∃ loc, s.probeDevice t.ctx (t.args + BitVec.ofNat 64 r.offset) r.bytes 0 = .ok loc ∧
      x.2 = loadToken r.ty r.bytes (s.dram.readWord loc r.bytes)) ∧
  (t.wantRet = true → ∀ k < 2, ∃ loc, s.probeDevice t.ctx (t.args + BitVec.ofNat 64 (8 * k)) 8 1 = .ok loc)

/-- What a task's plane receives when it is first LIVE: a handler task its record's slot number, a restore nothing. -/
def argsFor (s : State) (t : Task) (im : Image) (ts : List (Nat × Token)) : Prop :=
  (t.handler = true ∧ ∃ slot, t.record = some slot ∧ ts = [(0, .data (BitVec.ofNat 64 slot))]) ∨
  (t.handler = false ∧ t.restores ≠ none ∧ ts = []) ∨ (t.handler = false ∧ t.restores = none ∧ argsRead s t im ts)

/-- Task t of colour c is BOUND to plane p, which enters CONFIG for tack-store entry e. -/
def boundTo (s : State) (c : Nat) (t : Task) (e : Nat) (im : Image) (p : PlaneId) (args : List (Nat × Token)) : State :=
  let prio := min t.prio (s.ctx t.ctx).capPrio
  let pl : Plane :=
    { st := .config, ctx := t.ctx, colour := t.restores.getD c, entry := some e, writes := 1, handler := t.handler, prio, level := prio
      seed := (s.ctx t.ctx).seed, cap := im.cap, args, slots := im.slots, kib := im.kib, bound := s.nextId
      servers := im.ranges.zipIdx.map fun r => { range := r.1, md := (s.arg.bind.servers[r.2]?).getD 0 } }
  { s.setPlane p pl with
    nextId := s.nextId + 1
    tack := s.tack.map fun x => if x.1 = e then (x.1, { x.2 with last := s.dieTime 8 }) else x
    tasks := mapSet s.tasks c { t with st := .bound, plane := some p, mask := none, chosen := none } }

/-- A binding is refused: the task stays READY with the fault held for its record, where its context takes traps. -/
def refusedWith (s : State) (c : Nat) (t : Task) (f : HeldFault) : State :=
  { s with nextId := s.nextId + 1, tasks := mapSet s.tasks c { t with refused := some f, refusedAt := s.nextId, shown := none, mask := none, chosen := none } }

/-- A fault at binding: no agent took it and no plane is held. -/
def binderFault (s : State) (info : FaultInfo) : HeldFault :=
  { who := none, info, version := 0, block := 0xFFFF, slot := 0, time := s.dieTime 8, die := 8 }

/-- BIND_TASK carries its plan out: on a FREE plane that fits (steps 1 and 2), on plane 0 of a new paddock (step 3), or by a lazy
claim on the plane of the lowest firing priority and then the latest binding (step 4 of R409), whose entry the binding then keeps
(R103); an image that no paddock of the
context could hold refuses the binding with reason 0x10. -/
def binds : Prop :=
  ∀ (s : State) (c : Nat) (t : Task) (plan : BindPlan), s.firstBind s.readyTasks false = some (c, t, plan) → s.task c = some t →
    (∀ step e im p args, plan = .bind step e im → (step = 1 ∨ step = 2) → s.arg.bind.target = .plane p →
      s.freeFits t im p true = true → (step = 1 → ∃ pl, s.plane? p = some pl ∧ pl.entry = some e) →
      s.serversOk s.arg.bind.servers im.ranges.length = true → argsFor s t im args →
      exec .bindTask s = .next (boundTo s c t e im p args)) ∧
    (∀ e im x0 y0 w h args, plan = .bind 3 e im → s.arg.bind.target = .fresh x0 y0 w h →
      s.mayMake (s.ctx t.ctx) im x0 y0 w h = true → s.serversOk s.arg.bind.servers im.ranges.length = true → argsFor s t im args →
      ∃ k, (∀ d, (k, d) ∉ s.pads) ∧ exec .bindTask s = .next (boundTo
        { s with pads := mapSet (s.pads.filter fun kd => !kd.2.meets x0 y0 w h) k { x0, y0, w, h, planes := [{}, {}, {}, {}] } }
        c t e im ⟨k, 0⟩ args)) ∧
    (∀ e im p pl, plan = .bind 5 e im → s.arg.bind.target = .claim p → s.victim t im = some p → s.plane? p = some pl →
      exec .bindTask s = .next { s.setPlane p { pl with claimed := some t.serial } with
        tasks := mapSet s.tasks c { t with chosen := some e } }) ∧
    (plan = .refuse → t.handler = false → takesTraps (s.ctx t.ctx) → exec .bindTask s =
      .next (refusedWith s c t (binderFault s { cause := 0x60, opv := some [0x10#64, 0#64, 0#64] }))) ∧
    (∀ step e im p r rest cause, plan = .bind step e im → (step = 1 ∨ step = 2) → s.arg.bind.target = .plane p →
      s.freeFits t im p true = true → (step = 1 → ∃ pl, s.plane? p = some pl ∧ pl.entry = some e) →
      s.serversOk s.arg.bind.servers im.ranges.length = true → t.handler = false → t.restores = none →
      takesTraps (s.ctx t.ctx) → im.params = r :: rest →
      s.probeDevice t.ctx (t.args + BitVec.ofNat 64 r.offset) r.bytes 0 = .error cause →
      cause ≠ 0x60 → exec .bindTask s = .next (refusedWith s c t (binderFault s
        { cause, access := 7, vaddr := t.args + BitVec.ofNat 64 r.offset })))

/-- The plane that a lazy claim takes (R410): in use for an ordinary task of lower firing priority, LIVE or FROZEN from LIVE, not
claimed; of those the lowest firing priority, and then the most recently bound. -/
def claimVictims : Prop :=
  ∀ (s : State) (t : Task) (im : Image) (p : PlaneId), (s.pads.map (·.1)).Nodup → s.victim t im = some p → ∃ pl, s.plane? p = some pl ∧
    pl.handler = false ∧ (pl.st = .live ∨ (pl.st = .frozen ∧ pl.before = .live)) ∧ pl.abandon = false ∧ pl.claimed = none ∧
    (t.handler = true ∨ pl.prio < min t.prio (s.ctx t.ctx).capPrio) ∧
    ∀ q ql, (q, ql) ∈ s.planes → s.claimable t im q ql = true → pl.prio < ql.prio ∨ (pl.prio = ql.prio ∧ ql.bound ≤ pl.bound)

/-! ## Translation (R81, R88, R98 to R106) -/

/-- What a context keeps of a graph that it has bound from, and of its handler's entry. -/
def bindsGraph (s : State) (w : Wanted) (g : IcoGraph) (digest : BitVec 384) (entry : Nat) : State :=
  let c := s.ctx w.ctx
  s.setCtx w.ctx { c with
    graphs := if c.graphs.any fun x => x.ico == w.ico then c.graphs else c.graphs ++ [{ ico := w.ico, digest, parts := g.parts }]
    handlerEntry := if w.colour.isNone then some entry else c.handlerEntry
    handlerOld := if w.colour.isNone then c.handlerOld ++ c.handlerEntry.toList else c.handlerOld }

/-- A binding that has begun keeps the feature mask that it sampled (R106). -/
def sampled (s : State) (w : Wanted) : State :=
  match w.colour.bind fun c => (s.task c).map fun t => (c, t) with
  | some (c, t) => { s with tasks := mapSet s.tasks c { t with mask := some (BitVec.ofNat 64 w.mask) } }
  | none => s

/-- What the choices for a load are kept under. -/
def keyOf (s : State) (w : Wanted) (digest : BitVec 384) : PlanKey :=
  { digest, load := w.load, mask := w.mask, gen := s.regs.genCurrent, native := 0#384 }

/-- No live entry serves a load, none is being filled for it, no native image of it is eligible, and its blocks read as they did: the
translator is to make its image. -/
structure MustMake (s : State) (w : Wanted) (g : IcoGraph) (digest : BitVec 384) (code : LoadCode) : Prop where
  graph   : s.graphOf w = .ok (g, digest)
  load    : g.load w.load (g.declared &&& w.mask) = some code
  handler : code.rec_.handler = w.colour.isNone
  found   : s.lookup digest w.load w.mask = none
  filling : ∀ x ∈ s.tack, ¬ (x.2.filling = true ∧ x.2.retiring = false ∧ x.2.digest = digest ∧ x.2.load = w.load ∧ x.2.mask = w.mask)
  native  : ∃ ps, s.icoPieces w.ctx w.ico (sectionPieces g.parts true) = (ps, none) ∧
    s.eligible { g with parts := ps ++ g.parts } w digest = []
  again   : s.rereadLoad w.ctx w.ico g w.load = .ok g
  checks  : code.failure = none

/-- TRANSLATE_LOAD for a task: a header that cannot be read refuses its binding with the memory cause and access kind 6, a check
that fails with cause 0x60 and the reason, offset and half as operand values; a load whose translation stands is served by it;
a translation that the translator makes enters the tack store under its identity, where room for its pages stands, and serves once it
has been written; where no plan of the load respects the bounds of lowering the binding is refused with reason 0x10. -/
def translates : Prop :=
  ∀ (s : State) (w : Wanted), s.arg.third ≠ 2 → s.wanted = some w →
    let later (z : State) : State := { z with fresh := z.fresh + 2 ^ 32 }
    (∀ c t cause, w.colour = some c → s.task c = some t → t.handler = false → takesTraps (s.ctx t.ctx) →
      s.graph w.ctx w.ico = none → w.ico.toNat % 65536 ≤ 65280 → s.probeDevice w.ctx w.ico 256 0 = .error cause → cause ≠ 0x60 →
      exec .translateLoad s = .next (later (refusedWith s c t (binderFault s { cause, access := 6, vaddr := w.ico })))) ∧
    (∀ c t head b, w.colour = some c → s.task c = some t → t.handler = false → takesTraps (s.ctx t.ctx) →
      s.graph w.ctx w.ico = none → s.icoPiece w.ctx w.ico 0 256 = .ok head → firstBad (headerChecks [head]) = some b →
      exec .translateLoad s = .next (later (refusedWith s c t { binderFault s
        { cause := 0x60, opv := some [BitVec.ofNat 64 b.reason, BitVec.ofNat 64 b.off, BitVec.ofNat 64 b.half] } with
        block := b.block, slot := b.slot }))) ∧
    (∀ g digest code e, s.graphOf w = .ok (g, digest) → g.load w.load (g.declared &&& w.mask) = some code →
      code.rec_.handler = w.colour.isNone → s.lookup digest w.load w.mask = some e →
      exec .translateLoad s = .next (later (bindsGraph (sampled s w) w g digest e))) ∧
    (∀ g digest code plan im pages, MustMake s w g digest code → plan = s.planFor (keyOf s w digest) →
      im = code.layout.image w.mask Node.rank plan → im.admits code.layout plan = true → code.edgeFailure plan = none →
      pages = max 1 plan.pages → s.tack.length < 4096 → (s.tack.map fun e => e.2.pages).sum + pages ≤ 16384 →
      ∃ k, (∀ x, (k, x) ∉ s.tack) ∧ exec .translateLoad s = .next (later (bindsGraph
        { sampled s w with
          plans := if s.plans.any fun x => x.1 == keyOf s w digest then s.plans else (keyOf s w digest, plan) :: s.plans
          tack := mapSet s.tack k { digest, load := w.load, mask := w.mask, gen := s.regs.genCurrent, image := im
                                    pages, last := s.dieTime 8, filling := true } } w g digest k))) ∧
    (∀ g digest code plan c t, MustMake s w g digest code → plan = s.planFor (keyOf s w digest) →
      (code.layout.image w.mask Node.rank plan).admits code.layout plan = false → w.colour = some c → s.task c = some t →
      t.handler = false → takesTraps (s.ctx t.ctx) →
      (code.layout.canFit w.mask = false → exec .translateLoad s = .next (later (refusedWith s c t
        { binderFault s { cause := 0x60, opv := some [0x10#64, 0#64, 0#64] } with block := 0xFFFF }))) ∧
      (code.layout.canFit w.mask = true → exec .translateLoad s = .next (later (sampled s w))))

/-- TRANSLATE_LOAD at the end of a translation: its entry serves bindings from now on (R102). -/
def fillsEntry : Prop :=
  ∀ s : State, s.arg.third = 2 → exec .translateLoad s = .next
    { s with tack := s.tack.map fun x => if x.1 = s.arg.index then (x.1, { x.2 with filling := false }) else x }

/-- Translating the same load again takes the same plan (R89, R94): a plan once kept is the one that every later translation of the
identity takes, whatever the stimulus proposes. -/
def plansStay : Prop :=
  ∀ (s : State) (k : PlanKey) (plan plan' : Plan) (arg : Stimulus),
    let z : State := { s.keepPlan k plan with arg }
    z.planFor k = (if s.plans.any fun x => x.1 == k then s.planFor k else plan) ∧ (z.keepPlan k plan').planFor k = z.planFor k

/-! ## Configuration (R28, R454) -/

/-- A node and a task-mode PE of an image at their places in a paddock: place, tracks and attach point (R18, R178). -/
def placed (d : Paddock) (n : Node) : Node :=
  { n with a := n.a.shift d.x0 d.y0, b := n.b.shift d.x0 d.y0, c := n.c.shift d.x0 d.y0, p := n.p.shift d.x0 d.y0
           place := shiftPlace d.x0 d.y0 n.place, point := shiftPoint d.x0 d.y0 n.near n.point }
def taskPlaced (d : Paddock) (t : TaskPe) : TaskPe :=
  { t with place := shiftPlace d.x0 d.y0 t.place, point := shiftPoint d.x0 d.y0 t.near t.point
           chans := t.chans.map (·.shift d.x0 d.y0) }

/-- CONFIG_COMPLETE: a plane whose signature checks is LIVE with the image's nodes, task PEs and tiles in its paddock and its
argument tokens; one whose signature fails is written again and counted; after the third write the entry serves nothing more and
the task takes fault 0x31, which cannot resume. -/
def configures : Prop :=
  ∀ (s : State) (d : Paddock) (pl : Plane) (e : Nat) (x : TackEntry), mapGet s.pads s.arg.plane.pad = some d →
    s.plane? s.arg.plane = some pl → pl.st = .config → pl.abandon = false → pl.entry = some e → mapGet s.tack e = some x →
    (s.arg.verdict = true → mapGet s.saves pl.colour = none → exec .configComplete s = .next (s.setPlane s.arg.plane
      ({ pl with
        st := .live, args := [], watchdog := 0, tiles := x.image.tiles
        nodes := x.image.nodes.map (placed d), pes := x.image.pes.map (taskPlaced d) }.deliverArgs x.image pl.args))) ∧
    (s.arg.verdict = false → pl.writes < 3 → exec .configComplete s = .next
      { s.setPlane s.arg.plane { pl with writes := pl.writes + 1 } with regs := { s.regs with reloads := oneMore s.regs.reloads } }) ∧
    (∀ t, s.arg.verdict = false → 3 ≤ pl.writes → s.task pl.colour = some t → t.handler = false → t.restores = none →
      takesTraps (s.ctx t.ctx) → ∃ (z : State) (die : Nat), exec .configComplete s = .next z ∧ z.plane? s.arg.plane = some {} ∧
        (∀ y, mapGet z.tack e = some y → y.bad = true) ∧ z.ctxs = s.ctxs ∧ z.dram = s.dram ∧
        z.task pl.colour = some { t with
          plane := none, st := .ready, refusedAt := s.nextId, shown := none, mask := none, chosen := none
          refused := some { who := none, info := { cause := 0x31 }, version := 0, block := 0xFFFF, slot := 0
                            time := s.dieTime ((if d.x0 ≥ 40 then 1 else 0) + if d.y0 ≥ 36 then 2 else 0), die, fatal := true } })

/-! ## The end of tasks and planes (R28, R398, R399, R405, R439) -/

/-- A dependant once a predecessor has completed. -/
def released (t : Task) (serial now : Nat) : Task :=
  let left := t.preds.filter (· ≠ serial)
  if t.st = .waiting ∧ serial ∈ t.preds then
    (if left = [] then { t with preds := [], st := .ready, level := t.prio, since := now } else { t with preds := left })
  else t

/-- The completion record of R399 in a memory, for a task that was not abandoned: the value, and the status and the tag. -/
def recordWritten (s : State) (t : Task) (result : Option Token) (m : Memory) : Prop :=
  ∃ (v : W64) (status : Nat),
    (result = none ∧ v = 0#64 ∧ status = 1 ∨ result = some (.data v) ∧ status = 0 ∨ (∃ q, result = some (.poison q)) ∧ status = 2) ∧
    (∀ p q, s.probeDevice t.ctx t.args 8 1 = .ok p → s.probeDevice t.ctx (t.args + 8#64) 8 1 = .ok q →
      m = (s.dram.write p (wordBytes 8 v.toNat)).write q (wordBytes 8 (status + t.tag.toNat * 2 ^ 32))) ∧
    (∀ e, (s.probeDevice t.ctx t.args 8 1 = .error e ∨ s.probeDevice t.ctx (t.args + 8#64) 8 1 = .error e) → m = s.dram)

/-- PLANE_FREE: an ENDING plane with no fault held, no request outstanding and no re-firing owed goes to FREE; its flags join its
context's; its task's completion record is written where one was asked for, the task's dependants are released, and its colour
is freed. -/
def planesEnd : Prop :=
  ∀ (s : State) (pl : Plane) (t : Task), s.plane? s.arg.plane = some pl → pl.st = .ending → pl.abandon = false → pl.faults = [] →
    pl.shown = none → s.owes s.arg.plane pl = false → s.refires pl = false → s.task pl.colour = some t → t.handler = false →
    t.abandoned = false → t.awaited = false → pl.result ≠ some .ord → (∀ l r q, pl.result ≠ some (.marker l r q)) →
    (∀ ws, pl.result ≠ some (.beat ws)) → (s.ctx t.ctx).irq = false → ∃ z : State, exec .planeFree s = .next z ∧
      z.plane? s.arg.plane = some { entry := pl.entry } ∧
      z.ctx pl.ctx = { s.ctx pl.ctx with fpflags := (s.ctx pl.ctx).fpflags ||| pl.allFlags } ∧
      (t.wantRet = true → recordWritten s t pl.result z.dram) ∧ (t.wantRet = false → z.dram = s.dram) ∧ z.task pl.colour = none ∧
      ∀ c u, c ≠ pl.colour → s.task c = some u → z.task c = some (released u t.serial s.cycle)

/-- While a fault is held, a request is outstanding or a re-firing is owed, the plane stays ENDING (R28, R504). -/
def planesEndLater : Prop :=
  ∀ (s : State) (pl : Plane), s.plane? s.arg.plane = some pl →
    (pl.st ≠ .ending ∨ pl.faults ≠ [] ∨ pl.shown ≠ none ∨ s.owes s.arg.plane pl = true ∨ s.refires pl = true) →
    exec .planeFree s = .next s

/-- ABANDONED_PLANE_FREE: the plane of an abandoned task, or of a failed context, goes to FREE once its requests have completed or
timed out; the abandoned task completes. -/
def abandonedEnd : Prop :=
  ∀ (s : State) (pl : Plane), s.plane? s.arg.plane = some pl → pl.abandon = true →
    ((pl.st = .live ∨ s.owes s.arg.plane pl = true) → exec .abandonedPlaneFree s = .next s) ∧
    ((pl.st = .config ∨ pl.st = .frozen ∨ pl.st = .ending ∨ pl.st = .saving) → s.owes s.arg.plane pl = false →
      ∃ z : State, exec .abandonedPlaneFree s = .next z ∧ z.plane? s.arg.plane = some { entry := pl.entry } ∧
        ((s.ctx pl.ctx).state = 2 → z.tasks = s.tasks) ∧
        (∀ t, (s.ctx pl.ctx).state ≠ 2 → s.task pl.colour = some t → t.handler = false → t.awaited = false → t.wantRet = false →
          z.task pl.colour = none ∧ z.dram = s.dram ∧
          ∀ c u, c ≠ pl.colour → s.task c = some u → z.task c = some (released u t.serial s.cycle)))

/-- CONTEXT_TEARDOWN_DONE (R439): once every plane of a FAILED context is FREE, CTX_FAIL.failed is set and event 3 sent with its
bits 31:0. -/
def tearsDown : Prop :=
  ∀ (s : State) (c : Nat), s.arg.context.toNat = c → (s.ctx c).state = 2 → (s.ctx c).fail.getLsbD 63 = false →
    ((∀ q ∈ s.planes, q.2.ctx = c → q.2.st = .free) → exec .contextTeardownDone s = .next
      ((s.setCtx c { s.ctx c with fail := (s.ctx c).fail ||| (1#64 <<< 63) }).sendEvent 3 c (wbits (s.ctx c).fail 31 0))) ∧
    ((∃ q ∈ s.planes, q.2.ctx = c ∧ q.2.st ≠ .free) → exec .contextTeardownDone s = .next s)

/-! ## Saves and restores (R444, R447 to R450) -/

/-- Memory tiles of a paddock. -/
def memoryTiles (d : Paddock) : Nat :=
  ((List.range d.h).map fun j => ((List.range d.w).filter fun i => (d.x0 + i + (d.y0 + j)) % 2 = 1).length).sum

/-- R447's bound on the pages of a save that writes k KiB of each memory tile. -/
def pageBound (d : Paddock) (k : Nat) : Nat :=
  let m := memoryTiles d
  let c := d.w * d.h - m
  1 + (8 * c + m * (1 + k) + 3) / 4

/-- SAVE_START: the claimed plane enters SAVING with as many pages as the save engine needs, at most R447's bound; where the save
area has not so many, it stays as it was, is claimed no more, and the driver hears of it. -/
def savesStart : Prop :=
  ∀ (s : State) (d : Paddock) (pl : Plane) (kib : Nat), mapGet s.pads s.arg.plane.pad = some d → s.plane? s.arg.plane = some pl →
    s.saveReady s.arg.plane pl = true → kib = (if s.staysHeld s.arg.plane d pl then pl.kib else 0) →
    1 ≤ s.arg.index → s.arg.index ≤ pageBound d (pl.kib - kib) →
    ((s.ctx pl.ctx).saveused + s.arg.index ≤ s.savePages pl.ctx → ∃ z : State, exec .saveStart s = .next z ∧
      z.plane? s.arg.plane = some { pl with st := .saving, before := pl.st, pages := s.arg.index, stay := kib } ∧
      z.ctx pl.ctx = { s.ctx pl.ctx with saveused := (s.ctx pl.ctx).saveused + s.arg.index } ∧ z.tasks = s.tasks) ∧
    (s.savePages pl.ctx < (s.ctx pl.ctx).saveused + s.arg.index → ∃ z : State, exec .saveStart s = .next z ∧
      z.plane? s.arg.plane = some { pl with claimed := none } ∧ z.ctx pl.ctx = { s.ctx pl.ctx with noClaims := true } ∧
      z.tasks = s.tasks)

/-- SAVE_COMMIT: the state is kept under the task's colour, its flags in its context; the plane is FREE; the task stays BOUND
without a plane, and a restore of it enters with a reserved colour. -/
def savesCommit : Prop :=
  ∀ (s : State) (pl : Plane) (t : Task), s.plane? s.arg.plane = some pl → pl.st = .saving → s.task pl.colour = some t →
    pl.colour < 4032 → ∃ z : State, exec .saveCommit s = .next z ∧ z.plane? s.arg.plane = some { entry := pl.entry } ∧
      mapGet z.saves pl.colour = some
        { plane := { pl.unstaged with st := pl.before, before := .live, claimed := none, flags := 0#5, pages := 0, stay := 0 }
          pages := pl.pages, pid := s.arg.plane, kib := pl.stay } ∧
      (z.ctx pl.ctx).fpflags = (s.ctx pl.ctx).fpflags ||| pl.allFlags ∧ z.task pl.colour = some { t with plane := none } ∧
      (∀ k, s.waiting = [] → s.freeReserved = some k → ∃ serial, z.task k = some
        { ctx := t.ctx, ico := t.ico, load := t.load, prio := t.prio, restores := some pl.colour, serial, st := .ready
          level := t.prio, since := s.cycle }) ∧
      z.dram = s.dram ∧ z.store = s.store

/-- A restore (R450): CONFIG_COMPLETE brings the saved state back where a plane has been configured from the same entry: tokens,
operator states, memory tiles, requests and counters as they were, a WAITC in flight complete (R176), in the state it froze or ran in; its pages and the restore's
colour are released. -/
def restores : Prop :=
  ∀ (s : State) (d : Paddock) (pl : Plane) (e : Nat) (y : TackEntry) (x : Saved), mapGet s.pads s.arg.plane.pad = some d →
    s.plane? s.arg.plane = some pl → pl.st = .config → pl.abandon = false → pl.entry = some e → mapGet s.tack e = some y →
    s.arg.verdict = true → s.arg.other ≠ 1 → mapGet s.saves pl.colour = some x → x.acks = [] → x.plane.faults = [] →
    x.plane.nodes.length ≤ y.image.nodes.length → x.plane.pes.length ≤ y.image.pes.length →
    ∃ (z : State) (q : Plane), exec .configComplete s = .next z ∧ z.plane? s.arg.plane = some q ∧
      q = { x.plane with issued := x.plane.issued.map (fun f => if f.ticks = none then f else { f with due := 0, ticks := none })
                         nodes := q.nodes, pes := q.pes, servers := q.servers, colour := pl.colour, prio := pl.prio, level := pl.prio
                         bound := pl.bound, claimed := none, flags := 0#5, waited := 0 } ∧
      (∀ (k : Nat) (n : Node), x.plane.nodes[k]? = some n → ∃ m, y.image.nodes[k]? = some m ∧
        q.nodes[k]? = some (n.moved (placed d m))) ∧
      (∀ (k : Nat) (t : TaskPe), x.plane.pes[k]? = some t → ∃ m, y.image.pes[k]? = some m ∧
        q.pes[k]? = some (t.moved (taskPlaced d m))) ∧
      mapGet z.saves pl.colour = none ∧ (∀ u ∈ z.tasks, u.2.restores ≠ some pl.colour) ∧
      (z.ctx x.plane.ctx).saveused = (s.ctx x.plane.ctx).saveused - x.pages

/-! ## Frames, levels, urgency (R412, R413, R415) -/

/-- The 64 slots that R412's pseudocode gives to held planes with their weights: each to the plane of the largest credit, ties to
the lowest plane number. -/
def frameOf (held : List (Nat × Nat)) (frame : List Nat) : Prop :=
  let total : Int := (held.map fun x => (x.2 : Int)).sum
  frame.length = 64 ∧ ∃ credit : Nat → Nat → Int, (∀ p, credit 0 p = 0) ∧ ∀ i < 64, ∃ q w, frame[i]? = some q ∧ (q, w) ∈ held ∧
    (∀ x ∈ held, credit i x.1 + x.2 < credit i q + w ∨ (credit i x.1 + x.2 = credit i q + w ∧ q ≤ x.1)) ∧
    ∀ x ∈ held, credit (i + 1) x.1 = credit i x.1 + x.2 - if x.1 = q then total else 0

/-- FRAME_BOUNDARY: at a multiple of 256 cycles a paddock of up to 512 tiles rebuilds its table where its held planes or their
weights have changed. -/
def framesBuilt : Prop :=
  ∀ (s : State) (d : Paddock) (held : List (Nat × Nat)), mapGet s.pads s.arg.index = some d →
    held = d.planes.zipIdx.filterMap (fun x => if x.1.st = .live ∨ x.1.st = .frozen then
      some (x.2, if x.1.handler then 16 else x.1.prio + 1) else none) →
    (d.w * d.h ≤ 512 → s.cycle % 256 = 0 → d.held ≠ held → held ≠ [] → ∃ frame, frameOf held frame ∧
      exec .frameBoundary s = .next { s with pads := mapSet s.pads s.arg.index { d with held, frame } }) ∧
    ((512 < d.w * d.h ∨ s.cycle % 256 ≠ 0 ∨ d.held = held) → exec .frameBoundary s = .next s)

/-- PLANE_LEVEL_AGEING: in a paddock of more than 512 tiles a plane rises one level, up to 7, for 65,536 consecutive cycles in
which it asked and was not granted. PE_URGENT: a PE becomes urgent after 32 consecutive cycles as a blocked candidate. -/
def waitingIsFelt : Prop :=
  ∀ (s : State),
    (∀ d pl, mapGet s.pads s.arg.plane.pad = some d → s.plane? s.arg.plane = some pl → 512 < d.w * d.h → pl.handler = false →
      (65536 ≤ pl.waited → exec .planeLevelAgeing s = .next (s.setPlane s.arg.plane
        { pl with level := min 7 (max pl.level pl.prio + 1), waited := pl.waited - 65536 })) ∧
      (pl.waited < 65536 → exec .planeLevelAgeing s = .next s)) ∧
    (∀ g n, mapGet s.tileGov s.arg.index = some g → g.streak[s.arg.other]? = some n →
      (32 ≤ n → s.arg.other ∉ g.urgent →
        exec .peUrgent s = .next { s with tileGov := mapSet s.tileGov s.arg.index { g with urgent := g.urgent ++ [s.arg.other] } }) ∧
      (n < 32 → exec .peUrgent s = .next s))

end Sys2Proof.Claims
end

