-- ==== Sys2Proof/Claims/Streams.lean ====
section
/-! DEFINITION. What the other memory nodes do: groups (R285, R321), streams (R316 to R320), prefetch (R322), sparse lines
(R323), address generators (R281 to R284), binning (R328, R329), range servers (R332) and fences (R358), as relations
between an instruction, where it fires, and the outcome. -/

namespace Sys2Proof.Claims

open Sys2Proof.Machine

/-- A probe of an access asks the TLB of the cluster whose attach point serves the node (R309). -/
def asked (x : Site) (q : Ask) : Ask := { q with cluster := some x.n.cluster }

/-- What follows a probe: the access leaves, with a peer's answer to wait for in space 5; the firing faults with the
cause, at the near die where it is outside tile space (R20); or a walk begins (R308, R309, R314). -/
inductive Probed (x : Site) (q : Ask) (info : FaultInfo) (e : Effect) (acc : Access) : MemFiring → Prop
  | leaves {loc : Nat} : x.s.probe x.pl x.n.near (asked x q) = .ok loc → q.space ≠ 5 →
      Probed x q info e acc (.go e [x.request q info loc acc])
  | asks {loc : Nat} : x.s.probe x.pl x.n.near (asked x q) = .ok loc → q.space = 5 →
      Probed x q info e acc
        (.peer e { x.request q info loc acc with takes := e.takes, after := e.st, counted := e.counted, data := e.data })
  | refused {c : Nat} : x.s.probe x.pl x.n.near (asked x q) = .fault c →
      Probed x q info e acc (.fault { info with cause := c, md := probeDie q.space x.n.near })
  | missed : x.s.probe x.pl x.n.near (asked x q) = .miss →
      Probed x q info e acc (.walk (missWalk x.p x.pl (.node x.i) x.n.near (asked x q) info x.s.cycle))

/-- Tokens that leave in their turn behind the node's earlier replies. -/
def passes (x : Site) (es : List (Nat × Token)) : Request := inTurn x.s x.i x.n es

/-- The end of a request: what leaves behind its elements, whose closing markers say whether these held poison (R31). -/
def closing (x : Site) (es : List (Nat × Token)) : Request := { passes x es with acc := .ending es }

/-- The operands that a firing takes, of which operand a may be data. -/
def takesOf (x : Site) (ops : List Operand) (st : Option OpState := none) : Effect :=
  { takes := takeOne ops, st, data := if ops.contains .a && (x.v.a.map Token.isData).getD false then 1 else 0, counted := true }

/-- The heads of some operands. -/
def headsAre (v : View) (ops : List Operand) (hs : List Token) : Prop := ops.map v.head = hs.map some

/-- Markers at all of a node's operands, joined (R38), or out of step. -/
inductive Marked (x : Site) (ops : List Operand) (returns : Bool) : MemFiring → Prop
  | joined {hs : List Token} {m : Token} : headsAre x.v ops hs → hs.all Token.isMarker = true → joinMarkers hs = some m →
      Marked x ops returns (.go { takes := takeOne ops } [passes x (markerOut returns m)])
  | clash {hs : List Token} : headsAre x.v ops hs → hs.any Token.isMarker = true →
      (hs.all Token.isMarker = false ∨ joinMarkers hs = none) → Marked x ops returns (.fault (memInfo x.v ops 0x51))

/-! ## Groups -/

/-- SCAT and SCATX store, GATH loads. -/
def GroupsAs (i : Instr) (v : View) (gath : Bool) : Prop :=
  (i = .scat v.g ∧ gath = false) ∨ (i = .scatx v.g ∧ gath = false) ∨ (i = .gath v.g ∧ gath = true)

/-- The base that a group holds, and the operands of a firing: the base only with the group's first. -/
def heldBase (x : Site) : Option Token := match x.n.st with | .base b => b | _ => none
def groupOps (x : Site) (gath : Bool) : List Operand :=
  (if (heldBase x).isSome then [] else [.a]) ++ if gath then [.b] else [.b, .c]
/-- The base of a firing. -/
def baseIs (x : Site) (t : Token) : Prop := heldBase x = some t ∨ (heldBase x = none ∧ x.v.a = some t)

/-- The access of index j of a group (R285, R321). -/
def groupAsk (x : Site) (gath : Bool) (b j : W64) : Ask :=
  let n := accessBytes x.v.g.opt
  { space := x.v.g.space, va := b + (j.setWidth 32).setWidth 64 * BitVec.ofNat 64 n, size := n, align := n, kind := if gath then 0 else 1 }

/-- Groups. -/
inductive AccessesGroup : Instr → Site → MemFiring → Prop
  | load {i : Instr} {x : Site} {b j : W64} {f : MemFiring} : GroupsAs i x.v true → baseIs x (.data b) → x.v.b = some (.data j) →
      Probed x (groupAsk x true b j) (memInfo x.v (groupOps x true) 0 1 (groupAsk x true b j).va)
        (takesOf x (groupOps x true) (some (.base (some (.data b))))) (.load x.v.g.ty (accessBytes x.v.g.opt) false) f →
      AccessesGroup i x f
  | store {i : Instr} {x : Site} {b j : W64} {t : Token} {f : MemFiring} : GroupsAs i x.v false → baseIs x (.data b) →
      x.v.b = some (.data j) → x.v.c = some t → t.isMarker = false → (t.isPoison = true → x.v.trapen.getLsbD 7 = false) →
      Probed x (groupAsk x false b j) (memInfo x.v (groupOps x false) 0 2 (groupAsk x false b j).va)
        (takesOf x (groupOps x false) (some (.base (some (.data b))))) (.store (accessBytes x.v.g.opt) (valueOf x.v .c) false) f →
      AccessesGroup i x f
  | marker {i : Instr} {x : Site} {gath : Bool} {b m : Token} {hs : List Token} : GroupsAs i x.v gath → baseIs x b →
      b.isMarker = false → headsAre x.v (if gath then [.b] else [.b, .c]) hs → hs.all Token.isMarker = true → joinMarkers hs = some m →
      AccessesGroup i x
        (.go { takes := takeOne (groupOps x gath), counted := (heldBase x).isNone
               st := some (if x.v.g.mode.toNat ≤ m.level then .plain else .base (some b))
               data := if (groupOps x gath).contains .a && (x.v.a.map Token.isData).getD false then 1 else 0 }
          [passes x (if gath then [(0, m), (1, m)]
            else (if x.v.g.mode.toNat ≤ m.level then [(0, .ord)] else []) ++ if m.level ≥ 6 then [(sinkTarget, m)] else [])])
  | clash {i : Instr} {x : Site} {gath : Bool} {b : Token} {hs : List Token} : GroupsAs i x.v gath → baseIs x b →
      headsAre x.v (if gath then [.b] else [.b, .c]) hs → (b.isMarker = true ∨ (hs.any Token.isMarker = true ∧
        (hs.all Token.isMarker = false ∨ joinMarkers hs = none))) →
      AccessesGroup i x (.fault (memInfo x.v (groupOps x gath) 0x51))
  | poison {i : Instr} {x : Site} {gath : Bool} {b t : Token} {hs : List Token} : GroupsAs i x.v gath → baseIs x b →
      headsAre x.v (if gath then [.b] else [.b, .c]) (t :: hs) → b.isMarker = false → (t :: hs).any Token.isMarker = false →
      (b.isPoison = true ∨ t.isPoison = true ∨ (hs.any Token.isPoison = true ∧ x.v.trapen.getLsbD 7 = true)) →
      AccessesGroup i x (.fault (memInfo x.v (groupOps x gath) 0x30))

/-! ## Streams -/

/-- A request token: its start address, its number of elements, and the address of element i of n bytes (R316). -/
def startOf (r : W64) : W64 := (r.setWidth 56).setWidth 64
def countOf (r : W64) : Nat := wbits r 63 56 + 1
def elemAddr (v : View) (r : W64) (i n : Nat) : W64 :=
  startOf r + (if v.g.imm then sext32 (atomVal v .b) else 0#64) + BitVec.ofNat 64 (i * n)

/-- The elements of the request at the head of a that are done. -/
def elemAt (x : Site) : Nat := match x.n.st with | .elem i => i | _ => 0

/-- The request token and the offset are data. -/
def requested (v : View) (r : W64) : Prop := v.a = some (.data r) ∧ (v.g.imm = true → ∃ o, v.b = some (.data o))

/-- A stream's record names the element and the request (R320). -/
def streamInfo (x : Site) (ops : List Operand) (access : Nat) (va : W64) (i : Nat) (cause : Nat := 0) : FaultInfo :=
  { memInfo x.v ops cause access va with iter := some [i, 0, 0, x.n.fired.length] }

/-- Element i of a stream: its probe and the request; the request token stays. -/
def streamAsk (x : Site) (r : W64) (i n kind : Nat) : Ask :=
  { space := x.v.g.space, va := elemAddr x.v r i n, size := n, align := n, kind }

/-- The node's window has a place for the line of an address: one of its requests in flight uses the line already, or these use fewer
lines than the window has (R319). -/
def linesUsed (x : Site) : List Nat :=
  ((x.pl.reqs.filter fun r => r.who = .node x.i ∧ r.size ≠ 0 ∧ ¬ r.done ∧ ¬ r.lost).map fun r => r.addr.toNat / 128).eraseDups
def inWindow (x : Site) (va : W64) : Prop := va.toNat / 128 ∈ linesUsed x ∨ (linesUsed x).length < x.n.window

/-- SLD, SST and PREF. -/
inductive Streams : Instr → Site → MemFiring → Prop
  | sldElement {x : Site} {r : W64} {f : MemFiring} : requested x.v r → elemAt x < countOf r →
      inWindow x (elemAddr x.v r (elemAt x) (accessBytes x.v.g.opt)) →
      Probed x (streamAsk x r (elemAt x) (accessBytes x.v.g.opt) 0)
        (streamInfo x (addrOps x.v.g) 1 (elemAddr x.v r (elemAt x) (accessBytes x.v.g.opt)) (elemAt x))
        { st := some (.elem (elemAt x + 1)) } (.load x.v.g.ty (accessBytes x.v.g.opt) (x.v.g.mode.getLsbD 0)) f →
      Streams (.sld x.v.g) x f
  | sldEnd {x : Site} {r : W64} : requested x.v r → countOf r ≤ elemAt x →
      Streams (.sld x.v.g) x (.go (takesOf x (addrOps x.v.g) (some .plain))
        [closing x (if x.v.g.mode.getLsbD 1 then [(0, x.v.made 1), (1, x.v.made 1)] else [])])
  | sldPoison {x : Site} {hs : List Token} {q : Token} : headsAre x.v (addrOps x.v.g) hs → hs.any Token.isMarker = false →
      hs.find? Token.isPoison = some q → x.v.trapen.getLsbD 7 = false →
      Streams (.sld x.v.g) x (.go (takesOf x (addrOps x.v.g) (some .plain))
        [passes x [(0, q), (1, q)], closing x (if x.v.g.mode.getLsbD 1 then [(0, x.v.made 1), (1, x.v.made 1)] else [])])
  | sldTrap {x : Site} {hs : List Token} : headsAre x.v (addrOps x.v.g) hs → hs.any Token.isMarker = false →
      hs.any Token.isPoison = true → x.v.trapen.getLsbD 7 = true → Streams (.sld x.v.g) x (.fault (memInfo x.v (addrOps x.v.g) 0x30))
  | sldMarker {x : Site} {f : MemFiring} : Marked x (addrOps x.v.g) true f → Streams (.sld x.v.g) x f
  | sstElement {x : Site} {r : W64} {t : Token} {f : MemFiring} : requested x.v r → elemAt x < countOf r → x.v.c = some t →
      t.isMarker = false → (t.isPoison = true → x.v.trapen.getLsbD 7 = false) →
      inWindow x (elemAddr x.v r (elemAt x) (accessBytes x.v.g.opt)) →
      Probed x (streamAsk x r (elemAt x) (accessBytes x.v.g.opt) 1)
        (streamInfo x (addrOps x.v.g ++ [.c]) 2 (elemAddr x.v r (elemAt x) (accessBytes x.v.g.opt)) (elemAt x))
        { takes := takeOne [.c], st := some (.elem (elemAt x + 1)) } (.store (accessBytes x.v.g.opt) (valueOf x.v .c) false) f →
      Streams (.sst x.v.g) x f
  | sstBad {x : Site} {r : W64} {t : Token} {c : Nat} : requested x.v r → elemAt x < countOf r → x.v.c = some t →
      (t.isMarker = true ∧ c = 0x51 ∨ t.isPoison = true ∧ x.v.trapen.getLsbD 7 = true ∧ c = 0x30) →
      Streams (.sst x.v.g) x (.fault (streamInfo x (addrOps x.v.g ++ [.c]) 0 0#64 (elemAt x) c))
  | sstEnd {x : Site} {r : W64} : requested x.v r → countOf r ≤ elemAt x → x.v.g.mode.getLsbD 1 = false →
      Streams (.sst x.v.g) x (.go (takesOf x (addrOps x.v.g) (some .plain)) [closing x [(0, .ord)]])
  | sstClosed {x : Site} {r : W64} {m : Token} : requested x.v r → countOf r ≤ elemAt x → x.v.g.mode.getLsbD 1 = true →
      x.v.c = some m → 1 ≤ m.level → m.level ≤ 4 →
      Streams (.sst x.v.g) x
        (.go { takesOf x (addrOps x.v.g) (some .plain) with takes := takeOne (addrOps x.v.g ++ [.c]) } [closing x [(0, .ord)]])
  | sstOpen {x : Site} {r : W64} {t : Token} : requested x.v r → countOf r ≤ elemAt x → x.v.g.mode.getLsbD 1 = true →
      x.v.c = some t → (t.level = 0 ∨ 4 < t.level) →
      Streams (.sst x.v.g) x (.fault (streamInfo x (addrOps x.v.g ++ [.c]) 0 0#64 (elemAt x) 0x51))
  | sstPoison {x : Site} {hs : List Token} : headsAre x.v (addrOps x.v.g) hs → hs.any Token.isMarker = false →
      hs.any Token.isPoison = true → Streams (.sst x.v.g) x (.fault (memInfo x.v (addrOps x.v.g) 0x30))
  | sstMarker {x : Site} {f : MemFiring} : Marked x (addrOps x.v.g) false f → Streams (.sst x.v.g) x f
  | pref {x : Site} {r : W64} : requested x.v r →
      Streams (.pref x.v.g) x (.go (takesOf x (addrOps x.v.g))
        [x.request { space := x.v.g.space, va := elemAddr x.v r 0 1, size := 128 * countOf r, align := 1 }
          (memInfo x.v (addrOps x.v.g) 0 1 (elemAddr x.v r 0 1)) 0 .bring, passes x [(0, .ord)]])
  | prefPoison {x : Site} {hs : List Token} : headsAre x.v (addrOps x.v.g) hs → hs.any Token.isMarker = false →
      hs.any Token.isPoison = true → x.v.trapen.getLsbD 7 = false → Streams (.pref x.v.g) x (.go (takesOf x (addrOps x.v.g)) [])
  | prefTrap {x : Site} {hs : List Token} : headsAre x.v (addrOps x.v.g) hs → hs.any Token.isMarker = false →
      hs.any Token.isPoison = true → x.v.trapen.getLsbD 7 = true → Streams (.pref x.v.g) x (.fault (memInfo x.v (addrOps x.v.g) 0x30))
  | prefMarker {x : Site} {f : MemFiring} : Marked x (addrOps x.v.g) false f → Streams (.pref x.v.g) x f

/-- An earlier request of the node has still to perform. -/
def awaits (x : Site) : Bool := x.pl.reqs.any fun r => r.who = .node x.i ∧ ¬ r.done ∧ ¬ r.lost

/-- SPLD reads one 128-byte line after another, until one whose last bit is set or the end of its request (R323). The line
is read where it lives; what it holds leaves when it performs. -/
inductive Lines : Instr → Site → MemFiring → Prop
  | line {x : Site} {r : W64} {loc : Nat} : requested x.v r → awaits x = false → elemAt x < countOf r → elemAt x < 1000 →
      inWindow x (elemAddr x.v r (elemAt x) 128) → x.s.probe x.pl x.n.near (asked x (streamAsk x r (elemAt x) 128 0)) = .ok loc → x.v.g.space ≠ 5 →
      Lines (.spld x.v.g) x (.go {}
        [{ x.request (streamAsk x r (elemAt x) 128 0) (streamInfo x (addrOps x.v.g) 1 (elemAddr x.v r (elemAt x) 128) (elemAt x))
             loc (.line false) with elem := elemAt x }])
  | peer {x : Site} {r : W64} {loc : Nat} : requested x.v r → awaits x = false → elemAt x < countOf r → elemAt x < 1000 →
      inWindow x (elemAddr x.v r (elemAt x) 128) → x.s.probe x.pl x.n.near (asked x (streamAsk x r (elemAt x) 128 0)) = .ok loc → x.v.g.space = 5 →
      Lines (.spld x.v.g) x (.peer {}
        { x.request (streamAsk x r (elemAt x) 128 0) (streamInfo x (addrOps x.v.g) 1 (elemAddr x.v r (elemAt x) 128) (elemAt x))
            loc (.line false) with elem := elemAt x, takes := [0, 0, 0, 0] })
  | refused {x : Site} {r : W64} {c : Nat} : requested x.v r → awaits x = false → elemAt x < countOf r → elemAt x < 1000 →
      inWindow x (elemAddr x.v r (elemAt x) 128) → x.s.probe x.pl x.n.near (asked x (streamAsk x r (elemAt x) 128 0)) = .fault c →
      Lines (.spld x.v.g) x (.fault { streamInfo x (addrOps x.v.g) 1 (elemAddr x.v r (elemAt x) 128) (elemAt x) c with
        md := probeDie x.v.g.space x.n.near })
  | missed {x : Site} {r : W64} : requested x.v r → awaits x = false → elemAt x < countOf r → elemAt x < 1000 →
      inWindow x (elemAddr x.v r (elemAt x) 128) → x.s.probe x.pl x.n.near (asked x (streamAsk x r (elemAt x) 128 0)) = .miss →
      Lines (.spld x.v.g) x (.walk (missWalk x.p x.pl (.node x.i) x.n.near (asked x (streamAsk x r (elemAt x) 128 0))
        (streamInfo x (addrOps x.v.g) 1 (elemAddr x.v r (elemAt x) 128) (elemAt x)) x.s.cycle))
  | last {x : Site} {r : W64} : requested x.v r → awaits x = false → 1000 ≤ elemAt x →
      Lines (.spld x.v.g) x (.go (takesOf x (addrOps x.v.g) (some .plain)) [closing x [(0, x.v.made 3), (1, x.v.made 3)]])
  | done {x : Site} {r : W64} : requested x.v r → awaits x = false → elemAt x < 1000 → countOf r ≤ elemAt x →
      Lines (.spld x.v.g) x (.go (takesOf x (addrOps x.v.g) (some .plain)) [closing x [(0, x.v.made 2), (1, x.v.made 2)]])
  | poison {x : Site} {hs : List Token} {q : Token} : headsAre x.v (addrOps x.v.g) hs → hs.any Token.isMarker = false →
      hs.find? Token.isPoison = some q → x.v.trapen.getLsbD 7 = false →
      Lines (.spld x.v.g) x (.go (takesOf x (addrOps x.v.g)) [passes x [(0, q), (1, q)]])
  | trap {x : Site} {hs : List Token} : headsAre x.v (addrOps x.v.g) hs → hs.any Token.isMarker = false →
      hs.any Token.isPoison = true → x.v.trapen.getLsbD 7 = true → Lines (.spld x.v.g) x (.fault (memInfo x.v (addrOps x.v.g) 0x30))
  | marker {x : Site} {f : MemFiring} : Marked x (addrOps x.v.g) true f → Lines (.spld x.v.g) x f

/-! ## Binning, range servers, fences -/

/-- A request to the server of a range (R331, R332). -/
def toServer (x : Site) (ops : List Operand) (acc : Access) : Request :=
  x.request { space := 1, va := 0#64, size := 0, align := 1 } (memInfo x.v ops 0) 0 acc

/-- A BINADD whose address has a bin, with its value at the head of c. -/
def binned (x : Site) (bin : Nat) (t : Token) : Prop :=
  (∀ o ∈ addrOps x.v.g, ∃ y, x.v.head o = some (.data y)) ∧ x.v.c = some t ∧ t.isMarker = false ∧
  (t.isPoison = true → x.v.trapen.getLsbD 7 = false) ∧ (x.s.ctx x.pl.ctx).binSet.binOf x.v.addr x.v.g.ty.bytes = .ok bin

/-- The slot that an append will take: behind the records of its bin and those under way to it (R328). -/
def binSlot (x : Site) (bin : Nat) : Ask :=
  let b := (x.s.ctx x.pl.ctx).binSet
  let fill := min b.cap (((mapGet (x.s.ctx x.pl.ctx).bins bin).getD []).length + x.s.appending x.pl.ctx bin)
  { space := 2, va := BitVec.ofNat 64 (b.va + (bin * b.cap + fill) * 16), size := 16, align := 16, kind := 1 }

/-- BINADD (but its rounds), RANGE.init, RANGE and FENCE. -/
inductive Serves : Instr → Site → MemFiring → Prop
  | bin {x : Site} {bin loc : Nat} {t : Token} : binned x bin t → x.s.probe x.pl x.n.near (asked x (binSlot x bin)) = .ok loc →
      Serves (.binadd x.v.g) x (.go (takesOf x (addrOps x.v.g ++ [.c]))
        [{ x.request { space := 2, va := x.v.addr, size := 1, align := 1, kind := 1 }
             (memInfo x.v (addrOps x.v.g ++ [.c]) 0 2 x.v.addr) (binLoc bin)
             (.binAppend bin x.v.g.mode.toNat x.v.g.ty (valueOf x.v .c) (x.v.g.opt.getLsbD 0)) with
             round := if x.v.g.opt.getLsbD 0 then x.n.rounds + 1 else 0 }])
  | binRefused {x : Site} {bin c : Nat} {t : Token} : binned x bin t →
      x.s.probe x.pl x.n.near (asked x (binSlot x bin)) = .fault c →
      Serves (.binadd x.v.g) x (.fault { memInfo x.v (addrOps x.v.g ++ [.c]) c 2 (binSlot x bin).va with md := some x.n.near })
  | binMissed {x : Site} {bin : Nat} {t : Token} : binned x bin t → x.s.probe x.pl x.n.near (asked x (binSlot x bin)) = .miss →
      Serves (.binadd x.v.g) x (.walk (missWalk x.p x.pl (.node x.i) x.n.near (asked x (binSlot x bin))
        (memInfo x.v (addrOps x.v.g ++ [.c]) 0 2 (binSlot x bin).va) x.s.cycle))
  | binOutside {x : Site} {t : Token} {c : Nat} : (∀ o ∈ addrOps x.v.g, ∃ y, x.v.head o = some (.data y)) → x.v.c = some t →
      t.isMarker = false → (t.isPoison = true → x.v.trapen.getLsbD 7 = false) →
      (x.s.ctx x.pl.ctx).binSet.binOf x.v.addr x.v.g.ty.bytes = .error c →
      Serves (.binadd x.v.g) x (.fault (memInfo x.v (addrOps x.v.g ++ [.c]) c 2 x.v.addr))
  | binPoison {x : Site} {hs : List Token} : headsAre x.v (addrOps x.v.g ++ [.c]) hs → hs.any Token.isMarker = false →
      ((hs.take (addrOps x.v.g).length).any Token.isPoison = true ∨ (hs.any Token.isPoison = true ∧ x.v.trapen.getLsbD 7 = true)) →
      Serves (.binadd x.v.g) x (.fault (memInfo x.v (addrOps x.v.g ++ [.c]) 0x30))
  | binMarker {x : Site} {f : MemFiring} : x.v.g.opt.getLsbD 0 = false → Marked x (addrOps x.v.g ++ [.c]) false f →
      Serves (.binadd x.v.g) x f
  | rangeInit {x : Site} {lo hi : W64} : x.v.a = some (.data lo) → x.v.b = some (.data hi) →
      Serves (.rangeInit x.v.g) x (.go (takesOf x [.a, .b])
        [toServer x [.a, .b] (.rangeInit (x.v.g.bits 5 0) (tyVal x.v.g.ty lo) (tyVal x.v.g.ty hi))])
  | rangePoison {x : Site} {hs : List Token} : headsAre x.v [.a, .b] hs → hs.any Token.isMarker = false →
      hs.any Token.isPoison = true → x.v.trapen.getLsbD 7 = false →
      Serves (.rangeInit x.v.g) x (.go (takesOf x [.a, .b]) [toServer x [.a, .b] (.rangeInit (x.v.g.bits 5 0) 0 0)])
  | rangeTrap {x : Site} {hs : List Token} : headsAre x.v [.a, .b] hs → hs.any Token.isMarker = false →
      hs.any Token.isPoison = true → x.v.trapen.getLsbD 7 = true → Serves (.rangeInit x.v.g) x (.fault (memInfo x.v [.a, .b] 0x30))
  | rangeMarker {x : Site} {f : MemFiring} : Marked x [.a, .b] false f → Serves (.rangeInit x.v.g) x f
  | pull {x : Site} {t : Token} : x.v.a = some t → t.isMarker = false →
      Serves (.rangePull x.v.g) x (.go (takesOf x [.a])
        [toServer x [.a] (.rangePull (x.v.g.bits 5 0) (x.v.g.bits 21 6 + 1) x.v.g.ty)])
  | pullMarker {x : Site} {f : MemFiring} : Marked x [.a] true f → Serves (.rangePull x.v.g) x f
  | fence {x : Site} {t : Token} : x.n.a.head = some t → t.isMarker = false →
      Serves (.fence x.v.g) x (.go (takesOf x [.a]) [{ passes x [] with acc := .fence x.v.g.mode.toNat, space := 9, done := false }])
  | fenceMarker {x : Site} {m : Token} : x.n.a.head = some m → m.isMarker = true →
      Serves (.fence x.v.g) x (.go { takes := takeOne [.a] } [passes x (markerOut false m)])

/-- In its turn, a memory node has the outcome that a relation gives. -/
def memFires (does : Instr → Site → MemFiring → Prop) : Prop :=
  ∀ (i : Instr) (s : State) (p : PlaneId) (k : Nat) (pl : Plane) (n : Node) (g : GArgs) (f : MemFiring),
    does i ⟨s, p, k, pl, n, nodeView s pl k n g⟩ f → MemTurn s p k pl n g i →
    exec i s = .next (commitMem (s.admittedMem p n i) p k pl n false f)

/-! ## Line buffers (R280) -/

/-- The buffer and line length of a tile. -/
def bufAt (pl : Plane) (tile : Nat) : LineBuf := (mapGet pl.lbufs tile).getD {}
def lineLen (pl : Plane) (tile : Nat) : Nat := ((pl.tiles[tile]?).map (·.len)).getD 1

/-- LBWIN in its turn: an element goes to its column of the present line, and the window of that column leaves; a marker
of level 1 ends a line that is full, one of a higher level clears the buffer. One before the node's first element finds no buffer. -/
def lineBuffers : Prop :=
  ∀ (s : State) (p : PlaneId) (k : Nat) (pl : Plane) (n : Node) (g : GArgs),
    let v := nodeView s pl k n g
    let q : Ask := { space := g.space, va := v.addr, size := 1, align := 1, kind := 1, mode := 2, cluster := none }
    let t := s.admittedMem p n (.lbwin g)
    let step (f : MemFiring) := commitMem t p k pl n false f
    MemTurn s p k pl n g (.lbwin g) →
    (∀ (y : W64) (c : Token) (loc : Nat) (al : TileAlloc), v.a = some (.data y) → v.c = some c → c.isMarker = false →
      (c.isPoison = true → v.trapen.getLsbD 7 = false) → s.probe pl n.near q = .ok loc → pl.tiles[loc / 2 ^ 18]? = some al →
      let b := bufAt pl (loc / 2 ^ 18)
      let b' : LineBuf := { b with cells := mapSet b.cells (b.y % al.lines * 512 + b.x) c }
      (al.ty = g.ty → b.x ≠ al.len →
        exec (.lbwin g) s = .next ((step (.go
          { takes := takeOne [.a, .c], st := some (.tally (loc / 2 ^ 18)), data := 1, counted := true }
          [inTurn s k n ((b'.window al.lines).flatMap fun w => [(0, w), (1, w)])])).modPlane p
            (·.setLbuf (some (loc / 2 ^ 18, { b' with x := b.x + 1 }))))) ∧
      (al.ty = g.ty → b.x = al.len → exec (.lbwin g) s = .next (step (.fault (memInfo v [.a, .c] 0x51)))) ∧
      (al.ty ≠ g.ty → exec (.lbwin g) s = .next (step (.fault (memInfo v [.a, .c] 0x13 2 v.addr))))) ∧
    (∀ (hs : List Token) (m : Token), headsAre v [.a, .c] hs → hs.all Token.isMarker = true → joinMarkers hs = some m →
      let out := step (.go { takes := takeOne [.a, .c] } [inTurn s k n [(0, m), (1, m)]])
      let late := step (.fault (memInfo v [.a, .c] 0x51))
      (∀ tile, n.st = .tally tile →
        let b := bufAt pl tile
        let full := b.x = lineLen pl tile
        (m.level = 1 ∧ full ∨ m.level ≥ 2 ∧ (b.x = 0 ∨ full) →
          exec (.lbwin g) s = .next (out.modPlane p
            (·.setLbuf (some (tile, if m.level ≥ 2 then {} else { b with x := 0, y := b.y + 1 }))))) ∧
        (m.level = 1 ∧ ¬ full ∨ m.level ≥ 2 ∧ b.x ≠ 0 ∧ ¬ full → exec (.lbwin g) s = .next late)) ∧
      ((∀ tile, n.st ≠ .tally tile) → (m.level = 1 → exec (.lbwin g) s = .next late) ∧
        (m.level ≥ 2 → exec (.lbwin g) s = .next (out.modPlane p id))))

/-! ## Address generators (R281 to R284) -/

/-- Where a nest of counts n0, n1 and n2 stands at its steps: elements with the innermost index fastest, and under .mk a
marker of level 1 after each run of n0, of level 2 after each n1 of those, of level 3 at the end (R283). -/
inductive NestAt (d : Nest) (mk : Bool) : Nat → NestStep → Prop
  | element {i0 i1 i2 : Nat} : i0 < d.n0 → i1 < d.n1 → i2 < d.n2 →
      NestAt d mk ((i2 * (d.n1 * (d.n0 + if mk then 1 else 0) + if mk then 1 else 0)) + i1 * (d.n0 + if mk then 1 else 0) + i0)
        (.element i0 i1 i2)
  | line {i1 i2 : Nat} : mk = true → i1 < d.n1 → i2 < d.n2 →
      NestAt d mk (i2 * (d.n1 * (d.n0 + 1) + 1) + i1 * (d.n0 + 1) + d.n0) (.mark 1)
  | page {i2 : Nat} : mk = true → i2 < d.n2 → NestAt d mk (i2 * (d.n1 * (d.n0 + 1) + 1) + d.n1 * (d.n0 + 1)) (.mark 2)
  | volume : mk = true → NestAt d mk (d.n2 * (d.n1 * (d.n0 + 1) + 1)) (.mark 3)

/-- The address of an element: base, the offset b, the buffer of .rot, and the strides (R282). -/
def nestAddr (x : Site) (d : Nest) (i0 i1 i2 : Nat) : W64 :=
  let base := if x.v.g.imm then d.base + sext32 (atomVal x.v .b) else d.base
  let al := (x.pl.tiles[wbits d.base 29 18]?).getD { region := 0, mode := 0 }
  let rot := if x.v.g.opt.getLsbD 1 then
      BitVec.ofNat 64 (x.n.fired.length % max al.buffers 1 * (al.bytes / max al.buffers 1)) else 0#64
  base + rot + BitVec.ofNat 64 i0 * d.s0 + BitVec.ofNat 64 i1 * d.s1 + BitVec.ofNat 64 i2 * d.s2

/-- The record of a fault in element (i0, i1, i2) (R284). -/
def nestFault (x : Site) (access : Nat) (va : W64) (i0 i1 i2 : Nat) : FaultInfo :=
  { memInfo x.v (addrOps x.v.g) 0 access va with iter := some [i0, i1, i2, x.n.fired.length] }

/-- AGEN in its turn: the read of its descriptor, then one element or marker at a time, then the end. -/
inductive Generates : Instr → Site → MemFiring → Prop
  | reads {x : Site} {loc : Nat} {raw : List W64} : (∀ j w, x.n.st ≠ .agen w j) → (∀ o ∈ addrOps x.v.g, ∃ y, x.v.head o = some (.data y)) →
      (x.v.g.mode.toNat ≥ 4 → ∀ m, x.v.c = some m → m.isMarker = false) →
      x.s.probe x.pl x.n.near (asked x { space := 0, va := atomVal x.v .a, size := 32, align := 16 }) = .ok loc →
      x.pl.mustWait x.s.cycle { x.request { space := 0, va := atomVal x.v .a, size := 32, align := 16 }
        (nestFault x 1 (atomVal x.v .a) 0 0 0) loc (.beat 32) with id := x.s.nextId } = false →
      descriptorAt x.pl.sram loc = some raw →
      Generates (.agen x.v.g) x (.go { st := some (.agen raw (elemAt x)) } [])
  | address {x : Site} {raw hs : _} {j i0 i1 i2 : Nat} : x.n.st = .agen raw j → headsAre x.v (addrOps x.v.g) hs →
      NestAt (nestOf raw) (x.v.g.opt.getLsbD 0) j (.element i0 i1 i2) → x.v.g.mode = 0#3 →
      Generates (.agen x.v.g) x (.go { st := some (.agen raw (j + 1)) }
        [passes x [(0, .data (nestAddr x (nestOf raw) i0 i1 i2)), (1, .data (nestAddr x (nestOf raw) i0 i1 i2))]])
  | load {x : Site} {raw hs : _} {j i0 i1 i2 : Nat} {f : MemFiring} : x.n.st = .agen raw j → headsAre x.v (addrOps x.v.g) hs →
      NestAt (nestOf raw) (x.v.g.opt.getLsbD 0) j (.element i0 i1 i2) → x.v.g.mode = 1#3 →
      Probed x { space := 0, va := nestAddr x (nestOf raw) i0 i1 i2, size := x.v.g.ty.bytes, align := x.v.g.ty.bytes }
        (nestFault x 1 (nestAddr x (nestOf raw) i0 i1 i2) i0 i1 i2) { st := some (.agen raw (j + 1)) }
        (.load x.v.g.ty x.v.g.ty.bytes false) f →
      Generates (.agen x.v.g) x f
  | source {x : Site} {raw hs : _} {j i0 i1 i2 bytes : Nat} {f : MemFiring} : x.n.st = .agen raw j →
      headsAre x.v (addrOps x.v.g) hs → NestAt (nestOf raw) (x.v.g.opt.getLsbD 0) j (.element i0 i1 i2) →
      (x.v.g.mode = 2#3 ∧ bytes = 64 ∨ x.v.g.mode = 3#3 ∧ bytes = 128) →
      Probed x { space := 0, va := nestAddr x (nestOf raw) i0 i1 i2, size := bytes, align := 16 }
        (nestFault x 4 (nestAddr x (nestOf raw) i0 i1 i2) i0 i1 i2) { st := some (.agen raw (j + 1)) } (.beat bytes) f →
      Generates (.agen x.v.g) x f
  | sink {x : Site} {raw hs : _} {j i0 i1 i2 bytes : Nat} {t : Token} {f : MemFiring} : x.n.st = .agen raw j →
      headsAre x.v (addrOps x.v.g) hs → NestAt (nestOf raw) (x.v.g.opt.getLsbD 0) j (.element i0 i1 i2) →
      (x.v.g.mode = 4#3 ∧ bytes = 64 ∨ x.v.g.mode = 5#3 ∧ bytes = 128) → x.v.c = some t → t.isMarker = false →
      Probed x { space := 0, va := nestAddr x (nestOf raw) i0 i1 i2, size := bytes, align := 16, kind := 1 }
        (nestFault x 5 (nestAddr x (nestOf raw) i0 i1 i2) i0 i1 i2) { takes := takeOne [.c], st := some (.agen raw (j + 1)) }
        (sinkBeat bytes t) f →
      Generates (.agen x.v.g) x f
  | marker {x : Site} {raw hs : _} {j l : Nat} : x.n.st = .agen raw j → headsAre x.v (addrOps x.v.g) hs → x.v.g.mode.toNat < 4 →
      NestAt (nestOf raw) (x.v.g.opt.getLsbD 0) j (.mark l) → l < 3 →
      Generates (.agen x.v.g) x (.go { st := some (.agen raw (j + 1)) } [passes x [(0, x.v.made l), (1, x.v.made l)]])
  | volume {x : Site} {raw hs : _} {j : Nat} : x.n.st = .agen raw j → headsAre x.v (addrOps x.v.g) hs → x.v.g.mode.toNat < 4 →
      NestAt (nestOf raw) (x.v.g.opt.getLsbD 0) j (.mark 3) →
      Generates (.agen x.v.g) x (.go { st := some (.agen raw (j + 1)), round := some (x.n.round + 1#8) }
        [passes x [(0, .marker 3#3 x.n.round 0#8), (1, .marker 3#3 x.n.round 0#8)]])
  | ends {x : Site} {raw hs : _} {j : Nat} : x.n.st = .agen raw j → headsAre x.v (addrOps x.v.g) hs → x.v.g.mode.toNat < 4 →
      (nestOf raw).step (x.v.g.opt.getLsbD 0) j = .stop →
      Generates (.agen x.v.g) x (.go (takesOf x (addrOps x.v.g) (some .plain)) [passes x []])
  | sinkEnds {x : Site} {raw hs : _} {j : Nat} : x.n.st = .agen raw j → headsAre x.v (addrOps x.v.g) hs → 4 ≤ x.v.g.mode.toNat →
      (∀ m, x.v.c = some m → m.isMarker = false) → (nestOf raw).step (x.v.g.opt.getLsbD 0) j = .stop →
      Generates (.agen x.v.g) x (.go (takesOf x (addrOps x.v.g) (some .plain)) [passes x [(0, .ord)]])
  | joined {x : Site} {hs : List Token} {m : Token} : (∀ j w, x.n.st ≠ .agen w j) → headsAre x.v (addrOps x.v.g) hs →
      hs.all Token.isMarker = true → joinMarkers hs = some m → (4 ≤ x.v.g.mode.toNat → ∀ m, x.v.c = some m → m.isMarker = false) →
      Generates (.agen x.v.g) x (.go { takes := takeOne (addrOps x.v.g), round := if m.level ≥ 4 then some (m.round + 1#8) else none }
        [passes x (markerOut (decide (x.v.g.mode.toNat < 4)) m)])
  | clash {x : Site} {hs : List Token} : (∀ j w, x.n.st ≠ .agen w j) → headsAre x.v (addrOps x.v.g) hs →
      hs.any Token.isMarker = true → (hs.all Token.isMarker = false ∨ joinMarkers hs = none) →
      (4 ≤ x.v.g.mode.toNat → ∀ m, x.v.c = some m → m.isMarker = false) →
      Generates (.agen x.v.g) x (.fault (memInfo x.v (addrOps x.v.g) 0x51))
  | poison {x : Site} {hs : List Token} : (∀ j w, x.n.st ≠ .agen w j) → headsAre x.v (addrOps x.v.g) hs →
      hs.any Token.isMarker = false → hs.any Token.isPoison = true →
      (4 ≤ x.v.g.mode.toNat → ∀ m, x.v.c = some m → m.isMarker = false) →
      Generates (.agen x.v.g) x (.fault (memInfo x.v (addrOps x.v.g) 0x30))
  | noDescriptor {x : Site} {c : Nat} : (∀ j w, x.n.st ≠ .agen w j) → (∀ o ∈ addrOps x.v.g, ∃ y, x.v.head o = some (.data y)) →
      (x.v.g.mode.toNat ≥ 4 → ∀ m, x.v.c = some m → m.isMarker = false) →
      x.s.probe x.pl x.n.near (asked x { space := 0, va := atomVal x.v .a, size := 32, align := 16 }) = .fault c →
      Generates (.agen x.v.g) x (.fault { nestFault x 1 (atomVal x.v .a) 0 0 0 with cause := c })
  | sinkMarker {x : Site} {l : BitVec 3} {r st : BitVec 8} : 4 ≤ x.v.g.mode.toNat → x.v.c = some (.marker l r st) →
      Generates (.agen x.v.g) x (.go { takes := takeOne [.c] } [passes x (markerOut false (.marker l r st))])

/-- AGEN in its turn. A fault leaves the firing to resume at its element, with the descriptor read once more (R284). -/
def agenFires : Prop :=
  ∀ (s : State) (p : PlaneId) (k : Nat) (pl : Plane) (n : Node) (g : GArgs) (f : MemFiring),
    let t := s.admittedMem p n (.agen g)
    Generates (.agen g) ⟨s, p, k, pl, n, nodeView s pl k n g⟩ f → MemTurn s p k pl n g (.agen g) →
    ((∀ info, f ≠ .fault info) → exec (.agen g) s = .next (commitMem t p k pl n false f)) ∧
    (∀ info, f = .fault info → pl.st = .live → pl.handler = false → pl.abandon = false →
      exec (.agen g) s = .next ((commitMem t p k pl n false f).modPlane p (·.modNode k resumeNest)))

/-- What a nest does at a step is what R283 gives; a nest without .mk or beyond its end is over. -/
def nestOrder : Prop :=
  ∀ (d : Nest) (mk : Bool) (j : Nat) (e : NestStep), (NestAt d mk j e → d.step mk j = e) ∧
    (d.step mk j ≠ .stop → NestAt d mk j (d.step mk j))

/-! ## BINRUN (R329, R330) -/

/-- The token is data or untrapped poison. -/
def replaying (x : Site) : Prop := ∃ y, x.v.a = some y ∧ y.isMarker = false ∧ (y.isPoison = true → x.v.trapen.getLsbD 7 = false)

/-- The staging area lies in the window of its die (R327). -/
def stageFits (x : Site) : Prop :=
  let c := x.s.ctx x.pl.ctx
  c.binSet.stage * 4096 + c.binSet.span ≤ (c.window c.binSet.md).2 * 4096

/-- The records of a bin that the firing replays. -/
def toReplay (x : Site) (closed j : Nat) : List BinRec :=
  replayOrder (x.v.g.opt.getLsbD 0) closed ((mapGet (x.s.ctx x.pl.ctx).bins j).getD [])

/-- The place of each 64 KiB piece of a bin's range, as the probes find it. -/
def stagedAt (x : Site) (j : Nat) (ls : List (Nat × Nat × Nat)) : Prop :=
  let b := (x.s.ctx x.pl.ctx).binSet
  ls.map (fun l => (l.1, l.2.1)) = binPieces b.span ∧ ∀ l ∈ ls, x.s.probe x.pl x.n.near (asked x
    { space := 2, va := BitVec.ofNat 64 (b.base + j * b.span + l.1), size := 4, align := 4, kind := 1 }) = .ok l.2.2

/-- A BINRUN's step: the staging area is checked and the rounds closed are noted, then the bins that hold records to replay, each
staged and then written back, and at the end the acknowledgment. A fault leaves the firing where it is, to resume at its bin. -/
inductive Replays (x : Site) : MemFiring → BinWork → Prop
  | marker {y : Token} : x.v.a = some y → y.isMarker = true → Replays x (.go { takes := takeOne [.a] } [passes x (markerOut false y)]) .nothing
  | trap {y : Token} : x.v.a = some y → y.isPoison = true → x.v.trapen.getLsbD 7 = true →
      Replays x (.fault (memInfo x.v [.a] 0x30)) .nothing
  | tooWide : replaying x → (∀ i c, x.n.st ≠ .run i c) → (∀ j c m ls, x.n.st ≠ .replay j c m ls) → ¬ stageFits x →
      Replays x (.fault { memInfo x.v [.a] 0x14 with iter := some [0, 0, 0, x.n.fired.length] }) .nothing
  | begins : replaying x → (∀ i c, x.n.st ≠ .run i c) → (∀ j c m ls, x.n.st ≠ .replay j c m ls) → stageFits x →
      Replays x (.go { st := some (.run 0 (x.s.ctx x.pl.ctx).closed) } []) .nothing
  | ends {i closed : Nat} : replaying x → x.n.st = .run i closed →
      (∀ j, i ≤ j → j < (x.s.ctx x.pl.ctx).binSet.bins → toReplay x closed j = []) →
      Replays x (.go (takesOf x [.a] (some .plain)) [passes x [(0, .ord)]]) .nothing
  | skips {i j closed : Nat} : replaying x → x.n.st = .run i closed → i < j → j < (x.s.ctx x.pl.ctx).binSet.bins →
      (∀ m, i ≤ m → m < j → toReplay x closed m = []) → toReplay x closed j ≠ [] →
      Replays x (.go { st := some (.run j closed) } []) .nothing
  | stages {j closed : Nat} {ls : List (Nat × Nat × Nat)} : replaying x → x.n.st = .run j closed →
      j < (x.s.ctx x.pl.ctx).binSet.bins → toReplay x closed j ≠ [] → x.staging = false → stagedAt x j ls →
      Replays x (.go { st := some (.replay j closed (toReplay x closed j).length ls) } []) (.stage j ls (toReplay x closed j))
  | refused {j closed loc : Nat} {l : Nat × Nat} {ls : List (Nat × Nat)} {c : Nat} : replaying x → x.n.st = .run j closed →
      j < (x.s.ctx x.pl.ctx).binSet.bins → toReplay x closed j ≠ [] → x.staging = false →
      binPieces (x.s.ctx x.pl.ctx).binSet.span = l :: ls → loc = (x.s.ctx x.pl.ctx).binSet.base + j * (x.s.ctx x.pl.ctx).binSet.span + l.1 →
      x.s.probe x.pl x.n.near (asked x { space := 2, va := BitVec.ofNat 64 loc, size := 4, align := 4, kind := 1 }) = .fault c →
      Replays x (.fault { memInfo x.v [.a] c 5 (BitVec.ofNat 64 loc) with
        iter := some [j, 0, 0, x.n.fired.length], md := some x.n.near }) .nothing
  | back {j closed taken : Nat} {ls : List (Nat × Nat × Nat)} : replaying x → x.n.st = .replay j closed taken ls →
      Replays x (.go { st := some (.run (j + 1) closed) } [])
        (.back j ls (replayLeft (x.v.g.opt.getLsbD 0) closed taken ((mapGet (x.s.ctx x.pl.ctx).bins j).getD [])))

/-- BINRUN in its turn: what its step does to its node, and then the staging or write-back that goes with it. -/
def binReplays : Prop :=
  ∀ (s : State) (p : PlaneId) (k : Nat) (pl : Plane) (n : Node) (g : GArgs) (f : MemFiring) (w : BinWork),
    let t := s.admittedMem p n (.binrun g)
    Replays ⟨s, p, k, pl, n, nodeView s pl k n g⟩ f w → MemTurn s p k pl n g (.binrun g) →
    exec (.binrun g) s = .next ((commitMem t p k pl n false f).binWork p pl.ctx w)

end Sys2Proof.Claims
end

