-- ==== Sys2Proof/Claims/Engines.lean ====
section
/-! DEFINITION. What the matrix nodes (R242 to R260) and the copy nodes (R335 to R350) do in their turn, and the device
steps of their engines. -/

namespace Sys2Proof.Claims

open Sys2Proof.Machine

/-- The present step is that of node k of plane p, which may fire (R36, R421). -/
structure Ready (s : State) (p : PlaneId) (k : Nat) (pl : Plane) (n : Node) : Prop where
  cursor : s.cursor = .node p k
  plane  : s.plane? p = some pl
  node   : pl.nodes[k]? = some n
  may    : pl.mayFire k n = true

/-! ## Nodes that never fire -/

/-- TSCFG, MXCFG in both forms: they consume nothing and never fire (R247, R258, R266). -/
def neverFires (i : Instr) : Prop := ∃ g, i = .tscfg g ∨ i = .mxcfg g ∨ i = .mxcfgTile g

/-! ## Feeding an array (R246, R248) -/

/-- MXA and MXB hand the token at the head of a, whatever its kind, to target A. -/
def feeds : Prop :=
  ∀ (i : Instr) (g : GArgs) (s : State) (p : PlaneId) (k : Nat) (pl : Plane) (n : Node) (t : Token), i = .mxa g ∨ i = .mxb g →
    Ready s p k pl n → n.a.head = some t → pl.canEmit n [(0, t)] = true →
    exec i s = .next (s.setPlane p { (pl.modNode k (·.take [1, 0, 0, 0])).emitAll n [(0, t)] with active := true })

/-- The tokens of a scale group that MXSC holds, and the size of a group: four for operand c, eight for operand p. -/
def scalesHeld (n : Node) : List Token := match n.st with | .scales ts => ts | _ => []
def scaleSize (n : Node) : Nat := match n.out 0 with | some (.operand _ .p) => 8 | _ => 4

/-- MXSC drops markers, gathers a group, and sends it whole: its words, or the first poison among its tokens. -/
def gathersScales : Prop :=
  ∀ (g : GArgs) (s : State) (p : PlaneId) (k : Nat) (pl : Plane) (n : Node) (t : Token), Ready s p k pl n → n.a.head = some t →
    (t.isMarker = true → exec (.mxsc g) s = .next (s.setPlane p { pl.modNode k (·.take [1, 0, 0, 0]) with active := true })) ∧
    (t.isMarker = false → (scalesHeld n).length + 1 < scaleSize n →
      exec (.mxsc g) s = .next (s.setPlane p
        { pl.modNode k (fun y => { y.take [1, 0, 0, 0] with st := .scales (scalesHeld n ++ [t]) }) with active := true })) ∧
    (t.isMarker = false → scaleSize n ≤ (scalesHeld n).length + 1 → ∀ w : Token,
      (w = match (scalesHeld n ++ [t]).findSome? Token.cause with
        | some c => .poison c
        | none => .beat ((scalesHeld n ++ [t]).map fun t => t.val.setWidth 32)) → pl.canEmit n [(0, w)] = true →
      exec (.mxsc g) s = .next (s.setPlane p
        { (pl.modNode k fun y => { y.take [1, 0, 0, 0] with st := .scales [] }).emitAll n [(0, w)] with active := true }))

/-! ## Steps and boundaries of an engine (R249 to R254) -/

/-- MXOP g, or MXTILE g as the part that steps. -/
def EngineOf (i : Instr) (n : Node) : Prop := ∃ g, i = .mxop g ∨ (i = .mxtile g ∧ n.refs.length ≠ 1)

/-- An engine node in its turn, with its engine; no tensor start, boundary or load is under way (R255). -/
structure EngineTurn (s : State) (p : PlaneId) (k : Nat) (pl : Plane) (n : Node) (e : Engine) : Prop extends Ready s p k pl n where
  engine : pl.engine n = some e
  open_  : n.mfe.point = .run ∨ (n.mfe.point = .start ∧ e.ld = none)

/-- Markers on both buses: joined, they leave east and south, and from level 3 the boundary begins. Between the groups of
one step, or with rounds that differ, they fault with 0x51 and R260's iteration vector. -/
def engineMarkers : Prop :=
  ∀ (i : Instr) (s : State) (p : PlaneId) (k : Nat) (pl : Plane) (n : Node) (e : Engine) (a b : Token), EngineOf i n →
    EngineTurn s p k pl n e → s.granted p pl → n.a.head = some a → n.b.head = some b → a.isMarker = true → b.isMarker = true →
    (∀ j, n.mfe.latchA = [] → n.mfe.latchB = [] → joinMarkers [a, b] = some j → pl.canEmit n [(2, j), (3, j)] = true →
      exec i s = .next ((grantCycle s p).2.modPlane p fun q =>
        q.moveTokens k (n.take [1, 1, 0, 0]) (if j.level ≥ 3 then { n.mfe with point := .boundary j 0 } else n.mfe)
          [(2, j), (3, j)])) ∧
    ((n.mfe.latchA ≠ [] ∨ n.mfe.latchB ≠ [] ∨ joinMarkers [a, b] = none) →
      exec i s = .next ((grantCycle s p).2.detectFault p (some (.node k))
        { cause := 0x51, iter := some [n.mfe.tensor, n.mfe.k0, e.r, e.c], opv := some [a.recorded, b.recorded, 0#64] }))

/-- While a tensor start or a load is pending, markers on both buses still pass; from level 3 their boundary follows it (R250, R255). -/
def engineBehind : Prop :=
  ∀ (i : Instr) (s : State) (p : PlaneId) (k : Nat) (pl : Plane) (n : Node) (e : Engine) (a b j : Token), EngineOf i n →
    Ready s p k pl n → pl.engine n = some e → s.granted p pl → (n.mfe.point = .start ∧ e.ld ≠ none ∨ ∃ r c, n.mfe.point = .load r c) →
    n.mfe.behind = none → n.a.head = some a → n.b.head = some b → a.isMarker = true → b.isMarker = true →
    n.mfe.latchA = [] → n.mfe.latchB = [] → joinMarkers [a, b] = some j → pl.canEmit n [(2, j), (3, j)] = true →
    exec i s = .next ((grantCycle s p).2.modPlane p fun q =>
      q.moveTokens k (n.take [1, 1, 0, 0]) (if j.level ≥ 3 then { n.mfe with behind := some j } else n.mfe) [(2, j), (3, j)])

/-- A marker on one bus against a group on the other faults with 0x51 (R249). -/
def engineClash : Prop :=
  ∀ (i : Instr) (s : State) (p : PlaneId) (k : Nat) (pl : Plane) (n : Node) (e : Engine) (a b : Token), EngineOf i n →
    EngineTurn s p k pl n e → s.granted p pl → n.a.head = some a → n.b.head = some b → a.isMarker ≠ b.isMarker →
    exec i s = .next ((grantCycle s p).2.detectFault p (some (.node k))
      { cause := 0x51, iter := some [n.mfe.tensor, n.mfe.k0, e.r, e.c], opv := some [a.recorded, b.recorded, 0#64] })

/-- A group is a step's whenever it is no marker. -/
def group (t : Token) : Prop := t.isMarker = false

/-- The engine admits a step in the present cycle: the plane is granted, and at the tile of each element the MFE is free and the
governor admits its charge (R250, R258, R415). -/
def stepAdmitted (s : State) (p : PlaneId) (pl : Plane) (n : Node) (e : Engine) : Prop :=
  s.granted p pl ∧ (admitMfe (grantCycle s p).2 p n.mfeTiles e.f.cls e.f.issue).1 = true

/-- A step on the last groups of an engine whose scales are at hand: its cells take the values of R251 to R254, its groups
leave an array element unchanged, and its flags are raised once its last cell is updated. Where a group or scale is poison and the trap is on, the first
element that meets it faults. -/
def engineSteps : Prop :=
  ∀ (i : Instr) (s : State) (p : PlaneId) (k : Nat) (pl : Plane) (n : Node) (e : Engine) (a b : Token), EngineOf i n →
    EngineTurn s p k pl n e → stepAdmitted s p pl n e → n.a.head = some a → n.b.head = some b → group a → group b →
    e.nr ≤ n.mfe.latchA.length + 1 → e.nc ≤ n.mfe.latchB.length + 1 →
    (e.f.mx = true → e.nr * (e.f.rows / 4) ≤ n.mfe.scaleA.length ∧ e.nc * (e.f.cols / 4) ≤ n.mfe.scaleB.length) →
    let as := n.mfe.latchA ++ [a]
    let bs := n.mfe.latchB ++ [b]
    let es := if e.tile then [] else as.map (fun t => (2, t)) ++ bs.map fun t => (3, t)
    let t := (admitMfe (grantCycle s p).2 p n.mfeTiles e.f.cls e.f.issue).2
    let traps := (maskEnables n.grant (s.ctx pl.ctx).trapen).getLsbD 7
    pl.canEmit n es = true →
    (e.firstPoison n.mfe as bs = none ∨ traps = false →
      exec i s = .next (t.modPlane p fun q => q.moveTokens k (n.take [1, 1, 0, 0]) (e.step n.mfe as bs s.cycle) es)) ∧
    (∀ r c q, e.firstPoison n.mfe as bs = some (r, c, q) → traps = true →
      exec i s = .next (t.detectFault p (some (.node k))
        { cause := 0x30, iter := some [n.mfe.tensor, n.mfe.k0, e.r + r, e.c + c], opv := some [q.setWidth 64, 0#64, 0#64] }))

/-- The flags that an engine's step owes are those of its cells, from its last cell's cycle on, and a plane raises the flags of the
steps that have completed (R251). -/
def stepFlags : Prop :=
  (∀ (e : Engine) (m : Mfe) (as bs : List Token) (now : Nat), ∃ fl, (e.step m as bs now).due = m.due ++ [(e.lastCell now, fl)] ∧
    ∀ b, fl.getLsbD b = true ↔ ∃ i < e.rows, ∃ j < e.cols, (e.cell m as bs i j).2.2.getLsbD b = true) ∧
  ∀ (pl : Plane) (now b : Nat), (pl.ripen now).flags.getLsbD b = true ↔
    pl.flags.getLsbD b = true ∨ ∃ n ∈ pl.nodes, ∃ d ∈ n.mfe.due, d.1 ≤ now ∧ d.2.getLsbD b = true

/-- What a step leaves in the cell of row i and column j: the cell's old value and the first poison it met, or the sum of
R253 with its product, and k0 grown by the format's depth (R251, R254). -/
def stepCells : Prop :=
  ∀ (e : Engine) (m : Mfe) (as bs : List Token) (now i j : Nat), i < e.rows → j < e.cols →
    let r := e.step m as bs now
    let at_ := i * e.cols + j
    let old := (m.acc[at_]?).getD 0#64
    r.k0 = m.k0 + e.f.kp ∧
    (∀ q, e.poison m as bs (i / e.f.rows) (j / e.f.cols) = some q →
      r.acc[at_]? = some old ∧ r.pois[at_]? = some (some (((m.pois[at_]?).getD none).getD q))) ∧
    (e.poison m as bs (i / e.f.rows) (j / e.f.cols) = none →
      r.pois[at_]? = some ((m.pois[at_]?).getD none) ∧
      r.acc[at_]? = some (e.f.cell (groupNat as (i / e.f.rows)) (groupNat bs (j / e.f.cols)) (i % e.f.rows) (j % e.f.cols)
        (if e.f.mx then scaleAt m.scaleA i else none) (if e.f.mx then scaleAt m.scaleB j else none) old).1)

/-! ## Accumulators (R255 to R257) -/

/-- ACCRD, and MXTILE as the part that reads out, emit the next token of their engine's readout. -/
def readsOut : Prop :=
  ∀ (i : Instr) (s : State) (p : PlaneId) (k : Nat) (pl : Plane) (n : Node) (g : GArgs) (j : Nat) (t : Token) (rest : List Token),
    ((i = .accrd g ∧ (∀ h, decodeGraph n.word ≠ .ok (.mxtile h))) ∨ (i = .mxtile g ∧ decodeGraph n.word = .ok i)) →
    Ready s p k pl n → s.granted p pl → n.refs = [j] → pl.readout j = t :: rest →
    let es : List (Nat × Token) := match i with | .mxtile _ => [(4, t)] | _ => [(0, t), (1, t)]
    pl.canEmit n es = true →
    exec i s = .next ((grantCycle s p).2.modPlane p fun q =>
      { (q.modNode j fun x => x.setMfe { x.mfe with readout := rest }).emitAll n es with active := true })

/-- ACCCLR at its engine's boundary: a marker is dropped; a true predicate clears the cells, a false one or untrapped
poison leaves them; trapped poison faults (R187, R256). -/
def clears : Prop :=
  ∀ (g : GArgs) (s : State) (p : PlaneId) (k : Nat) (pl : Plane) (n x : Node) (e : Engine) (j : Nat) (mk t : Token), Ready s p k pl n →
    n.refs.head? = some j → pl.nodes[j]? = some x → pl.engine x = some e → e.tile = false → e.clr = some k →
    x.mfe.point = .boundary mk 1 → n.a.head = some t →
    let traps := (maskEnables n.grant (s.ctx pl.ctx).trapen).getLsbD 7
    let took := pl.modNode k fun y => { y.take [1, 0, 0, 0] with grant := .none }
    (t.isMarker = true → exec (.accclr g) s = .next (s.setPlane p { pl.modNode k (·.take [1, 0, 0, 0]) with active := true })) ∧
    (t.isMarker = false → (t.isPoison = true → traps = false) →
      exec (.accclr g) s = .next (s.setPlane p
        { took.setMfe j (if t.isOn then { x.mfe with point := .boundary mk 2, acc := [], pois := [] }
                         else { x.mfe with point := .boundary mk 2 }) with active := true })) ∧
    (∀ c, t = .poison c → traps = true →
      exec (.accclr g) s = .next (s.detectFault p (some (.node k))
        { cause := 0x30, iter := some [x.mfe.tensor, x.mfe.k0, e.r, e.c], opv := some [c.setWidth 64, 0#64, 0#64] }))

/-- ACCLD in a load: row by row, values and poison into the cells and a marker at the end of each row; anything else faults
with 0x51, and the load gives back what it has taken, to be read anew (R255, R260). -/
def loadsBank : Prop :=
  ∀ (g : GArgs) (s : State) (p : PlaneId) (k : Nat) (pl : Plane) (n x : Node) (e : Engine) (j row col : Nat) (t : Token),
    Ready s p k pl n → n.refs.head? = some j → pl.nodes[j]? = some x → pl.engine x = some e → x.mfe.point = .load row col →
    n.a.head = some t →
    let took := pl.modNode k fun y => { y.take [1, 0, 0, 0] with grant := .none }
    (∀ w, t = .data w → col < e.cols → exec (.accld g) s = .next (s.setPlane p (took.setMfe j
      { x.mfe with acc := setAt 0#64 x.mfe.acc (row * e.cols + col) w, point := .load row (col + 1) }))) ∧
    (∀ c, t = .poison c → col < e.cols → exec (.accld g) s = .next (s.setPlane p (took.setMfe j
      { x.mfe with pois := setAt none x.mfe.pois (row * e.cols + col) (some c), point := .load row (col + 1) }))) ∧
    (t.isMarker = true → e.cols ≤ col → exec (.accld g) s = .next (s.setPlane p (took.setMfe j
      (if row + 1 < e.rows then { x.mfe with point := .load (row + 1) 0 } else x.mfe.started)))) ∧
    ((t.isMarker = true ↔ col < e.cols) → exec (.accld g) s = .next ((s.setPlane p (pl.loadAgain j k e x.mfe row col)).detectFault p
      (some (.node k))
      { cause := 0x51, iter := some [x.mfe.tensor, x.mfe.k0, e.r, e.c], opv := some [t.recorded, 0#64, 0#64] }))

/-- A place of a list set, the list grown with a filler as far as it must. -/
def setsPlace : Prop :=
  ∀ (l : List W64) (k : Nat) (v : W64), (setAt 0#64 l k v)[k]? = some v ∧ ∀ j, j ≠ k → ((setAt 0#64 l k v)[j]?).getD 0#64 = (l[j]?).getD 0#64

/-- The plane of a device step is LIVE and has no word to be reloaded. -/
structure EngineStep (s : State) (pl : Plane) (n : Node) (e : Engine) : Prop where
  plane  : s.plane? s.arg.plane = some pl
  node   : pl.nodes[s.arg.index]? = some n
  engine : pl.engine n = some e
  live   : pl.st = .live
  loaded : pl.reload = false

/-- MFE_BOUNDARY (R256): an MXTILE's engine copies its cells out with their markers, then clears them, then starts anew; an
element without the control in question passes its step by. -/
def boundaries : Prop :=
  ∀ (s : State) (pl : Plane) (n : Node) (e : Engine) (mk : Token), EngineStep s pl n e →
    let m := n.mfe
    let set (m : Mfe) : State := s.setPlane s.arg.plane (pl.setMfe s.arg.index m)
    (m.point = .boundary mk 0 → m.busy < s.cycle → m.readout.all Token.isMarker = true → e.tile = true →
      exec .mfeBoundary s = .next (set { m with point := .boundary mk 1, readout := m.readout ++ e.readout m.acc m.pois mk })) ∧
    (m.point = .boundary mk 0 → m.busy < s.cycle → m.readout.all Token.isMarker = true → e.tile = false → e.rd = none →
      exec .mfeBoundary s = .next (set { m with point := .boundary mk 1 })) ∧
    (m.point = .boundary mk 1 → e.tile = true →
      exec .mfeBoundary s = .next (set { m with point := .boundary mk 2, acc := [], pois := [] })) ∧
    (m.point = .boundary mk 1 → e.tile = false → e.clr = none →
      exec .mfeBoundary s = .next (set { m with point := .boundary mk 2 })) ∧
    (m.point = .boundary mk 2 →
      exec .mfeBoundary s = .next (set { m with k0 := 0, scaleA := [], scaleB := [], tensor := m.tensor + 1
                                                point := if mk.level = 7 then .ended else .start })) ∧
    (∀ (j : Nat) (x : Node) (b : Bool) (w : W64), m.point = .boundary mk 0 → m.busy < s.cycle → m.readout.all Token.isMarker = true →
      e.tile = false → e.rd = some j → pl.nodes[j]? = some x → x.a.head = some (.data w) → b = w.getLsbD 0 →
      exec .mfeBoundary s = .next (s.setPlane s.arg.plane
        { (pl.modNode j fun y => { y.take [1, 0, 0, 0] with grant := .none }).setMfe s.arg.index
            { m with point := .boundary mk 1
                     readout := m.readout ++ if b then e.readout m.acc m.pois mk else [mk] } with active := true }))

/-- The readout of an engine: row after row of cells, a marker of level 1 after each row but the last, one of level 2 after
the last, and the boundary's marker (R257). -/
def readoutOrder : Prop :=
  ∀ (e : Engine) (acc : List W64) (pois : List (Option (BitVec 8))) (mk : Token) (i j : Nat), i < e.rows →
    let out := e.readout acc pois mk
    let at_ := i * (e.cols + 1)
    (j < e.cols → out[at_ + j]? = some (match (pois[i * e.cols + j]?).getD none with
      | some c => .poison c
      | none => .data ((acc[i * e.cols + j]?).getD 0#64))) ∧
    out[at_ + e.cols]? = some (.marker (if i + 1 < e.rows then 1#3 else 2#3) mk.round 0#8) ∧
    out[e.rows * (e.cols + 1)]? = some mk

/-- A load that faults stands at its beginning again, with every token that it has taken back at the head of its channel: the values
with their poison, and a marker after each row (R255, R260). -/
def loadsAnew : Prop :=
  ∀ (pl : Plane) (i j : Nat) (n x : Node) (e : Engine) (m : Mfe) (row col r c : Nat), i ≠ j → pl.nodes[j]? = some n → pl.nodes[i]? = some x →
    row < e.rows → col ≤ e.cols → c ≤ e.cols → (r < row ∨ r = row ∧ c < col) →
    ∃ n' x', (pl.loadAgain i j e m row col).nodes[j]? = some n' ∧ (pl.loadAgain i j e m row col).nodes[i]? = some x' ∧
      x'.mfe.point = .load 0 0 ∧ x'.mfe.acc = [] ∧ x'.mfe.pois = [] ∧ n'.a.toks.drop (row * (e.cols + 1) + col) = n.a.toks ∧
      n'.a.toks[r * (e.cols + 1) + c]? = some (if c = e.cols then marker 1 else
        match (m.pois[r * e.cols + c]?).getD none with
        | some q => .poison q
        | none => .data ((m.acc[r * e.cols + c]?).getD 0#64))

/-- An engine whose tensor start is done stands at the boundary that waited for it, or is ready for its steps. -/
def startsOn : Prop :=
  ∀ m : Mfe, (m.behind = none → m.started = { m with point := .run }) ∧
    ∀ t, m.behind = some t → m.started = { m with point := .boundary t 0, behind := none }

/-- MFE_TENSOR_START (R255): without an ACCLD the bank is zero where nothing was kept; with one, its predicate decides
whether it is loaded. -/
def tensorStarts : Prop :=
  ∀ (s : State) (pl : Plane) (n : Node) (e : Engine), EngineStep s pl n e → n.mfe.point = .start →
    (e.ld = none → exec .mfeTensorStart s = .next (s.setPlane s.arg.plane (pl.setMfe s.arg.index n.mfe.started))) ∧
    (∀ (j : Nat) (x : Node) (w : W64), e.ld = some j → pl.nodes[j]? = some x → x.p.head = some (.data w) →
      exec .mfeTensorStart s = .next (s.setPlane s.arg.plane
        { (pl.modNode j fun y => { y.take [0, 0, 0, 1] with grant := .none }).setMfe s.arg.index
            (if w.getLsbD 0 then { n.mfe with point := .load 0 0, acc := [], pois := [] } else n.mfe.started) with
            active := true }))

/-! ## Copy nodes (R338 to R343, R350) -/

/-- CPY g and CPYM g; a CPY with .ch writes a channel (R338). -/
def CopyOf (i : Instr) (g : GArgs) (multi : Bool) : Prop := (i = .cpy g ∧ multi = false) ∨ (i = .cpym g ∧ multi = true)
def toChannel (g : GArgs) (multi : Bool) : Bool := !multi && g.opt.getLsbD 0

/-- What a copy node keeps: its packet's words so far, the free slots of each receiver, the slots returned and not counted,
and the cycle since which it waits for its port. -/
def CopyAt (n : Node) (g : GArgs) (ts : List Token) (counts returns : List Nat) (since : Option Nat) : Prop :=
  (∃ cs, n.st = .copy ts cs returns since ∧ counts = if cs = [] then List.replicate 16 (g.mode.toNat + 1) else cs) ∨
  ((∀ a b c d, n.st ≠ .copy a b c d) ∧ ts = [] ∧ counts = List.replicate 16 (g.mode.toNat + 1) ∧ returns = [] ∧ since = none)

/-- The first three words of a packet are taken one by one. -/
def packetWords : Prop :=
  ∀ (i : Instr) (g : GArgs) (multi : Bool) (s : State) (p : PlaneId) (k : Nat) (pl : Plane) (n : Node) (t : Token) (ts : List Token)
    (counts returns : List Nat) (since : Option Nat), CopyOf i g multi → Ready s p k pl n → s.walking p (.node k) = false →
    pl.claimed = none → CopyAt n g ts counts returns since → n.a.head = some t → ts.length < 3 → (ts ≠ [] ∨ t.isMarker = false) →
    exec i s = .next (s.setPlane p
      { pl.modNode k fun n => { n.take [1, 0, 0, 0] with st := .copy (ts ++ [t]) counts returns none } with active := true })

/-- The limits of R339 on a packet's words. -/
structure PacketOk (ws : List W64) (multi chan : Bool) (ty : Ty) (producers : Nat) : Prop where
  reserved : wbits (packetWord ws 2) 39 36 = 0
  kind     : if multi then packetKind ws = 0 else if chan then packetKind ws = 6 else packetKind ws ≤ 5
  mask     : if multi then packetMask ws ≠ 0 ∧ packetMask ws < 2 ^ producers else packetMask ws = 0
  stride   : if multi then packetStride ws ≠ 0 else packetStride ws = 0
  length   : packetLen ws % (if chan then ty.bytes else 4) = 0

/-- The fourth word is at hand: the packet of data words `ws` in a node's turn. -/
structure PacketTurn (s : State) (p : PlaneId) (k : Nat) (pl : Plane) (n : Node) (g : GArgs) (i : Instr) (t : Token) (ts : List Token)
    (counts returns : List Nat) (since : Option Nat) : Prop extends Ready s p k pl n where
  walks : s.walking p (.node k) = false
  free  : pl.claimed = none
  admitted : (admitMem (grantCycle s p).2 p n i).1 = true
  state : CopyAt n g ts counts returns since
  words : ts.length = 3
  head  : n.a.head = some t
  grant : s.granted p pl

/-- The record of a copy's fault: the receiver, the firing, and the first three words (R340). -/
def copyFault (n : Node) (ts : List Token) (cause access j : Nat) (va : W64) : FaultInfo :=
  { cause, access, iter := some [j, 0, 0, n.fired.length], opv := some ((ts.take 3).map Token.recorded), vaddr := va }

/-- The source range of a packet. -/
def copySource (g : GArgs) (ws : List W64) (chan : Bool) : CopyRange :=
  { space := g.space, va := packetWord ws 0, len := packetLen ws, kind := 0, align := if chan then g.ty.bytes else 4 }

/-- A whole packet in its turn (R339, R341): markers and poison among its words fault, and so do a broken limit and a probe
that is refused; with every probe passed, a place in the node, the port and every receiver's slots, the copy is accepted, each
receiver's free slots fall by one, and the packet is taken. -/
def packetTurn : Prop :=
  ∀ (i : Instr) (g : GArgs) (multi : Bool) (s : State) (p : PlaneId) (k : Nat) (pl : Plane) (n : Node) (t : Token) (ts : List Token)
    (counts returns : List Nat) (since : Option Nat), CopyOf i g multi → PacketTurn s p k pl n g i t ts counts returns since →
    let chan := toChannel g multi
    let all := ts ++ [t]
    let ws := all.map Token.val
    let faults (f : FaultInfo) : Prop := exec i s = .next (((s.admittedMem p n i).setCharged p k false).detectFault p (some (.node k)) f)
    let probes := s.probeReceivers pl n.near n.info.features ws (copySource g ws chan) chan (receivers ws multi) {}
    (all.any Token.isMarker = true → faults (copyFault n all 0x51 0 0 0#64)) ∧
    (all.any Token.isMarker = false → all.any Token.isPoison = true → faults (copyFault n all 0x30 0 0 0#64)) ∧
    (all.any Token.isMarker = false → all.any Token.isPoison = false →
      (¬ PacketOk ws multi chan g.ty ((n.refs[0]?).getD 16) → faults (copyFault n all 0x44 0 0 0#64)) ∧
      (PacketOk ws multi chan g.ty ((n.refs[0]?).getD 16) →
        (∀ j c q, probes = .fault j c q → faults { copyFault n all c (if q.kind = 0 then 4 else 5) j q.va with
          md := probeDie q.space n.near }) ∧
        (∀ x, probes = .ok x → s.copiesOf p k < 16 → pl.copyHeld s.cycle k n (copyScope ws g.space chan) = false →
          (s.portQueue n.port).length < 32 → (multi = true → ∀ j ∈ receivers ws multi, (counts[j]?).getD 0 ≠ 0) →
          exec i s = .next
            (let u := commitEffect (s.admittedMem p n i) p k n
              { takes := [1, 0, 0, 0], data := 4, counted := true
                st := some (.copy []
                  (if multi then counts.zipIdx.map fun c => if (receivers ws multi).contains c.2 then c.1 - 1 else c.1 else counts)
                  returns none) }
             { u with ports := mapSet u.ports n.port (u.portQueue n.port ++
                [{ plane := p, node := k, words := ws, chan, ty := g.ty, space := g.space, md := n.near, src := x.src
                   dsts := x.dsts, cells := x.cells, iter := [0, 0, 0, n.fired.length], opv := (all.take 3).map Token.recorded
                   since := s.cycle
                   devs := s.devicePages n.near pl.ctx (copySource g ws chan) x.src ++
                     (x.dsts.head?.map (s.devicePages n.near pl.ctx (destination ws chan 0))).getD [] }]) }))))

/-- A marker where a packet would begin: it follows the tokens of the node's copies on a channel, and otherwise reaches its
sink (R41). -/
def copyMarker : Prop :=
  ∀ (i : Instr) (g : GArgs) (multi : Bool) (s : State) (p : PlaneId) (k : Nat) (pl : Plane) (n : Node) (m : Token)
    (counts returns : List Nat) (since : Option Nat), CopyOf i g multi → Ready s p k pl n → s.walking p (.node k) = false →
    s.granted p pl → pl.claimed = none → (admitMem (grantCycle s p).2 p n i).1 = true → CopyAt n g [] counts returns since →
    n.a.head = some m → m.isMarker = true →
    pl.canEmit n [(0, m), (1, m)] = true → (s.copiesOf p k = 0 ∨ (toChannel g multi = false ∧ m.level < 6)) →
    exec i s = .next (commitEffect (s.admittedMem p n i) p k n { takes := [1, 0, 0, 0], emits := markerOut (toChannel g multi) m })

/-! ## Copy engines (R342, R345) -/

/-- What the engine of a port does to the lines of device memory that it reads or writes: it goes on once these are in their port
cache, and waits for slots otherwise (R299, R305). -/
def usesLines (s : State) (use : List Nat × CacheUse) (next : State → State) : Prop :=
  (∀ u, s.cacheLines (.port s.arg.index) use.2 use.1 = some u → exec .copyRun s = .next (next u)) ∧
  (s.cacheLines (.port s.arg.index) use.2 use.1 = none → exec .copyRun s = .next (s.waitSlot (.port s.arg.index) use.1))

/-- COPY_RUN at a port whose head copy reads from no peer and from no host line. -/
def copyRuns : Prop :=
  ∀ (s : State) (c : Copy) (rest : List Copy), s.portQueue s.arg.index = c :: rest → c.timed = false →
    let key := s.arg.index
    (c.done < packetLen c.words → c.got = none → c.space ≤ 3 →
      usesLines s (c.cacheUse c.space false c.src c.done c.chunk) fun u => u.setHead key { c with
        got := some (readWords (u.memOf c.plane c.space) (placeOf c.src c.done) c.chunk), made := 0, peer := none
        pois := c.pois || (readWords (u.memOf c.plane c.space) (placeOf c.src c.done) c.chunk).any (·.isNone) }) ∧
    (∀ ws pieces, c.done < packetLen c.words → c.got = some ws → c.chan = false → packetKind c.words ≤ 4 → c.dsts[c.made]? = some pieces →
      usesLines s (c.cacheUse (packetKind c.words) true pieces c.done (4 * ws.length)) fun u =>
        (u.copyWrite c (packetKind c.words) pieces c.done ws).setHead key { c with made := c.made + 1 }) ∧
    (∀ ws, c.done < packetLen c.words → c.got = some ws → c.chan = false → packetKind c.words ≤ 4 → c.dsts.length ≤ c.made →
      exec .copyRun s = .next (s.setHead key { c with done := c.done + 4 * ws.length, got := none, made := 0, peer := none, since := s.cycle })) ∧
    (∀ loc, packetLen c.words ≤ c.done → c.cells[c.arrived]? = some loc →
      exec .copyRun s = .next ((s.modPlane c.plane (·.arrive loc (if c.pois then 1 else 0))).setHead key { c with arrived := c.arrived + 1 })) ∧
    (∀ pl n, packetLen c.words ≤ c.done → c.cells.length ≤ c.arrived → s.plane? c.plane = some pl → pl.nodes[c.node]? = some n →
      let out : List (Nat × Token) :=
        if c.chan then [(0, .marker 2#3 0#8 (if c.pois then 1#8 else 0#8)), (1, .marker 2#3 0#8 (if c.pois then 1#8 else 0#8))]
        else [(0, .ord)]
      (pl.abandon = true ∨ (∀ e ∈ out, n.out e.1 = none) → exec .copyRun s = .next (s.endCopy key)) ∧
      (pl.abandon = false → (∃ e ∈ out, n.out e.1 ≠ none) → pl.st = .live → pl.reload = false → pl.canEmit n out = true →
        exec .copyRun s = .next ((s.setPlane c.plane { pl.emitAll n out with active := true }).endCopy key)))

/-- An arrival at a completion cell (R344, R345): the count falls by one and the status gathers; with the last arrival the
count is 0 and the granule full. A count of 0 stays, with UNDERFLOW, and the granule is full. Nothing else changes where
no request is parked. -/
def arrivals : Prop :=
  ∀ (pl : Plane) (loc st : Nat), pl.sram.wf → pl.sram.poisoned loc 8 = false → st < 8 →
    let count := pl.sram.nat loc 4
    let status := pl.sram.nat (loc + 4) 4
    (count > 1 → (pl.arrive loc st).sram.nat loc 4 = count - 1 ∧ (pl.arrive loc st).sram.nat (loc + 4) 4 = status ||| st ∧
      (pl.arrive loc st).full = pl.full) ∧
    (count ≤ 1 → pl.reqs = [] → (pl.arrive loc st).sram.nat loc 4 = 0 ∧
      (pl.arrive loc st).sram.nat (loc + 4) 4 = (if count = 0 then status ||| st ||| 2 else status ||| st) ∧
      granule loc ∈ (pl.arrive loc st).full) ∧
    (count > 1 ∨ pl.reqs = [] → ∀ a, a < loc ∨ loc + 8 ≤ a → (pl.arrive loc st).sram.byte a = pl.sram.byte a)

/-- COPY_TIMEOUT (R348): 2^20 cycles without progress, or 2^26 where a peer is read or written, end the copy at the head of
a port, and its node faults with 0x38. A node that has waited as long for a place in its port faults (R336, R443). -/
def copyTimesOut : Prop :=
  ∀ (s : State),
    (∀ c rest, s.arg.other ≠ 1 → s.portQueue s.arg.index = c :: rest → c.timed = false → c.done < packetLen c.words → c.peer = none →
      c.since + (if c.space = 5 ∨ (c.chan = false ∧ packetKind c.words = 5) then 2 ^ 26 else 2 ^ 20) ≤ s.cycle →
      (∃ pl, s.plane? c.plane = some pl) →
      exec .copyTimeout s = .next (((((s.leaveSlots (.port s.arg.index)).modPlane c.plane fun pl => pl).setHead s.arg.index { c with timed := true, peer := none }).detectFault
        c.plane (some (.node c.node)) { cause := 0x38, access := 4, iter := some c.iter, opv := some c.opv, vaddr := packetWord c.words 0 }))) ∧
    (∀ pl n ws cs rs t, s.arg.other = 1 → s.plane? s.arg.plane = some pl → pl.nodes[s.arg.index]? = some n →
      n.st = .copy ws cs rs (some t) → t + portPatience n.instr ws ≤ s.cycle →
      exec .copyTimeout s = .next ((s.modPlane s.arg.plane (·.modNode s.arg.index fun n => { n with st := .copy ws cs rs none })).detectFault
        s.arg.plane (some (.node s.arg.index))
        { cause := 0x38, access := 4, iter := some [0, 0, 0, n.fired.length], opv := some ((ws.take 3).map Token.recorded)
          vaddr := ((ws.head?).map Token.val).getD 0#64 }))

/-- SLOT_RETURN (R350): the oldest returned slot of a CPYM raises its receiver's free slots by one, up to S. -/
def slotReturns : Prop :=
  ∀ (s : State) (pl : Plane) (n : Node) (g : GArgs) (j : Nat) (ts : List Token) (counts rest : List Nat) (since : Option Nat),
    s.plane? s.arg.plane = some pl → pl.nodes[s.arg.index]? = some n → n.instr = some (.cpym g) → pl.st = .live →
    CopyAt n g ts counts (j :: rest) since →
    exec .slotReturn s = .next (s.setPlane s.arg.plane
      { pl.modNode s.arg.index fun n =>
          { n with st := .copy ts (modifyAt counts j fun c => min (c + 1) (g.mode.toNat + 1)) rest since } with active := true })

end Sys2Proof.Claims
end

