-- ==== Sys2Proof/Claims/Links.lean ====
section
/-! DEFINITION. Turnable edges (R370 to R374), the frames and messages of the Flithe ports (R379 to R383). -/

namespace Sys2Proof.Claims

open Sys2Proof.Machine

/-! ## Edges (R370, R372) -/

/-- The tiles at which a paddock has a port edge: on the grid edge of the fabric die that faces the memory-port die. -/
def portSide (e x y : Nat) : Prop :=
  (e = 0 ∧ x < 40 ∧ y = 0) ∨ (e = 1 ∧ x = 0 ∧ y < 36) ∨ (e = 2 ∧ 40 ≤ x ∧ x < 80 ∧ y = 0) ∨ (e = 3 ∧ x = 79 ∧ y < 36) ∨
  (e = 4 ∧ x = 0 ∧ 36 ≤ y ∧ y < 72) ∨ (e = 5 ∧ x < 40 ∧ y = 71) ∨ (e = 6 ∧ x = 79 ∧ 36 ≤ y ∧ y < 72) ∨
  (e = 7 ∧ 40 ≤ x ∧ x < 80 ∧ y = 71)

/-- A paddock holds a tile. -/
def holdsTile (d : Paddock) (x y : Nat) : Prop := d.x0 ≤ x ∧ x < d.x0 + d.w ∧ d.y0 ≤ y ∧ y < d.y0 + d.h

/-- Which of the 160 edges a paddock has. -/
def edgesHad : Prop :=
  ∀ (d : Paddock) (e : Nat), 0 < d.w → 0 < d.h → e < 160 → (d.hasEdge e = true ↔
    (∃ x y, portSide e x y ∧ holdsTile d x y) ∨
    (∃ y < 72, e = 8 + y ∧ holdsTile d 39 y ∧ holdsTile d 40 y) ∨ (∃ x < 80, e = 80 + x ∧ holdsTile d x 35 ∧ holdsTile d x 36))

/-! ## The controller (R371, R373, R374) -/

/-- What a request does as it is applied: it stands for its context, in the last place. -/
def standFor (standing : List (Nat × Nat)) (r : Nat × Nat) : List (Nat × Nat) := standing.filter (fun x => x.1 ≠ r.1) ++ [r]

/-- An edge before a cycle's pseudocode: contexts that hold no plane by it have left, and requests of earlier cycles have
joined. -/
def joined (s : State) (e : Nat) : Edge :=
  let x := s.edge e
  { x with
    queue := (x.queue ++ (x.asks.filter fun r => r.1 < s.cycle).map (·.2)).filter fun r => s.heldOn e r.1
    standing := x.standing.filter fun r => s.heldOn e r.1
    asks := x.asks.filter fun r => ¬ (r.1 < s.cycle) }

/-- A turn to a share begins. -/
def turning (x : Edge) (share now : Nat) : Edge := { x with target := some share, last := now }

/-- The share after the present one in a cyclic order. -/
def nextShare (shares : List Nat) (cur next : Nat) : Prop :=
  (∃ l r, shares = l ++ cur :: next :: r) ∨ ∃ l, shares = next :: (l ++ [cur])

/-- R373's choice for an edge whose head request, if any, asks for another share; `shares` are the distinct shares of the
standing splits of active contexts in rotation order. -/
inductive Turns (x : Edge) (dflt now : Nat) (shares : List Nat) : Edge → Prop
  | early : (x.target ≠ none ∨ (now : Int) < x.last + 8192) → Turns x dflt now shares x
  | asked {r : Nat × Nat} {rest : List (Nat × Nat)} : x.target = none → x.last + 8192 ≤ (now : Int) → x.queue = r :: rest →
      Turns x dflt now shares (turning x r.2 now)
  | home : x.target = none → x.last + 8192 ≤ (now : Int) → x.queue = [] → shares = [] → x.share ≠ dflt →
      Turns x dflt now shares (turning x dflt now)
  | athome : x.target = none → x.last + 8192 ≤ (now : Int) → x.queue = [] → shares = [] → x.share = dflt → Turns x dflt now shares x
  | first {c : Nat} {rest : List Nat} : x.target = none → x.last + 8192 ≤ (now : Int) → x.queue = [] → shares = c :: rest →
      x.share ∉ shares → Turns x dflt now shares (turning x c now)
  | next {c : Nat} : x.target = none → x.last + 8192 ≤ (now : Int) → x.queue = [] → 2 ≤ shares.length →
      x.last + 65536 ≤ (now : Int) → nextShare shares x.share c → Turns x dflt now shares (turning x c now)
  | dwell : x.target = none → x.last + 8192 ≤ (now : Int) → x.queue = [] → x.share ∈ shares →
      (shares.length < 2 ∨ (now : Int) < x.last + 65536) → Turns x dflt now shares x

/-- EDGE_TURN_POINT: requests at the head for the present share stand; then the edge turns as R373 says, or stays. -/
def edgesTurn : Prop :=
  ∀ (s : State) (e : Nat) (pre rest : List (Nat × Nat)) (y : Edge), s.arg.index = e →
    (joined s e).queue = pre ++ rest → (∀ r ∈ pre, r.2 = (joined s e).share) → (∀ r ∈ rest.head?, r.2 ≠ (joined s e).share) →
    let x : Edge := { joined s e with queue := rest, standing := pre.foldl standFor (joined s e).standing }
    Turns x (if e < 8 then 40 else 2) s.cycle (((x.standing.filter fun r => s.activeOn e r.1).map (·.2)).eraseDups) y →
    exec .edgeTurnPoint s = .next (s.setEdge e y)

/-- TURN_COMPLETE: 48 cycles after its start the turn is complete, and not before. -/
def turnsEnd : Prop :=
  ∀ (s : State) (e share : Nat), s.arg.index = e → (s.edge e).target = some share →
    ((s.edge e).last + 48 ≤ (s.cycle : Int) → exec .turnComplete s = .next (s.setEdge e { s.edge e with share, target := none })) ∧
    ((s.cycle : Int) < (s.edge e).last + 48 → exec .turnComplete s = .next s)

/-! ## Frames (R380) -/

/-- A frame that is not dropped whole. -/
def soundFrame (f : FlitheFrame) : Prop :=
  f.good = true ∧ f.cls.toNat < 2 ∧ f.low = 0#8 ∧
  ((f.kind = 0#4 ∧ 1 ≤ f.flits.length ∧ f.flits.length ≤ 40) ∨ ((f.kind = 1#4 ∨ f.kind = 2#4) ∧ f.flits = []))

/-- A frame dropped whole changes nothing, and its ack is not read. -/
def framesDropped : Prop :=
  ∀ (s : State), ¬ soundFrame s.arg.frame →
    exec .flitheDataFrame s = .next s ∧ exec .flitheAckFrame s = .next s ∧ exec .flitheResetFrame s = .next s

/-- An ack of a class releases the frames before the one it names, of those that have left; frames that waited for room leave, each with
the seq that its class expects as its ack, after which the class owes none. Any other ack changes nothing. -/
def acksRead : Prop :=
  ∀ (s : State) (key c : Nat) (ack : BitVec 24), c < 2 →
    let x := (s.port key).cls c
    (∀ f gone left, x.unacked = f :: gone ++ left → ack = f.seq + BitVec.ofNat 24 (gone.length + 1) → gone.length < 512 →
      (s.port key).up = true →
      let k := gone.length + 1
      s.readAck key c ack =
        { s.setPort key ((s.port key).setCls c { x with
            unacked := left, sentAt := s.portTime key, tries := 0, ackDue := if 512 - k < left.length then none else x.ackDue }) with
          sent := s.sent ++ ((left.take 512).drop (512 - k)).map fun f => .frame key { f with ack := x.expect } }) ∧
    (x.unacked = [] → s.readAck key c ack = s) ∧
    (∀ f rest, x.unacked = f :: rest →
      (ack = f.seq ∨ x.unacked.length < (ack - f.seq).toNat ∨ 512 < (ack - f.seq).toNat) → s.readAck key c ack = s)

/-- FLITHE_DATA_FRAME: a data frame is accepted where its seq is the one expected and, in class 0, where there is room for its
requests; the expected value rises and its ack is read. From any other only the ack is read. -/
def dataFrames : Prop :=
  ∀ (s : State) (key c : Nat) (f : FlitheFrame), s.arg.index = key → s.arg.frame = f → soundFrame f → f.kind = 0#4 →
    f.cls.toNat = c → (s.port key).up = true →
    let x := (s.port key).cls c
    let quiet : FlithePort := { s.port key with resetting := false }
    let x' : FlitheClass := { x with expect := x.expect + 1#24, ackDue := some (x.ackDue.getD (s.portTime key)) }
    ((f.seq ≠ x.expect ∨ (c = 0 ∧ s.arg.verdict = false)) →
      exec .flitheDataFrame s = .next ((s.setPort key quiet).readAck key c f.ack)) ∧
    (f.seq = x.expect → c = 0 → s.arg.verdict = true → exec .flitheDataFrame s = .next
      ((s.setPort key { quiet.setCls c x' with inbox := (s.port key).inbox ++ splitRequests 40 f.flits }).readAck key c f.ack)) ∧
    (f.seq = x.expect → c = 1 → exec .flitheDataFrame s = .next
      (((s.setPort key (quiet.setCls c x')).readAck key c f.ack).takeReplies key 40 f.flits))

/-- FLITHE_ACK_FRAME and FLITHE_RESET_FRAME: a frame of kind 1 is read for its ack; one of kind 2 starts every stream of the port
again at seq 0 with nothing kept. -/
def controlFrames : Prop :=
  ∀ (s : State) (key : Nat) (f : FlitheFrame), s.arg.index = key → s.arg.frame = f → soundFrame f → (s.port key).up = true →
    (f.kind = 1#4 → exec .flitheAckFrame s = .next (s.readAck key f.cls.toNat f.ack)) ∧
    (f.kind = 2#4 → exec .flitheResetFrame s = .next
      (s.setPort key { s.port key with resetting := false, classes := [{}, {}] }))

/-- FLITHE_RESEND_TIMEOUT: after 20,000 ticks without an acknowledgment every frame in the window is sent again in order, with the
present ack. FLITHE_ACK_TIMER: after 2,000 ticks an accepted data frame is acknowledged by a frame of its own, whose seq is the next that
the class will send. -/
def portTimers : Prop :=
  ∀ (s : State) (key c : Nat), s.arg.index = key → s.arg.other = c → c < 2 → (s.port key).up = true →
    let x := (s.port key).cls c
    let next := (((x.unacked.drop 512).head?).map (·.seq)).getD x.seq
    (x.unacked ≠ [] → x.sentAt + 20000 ≤ s.portTime key → exec .flitheResendTimeout s = .next
      { s.setPort key ((s.port key).setCls c { x with sentAt := s.portTime key, ackDue := none }) with
        sent := s.sent ++ (x.unacked.take 512).map fun f => .frame key { f with ack := x.expect } }) ∧
    ((x.unacked = [] ∨ s.portTime key < x.sentAt + 20000) → exec .flitheResendTimeout s = .next s) ∧
    (∀ t, x.ackDue = some t → t + 2000 ≤ s.portTime key → exec .flitheAckTimer s = .next
      { s.setPort key ((s.port key).setCls c { x with ackDue := none }) with
        sent := s.sent ++ [.frame key
          { good := true, seq := next, ack := x.expect, kind := 1#4, cls := BitVec.ofNat 4 c }] }) ∧
    ((x.ackDue = none ∨ ∃ t, x.ackDue = some t ∧ s.portTime key < t + 2000) → exec .flitheAckTimer s = .next s)

/-- The port starts its streams again and sends a link reset. -/
def resets (s : State) (key : Nat) : State :=
  { s.setPort key { s.port key with up := true, classes := [{}, {}], resetting := true, resetAt := s.portTime key } with
    sent := s.sent ++ [.frame key { good := true, kind := 2#4 }] }

/-- FLITHE_LINK_UP and FLITHE_RESET_REPEAT: the port sends a frame of kind 2 when its link comes up, and repeats it once per
millisecond while none of kind 0 or 2 has come. -/
def linksUp : Prop :=
  ∀ (s : State) (key : Nat), s.arg.index = key →
    exec .flitheLinkUp s = .next (resets s key) ∧
    ((s.port key).up = true → (s.port key).resetting = true → (s.port key).resetAt + 1000000 ≤ s.portTime key →
      exec .flitheResetRepeat s = .next (resets s key)) ∧
    (((s.port key).resetting = false ∨ s.portTime key < (s.port key).resetAt + 1000000) → exec .flitheResetRepeat s = .next s)

/-- A frame that a port sends (R380): the next seq of its class, and the seq it expects as its ack; it is kept, and leaves where
fewer than 512 are unacknowledged. -/
def framesSent : Prop :=
  ∀ (s : State) (key c : Nat) (flits : List (BitVec 256)), c < 2 → (s.port key).up = true →
    let x := (s.port key).cls c
    let f : FlitheFrame := { good := true, seq := x.seq, ack := x.expect, kind := 0#4, cls := BitVec.ofNat 4 c, flits }
    ∃ z : State, s.sendData key c flits = z ∧ ((z.port key).cls c).seq = x.seq + 1#24 ∧
      ((z.port key).cls c).unacked = x.unacked ++ [f] ∧ ((z.port key).cls c).expect = x.expect ∧
      (x.unacked.length < 512 → z.sent = s.sent ++ [.frame key f] ∧ ((z.port key).cls c).ackDue = none) ∧
      (512 ≤ x.unacked.length → z.sent = s.sent)

/-! ## Messages (R381, R383) -/

/-- A frame's flits are its requests, each header followed by the data that it announces. -/
def messagesSplit : Prop :=
  ∀ (qs : List PeerRequest), (∀ q ∈ qs, q.data.length = if flitBits q.header 55 48 = 1 then (2 ^ flitBits q.header 58 56 + 31) / 32 else 0) →
    qs.length ≤ 40 → splitRequests 40 (qs.flatMap fun q => q.header :: q.data) = qs

/-- The fields of a request header. -/
structure HeaderOf (h : BitVec 256) (va op size ctx tag : Nat) : Prop where
  addr : flitBits h 47 0 = va
  op   : flitBits h 55 48 = op
  size : 2 ^ flitBits h 58 56 = size
  ctx  : flitBits h 73 64 = ctx
  tag  : flitBits h 127 96 = tag

/-- The request that a peer's inbox holds at the stimulus's place, with no earlier one that touches its bytes. -/
def peerTurn (s : State) (key k : Nat) (q : PeerRequest) : Prop :=
  s.arg.other = 1 ∧ s.arg.index = key ∧ s.arg.third = k ∧ (s.port key).inbox[k]? = some q ∧
  ∀ j r, j < k → (s.port key).inbox[j]? = some r → r.overlaps q = false

/-- The state once a request has been served and its reply sent. -/
def replied (s z : State) (key k : Nat) (flits : List (BitVec 256)) : State :=
  (z.setPort key { s.port key with inbox := (s.port key).inbox.eraseIdx k }).sendData key 1 flits

/-- HOME_PERFORM for a peer's request: one with a reserved field, or for a context that is not live, performs nothing and gets
status 0x11; a read gets its bytes with the mask of poisoned words, a write performs with its poisoned words marked, both through the
port cache of its lines, where it waits while it finds no slot (R299, R305). -/
def peersServed : Prop :=
  ∀ (s : State) (key k : Nat) (q : PeerRequest) (va op size ctx tag : Nat), peerTurn s key k q → HeaderOf q.header va op size ctx tag →
    ((headerBad q.header = true ∨ (s.ctx ctx).state ≠ 1) →
      exec .homePerform s = .next (replied s s key k [BitVec.ofNat 256 (tag + 0x11 * 2 ^ 32)])) ∧
    (∀ e loc t, headerBad q.header = false → (s.ctx ctx).state = 1 → (s.ctx ctx).ptbase.getLsbD 0 = true →
      s.tlbFind (key / 4) ctx va = some e → e.leaf.host = false →
      e.leaf.check { space := 2, va := BitVec.ofNat 64 va, size, align := size, kind := op } = .ok loc →
      let cached := s.cacheLines (.peer key) { write := op ≠ 0, device := e.leaf.device } (linesOf loc size)
      (cached = none → exec .homePerform s = .next (s.waitSlot (.peer key) (linesOf loc size))) ∧
      (op = 0 → cached = some t → exec .homePerform s = .next (replied s t key k
        (BitVec.ofNat 256 (tag + flitBits q.header 58 56 * 2 ^ 40 + poisonMask s.dram loc size * 2 ^ 64) ::
          dataFlits size (s.dram.nat loc size)))) ∧
      (op = 1 → cached = some t → exec .homePerform s = .next (replied s
        { t with dram := s.dram.writeMasked loc size (flitsNat q.data) (flitBits q.header 223 192) } key k
        [BitVec.ofNat 256 tag]))) ∧
    (∀ e c, headerBad q.header = false → (s.ctx ctx).state = 1 → (s.ctx ctx).ptbase.getLsbD 0 = true →
      s.tlbFind (key / 4) ctx va = some e →
      e.leaf.check { space := if e.leaf.host then 4 else 2, va := BitVec.ofNat 64 va, size, align := size, kind := op } = .fault c →
      exec .homePerform s = .next (replied s s key k [BitVec.ofNat 256 (tag + c * 2 ^ 32)]))

/-- The reply of a peer to a request of a node, as the only message of an accepted frame of class 1: a probe fault's status drops
the request and those of the node that have still to leave behind it (R300), leaves their operands where they are and makes the node
take the fault (R314); a reply whose tag names no outstanding
request is discarded. -/
def repliesCome : Prop :=
  ∀ (s : State) (key : Nat) (h : BitVec 256) (tag status : Nat), tag = flitBits h 31 0 → status = flitBits h 39 32 →
    (mapGet (s.port key).tags tag = none → flitBits h 42 40 = 0 → s.takeReplies key 40 [h] = s) ∧
    (∀ p pl i r, mapGet (s.port key).tags tag = some (p, r.id) → s.plane? p = some pl →
      pl.reqs.find? (fun x => x.id = r.id) = some r → r.who = .node i → r.done = false → r.timed = false →
      status ∈ [0x10, 0x11, 0x12, 0x18] → (∀ n, r.acc ≠ .copyRead n) → (∀ ws, r.acc ≠ .copyWrite ws) →
      let gone := pl.reqs.filter fun x => x.cancelledBy r
      let left : Plane := { pl with reqs := pl.reqs.filter fun x => ¬ x.cancelledBy r }
      s.takeReplies key 40 [h] = ((s.setPort key { s.port key with tags := mapDel (s.port key).tags tag }).setPlane p
        (gone.foldl (fun q x => q.modNode i (·.unmark x.takes)) (left.uncharge r.who))).detectFault p (some (.node i))
          { cause := status, access := r.acc.kind, iter := r.iter, opv := r.opv, vaddr := r.addr, md := some r.md, slot := r.slot })

end Sys2Proof.Claims
end

