-- ==== Sys2Proof/Claims/Frames.lean ====
section
/-! DEFINITION. What instructions leave as it was: firings on a PE (R141), firings of one cycle (R182), task instructions, accesses
at their homes (R264, R353), and what no node's or task's step changes. -/

namespace Sys2Proof.Claims

open Sys2Proof.Machine

/-- A plane whose sequencer has decided the cycle: its level and its wait may have gone back and its count of grants on (R413), nothing
else has. -/
def paced (a b : Plane) : Prop := b = { a with level := b.level, waited := b.waited, grants := b.grants }

/-- Every plane but p is as it was, but for its level and its wait. -/
def othersPaced (s t : State) (p : PlaneId) : Prop := ∀ q ql, q ≠ p → s.plane? q = some ql → ∃ qr, t.plane? q = some qr ∧ paced ql qr

/-- The element-wise instructions of a PE, and TRAP. -/
def onPe (i : Instr) : Prop :=
  (∃ c ∈ plainOps, ∃ g, i = c.make g) ∨ (∃ g, i = .cvt g) ∨ ∃ g, i = .trap g

/-- A firing that issues on a PE moves no token yet, and no operator's state: it marks its operands, reserves room, and is kept
until it completes. Registers, contexts, tasks and memories, tile memories among them, are as they were. -/
def peFrame : Prop :=
  ∀ (i : Instr) (s t : State) (p : PlaneId) (k : Nat) (pl : Plane), onPe i → s.cursor = .node p k → s.plane? p = some pl →
    exec i s = .next t →
    t = { s with pads := t.pads, tileGov := t.tileGov } ∧ othersPaced s t p ∧ ∃ pr, t.plane? p = some pr ∧
      pr = { pl with nodes := pr.nodes, pes := pr.pes, issued := pr.issued, active := pr.active, level := pr.level, waited := pr.waited
                     grants := pr.grants } ∧
      pr.nodes.length = pl.nodes.length ∧
      ∀ (j : Nat) (n : Node), pl.nodes[j]? = some n → ∃ m, pr.nodes[j]? = some m ∧ m.st = n.st ∧ m.e = n.e ∧ m.round = n.round ∧
        ∀ o, (m.queue o).toks = (n.queue o).toks

/-- The operators that fire in one cycle. -/
def atOnce (i : Instr) : Prop :=
  ∃ g, i ∈ [Instr.steer g, .merge g, .carry g, .invar g, .fork g, .sink g, .gate g, .count g, .mark g, .mstrip g, .mlift g, .mtest g, .zip g,
    .ord g, .join g, .bar g, .drain g, .call g, .entry g, .exit g, .cmpct g, .red g, .redx g, .scan g, .filt g, .pat g]

/-- A firing of one cycle changes its own node and what its targets' channels hold: no other node's state or counters, but for the slots
that it returns to a CPYM (R350), and no channel but by tokens that leave its own node or join at the end. Memories, registers and tasks of an ordinary plane are as
they were. -/
def atOnceFrame : Prop :=
  ∀ (i : Instr) (s t : State) (p : PlaneId) (k : Nat) (pl : Plane), atOnce i → s.cursor = .node p k → s.plane? p = some pl →
    pl.handler = false → exec i s = .next t →
    t = { s with pads := t.pads, tileGov := t.tileGov } ∧ othersPaced s t p ∧ ∃ pr, t.plane? p = some pr ∧
      pr = { pl with nodes := pr.nodes, pes := pr.pes, flags := pr.flags, active := pr.active, result := pr.result, faults := pr.faults
                     freezeAt := pr.freezeAt, level := pr.level, waited := pr.waited, grants := pr.grants } ∧
      pr.nodes.length = pl.nodes.length ∧
      ∀ (j : Nat) (n : Node), j ≠ k → pl.nodes[j]? = some n → ∃ m, pr.nodes[j]? = some m ∧ m.e = n.e ∧ m.round = n.round ∧
        (m.st = n.st ∨ ∃ ws cs rs since, m.st = .copy ws cs rs since) ∧ ∀ o, ∃ new, (m.queue o).toks = (n.queue o).toks ++ new

/-- The bytes that an access stores at its place. -/
def storedBytes : Access → Nat
  | .store n _ _ | .stfe n _ _ => n
  | .atomic op ty _ _ _ => if op = .rd then 0 else ty.bytes
  | .beatWrite ws _ => 4 * ws.length
  | _ => 0

/-- The place of an access is that of some byte that it stores. -/
def storesAt (r : Request) (a : Nat) : Prop := r.loc ≤ a ∧ a < r.loc + storedBytes r.acc

/-- HOME_PERFORM of a plane's request changes the bytes that the request stores and no other byte of any memory; in a memory tile
the requests that it wakes at its granule store theirs too. -/
def homeFrame : Prop :=
  ∀ (s t : State) (pl : Plane) (r : Request), s.arg.other ≠ 1 → s.plane? s.arg.plane = some pl →
    pl.reqs.find? (fun r => r.id = s.arg.index) = some r → s.memoriesWf → exec .homePerform s = .next t →
    (∀ a, (¬ ((r.space = 2 ∨ r.space = 3) ∧ storesAt r a)) → t.dram.byte a = s.dram.byte a) ∧
    (∀ a, (¬ (r.space = 1 ∧ storesAt r a)) → t.store.byte a = s.store.byte a) ∧
    (∀ a, (r.space ≤ 3 ∨ ¬ storesAt r a) → t.host.byte a = s.host.byte a) ∧
    (∀ q ql, s.plane? q = some ql → ∃ qr, t.plane? q = some qr ∧
      ∀ a, (¬ (q = s.arg.plane ∧ r.space = 0 ∧ ∃ x ∈ pl.reqs, storesAt x a)) → qr.sram.byte a = ql.sram.byte a) ∧
    t.regs = s.regs ∧ t.firmware = s.firmware ∧ t.edges = s.edges ∧ t.cycle = s.cycle

/-- A word that a node or a task-mode PE runs. -/
def fetched (i : Instr) : Prop := (∃ w, decodeGraph w = .ok i) ∨ ∃ w, decodeTask w = .ok i

/-- No step of a node or a task-mode PE touches a byte of memory, but that of TRAPACK, which marks its record as taken (R433), and
of BINRUN, which replays its bins (R329): accesses take place at their homes. Nor does one change the clock, the firmware, the
host link, the request slots, or a device register, but for the event ring's pointers. -/
def nodesLeaveMemory : Prop :=
  ∀ (i : Instr) (s t : State), fetched i → (∀ g, i ≠ .trapack g) → (∀ g, i ≠ .binrun g) → exec i s = .next t →
    t.dram = s.dram ∧ t.store = s.store ∧ t.cycle = s.cycle ∧ t.firmware = s.firmware ∧ t.link = s.link ∧ t.slotsHbm = s.slotsHbm ∧
    t.slotsLp = s.slotsLp ∧ t.regs = { s.regs with evqPtr := t.regs.evqPtr } ∧
    ∀ q ql, s.plane? q = some ql → ∃ qr, t.plane? q = some qr ∧ qr.sram = ql.sram ∧ qr.full = ql.full ∧ qr.fifos = ql.fifos ∧
      qr.tiles = ql.tiles ∧ qr.ctx = ql.ctx ∧ qr.colour = ql.colour

/-- The task instructions of the shared operations leave every register but td, the staging rows, every channel and every request
as they were. -/
def taskFrame : Prop :=
  ∀ c ∈ sharedIntegers ++ sharedBits ++ sharedFloats, ∀ (td ta : BitVec 4) (b : BField) (n : BitVec 1) (m : BitVec 3) (s t : State)
    (x : TaskSite), cursorTask s = some x → x.pl.handler = false → exec (c.make td ta b n m) s = .next t →
    t = { s with pads := t.pads, tileGov := t.tileGov } ∧ othersPaced s t x.p ∧
    ∀ pr u, t.plane? x.p = some pr → x.pl.pes[x.k]? = some u → ∃ v, pr.pes[x.k]? = some v ∧ v.rowA = u.rowA ∧ v.rowB = u.rowB ∧
      v.words = u.words ∧ v.chans = u.chans ∧ pr.reqs = x.pl.reqs ∧ pr.sram = x.pl.sram ∧ pr.nodes = x.pl.nodes ∧
      ∀ r : Nat, r ≠ fieldReg x td 0 → v.regs[r]? = u.regs[r]?

end Sys2Proof.Claims
end

