-- ==== Sys2Proof/Claims/System.lean ====
section
/-! DEFINITION. What the instructions of the dispatcher, of traps and of the system do in their turn: TRAP, TRAPRD, TRAPACK
(R431 to R435), SPAWN, DONE, TWAIT (R402 to R406), SYSRD, SYSWR, RDTIME, TCONV (R459, R465, R466, R469), BUDRD (R419), KTURN
and LSTAT (R376, R377). -/

namespace Sys2Proof.Claims

open Sys2Proof.Machine

/-- The present step is that of node k of plane p, which may fire (R36, R421) and is granted the cycle (R411); its router slot has
rested (R182). -/
structure SlotTurn (s : State) (p : PlaneId) (k : Nat) (pl : Plane) (n : Node) : Prop where
  cursor : s.cursor = .node p k
  plane  : s.plane? p = some pl
  node   : pl.nodes[k]? = some n
  may    : pl.mayFire k n = true
  grant  : s.granted p pl
  rested : pl.st = .live → (grantCycle s p).2.routerFree p n = true

/-- The state once the plane's sequencer has decided the cycle. -/
def afterGrant (s : State) (p : PlaneId) : State := (grantCycle s p).2

/-! ## TRAP (R432) -/

/-- The operands that TRAP takes. -/
def trapOps (g : GArgs) : List Operand := if g.opt.getLsbD 0 then [.a, .p] else [.a]

/-- The check of a TRAP holds: it is unconditional, or p is data whose bit 0 is 1; poison on p reads as false. -/
def trapHolds (v : View) : Prop := v.g.opt.getLsbD 0 = false ∨ ∃ x, v.p = some (.data x) ∧ x.getLsbD 0 = true

/-- What TRAP does when it takes no fault. -/
inductive TrapPasses : View → Effect → Prop
  | markers {v : View} {hs : List Token} {m : Token} : (trapOps v.g).map v.head = hs.map some → hs.all Token.isMarker = true →
      joinMarkers hs = some m → TrapPasses v { takes := takeOne (trapOps v.g), emits := onBoth m }
  | poison {v : View} {hs : List Token} {q : BitVec 8} : (trapOps v.g).map v.head = hs.map some → hs.any Token.isMarker = false →
      v.a = some (.poison q) → v.trapen.getLsbD 7 = false → TrapPasses v (took v (trapOps v.g) (onBoth (.poison q)))
  | data {v : View} {hs : List Token} {x : W64} : (trapOps v.g).map v.head = hs.map some → hs.any Token.isMarker = false →
      v.a = some (.data x) → (¬ trapHolds v ∨ v.acked = true) → TrapPasses v (took v (trapOps v.g) (onBoth (.data x)))

/-- The faults of TRAP: the cause, the iteration vector and the operand values of the record. -/
inductive TrapFaults : View → FaultInfo → Prop
  | software {v : View} {hs : List Token} {x : W64} : (trapOps v.g).map v.head = hs.map some → hs.any Token.isMarker = false →
      v.a = some (.data x) → trapHolds v → v.acked = false →
      TrapFaults v { cause := 0x48, iter := some [v.e], opv := some [BitVec.ofNat 64 (v.g.bits 11 0), x, 0#64] }
  | poison {v : View} {hs : List Token} {q : BitVec 8} : (trapOps v.g).map v.head = hs.map some → hs.any Token.isMarker = false →
      v.a = some (.poison q) → v.trapen.getLsbD 7 = true →
      TrapFaults v { cause := 0x30, iter := some [v.e], opv := some ([Operand.a, .b, .c].map (v.recorded (trapOps v.g))) }
  | mixed {v : View} {hs : List Token} : (trapOps v.g).map v.head = hs.map some → clash hs →
      TrapFaults v { cause := 0x51, iter := some [v.e], opv := some ([Operand.a, .b, .c].map (v.recorded (trapOps v.g))) }

/-- TRAP issues with the outcome that R432 gives, with a latency of 1 (R431). -/
def trapIssues : Prop :=
  ∀ (g : GArgs) (s : State) (p : PlaneId) (k : Nat) (pl : Plane) (n : Node), NodeTurn s p k pl n ⟨1, 1, 0, false⟩ →
    (∀ e, TrapPasses (nodeView s pl k n g) e → pl.canEmit n e.emits = true →
      exec (.trap g) s = .next (issueFiring (s.admitted p n.place ⟨1, 1, 0, false⟩) p k n false none (s.cycle + 1) (.fires e))) ∧
    (∀ info, TrapFaults (nodeView s pl k n g) info →
      exec (.trap g) s =
        .next (issueFiring (s.admitted p n.place ⟨1, 1, 0, false⟩) p k n false none (s.cycle + 1)
          (.fault (takeOne (trapOps g)) info)))

/-! ## Instructions that answer a trigger with words of the state -/

/-- The registers that a graph of context c may read (R458, R459): address and value. -/
def openRegisters (s : State) (c : Nat) : List (Nat × W64) :=
  let x := s.ctx c
  let r := s.regs
  [(0, r.devId), (8, r.policy), (9, r.genFloor ++ r.genCurrent), (0xA, s.tackStatus), (0x11, r.actBudget), (0x12, r.actLo),
   (0x13, r.actHi), (0x1C, r.clkStatus)] ++
  (List.range 9).map (fun d => (0x30 + d, (r.heldOffsets[d]?).getD 0#64)) ++
  (List.range 9).map (fun d => (0x40 + d, (r.rates[d]?).getD 0#64)) ++
  [(0x7FE0, BitVec.ofNat 64 (x.state + min (s.planesOf c) 65535 * 2 ^ 8)), (0x7FE1, x.seed), (0x7FE2, BitVec.ofNat 64 x.depcount),
   (0x7FE3, BitVec.ofNat 64 (x.deplimit % 2 ^ 48 + if x.dephit then 2 ^ 63 else 0)), (0x7FE4, (s.ctxFlags c).setWidth 64),
   (0x7FE5, x.trapen.setWidth 64),
   (0x7FE6, BitVec.ofNat 64 (x.capPrio + (if x.irq then 2 ^ 4 else 0) + x.quota * 2 ^ 16 + x.launches.length * 2 ^ 32 +
      s.held c * 2 ^ 40 + x.lost * 2 ^ 56)),
   (0x7FE7, x.taken ++ x.badCount), (0x7FE8, BitVec.ofNat 64 (x.x0 + x.y0 * 2 ^ 8 + x.w * 2 ^ 16 + x.h * 2 ^ 24))] ++
  (List.range 4).map (fun k => (0x7FEA + k, (x.pswin[k]?).getD 0#64)) ++
  [(0x7FEE, x.binbase), (0x7FEF, x.binrec), (0x7FF0, x.binctl), (0x7FF1, x.peer), (0x7FF4, x.fail),
   (0x7FF6, BitVec.ofNat 64 x.saveused)]

/-- The conversion of R469 in exact arithmetic: a reading of die `src` as one of die `dst`, 15 the package timebase. -/
def converted (s : State) (r : W64) (src dst : Nat) (y : W64) : Prop :=
  let rate (d : Nat) : Nat := ((s.regs.rates[d]?).getD 0#64).toNat
  let off (d : Nat) : Int := ((s.regs.offsets[d]?).getD 0#64).toInt
  let p : Int := if src = 15 then r.toNat else (r.toNat * rate src / 2 ^ 48 : Nat) + off src
  if dst = 15 then y = BitVec.ofInt 64 p else y = BitVec.ofNat 64 (((p - off dst) % 2 ^ 64).toNat * 2 ^ 48 / rate dst)

/-- The fields of BUDRD's answer (R419). -/
def budgetFields (s : State) (x y : Nat) (w : W64) : Prop :=
  let key := tileKey x y
  let g := (mapGet s.tileGov key).getD {}
  let lately (l : List Nat) : Nat := (l.filter fun c => c < s.cycle ∧ s.cycle ≤ c + 31).length
  wbits w 63 56 = lately g.mfe % 256 ∧ wbits w 55 48 = actReserveOf s key % 256 ∧ wbits w 47 32 = lately g.blocks % 65536 ∧
  wbits w 31 16 = actBudgetOf s key % 65536 ∧ wbits w 15 0 = min (g.windowSum s.cycle) 65535

/-- The fields of LSTAT's answer (R377), where an edge stands within the bounds that R370 and R374 set. -/
def edgeFields (x : Edge) (ctx now : Nat) (w : W64) : Prop :=
  let all := x.queue ++ x.asks.map (·.2)
  wbits w 63 48 = min ((now : Int) - x.last).toNat 65535 ∧ wbits w 47 36 = min all.length 2048 ∧
  wbits w 35 29 = ((all.head?).map (·.2)).getD 0 ∧ wbits w 28 22 = ((x.standing.find? fun r => r.1 = ctx).map (·.2)).getD 0 ∧
  wbits w 21 20 = min (x.pending ctx) 2 ∧ wbits w 19 17 = 0 ∧ wbits w 16 10 = x.target.getD x.share ∧
  wbits w 9 9 = (if x.target.isSome then 1 else 0) ∧ wbits w 8 7 = 0 ∧ wbits w 6 0 = x.share

/-- Shares of an edge fit the fields that show them. -/
def sharesFit (x : Edge) : Prop :=
  x.share < 128 ∧ (∀ t, x.target = some t → t < 128) ∧ (∀ r ∈ x.queue, r.2 < 128) ∧ (∀ r ∈ x.standing, r.2 < 128) ∧
  ∀ r ∈ x.asks, r.2.2 < 128

/-- The answer of an instruction to a data token with value t: the values on targets A and B. -/
inductive Answers : Instr → State → PlaneId → Plane → Node → View → W64 → W64 × W64 → Prop
  | sysrd {g : GArgs} {s : State} {p : PlaneId} {pl : Plane} {n : Node} {v : View} {t w : W64} :
      (g.bits 15 0, w) ∈ openRegisters s pl.ctx → Answers (.sysrd g) s p pl n v t (w, w)
  | rdtime {g : GArgs} {s : State} {p : PlaneId} {pl : Plane} {n : Node} {v : View} {t w : W64} :
      (if g.opt.getLsbD 0 then converted s (s.dieTime (placeDie n.place)) (placeDie n.place) 15 w
       else w = s.dieTime (placeDie n.place)) →
      Answers (.rdtime g) s p pl n v t (w, BitVec.ofNat 64 (placeDie n.place))
  | tconvFrom {g : GArgs} {s : State} {p : PlaneId} {pl : Plane} {n : Node} {v : View} {t w : W64} : g.imm = true →
      converted s t (g.bits 7 4) (g.bits 3 0) w → Answers (.tconv g) s p pl n v t (w, w)
  | budrd {g : GArgs} {s : State} {p : PlaneId} {pl : Plane} {n m : Node} {v : View} {t w : W64} {x y : Nat} :
      pl.nodes.find? (fun m => m.info.id = n.info.id ∧ m.copy = n.copy ∧ m.slot = g.bits 6 0) = some m →
      placeXY m.place = some (x, y) → budgetFields s x y w → Answers (.budrd g) s p pl n v t (w, w)
  | lstat {g : GArgs} {s : State} {p : PlaneId} {pl : Plane} {n : Node} {v : View} {t w : W64} {e : Nat} :
      (s.padEdges p.pad (g.bits 9 7))[g.bits 16 10]? = some e → sharesFit (s.edge e) → edgeFields (s.edge e) pl.ctx s.cycle w →
      Answers (.lstat g) s p pl n v t (w, w)
  | traprd {g : GArgs} {s : State} {p : PlaneId} {pl : Plane} {n : Node} {v : View} {t : W64} {k : Task} {slot : Nat} :
      g.opt.getLsbD 0 = false → s.taskOf pl = some k → k.record = some slot →
      Answers (.traprd g) s p pl n v t (s.recordWord pl.ctx slot (g.bits 3 0), s.recordWord pl.ctx slot (g.bits 3 0))

/-- What these instructions are charged as: TRAPRD on its PE in class 6 (R431), the others not at all (R419, R465). -/
def answerCost : Instr → Cost
  | .traprd _ => ⟨1, 1, 6, false⟩
  | _ => ⟨1, 1, 0, false⟩

/-- A firing of several steps is charged with its first (R144). -/
def answerTimes (i : Instr) (n : Node) : Nat := match i with | .traprd _ => if n.st.midway then 0 else 1 | _ => 1

/-- A data token is taken and answered on both targets. -/
def answersData : Prop :=
  ∀ (i : Instr) (s : State) (p : PlaneId) (k : Nat) (pl : Plane) (n : Node) (g : GArgs) (t x y : W64), n.a.head = some (.data t) →
    Answers i s p pl n (nodeView s pl k n g) t (x, y) → NodeTurn s p k pl n (answerCost i) (answerTimes i n) →
    pl.canEmit n [(0, .data x), (1, .data y)] = true →
    exec i s = .next (commitEffect (s.admitted p n.place (answerCost i) (answerTimes i n)) p k n
      { takes := [1, 0, 0, 0], emits := [(0, .data x), (1, .data y)], data := 1, counted := true })

/-- The instructions that take a alone and answer each data token (R38). -/
def answering (i : Instr) (g : GArgs) : Prop :=
  i = .sysrd g ∨ i = .rdtime g ∨ (i = .tconv g ∧ g.imm = true) ∨ i = .budrd g ∨ i = .lstat g ∨ i = .traprd g

/-- Markers pass these instructions unchanged; poison passes, or faults with 0x30 where its trap is on (R38, R39). -/
def answersOthers : Prop :=
  ∀ (i : Instr) (s : State) (p : PlaneId) (k : Nat) (pl : Plane) (n : Node) (g : GArgs) (t : Token), answering i g →
    n.a.head = some t → NodeTurn s p k pl n (answerCost i) (answerTimes i n) →
    let v := nodeView s pl k n g
    let t0 := s.admitted p n.place (answerCost i) (answerTimes i n)
    (∀ l r st, t = .marker l r st → pl.canEmit n (onBoth t) = true →
      exec i s = .next (commitEffect t0 p k n { takes := [1, 0, 0, 0], emits := onBoth t })) ∧
    (∀ q, t = .poison q → v.trapen.getLsbD 7 = false → pl.canEmit n (onBoth t) = true →
      exec i s = .next (commitEffect t0 p k n { takes := [1, 0, 0, 0], emits := onBoth t, counted := true })) ∧
    (∀ q, t = .poison q → v.trapen.getLsbD 7 = true →
      exec i s = .next (t0.detectFault p (some (.node k))
        { cause := 0x30, iter := some [v.e], opv := some [q.setWidth 64 ||| (1#64 <<< 63), v.recorded [.a] .b, 0#64] }))

/-- TCONV with its source die on operand b: the conversion, or fault 0x44 for a value that names no die and not the package. -/
def tconvPair : Prop :=
  ∀ (g : GArgs) (s : State) (p : PlaneId) (k : Nat) (pl : Plane) (n : Node) (r d : W64), g.imm = false →
    n.a.head = some (.data r) → n.b.head = some (.data d) → NodeTurn s p k pl n ⟨1, 1, 0, false⟩ →
    let t := s.admitted p n.place ⟨1, 1, 0, false⟩
    (∀ y, (d.toNat ≤ 8 ∨ d.toNat = 15) → converted s r d.toNat (g.bits 3 0) y → pl.canEmit n (onBoth (.data y)) = true →
      exec (.tconv g) s = .next (commitEffect t p k n
        { takes := [1, 1, 0, 0], emits := onBoth (.data y), data := 1, counted := true })) ∧
    (8 < d.toNat → d.toNat ≠ 15 →
      exec (.tconv g) s = .next (t.detectFault p (some (.node k))
        { cause := 0x44, iter := some [(nodeView s pl k n g).e], opv := some [r, d, 0#64] }))

/-- TRAPRD.all gives the sixteen words of its own record in order, then a marker of level 1, status 0 and round 0 (R433). -/
def recordReads : Prop :=
  ∀ (g : GArgs) (s : State) (p : PlaneId) (k : Nat) (pl : Plane) (n : Node) (x : W64) (q : Task) (slot i : Nat),
    g.opt.getLsbD 0 = true → n.a.head = some (.data x) → s.taskOf pl = some q → q.record = some slot →
    NodeTurn s p k pl n ⟨1, 1, 6, false⟩ (answerTimes (.traprd g) n) → (n.st = .elem i ∨ (n.st = .plain ∧ i = 0)) →
    let t := s.admitted p n.place ⟨1, 1, 6, false⟩ (answerTimes (.traprd g) n)
    let w := s.recordWord pl.ctx slot i
    (i < 16 → pl.canEmit n (onBoth (.data w)) = true →
      exec (.traprd g) s = .next (commitEffect t p k n { emits := onBoth (.data w), st := some (.elem (i + 1)) })) ∧
    (16 ≤ i → pl.canEmit n (onBoth (.marker 1#3 0#8 0#8)) = true →
      exec (.traprd g) s = .next (commitEffect t p k n
        { takes := [1, 0, 0, 0], emits := onBoth (.marker 1#3 0#8 0#8), data := 1, counted := true, st := some .plain }))

/-- An address that is unassigned, lies in a context block, or names a privileged register takes fault 0x50 in SYSRD and
SYSWR (R459). -/
def privilegeFaults : Prop :=
  ∀ (i : Instr) (g : GArgs) (s : State) (p : PlaneId) (k : Nat) (pl : Plane) (n : Node) (x : W64), i = .sysrd g ∨ i = .syswr g →
    n.a.head = some (.data x) → NodeTurn s p k pl n ⟨1, 1, 0, false⟩ →
    g.bits 15 0 ∉ (openRegisters s pl.ctx).map (·.1) →
    exec i s = .next ((s.admitted p n.place ⟨1, 1, 0, false⟩).detectFault p (some (.node k))
      { cause := 0x50, iter := some [(nodeView s pl k n g).e], opv := some [x, (nodeView s pl k n g).recorded [.a] .b, 0#64] })

/-- SYSWR writes CTX_TRAPEN, of which bit 5 is no field; a write to any other register that a graph reads is ignored. Either
way its ordering token follows. A marker and untrapped poison write nothing (R466). -/
def writesRegister : Prop :=
  ∀ (g : GArgs) (s : State) (p : PlaneId) (k : Nat) (pl : Plane) (n : Node) (t : Token), n.a.head = some t →
    NodeTurn s p k pl n ⟨1, 1, 0, false⟩ →
    let v := nodeView s pl k n g
    let t0 := s.admitted p n.place ⟨1, 1, 0, false⟩
    let u := commitEffect t0 p k n { takes := [1, 0, 0, 0], emits := [(0, .ord)], data := 1, counted := true }
    (∀ x, t = .data x → g.bits 15 0 = 0x7FE5 → pl.canEmit n [(0, .ord)] = true →
      exec (.syswr g) s = .next (u.modCtx pl.ctx fun c => { c with trapen := x.setWidth 8 &&& 0xDF#8 })) ∧
    (∀ x, t = .data x → g.bits 15 0 ≠ 0x7FE5 → g.bits 15 0 ∈ (openRegisters s pl.ctx).map (·.1) →
      pl.canEmit n [(0, .ord)] = true → exec (.syswr g) s = .next u) ∧
    (∀ q, t = .poison q → v.trapen.getLsbD 7 = false → pl.canEmit n [(0, .ord)] = true →
      exec (.syswr g) s = .next (commitEffect t0 p k n { takes := [1, 0, 0, 0], emits := [(0, .ord)], counted := true })) ∧
    (∀ q, t = .poison q → v.trapen.getLsbD 7 = true →
      exec (.syswr g) s = .next (t0.detectFault p (some (.node k))
        { cause := 0x30, iter := some [v.e], opv := some [q.setWidth 64 ||| (1#64 <<< 63), v.recorded [.a] .b, 0#64] })) ∧
    (t.isMarker = true → pl.canEmit n (atSink t) = true →
      exec (.syswr g) s = .next (commitEffect t0 p k n { takes := [1, 0, 0, 0], emits := atSink t }))

/-! ## TRAPACK (R434) -/

/-- What TRAPACK consumes and gives beside its effect on the record. -/
def ackEffect (t : Token) : Effect :=
  { takes := [1, 0, 0, 0], emits := if t.isMarker then atSink t else [(0, .ord)], data := if t.isData then 1 else 0
    counted := !t.isMarker }

/-- Word 0 of a record once TRAPACK has taken it with an action. -/
def takenWord (w : W64) (action : Nat) : W64 :=
  BitVec.ofNat 64 (w.toNat % 2 ^ 13 + 2 ^ 13 + action % 4 * 2 ^ 14 + w.toNat / 2 ^ 16 * 2 ^ 16)

/-- The state in which TRAPACK has fired and its record has been marked. -/
def ackTaken (s : State) (p : PlaneId) (k : Nat) (n : Node) (ctx slot action : Nat) (t : Token) : State :=
  let u := commitEffect (s.admitted p n.place ⟨1, 1, 0, false⟩) p k n (ackEffect t)
  { u with dram := u.dram.write (s.slotAddr ctx slot) (wordBytes 8 (takenWord (s.recordWord ctx slot 0) action).toNat) }

/-- The frozen plane whose record stands in a slot of a context, where no refused task of the context shows one there. -/
def shows (u : State) (ctx slot : Nat) (q : PlaneId) (ql : Plane) (f : HeldFault) : Prop :=
  (u.tasks.find? fun t => t.2.ctx = ctx ∧ t.2.shown = some slot) = none ∧
  (u.planes.find? fun x => x.2.ctx = ctx ∧ x.2.record = some slot ∧ x.2.st = .frozen) = some (q, ql) ∧ ql.shown = some f

/-- TRAPACK in its turn: a marker, and a record that is taken already, have no effect on a plane. Otherwise the record is
taken; a fault that can resume with .retry or .mask grants the faulting node its re-firing, and the plane resumes where no
other fault of it is pending (R427, R434); .abandon, and a fault that cannot resume, abandon the task. -/
def acknowledges : Prop :=
  ∀ (g : GArgs) (s : State) (p : PlaneId) (k : Nat) (pl : Plane) (n : Node) (t : Token) (h : Task) (slot : Nat),
    NodeTurn s p k pl n ⟨1, 1, 0, false⟩ → n.a.head = some t → pl.canEmit n (ackEffect t).emits = true →
    s.taskOf pl = some h → h.record = some slot →
    let u := ackTaken s p k n pl.ctx slot g.opt.toNat t
    ((t.isMarker = true ∨ (s.recordWord pl.ctx slot 0).getLsbD 13 = true) →
      exec (.trapack g) s = .next (commitEffect (s.admitted p n.place ⟨1, 1, 0, false⟩) p k n (ackEffect t))) ∧
    (∀ (q : PlaneId) (ql : Plane) (f : HeldFault) (j : Nat), t.isMarker = false → (s.recordWord pl.ctx slot 0).getLsbD 13 = false →
      shows u pl.ctx slot q ql f → f.who = some (.node j) → f.fatal = false → f.info.cause ≠ 0x38 → g.opt.toNat < 2 →
      exec (.trapack g) s = .next (u.setPlane q
        { ql.modNode j (fun m =>
            { m with grant := if g.opt = 1#2 then .mask f.info.cause else .retry f.info.cause }) with
          shown := none, record := none, resuming := ql.faults.isEmpty })) ∧
    (∀ (q : PlaneId) (ql : Plane) (f : HeldFault) (w : Task), t.isMarker = false → (s.recordWord pl.ctx slot 0).getLsbD 13 = false →
      shows u pl.ctx slot q ql f → (g.opt = 2#2 ∨ f.fatal = true) → u.taskOf ql = some w →
      exec (.trapack g) s = .next (({ (u.modPlane q fun r => { r with abandon := true, faults := [], shown := none, record := none }) with
        tasks := mapSet u.tasks ql.colour { w with abandoned := true, cause := f.info.cause, st := .ending } }).dropChildren q w.serial))

/-! ## SPAWN, DONE, TWAIT -/

/-- The child of a SPAWN firing, as it enters READY (R402). -/
def spawned (s : State) (g : GArgs) (t : Task) (x : W64) (n : Node) : Task :=
  let prio := if g.opt.getLsbD 1 then t.prio else g.bits 10 8
  { serial := s.nextId, ctx := t.ctx, ico := t.ico, load := g.bits 7 0, args := x, tag := 0#32, prio, level := prio, since := s.cycle
    preds := [], st := .ready, parent := some t.serial
    handle := BitVec.ofNat 32 ((n.refs[0]?).getD 0) ++ BitVec.ofNat 32 n.e, awaited := g.opt.getLsbD 0 }

/-- What SPAWN does with the token at the head of a (R402): it waits while no general colour is free or the context's quota
is reached. -/
def spawns : Prop :=
  ∀ (g : GArgs) (s : State) (p : PlaneId) (k : Nat) (pl : Plane) (n : Node) (t : Token), SlotTurn s p k pl n → n.a.head = some t →
    pl.canEmit n [(0, .ord)] = true →
    let u := afterGrant s p
    let v := nodeView s pl k n g
    let bad (c : Nat) : FaultInfo := { cause := c, iter := some [v.e], opv := some [t.recorded, v.recorded [.a] .b, 0#64] }
    (∀ x w c, t = .data x → wbits x 63 56 = 0 → wbits x 2 0 = 0 → s.taskOf pl = some w →
      s.held pl.ctx < (s.ctx pl.ctx).quota → s.freeColour = some c → ∃ z : State,
        exec (.spawn g) s = .next z ∧ z.task c = some (spawned u g w x n) ∧ (∀ d, d ≠ c → z.task d = s.task d) ∧
        ∃ q, z.plane? p = some q ∧ (q.nodes[k]?).map (·.e) = some (n.e + 1) ∧
          (g.opt.getLsbD 0 = true → (q.reqs.getLast?).map (·.acc) = some (.child (spawned u g w x n).serial)) ∧
          (g.opt.getLsbD 0 = false → q.reqs = pl.reqs)) ∧
    (∀ x, t = .data x → wbits x 63 56 = 0 → wbits x 2 0 = 0 → (¬ s.held pl.ctx < (s.ctx pl.ctx).quota ∨ s.freeColour = none) →
      exec (.spawn g) s = .next s) ∧
    (∀ x, t = .data x → wbits x 63 56 ≠ 0 → exec (.spawn g) s = .next (u.detectFault p (some (.node k)) (bad 0x12))) ∧
    (∀ x, t = .data x → wbits x 63 56 = 0 → wbits x 2 0 ≠ 0 →
      exec (.spawn g) s = .next (u.detectFault p (some (.node k)) (bad 0x18))) ∧
    (∀ q, t = .poison q → exec (.spawn g) s = .next (u.detectFault p (some (.node k)) (bad 0x30))) ∧
    (t.isMarker = true →
      let z := commitEffect u p k n { takes := [1, 0, 0, 0], emits := [(0, t)] }
      exec (.spawn g) s = .next (if g.opt.getLsbD 0 then
        z.addRequests p [{ id := 0, who := .node k, acc := .pass [(1, t)], space := 0, addr := 0#64, loc := 0, size := 0,
                           issued := s.cycle, nth := n.fired.length, done := true, replies := [(1, t)] }] else z))

/-- The tasks of a table once a task has left BOUND: children that have completed give up their colours, and the others are
no longer awaited (R403). -/
def orphaned (ts : List (Nat × Task)) (serial : Nat) : List (Nat × Task) :=
  (ts.filter fun x => ¬ (x.2.parent = some serial ∧ x.2.st = .complete)).map fun x =>
    (x.1, if x.2.parent = some serial then { x.2 with awaited := false } else x.2)

/-- DONE (R404): a marker reaches its sink; data and poison end the task and take the plane to ENDING, once no fault of the
plane stands (R29). -/
def ends : Prop :=
  ∀ (g : GArgs) (s : State) (p : PlaneId) (k : Nat) (pl : Plane) (n : Node) (t : Token), SlotTurn s p k pl n → n.a.head = some t →
    let u := afterGrant s p
    (t.isMarker = true → exec (.done g) s = .next (commitEffect u p k n { takes := [1, 0, 0, 0], emits := atSink t })) ∧
    (t.isMarker = false → pl.faulted = true → exec (.done g) s = .next s) ∧
    (∀ w, t.isMarker = false → pl.faulted = false → u.taskOf pl = some w →
      let z := commitEffect u p k n { takes := [1, 0, 0, 0], data := 1, counted := true }
      exec (.done g) s = .next
        { z.modPlane p (fun q => { q with
            st := .ending, claimed := none
            reqs := q.reqs.filter fun r => match r.acc with | .child _ => false | _ => true }) with
          tasks := orphaned (mapSet z.tasks pl.colour { w with st := .ending }) w.serial })

/-- TWAIT (R406): it waits while a child of the task with the handle runs, then gives its ordering token. -/
def waitsForChild : Prop :=
  ∀ (g : GArgs) (s : State) (p : PlaneId) (k : Nat) (pl : Plane) (n : Node) (t : Token) (w : Task), n.a.head = some t →
    s.taskOf pl = some w → NodeTurn s p k pl n ⟨1, 1, 0, false⟩ →
    let u := s.admitted p n.place ⟨1, 1, 0, false⟩
    let runs (h : W64) : Prop := ∃ x ∈ s.tasks, x.2.parent = some w.serial ∧ x.2.handle = h ∧ x.2.st ≠ .complete
    (∀ h, t = .data h → runs h → exec (.twait g) s = .next s) ∧
    (∀ h, t = .data h → ¬ runs h → pl.canEmit n [(0, .ord)] = true →
      exec (.twait g) s = .next (commitEffect u p k n { takes := [1, 0, 0, 0], emits := [(0, .ord)], data := 1, counted := true })) ∧
    (∀ q, t = .poison q →
      exec (.twait g) s = .next (u.detectFault p (some (.node k))
        { cause := 0x30, iter := some [(nodeView s pl k n g).e]
          opv := some [q.setWidth 64 ||| (1#64 <<< 63), (nodeView s pl k n g).recorded [.a] .b, 0#64] })) ∧
    (t.isMarker = true → pl.canEmit n (atSink t) = true →
      exec (.twait g) s = .next (commitEffect u p k n { takes := [1, 0, 0, 0], emits := atSink t }))

/-! ## KTURN (R376) -/

/-- KTURN: a request joins the edges of the group that the paddock has, all in this cycle; it waits while two of the context's
are pending on one of them. Data and poison are triggers alike. -/
def asksTurn : Prop :=
  ∀ (g : GArgs) (s : State) (p : PlaneId) (k : Nat) (pl : Plane) (n : Node) (t : Token), SlotTurn s p k pl n → n.a.head = some t →
    let u := afterGrant s p
    let es := s.padEdges p.pad (g.bits 9 7)
    (t.isMarker = true → pl.canEmit n (atSink t) = true →
      exec (.kturn g) s = .next (commitEffect u p k n { takes := [1, 0, 0, 0], emits := atSink t })) ∧
    (t.isMarker = false → (∃ e ∈ es, 2 ≤ (s.edge e).pending pl.ctx) → exec (.kturn g) s = .next s) ∧
    (t.isMarker = false → (∀ e ∈ es, (s.edge e).pending pl.ctx < 2) → pl.canEmit n [(0, .ord)] = true → ∃ z : State,
      exec (.kturn g) s = .next z ∧
      z.pads = (commitEffect u p k n { takes := [1, 0, 0, 0], emits := [(0, .ord)] }).pads ∧
      (∀ e ∈ es, z.edge e = { s.edge e with asks := (s.edge e).asks ++ [(s.cycle, pl.ctx, g.bits 6 0)] }) ∧
      ∀ e, e ∉ es → z.edge e = s.edge e)

end Sys2Proof.Claims
end

