-- ==== Sys2Proof/Claims/General.lean ====
section
/-! DEFINITION. What holds of every instruction: a step runs the word it fetches, words decode as the specification's examples
say, decoding undoes encoding, memories keep their canonical form; and what reset leaves. -/

namespace Sys2Proof.Claims

open Sys2Proof.Machine

/-! ## Steps -/

/-- A step of a node executes the instruction that its plane word decodes to; a step of a task-mode PE the one in its task store
at the pc of the activation in progress; a device step the row of the table that is due. Each leaves the agenda's rest, and
adds nothing to what the instruction does. -/
def stepRuns : Prop :=
  ∀ (s : State) (i : Instr) (rest : List Agenda),
    (∀ p k pl n, s.agenda = .fire p k :: rest → s.plane? p = some pl → pl.nodes[k]? = some n → decodeGraph n.word = .ok i →
      step s = exec i { s with agenda := rest, cursor := .node p k }) ∧
    (∀ p k pl t a w, s.agenda = .task p k :: rest → s.plane? p = some pl → pl.pes[k]? = some t → t.act = some a →
      t.words[a.pc]? = some w → decodeTask w = .ok i → step s = exec i { s with agenda := rest, cursor := .task p k }) ∧
    (∀ x, s.agenda = .event i x :: rest → step s = exec i { s with agenda := rest, cursor := .event, arg := x })

/-- A word that is no instruction stops the step of its node or PE. -/
def stepStops : Prop :=
  ∀ (s : State) (rest : List Agenda),
    (∀ p k pl n e, s.agenda = .fire p k :: rest → s.plane? p = some pl → pl.nodes[k]? = some n → decodeGraph n.word = .error e →
      step s = .fault (.undecodable n.word.toNat)) ∧
    (∀ p k pl t a w e, s.agenda = .task p k :: rest → s.plane? p = some pl → pl.pes[k]? = some t → t.act = some a →
      t.words[a.pc]? = some w → decodeTask w = .error e → step s = .fault (.undecodable w.toNat))

/-! ## Words -/

/-- A target field: operand and slot. -/
def at_ (o : Operand) (n : Nat) : Option Target := some ⟨o, BitVec.ofNat 7 n⟩

/-- The fields of a graph word: type, q<5:3>, q<2>, q<1:0>, targets, fmt. -/
def word_ (ty : Ty) (mode : BitVec 3) (imm : Bool) (opt : BitVec 2) (a b : Option Target) (fmt : BitVec 26) : GArgs :=
  ⟨ty, mode, imm, opt, a, b, fmt⟩

/-- Graph words that the specification writes out beside their statements (R71, R155, R173, R176, R195, R199, R222, and the worked
examples of its chapters). -/
def graphWords : List (Nat × Instr) :=
  [-- n3: CMP.i32.lt #-5 -> n4.p (R155)
   (0x2005_3840_03FF_FFFB, .cmp (word_ .i32 2#3 true 0#2 (at_ .p 4) none 0x3FFFFFB#26)),
   -- n4: CMP.n32.gt -> n5.p, n6.a; n5: STEER.n32.mb -> n7.a, n8.a; n6: FORK.pred -> n2.p, n3.p (R195)
   (0x2018_3858_1800_0000, .cmp (word_ .n32 4#3 false 0#2 (at_ .p 5) (at_ .a 6) 0#26)),
   (0x8010_A078_2000_0000, .steer (word_ .n32 0#3 false 2#2 (at_ .a 7) (at_ .a 8) 0#26)),
   (0x84A0_382E_0C00_0000, .fork (word_ .pred 0#3 false 0#2 (at_ .p 2) (at_ .p 3) 0#26)),
   -- n1: COUNT.i32 step=3 level=1 -> n2.a (R199)
   (0x8700_2020_0001_0003, .count (word_ .i32 0#3 false 0#2 (at_ .a 2) none 0x10003#26)),
   -- n6: CVT.e4m3x4.rne from=bf16x2 -> n7.a
   (0x7080_2070_0000_0006, .cvt (word_ .e4m3x4 0#3 false 0#2 (at_ .a 7) none 6#26)),
   -- n1: CONST.n32 #0x33 -> n2.a; n2: CONSTH.f32 #0xFED413 -> n3.a (R173)
   (0x7410_2020_0000_0033, .const (word_ .n32 0#3 false 0#2 (at_ .a 2) none 0x33#26)),
   (0x7540_2030_00FE_D413, .consth (word_ .f32 0#3 false 0#2 (at_ .a 3) none 0xFED413#26)),
   -- ENTRY.f32 #0 -> n2.a; FMA.f32.rne #2.5 -> n3.a; EXIT.f32 #0
   (0x9240_2020_0000_0000, .entry (word_ .f32 0#3 false 0#2 (at_ .a 2) none 0#26)),
   (0x4341_2030_0100_8000, .fma (word_ .f32 0#3 true 0#2 (at_ .a 3) none 0x1008000#26)),
   (0x9340_0000_0000_0000, .exit (word_ .f32 0#3 false 0#2 none none 0#26)),
   -- MXA.tok -> n5.a; MXOP.f32; ACCRD.f32 -> n8.a; MXCFG.f32 format=bf16 m=2 n=3
   (0xB1C0_2050_0000_0000, .mxa (word_ .tok 0#3 false 0#2 (at_ .a 5) none 0#26)),
   (0xB440_0000_0000_0000, .mxop (word_ .f32 0#3 false 0#2 none none 0#26)),
   (0xB540_2080_0000_0000, .accrd (word_ .f32 0#3 false 0#2 (at_ .a 8) none 0#26)),
   (0xB040_0000_0000_0210, .mxcfg (word_ .f32 0#3 false 0#2 none none 0x210#26)),
   -- TSCFG.tok region=3 kib=64; LDFE.n32.clr [tile: a] -> n7.a; AINCB.n32.rnd [tile: a] w=1/?/? -> n9.a
   (0xC7C0_0000_003F_0003, .tscfg (word_ .tok 0#3 false 0#2 none none 0x3F0003#26)),
   (0xC212_A070_0007_FFE0, .ldfe (word_ .n32 1#3 false 2#2 (at_ .a 7) none 0x7FFE0#26)),
   (0xD810_A090_000F_FFE0, .aincb (word_ .n32 0#3 false 2#2 (at_ .a 9) none 0xFFFE0#26)),
   -- n16: AGEN.tok.asrc.mk [tile: a] w=2/?/? -> n22.a
   (0xC8C4_6160_0017_FFE0, .agen (word_ .tok 2#3 false 1#2 (at_ .a 22) none 0x17FFE0#26)),
   -- GATH.f32 group=1 [ext: a + b] w=2/?/? -> n8.a; RANGE.n32.init range=2 chunk=256 -> n5.a; n53: SST.f32.mk [ext: a] -> n52.c
   (0xE243_A080_0017_FFE2, .gath (word_ .f32 1#3 true 2#2 (at_ .a 8) none 0x17FFE2#26)),
   (0xE610_6050_0000_3FC2, .rangeInit (word_ .n32 0#3 false 1#2 (at_ .a 5) none 0x3FC2#26)),
   (0xE144_B340_0047_FFE2, .sst (word_ .f32 2#3 false 2#2 (at_ .c 52) none 0x47FFE2#26)),
   -- CPY.tok [ext: a] w=3/?/? -> n9.p; FENCE.dev w=2/1/3 -> n9.p
   (0xECC0_3890_001F_FFE2, .cpy (word_ .tok 0#3 false 0#2 (at_ .p 9) none 0x1FFFE2#26)),
   (0xF0C4_3890_0010_1060, .fence (word_ .tok 2#3 false 0#2 (at_ .p 9) none 0x101060#26)),
   -- KTURN.tok side=s share=64 -> n9.p; LSTAT.n64 side=s index=0 -> n3.a
   (0xEEC0_3890_0000_0140, .kturn (word_ .tok 0#3 false 0#2 (at_ .p 9) none 0x140#26)),
   (0xEF30_2030_0000_0100, .lstat (word_ .n64 0#3 false 0#2 (at_ .a 3) none 0x100#26)),
   -- SPAWN.n32.ret load=1 prio=4 -> n5.a, n8.a; TWAIT.n64 -> n6.p
   (0xF110_6058_2000_0401, .spawn (word_ .n32 0#3 false 1#2 (at_ .a 5) (at_ .a 8) 0x401#26)),
   (0xF330_3860_0000_0000, .twait (word_ .n64 0#3 false 0#2 (at_ .p 6) none 0#26)),
   -- TRAP.i32.if code=0x12 -> n5.a; TRAPACK.tok.abandon -> n7.p; SYSRD.n64 reg=0x7FE4 -> n3.a
   (0xF400_6050_0000_0012, .trap (word_ .i32 0#3 false 1#2 (at_ .a 5) none 0x12#26)),
   (0xF6C0_B870_0000_0000, .trapack (word_ .tok 0#3 false 2#2 (at_ .p 7) none 0#26)),
   (0xF730_2030_0000_7FE4, .sysrd (word_ .n64 0#3 false 0#2 (at_ .a 3) none 0x7FE4#26)),
   -- TCONV.n64 to=4 from=1 -> n5.a; BUDRD.n64 node=5 -> n3.a
   (0xFA31_2050_0000_0014, .tconv (word_ .n64 0#3 true 0#2 (at_ .a 5) none 0x14#26)),
   (0xFB30_2030_0000_0005, .budrd (word_ .n64 0#3 false 0#2 (at_ .a 3) none 5#26))]

/-- Task words that the specification writes out: ADD t1, t2, #5 (R73); REP.d.a #4, #1 and STREQ.b4 t8, [ext: t5:t0] (R236); PEEK
t2, AND t4, t2, #1, BRC.nz t4, mk, ADD t1, t1, #1, END and SEND o0, t1 of the counting block. -/
def taskWords : List (Nat × Instr) :=
  [(0x0224_1005, .taskAddImm 1#4 2#4 0#1 5#12), (0xD260_1104, .taskRep 3#3 0#4 1#1 1#4 4#8),
   (0xCB00_A052, .taskStreq 8#4 0#4 5#4 0#1 0#2 1#1 2#2 2#3), (0xC240_0000, .taskPeek 2#4),
   (0x2084_1001, .taskAndImm 4#4 2#4 0#1 1#12), (0xD008_2002, .taskBrc 4#4 1#1 2#13), (0x0222_1001, .taskAddImm 1#4 1#4 0#1 1#12),
   (0xD400_0000, .taskEnd), (0xC402_0000, .taskSend 0#2 1#4 0#4 0#1)]

/-- Those words decode to their statements. -/
def wordsDecode : Prop :=
  (∀ x ∈ graphWords, decodeTableWord 64 x.1 = some x.2) ∧ ∀ x ∈ taskWords, decodeTableWord 32 x.1 = some x.2

/-- Decoding undoes encoding, for every instruction that a block may hold, with every operand and field at every value that
its encoding has (R62 to R74). -/
def encodingKept : Prop :=
  ∀ (env : BlockEnv) (i : Instr), i.wellFormed env = true → encode i ≠ [] → decodeBytes (encode i) = .ok i

/-! ## Memories -/

/-- Every step keeps every memory in canonical form. -/
def memoriesKept : Prop := ∀ (s t : State), s.memoriesWf → step s = .next t → t.memoriesWf

/-! ## Reset -/

/-- What the specification's register tables give as reset values: of the device's registers by address, and of a context's by
index, for every context. -/
def resetRegisters : Prop :=
  (∀ x ∈ [((8 : Nat), (0xFF#64 : W64)), (0xA, 0#64), (0x10, 0x4_0FC0#64), (0x11, 3072#64), (0x12, 0x0302_0106_0804_0301#64),
      (0x13, 0x0050_3080_6048_4040#64), (0x14, 24#64), (0x15, 0#64), (0x16, 0#64), (0x18, 0#64), (0x19, 0#64), (0x1C, 0x2424#64), (0x1E, 0#64),
      (0x1F, 0#64)] ++ (List.range 9).map (fun d => (0x20 + d, 0#64)) ++ (List.range 9).map (fun d => (0x30 + d, 0#64)) ++
      (List.range 9).map (fun d => (0x40 + d, 0x0001_0000_0000_0000#64)) ++ (List.range 256).map (fun k => (0x100 + k, 0#64)),
    State.reset.deviceReg x.1 = some x.2) ∧
  ∀ c : Nat, ∀ x ∈ [((0 : Nat), (0#64 : W64)), (1, 0#64), (2, 0#64), (3, 0xFFFF_FFFF_FFFF#64), (4, 0#64), (5, 0#64), (6, 0x0FC0_0007#64),
      (7, 0#64), (8, 0x4850_0000#64), (9, 0#64), (10, 0#64), (11, 0#64), (12, 0#64), (13, 0#64), (14, 0#64), (15, 0#64), (16, 0#64), (17, 0#64),
      (18, 0#64), (19, 0#64), (20, 0#64), (21, 0#64), (22, 0#64)],
    State.reset.ctxReg c x.1 = some x.2

/-- Memories are in canonical form at reset, and nothing is due, bound, queued or on its way. -/
def resetQuiet : Prop :=
  State.reset.memoriesWf ∧ State.reset.agenda = [] ∧ State.reset.pads = [] ∧ State.reset.tasks = [] ∧ State.reset.tack = [] ∧
  State.reset.tlbs = [] ∧ State.reset.sent = [] ∧ State.reset.saves = [] ∧ State.reset.cycle = 0

/-! ## Rules stated whole -/

/-- R469: every conv is the exact one, modulo 2^64, 15 the package timebase; and R469's own reading converts as it says. -/
def convExact : Prop :=
  ∀ (s : State) (r : W64) (src dst : Nat), converted s r src dst (s.conv r src dst)

/-- The one operand taken of FORK, MSTRIP and ORD is head t of a. -/
def taking (t : Token) (emits : List (Nat × Token)) : Effect :=
  { takes := [1, 0, 0, 0], emits, data := if t.isData then 1 else 0, counted := t.isData || t.isPoison }

/-- R196, R201, R205: FORK sends each token to its four targets; MSTRIP discards markers up to its level and passes the rest; ORD
turns data and poison, and with .mk markers, into ordering tokens. -/
def plainOperators : Prop :=
  ∀ (s : State) (p : PlaneId) (k : Nat) (pl : Plane) (n : Node) (g : GArgs) (t : Token), NodeTurn s p k pl n ⟨1, 1, 0, false⟩ →
    n.a.head = some t →
    let fires (i : Instr) (emits : List (Nat × Token)) : Prop := pl.canEmit n emits = true →
      exec i s = .next (commitEffect (s.admitted p n.place ⟨1, 1, 0, false⟩) p k n (taking t emits))
    fires (.fork g) [(0, t), (1, t), (2, t), (3, t)] ∧
    fires (.mstrip g) (if t.isMarker = true ∧ t.level ≤ g.bits 2 0 then [] else [(0, t), (1, t)]) ∧
    fires (.ord g) (if t.isMarker = true ∧ g.opt.getLsbD 0 = false then [] else [(0, .ord), (1, .ord)])

/-- R441: WDOG_CTL reads as exp, 24 at reset; a driver's write of an exp from 16 to 40 sets it, and any other leaves it; a graph
reads nothing. -/
def watchdogRegister : Prop :=
  State.reset.deviceReg 0x14 = some 24#64 ∧
  ∀ (s : State), s.arg.index = 0x14 → s.regs.stage = 5 → (∀ c, s.graphReg c 0x14 = none) ∧
    (16 ≤ wbits s.arg.value 5 0 → wbits s.arg.value 5 0 ≤ 40 →
      ∃ t, exec .registerWrite s = .next t ∧ t = { s with regs := { s.regs with wdogExp := wbits s.arg.value 5 0 } } ∧
        t.deviceReg 0x14 = some (BitVec.ofNat 64 (wbits s.arg.value 5 0))) ∧
    ((wbits s.arg.value 5 0 < 16 ∨ 40 < wbits s.arg.value 5 0) → exec .registerWrite s = .next s)

end Sys2Proof.Claims
end

