-- ==== Sys2Proof/Certificates/Slice0/Obligations.lean ====
section
/-! DEFINITION. The statements for the provers, one definition each; Sys2Proof/Claims says each part in full. -/

open Sys2Proof Sys2Proof.Machine Sys2Proof.Claims

/-- A step runs the instruction that the fetched word decodes to (02_work: R24, R36; 08_task_stores: R219, R225). When the
head of the agenda is a node, step at that state is exec of what the node's plane word decodes to, with the head removed and
the cursor at the node; for a task-mode PE, of what the task-store word at the pc of its activation decodes to; for a device
step, of its row with the stimulus. A word that decodes to nothing stops the step with the fault undecodable. The agenda, the
cursor and that fault are the model's (log 2, 92). Rests on readings of the model's own: notes/assumptions 2, 92. -/
def Obligations.StepRunsDecoded : Prop :=
  stepRuns ∧ stepStops

/-- Words that the specification writes out decode to their statements (03_code_objects: R62 to R75; 06_element_slots: R155,
R165, R173; 07_router_slots: R195, R199; 08_task_stores: R236; 17_system: R459, R469). 33 graph words and 9 task words that
the chapters give beside their statements decode to the instruction, with every field, that the statement names. -/
def Obligations.WordsDecode : Prop :=
  wordsDecode

/-- Decode of encode is the instruction, for every well-formed instruction of both forms (03_code_objects: R62 to R74). For
every block environment and every instruction that is well formed in it and has an encoding, decoding the bytes of its
encoding gives it back, with every operand and field at every value that the encoding admits. -/
def Obligations.DecodingUndoesEncoding : Prop :=
  encodingKept

/-- Every step keeps every memory in canonical form (10_memory_tiles: R263, R268; 11_external_memory: R298 to R302;
13_memory_order: R353). From every state in which device memory, host memory, the port stores, every plane's tile memory and
every saved plane's are in canonical form, a step that answers a next state leaves them so. The form is the model's (log 1).
Rests on readings of the model's own: notes/assumptions 1. -/
def Obligations.StepsKeepMemories : Prop :=
  memoriesKept

/-- Reset leaves the registers at the values of their tables and every memory in canonical form (04_translation: R107, R109;
05_arithmetic: R134, R135; 11_external_memory: R303, R310, R311, R325 to R327; 15_dispatch_budget: R394, R395, R408, R417,
R418; 16_traps: R423, R428, R438, R441, R446, R456; 17_system: R461, R463, R467, R468, R470, R474, R475). At State.reset each
device register, and each register of every context, reads as the reset column of its table says; no memory lists a byte, and
no plane, task, tack-store entry, TLB entry, message, save or agenda entry exists. The zero of an unlisted byte and the empty
agenda are the model's choices (log 1, 2); registers whose reset value the spec does not state are not in the lists. Rests on
readings of the model's own: notes/assumptions 1, 2. -/
def Obligations.ResetLeaves : Prop :=
  resetRegisters ∧ resetQuiet

/-- What firings of PE instructions and of one-cycle operators leave unchanged (06_element_slots: R140, R141; 07_router_slots:
R182, R185; 02_work: R35 to R37; 15_dispatch_budget: R412, R413). A firing of an element-wise instruction or TRAP on a PE
changes no register, context, task, memory, tile memory or operator state and moves no token: it marks and reserves in its own
plane, and other planes change at most the level and wait of the sequencer. A firing of an operator that fires in one cycle
changes its own node and what its targets hold: no other node's counters or state, and no channel but by tokens that join at
the end; in a plane that is not a handler's, every register, context, task and memory stays. Rests on readings of the model's
own: notes/assumptions 9. -/
def Obligations.FiringFrames : Prop :=
  peFrame ∧ atOnceFrame

/-- HOME_PERFORM changes the bytes that the request stores and no other byte of any memory (10_memory_tiles: R264, R275 to
R278, R288; 11_external_memory: R297, R324; 13_memory_order: R353). Where HOME_PERFORM of a plane's request answers a next
state, device memory keeps every byte outside the request's stored bytes at its place (spaces 2 and 3), the port stores
outside space 1's, host memory outside those of spaces above 3, and every plane's tile memory but the plane's own at the
places of its requests; device registers, firmware, edges and the clock stay. For an access that stores nothing, every byte of
every memory outside tile space is as before. -/
def Obligations.HomeFrames : Prop :=
  homeFrame

/-- No step of a node or a task touches a byte of memory but TRAPACK's and BINRUN's (10_memory_tiles: R264, R286;
11_external_memory: R297; 13_memory_order: R353). For every instruction that a node or a task-mode PE fetches, TRAPACK and
BINRUN excepted, a next state of exec has the device memory, port stores, tile memories, full-empty bits, FIFOs, firmware,
host link, request slots and clock of the state before, and the device registers but for the pointers of the event ring:
accesses take place at their homes. -/
def Obligations.NodesLeaveMemory : Prop :=
  nodesLeaveMemory

/-- Shared task operations change register td alone (06_element_slots: R149; 08_task_stores: R219, R220, R225). A task-form
integer, bit, CMP, SEL or floating-point instruction leaves every task register but td, the staging rows, the task store, the
PE's channels and requests, tile memory, every node, every other plane but for the sequencer's level and wait, and in a plane
that is not a handler's every device and context register and every memory as they were. -/
def Obligations.TaskFrames : Prop :=
  taskFrame

/-- The conversion of R469 is exact, modulo 2^64 (R469). For every state, reading, source and destination, State.conv is the
conversion of R469: P is r for source 15 and otherwise floor(r x rate / 2^48) + offset of the source; the result is P for
destination 15 and otherwise floor(((P - offset) mod 2^64) x 2^48 / rate) of the destination, with the applied pairs, modulo
2^64. -/
def Obligations.TimeConverts : Prop :=
  convExact

/-- MSTRIP discards markers up to its level; FORK and ORD act on each token as their rules say (R196; R201; R205). In its
granted and admitted turn with a token at the head of a and room at its targets, MSTRIP takes the token and sends nothing
where it is a marker of level L or below and sends it unchanged to both targets otherwise; FORK takes it and sends it to all
four targets; ORD takes it and sends an ordering token to both targets, but for a marker without .mk, which sends nothing. -/
def Obligations.MarkersStripped : Prop :=
  plainOperators

/-- WDOG_CTL takes an exp from 16 to 40 and ignores any other (R441). WDOG_CTL reads 24 at reset; a driver's write of exp 16
to 40 on a started device leaves a state that differs only in that register, which then reads as exp; a write of another exp
leaves the state as it is; a graph has no read of it. -/
def Obligations.WatchdogControl : Prop :=
  watchdogRegister

/-- Integer and bit instructions issue with the values of their rules (06_element_slots: R141, R142, R147, R150 to R156;
05_arithmetic: R115). For every integer and bit instruction of the tables, CMP and SEL among them, every type and qualifier:
in its granted and admitted turn with data on the operands that it reads and room at its targets, exec answers the next state
in which the firing is issued with the value that the rule gives, to complete after its latency; the quotient and remainder of
a zero divisor among them where idz does not trap it. Rests on readings of the model's own: notes/assumptions 9. -/
def Obligations.IntegerAndBitFirings : Prop :=
  (∀ c ∈ integerOps, ∀ g, c.firesOnData g) ∧ ∀ c ∈ bitOps, ∀ g, c.firesOnData g

/-- Floating-point and special-function instructions issue with the values of their rules (06_element_slots: R157 to R164;
05_arithmetic: R120 to R132, R138). For every floating-point instruction and special function: in its granted and admitted
turn with data on its operands, no trapped flag and room at its targets, exec answers the next state in which the firing is
issued with the result and flags that the rules give. Where R138 gives an accuracy and no result, the result is the free pick
within it (log 21). Rests on readings of the model's own: notes/assumptions 21, 22, 28. -/
def Obligations.FloatFirings : Prop :=
  (∀ c ∈ floatOps, ∀ g, c.firesOnData g) ∧ ∀ c ∈ specialOps, ∀ g, c.firesOnData g

/-- Floating-point, special-function and conversion instructions complete on any data, in graph and task form
(06_element_slots: R141, R147, R149, R157 to R166; 05_arithmetic: R131; 08_task_stores: R225, R230). Where the context traps
no floating-point flag, or the block raises none as a trap: for every floating-point instruction, special function, lane
instruction and CVT in its granted and admitted turn with data on its operands and room at its targets, exec answers the next
state in which the firing is issued with the value and flags of its rule, whatever the data; and for the task forms of the
floating-point operations and CVT, the next state in which td holds the value and the flags are raised. Rests on readings of
the model's own: notes/assumptions 9, 21. -/
def Obligations.FloatsComplete : Prop :=
  (∀ c ∈ floatOps ++ specialOps ++ laneOps, ∀ g, c.completes g) ∧
    (∀ (src dst : Ty) (g : GArgs), g.cvtSrc = some src → g.ty = dst → (cvtRule src dst).isSome = true → (cvtOp src dst).completes g) ∧
    (∀ c ∈ sharedFloats, c.completes) ∧ convertCompletes

/-- Lane, constant and conversion instructions issue with the values of their rules (06_element_slots: R165 to R176;
05_arithmetic: R122, R125). For PACK, UNPK, MOV, CONST, CONSTH, SXT, FMIN1, WAITC and the other instructions of the lane
table, and for CVT with every pair of types that R166 allows: in the granted and admitted turn with data on the operands, exec
answers the next state in which the firing is issued with the value of its rule. -/
def Obligations.LaneAndConvertFirings : Prop :=
  (∀ c ∈ laneOps, ∀ g, c.firesOnData g) ∧
    ∀ (src dst : Ty) (g : GArgs), g.cvtSrc = some src → g.ty = dst → (cvtRule src dst).isSome = true → (cvtOp src dst).firesOnData g

/-- Element-wise instructions fault, join markers and pass poison as R38, R39 and R147 say (02_work: R38, R39;
06_element_slots: R147; 05_arithmetic: R131, R132; 07_router_slots: R187). For every instruction of the element tables: data
that traps (a zero divisor, a trapped flag) issues the firing with that fault; markers on every operand are joined and sent
on, and markers that do not match give fault 0x51; poison gives fault 0x30 where the poison trap is on and is passed with its
cause otherwise. -/
def Obligations.ElementsFaultMarkPoison : Prop :=
  elementTables ElementOp.faultsOnData ∧ elementTables ElementOp.joinsMarkers ∧ elementTables ElementOp.passesPoison

/-- Steering, sequencing and ordering operators fire with the effect of their rules (07_router_slots: R182 to R210; 02_work:
R37, R40 to R42). STEER, MERGE, CARRY, INVAR, FORK, SINK, GATE, COUNT, MARK, MSTRIP, MLIFT, MTEST, ZIP, ORD, JOIN, BAR, DRAIN,
CALL, ENTRY and EXIT: for each case that the relations list, the operator in its granted and admitted turn with room at its
targets answers the next state with the listed tokens taken and sent, operator state and round counter. Round fields of
markers of level 1 to 3 are free (log 17); a DRAIN fires once its barrier has reached every sink (log 88); BAR takes b first
(log 15). Rests on readings of the model's own: notes/assumptions 15 to 18, 20, 25, 88. -/
def Obligations.OperatorsSteerSequenceOrder : Prop :=
  controlFires SteersTo ∧ controlFires SequencesTo ∧ controlFires OrdersTo

/-- Reductions, scans and filters fire with the effect of their rules (07_router_slots: R211 to R218; 05_arithmetic: R137;
02_work: R39, R40). RED, REDX, SCAN, FILT, CMPCT and PAT: elements enter the partials of their group, results leave with the
group's marker, scans give a value for each element, filters pass and count, each as the listed case says, as the next state
of exec in the granted and admitted turn. The index after a version-1 default NaN is free (log 19). Rests on readings of the
model's own: notes/assumptions 12 to 14, 18, 19. -/
def Obligations.OperatorsGroup : Prop :=
  controlFires GroupsTo

/-- Operators take the faults that their rules name (07_router_slots: R187 to R218; 02_work: R38 to R40). Markers out of step,
a marker of the wrong round at a stateful node, poison where its trap is on, and trapped roundings of reductions: the operator
in its granted and admitted turn takes the listed fault with the operands it would have taken as the record's operand values,
and takes and sends nothing. -/
def Obligations.OperatorsFault : Prop :=
  controlFault

/-- Memory-tile and single-access instructions issue their access (10_memory_tiles: R264, R272 to R280, R287 to R292;
11_external_memory: R300, R308, R324; 06_element_slots: R175). LD, ST, LDV, LDFE, STFE, FECLR, FESET, FETEST, the FIFO forms
and the atomics: a data firing in its turn whose address passes its probe takes its operands and leaves a request with the
access, address, place and size that the rules give; a node whose earlier request still awaits its peer does so too (R300).
Rests on readings of the model's own: notes/assumptions 34. -/
def Obligations.MemoryNodesAccess : Prop :=
  (∀ c ∈ memOps, c.accesses) ∧ ∀ c ∈ memOps, c.pipelines

/-- Single-access instructions fault at their probe, pass markers and treat poison as their rules say (10_memory_tiles: R273,
R276, R291; 11_external_memory: R306, R308; 02_work: R38, R39). For each instruction of the table: an address that fails its
probe gives that cause, with the access kind and address in the record and the operands in place; markers are joined and sent
in turn behind earlier replies; poison traps, is passed or poisons the stored word as R39, R276 and R291 say. -/
def Obligations.MemoryNodesFaultMarkPoison : Prop :=
  (∀ c ∈ memOps, c.probes) ∧ (∀ c ∈ memOps, c.marks) ∧ ∀ c ∈ memOps, c.poisons

/-- GATH, SCATX, SCAT, SLD, SST and PREF make the accesses of their rules (11_external_memory: R315 to R322; 10_memory_tiles:
R285). Each case of the two relations: a firing in its turn takes the listed tokens, issues the listed access or fault, and
keeps the listed base, element and state. The base is taken with the first index of its group (log 42). Rests on readings of
the model's own: notes/assumptions 39, 42, 44, 46. -/
def Obligations.GroupsAndStreamsAccess : Prop :=
  memFires AccessesGroup ∧ memFires Streams

/-- SPLD, LBWIN, BINADD, BINRUN and RANGE make the accesses of their rules (11_external_memory: R323 to R333; 10_memory_tiles:
R280; 08_task_stores: R237). Each case of the relations for sparse lines, line buffers, bins and range servers is the next
state of exec in the node's turn. Rests on readings of the model's own: notes/assumptions 38, 41, 45. -/
def Obligations.LinesAndServersAccess : Prop :=
  memFires Lines ∧ memFires Serves ∧ lineBuffers

/-- AGEN and SCAT run their nest in order (10_memory_tiles: R281 to R284). A firing of AGEN gives the element that its nest
stands at, with the address, the marker and the next point of the nest that R282 gives; the order of the nest is the
lexicographic one with its markers. Rests on readings of the model's own: notes/assumptions 43. -/
def Obligations.AddressNests : Prop :=
  agenFires ∧ nestOrder

/-- Feeding nodes move groups and scales, markers are taken at the boundaries, and configuration nodes never fire
(09_matrix_engines: R245 to R249, R260; 10_memory_tiles: R270). MXA and MXB send their group to the bus, MXSC gathers the
scale words of a block; TSCFG and MXCFG change nothing; MXOP and MXTILE take markers of both operands together and fault where
they do not match. Rests on readings of the model's own: notes/assumptions 54. -/
def Obligations.EnginesFeedAndHold : Prop :=
  (∀ i, neverFires i → ∀ s, exec i s = .next s) ∧ feeds ∧ gathersScales ∧ engineMarkers ∧ engineBehind ∧ engineClash

/-- A step of MXOP or MXTILE updates every valid cell as R251 says (09_matrix_engines: R250 to R254, R260; 05_arithmetic:
R136). In its granted and admitted turn a step of an element takes the groups, adds the products of each cell in the order of
R136, sets poison bits as R254 says, and owes its flags until it completes, or takes the fault of R147; every other cell
stays. The elements of an MXTILE issue their steps together (log 118). Rests on readings of the model's own: notes/assumptions
12, 53, 118. -/
def Obligations.EnginesStep : Prop :=
  engineSteps ∧ stepCells ∧ stepFlags

/-- ACCRD, ACCCLR and ACCLD act at a boundary as R256 to R258 say (09_matrix_engines: R255 to R257). Readouts leave row by row
with their markers, clearing and loading set the cells and their poison bits, and values are set in place. Rests on readings
of the model's own: notes/assumptions 54. -/
def Obligations.EnginesReadAndLoad : Prop :=
  readsOut ∧ clears ∧ loadsBank ∧ setsPlace ∧ readoutOrder

/-- MFE_BOUNDARY and MFE_TENSOR_START run the sequence of a boundary and of a tensor start (09_matrix_engines: R255, R256).
The boundary sequence reads, clears and passes its marker in the order of R256; a tensor start resets what R255 says. Rests on
readings of the model's own: notes/assumptions 54. -/
def Obligations.EnginesTensors : Prop :=
  boundaries ∧ startsOn ∧ loadsAnew ∧ tensorStarts

/-- CPY and CPYM take a packet, check it and join their port; markers pass behind copies (12_copy_engines: R335 to R341, R349,
R350). A packet's words are read as their fields; a malformed packet, a probe fault or a busy port does what R341 says; a
marker waits for the copies before it. Rests on readings of the model's own: notes/assumptions 55. -/
def Obligations.CopiesAccepted : Prop :=
  packetWords ∧ packetTurn ∧ copyMarker

/-- COPY_RUN, COPY_TIMEOUT and SLOT_RETURN do what R342 to R350 say (12_copy_engines: R342 to R350). A copy reads and writes
granule by granule, arrivals count in their cell, a timeout poisons what is not yet written, and slots return to their
receiver's counter. What a peer's probe fault does to a copy is the model's choice (log 56) and not stated here. Rests on
readings of the model's own: notes/assumptions 55. -/
def Obligations.CopiesRun : Prop :=
  copyRuns ∧ arrivals ∧ copyTimesOut ∧ slotReturns

/-- TRAP, TRAPRD and TRAPACK act as R431 to R435 say (16_traps: R431 to R435, R427). TRAP issues with its tokens or its fault
0x48, 0x30 or 0x51; TRAPRD.all emits the record's words one by one; TRAPACK marks the record as taken and gives the plane or
task its action. Rests on readings of the model's own: notes/assumptions 78. -/
def Obligations.TrapsAndRecordsAct : Prop :=
  trapIssues ∧ recordReads ∧ acknowledges

/-- SYSRD, SYSWR, RDTIME, TCONV, BUDRD, LSTAT and TRAPRD answer as their rules say (17_system: R457 to R466, R469;
15_dispatch_budget: R419; 14_lanes: R377; 16_traps: R433). A data trigger is taken and answered on both targets with the
register, time, conversion, budget or edge word; markers and poison pass; a privileged or unassigned register takes fault
0x50; SYSWR writes CTX_TRAPEN of its own context. Rests on readings of the model's own: notes/assumptions 72, 77, 78. -/
def Obligations.SystemAnswers : Prop :=
  answersData ∧ answersOthers ∧ tconvPair ∧ privilegeFaults ∧ writesRegister

/-- SPAWN, DONE and TWAIT act as R402, R404 and R406 say (15_dispatch_budget: R401 to R406; 02_work: R28, R29). SPAWN checks
its argument, waits for a colour and quota, inserts the child and emits its handle; DONE ends the task and takes its plane to
ENDING; TWAIT waits while the child of its handle runs and then gives an ordering token. Rests on readings of the model's own:
notes/assumptions 65. -/
def Obligations.TasksSpawnAndEnd : Prop :=
  spawns ∧ ends ∧ waitsForChild

/-- Shared task operations and task CVT execute with the values of their graph forms (06_element_slots: R149; 08_task_stores:
R220, R225, R230; 03_code_objects: R72, R73). For every shared operation in register and immediate form and for CVT: the
instruction at the pc of an activation in its granted and admitted turn writes td with the value of the graph form, raises its
flags or takes its fault, tags td as its operands are tagged, and the pc advances. Rests on readings of the model's own:
notes/assumptions 47, 48. -/
def Obligations.TaskOperations : Prop :=
  (∀ c ∈ sharedIntegers ++ sharedBits ++ sharedFloats, c.executes) ∧ converts

/-- Channel, branch, repeat, staging and ending instructions execute as their rules say (08_task_stores: R228, R231 to R233,
R236, R237 to R240). RECV, PEEK, SEND, SENDM, BR, BRC, REP, SETI, MOV, TRAP, EMITA, EMITB, SPLIT, END and the rest of the
task-specific rows: each case of the relations is the next state of exec or the fault at the instruction; REP steps its fields
within t0 to t15. Rests on readings of the model's own: notes/assumptions 17, 49, 86. -/
def Obligations.TaskControls : Prop :=
  taskControl ∧ repRange

/-- LDREQ, STREQ and AREQ send one request each (08_task_stores: R229, R234). A request instruction whose address passes its
probe leaves a request with the access, place, size and reply channel of R229 and R234; tags, alignment and probe faults are
taken at the instruction. -/
def Obligations.TaskRequestsIssue : Prop :=
  taskRequests

/-- Activations start, commit, send, end and overrun as R222 to R226 say (08_task_stores: R222 to R226, R235).
ACTIVATION_START starts the activation that comes first in R224's order; commits and sends move the pc and the tokens; an
activation past its bound faults. Rests on readings of the model's own: notes/assumptions 50, 51. -/
def Obligations.TaskActivations : Prop :=
  taskCommits ∧ taskSends ∧ overruns ∧ activates ∧ activationOrder

/-- Memory reads back what was written, and nothing else changes (11_external_memory: R301; 10_memory_tiles: R264; 00_scope:
R4). A write gives its bytes at its place and leaves every other byte; marks change as R301 says; a word reads with the
extension of its type, or as poison where a word of it is marked. Rests on readings of the model's own: notes/assumptions 1.
-/
def Obligations.MemoryReadsWrites : Prop :=
  memoryWrites ∧ memoryReads

/-- HOME_PERFORM makes an access at its home in one indivisible step (10_memory_tiles: R264, R273 to R279, R288 to R291;
11_external_memory: R297, R304, R313; 13_memory_order: R353, R363). Loads, stores, full-empty accesses, FIFO accesses, atomics
and beats at device memory, the port stores, tile memory and host memory: the memory, full-empty bits, FIFOs, reply and flags
after the step are those of the rules; a change of a granule serves the requests parked on it in order. A plain load of host
memory may be served by a copy (log 33). Rests on readings of the model's own: notes/assumptions 33, 35, 36. -/
def Obligations.HomesPerform : Prop :=
  homeExternal ∧ homeTile ∧ wakesParked ∧ homeHost

/-- A request waits for its turn, and range servers and bins serve as their rules say (11_external_memory: R299, R305, R325 to
R333; 10_memory_tiles: R293; 13_memory_order: R354). HOME_PERFORM of a request that must wait holds it, or keeps it in the
collection buffer of its rounded tile; one that finds no request slot waits for one; range servers give chunks in order of
arrival; bins take their records; BINRUN replays them in order. Rests on readings of the model's own: notes/assumptions 35,
45, 95, 98. -/
def Obligations.HomesWaitAndServe : Prop :=
  homeWaits ∧ linesCached ∧ homeServers ∧ homeBins ∧ binReplays

/-- FIRING_COMPLETE, REQUEST_SLOT_FREE and the movement of tokens (06_element_slots: R141 to R143; 02_work: R30, R35 to R37;
07_router_slots: R177, R178; 11_external_memory: R299; 16_traps: R421). An issued firing that is due takes its operands, sends
its tokens, counts and raises its flags, or its fault is detected and later firings of the node are cancelled; a request slot
is freed. An emission enters the first track of its channel as the physical tokens of R30, a track passes one on in a granted
cycle, and at the consumer they are the virtual token again. Rests on readings of the model's own: notes/assumptions 9, 119.
-/
def Obligations.FiringsComplete : Prop :=
  slotFrees ∧ firingCompletes ∧ faultCompletes ∧ tokensMove ∧ tokensPack ∧ tracksMove

/-- Replies, rounds, walks, timeouts and cache lines (02_work: R31; 10_memory_tiles: R274, R293; 11_external_memory: R305 to
R309; 13_memory_order: R363; 16_traps: R442; 08_task_stores: R234). MEMORY_REPLY sends replies in issue order, a stream's
closing marker with its group's poison bit; task replies reach their channel; rounds close; TABLE_WALK goes down table by
table and fills or faults; MEMORY_TIMEOUT restarts or faults; SYSTEM_CACHE_LINE drops or makes a copy. Rests on readings of
the model's own: notes/assumptions 31 to 33, 37. -/
def Obligations.RepliesReturn : Prop :=
  repliesLeave ∧ streamsClose ∧ taskReplies ∧ roundsClose ∧ walksGoOn ∧ walksEnd ∧ requestsTimeOut ∧ hostLines

/-- A fault is detected, located and, as a double fault, fails its context (16_traps: R421, R425, R437 to R439). A detected
fault is held by its plane with its place, die, block, slot and time, and freezes the plane 12 cycles later; a fault of a
handler or a second record that cannot be taken fails the context as R437 to R439 say. Rests on readings of the model's own:
notes/assumptions 60. -/
def Obligations.FaultsDetected : Prop :=
  detects ∧ locates ∧ contextFails

/-- PLANE_FREEZE and TRAP_RECORD_WRITE freeze a plane and start its handler (16_traps: R421 to R430). A plane whose fault is
due freezes; the record of the first in line is written to the lowest free slot word by word, and a handler task with a
reserved colour is inserted; with no free slot it waits. The native words of a record are free (log 8). Rests on readings of
the model's own: notes/assumptions 8, 70, 71. -/
def Obligations.PlanesFreezeAndRecord : Prop :=
  freezes ∧ records ∧ refusalRecords ∧ recordsWait

/-- Cycles pass and WATCHDOG_EXPIRY takes fault 0x40 (16_traps: R421, R440, R441; 17_system: R467). Cycles advance the die
times and every plane's watchdog as R440 says, and none passes in which a freeze is due; an expired watchdog gives its plane
fault 0x40. Rests on readings of the model's own: notes/assumptions 75. -/
def Obligations.WatchdogsRun : Prop :=
  cyclesPass ∧ freezeHolds ∧ watchdogExpires

/-- Plane reloads, state errors and memory errors (16_traps: R451 to R456). A plane word error starts a reload and its end
counts it; an uncorrectable error in plane state poisons a token or faults; one in SRAM poisons its word, and corrected errors
count. Rests on readings of the model's own: notes/assumptions 73, 117. -/
def Obligations.ErrorsSpoil : Prop :=
  reloads ∧ stateErrors ∧ sramErrors

/-- REGISTER_WRITE writes each register as its table says, and BAR0 reads as it says (14_lanes: R386, R387; 17_system: R457,
R458, R471; 15_dispatch_budget: R394, R408; 16_traps: R428, R441). For every register address: the stored fields, the writes
that act and the addresses that no write changes; a device that has not started answers none but FW_CTL and FW_RECOVER; what a
read of BAR0 gives, zero outside the aligned registers. -/
def Obligations.RegistersWritten : Prop :=
  registerWrites ∧ registersClosed ∧ barReads

/-- Context status, flags, bins, save area, tack flush, TLB invalidation, activity and time writes (17_system: R461, R462,
R468; 05_arithmetic: R134; 11_external_memory: R311, R327; 16_traps: R446, R449; 04_translation: R109; 15_dispatch_budget:
R417). CTX_MAKE_LIVE, CTX_MAKE_OFF, CTX_CLEAR_FAILED, FPFLAGS_CLEAR, BINCTL_WRITE, SAVEAREA_WRITE, TACK_FLUSH, TLB_INV_START,
TLB_INV_DONE, ACT_BUDGET_WRITE, DIE_TIME_OFFSET_WRITE and DIE_TIME_RATE_WRITE have the effect of their registers under the
conditions of their rules. Rests on readings of the model's own: notes/assumptions 27. -/
def Obligations.ContextsWritten : Prop :=
  statusWrites ∧ flagsClear ∧ areaWrites ∧ purges ∧ pacingWrites

/-- POWER_ON, firmware activation and recovery (17_system: R471 to R473; 04_translation: R105). Start-up tries the slots in
order and ends at stage 5 or 0xFF with its error; an activation and a recovery check their image and take effect as R472 and
R473 say. Rests on readings of the model's own: notes/assumptions 3. -/
def Obligations.DeviceStarts : Prop :=
  powersOn ∧ activatesFirmware ∧ firmwareActive ∧ recovers

/-- Clock steps, the host link, measurements and scan reads (17_system: R474, R475; 14_lanes: R385; 16_traps: R422). Clock
steps, thermal shutdown, HOST_LINK_UP, SPDM_REQUEST and SCAN_DATA_READ act as their rules say; the scanned word of a FROZEN
plane is free (log 8). Rests on readings of the model's own: notes/assumptions 8, 76. -/
def Obligations.ClocksLinksScans : Prop :=
  clockSteps ∧ hostLink ∧ scans

/-- Launches, buffers and ageing (14_lanes: R386 to R390; 15_dispatch_budget: R391 to R397). A launch record of version 1 or 2
enters the dependence table, waits in its context's buffer, is lost or is counted as bad; buffered launches enter; READY tasks
age. Rests on readings of the model's own: notes/assumptions 62. -/
def Obligations.LaunchesEnter : Prop :=
  launches ∧ buffersEmpty ∧ tasksAge

/-- Binding takes the first task in order to the first place that R409 gives (15_dispatch_budget: R393, R400, R408 to R410;
04_translation: R92, R102 to R104). The image fits its paddock as R92 says, tasks bind in the order of R393, a bound task
receives its arguments, and lazy claims choose their victim. Rests on readings of the model's own: notes/assumptions 64, 66,
67. -/
def Obligations.TasksBind : Prop :=
  imageFits ∧ bindOrder ∧ binds ∧ claimVictims

/-- TRANSLATE_LOAD and CONFIG_COMPLETE (04_translation: R81, R88 to R106; 02_work: R28; 10_memory_tiles: R268). A wanted load
is served by a live entry, or read, checked and lowered to a new one under its identity, with the feature mask that its
binding sampled and the plan that the identity keeps, or refused with its record; an entry serves once it has been filled; a
configured plane enters LIVE with its state as R183 and R268 say. Rests on readings of the model's own: notes/assumptions 79
to 83. -/
def Obligations.LoadsTranslateAndConfigure : Prop :=
  translates ∧ fillsEntry ∧ plansStay ∧ configures

/-- PLANE_END and CONTEXT_TEARDOWN (02_work: R28; 15_dispatch_budget: R399, R403, R405; 16_traps: R434, R439). An ENDING plane
that owes nothing goes to FREE and its task completes, with its record, return token and dependants; an abandoned one ends as
R434 says; a failed context is torn down. Rests on readings of the model's own: notes/assumptions 61, 63. -/
def Obligations.PlanesEnd : Prop :=
  planesEnd ∧ planesEndLater ∧ abandonedEnd ∧ tearsDown

/-- SAVE_START, SAVE_COMMIT and restores (16_traps: R444 to R450). A claimed plane is saved within its bound of pages or rolls
back; the commit frees the plane in one cycle and its task waits as saved; a restore gives the state back. Rests on readings
of the model's own: notes/assumptions 26, 67, 68. -/
def Obligations.PlanesSaveAndRestore : Prop :=
  savesStart ∧ savesCommit ∧ restores

/-- FRAME_BOUNDARY, PLANE_LEVEL_AGEING and PE_URGENT share the cycles of a paddock (15_dispatch_budget: R411 to R415). The
frame table holds each plane in its share, waiting planes rise in level, and a PE that has waited its bound is urgent. Rests
on readings of the model's own: notes/assumptions 85. -/
def Obligations.SequencerShares : Prop :=
  framesBuilt ∧ waitingIsFelt

/-- Turnable edges, their controllers and KTURN (14_lanes: R370 to R376). A paddock has the edges of R372; EDGE_TURN_POINT and
TURN_COMPLETE turn an edge as R373 says; KTURN puts its request in every edge of its group. Rests on readings of the model's
own: notes/assumptions 59. -/
def Obligations.EdgesTurn : Prop :=
  edgesHad ∧ edgesTurn ∧ turnsEnd ∧ asksTurn

/-- Flithe frames are sent, dropped, acknowledged, resent and reset as R380 says (14_lanes: R379, R380). FLITHE_DATA_FRAME,
FLITHE_ACK_FRAME, FLITHE_RESET_FRAME, FLITHE_LINK_UP, FLITHE_RESEND_TIMEOUT, FLITHE_ACK_TIMER and FLITHE_RESET_REPEAT act on
the streams of a port as its rules say. Rests on readings of the model's own: notes/assumptions 58, 89. -/
def Obligations.FramesFlow : Prop :=
  framesDropped ∧ acksRead ∧ dataFrames ∧ controlFrames ∧ portTimers ∧ linksUp ∧ framesSent

/-- Flithe messages are split, served and answered as R381 and R383 say (14_lanes: R381 to R383; 11_external_memory: R314).
The flits of a frame are its messages; a peer's request is checked, performed and answered; a reply that reports a probe fault
gives its node the fault, and one for no request is discarded. Rests on readings of the model's own: notes/assumptions 34, 58.
-/
def Obligations.MessagesServed : Prop :=
  messagesSplit ∧ peersServed ∧ repliesCome
end

