-- ==== Sys2Proof/Laws/Cache.lean ====
section
/-! SUPPORT. Everything that the use of a port cache and the wait for a request slot can change (R299, R305): the sets, the pools and
what waits for them, and nothing else of the machine. -/

namespace Sys2Proof.Machine

/-- A state that differs from s in its port caches, request slots and their queues alone. -/
def State.cached (s z : State) : Prop :=
  z = { s with caches := z.caches, slotsHbm := z.slotsHbm, slotsLp := z.slotsLp, slotQueues := z.slotQueues, fresh := z.fresh }

theorem State.cached_refl (s : State) : s.cached s := rfl

theorem State.cached_trans {s t z : State} (h : s.cached t) (h' : t.cached z) : s.cached z := by
  unfold State.cached at *
  rw [h'] ; rw [h]

theorem State.takeSlotOf_cached {s z : State} {line : Nat} (h : s.takeSlotOf line = some z) : s.cached z := by
  unfold State.takeSlotOf at h
  simp only at h
  split at h
  · cases h
    unfold State.setSlots
    split <;> rfl
  · cases h

/-- A line used or filled. -/
theorem State.cacheLine_cached {s z : State} {who : SlotWaiter} {u : CacheUse} {line : Nat} (h : s.cacheLine who u line = some z) :
    s.cached z := by
  unfold State.cacheLine at h
  simp only at h
  split at h
  · cases h; rfl
  · split at h
    · cases h
    · split at h
      · cases h
      · rename_i t ht
        have hs := State.takeSlotOf_cached ht
        split at h
        · cases h; exact State.cached_trans hs rfl
        · split at h
          · split at h
            · exact State.cached_trans (State.cached_trans hs (by rfl)) (State.takeSlotOf_cached h)
            · cases h; exact State.cached_trans hs rfl
          · cases h; exact State.cached_trans hs rfl

/-- Lines used or filled in turn. -/
theorem State.cacheLines_cached {who : SlotWaiter} {u : CacheUse} : ∀ {lines : List Nat} {s z : State},
    s.cacheLines who u lines = some z → s.cached z
  | [], s, z, h => by cases h; rfl
  | l :: rest, s, z, h => by
    unfold State.cacheLines at h
    cases ht : s.cacheLine who u l with
    | none => rw [ht] at h; cases h
    | some t =>
      rw [ht] at h
      exact State.cached_trans (State.cacheLine_cached ht) (State.cacheLines_cached h)

/-- A request for which no slot is free waits, and changes nothing else. -/
theorem State.waitSlot_cached {who : SlotWaiter} : ∀ {lines : List Nat} {s : State}, s.cached (s.waitSlot who lines)
  | [], s => rfl
  | l :: rest, s => by
    unfold State.waitSlot
    simp only
    split
    · exact State.waitSlot_cached
    · refine State.cached_trans ?_ State.waitSlot_cached
      rfl

end Sys2Proof.Machine
end

