-- ==== Sys2Proof/Laws/Fire.lean ====
section
/-! SUPPORT. What a granted and admitted firing does, once for each of the four ways in which an instruction takes its
turn: issue on a PE, a firing of one cycle, a memory firing, a task instruction. -/

namespace Sys2Proof.Machine

theorem cursorNode_of {s : State} {p : PlaneId} {k : Nat} {pl : Plane} {n : Node} (hc : s.cursor = .node p k)
    (hp : s.plane? p = some pl) (hn : pl.nodes[k]? = some n) : cursorNode s = some (p, k, pl, n) := by
  simp [cursorNode, hc, hp, hn]

variable {s : State} {p : PlaneId} {k : Nat} {pl : Plane} {n : Node}

theorem NodeTurn.at_cursor {c : Cost} {m : Nat} (h : NodeTurn s p k pl n c m) : cursorNode s = some (p, k, pl, n) :=
  cursorNode_of h.cursor h.plane h.node

/-- A granted cycle, or a re-firing in an ENDING plane, does not hold a firing back. -/
theorem granted_goes {s : State} {p : PlaneId} {pl : Plane} (h : s.granted p pl) :
    (!(grantCycle s p).1 && decide (pl.st = .live)) = false := by
  by_cases hl : pl.st = .live
  · simp [hl, h hl]
  · simp [hl]

/-- A PE firing whose turn it is and whose emissions find room issues. -/
theorem firePeFor_turn {g : GArgs} {i : Instr} {dep : Bool} {wait : Option Nat} {rule : View → Firing} {f : Firing}
    (h : NodeTurn s p k pl n (cost i)) (hr : rule (nodeView s pl k n g) = f) (hw : f ≠ .wait) (hf : f.fits pl n = true) :
    firePeFor s g i dep wait rule = .next (issueFiring (s.admitted p n.place (cost i)) p k n dep
      (wait.map ((s.dieTime (placeDie n.place)).toNat + ·)) (s.cycle + (cost i).lat) f) := by
  subst hr
  have ha : (admitPe (grantCycle s p).2 p n.place (cost i)).1 = true := h.admitted
  simp [firePeFor, h.at_cursor, h.may, hw, hf, granted_goes h.grant, ha, State.admitted]
  rfl

theorem firePe_turn {g : GArgs} {i : Instr} {rule : View → Firing} {f : Firing} (h : NodeTurn s p k pl n (cost i))
    (hr : rule (nodeView s pl k n g) = f) (hw : f ≠ .wait) (hf : f.fits pl n = true) :
    firePe s g i rule = .next (issueFiring (s.admitted p n.place (cost i)) p k n false none (s.cycle + (cost i).lat) f) :=
  firePeFor_turn h hr hw hf

/-- A firing of one cycle whose turn it is takes place. -/
theorem fireOnce_turn {g : GArgs} {c : Cost} {times : View → Nat} {rule : View → Firing} {e : Effect}
    (h : NodeTurn s p k pl n c (times (nodeView s pl k n g))) (hr : rule (nodeView s pl k n g) = .fires e)
    (hf : pl.canEmit n e.emits = true) :
    fireOnce s g c times rule =
      .next (commitEffect (s.admitted p n.place c (times (nodeView s pl k n g))) p k n e) := by
  have ha : (admitTimes (grantCycle s p).2 p n.place c (times (nodeView s pl k n g))).1 = true := h.admitted
  simp [fireOnce, h.at_cursor, h.may, hr, Firing.fits, hf, ha, State.admitted]
  exact fun hw hl => absurd hw (by simp [h.grant hl, h.rested hl])

/-- One that faults has its fault detected. -/
theorem fireOnce_fault {g : GArgs} {c : Cost} {times : View → Nat} {rule : View → Firing} {ts : List Nat} {info : FaultInfo}
    (h : NodeTurn s p k pl n c (times (nodeView s pl k n g))) (hr : rule (nodeView s pl k n g) = .fault ts info) :
    fireOnce s g c times rule =
      .next ((s.admitted p n.place c (times (nodeView s pl k n g))).detectFault p (some (.node k)) info) := by
  have ha : (admitTimes (grantCycle s p).2 p n.place c (times (nodeView s pl k n g))).1 = true := h.admitted
  simp [fireOnce, h.at_cursor, h.may, hr, Firing.fits, ha, State.admitted]
  exact fun hw hl => absurd hw (by simp [h.grant hl, h.rested hl])

theorem MemStep.at_cursor {g : GArgs} {i : Instr} (h : MemStep s p k pl n g i) : cursorNode s = some (p, k, pl, n) :=
  cursorNode_of h.cursor h.plane h.node

/-- A memory firing whose turn it is, behind no firing that awaits its peer, has the outcome of its rule. -/
theorem fireMemAs_turn {g : GArgs} {i : Instr} {dep : Bool} {rule : Site → MemFiring} {f : MemFiring}
    (h : MemTurn s p k pl n g i) (hr : rule ⟨s, p, k, pl, n, nodeView s pl k n g⟩ = f) (hw : f ≠ .wait) :
    fireMemAs s g i dep rule = .next (commitMem (s.admittedMem p n i) p k pl n dep f) := by
  subst hr
  have ha : pl.ahead k n = n := by simp [Plane.ahead, h.first]
  have hb : (rule ⟨s, p, k, pl, n, nodeView s pl k n g⟩).behind pl k = false := by
    simp [MemFiring.behind, Plane.peerPending, h.first]
  simp [fireMemAs, h.toMemStep.at_cursor, h.may, h.walks, h.ready, ha, hb, hw, granted_goes h.grant, h.admitted, State.admittedMem]

theorem fireMem_turn {g : GArgs} {i : Instr} {rule : Site → MemFiring} {f : MemFiring}
    (h : MemTurn s p k pl n g i) (hr : rule ⟨s, p, k, pl, n, nodeView s pl k n g⟩ = f) (hw : f ≠ .wait) :
    fireMem s g i rule = .next (commitMem (s.admittedMem p n i) p k pl n false f) :=
  fireMemAs_turn h hr hw

/-- A task instruction whose turn it is has the outcome of its body: it has its effect, faults, or waits for its port. -/
theorem runTask_turn {x : TaskSite} {c : Cost} {body : TaskSite → TaskOut} {e : TaskEffect} (h : TaskTurn s x c)
    (hr : body x = .done e) : runTask s c body = .next ((s.admittedTask x c).commitTask x.p x.k x.a e) := by
  simp [runTask, h.cursor, h.ready, h.bound, hr, granted_goes h.grant, h.admitted, State.admittedTask]

theorem runTask_fault {x : TaskSite} {c : Cost} {body : TaskSite → TaskOut} {info : FaultInfo} (h : TaskTurn s x c)
    (hr : body x = .fault info) :
    runTask s c body = .next (((s.admittedTask x c).chargeTask x.p x.k false).detectFault x.p (some (.pe x.k)) info) := by
  simp [runTask, h.cursor, h.ready, h.bound, hr, granted_goes h.grant, h.admitted, State.admittedTask]

theorem runTask_wait {x : TaskSite} {c : Cost} {body : TaskSite → TaskOut} (h : TaskTurn s x c) (hr : body x = .wait) :
    runTask s c body = .next ((s.admittedTask x c).chargeTask x.p x.k true) := by
  simp [runTask, h.cursor, h.ready, h.bound, hr, granted_goes h.grant, h.admitted, State.admittedTask]

end Sys2Proof.Machine
end

