-- ==== Sys2Proof/Laws/Memory.lean ====
section
/-! SUPPORT. Laws of tables and of memory: an update is read back and leaves the rest alone, and every operation keeps the
canonical form. -/

namespace Sys2Proof.Machine

/-! ## Tables -/

section Tables
variable {α : Type}

@[simp] theorem mapGet_mapSet_same (m : Map α) (i : Nat) (x : α) : mapGet (mapSet m i x) i = some x := by
  induction m with
  | nil => simp [mapSet, mapGet]
  | cons kv rest ih =>
    obtain ⟨k, v⟩ := kv
    simp only [mapSet]
    split
    · simp [mapGet]
    · split
      · simp [mapGet]
      · rename_i h1 h2
        simp [mapGet, ih, Ne.symm h2]

@[simp] theorem mapGet_mapSet_other (m : Map α) {i j : Nat} (x : α) (h : j ≠ i) : mapGet (mapSet m i x) j = mapGet m j := by
  induction m with
  | nil => simp [mapSet, mapGet, Ne.symm h]
  | cons kv rest ih =>
    obtain ⟨k, v⟩ := kv
    simp only [mapSet]
    split
    · simp [mapGet, Ne.symm h]
    · split
      · rename_i h1 h2
        simp [mapGet, Ne.symm h, ← h2]
      · simp [mapGet, ih]

/-- What a table holds after an update is what it held, or the new entry. -/
theorem mem_mapSet {m : Map α} {i : Nat} {x : α} {kv : Nat × α} (h : kv ∈ mapSet m i x) : kv ∈ m ∨ kv = (i, x) := by
  induction m with
  | nil => simpa [mapSet] using h
  | cons y rest ih =>
    obtain ⟨k, v⟩ := y
    simp only [mapSet] at h
    split at h
    · rcases List.mem_cons.mp h with h | h
      · exact .inr h
      · exact .inl h
    · split at h
      · rcases List.mem_cons.mp h with h | h
        · exact .inr h
        · exact .inl (List.mem_cons_of_mem _ h)
      · rcases List.mem_cons.mp h with h | h
        · exact .inl (by simp [h])
        · exact (ih h).imp (List.mem_cons_of_mem _) id

/-- What a table reads at a key stands in it. -/
theorem mem_of_mapGet {m : Map α} {i : Nat} {x : α} (h : mapGet m i = some x) : (i, x) ∈ m := by
  induction m with
  | nil => simp [mapGet] at h
  | cons y rest ih =>
    obtain ⟨k, v⟩ := y
    simp only [mapGet] at h
    split at h
    · simp_all
    · exact List.mem_cons_of_mem _ (ih h)

@[simp] theorem modifyAt_length (l : List α) (n : Nat) (f : α → α) : (modifyAt l n f).length = l.length := by
  induction l generalizing n with
  | nil => simp [modifyAt]
  | cons x xs ih => cases n <;> simp [modifyAt, ih]

@[simp] theorem modifyAt_get_same (l : List α) (n : Nat) (f : α → α) : (modifyAt l n f)[n]? = (l[n]?).map f := by
  induction l generalizing n with
  | nil => simp [modifyAt]
  | cons x xs ih => cases n <;> simp [modifyAt, ih]

@[simp] theorem modifyAt_get_other (l : List α) {n k : Nat} (f : α → α) (h : k ≠ n) : (modifyAt l n f)[k]? = l[k]? := by
  induction l generalizing n k with
  | nil => simp [modifyAt]
  | cons x xs ih =>
    cases n with
    | zero => cases k with
      | zero => exact absurd rfl h
      | succ k => simp [modifyAt]
    | succ n => cases k with
      | zero => simp [modifyAt]
      | succ k => simpa [modifyAt] using ih (by omega)

/-- An element of a list with one changed is an old one, or a changed one. -/
theorem mem_modifyAt {l : List α} {n : Nat} {f : α → α} {y : α} (h : y ∈ modifyAt l n f) : y ∈ l ∨ ∃ x ∈ l, y = f x := by
  induction l generalizing n with
  | nil => simp [modifyAt] at h
  | cons x xs ih =>
    cases n with
    | zero =>
      rcases List.mem_cons.mp h with h | h
      · exact .inr ⟨x, by simp, h⟩
      · exact .inl (List.mem_cons_of_mem _ h)
    | succ n =>
      rcases List.mem_cons.mp h with h | h
      · exact .inl (by simp [h])
      · rcases ih h with h | ⟨z, hz, e⟩
        · exact .inl (List.mem_cons_of_mem _ h)
        · exact .inr ⟨z, List.mem_cons_of_mem _ hz, e⟩

end Tables

/-! ## Cells -/

@[simp] theorem cellGet_cellSet_same (l : List Host.Cell) (hl : l.Pairwise fun x y => x.1 < y.1) (x : Nat) (v : Byte) :
    cellGet (cellSet l x v) x = v := by
  have low : ∀ (l : List Host.Cell), (∀ c ∈ l, x < c.1) → cellGet l x = unlistedByte := by
    intro l h
    induction l with
    | nil => rfl
    | cons c rest ih =>
      have := h c (by simp)
      simp only [cellGet]
      split
      · omega
      · exact ih fun c hc => h c (List.mem_cons_of_mem _ hc)
  induction l with
  | nil => by_cases hv : v = unlistedByte <;> simp [cellSet, cellGet, hv]
  | cons c rest ih =>
    obtain ⟨a, b⟩ := c
    rw [List.pairwise_cons] at hl
    simp only [cellSet]
    split
    · rename_i h
      split
      · rename_i hv
        rw [hv]
        refine low _ fun c hc => ?_
        rcases List.mem_cons.mp hc with e | hc
        · rw [e]; exact h
        · exact Nat.lt_trans h (hl.1 c hc)
      · simp [cellGet]
    · split
      · rename_i h
        split
        · rename_i hv
          rw [hv]
          exact low _ fun c hc => h ▸ hl.1 c hc
        · simp [cellGet]
      · rename_i h1 h2
        simp [cellGet, Ne.symm h2, ih hl.2]

@[simp] theorem cellGet_cellSet_other (l : List Host.Cell) (hl : l.Pairwise fun x y => x.1 < y.1) {x y : Nat} (v : Byte) (h : y ≠ x) :
    cellGet (cellSet l x v) y = cellGet l y := by
  induction l with
  | nil => by_cases hv : v = unlistedByte <;> simp [cellSet, cellGet, hv, Ne.symm h]
  | cons c rest ih =>
    obtain ⟨a, b⟩ := c
    rw [List.pairwise_cons] at hl
    simp only [cellSet]
    split
    · split
      · rfl
      · simp [cellGet, Ne.symm h]
    · split
      · rename_i h1 h2
        have : a ≠ y := by omega
        split <;> simp [cellGet, this, Ne.symm h]
      · simp [cellGet, ih hl.2]

/-- Writing a byte leaves cells that were there, and at most the one written. -/
theorem mem_cellSet {l : List Host.Cell} {x : Nat} {v : Byte} {c : Host.Cell} (h : c ∈ cellSet l x v) :
    c ∈ l ∨ (c = (x, v) ∧ v ≠ unlistedByte) := by
  induction l with
  | nil =>
    simp only [cellSet] at h
    split at h
    · simp at h
    · exact .inr ⟨by simpa using h, ‹_›⟩
  | cons y rest ih =>
    obtain ⟨a, b⟩ := y
    simp only [cellSet] at h
    split at h
    · split at h
      · exact .inl h
      · rcases List.mem_cons.mp h with h | h
        · exact .inr ⟨h, ‹_›⟩
        · exact .inl h
    · split at h
      · split at h
        · exact .inl (List.mem_cons_of_mem _ h)
        · rcases List.mem_cons.mp h with h | h
          · exact .inr ⟨h, ‹_›⟩
          · exact .inl (List.mem_cons_of_mem _ h)
      · rcases List.mem_cons.mp h with h | h
        · exact .inl (by simp [h])
        · exact (ih h).imp (List.mem_cons_of_mem _) id

theorem cellSet_pairwise {l : List Host.Cell} (hl : l.Pairwise fun x y => x.1 < y.1) (x : Nat) (v : Byte) :
    (cellSet l x v).Pairwise fun x y => x.1 < y.1 := by
  induction l with
  | nil => simp only [cellSet]; split <;> simp
  | cons y rest ih =>
    obtain ⟨a, b⟩ := y
    have hl' := List.pairwise_cons.mp hl
    simp only [cellSet]
    split
    · rename_i h
      split
      · exact hl
      · refine List.pairwise_cons.mpr ⟨fun c hc => ?_, hl⟩
        rcases List.mem_cons.mp hc with e | hc
        · rw [e]; exact h
        · exact Nat.lt_trans h (hl'.1 c hc)
    · split
      · rename_i h1 h2
        split
        · exact hl'.2
        · exact List.pairwise_cons.mpr ⟨fun c hc => h2 ▸ hl'.1 c hc, hl'.2⟩
      · rename_i h1 h2
        refine List.pairwise_cons.mpr ⟨fun c hc => ?_, ih hl'.2⟩
        rcases mem_cellSet hc with hc | ⟨e, _⟩
        · exact hl'.1 c hc
        · rw [e]; show a < x; omega

theorem insertNat_pairwise {l : List Nat} (hl : l.Pairwise (· < ·)) (n : Nat) : (insertNat l n).Pairwise (· < ·) := by
  unfold insertNat
  refine List.pairwise_append.mpr ⟨hl.filter _, List.pairwise_cons.mpr ⟨fun y hy => ?_, hl.filter _⟩, fun a ha b hb => ?_⟩
  · simpa using (List.mem_filter.mp hy).2
  · have h1 : a < n := by simpa using (List.mem_filter.mp ha).2
    rcases List.mem_cons.mp hb with e | hb
    · omega
    · have h2 : n < b := by simpa using (List.mem_filter.mp hb).2
      omega

/-! ## Memory -/

theorem Memory.wf_empty : ({} : Memory).wf := ⟨List.Pairwise.nil, by simp, List.Pairwise.nil⟩

theorem Memory.wf_put {m : Memory} (h : m.wf) (x : Nat) (bs : List Byte) : (m.put x bs).wf := by
  induction bs generalizing m x with
  | nil => exact h
  | cons b rest ih =>
    refine ih (m := { m with cells := cellSet m.cells x b }) ⟨cellSet_pairwise h.1 x b, fun c hc => ?_, h.2.2⟩ (x + 1)
    rcases mem_cellSet hc with hc | ⟨e, hv⟩
    · exact h.2.1 c hc
    · rw [e]; exact hv

theorem Memory.wf_write {m : Memory} (h : m.wf) (x : Nat) (bs : List Byte) : (m.write x bs).wf :=
  let p := Memory.wf_put h x bs
  ⟨p.1, p.2.1, p.2.2.filter _⟩

theorem foldl_insertNat_pairwise (ws : List Nat) {l : List Nat} (hl : l.Pairwise (· < ·)) :
    (ws.foldl insertNat l).Pairwise (· < ·) := by
  induction ws generalizing l with
  | nil => exact hl
  | cons w rest ih => exact ih (insertNat_pairwise hl w)

theorem Memory.wf_writePoison {m : Memory} (h : m.wf) (x n : Nat) : (m.writePoison x n).wf :=
  ⟨h.1, h.2.1, foldl_insertNat_pairwise _ h.2.2⟩

theorem Memory.wf_writeWord {m : Memory} (h : m.wf) (x n : Nat) (v : Option W64) : (m.writeWord x n v).wf := by
  cases v with
  | none => exact Memory.wf_writePoison h x n
  | some v => exact Memory.wf_write h x _

/-- A fold of steps that each keep the canonical form keeps it. -/
theorem Memory.wf_foldl {β : Type} (f : Memory → β → Memory) (hf : ∀ m b, m.wf → (f m b).wf) (l : List β) {m : Memory}
    (h : m.wf) : (l.foldl f m).wf := by
  induction l generalizing m with
  | nil => exact h
  | cons b rest ih => exact ih (hf m b h)

theorem Memory.wf_copyFrom {m : Memory} (h : m.wf) (x : Nat) (src : Memory) (y n : Nat) : (m.copyFrom x src y n).wf :=
  Memory.wf_foldl _ (fun _ _ hm => Memory.wf_writePoison hm _ _) _ (Memory.wf_write h x _)

theorem Memory.wf_writeMasked {m : Memory} (h : m.wf) (loc n v mask : Nat) : (m.writeMasked loc n v mask).wf :=
  Memory.wf_foldl _ (fun _ _ hm => Memory.wf_writePoison hm _ _) _ (Memory.wf_write h loc _)

/-- Bytes outside a put read as before. -/
theorem Memory.byte_put_outside {m : Memory} (h : m.wf) (x : Nat) (bs : List Byte) {y : Nat} (hy : y < x ∨ x + bs.length ≤ y) :
    (m.put x bs).byte y = m.byte y := by
  induction bs generalizing m x with
  | nil => rfl
  | cons b rest ih =>
    have hy' : y < x + 1 ∨ x + 1 + rest.length ≤ y := by simp at hy; omega
    have hne : y ≠ x := by simp at hy; omega
    have hw : ({ m with cells := cellSet m.cells x b } : Memory).wf := Memory.wf_put (bs := [b]) h x
    rw [Memory.put, ih hw (x + 1) hy']
    exact cellGet_cellSet_other m.cells h.1 b hne

/-- A byte inside a put reads as the byte put there. -/
theorem Memory.byte_put_inside {m : Memory} (h : m.wf) (x : Nat) (bs : List Byte) {i : Nat} {b : Byte} (hb : bs[i]? = some b) :
    (m.put x bs).byte (x + i) = b := by
  induction bs generalizing m x i with
  | nil => simp at hb
  | cons c rest ih =>
    have hw : ({ m with cells := cellSet m.cells x c } : Memory).wf := Memory.wf_put (bs := [c]) h x
    cases i with
    | zero =>
      simp at hb
      rw [Memory.put, Memory.byte_put_outside hw (x + 1) rest (by omega)]
      simpa [Memory.byte, hb] using cellGet_cellSet_same m.cells h.1 x c
    | succ i =>
      have := ih hw (x + 1) (i := i) (by simpa using hb)
      rw [Memory.put, show x + (i + 1) = x + 1 + i by omega]
      exact this

@[simp] theorem Memory.byte_write_outside {m : Memory} (h : m.wf) (x : Nat) (bs : List Byte) {y : Nat}
    (hy : y < x ∨ x + bs.length ≤ y) : (m.write x bs).byte y = m.byte y := Memory.byte_put_outside h x bs hy

theorem Memory.byte_write_inside {m : Memory} (h : m.wf) (x : Nat) (bs : List Byte) {i : Nat} {b : Byte} (hb : bs[i]? = some b) :
    (m.write x bs).byte (x + i) = b := Memory.byte_put_inside h x bs hb

@[simp] theorem Memory.byte_writePoison (m : Memory) (x n y : Nat) : (m.writePoison x n).byte y = m.byte y := rfl

end Sys2Proof.Machine
end

