-- ==== Sys2Proof/Laws/PerInstr.lean ====
section
/-! SUPPORT. Per instruction: a graph instruction has 8 bytes and no task word, a task instruction 4 bytes and no graph
fields, and a device step has no bytes (R62). -/

namespace Sys2Proof.Laws.Encodes

/-- The form of the instruction in memory, by its class. -/
def Statement (i : Instr) : Prop :=
  (i.gargs.isSome = true ∧ encodeTask i = none ∧ (encode i).length = 8) ∨
  (i.gargs = none ∧ (encodeTask i).isSome = true ∧ (encode i).length = 4) ∨
  (i.gargs = none ∧ encodeTask i = none ∧ encode i = [])

theorem wordBytes_length (k : Nat) : ∀ n : Nat, (wordBytes k n).length = k := by
  induction k with
  | zero => intro n; rfl
  | succ k ih => intro n; simp [wordBytes, ih]

/-- A graph instruction's word has 8 bytes. -/
theorem of_graph {i : Instr} {g : GArgs} {op : BitVec 8} (hg : i.gargs = some g) (ho : i.graphOpcode = some op)
    (ht : encodeTask i = none) : Statement i := by
  refine Or.inl ⟨by simp [hg], ht, ?_⟩
  simp [encode, encodeGraph, hg, ho, wordBytes_length]

/-- A task instruction's word has 4 bytes. -/
theorem of_task {i : Instr} {w : W32} (hg : i.gargs = none) (ho : i.graphOpcode = none) (ht : encodeTask i = some w) :
    Statement i := by
  refine Or.inr (Or.inl ⟨hg, by simp [ht], ?_⟩)
  simp [encode, encodeGraph, hg, ht, ho, wordBytes_length]

/-- A device step has no bytes. -/
theorem of_step {i : Instr} (hg : i.gargs = none) (ho : i.graphOpcode = none) (ht : encodeTask i = none) : Statement i :=
  Or.inr (Or.inr ⟨hg, ht, by simp [encode, encodeGraph, hg, ht, ho]⟩)

theorem powerOn : Statement .powerOn := of_step rfl rfl rfl
theorem hostLinkUp : Statement .hostLinkUp := of_step rfl rfl rfl
theorem spdmRequest : Statement .spdmRequest := of_step rfl rfl rfl
theorem launchV2 : Statement .launchV2 := of_step rfl rfl rfl
theorem launchV1 : Statement .launchV1 := of_step rfl rfl rfl
theorem registerWrite : Statement .registerWrite := of_step rfl rfl rfl
theorem tackFlush : Statement .tackFlush := of_step rfl rfl rfl
theorem tlbInvStart : Statement .tlbInvStart := of_step rfl rfl rfl
theorem tlbInvDone : Statement .tlbInvDone := of_step rfl rfl rfl
theorem fwActivate : Statement .fwActivate := of_step rfl rfl rfl
theorem fwRecovery : Statement .fwRecovery := of_step rfl rfl rfl
theorem fwActivation : Statement .fwActivation := of_step rfl rfl rfl
theorem ctxMakeLive : Statement .ctxMakeLive := of_step rfl rfl rfl
theorem ctxMakeOff : Statement .ctxMakeOff := of_step rfl rfl rfl
theorem ctxClearFailed : Statement .ctxClearFailed := of_step rfl rfl rfl
theorem fpflagsClear : Statement .fpflagsClear := of_step rfl rfl rfl
theorem binctlWrite : Statement .binctlWrite := of_step rfl rfl rfl
theorem saveareaWrite : Statement .saveareaWrite := of_step rfl rfl rfl
theorem actBudgetWrite : Statement .actBudgetWrite := of_step rfl rfl rfl
theorem dieTimeOffsetWrite : Statement .dieTimeOffsetWrite := of_step rfl rfl rfl
theorem dieTimeRateWrite : Statement .dieTimeRateWrite := of_step rfl rfl rfl
theorem scanDataRead : Statement .scanDataRead := of_step rfl rfl rfl
theorem bufferedLaunchEnter : Statement .bufferedLaunchEnter := of_step rfl rfl rfl
theorem taskAgeing : Statement .taskAgeing := of_step rfl rfl rfl
theorem bindTask : Statement .bindTask := of_step rfl rfl rfl
theorem translateLoad : Statement .translateLoad := of_step rfl rfl rfl
theorem configComplete : Statement .configComplete := of_step rfl rfl rfl
theorem frameBoundary : Statement .frameBoundary := of_step rfl rfl rfl
theorem planeLevelAgeing : Statement .planeLevelAgeing := of_step rfl rfl rfl
theorem peUrgent : Statement .peUrgent := of_step rfl rfl rfl
theorem firingComplete : Statement .firingComplete := of_step rfl rfl rfl
theorem activationStart : Statement .activationStart := of_step rfl rfl rfl
theorem homePerform : Statement .homePerform := of_step rfl rfl rfl
theorem memoryReply : Statement .memoryReply := of_step rfl rfl rfl
theorem roundMarkerArrival : Statement .roundMarkerArrival := of_step rfl rfl rfl
theorem tableWalk : Statement .tableWalk := of_step rfl rfl rfl
theorem requestSlotFree : Statement .requestSlotFree := of_step rfl rfl rfl
theorem copyRun : Statement .copyRun := of_step rfl rfl rfl
theorem copyTimeout : Statement .copyTimeout := of_step rfl rfl rfl
theorem slotReturn : Statement .slotReturn := of_step rfl rfl rfl
theorem mfeTensorStart : Statement .mfeTensorStart := of_step rfl rfl rfl
theorem mfeBoundary : Statement .mfeBoundary := of_step rfl rfl rfl
theorem planeFreeze : Statement .planeFreeze := of_step rfl rfl rfl
theorem trapRecordWrite : Statement .trapRecordWrite := of_step rfl rfl rfl
theorem watchdogExpiry : Statement .watchdogExpiry := of_step rfl rfl rfl
theorem memoryTimeout : Statement .memoryTimeout := of_step rfl rfl rfl
theorem planeFree : Statement .planeFree := of_step rfl rfl rfl
theorem abandonedPlaneFree : Statement .abandonedPlaneFree := of_step rfl rfl rfl
theorem contextTeardownDone : Statement .contextTeardownDone := of_step rfl rfl rfl
theorem saveStart : Statement .saveStart := of_step rfl rfl rfl
theorem saveCommit : Statement .saveCommit := of_step rfl rfl rfl
theorem planeWordEccError : Statement .planeWordEccError := of_step rfl rfl rfl
theorem scrubCheck : Statement .scrubCheck := of_step rfl rfl rfl
theorem planeReloadDone : Statement .planeReloadDone := of_step rfl rfl rfl
theorem stateEccError : Statement .stateEccError := of_step rfl rfl rfl
theorem sramEccError : Statement .sramEccError := of_step rfl rfl rfl
theorem edgeTurnPoint : Statement .edgeTurnPoint := of_step rfl rfl rfl
theorem turnComplete : Statement .turnComplete := of_step rfl rfl rfl
theorem flitheDataFrame : Statement .flitheDataFrame := of_step rfl rfl rfl
theorem flitheAckFrame : Statement .flitheAckFrame := of_step rfl rfl rfl
theorem flitheResetFrame : Statement .flitheResetFrame := of_step rfl rfl rfl
theorem flitheResendTimeout : Statement .flitheResendTimeout := of_step rfl rfl rfl
theorem flitheAckTimer : Statement .flitheAckTimer := of_step rfl rfl rfl
theorem flitheLinkUp : Statement .flitheLinkUp := of_step rfl rfl rfl
theorem flitheResetRepeat : Statement .flitheResetRepeat := of_step rfl rfl rfl
theorem hostSnoop : Statement .hostSnoop := of_step rfl rfl rfl
theorem hostMemoryAccess : Statement .hostMemoryAccess := of_step rfl rfl rfl
theorem clockStepDown : Statement .clockStepDown := of_step rfl rfl rfl
theorem clockStepUp : Statement .clockStepUp := of_step rfl rfl rfl
theorem thermalShutdown : Statement .thermalShutdown := of_step rfl rfl rfl
theorem systemCacheCopyUpdate : Statement .systemCacheCopyUpdate := of_step rfl rfl rfl
theorem add (g : GArgs) : Statement (.add g) := of_graph rfl rfl rfl
theorem sub (g : GArgs) : Statement (.sub g) := of_graph rfl rfl rfl
theorem mul (g : GArgs) : Statement (.mul g) := of_graph rfl rfl rfl
theorem mulhi (g : GArgs) : Statement (.mulhi g) := of_graph rfl rfl rfl
theorem mad (g : GArgs) : Statement (.mad g) := of_graph rfl rfl rfl
theorem div (g : GArgs) : Statement (.div g) := of_graph rfl rfl rfl
theorem rem (g : GArgs) : Statement (.rem g) := of_graph rfl rfl rfl
theorem neg (g : GArgs) : Statement (.neg g) := of_graph rfl rfl rfl
theorem abs (g : GArgs) : Statement (.abs g) := of_graph rfl rfl rfl
theorem min (g : GArgs) : Statement (.min g) := of_graph rfl rfl rfl
theorem max (g : GArgs) : Statement (.max g) := of_graph rfl rfl rfl
theorem addsat (g : GArgs) : Statement (.addsat g) := of_graph rfl rfl rfl
theorem subsat (g : GArgs) : Statement (.subsat g) := of_graph rfl rfl rfl
theorem and (g : GArgs) : Statement (.and g) := of_graph rfl rfl rfl
theorem or (g : GArgs) : Statement (.or g) := of_graph rfl rfl rfl
theorem xor (g : GArgs) : Statement (.xor g) := of_graph rfl rfl rfl
theorem andn (g : GArgs) : Statement (.andn g) := of_graph rfl rfl rfl
theorem not (g : GArgs) : Statement (.not g) := of_graph rfl rfl rfl
theorem shl (g : GArgs) : Statement (.shl g) := of_graph rfl rfl rfl
theorem shr (g : GArgs) : Statement (.shr g) := of_graph rfl rfl rfl
theorem sar (g : GArgs) : Statement (.sar g) := of_graph rfl rfl rfl
theorem rol (g : GArgs) : Statement (.rol g) := of_graph rfl rfl rfl
theorem clz (g : GArgs) : Statement (.clz g) := of_graph rfl rfl rfl
theorem ctz (g : GArgs) : Statement (.ctz g) := of_graph rfl rfl rfl
theorem popc (g : GArgs) : Statement (.popc g) := of_graph rfl rfl rfl
theorem brev (g : GArgs) : Statement (.brev g) := of_graph rfl rfl rfl
theorem bfx (g : GArgs) : Statement (.bfx g) := of_graph rfl rfl rfl
theorem bfi (g : GArgs) : Statement (.bfi g) := of_graph rfl rfl rfl
theorem cmp (g : GArgs) : Statement (.cmp g) := of_graph rfl rfl rfl
theorem sel (g : GArgs) : Statement (.sel g) := of_graph rfl rfl rfl
theorem fadd (g : GArgs) : Statement (.fadd g) := of_graph rfl rfl rfl
theorem fsub (g : GArgs) : Statement (.fsub g) := of_graph rfl rfl rfl
theorem fmul (g : GArgs) : Statement (.fmul g) := of_graph rfl rfl rfl
theorem fma (g : GArgs) : Statement (.fma g) := of_graph rfl rfl rfl
theorem fms (g : GArgs) : Statement (.fms g) := of_graph rfl rfl rfl
theorem fnma (g : GArgs) : Statement (.fnma g) := of_graph rfl rfl rfl
theorem fmin (g : GArgs) : Statement (.fmin g) := of_graph rfl rfl rfl
theorem fmax (g : GArgs) : Statement (.fmax g) := of_graph rfl rfl rfl
theorem fminm (g : GArgs) : Statement (.fminm g) := of_graph rfl rfl rfl
theorem fmaxm (g : GArgs) : Statement (.fmaxm g) := of_graph rfl rfl rfl
theorem fabs (g : GArgs) : Statement (.fabs g) := of_graph rfl rfl rfl
theorem fneg (g : GArgs) : Statement (.fneg g) := of_graph rfl rfl rfl
theorem fcpys (g : GArgs) : Statement (.fcpys g) := of_graph rfl rfl rfl
theorem fcmp (g : GArgs) : Statement (.fcmp g) := of_graph rfl rfl rfl
theorem fclass (g : GArgs) : Statement (.fclass g) := of_graph rfl rfl rfl
theorem frnd (g : GArgs) : Statement (.frnd g) := of_graph rfl rfl rfl
theorem fscale (g : GArgs) : Statement (.fscale g) := of_graph rfl rfl rfl
theorem rcp (g : GArgs) : Statement (.rcp g) := of_graph rfl rfl rfl
theorem rsq (g : GArgs) : Statement (.rsq g) := of_graph rfl rfl rfl
theorem sqrt (g : GArgs) : Statement (.sqrt g) := of_graph rfl rfl rfl
theorem fdiv (g : GArgs) : Statement (.fdiv g) := of_graph rfl rfl rfl
theorem exp2 (g : GArgs) : Statement (.exp2 g) := of_graph rfl rfl rfl
theorem log2 (g : GArgs) : Statement (.log2 g) := of_graph rfl rfl rfl
theorem sinpi (g : GArgs) : Statement (.sinpi g) := of_graph rfl rfl rfl
theorem cospi (g : GArgs) : Statement (.cospi g) := of_graph rfl rfl rfl
theorem tanh (g : GArgs) : Statement (.tanh g) := of_graph rfl rfl rfl
theorem sigm (g : GArgs) : Statement (.sigm g) := of_graph rfl rfl rfl
theorem cvt (g : GArgs) : Statement (.cvt g) := of_graph rfl rfl rfl
theorem pack (g : GArgs) : Statement (.pack g) := of_graph rfl rfl rfl
theorem unpk (g : GArgs) : Statement (.unpk g) := of_graph rfl rfl rfl
theorem mov (g : GArgs) : Statement (.mov g) := of_graph rfl rfl rfl
theorem const (g : GArgs) : Statement (.const g) := of_graph rfl rfl rfl
theorem consth (g : GArgs) : Statement (.consth g) := of_graph rfl rfl rfl
theorem sxt (g : GArgs) : Statement (.sxt g) := of_graph rfl rfl rfl
theorem fmin1 (g : GArgs) : Statement (.fmin1 g) := of_graph rfl rfl rfl
theorem ldv (g : GArgs) : Statement (.ldv g) := of_graph rfl rfl rfl
theorem waitc (g : GArgs) : Statement (.waitc g) := of_graph rfl rfl rfl
theorem steer (g : GArgs) : Statement (.steer g) := of_graph rfl rfl rfl
theorem merge (g : GArgs) : Statement (.merge g) := of_graph rfl rfl rfl
theorem carry (g : GArgs) : Statement (.carry g) := of_graph rfl rfl rfl
theorem invar (g : GArgs) : Statement (.invar g) := of_graph rfl rfl rfl
theorem fork (g : GArgs) : Statement (.fork g) := of_graph rfl rfl rfl
theorem sink (g : GArgs) : Statement (.sink g) := of_graph rfl rfl rfl
theorem gate (g : GArgs) : Statement (.gate g) := of_graph rfl rfl rfl
theorem count (g : GArgs) : Statement (.count g) := of_graph rfl rfl rfl
theorem mark (g : GArgs) : Statement (.mark g) := of_graph rfl rfl rfl
theorem mstrip (g : GArgs) : Statement (.mstrip g) := of_graph rfl rfl rfl
theorem mlift (g : GArgs) : Statement (.mlift g) := of_graph rfl rfl rfl
theorem mtest (g : GArgs) : Statement (.mtest g) := of_graph rfl rfl rfl
theorem zip (g : GArgs) : Statement (.zip g) := of_graph rfl rfl rfl
theorem ord (g : GArgs) : Statement (.ord g) := of_graph rfl rfl rfl
theorem join (g : GArgs) : Statement (.join g) := of_graph rfl rfl rfl
theorem bar (g : GArgs) : Statement (.bar g) := of_graph rfl rfl rfl
theorem drain (g : GArgs) : Statement (.drain g) := of_graph rfl rfl rfl
theorem call (g : GArgs) : Statement (.call g) := of_graph rfl rfl rfl
theorem entry (g : GArgs) : Statement (.entry g) := of_graph rfl rfl rfl
theorem exit (g : GArgs) : Statement (.exit g) := of_graph rfl rfl rfl
theorem pat (g : GArgs) : Statement (.pat g) := of_graph rfl rfl rfl
theorem red (g : GArgs) : Statement (.red g) := of_graph rfl rfl rfl
theorem redx (g : GArgs) : Statement (.redx g) := of_graph rfl rfl rfl
theorem scan (g : GArgs) : Statement (.scan g) := of_graph rfl rfl rfl
theorem filt (g : GArgs) : Statement (.filt g) := of_graph rfl rfl rfl
theorem cmpct (g : GArgs) : Statement (.cmpct g) := of_graph rfl rfl rfl
theorem mxcfg (g : GArgs) : Statement (.mxcfg g) := of_graph rfl rfl rfl
theorem mxcfgTile (g : GArgs) : Statement (.mxcfgTile g) := of_graph rfl rfl rfl
theorem mxa (g : GArgs) : Statement (.mxa g) := of_graph rfl rfl rfl
theorem mxb (g : GArgs) : Statement (.mxb g) := of_graph rfl rfl rfl
theorem mxsc (g : GArgs) : Statement (.mxsc g) := of_graph rfl rfl rfl
theorem mxop (g : GArgs) : Statement (.mxop g) := of_graph rfl rfl rfl
theorem accrd (g : GArgs) : Statement (.accrd g) := of_graph rfl rfl rfl
theorem accclr (g : GArgs) : Statement (.accclr g) := of_graph rfl rfl rfl
theorem accld (g : GArgs) : Statement (.accld g) := of_graph rfl rfl rfl
theorem mxtile (g : GArgs) : Statement (.mxtile g) := of_graph rfl rfl rfl
theorem ld (g : GArgs) : Statement (.ld g) := of_graph rfl rfl rfl
theorem st (g : GArgs) : Statement (.st g) := of_graph rfl rfl rfl
theorem ldfe (g : GArgs) : Statement (.ldfe g) := of_graph rfl rfl rfl
theorem stfe (g : GArgs) : Statement (.stfe g) := of_graph rfl rfl rfl
theorem feclr (g : GArgs) : Statement (.feclr g) := of_graph rfl rfl rfl
theorem feset (g : GArgs) : Statement (.feset g) := of_graph rfl rfl rfl
theorem fetest (g : GArgs) : Statement (.fetest g) := of_graph rfl rfl rfl
theorem tscfg (g : GArgs) : Statement (.tscfg g) := of_graph rfl rfl rfl
theorem agen (g : GArgs) : Statement (.agen g) := of_graph rfl rfl rfl
theorem scat (g : GArgs) : Statement (.scat g) := of_graph rfl rfl rfl
theorem lbwin (g : GArgs) : Statement (.lbwin g) := of_graph rfl rfl rfl
theorem aadd (g : GArgs) : Statement (.aadd g) := of_graph rfl rfl rfl
theorem amin (g : GArgs) : Statement (.amin g) := of_graph rfl rfl rfl
theorem amax (g : GArgs) : Statement (.amax g) := of_graph rfl rfl rfl
theorem aand (g : GArgs) : Statement (.aand g) := of_graph rfl rfl rfl
theorem aor (g : GArgs) : Statement (.aor g) := of_graph rfl rfl rfl
theorem axor (g : GArgs) : Statement (.axor g) := of_graph rfl rfl rfl
theorem axchg (g : GArgs) : Statement (.axchg g) := of_graph rfl rfl rfl
theorem acas (g : GArgs) : Statement (.acas g) := of_graph rfl rfl rfl
theorem aincb (g : GArgs) : Statement (.aincb g) := of_graph rfl rfl rfl
theorem afadd (g : GArgs) : Statement (.afadd g) := of_graph rfl rfl rfl
theorem aminp (g : GArgs) : Statement (.aminp g) := of_graph rfl rfl rfl
theorem ard (g : GArgs) : Statement (.ard g) := of_graph rfl rfl rfl
theorem sld (g : GArgs) : Statement (.sld g) := of_graph rfl rfl rfl
theorem sst (g : GArgs) : Statement (.sst g) := of_graph rfl rfl rfl
theorem gath (g : GArgs) : Statement (.gath g) := of_graph rfl rfl rfl
theorem scatx (g : GArgs) : Statement (.scatx g) := of_graph rfl rfl rfl
theorem binadd (g : GArgs) : Statement (.binadd g) := of_graph rfl rfl rfl
theorem binrun (g : GArgs) : Statement (.binrun g) := of_graph rfl rfl rfl
theorem rangeInit (g : GArgs) : Statement (.rangeInit g) := of_graph rfl rfl rfl
theorem rangePull (g : GArgs) : Statement (.rangePull g) := of_graph rfl rfl rfl
theorem pref (g : GArgs) : Statement (.pref g) := of_graph rfl rfl rfl
theorem spld (g : GArgs) : Statement (.spld g) := of_graph rfl rfl rfl
theorem cpy (g : GArgs) : Statement (.cpy g) := of_graph rfl rfl rfl
theorem cpym (g : GArgs) : Statement (.cpym g) := of_graph rfl rfl rfl
theorem kturn (g : GArgs) : Statement (.kturn g) := of_graph rfl rfl rfl
theorem lstat (g : GArgs) : Statement (.lstat g) := of_graph rfl rfl rfl
theorem fence (g : GArgs) : Statement (.fence g) := of_graph rfl rfl rfl
theorem spawn (g : GArgs) : Statement (.spawn g) := of_graph rfl rfl rfl
theorem done (g : GArgs) : Statement (.done g) := of_graph rfl rfl rfl
theorem twait (g : GArgs) : Statement (.twait g) := of_graph rfl rfl rfl
theorem trap (g : GArgs) : Statement (.trap g) := of_graph rfl rfl rfl
theorem traprd (g : GArgs) : Statement (.traprd g) := of_graph rfl rfl rfl
theorem trapack (g : GArgs) : Statement (.trapack g) := of_graph rfl rfl rfl
theorem sysrd (g : GArgs) : Statement (.sysrd g) := of_graph rfl rfl rfl
theorem syswr (g : GArgs) : Statement (.syswr g) := of_graph rfl rfl rfl
theorem rdtime (g : GArgs) : Statement (.rdtime g) := of_graph rfl rfl rfl
theorem tconv (g : GArgs) : Statement (.tconv g) := of_graph rfl rfl rfl
theorem budrd (g : GArgs) : Statement (.budrd g) := of_graph rfl rfl rfl
theorem taskAddReg (d : BitVec 4) (a : BitVec 4) (b : BitVec 4) (n : BitVec 1) : Statement (.taskAddReg d a b n) := of_task rfl rfl rfl
theorem taskAddImm (d : BitVec 4) (a : BitVec 4) (n : BitVec 1) (i : BitVec 12) : Statement (.taskAddImm d a n i) := of_task rfl rfl rfl
theorem taskSubReg (d : BitVec 4) (a : BitVec 4) (b : BitVec 4) (n : BitVec 1) : Statement (.taskSubReg d a b n) := of_task rfl rfl rfl
theorem taskSubImm (d : BitVec 4) (a : BitVec 4) (n : BitVec 1) (i : BitVec 12) : Statement (.taskSubImm d a n i) := of_task rfl rfl rfl
theorem taskMulReg (d : BitVec 4) (a : BitVec 4) (b : BitVec 4) (n : BitVec 1) : Statement (.taskMulReg d a b n) := of_task rfl rfl rfl
theorem taskMulImm (d : BitVec 4) (a : BitVec 4) (n : BitVec 1) (i : BitVec 12) : Statement (.taskMulImm d a n i) := of_task rfl rfl rfl
theorem taskMulhiReg (d : BitVec 4) (a : BitVec 4) (b : BitVec 4) (n : BitVec 1) : Statement (.taskMulhiReg d a b n) := of_task rfl rfl rfl
theorem taskMulhiImm (d : BitVec 4) (a : BitVec 4) (n : BitVec 1) (i : BitVec 12) : Statement (.taskMulhiImm d a n i) := of_task rfl rfl rfl
theorem taskMadReg (d : BitVec 4) (a : BitVec 4) (b : BitVec 4) (n : BitVec 1) : Statement (.taskMadReg d a b n) := of_task rfl rfl rfl
theorem taskMadImm (d : BitVec 4) (a : BitVec 4) (n : BitVec 1) (i : BitVec 12) : Statement (.taskMadImm d a n i) := of_task rfl rfl rfl
theorem taskDivReg (d : BitVec 4) (a : BitVec 4) (b : BitVec 4) (n : BitVec 1) : Statement (.taskDivReg d a b n) := of_task rfl rfl rfl
theorem taskDivImm (d : BitVec 4) (a : BitVec 4) (n : BitVec 1) (i : BitVec 12) : Statement (.taskDivImm d a n i) := of_task rfl rfl rfl
theorem taskRemReg (d : BitVec 4) (a : BitVec 4) (b : BitVec 4) (n : BitVec 1) : Statement (.taskRemReg d a b n) := of_task rfl rfl rfl
theorem taskRemImm (d : BitVec 4) (a : BitVec 4) (n : BitVec 1) (i : BitVec 12) : Statement (.taskRemImm d a n i) := of_task rfl rfl rfl
theorem taskNegReg (d : BitVec 4) (a : BitVec 4) (b : BitVec 4) (n : BitVec 1) : Statement (.taskNegReg d a b n) := of_task rfl rfl rfl
theorem taskNegImm (d : BitVec 4) (a : BitVec 4) (n : BitVec 1) (i : BitVec 12) : Statement (.taskNegImm d a n i) := of_task rfl rfl rfl
theorem taskAbsReg (d : BitVec 4) (a : BitVec 4) (b : BitVec 4) (n : BitVec 1) : Statement (.taskAbsReg d a b n) := of_task rfl rfl rfl
theorem taskAbsImm (d : BitVec 4) (a : BitVec 4) (n : BitVec 1) (i : BitVec 12) : Statement (.taskAbsImm d a n i) := of_task rfl rfl rfl
theorem taskMinReg (d : BitVec 4) (a : BitVec 4) (b : BitVec 4) (n : BitVec 1) : Statement (.taskMinReg d a b n) := of_task rfl rfl rfl
theorem taskMinImm (d : BitVec 4) (a : BitVec 4) (n : BitVec 1) (i : BitVec 12) : Statement (.taskMinImm d a n i) := of_task rfl rfl rfl
theorem taskMaxReg (d : BitVec 4) (a : BitVec 4) (b : BitVec 4) (n : BitVec 1) : Statement (.taskMaxReg d a b n) := of_task rfl rfl rfl
theorem taskMaxImm (d : BitVec 4) (a : BitVec 4) (n : BitVec 1) (i : BitVec 12) : Statement (.taskMaxImm d a n i) := of_task rfl rfl rfl
theorem taskAddsatReg (d : BitVec 4) (a : BitVec 4) (b : BitVec 4) (n : BitVec 1) : Statement (.taskAddsatReg d a b n) := of_task rfl rfl rfl
theorem taskAddsatImm (d : BitVec 4) (a : BitVec 4) (n : BitVec 1) (i : BitVec 12) : Statement (.taskAddsatImm d a n i) := of_task rfl rfl rfl
theorem taskSubsatReg (d : BitVec 4) (a : BitVec 4) (b : BitVec 4) (n : BitVec 1) : Statement (.taskSubsatReg d a b n) := of_task rfl rfl rfl
theorem taskSubsatImm (d : BitVec 4) (a : BitVec 4) (n : BitVec 1) (i : BitVec 12) : Statement (.taskSubsatImm d a n i) := of_task rfl rfl rfl
theorem taskAndReg (d : BitVec 4) (a : BitVec 4) (b : BitVec 4) (n : BitVec 1) : Statement (.taskAndReg d a b n) := of_task rfl rfl rfl
theorem taskAndImm (d : BitVec 4) (a : BitVec 4) (n : BitVec 1) (i : BitVec 12) : Statement (.taskAndImm d a n i) := of_task rfl rfl rfl
theorem taskOrReg (d : BitVec 4) (a : BitVec 4) (b : BitVec 4) (n : BitVec 1) : Statement (.taskOrReg d a b n) := of_task rfl rfl rfl
theorem taskOrImm (d : BitVec 4) (a : BitVec 4) (n : BitVec 1) (i : BitVec 12) : Statement (.taskOrImm d a n i) := of_task rfl rfl rfl
theorem taskXorReg (d : BitVec 4) (a : BitVec 4) (b : BitVec 4) (n : BitVec 1) : Statement (.taskXorReg d a b n) := of_task rfl rfl rfl
theorem taskXorImm (d : BitVec 4) (a : BitVec 4) (n : BitVec 1) (i : BitVec 12) : Statement (.taskXorImm d a n i) := of_task rfl rfl rfl
theorem taskAndnReg (d : BitVec 4) (a : BitVec 4) (b : BitVec 4) (n : BitVec 1) : Statement (.taskAndnReg d a b n) := of_task rfl rfl rfl
theorem taskAndnImm (d : BitVec 4) (a : BitVec 4) (n : BitVec 1) (i : BitVec 12) : Statement (.taskAndnImm d a n i) := of_task rfl rfl rfl
theorem taskNotReg (d : BitVec 4) (a : BitVec 4) (b : BitVec 4) (n : BitVec 1) : Statement (.taskNotReg d a b n) := of_task rfl rfl rfl
theorem taskNotImm (d : BitVec 4) (a : BitVec 4) (n : BitVec 1) (i : BitVec 12) : Statement (.taskNotImm d a n i) := of_task rfl rfl rfl
theorem taskShlReg (d : BitVec 4) (a : BitVec 4) (b : BitVec 4) (n : BitVec 1) : Statement (.taskShlReg d a b n) := of_task rfl rfl rfl
theorem taskShlImm (d : BitVec 4) (a : BitVec 4) (n : BitVec 1) (i : BitVec 12) : Statement (.taskShlImm d a n i) := of_task rfl rfl rfl
theorem taskShrReg (d : BitVec 4) (a : BitVec 4) (b : BitVec 4) (n : BitVec 1) : Statement (.taskShrReg d a b n) := of_task rfl rfl rfl
theorem taskShrImm (d : BitVec 4) (a : BitVec 4) (n : BitVec 1) (i : BitVec 12) : Statement (.taskShrImm d a n i) := of_task rfl rfl rfl
theorem taskSarReg (d : BitVec 4) (a : BitVec 4) (b : BitVec 4) (n : BitVec 1) : Statement (.taskSarReg d a b n) := of_task rfl rfl rfl
theorem taskSarImm (d : BitVec 4) (a : BitVec 4) (n : BitVec 1) (i : BitVec 12) : Statement (.taskSarImm d a n i) := of_task rfl rfl rfl
theorem taskRolReg (d : BitVec 4) (a : BitVec 4) (b : BitVec 4) (n : BitVec 1) : Statement (.taskRolReg d a b n) := of_task rfl rfl rfl
theorem taskRolImm (d : BitVec 4) (a : BitVec 4) (n : BitVec 1) (i : BitVec 12) : Statement (.taskRolImm d a n i) := of_task rfl rfl rfl
theorem taskClzReg (d : BitVec 4) (a : BitVec 4) (b : BitVec 4) (n : BitVec 1) : Statement (.taskClzReg d a b n) := of_task rfl rfl rfl
theorem taskClzImm (d : BitVec 4) (a : BitVec 4) (n : BitVec 1) (i : BitVec 12) : Statement (.taskClzImm d a n i) := of_task rfl rfl rfl
theorem taskCtzReg (d : BitVec 4) (a : BitVec 4) (b : BitVec 4) (n : BitVec 1) : Statement (.taskCtzReg d a b n) := of_task rfl rfl rfl
theorem taskCtzImm (d : BitVec 4) (a : BitVec 4) (n : BitVec 1) (i : BitVec 12) : Statement (.taskCtzImm d a n i) := of_task rfl rfl rfl
theorem taskPopcReg (d : BitVec 4) (a : BitVec 4) (b : BitVec 4) (n : BitVec 1) : Statement (.taskPopcReg d a b n) := of_task rfl rfl rfl
theorem taskPopcImm (d : BitVec 4) (a : BitVec 4) (n : BitVec 1) (i : BitVec 12) : Statement (.taskPopcImm d a n i) := of_task rfl rfl rfl
theorem taskBrevReg (d : BitVec 4) (a : BitVec 4) (b : BitVec 4) (n : BitVec 1) : Statement (.taskBrevReg d a b n) := of_task rfl rfl rfl
theorem taskBrevImm (d : BitVec 4) (a : BitVec 4) (n : BitVec 1) (i : BitVec 12) : Statement (.taskBrevImm d a n i) := of_task rfl rfl rfl
theorem taskBfxReg (d : BitVec 4) (a : BitVec 4) (b : BitVec 4) (n : BitVec 1) : Statement (.taskBfxReg d a b n) := of_task rfl rfl rfl
theorem taskBfxImm (d : BitVec 4) (a : BitVec 4) (n : BitVec 1) (i : BitVec 12) : Statement (.taskBfxImm d a n i) := of_task rfl rfl rfl
theorem taskBfiReg (d : BitVec 4) (a : BitVec 4) (b : BitVec 4) (n : BitVec 1) : Statement (.taskBfiReg d a b n) := of_task rfl rfl rfl
theorem taskBfiImm (d : BitVec 4) (a : BitVec 4) (n : BitVec 1) (i : BitVec 12) : Statement (.taskBfiImm d a n i) := of_task rfl rfl rfl
theorem taskCmpReg (d : BitVec 4) (a : BitVec 4) (b : BitVec 4) (n : BitVec 1) (c : BitVec 3) : Statement (.taskCmpReg d a b n c) := of_task rfl rfl rfl
theorem taskCmpImm (d : BitVec 4) (a : BitVec 4) (n : BitVec 1) (c : BitVec 3) (i : BitVec 12) : Statement (.taskCmpImm d a n c i) := of_task rfl rfl rfl
theorem taskSelReg (d : BitVec 4) (a : BitVec 4) (b : BitVec 4) (n : BitVec 1) : Statement (.taskSelReg d a b n) := of_task rfl rfl rfl
theorem taskSelImm (d : BitVec 4) (a : BitVec 4) (n : BitVec 1) (i : BitVec 12) : Statement (.taskSelImm d a n i) := of_task rfl rfl rfl
theorem taskFaddReg (d : BitVec 4) (a : BitVec 4) (b : BitVec 4) (m : BitVec 3) : Statement (.taskFaddReg d a b m) := of_task rfl rfl rfl
theorem taskFaddImm (d : BitVec 4) (a : BitVec 4) (m : BitVec 3) (i : BitVec 12) : Statement (.taskFaddImm d a m i) := of_task rfl rfl rfl
theorem taskFsubReg (d : BitVec 4) (a : BitVec 4) (b : BitVec 4) (m : BitVec 3) : Statement (.taskFsubReg d a b m) := of_task rfl rfl rfl
theorem taskFsubImm (d : BitVec 4) (a : BitVec 4) (m : BitVec 3) (i : BitVec 12) : Statement (.taskFsubImm d a m i) := of_task rfl rfl rfl
theorem taskFmulReg (d : BitVec 4) (a : BitVec 4) (b : BitVec 4) (m : BitVec 3) : Statement (.taskFmulReg d a b m) := of_task rfl rfl rfl
theorem taskFmulImm (d : BitVec 4) (a : BitVec 4) (m : BitVec 3) (i : BitVec 12) : Statement (.taskFmulImm d a m i) := of_task rfl rfl rfl
theorem taskFmaReg (d : BitVec 4) (a : BitVec 4) (b : BitVec 4) (m : BitVec 3) : Statement (.taskFmaReg d a b m) := of_task rfl rfl rfl
theorem taskFmaImm (d : BitVec 4) (a : BitVec 4) (m : BitVec 3) (i : BitVec 12) : Statement (.taskFmaImm d a m i) := of_task rfl rfl rfl
theorem taskFminReg (d : BitVec 4) (a : BitVec 4) (b : BitVec 4) : Statement (.taskFminReg d a b) := of_task rfl rfl rfl
theorem taskFminImm (d : BitVec 4) (a : BitVec 4) (i : BitVec 12) : Statement (.taskFminImm d a i) := of_task rfl rfl rfl
theorem taskFmaxReg (d : BitVec 4) (a : BitVec 4) (b : BitVec 4) : Statement (.taskFmaxReg d a b) := of_task rfl rfl rfl
theorem taskFmaxImm (d : BitVec 4) (a : BitVec 4) (i : BitVec 12) : Statement (.taskFmaxImm d a i) := of_task rfl rfl rfl
theorem taskFcmpReg (d : BitVec 4) (a : BitVec 4) (b : BitVec 4) (c : BitVec 3) : Statement (.taskFcmpReg d a b c) := of_task rfl rfl rfl
theorem taskFcmpImm (d : BitVec 4) (a : BitVec 4) (c : BitVec 3) (i : BitVec 12) : Statement (.taskFcmpImm d a c i) := of_task rfl rfl rfl
theorem taskCvt (d : BitVec 4) (a : BitVec 4) (v : BitVec 1) (n : BitVec 1) (m : BitVec 3) : Statement (.taskCvt d a v n m) := of_task rfl rfl rfl
theorem taskRecv (d : BitVec 4) (w : BitVec 1) : Statement (.taskRecv d w) := of_task rfl rfl rfl
theorem taskPeek (d : BitVec 4) : Statement (.taskPeek d) := of_task rfl rfl rfl
theorem taskSend (k : BitVec 2) (a : BitVec 4) (b : BitVec 4) (w : BitVec 1) : Statement (.taskSend k a b w) := of_task rfl rfl rfl
theorem taskSendm (k : BitVec 2) (a : BitVec 4) : Statement (.taskSendm k a) := of_task rfl rfl rfl
theorem taskLdreq (d : BitVec 4) (a : BitVec 4) (b : BitVec 4) (t : BitVec 1) (j : BitVec 2) (w : BitVec 1) (x : BitVec 1) (z : BitVec 2) (s : BitVec 3) : Statement (.taskLdreq d a b t j w x z s) := of_task rfl rfl rfl
theorem taskStreq (d : BitVec 4) (a : BitVec 4) (b : BitVec 4) (k : BitVec 1) (j : BitVec 2) (w : BitVec 1) (z : BitVec 2) (s : BitVec 3) : Statement (.taskStreq d a b k j w z s) := of_task rfl rfl rfl
theorem taskAreq (d : BitVec 4) (a : BitVec 4) (b : BitVec 4) (o : BitVec 3) (r : BitVec 1) (j : BitVec 2) (w : BitVec 1) (x : BitVec 1) (s : BitVec 3) : Statement (.taskAreq d a b o r j w x s) := of_task rfl rfl rfl
theorem taskBr (i : BitVec 13) : Statement (.taskBr i) := of_task rfl rfl rfl
theorem taskBrc (a : BitVec 4) (n : BitVec 1) (i : BitVec 13) : Statement (.taskBrc a n i) := of_task rfl rfl rfl
theorem taskRep (m : BitVec 3) (a : BitVec 4) (c : BitVec 1) (s : BitVec 4) (n : BitVec 8) : Statement (.taskRep m a c s n) := of_task rfl rfl rfl
theorem taskEnd : Statement .taskEnd := of_task rfl rfl rfl
theorem taskSeti (d : BitVec 4) (v : BitVec 13) : Statement (.taskSeti d v) := of_task rfl rfl rfl
theorem taskLui (d : BitVec 4) (u : BitVec 21) : Statement (.taskLui d u) := of_task rfl rfl rfl
theorem taskEmita (k : BitVec 2) (a : BitVec 4) (e : BitVec 1) (p : BitVec 1) (w : BitVec 5) : Statement (.taskEmita k a e p w) := of_task rfl rfl rfl
theorem taskEmitb (k : BitVec 2) (a : BitVec 4) (e : BitVec 1) (p : BitVec 1) (w : BitVec 5) : Statement (.taskEmitb k a e p w) := of_task rfl rfl rfl
theorem taskSplitDec (d : BitVec 4) (a : BitVec 4) (b : BitVec 4) : Statement (.taskSplitDec d a b) := of_task rfl rfl rfl
theorem taskSplitEnc (d : BitVec 4) (a : BitVec 4) (b : BitVec 4) : Statement (.taskSplitEnc d a b) := of_task rfl rfl rfl
theorem taskTrap (a : BitVec 4) (c : BitVec 12) : Statement (.taskTrap a c) := of_task rfl rfl rfl

end Sys2Proof.Laws.Encodes
end

