-- ==== Sys2Proof/Laws/State.lean ====
section
/-! SUPPORT. What each named update of the state, of a plane and of a node leaves as it was: one lemma per field per update,
and what is read back after an update. -/

namespace Sys2Proof.Machine

/-! ## State -/

@[simp] theorem State.setCtx_cycle (s : State) (c : Nat) (x : Ctx) : (s.setCtx c x).cycle = s.cycle := rfl
@[simp] theorem State.setCtx_timeRem (s : State) (c : Nat) (x : Ctx) : (s.setCtx c x).timeRem = s.timeRem := rfl
@[simp] theorem State.setCtx_regs (s : State) (c : Nat) (x : Ctx) : (s.setCtx c x).regs = s.regs := rfl
@[simp] theorem State.setCtx_firmware (s : State) (c : Nat) (x : Ctx) : (s.setCtx c x).firmware = s.firmware := rfl
@[simp] theorem State.setCtx_pads (s : State) (c : Nat) (x : Ctx) : (s.setCtx c x).pads = s.pads := rfl
@[simp] theorem State.setCtx_tileGov (s : State) (c : Nat) (x : Ctx) : (s.setCtx c x).tileGov = s.tileGov := rfl
@[simp] theorem State.setCtx_dram (s : State) (c : Nat) (x : Ctx) : (s.setCtx c x).dram = s.dram := rfl
@[simp] theorem State.setCtx_host (s : State) (c : Nat) (x : Ctx) : (s.setCtx c x).host = s.host := rfl
@[simp] theorem State.setCtx_store (s : State) (c : Nat) (x : Ctx) : (s.setCtx c x).store = s.store := rfl
@[simp] theorem State.setCtx_copies (s : State) (c : Nat) (x : Ctx) : (s.setCtx c x).copies = s.copies := rfl
@[simp] theorem State.setCtx_tlbs (s : State) (c : Nat) (x : Ctx) : (s.setCtx c x).tlbs = s.tlbs := rfl
@[simp] theorem State.setCtx_walks (s : State) (c : Nat) (x : Ctx) : (s.setCtx c x).walks = s.walks := rfl
@[simp] theorem State.setCtx_slotsHbm (s : State) (c : Nat) (x : Ctx) : (s.setCtx c x).slotsHbm = s.slotsHbm := rfl
@[simp] theorem State.setCtx_slotsLp (s : State) (c : Nat) (x : Ctx) : (s.setCtx c x).slotsLp = s.slotsLp := rfl
@[simp] theorem State.setCtx_caches (s : State) (c : Nat) (x : Ctx) : (s.setCtx c x).caches = s.caches := rfl
@[simp] theorem State.setCtx_slotQueues (s : State) (c : Nat) (x : Ctx) : (s.setCtx c x).slotQueues = s.slotQueues := rfl
@[simp] theorem State.setCtx_ports (s : State) (c : Nat) (x : Ctx) : (s.setCtx c x).ports = s.ports := rfl
@[simp] theorem State.setCtx_tack (s : State) (c : Nat) (x : Ctx) : (s.setCtx c x).tack = s.tack := rfl
@[simp] theorem State.setCtx_plans (s : State) (c : Nat) (x : Ctx) : (s.setCtx c x).plans = s.plans := rfl
@[simp] theorem State.setCtx_tasks (s : State) (c : Nat) (x : Ctx) : (s.setCtx c x).tasks = s.tasks := rfl
@[simp] theorem State.setCtx_waiting (s : State) (c : Nat) (x : Ctx) : (s.setCtx c x).waiting = s.waiting := rfl
@[simp] theorem State.setCtx_saves (s : State) (c : Nat) (x : Ctx) : (s.setCtx c x).saves = s.saves := rfl
@[simp] theorem State.setCtx_edges (s : State) (c : Nat) (x : Ctx) : (s.setCtx c x).edges = s.edges := rfl
@[simp] theorem State.setCtx_flithe (s : State) (c : Nat) (x : Ctx) : (s.setCtx c x).flithe = s.flithe := rfl
@[simp] theorem State.setCtx_link (s : State) (c : Nat) (x : Ctx) : (s.setCtx c x).link = s.link := rfl
@[simp] theorem State.setCtx_sent (s : State) (c : Nat) (x : Ctx) : (s.setCtx c x).sent = s.sent := rfl
@[simp] theorem State.setCtx_nextId (s : State) (c : Nat) (x : Ctx) : (s.setCtx c x).nextId = s.nextId := rfl
@[simp] theorem State.setCtx_fresh (s : State) (c : Nat) (x : Ctx) : (s.setCtx c x).fresh = s.fresh := rfl
@[simp] theorem State.setCtx_arg (s : State) (c : Nat) (x : Ctx) : (s.setCtx c x).arg = s.arg := rfl
@[simp] theorem State.setCtx_cursor (s : State) (c : Nat) (x : Ctx) : (s.setCtx c x).cursor = s.cursor := rfl
@[simp] theorem State.setCtx_agenda (s : State) (c : Nat) (x : Ctx) : (s.setCtx c x).agenda = s.agenda := rfl

@[simp] theorem State.modCtx_cycle (s : State) (c : Nat) (f : Ctx → Ctx) : (s.modCtx c f).cycle = s.cycle := rfl
@[simp] theorem State.modCtx_timeRem (s : State) (c : Nat) (f : Ctx → Ctx) : (s.modCtx c f).timeRem = s.timeRem := rfl
@[simp] theorem State.modCtx_regs (s : State) (c : Nat) (f : Ctx → Ctx) : (s.modCtx c f).regs = s.regs := rfl
@[simp] theorem State.modCtx_firmware (s : State) (c : Nat) (f : Ctx → Ctx) : (s.modCtx c f).firmware = s.firmware := rfl
@[simp] theorem State.modCtx_pads (s : State) (c : Nat) (f : Ctx → Ctx) : (s.modCtx c f).pads = s.pads := rfl
@[simp] theorem State.modCtx_tileGov (s : State) (c : Nat) (f : Ctx → Ctx) : (s.modCtx c f).tileGov = s.tileGov := rfl
@[simp] theorem State.modCtx_dram (s : State) (c : Nat) (f : Ctx → Ctx) : (s.modCtx c f).dram = s.dram := rfl
@[simp] theorem State.modCtx_host (s : State) (c : Nat) (f : Ctx → Ctx) : (s.modCtx c f).host = s.host := rfl
@[simp] theorem State.modCtx_store (s : State) (c : Nat) (f : Ctx → Ctx) : (s.modCtx c f).store = s.store := rfl
@[simp] theorem State.modCtx_copies (s : State) (c : Nat) (f : Ctx → Ctx) : (s.modCtx c f).copies = s.copies := rfl
@[simp] theorem State.modCtx_tlbs (s : State) (c : Nat) (f : Ctx → Ctx) : (s.modCtx c f).tlbs = s.tlbs := rfl
@[simp] theorem State.modCtx_walks (s : State) (c : Nat) (f : Ctx → Ctx) : (s.modCtx c f).walks = s.walks := rfl
@[simp] theorem State.modCtx_slotsHbm (s : State) (c : Nat) (f : Ctx → Ctx) : (s.modCtx c f).slotsHbm = s.slotsHbm := rfl
@[simp] theorem State.modCtx_slotsLp (s : State) (c : Nat) (f : Ctx → Ctx) : (s.modCtx c f).slotsLp = s.slotsLp := rfl
@[simp] theorem State.modCtx_caches (s : State) (c : Nat) (f : Ctx → Ctx) : (s.modCtx c f).caches = s.caches := rfl
@[simp] theorem State.modCtx_slotQueues (s : State) (c : Nat) (f : Ctx → Ctx) : (s.modCtx c f).slotQueues = s.slotQueues := rfl
@[simp] theorem State.modCtx_ports (s : State) (c : Nat) (f : Ctx → Ctx) : (s.modCtx c f).ports = s.ports := rfl
@[simp] theorem State.modCtx_tack (s : State) (c : Nat) (f : Ctx → Ctx) : (s.modCtx c f).tack = s.tack := rfl
@[simp] theorem State.modCtx_plans (s : State) (c : Nat) (f : Ctx → Ctx) : (s.modCtx c f).plans = s.plans := rfl
@[simp] theorem State.modCtx_tasks (s : State) (c : Nat) (f : Ctx → Ctx) : (s.modCtx c f).tasks = s.tasks := rfl
@[simp] theorem State.modCtx_waiting (s : State) (c : Nat) (f : Ctx → Ctx) : (s.modCtx c f).waiting = s.waiting := rfl
@[simp] theorem State.modCtx_saves (s : State) (c : Nat) (f : Ctx → Ctx) : (s.modCtx c f).saves = s.saves := rfl
@[simp] theorem State.modCtx_edges (s : State) (c : Nat) (f : Ctx → Ctx) : (s.modCtx c f).edges = s.edges := rfl
@[simp] theorem State.modCtx_flithe (s : State) (c : Nat) (f : Ctx → Ctx) : (s.modCtx c f).flithe = s.flithe := rfl
@[simp] theorem State.modCtx_link (s : State) (c : Nat) (f : Ctx → Ctx) : (s.modCtx c f).link = s.link := rfl
@[simp] theorem State.modCtx_sent (s : State) (c : Nat) (f : Ctx → Ctx) : (s.modCtx c f).sent = s.sent := rfl
@[simp] theorem State.modCtx_nextId (s : State) (c : Nat) (f : Ctx → Ctx) : (s.modCtx c f).nextId = s.nextId := rfl
@[simp] theorem State.modCtx_fresh (s : State) (c : Nat) (f : Ctx → Ctx) : (s.modCtx c f).fresh = s.fresh := rfl
@[simp] theorem State.modCtx_arg (s : State) (c : Nat) (f : Ctx → Ctx) : (s.modCtx c f).arg = s.arg := rfl
@[simp] theorem State.modCtx_cursor (s : State) (c : Nat) (f : Ctx → Ctx) : (s.modCtx c f).cursor = s.cursor := rfl
@[simp] theorem State.modCtx_agenda (s : State) (c : Nat) (f : Ctx → Ctx) : (s.modCtx c f).agenda = s.agenda := rfl

@[simp] theorem State.later_cycle (s : State) (x : Agenda) : (s.later x).cycle = s.cycle := rfl
@[simp] theorem State.later_timeRem (s : State) (x : Agenda) : (s.later x).timeRem = s.timeRem := rfl
@[simp] theorem State.later_regs (s : State) (x : Agenda) : (s.later x).regs = s.regs := rfl
@[simp] theorem State.later_ctxs (s : State) (x : Agenda) : (s.later x).ctxs = s.ctxs := rfl
@[simp] theorem State.later_firmware (s : State) (x : Agenda) : (s.later x).firmware = s.firmware := rfl
@[simp] theorem State.later_pads (s : State) (x : Agenda) : (s.later x).pads = s.pads := rfl
@[simp] theorem State.later_tileGov (s : State) (x : Agenda) : (s.later x).tileGov = s.tileGov := rfl
@[simp] theorem State.later_dram (s : State) (x : Agenda) : (s.later x).dram = s.dram := rfl
@[simp] theorem State.later_host (s : State) (x : Agenda) : (s.later x).host = s.host := rfl
@[simp] theorem State.later_store (s : State) (x : Agenda) : (s.later x).store = s.store := rfl
@[simp] theorem State.later_copies (s : State) (x : Agenda) : (s.later x).copies = s.copies := rfl
@[simp] theorem State.later_tlbs (s : State) (x : Agenda) : (s.later x).tlbs = s.tlbs := rfl
@[simp] theorem State.later_walks (s : State) (x : Agenda) : (s.later x).walks = s.walks := rfl
@[simp] theorem State.later_slotsHbm (s : State) (x : Agenda) : (s.later x).slotsHbm = s.slotsHbm := rfl
@[simp] theorem State.later_slotsLp (s : State) (x : Agenda) : (s.later x).slotsLp = s.slotsLp := rfl
@[simp] theorem State.later_caches (s : State) (x : Agenda) : (s.later x).caches = s.caches := rfl
@[simp] theorem State.later_slotQueues (s : State) (x : Agenda) : (s.later x).slotQueues = s.slotQueues := rfl
@[simp] theorem State.later_ports (s : State) (x : Agenda) : (s.later x).ports = s.ports := rfl
@[simp] theorem State.later_tack (s : State) (x : Agenda) : (s.later x).tack = s.tack := rfl
@[simp] theorem State.later_plans (s : State) (x : Agenda) : (s.later x).plans = s.plans := rfl
@[simp] theorem State.later_tasks (s : State) (x : Agenda) : (s.later x).tasks = s.tasks := rfl
@[simp] theorem State.later_waiting (s : State) (x : Agenda) : (s.later x).waiting = s.waiting := rfl
@[simp] theorem State.later_saves (s : State) (x : Agenda) : (s.later x).saves = s.saves := rfl
@[simp] theorem State.later_edges (s : State) (x : Agenda) : (s.later x).edges = s.edges := rfl
@[simp] theorem State.later_flithe (s : State) (x : Agenda) : (s.later x).flithe = s.flithe := rfl
@[simp] theorem State.later_link (s : State) (x : Agenda) : (s.later x).link = s.link := rfl
@[simp] theorem State.later_sent (s : State) (x : Agenda) : (s.later x).sent = s.sent := rfl
@[simp] theorem State.later_nextId (s : State) (x : Agenda) : (s.later x).nextId = s.nextId := rfl
@[simp] theorem State.later_fresh (s : State) (x : Agenda) : (s.later x).fresh = s.fresh := rfl
@[simp] theorem State.later_arg (s : State) (x : Agenda) : (s.later x).arg = s.arg := rfl
@[simp] theorem State.later_cursor (s : State) (x : Agenda) : (s.later x).cursor = s.cursor := rfl

@[simp] theorem State.takeId_cycle (s : State)  : (s.takeId.2).cycle = s.cycle := rfl
@[simp] theorem State.takeId_timeRem (s : State)  : (s.takeId.2).timeRem = s.timeRem := rfl
@[simp] theorem State.takeId_regs (s : State)  : (s.takeId.2).regs = s.regs := rfl
@[simp] theorem State.takeId_ctxs (s : State)  : (s.takeId.2).ctxs = s.ctxs := rfl
@[simp] theorem State.takeId_firmware (s : State)  : (s.takeId.2).firmware = s.firmware := rfl
@[simp] theorem State.takeId_pads (s : State)  : (s.takeId.2).pads = s.pads := rfl
@[simp] theorem State.takeId_tileGov (s : State)  : (s.takeId.2).tileGov = s.tileGov := rfl
@[simp] theorem State.takeId_dram (s : State)  : (s.takeId.2).dram = s.dram := rfl
@[simp] theorem State.takeId_host (s : State)  : (s.takeId.2).host = s.host := rfl
@[simp] theorem State.takeId_store (s : State)  : (s.takeId.2).store = s.store := rfl
@[simp] theorem State.takeId_copies (s : State)  : (s.takeId.2).copies = s.copies := rfl
@[simp] theorem State.takeId_tlbs (s : State)  : (s.takeId.2).tlbs = s.tlbs := rfl
@[simp] theorem State.takeId_walks (s : State)  : (s.takeId.2).walks = s.walks := rfl
@[simp] theorem State.takeId_slotsHbm (s : State)  : (s.takeId.2).slotsHbm = s.slotsHbm := rfl
@[simp] theorem State.takeId_slotsLp (s : State)  : (s.takeId.2).slotsLp = s.slotsLp := rfl
@[simp] theorem State.takeId_caches (s : State)  : (s.takeId.2).caches = s.caches := rfl
@[simp] theorem State.takeId_slotQueues (s : State)  : (s.takeId.2).slotQueues = s.slotQueues := rfl
@[simp] theorem State.takeId_ports (s : State)  : (s.takeId.2).ports = s.ports := rfl
@[simp] theorem State.takeId_tack (s : State)  : (s.takeId.2).tack = s.tack := rfl
@[simp] theorem State.takeId_plans (s : State)  : (s.takeId.2).plans = s.plans := rfl
@[simp] theorem State.takeId_tasks (s : State)  : (s.takeId.2).tasks = s.tasks := rfl
@[simp] theorem State.takeId_waiting (s : State)  : (s.takeId.2).waiting = s.waiting := rfl
@[simp] theorem State.takeId_saves (s : State)  : (s.takeId.2).saves = s.saves := rfl
@[simp] theorem State.takeId_edges (s : State)  : (s.takeId.2).edges = s.edges := rfl
@[simp] theorem State.takeId_flithe (s : State)  : (s.takeId.2).flithe = s.flithe := rfl
@[simp] theorem State.takeId_link (s : State)  : (s.takeId.2).link = s.link := rfl
@[simp] theorem State.takeId_sent (s : State)  : (s.takeId.2).sent = s.sent := rfl
@[simp] theorem State.takeId_fresh (s : State)  : (s.takeId.2).fresh = s.fresh := rfl
@[simp] theorem State.takeId_arg (s : State)  : (s.takeId.2).arg = s.arg := rfl
@[simp] theorem State.takeId_cursor (s : State)  : (s.takeId.2).cursor = s.cursor := rfl
@[simp] theorem State.takeId_agenda (s : State)  : (s.takeId.2).agenda = s.agenda := rfl

@[simp] theorem State.advance_ctxs (s : State) (n : Nat) : (s.advance n).ctxs = s.ctxs := rfl
@[simp] theorem State.advance_firmware (s : State) (n : Nat) : (s.advance n).firmware = s.firmware := rfl
@[simp] theorem State.advance_pads (s : State) (n : Nat) : (s.advance n).pads = s.pads := rfl
@[simp] theorem State.advance_tileGov (s : State) (n : Nat) : (s.advance n).tileGov = s.tileGov := rfl
@[simp] theorem State.advance_dram (s : State) (n : Nat) : (s.advance n).dram = s.dram := rfl
@[simp] theorem State.advance_host (s : State) (n : Nat) : (s.advance n).host = s.host := rfl
@[simp] theorem State.advance_store (s : State) (n : Nat) : (s.advance n).store = s.store := rfl
@[simp] theorem State.advance_copies (s : State) (n : Nat) : (s.advance n).copies = s.copies := rfl
@[simp] theorem State.advance_tlbs (s : State) (n : Nat) : (s.advance n).tlbs = s.tlbs := rfl
@[simp] theorem State.advance_walks (s : State) (n : Nat) : (s.advance n).walks = s.walks := rfl
@[simp] theorem State.advance_slotsHbm (s : State) (n : Nat) : (s.advance n).slotsHbm = s.slotsHbm := rfl
@[simp] theorem State.advance_slotsLp (s : State) (n : Nat) : (s.advance n).slotsLp = s.slotsLp := rfl
@[simp] theorem State.advance_caches (s : State) (n : Nat) : (s.advance n).caches = s.caches := rfl
@[simp] theorem State.advance_slotQueues (s : State) (n : Nat) : (s.advance n).slotQueues = s.slotQueues := rfl
@[simp] theorem State.advance_ports (s : State) (n : Nat) : (s.advance n).ports = s.ports := rfl
@[simp] theorem State.advance_tack (s : State) (n : Nat) : (s.advance n).tack = s.tack := rfl
@[simp] theorem State.advance_plans (s : State) (n : Nat) : (s.advance n).plans = s.plans := rfl
@[simp] theorem State.advance_tasks (s : State) (n : Nat) : (s.advance n).tasks = s.tasks := rfl
@[simp] theorem State.advance_waiting (s : State) (n : Nat) : (s.advance n).waiting = s.waiting := rfl
@[simp] theorem State.advance_saves (s : State) (n : Nat) : (s.advance n).saves = s.saves := rfl
@[simp] theorem State.advance_edges (s : State) (n : Nat) : (s.advance n).edges = s.edges := rfl
@[simp] theorem State.advance_flithe (s : State) (n : Nat) : (s.advance n).flithe = s.flithe := rfl
@[simp] theorem State.advance_link (s : State) (n : Nat) : (s.advance n).link = s.link := rfl
@[simp] theorem State.advance_sent (s : State) (n : Nat) : (s.advance n).sent = s.sent := rfl
@[simp] theorem State.advance_nextId (s : State) (n : Nat) : (s.advance n).nextId = s.nextId := rfl
@[simp] theorem State.advance_fresh (s : State) (n : Nat) : (s.advance n).fresh = s.fresh := rfl
@[simp] theorem State.advance_arg (s : State) (n : Nat) : (s.advance n).arg = s.arg := rfl
@[simp] theorem State.advance_cursor (s : State) (n : Nat) : (s.advance n).cursor = s.cursor := rfl
@[simp] theorem State.advance_agenda (s : State) (n : Nat) : (s.advance n).agenda = s.agenda := rfl

@[simp] theorem State.setEdge_cycle (s : State) (e : Nat) (x : Edge) : (s.setEdge e x).cycle = s.cycle := rfl
@[simp] theorem State.setEdge_timeRem (s : State) (e : Nat) (x : Edge) : (s.setEdge e x).timeRem = s.timeRem := rfl
@[simp] theorem State.setEdge_regs (s : State) (e : Nat) (x : Edge) : (s.setEdge e x).regs = s.regs := rfl
@[simp] theorem State.setEdge_ctxs (s : State) (e : Nat) (x : Edge) : (s.setEdge e x).ctxs = s.ctxs := rfl
@[simp] theorem State.setEdge_firmware (s : State) (e : Nat) (x : Edge) : (s.setEdge e x).firmware = s.firmware := rfl
@[simp] theorem State.setEdge_pads (s : State) (e : Nat) (x : Edge) : (s.setEdge e x).pads = s.pads := rfl
@[simp] theorem State.setEdge_tileGov (s : State) (e : Nat) (x : Edge) : (s.setEdge e x).tileGov = s.tileGov := rfl
@[simp] theorem State.setEdge_dram (s : State) (e : Nat) (x : Edge) : (s.setEdge e x).dram = s.dram := rfl
@[simp] theorem State.setEdge_host (s : State) (e : Nat) (x : Edge) : (s.setEdge e x).host = s.host := rfl
@[simp] theorem State.setEdge_store (s : State) (e : Nat) (x : Edge) : (s.setEdge e x).store = s.store := rfl
@[simp] theorem State.setEdge_copies (s : State) (e : Nat) (x : Edge) : (s.setEdge e x).copies = s.copies := rfl
@[simp] theorem State.setEdge_tlbs (s : State) (e : Nat) (x : Edge) : (s.setEdge e x).tlbs = s.tlbs := rfl
@[simp] theorem State.setEdge_walks (s : State) (e : Nat) (x : Edge) : (s.setEdge e x).walks = s.walks := rfl
@[simp] theorem State.setEdge_slotsHbm (s : State) (e : Nat) (x : Edge) : (s.setEdge e x).slotsHbm = s.slotsHbm := rfl
@[simp] theorem State.setEdge_slotsLp (s : State) (e : Nat) (x : Edge) : (s.setEdge e x).slotsLp = s.slotsLp := rfl
@[simp] theorem State.setEdge_caches (s : State) (e : Nat) (x : Edge) : (s.setEdge e x).caches = s.caches := rfl
@[simp] theorem State.setEdge_slotQueues (s : State) (e : Nat) (x : Edge) : (s.setEdge e x).slotQueues = s.slotQueues := rfl
@[simp] theorem State.setEdge_ports (s : State) (e : Nat) (x : Edge) : (s.setEdge e x).ports = s.ports := rfl
@[simp] theorem State.setEdge_tack (s : State) (e : Nat) (x : Edge) : (s.setEdge e x).tack = s.tack := rfl
@[simp] theorem State.setEdge_plans (s : State) (e : Nat) (x : Edge) : (s.setEdge e x).plans = s.plans := rfl
@[simp] theorem State.setEdge_tasks (s : State) (e : Nat) (x : Edge) : (s.setEdge e x).tasks = s.tasks := rfl
@[simp] theorem State.setEdge_waiting (s : State) (e : Nat) (x : Edge) : (s.setEdge e x).waiting = s.waiting := rfl
@[simp] theorem State.setEdge_saves (s : State) (e : Nat) (x : Edge) : (s.setEdge e x).saves = s.saves := rfl
@[simp] theorem State.setEdge_flithe (s : State) (e : Nat) (x : Edge) : (s.setEdge e x).flithe = s.flithe := rfl
@[simp] theorem State.setEdge_link (s : State) (e : Nat) (x : Edge) : (s.setEdge e x).link = s.link := rfl
@[simp] theorem State.setEdge_sent (s : State) (e : Nat) (x : Edge) : (s.setEdge e x).sent = s.sent := rfl
@[simp] theorem State.setEdge_nextId (s : State) (e : Nat) (x : Edge) : (s.setEdge e x).nextId = s.nextId := rfl
@[simp] theorem State.setEdge_fresh (s : State) (e : Nat) (x : Edge) : (s.setEdge e x).fresh = s.fresh := rfl
@[simp] theorem State.setEdge_arg (s : State) (e : Nat) (x : Edge) : (s.setEdge e x).arg = s.arg := rfl
@[simp] theorem State.setEdge_cursor (s : State) (e : Nat) (x : Edge) : (s.setEdge e x).cursor = s.cursor := rfl
@[simp] theorem State.setEdge_agenda (s : State) (e : Nat) (x : Edge) : (s.setEdge e x).agenda = s.agenda := rfl

@[simp] theorem State.setPort_cycle (s : State) (k : Nat) (x : FlithePort) : (s.setPort k x).cycle = s.cycle := rfl
@[simp] theorem State.setPort_timeRem (s : State) (k : Nat) (x : FlithePort) : (s.setPort k x).timeRem = s.timeRem := rfl
@[simp] theorem State.setPort_regs (s : State) (k : Nat) (x : FlithePort) : (s.setPort k x).regs = s.regs := rfl
@[simp] theorem State.setPort_ctxs (s : State) (k : Nat) (x : FlithePort) : (s.setPort k x).ctxs = s.ctxs := rfl
@[simp] theorem State.setPort_firmware (s : State) (k : Nat) (x : FlithePort) : (s.setPort k x).firmware = s.firmware := rfl
@[simp] theorem State.setPort_pads (s : State) (k : Nat) (x : FlithePort) : (s.setPort k x).pads = s.pads := rfl
@[simp] theorem State.setPort_tileGov (s : State) (k : Nat) (x : FlithePort) : (s.setPort k x).tileGov = s.tileGov := rfl
@[simp] theorem State.setPort_dram (s : State) (k : Nat) (x : FlithePort) : (s.setPort k x).dram = s.dram := rfl
@[simp] theorem State.setPort_host (s : State) (k : Nat) (x : FlithePort) : (s.setPort k x).host = s.host := rfl
@[simp] theorem State.setPort_store (s : State) (k : Nat) (x : FlithePort) : (s.setPort k x).store = s.store := rfl
@[simp] theorem State.setPort_copies (s : State) (k : Nat) (x : FlithePort) : (s.setPort k x).copies = s.copies := rfl
@[simp] theorem State.setPort_tlbs (s : State) (k : Nat) (x : FlithePort) : (s.setPort k x).tlbs = s.tlbs := rfl
@[simp] theorem State.setPort_walks (s : State) (k : Nat) (x : FlithePort) : (s.setPort k x).walks = s.walks := rfl
@[simp] theorem State.setPort_slotsHbm (s : State) (k : Nat) (x : FlithePort) : (s.setPort k x).slotsHbm = s.slotsHbm := rfl
@[simp] theorem State.setPort_slotsLp (s : State) (k : Nat) (x : FlithePort) : (s.setPort k x).slotsLp = s.slotsLp := rfl
@[simp] theorem State.setPort_caches (s : State) (k : Nat) (x : FlithePort) : (s.setPort k x).caches = s.caches := rfl
@[simp] theorem State.setPort_slotQueues (s : State) (k : Nat) (x : FlithePort) : (s.setPort k x).slotQueues = s.slotQueues := rfl
@[simp] theorem State.setPort_ports (s : State) (k : Nat) (x : FlithePort) : (s.setPort k x).ports = s.ports := rfl
@[simp] theorem State.setPort_tack (s : State) (k : Nat) (x : FlithePort) : (s.setPort k x).tack = s.tack := rfl
@[simp] theorem State.setPort_plans (s : State) (k : Nat) (x : FlithePort) : (s.setPort k x).plans = s.plans := rfl
@[simp] theorem State.setPort_tasks (s : State) (k : Nat) (x : FlithePort) : (s.setPort k x).tasks = s.tasks := rfl
@[simp] theorem State.setPort_waiting (s : State) (k : Nat) (x : FlithePort) : (s.setPort k x).waiting = s.waiting := rfl
@[simp] theorem State.setPort_saves (s : State) (k : Nat) (x : FlithePort) : (s.setPort k x).saves = s.saves := rfl
@[simp] theorem State.setPort_edges (s : State) (k : Nat) (x : FlithePort) : (s.setPort k x).edges = s.edges := rfl
@[simp] theorem State.setPort_link (s : State) (k : Nat) (x : FlithePort) : (s.setPort k x).link = s.link := rfl
@[simp] theorem State.setPort_sent (s : State) (k : Nat) (x : FlithePort) : (s.setPort k x).sent = s.sent := rfl
@[simp] theorem State.setPort_nextId (s : State) (k : Nat) (x : FlithePort) : (s.setPort k x).nextId = s.nextId := rfl
@[simp] theorem State.setPort_fresh (s : State) (k : Nat) (x : FlithePort) : (s.setPort k x).fresh = s.fresh := rfl
@[simp] theorem State.setPort_arg (s : State) (k : Nat) (x : FlithePort) : (s.setPort k x).arg = s.arg := rfl
@[simp] theorem State.setPort_cursor (s : State) (k : Nat) (x : FlithePort) : (s.setPort k x).cursor = s.cursor := rfl
@[simp] theorem State.setPort_agenda (s : State) (k : Nat) (x : FlithePort) : (s.setPort k x).agenda = s.agenda := rfl

@[simp] theorem State.setTask_cycle (s : State) (c : Nat) (t : Task) : (s.setTask c t).cycle = s.cycle := rfl
@[simp] theorem State.setTask_timeRem (s : State) (c : Nat) (t : Task) : (s.setTask c t).timeRem = s.timeRem := rfl
@[simp] theorem State.setTask_regs (s : State) (c : Nat) (t : Task) : (s.setTask c t).regs = s.regs := rfl
@[simp] theorem State.setTask_ctxs (s : State) (c : Nat) (t : Task) : (s.setTask c t).ctxs = s.ctxs := rfl
@[simp] theorem State.setTask_firmware (s : State) (c : Nat) (t : Task) : (s.setTask c t).firmware = s.firmware := rfl
@[simp] theorem State.setTask_pads (s : State) (c : Nat) (t : Task) : (s.setTask c t).pads = s.pads := rfl
@[simp] theorem State.setTask_tileGov (s : State) (c : Nat) (t : Task) : (s.setTask c t).tileGov = s.tileGov := rfl
@[simp] theorem State.setTask_dram (s : State) (c : Nat) (t : Task) : (s.setTask c t).dram = s.dram := rfl
@[simp] theorem State.setTask_host (s : State) (c : Nat) (t : Task) : (s.setTask c t).host = s.host := rfl
@[simp] theorem State.setTask_store (s : State) (c : Nat) (t : Task) : (s.setTask c t).store = s.store := rfl
@[simp] theorem State.setTask_copies (s : State) (c : Nat) (t : Task) : (s.setTask c t).copies = s.copies := rfl
@[simp] theorem State.setTask_tlbs (s : State) (c : Nat) (t : Task) : (s.setTask c t).tlbs = s.tlbs := rfl
@[simp] theorem State.setTask_walks (s : State) (c : Nat) (t : Task) : (s.setTask c t).walks = s.walks := rfl
@[simp] theorem State.setTask_slotsHbm (s : State) (c : Nat) (t : Task) : (s.setTask c t).slotsHbm = s.slotsHbm := rfl
@[simp] theorem State.setTask_slotsLp (s : State) (c : Nat) (t : Task) : (s.setTask c t).slotsLp = s.slotsLp := rfl
@[simp] theorem State.setTask_caches (s : State) (c : Nat) (t : Task) : (s.setTask c t).caches = s.caches := rfl
@[simp] theorem State.setTask_slotQueues (s : State) (c : Nat) (t : Task) : (s.setTask c t).slotQueues = s.slotQueues := rfl
@[simp] theorem State.setTask_ports (s : State) (c : Nat) (t : Task) : (s.setTask c t).ports = s.ports := rfl
@[simp] theorem State.setTask_tack (s : State) (c : Nat) (t : Task) : (s.setTask c t).tack = s.tack := rfl
@[simp] theorem State.setTask_plans (s : State) (c : Nat) (t : Task) : (s.setTask c t).plans = s.plans := rfl
@[simp] theorem State.setTask_waiting (s : State) (c : Nat) (t : Task) : (s.setTask c t).waiting = s.waiting := rfl
@[simp] theorem State.setTask_saves (s : State) (c : Nat) (t : Task) : (s.setTask c t).saves = s.saves := rfl
@[simp] theorem State.setTask_edges (s : State) (c : Nat) (t : Task) : (s.setTask c t).edges = s.edges := rfl
@[simp] theorem State.setTask_flithe (s : State) (c : Nat) (t : Task) : (s.setTask c t).flithe = s.flithe := rfl
@[simp] theorem State.setTask_link (s : State) (c : Nat) (t : Task) : (s.setTask c t).link = s.link := rfl
@[simp] theorem State.setTask_sent (s : State) (c : Nat) (t : Task) : (s.setTask c t).sent = s.sent := rfl
@[simp] theorem State.setTask_nextId (s : State) (c : Nat) (t : Task) : (s.setTask c t).nextId = s.nextId := rfl
@[simp] theorem State.setTask_fresh (s : State) (c : Nat) (t : Task) : (s.setTask c t).fresh = s.fresh := rfl
@[simp] theorem State.setTask_arg (s : State) (c : Nat) (t : Task) : (s.setTask c t).arg = s.arg := rfl
@[simp] theorem State.setTask_cursor (s : State) (c : Nat) (t : Task) : (s.setTask c t).cursor = s.cursor := rfl
@[simp] theorem State.setTask_agenda (s : State) (c : Nat) (t : Task) : (s.setTask c t).agenda = s.agenda := rfl

@[simp] theorem State.modPlane_cycle (s : State) (p : PlaneId) (f : Plane → Plane) : (s.modPlane p f).cycle = s.cycle := by unfold State.modPlane; split <;> rfl
@[simp] theorem State.modPlane_timeRem (s : State) (p : PlaneId) (f : Plane → Plane) : (s.modPlane p f).timeRem = s.timeRem := by unfold State.modPlane; split <;> rfl
@[simp] theorem State.modPlane_regs (s : State) (p : PlaneId) (f : Plane → Plane) : (s.modPlane p f).regs = s.regs := by unfold State.modPlane; split <;> rfl
@[simp] theorem State.modPlane_ctxs (s : State) (p : PlaneId) (f : Plane → Plane) : (s.modPlane p f).ctxs = s.ctxs := by unfold State.modPlane; split <;> rfl
@[simp] theorem State.modPlane_firmware (s : State) (p : PlaneId) (f : Plane → Plane) : (s.modPlane p f).firmware = s.firmware := by unfold State.modPlane; split <;> rfl
@[simp] theorem State.modPlane_tileGov (s : State) (p : PlaneId) (f : Plane → Plane) : (s.modPlane p f).tileGov = s.tileGov := by unfold State.modPlane; split <;> rfl
@[simp] theorem State.modPlane_dram (s : State) (p : PlaneId) (f : Plane → Plane) : (s.modPlane p f).dram = s.dram := by unfold State.modPlane; split <;> rfl
@[simp] theorem State.modPlane_host (s : State) (p : PlaneId) (f : Plane → Plane) : (s.modPlane p f).host = s.host := by unfold State.modPlane; split <;> rfl
@[simp] theorem State.modPlane_store (s : State) (p : PlaneId) (f : Plane → Plane) : (s.modPlane p f).store = s.store := by unfold State.modPlane; split <;> rfl
@[simp] theorem State.modPlane_copies (s : State) (p : PlaneId) (f : Plane → Plane) : (s.modPlane p f).copies = s.copies := by unfold State.modPlane; split <;> rfl
@[simp] theorem State.modPlane_tlbs (s : State) (p : PlaneId) (f : Plane → Plane) : (s.modPlane p f).tlbs = s.tlbs := by unfold State.modPlane; split <;> rfl
@[simp] theorem State.modPlane_walks (s : State) (p : PlaneId) (f : Plane → Plane) : (s.modPlane p f).walks = s.walks := by unfold State.modPlane; split <;> rfl
@[simp] theorem State.modPlane_slotsHbm (s : State) (p : PlaneId) (f : Plane → Plane) : (s.modPlane p f).slotsHbm = s.slotsHbm := by unfold State.modPlane; split <;> rfl
@[simp] theorem State.modPlane_slotsLp (s : State) (p : PlaneId) (f : Plane → Plane) : (s.modPlane p f).slotsLp = s.slotsLp := by unfold State.modPlane; split <;> rfl
@[simp] theorem State.modPlane_caches (s : State) (p : PlaneId) (f : Plane → Plane) : (s.modPlane p f).caches = s.caches := by unfold State.modPlane; split <;> rfl
@[simp] theorem State.modPlane_slotQueues (s : State) (p : PlaneId) (f : Plane → Plane) : (s.modPlane p f).slotQueues = s.slotQueues := by unfold State.modPlane; split <;> rfl
@[simp] theorem State.modPlane_ports (s : State) (p : PlaneId) (f : Plane → Plane) : (s.modPlane p f).ports = s.ports := by unfold State.modPlane; split <;> rfl
@[simp] theorem State.modPlane_tack (s : State) (p : PlaneId) (f : Plane → Plane) : (s.modPlane p f).tack = s.tack := by unfold State.modPlane; split <;> rfl
@[simp] theorem State.modPlane_plans (s : State) (p : PlaneId) (f : Plane → Plane) : (s.modPlane p f).plans = s.plans := by unfold State.modPlane; split <;> rfl
@[simp] theorem State.modPlane_tasks (s : State) (p : PlaneId) (f : Plane → Plane) : (s.modPlane p f).tasks = s.tasks := by unfold State.modPlane; split <;> rfl
@[simp] theorem State.modPlane_waiting (s : State) (p : PlaneId) (f : Plane → Plane) : (s.modPlane p f).waiting = s.waiting := by unfold State.modPlane; split <;> rfl
@[simp] theorem State.modPlane_saves (s : State) (p : PlaneId) (f : Plane → Plane) : (s.modPlane p f).saves = s.saves := by unfold State.modPlane; split <;> rfl
@[simp] theorem State.modPlane_edges (s : State) (p : PlaneId) (f : Plane → Plane) : (s.modPlane p f).edges = s.edges := by unfold State.modPlane; split <;> rfl
@[simp] theorem State.modPlane_flithe (s : State) (p : PlaneId) (f : Plane → Plane) : (s.modPlane p f).flithe = s.flithe := by unfold State.modPlane; split <;> rfl
@[simp] theorem State.modPlane_link (s : State) (p : PlaneId) (f : Plane → Plane) : (s.modPlane p f).link = s.link := by unfold State.modPlane; split <;> rfl
@[simp] theorem State.modPlane_sent (s : State) (p : PlaneId) (f : Plane → Plane) : (s.modPlane p f).sent = s.sent := by unfold State.modPlane; split <;> rfl
@[simp] theorem State.modPlane_nextId (s : State) (p : PlaneId) (f : Plane → Plane) : (s.modPlane p f).nextId = s.nextId := by unfold State.modPlane; split <;> rfl
@[simp] theorem State.modPlane_fresh (s : State) (p : PlaneId) (f : Plane → Plane) : (s.modPlane p f).fresh = s.fresh := by unfold State.modPlane; split <;> rfl
@[simp] theorem State.modPlane_arg (s : State) (p : PlaneId) (f : Plane → Plane) : (s.modPlane p f).arg = s.arg := by unfold State.modPlane; split <;> rfl
@[simp] theorem State.modPlane_cursor (s : State) (p : PlaneId) (f : Plane → Plane) : (s.modPlane p f).cursor = s.cursor := by unfold State.modPlane; split <;> rfl
@[simp] theorem State.modPlane_agenda (s : State) (p : PlaneId) (f : Plane → Plane) : (s.modPlane p f).agenda = s.agenda := by unfold State.modPlane; split <;> rfl

@[simp] theorem State.setPlane_cycle (s : State) (p : PlaneId) (x : Plane) : (s.setPlane p x).cycle = s.cycle := by simp [State.setPlane]
@[simp] theorem State.setPlane_timeRem (s : State) (p : PlaneId) (x : Plane) : (s.setPlane p x).timeRem = s.timeRem := by simp [State.setPlane]
@[simp] theorem State.setPlane_regs (s : State) (p : PlaneId) (x : Plane) : (s.setPlane p x).regs = s.regs := by simp [State.setPlane]
@[simp] theorem State.setPlane_ctxs (s : State) (p : PlaneId) (x : Plane) : (s.setPlane p x).ctxs = s.ctxs := by simp [State.setPlane]
@[simp] theorem State.setPlane_firmware (s : State) (p : PlaneId) (x : Plane) : (s.setPlane p x).firmware = s.firmware := by simp [State.setPlane]
@[simp] theorem State.setPlane_tileGov (s : State) (p : PlaneId) (x : Plane) : (s.setPlane p x).tileGov = s.tileGov := by simp [State.setPlane]
@[simp] theorem State.setPlane_dram (s : State) (p : PlaneId) (x : Plane) : (s.setPlane p x).dram = s.dram := by simp [State.setPlane]
@[simp] theorem State.setPlane_host (s : State) (p : PlaneId) (x : Plane) : (s.setPlane p x).host = s.host := by simp [State.setPlane]
@[simp] theorem State.setPlane_store (s : State) (p : PlaneId) (x : Plane) : (s.setPlane p x).store = s.store := by simp [State.setPlane]
@[simp] theorem State.setPlane_copies (s : State) (p : PlaneId) (x : Plane) : (s.setPlane p x).copies = s.copies := by simp [State.setPlane]
@[simp] theorem State.setPlane_tlbs (s : State) (p : PlaneId) (x : Plane) : (s.setPlane p x).tlbs = s.tlbs := by simp [State.setPlane]
@[simp] theorem State.setPlane_walks (s : State) (p : PlaneId) (x : Plane) : (s.setPlane p x).walks = s.walks := by simp [State.setPlane]
@[simp] theorem State.setPlane_slotsHbm (s : State) (p : PlaneId) (x : Plane) : (s.setPlane p x).slotsHbm = s.slotsHbm := by simp [State.setPlane]
@[simp] theorem State.setPlane_slotsLp (s : State) (p : PlaneId) (x : Plane) : (s.setPlane p x).slotsLp = s.slotsLp := by simp [State.setPlane]
@[simp] theorem State.setPlane_caches (s : State) (p : PlaneId) (x : Plane) : (s.setPlane p x).caches = s.caches := by simp [State.setPlane]
@[simp] theorem State.setPlane_slotQueues (s : State) (p : PlaneId) (x : Plane) : (s.setPlane p x).slotQueues = s.slotQueues := by simp [State.setPlane]
@[simp] theorem State.setPlane_ports (s : State) (p : PlaneId) (x : Plane) : (s.setPlane p x).ports = s.ports := by simp [State.setPlane]
@[simp] theorem State.setPlane_tack (s : State) (p : PlaneId) (x : Plane) : (s.setPlane p x).tack = s.tack := by simp [State.setPlane]
@[simp] theorem State.setPlane_plans (s : State) (p : PlaneId) (x : Plane) : (s.setPlane p x).plans = s.plans := by simp [State.setPlane]
@[simp] theorem State.setPlane_tasks (s : State) (p : PlaneId) (x : Plane) : (s.setPlane p x).tasks = s.tasks := by simp [State.setPlane]
@[simp] theorem State.setPlane_waiting (s : State) (p : PlaneId) (x : Plane) : (s.setPlane p x).waiting = s.waiting := by simp [State.setPlane]
@[simp] theorem State.setPlane_saves (s : State) (p : PlaneId) (x : Plane) : (s.setPlane p x).saves = s.saves := by simp [State.setPlane]
@[simp] theorem State.setPlane_edges (s : State) (p : PlaneId) (x : Plane) : (s.setPlane p x).edges = s.edges := by simp [State.setPlane]
@[simp] theorem State.setPlane_flithe (s : State) (p : PlaneId) (x : Plane) : (s.setPlane p x).flithe = s.flithe := by simp [State.setPlane]
@[simp] theorem State.setPlane_link (s : State) (p : PlaneId) (x : Plane) : (s.setPlane p x).link = s.link := by simp [State.setPlane]
@[simp] theorem State.setPlane_sent (s : State) (p : PlaneId) (x : Plane) : (s.setPlane p x).sent = s.sent := by simp [State.setPlane]
@[simp] theorem State.setPlane_nextId (s : State) (p : PlaneId) (x : Plane) : (s.setPlane p x).nextId = s.nextId := by simp [State.setPlane]
@[simp] theorem State.setPlane_fresh (s : State) (p : PlaneId) (x : Plane) : (s.setPlane p x).fresh = s.fresh := by simp [State.setPlane]
@[simp] theorem State.setPlane_arg (s : State) (p : PlaneId) (x : Plane) : (s.setPlane p x).arg = s.arg := by simp [State.setPlane]
@[simp] theorem State.setPlane_cursor (s : State) (p : PlaneId) (x : Plane) : (s.setPlane p x).cursor = s.cursor := by simp [State.setPlane]
@[simp] theorem State.setPlane_agenda (s : State) (p : PlaneId) (x : Plane) : (s.setPlane p x).agenda = s.agenda := by simp [State.setPlane]

@[simp] theorem State.setCharged_cycle (s : State) (p : PlaneId) (k : Nat) (on : Bool) : (s.setCharged p k on).cycle = s.cycle := by simp [State.setCharged]
@[simp] theorem State.setCharged_timeRem (s : State) (p : PlaneId) (k : Nat) (on : Bool) : (s.setCharged p k on).timeRem = s.timeRem := by simp [State.setCharged]
@[simp] theorem State.setCharged_regs (s : State) (p : PlaneId) (k : Nat) (on : Bool) : (s.setCharged p k on).regs = s.regs := by simp [State.setCharged]
@[simp] theorem State.setCharged_ctxs (s : State) (p : PlaneId) (k : Nat) (on : Bool) : (s.setCharged p k on).ctxs = s.ctxs := by simp [State.setCharged]
@[simp] theorem State.setCharged_firmware (s : State) (p : PlaneId) (k : Nat) (on : Bool) : (s.setCharged p k on).firmware = s.firmware := by simp [State.setCharged]
@[simp] theorem State.setCharged_tileGov (s : State) (p : PlaneId) (k : Nat) (on : Bool) : (s.setCharged p k on).tileGov = s.tileGov := by simp [State.setCharged]
@[simp] theorem State.setCharged_dram (s : State) (p : PlaneId) (k : Nat) (on : Bool) : (s.setCharged p k on).dram = s.dram := by simp [State.setCharged]
@[simp] theorem State.setCharged_host (s : State) (p : PlaneId) (k : Nat) (on : Bool) : (s.setCharged p k on).host = s.host := by simp [State.setCharged]
@[simp] theorem State.setCharged_store (s : State) (p : PlaneId) (k : Nat) (on : Bool) : (s.setCharged p k on).store = s.store := by simp [State.setCharged]
@[simp] theorem State.setCharged_copies (s : State) (p : PlaneId) (k : Nat) (on : Bool) : (s.setCharged p k on).copies = s.copies := by simp [State.setCharged]
@[simp] theorem State.setCharged_tlbs (s : State) (p : PlaneId) (k : Nat) (on : Bool) : (s.setCharged p k on).tlbs = s.tlbs := by simp [State.setCharged]
@[simp] theorem State.setCharged_walks (s : State) (p : PlaneId) (k : Nat) (on : Bool) : (s.setCharged p k on).walks = s.walks := by simp [State.setCharged]
@[simp] theorem State.setCharged_slotsHbm (s : State) (p : PlaneId) (k : Nat) (on : Bool) : (s.setCharged p k on).slotsHbm = s.slotsHbm := by simp [State.setCharged]
@[simp] theorem State.setCharged_slotsLp (s : State) (p : PlaneId) (k : Nat) (on : Bool) : (s.setCharged p k on).slotsLp = s.slotsLp := by simp [State.setCharged]
@[simp] theorem State.setCharged_caches (s : State) (p : PlaneId) (k : Nat) (on : Bool) : (s.setCharged p k on).caches = s.caches := by simp [State.setCharged]
@[simp] theorem State.setCharged_slotQueues (s : State) (p : PlaneId) (k : Nat) (on : Bool) : (s.setCharged p k on).slotQueues = s.slotQueues := by simp [State.setCharged]
@[simp] theorem State.setCharged_ports (s : State) (p : PlaneId) (k : Nat) (on : Bool) : (s.setCharged p k on).ports = s.ports := by simp [State.setCharged]
@[simp] theorem State.setCharged_tack (s : State) (p : PlaneId) (k : Nat) (on : Bool) : (s.setCharged p k on).tack = s.tack := by simp [State.setCharged]
@[simp] theorem State.setCharged_plans (s : State) (p : PlaneId) (k : Nat) (on : Bool) : (s.setCharged p k on).plans = s.plans := by simp [State.setCharged]
@[simp] theorem State.setCharged_tasks (s : State) (p : PlaneId) (k : Nat) (on : Bool) : (s.setCharged p k on).tasks = s.tasks := by simp [State.setCharged]
@[simp] theorem State.setCharged_waiting (s : State) (p : PlaneId) (k : Nat) (on : Bool) : (s.setCharged p k on).waiting = s.waiting := by simp [State.setCharged]
@[simp] theorem State.setCharged_saves (s : State) (p : PlaneId) (k : Nat) (on : Bool) : (s.setCharged p k on).saves = s.saves := by simp [State.setCharged]
@[simp] theorem State.setCharged_edges (s : State) (p : PlaneId) (k : Nat) (on : Bool) : (s.setCharged p k on).edges = s.edges := by simp [State.setCharged]
@[simp] theorem State.setCharged_flithe (s : State) (p : PlaneId) (k : Nat) (on : Bool) : (s.setCharged p k on).flithe = s.flithe := by simp [State.setCharged]
@[simp] theorem State.setCharged_link (s : State) (p : PlaneId) (k : Nat) (on : Bool) : (s.setCharged p k on).link = s.link := by simp [State.setCharged]
@[simp] theorem State.setCharged_sent (s : State) (p : PlaneId) (k : Nat) (on : Bool) : (s.setCharged p k on).sent = s.sent := by simp [State.setCharged]
@[simp] theorem State.setCharged_nextId (s : State) (p : PlaneId) (k : Nat) (on : Bool) : (s.setCharged p k on).nextId = s.nextId := by simp [State.setCharged]
@[simp] theorem State.setCharged_fresh (s : State) (p : PlaneId) (k : Nat) (on : Bool) : (s.setCharged p k on).fresh = s.fresh := by simp [State.setCharged]
@[simp] theorem State.setCharged_arg (s : State) (p : PlaneId) (k : Nat) (on : Bool) : (s.setCharged p k on).arg = s.arg := by simp [State.setCharged]
@[simp] theorem State.setCharged_cursor (s : State) (p : PlaneId) (k : Nat) (on : Bool) : (s.setCharged p k on).cursor = s.cursor := by simp [State.setCharged]
@[simp] theorem State.setCharged_agenda (s : State) (p : PlaneId) (k : Nat) (on : Bool) : (s.setCharged p k on).agenda = s.agenda := by simp [State.setCharged]

@[simp] theorem State.chargeTask_cycle (s : State) (p : PlaneId) (k : Nat) (on : Bool) : (s.chargeTask p k on).cycle = s.cycle := by simp [State.chargeTask]
@[simp] theorem State.chargeTask_timeRem (s : State) (p : PlaneId) (k : Nat) (on : Bool) : (s.chargeTask p k on).timeRem = s.timeRem := by simp [State.chargeTask]
@[simp] theorem State.chargeTask_regs (s : State) (p : PlaneId) (k : Nat) (on : Bool) : (s.chargeTask p k on).regs = s.regs := by simp [State.chargeTask]
@[simp] theorem State.chargeTask_ctxs (s : State) (p : PlaneId) (k : Nat) (on : Bool) : (s.chargeTask p k on).ctxs = s.ctxs := by simp [State.chargeTask]
@[simp] theorem State.chargeTask_firmware (s : State) (p : PlaneId) (k : Nat) (on : Bool) : (s.chargeTask p k on).firmware = s.firmware := by simp [State.chargeTask]
@[simp] theorem State.chargeTask_tileGov (s : State) (p : PlaneId) (k : Nat) (on : Bool) : (s.chargeTask p k on).tileGov = s.tileGov := by simp [State.chargeTask]
@[simp] theorem State.chargeTask_dram (s : State) (p : PlaneId) (k : Nat) (on : Bool) : (s.chargeTask p k on).dram = s.dram := by simp [State.chargeTask]
@[simp] theorem State.chargeTask_host (s : State) (p : PlaneId) (k : Nat) (on : Bool) : (s.chargeTask p k on).host = s.host := by simp [State.chargeTask]
@[simp] theorem State.chargeTask_store (s : State) (p : PlaneId) (k : Nat) (on : Bool) : (s.chargeTask p k on).store = s.store := by simp [State.chargeTask]
@[simp] theorem State.chargeTask_copies (s : State) (p : PlaneId) (k : Nat) (on : Bool) : (s.chargeTask p k on).copies = s.copies := by simp [State.chargeTask]
@[simp] theorem State.chargeTask_tlbs (s : State) (p : PlaneId) (k : Nat) (on : Bool) : (s.chargeTask p k on).tlbs = s.tlbs := by simp [State.chargeTask]
@[simp] theorem State.chargeTask_walks (s : State) (p : PlaneId) (k : Nat) (on : Bool) : (s.chargeTask p k on).walks = s.walks := by simp [State.chargeTask]
@[simp] theorem State.chargeTask_slotsHbm (s : State) (p : PlaneId) (k : Nat) (on : Bool) : (s.chargeTask p k on).slotsHbm = s.slotsHbm := by simp [State.chargeTask]
@[simp] theorem State.chargeTask_slotsLp (s : State) (p : PlaneId) (k : Nat) (on : Bool) : (s.chargeTask p k on).slotsLp = s.slotsLp := by simp [State.chargeTask]
@[simp] theorem State.chargeTask_caches (s : State) (p : PlaneId) (k : Nat) (on : Bool) : (s.chargeTask p k on).caches = s.caches := by simp [State.chargeTask]
@[simp] theorem State.chargeTask_slotQueues (s : State) (p : PlaneId) (k : Nat) (on : Bool) : (s.chargeTask p k on).slotQueues = s.slotQueues := by simp [State.chargeTask]
@[simp] theorem State.chargeTask_ports (s : State) (p : PlaneId) (k : Nat) (on : Bool) : (s.chargeTask p k on).ports = s.ports := by simp [State.chargeTask]
@[simp] theorem State.chargeTask_tack (s : State) (p : PlaneId) (k : Nat) (on : Bool) : (s.chargeTask p k on).tack = s.tack := by simp [State.chargeTask]
@[simp] theorem State.chargeTask_plans (s : State) (p : PlaneId) (k : Nat) (on : Bool) : (s.chargeTask p k on).plans = s.plans := by simp [State.chargeTask]
@[simp] theorem State.chargeTask_tasks (s : State) (p : PlaneId) (k : Nat) (on : Bool) : (s.chargeTask p k on).tasks = s.tasks := by simp [State.chargeTask]
@[simp] theorem State.chargeTask_waiting (s : State) (p : PlaneId) (k : Nat) (on : Bool) : (s.chargeTask p k on).waiting = s.waiting := by simp [State.chargeTask]
@[simp] theorem State.chargeTask_saves (s : State) (p : PlaneId) (k : Nat) (on : Bool) : (s.chargeTask p k on).saves = s.saves := by simp [State.chargeTask]
@[simp] theorem State.chargeTask_edges (s : State) (p : PlaneId) (k : Nat) (on : Bool) : (s.chargeTask p k on).edges = s.edges := by simp [State.chargeTask]
@[simp] theorem State.chargeTask_flithe (s : State) (p : PlaneId) (k : Nat) (on : Bool) : (s.chargeTask p k on).flithe = s.flithe := by simp [State.chargeTask]
@[simp] theorem State.chargeTask_link (s : State) (p : PlaneId) (k : Nat) (on : Bool) : (s.chargeTask p k on).link = s.link := by simp [State.chargeTask]
@[simp] theorem State.chargeTask_sent (s : State) (p : PlaneId) (k : Nat) (on : Bool) : (s.chargeTask p k on).sent = s.sent := by simp [State.chargeTask]
@[simp] theorem State.chargeTask_nextId (s : State) (p : PlaneId) (k : Nat) (on : Bool) : (s.chargeTask p k on).nextId = s.nextId := by simp [State.chargeTask]
@[simp] theorem State.chargeTask_fresh (s : State) (p : PlaneId) (k : Nat) (on : Bool) : (s.chargeTask p k on).fresh = s.fresh := by simp [State.chargeTask]
@[simp] theorem State.chargeTask_arg (s : State) (p : PlaneId) (k : Nat) (on : Bool) : (s.chargeTask p k on).arg = s.arg := by simp [State.chargeTask]
@[simp] theorem State.chargeTask_cursor (s : State) (p : PlaneId) (k : Nat) (on : Bool) : (s.chargeTask p k on).cursor = s.cursor := by simp [State.chargeTask]
@[simp] theorem State.chargeTask_agenda (s : State) (p : PlaneId) (k : Nat) (on : Bool) : (s.chargeTask p k on).agenda = s.agenda := by simp [State.chargeTask]

@[simp] theorem State.tlbPut_cycle (s : State) (k : Nat) (e : TlbEntry) : (s.tlbPut k e).cycle = s.cycle := rfl
@[simp] theorem State.tlbPut_timeRem (s : State) (k : Nat) (e : TlbEntry) : (s.tlbPut k e).timeRem = s.timeRem := rfl
@[simp] theorem State.tlbPut_regs (s : State) (k : Nat) (e : TlbEntry) : (s.tlbPut k e).regs = s.regs := rfl
@[simp] theorem State.tlbPut_ctxs (s : State) (k : Nat) (e : TlbEntry) : (s.tlbPut k e).ctxs = s.ctxs := rfl
@[simp] theorem State.tlbPut_firmware (s : State) (k : Nat) (e : TlbEntry) : (s.tlbPut k e).firmware = s.firmware := rfl
@[simp] theorem State.tlbPut_pads (s : State) (k : Nat) (e : TlbEntry) : (s.tlbPut k e).pads = s.pads := rfl
@[simp] theorem State.tlbPut_tileGov (s : State) (k : Nat) (e : TlbEntry) : (s.tlbPut k e).tileGov = s.tileGov := rfl
@[simp] theorem State.tlbPut_dram (s : State) (k : Nat) (e : TlbEntry) : (s.tlbPut k e).dram = s.dram := rfl
@[simp] theorem State.tlbPut_host (s : State) (k : Nat) (e : TlbEntry) : (s.tlbPut k e).host = s.host := rfl
@[simp] theorem State.tlbPut_store (s : State) (k : Nat) (e : TlbEntry) : (s.tlbPut k e).store = s.store := rfl
@[simp] theorem State.tlbPut_copies (s : State) (k : Nat) (e : TlbEntry) : (s.tlbPut k e).copies = s.copies := rfl
@[simp] theorem State.tlbPut_walks (s : State) (k : Nat) (e : TlbEntry) : (s.tlbPut k e).walks = s.walks := rfl
@[simp] theorem State.tlbPut_slotsHbm (s : State) (k : Nat) (e : TlbEntry) : (s.tlbPut k e).slotsHbm = s.slotsHbm := rfl
@[simp] theorem State.tlbPut_slotsLp (s : State) (k : Nat) (e : TlbEntry) : (s.tlbPut k e).slotsLp = s.slotsLp := rfl
@[simp] theorem State.tlbPut_caches (s : State) (k : Nat) (e : TlbEntry) : (s.tlbPut k e).caches = s.caches := rfl
@[simp] theorem State.tlbPut_slotQueues (s : State) (k : Nat) (e : TlbEntry) : (s.tlbPut k e).slotQueues = s.slotQueues := rfl
@[simp] theorem State.tlbPut_ports (s : State) (k : Nat) (e : TlbEntry) : (s.tlbPut k e).ports = s.ports := rfl
@[simp] theorem State.tlbPut_tack (s : State) (k : Nat) (e : TlbEntry) : (s.tlbPut k e).tack = s.tack := rfl
@[simp] theorem State.tlbPut_plans (s : State) (k : Nat) (e : TlbEntry) : (s.tlbPut k e).plans = s.plans := rfl
@[simp] theorem State.tlbPut_tasks (s : State) (k : Nat) (e : TlbEntry) : (s.tlbPut k e).tasks = s.tasks := rfl
@[simp] theorem State.tlbPut_waiting (s : State) (k : Nat) (e : TlbEntry) : (s.tlbPut k e).waiting = s.waiting := rfl
@[simp] theorem State.tlbPut_saves (s : State) (k : Nat) (e : TlbEntry) : (s.tlbPut k e).saves = s.saves := rfl
@[simp] theorem State.tlbPut_edges (s : State) (k : Nat) (e : TlbEntry) : (s.tlbPut k e).edges = s.edges := rfl
@[simp] theorem State.tlbPut_flithe (s : State) (k : Nat) (e : TlbEntry) : (s.tlbPut k e).flithe = s.flithe := rfl
@[simp] theorem State.tlbPut_link (s : State) (k : Nat) (e : TlbEntry) : (s.tlbPut k e).link = s.link := rfl
@[simp] theorem State.tlbPut_sent (s : State) (k : Nat) (e : TlbEntry) : (s.tlbPut k e).sent = s.sent := rfl
@[simp] theorem State.tlbPut_nextId (s : State) (k : Nat) (e : TlbEntry) : (s.tlbPut k e).nextId = s.nextId := rfl
@[simp] theorem State.tlbPut_fresh (s : State) (k : Nat) (e : TlbEntry) : (s.tlbPut k e).fresh = s.fresh := rfl
@[simp] theorem State.tlbPut_arg (s : State) (k : Nat) (e : TlbEntry) : (s.tlbPut k e).arg = s.arg := rfl
@[simp] theorem State.tlbPut_cursor (s : State) (k : Nat) (e : TlbEntry) : (s.tlbPut k e).cursor = s.cursor := rfl
@[simp] theorem State.tlbPut_agenda (s : State) (k : Nat) (e : TlbEntry) : (s.tlbPut k e).agenda = s.agenda := rfl

@[simp] theorem State.holdCopy_cycle (s : State) (c : HostCopy) : (s.holdCopy c).cycle = s.cycle := rfl
@[simp] theorem State.holdCopy_timeRem (s : State) (c : HostCopy) : (s.holdCopy c).timeRem = s.timeRem := rfl
@[simp] theorem State.holdCopy_regs (s : State) (c : HostCopy) : (s.holdCopy c).regs = s.regs := rfl
@[simp] theorem State.holdCopy_ctxs (s : State) (c : HostCopy) : (s.holdCopy c).ctxs = s.ctxs := rfl
@[simp] theorem State.holdCopy_firmware (s : State) (c : HostCopy) : (s.holdCopy c).firmware = s.firmware := rfl
@[simp] theorem State.holdCopy_pads (s : State) (c : HostCopy) : (s.holdCopy c).pads = s.pads := rfl
@[simp] theorem State.holdCopy_tileGov (s : State) (c : HostCopy) : (s.holdCopy c).tileGov = s.tileGov := rfl
@[simp] theorem State.holdCopy_dram (s : State) (c : HostCopy) : (s.holdCopy c).dram = s.dram := rfl
@[simp] theorem State.holdCopy_host (s : State) (c : HostCopy) : (s.holdCopy c).host = s.host := rfl
@[simp] theorem State.holdCopy_store (s : State) (c : HostCopy) : (s.holdCopy c).store = s.store := rfl
@[simp] theorem State.holdCopy_tlbs (s : State) (c : HostCopy) : (s.holdCopy c).tlbs = s.tlbs := rfl
@[simp] theorem State.holdCopy_walks (s : State) (c : HostCopy) : (s.holdCopy c).walks = s.walks := rfl
@[simp] theorem State.holdCopy_slotsHbm (s : State) (c : HostCopy) : (s.holdCopy c).slotsHbm = s.slotsHbm := rfl
@[simp] theorem State.holdCopy_slotsLp (s : State) (c : HostCopy) : (s.holdCopy c).slotsLp = s.slotsLp := rfl
@[simp] theorem State.holdCopy_caches (s : State) (c : HostCopy) : (s.holdCopy c).caches = s.caches := rfl
@[simp] theorem State.holdCopy_slotQueues (s : State) (c : HostCopy) : (s.holdCopy c).slotQueues = s.slotQueues := rfl
@[simp] theorem State.holdCopy_ports (s : State) (c : HostCopy) : (s.holdCopy c).ports = s.ports := rfl
@[simp] theorem State.holdCopy_tack (s : State) (c : HostCopy) : (s.holdCopy c).tack = s.tack := rfl
@[simp] theorem State.holdCopy_plans (s : State) (c : HostCopy) : (s.holdCopy c).plans = s.plans := rfl
@[simp] theorem State.holdCopy_tasks (s : State) (c : HostCopy) : (s.holdCopy c).tasks = s.tasks := rfl
@[simp] theorem State.holdCopy_waiting (s : State) (c : HostCopy) : (s.holdCopy c).waiting = s.waiting := rfl
@[simp] theorem State.holdCopy_saves (s : State) (c : HostCopy) : (s.holdCopy c).saves = s.saves := rfl
@[simp] theorem State.holdCopy_edges (s : State) (c : HostCopy) : (s.holdCopy c).edges = s.edges := rfl
@[simp] theorem State.holdCopy_flithe (s : State) (c : HostCopy) : (s.holdCopy c).flithe = s.flithe := rfl
@[simp] theorem State.holdCopy_link (s : State) (c : HostCopy) : (s.holdCopy c).link = s.link := rfl
@[simp] theorem State.holdCopy_sent (s : State) (c : HostCopy) : (s.holdCopy c).sent = s.sent := rfl
@[simp] theorem State.holdCopy_nextId (s : State) (c : HostCopy) : (s.holdCopy c).nextId = s.nextId := rfl
@[simp] theorem State.holdCopy_fresh (s : State) (c : HostCopy) : (s.holdCopy c).fresh = s.fresh := rfl
@[simp] theorem State.holdCopy_arg (s : State) (c : HostCopy) : (s.holdCopy c).arg = s.arg := rfl
@[simp] theorem State.holdCopy_cursor (s : State) (c : HostCopy) : (s.holdCopy c).cursor = s.cursor := rfl
@[simp] theorem State.holdCopy_agenda (s : State) (c : HostCopy) : (s.holdCopy c).agenda = s.agenda := rfl

@[simp] theorem State.leaveSlots_cycle (s : State) (w : SlotWaiter) : (s.leaveSlots w).cycle = s.cycle := rfl
@[simp] theorem State.leaveSlots_timeRem (s : State) (w : SlotWaiter) : (s.leaveSlots w).timeRem = s.timeRem := rfl
@[simp] theorem State.leaveSlots_regs (s : State) (w : SlotWaiter) : (s.leaveSlots w).regs = s.regs := rfl
@[simp] theorem State.leaveSlots_ctxs (s : State) (w : SlotWaiter) : (s.leaveSlots w).ctxs = s.ctxs := rfl
@[simp] theorem State.leaveSlots_firmware (s : State) (w : SlotWaiter) : (s.leaveSlots w).firmware = s.firmware := rfl
@[simp] theorem State.leaveSlots_pads (s : State) (w : SlotWaiter) : (s.leaveSlots w).pads = s.pads := rfl
@[simp] theorem State.leaveSlots_tileGov (s : State) (w : SlotWaiter) : (s.leaveSlots w).tileGov = s.tileGov := rfl
@[simp] theorem State.leaveSlots_dram (s : State) (w : SlotWaiter) : (s.leaveSlots w).dram = s.dram := rfl
@[simp] theorem State.leaveSlots_host (s : State) (w : SlotWaiter) : (s.leaveSlots w).host = s.host := rfl
@[simp] theorem State.leaveSlots_store (s : State) (w : SlotWaiter) : (s.leaveSlots w).store = s.store := rfl
@[simp] theorem State.leaveSlots_copies (s : State) (w : SlotWaiter) : (s.leaveSlots w).copies = s.copies := rfl
@[simp] theorem State.leaveSlots_tlbs (s : State) (w : SlotWaiter) : (s.leaveSlots w).tlbs = s.tlbs := rfl
@[simp] theorem State.leaveSlots_walks (s : State) (w : SlotWaiter) : (s.leaveSlots w).walks = s.walks := rfl
@[simp] theorem State.leaveSlots_slotsHbm (s : State) (w : SlotWaiter) : (s.leaveSlots w).slotsHbm = s.slotsHbm := rfl
@[simp] theorem State.leaveSlots_slotsLp (s : State) (w : SlotWaiter) : (s.leaveSlots w).slotsLp = s.slotsLp := rfl
@[simp] theorem State.leaveSlots_caches (s : State) (w : SlotWaiter) : (s.leaveSlots w).caches = s.caches := rfl
@[simp] theorem State.leaveSlots_ports (s : State) (w : SlotWaiter) : (s.leaveSlots w).ports = s.ports := rfl
@[simp] theorem State.leaveSlots_tack (s : State) (w : SlotWaiter) : (s.leaveSlots w).tack = s.tack := rfl
@[simp] theorem State.leaveSlots_plans (s : State) (w : SlotWaiter) : (s.leaveSlots w).plans = s.plans := rfl
@[simp] theorem State.leaveSlots_tasks (s : State) (w : SlotWaiter) : (s.leaveSlots w).tasks = s.tasks := rfl
@[simp] theorem State.leaveSlots_waiting (s : State) (w : SlotWaiter) : (s.leaveSlots w).waiting = s.waiting := rfl
@[simp] theorem State.leaveSlots_saves (s : State) (w : SlotWaiter) : (s.leaveSlots w).saves = s.saves := rfl
@[simp] theorem State.leaveSlots_edges (s : State) (w : SlotWaiter) : (s.leaveSlots w).edges = s.edges := rfl
@[simp] theorem State.leaveSlots_flithe (s : State) (w : SlotWaiter) : (s.leaveSlots w).flithe = s.flithe := rfl
@[simp] theorem State.leaveSlots_link (s : State) (w : SlotWaiter) : (s.leaveSlots w).link = s.link := rfl
@[simp] theorem State.leaveSlots_sent (s : State) (w : SlotWaiter) : (s.leaveSlots w).sent = s.sent := rfl
@[simp] theorem State.leaveSlots_nextId (s : State) (w : SlotWaiter) : (s.leaveSlots w).nextId = s.nextId := rfl
@[simp] theorem State.leaveSlots_fresh (s : State) (w : SlotWaiter) : (s.leaveSlots w).fresh = s.fresh := rfl
@[simp] theorem State.leaveSlots_arg (s : State) (w : SlotWaiter) : (s.leaveSlots w).arg = s.arg := rfl
@[simp] theorem State.leaveSlots_cursor (s : State) (w : SlotWaiter) : (s.leaveSlots w).cursor = s.cursor := rfl
@[simp] theorem State.leaveSlots_agenda (s : State) (w : SlotWaiter) : (s.leaveSlots w).agenda = s.agenda := rfl

/-- A context reads back as it was set. -/
@[simp] theorem State.ctx_setCtx_same (s : State) (c : Nat) (x : Ctx) : (s.setCtx c x).ctx c = x := by
  simp [State.ctx, State.setCtx]
@[simp] theorem State.ctx_setCtx_other (s : State) {c d : Nat} (x : Ctx) (h : d ≠ c) : (s.setCtx c x).ctx d = s.ctx d := by
  simp [State.ctx, State.setCtx, h]
@[simp] theorem State.ctx_modCtx_same (s : State) (c : Nat) (f : Ctx → Ctx) : (s.modCtx c f).ctx c = f (s.ctx c) := by
  simp [State.modCtx]
@[simp] theorem State.ctx_modCtx_other (s : State) {c d : Nat} (f : Ctx → Ctx) (h : d ≠ c) : (s.modCtx c f).ctx d = s.ctx d := by
  simp [State.modCtx, h]

/-- A plane after an update of it. -/
@[simp] theorem State.plane_modPlane_same (s : State) (p : PlaneId) (f : Plane → Plane) :
    (s.modPlane p f).plane? p = (s.plane? p).map f := by
  unfold State.modPlane State.plane?
  cases h : mapGet s.pads p.pad <;> simp [h]

/-- A plane after an update of another. -/
@[simp] theorem State.plane_modPlane_other (s : State) {p q : PlaneId} (f : Plane → Plane) (h : q ≠ p) :
    (s.modPlane p f).plane? q = s.plane? q := by
  unfold State.modPlane State.plane?
  cases hp : mapGet s.pads p.pad with
  | none => simp
  | some d =>
    by_cases e : q.pad = p.pad
    · have : q.plane ≠ p.plane := fun x => h (by cases p; cases q; simp_all)
      simp [e, hp, this]
    · simp [e]

@[simp] theorem State.plane_setPlane_same (s : State) (p : PlaneId) (x : Plane) :
    (s.setPlane p x).plane? p = (s.plane? p).map fun _ => x := by simp [State.setPlane]
@[simp] theorem State.plane_setPlane_other (s : State) {p q : PlaneId} (x : Plane) (h : q ≠ p) :
    (s.setPlane p x).plane? q = s.plane? q := by simp [State.setPlane, h]

@[simp] theorem State.ctx_modPlane (s : State) (p : PlaneId) (f : Plane → Plane) (c : Nat) : (s.modPlane p f).ctx c = s.ctx c := by
  simp [State.ctx]

/-! ## Planes -/

@[simp] theorem Plane.modNode_st (pl : Plane) (i : Nat) (f : Node → Node) : (pl.modNode i f).st = pl.st := rfl
@[simp] theorem Plane.modNode_before (pl : Plane) (i : Nat) (f : Node → Node) : (pl.modNode i f).before = pl.before := rfl
@[simp] theorem Plane.modNode_ctx (pl : Plane) (i : Nat) (f : Node → Node) : (pl.modNode i f).ctx = pl.ctx := rfl
@[simp] theorem Plane.modNode_colour (pl : Plane) (i : Nat) (f : Node → Node) : (pl.modNode i f).colour = pl.colour := rfl
@[simp] theorem Plane.modNode_entry (pl : Plane) (i : Nat) (f : Node → Node) : (pl.modNode i f).entry = pl.entry := rfl
@[simp] theorem Plane.modNode_writes (pl : Plane) (i : Nat) (f : Node → Node) : (pl.modNode i f).writes = pl.writes := rfl
@[simp] theorem Plane.modNode_handler (pl : Plane) (i : Nat) (f : Node → Node) : (pl.modNode i f).handler = pl.handler := rfl
@[simp] theorem Plane.modNode_prio (pl : Plane) (i : Nat) (f : Node → Node) : (pl.modNode i f).prio = pl.prio := rfl
@[simp] theorem Plane.modNode_seed (pl : Plane) (i : Nat) (f : Node → Node) : (pl.modNode i f).seed = pl.seed := rfl
@[simp] theorem Plane.modNode_cap (pl : Plane) (i : Nat) (f : Node → Node) : (pl.modNode i f).cap = pl.cap := rfl
@[simp] theorem Plane.modNode_pes (pl : Plane) (i : Nat) (f : Node → Node) : (pl.modNode i f).pes = pl.pes := rfl
@[simp] theorem Plane.modNode_tiles (pl : Plane) (i : Nat) (f : Node → Node) : (pl.modNode i f).tiles = pl.tiles := rfl
@[simp] theorem Plane.modNode_sram (pl : Plane) (i : Nat) (f : Node → Node) : (pl.modNode i f).sram = pl.sram := rfl
@[simp] theorem Plane.modNode_full (pl : Plane) (i : Nat) (f : Node → Node) : (pl.modNode i f).full = pl.full := rfl
@[simp] theorem Plane.modNode_fifos (pl : Plane) (i : Nat) (f : Node → Node) : (pl.modNode i f).fifos = pl.fifos := rfl
@[simp] theorem Plane.modNode_lbufs (pl : Plane) (i : Nat) (f : Node → Node) : (pl.modNode i f).lbufs = pl.lbufs := rfl
@[simp] theorem Plane.modNode_rounds (pl : Plane) (i : Nat) (f : Node → Node) : (pl.modNode i f).rounds = pl.rounds := rfl
@[simp] theorem Plane.modNode_servers (pl : Plane) (i : Nat) (f : Node → Node) : (pl.modNode i f).servers = pl.servers := rfl
@[simp] theorem Plane.modNode_flags (pl : Plane) (i : Nat) (f : Node → Node) : (pl.modNode i f).flags = pl.flags := rfl
@[simp] theorem Plane.modNode_issued (pl : Plane) (i : Nat) (f : Node → Node) : (pl.modNode i f).issued = pl.issued := rfl
@[simp] theorem Plane.modNode_reqs (pl : Plane) (i : Nat) (f : Node → Node) : (pl.modNode i f).reqs = pl.reqs := rfl
@[simp] theorem Plane.modNode_faults (pl : Plane) (i : Nat) (f : Node → Node) : (pl.modNode i f).faults = pl.faults := rfl
@[simp] theorem Plane.modNode_freezeAt (pl : Plane) (i : Nat) (f : Node → Node) : (pl.modNode i f).freezeAt = pl.freezeAt := rfl
@[simp] theorem Plane.modNode_froze (pl : Plane) (i : Nat) (f : Node → Node) : (pl.modNode i f).froze = pl.froze := rfl
@[simp] theorem Plane.modNode_resuming (pl : Plane) (i : Nat) (f : Node → Node) : (pl.modNode i f).resuming = pl.resuming := rfl
@[simp] theorem Plane.modNode_shown (pl : Plane) (i : Nat) (f : Node → Node) : (pl.modNode i f).shown = pl.shown := rfl
@[simp] theorem Plane.modNode_record (pl : Plane) (i : Nat) (f : Node → Node) : (pl.modNode i f).record = pl.record := rfl
@[simp] theorem Plane.modNode_watchdog (pl : Plane) (i : Nat) (f : Node → Node) : (pl.modNode i f).watchdog = pl.watchdog := rfl
@[simp] theorem Plane.modNode_reload (pl : Plane) (i : Nat) (f : Node → Node) : (pl.modNode i f).reload = pl.reload := rfl
@[simp] theorem Plane.modNode_claimed (pl : Plane) (i : Nat) (f : Node → Node) : (pl.modNode i f).claimed = pl.claimed := rfl
@[simp] theorem Plane.modNode_pages (pl : Plane) (i : Nat) (f : Node → Node) : (pl.modNode i f).pages = pl.pages := rfl
@[simp] theorem Plane.modNode_stay (pl : Plane) (i : Nat) (f : Node → Node) : (pl.modNode i f).stay = pl.stay := rfl
@[simp] theorem Plane.modNode_bound (pl : Plane) (i : Nat) (f : Node → Node) : (pl.modNode i f).bound = pl.bound := rfl
@[simp] theorem Plane.modNode_abandon (pl : Plane) (i : Nat) (f : Node → Node) : (pl.modNode i f).abandon = pl.abandon := rfl
@[simp] theorem Plane.modNode_args (pl : Plane) (i : Nat) (f : Node → Node) : (pl.modNode i f).args = pl.args := rfl
@[simp] theorem Plane.modNode_slots (pl : Plane) (i : Nat) (f : Node → Node) : (pl.modNode i f).slots = pl.slots := rfl
@[simp] theorem Plane.modNode_kib (pl : Plane) (i : Nat) (f : Node → Node) : (pl.modNode i f).kib = pl.kib := rfl
@[simp] theorem Plane.modNode_result (pl : Plane) (i : Nat) (f : Node → Node) : (pl.modNode i f).result = pl.result := rfl
@[simp] theorem Plane.modNode_active (pl : Plane) (i : Nat) (f : Node → Node) : (pl.modNode i f).active = pl.active := rfl
@[simp] theorem Plane.modNode_level (pl : Plane) (i : Nat) (f : Node → Node) : (pl.modNode i f).level = pl.level := rfl
@[simp] theorem Plane.modNode_waited (pl : Plane) (i : Nat) (f : Node → Node) : (pl.modNode i f).waited = pl.waited := rfl
@[simp] theorem Plane.modNode_grants (pl : Plane) (i : Nat) (f : Node → Node) : (pl.modNode i f).grants = pl.grants := rfl

@[simp] theorem Plane.modPe_st (pl : Plane) (i : Nat) (f : TaskPe → TaskPe) : (pl.modPe i f).st = pl.st := rfl
@[simp] theorem Plane.modPe_before (pl : Plane) (i : Nat) (f : TaskPe → TaskPe) : (pl.modPe i f).before = pl.before := rfl
@[simp] theorem Plane.modPe_ctx (pl : Plane) (i : Nat) (f : TaskPe → TaskPe) : (pl.modPe i f).ctx = pl.ctx := rfl
@[simp] theorem Plane.modPe_colour (pl : Plane) (i : Nat) (f : TaskPe → TaskPe) : (pl.modPe i f).colour = pl.colour := rfl
@[simp] theorem Plane.modPe_entry (pl : Plane) (i : Nat) (f : TaskPe → TaskPe) : (pl.modPe i f).entry = pl.entry := rfl
@[simp] theorem Plane.modPe_writes (pl : Plane) (i : Nat) (f : TaskPe → TaskPe) : (pl.modPe i f).writes = pl.writes := rfl
@[simp] theorem Plane.modPe_handler (pl : Plane) (i : Nat) (f : TaskPe → TaskPe) : (pl.modPe i f).handler = pl.handler := rfl
@[simp] theorem Plane.modPe_prio (pl : Plane) (i : Nat) (f : TaskPe → TaskPe) : (pl.modPe i f).prio = pl.prio := rfl
@[simp] theorem Plane.modPe_seed (pl : Plane) (i : Nat) (f : TaskPe → TaskPe) : (pl.modPe i f).seed = pl.seed := rfl
@[simp] theorem Plane.modPe_cap (pl : Plane) (i : Nat) (f : TaskPe → TaskPe) : (pl.modPe i f).cap = pl.cap := rfl
@[simp] theorem Plane.modPe_nodes (pl : Plane) (i : Nat) (f : TaskPe → TaskPe) : (pl.modPe i f).nodes = pl.nodes := rfl
@[simp] theorem Plane.modPe_tiles (pl : Plane) (i : Nat) (f : TaskPe → TaskPe) : (pl.modPe i f).tiles = pl.tiles := rfl
@[simp] theorem Plane.modPe_sram (pl : Plane) (i : Nat) (f : TaskPe → TaskPe) : (pl.modPe i f).sram = pl.sram := rfl
@[simp] theorem Plane.modPe_full (pl : Plane) (i : Nat) (f : TaskPe → TaskPe) : (pl.modPe i f).full = pl.full := rfl
@[simp] theorem Plane.modPe_fifos (pl : Plane) (i : Nat) (f : TaskPe → TaskPe) : (pl.modPe i f).fifos = pl.fifos := rfl
@[simp] theorem Plane.modPe_lbufs (pl : Plane) (i : Nat) (f : TaskPe → TaskPe) : (pl.modPe i f).lbufs = pl.lbufs := rfl
@[simp] theorem Plane.modPe_rounds (pl : Plane) (i : Nat) (f : TaskPe → TaskPe) : (pl.modPe i f).rounds = pl.rounds := rfl
@[simp] theorem Plane.modPe_servers (pl : Plane) (i : Nat) (f : TaskPe → TaskPe) : (pl.modPe i f).servers = pl.servers := rfl
@[simp] theorem Plane.modPe_flags (pl : Plane) (i : Nat) (f : TaskPe → TaskPe) : (pl.modPe i f).flags = pl.flags := rfl
@[simp] theorem Plane.modPe_issued (pl : Plane) (i : Nat) (f : TaskPe → TaskPe) : (pl.modPe i f).issued = pl.issued := rfl
@[simp] theorem Plane.modPe_reqs (pl : Plane) (i : Nat) (f : TaskPe → TaskPe) : (pl.modPe i f).reqs = pl.reqs := rfl
@[simp] theorem Plane.modPe_faults (pl : Plane) (i : Nat) (f : TaskPe → TaskPe) : (pl.modPe i f).faults = pl.faults := rfl
@[simp] theorem Plane.modPe_freezeAt (pl : Plane) (i : Nat) (f : TaskPe → TaskPe) : (pl.modPe i f).freezeAt = pl.freezeAt := rfl
@[simp] theorem Plane.modPe_froze (pl : Plane) (i : Nat) (f : TaskPe → TaskPe) : (pl.modPe i f).froze = pl.froze := rfl
@[simp] theorem Plane.modPe_resuming (pl : Plane) (i : Nat) (f : TaskPe → TaskPe) : (pl.modPe i f).resuming = pl.resuming := rfl
@[simp] theorem Plane.modPe_shown (pl : Plane) (i : Nat) (f : TaskPe → TaskPe) : (pl.modPe i f).shown = pl.shown := rfl
@[simp] theorem Plane.modPe_record (pl : Plane) (i : Nat) (f : TaskPe → TaskPe) : (pl.modPe i f).record = pl.record := rfl
@[simp] theorem Plane.modPe_watchdog (pl : Plane) (i : Nat) (f : TaskPe → TaskPe) : (pl.modPe i f).watchdog = pl.watchdog := rfl
@[simp] theorem Plane.modPe_reload (pl : Plane) (i : Nat) (f : TaskPe → TaskPe) : (pl.modPe i f).reload = pl.reload := rfl
@[simp] theorem Plane.modPe_claimed (pl : Plane) (i : Nat) (f : TaskPe → TaskPe) : (pl.modPe i f).claimed = pl.claimed := rfl
@[simp] theorem Plane.modPe_pages (pl : Plane) (i : Nat) (f : TaskPe → TaskPe) : (pl.modPe i f).pages = pl.pages := rfl
@[simp] theorem Plane.modPe_stay (pl : Plane) (i : Nat) (f : TaskPe → TaskPe) : (pl.modPe i f).stay = pl.stay := rfl
@[simp] theorem Plane.modPe_bound (pl : Plane) (i : Nat) (f : TaskPe → TaskPe) : (pl.modPe i f).bound = pl.bound := rfl
@[simp] theorem Plane.modPe_abandon (pl : Plane) (i : Nat) (f : TaskPe → TaskPe) : (pl.modPe i f).abandon = pl.abandon := rfl
@[simp] theorem Plane.modPe_args (pl : Plane) (i : Nat) (f : TaskPe → TaskPe) : (pl.modPe i f).args = pl.args := rfl
@[simp] theorem Plane.modPe_slots (pl : Plane) (i : Nat) (f : TaskPe → TaskPe) : (pl.modPe i f).slots = pl.slots := rfl
@[simp] theorem Plane.modPe_kib (pl : Plane) (i : Nat) (f : TaskPe → TaskPe) : (pl.modPe i f).kib = pl.kib := rfl
@[simp] theorem Plane.modPe_result (pl : Plane) (i : Nat) (f : TaskPe → TaskPe) : (pl.modPe i f).result = pl.result := rfl
@[simp] theorem Plane.modPe_active (pl : Plane) (i : Nat) (f : TaskPe → TaskPe) : (pl.modPe i f).active = pl.active := rfl
@[simp] theorem Plane.modPe_level (pl : Plane) (i : Nat) (f : TaskPe → TaskPe) : (pl.modPe i f).level = pl.level := rfl
@[simp] theorem Plane.modPe_waited (pl : Plane) (i : Nat) (f : TaskPe → TaskPe) : (pl.modPe i f).waited = pl.waited := rfl
@[simp] theorem Plane.modPe_grants (pl : Plane) (i : Nat) (f : TaskPe → TaskPe) : (pl.modPe i f).grants = pl.grants := rfl

@[simp] theorem Plane.modDest_st (pl : Plane) (d : Dest) (f : Queue → Queue) : (pl.modDest d f).st = pl.st := by cases d <;> rfl
@[simp] theorem Plane.modDest_before (pl : Plane) (d : Dest) (f : Queue → Queue) : (pl.modDest d f).before = pl.before := by cases d <;> rfl
@[simp] theorem Plane.modDest_ctx (pl : Plane) (d : Dest) (f : Queue → Queue) : (pl.modDest d f).ctx = pl.ctx := by cases d <;> rfl
@[simp] theorem Plane.modDest_colour (pl : Plane) (d : Dest) (f : Queue → Queue) : (pl.modDest d f).colour = pl.colour := by cases d <;> rfl
@[simp] theorem Plane.modDest_entry (pl : Plane) (d : Dest) (f : Queue → Queue) : (pl.modDest d f).entry = pl.entry := by cases d <;> rfl
@[simp] theorem Plane.modDest_writes (pl : Plane) (d : Dest) (f : Queue → Queue) : (pl.modDest d f).writes = pl.writes := by cases d <;> rfl
@[simp] theorem Plane.modDest_handler (pl : Plane) (d : Dest) (f : Queue → Queue) : (pl.modDest d f).handler = pl.handler := by cases d <;> rfl
@[simp] theorem Plane.modDest_prio (pl : Plane) (d : Dest) (f : Queue → Queue) : (pl.modDest d f).prio = pl.prio := by cases d <;> rfl
@[simp] theorem Plane.modDest_seed (pl : Plane) (d : Dest) (f : Queue → Queue) : (pl.modDest d f).seed = pl.seed := by cases d <;> rfl
@[simp] theorem Plane.modDest_cap (pl : Plane) (d : Dest) (f : Queue → Queue) : (pl.modDest d f).cap = pl.cap := by cases d <;> rfl
@[simp] theorem Plane.modDest_tiles (pl : Plane) (d : Dest) (f : Queue → Queue) : (pl.modDest d f).tiles = pl.tiles := by cases d <;> rfl
@[simp] theorem Plane.modDest_sram (pl : Plane) (d : Dest) (f : Queue → Queue) : (pl.modDest d f).sram = pl.sram := by cases d <;> rfl
@[simp] theorem Plane.modDest_full (pl : Plane) (d : Dest) (f : Queue → Queue) : (pl.modDest d f).full = pl.full := by cases d <;> rfl
@[simp] theorem Plane.modDest_fifos (pl : Plane) (d : Dest) (f : Queue → Queue) : (pl.modDest d f).fifos = pl.fifos := by cases d <;> rfl
@[simp] theorem Plane.modDest_lbufs (pl : Plane) (d : Dest) (f : Queue → Queue) : (pl.modDest d f).lbufs = pl.lbufs := by cases d <;> rfl
@[simp] theorem Plane.modDest_rounds (pl : Plane) (d : Dest) (f : Queue → Queue) : (pl.modDest d f).rounds = pl.rounds := by cases d <;> rfl
@[simp] theorem Plane.modDest_servers (pl : Plane) (d : Dest) (f : Queue → Queue) : (pl.modDest d f).servers = pl.servers := by cases d <;> rfl
@[simp] theorem Plane.modDest_flags (pl : Plane) (d : Dest) (f : Queue → Queue) : (pl.modDest d f).flags = pl.flags := by cases d <;> rfl
@[simp] theorem Plane.modDest_issued (pl : Plane) (d : Dest) (f : Queue → Queue) : (pl.modDest d f).issued = pl.issued := by cases d <;> rfl
@[simp] theorem Plane.modDest_reqs (pl : Plane) (d : Dest) (f : Queue → Queue) : (pl.modDest d f).reqs = pl.reqs := by cases d <;> rfl
@[simp] theorem Plane.modDest_faults (pl : Plane) (d : Dest) (f : Queue → Queue) : (pl.modDest d f).faults = pl.faults := by cases d <;> rfl
@[simp] theorem Plane.modDest_freezeAt (pl : Plane) (d : Dest) (f : Queue → Queue) : (pl.modDest d f).freezeAt = pl.freezeAt := by cases d <;> rfl
@[simp] theorem Plane.modDest_froze (pl : Plane) (d : Dest) (f : Queue → Queue) : (pl.modDest d f).froze = pl.froze := by cases d <;> rfl
@[simp] theorem Plane.modDest_resuming (pl : Plane) (d : Dest) (f : Queue → Queue) : (pl.modDest d f).resuming = pl.resuming := by cases d <;> rfl
@[simp] theorem Plane.modDest_shown (pl : Plane) (d : Dest) (f : Queue → Queue) : (pl.modDest d f).shown = pl.shown := by cases d <;> rfl
@[simp] theorem Plane.modDest_record (pl : Plane) (d : Dest) (f : Queue → Queue) : (pl.modDest d f).record = pl.record := by cases d <;> rfl
@[simp] theorem Plane.modDest_watchdog (pl : Plane) (d : Dest) (f : Queue → Queue) : (pl.modDest d f).watchdog = pl.watchdog := by cases d <;> rfl
@[simp] theorem Plane.modDest_reload (pl : Plane) (d : Dest) (f : Queue → Queue) : (pl.modDest d f).reload = pl.reload := by cases d <;> rfl
@[simp] theorem Plane.modDest_claimed (pl : Plane) (d : Dest) (f : Queue → Queue) : (pl.modDest d f).claimed = pl.claimed := by cases d <;> rfl
@[simp] theorem Plane.modDest_pages (pl : Plane) (d : Dest) (f : Queue → Queue) : (pl.modDest d f).pages = pl.pages := by cases d <;> rfl
@[simp] theorem Plane.modDest_stay (pl : Plane) (d : Dest) (f : Queue → Queue) : (pl.modDest d f).stay = pl.stay := by cases d <;> rfl
@[simp] theorem Plane.modDest_bound (pl : Plane) (d : Dest) (f : Queue → Queue) : (pl.modDest d f).bound = pl.bound := by cases d <;> rfl
@[simp] theorem Plane.modDest_abandon (pl : Plane) (d : Dest) (f : Queue → Queue) : (pl.modDest d f).abandon = pl.abandon := by cases d <;> rfl
@[simp] theorem Plane.modDest_args (pl : Plane) (d : Dest) (f : Queue → Queue) : (pl.modDest d f).args = pl.args := by cases d <;> rfl
@[simp] theorem Plane.modDest_slots (pl : Plane) (d : Dest) (f : Queue → Queue) : (pl.modDest d f).slots = pl.slots := by cases d <;> rfl
@[simp] theorem Plane.modDest_kib (pl : Plane) (d : Dest) (f : Queue → Queue) : (pl.modDest d f).kib = pl.kib := by cases d <;> rfl
@[simp] theorem Plane.modDest_result (pl : Plane) (d : Dest) (f : Queue → Queue) : (pl.modDest d f).result = pl.result := by cases d <;> rfl
@[simp] theorem Plane.modDest_active (pl : Plane) (d : Dest) (f : Queue → Queue) : (pl.modDest d f).active = pl.active := by cases d <;> rfl
@[simp] theorem Plane.modDest_level (pl : Plane) (d : Dest) (f : Queue → Queue) : (pl.modDest d f).level = pl.level := by cases d <;> rfl
@[simp] theorem Plane.modDest_waited (pl : Plane) (d : Dest) (f : Queue → Queue) : (pl.modDest d f).waited = pl.waited := by cases d <;> rfl
@[simp] theorem Plane.modDest_grants (pl : Plane) (d : Dest) (f : Queue → Queue) : (pl.modDest d f).grants = pl.grants := by cases d <;> rfl

@[simp] theorem Plane.emit_st (pl : Plane) (d : Dest) (t : Token) : (pl.emit d t).st = pl.st := by
  cases d <;> simp only [Plane.emit, Plane.modDest_st, Plane.modNode_st] <;> split <;> rfl
@[simp] theorem Plane.emit_before (pl : Plane) (d : Dest) (t : Token) : (pl.emit d t).before = pl.before := by
  cases d <;> simp only [Plane.emit, Plane.modDest_before, Plane.modNode_before] <;> split <;> rfl
@[simp] theorem Plane.emit_ctx (pl : Plane) (d : Dest) (t : Token) : (pl.emit d t).ctx = pl.ctx := by
  cases d <;> simp only [Plane.emit, Plane.modDest_ctx, Plane.modNode_ctx] <;> split <;> rfl
@[simp] theorem Plane.emit_colour (pl : Plane) (d : Dest) (t : Token) : (pl.emit d t).colour = pl.colour := by
  cases d <;> simp only [Plane.emit, Plane.modDest_colour, Plane.modNode_colour] <;> split <;> rfl
@[simp] theorem Plane.emit_entry (pl : Plane) (d : Dest) (t : Token) : (pl.emit d t).entry = pl.entry := by
  cases d <;> simp only [Plane.emit, Plane.modDest_entry, Plane.modNode_entry] <;> split <;> rfl
@[simp] theorem Plane.emit_writes (pl : Plane) (d : Dest) (t : Token) : (pl.emit d t).writes = pl.writes := by
  cases d <;> simp only [Plane.emit, Plane.modDest_writes, Plane.modNode_writes] <;> split <;> rfl
@[simp] theorem Plane.emit_handler (pl : Plane) (d : Dest) (t : Token) : (pl.emit d t).handler = pl.handler := by
  cases d <;> simp only [Plane.emit, Plane.modDest_handler, Plane.modNode_handler] <;> split <;> rfl
@[simp] theorem Plane.emit_prio (pl : Plane) (d : Dest) (t : Token) : (pl.emit d t).prio = pl.prio := by
  cases d <;> simp only [Plane.emit, Plane.modDest_prio, Plane.modNode_prio] <;> split <;> rfl
@[simp] theorem Plane.emit_seed (pl : Plane) (d : Dest) (t : Token) : (pl.emit d t).seed = pl.seed := by
  cases d <;> simp only [Plane.emit, Plane.modDest_seed, Plane.modNode_seed] <;> split <;> rfl
@[simp] theorem Plane.emit_cap (pl : Plane) (d : Dest) (t : Token) : (pl.emit d t).cap = pl.cap := by
  cases d <;> simp only [Plane.emit, Plane.modDest_cap, Plane.modNode_cap] <;> split <;> rfl
@[simp] theorem Plane.emit_tiles (pl : Plane) (d : Dest) (t : Token) : (pl.emit d t).tiles = pl.tiles := by
  cases d <;> simp only [Plane.emit, Plane.modDest_tiles, Plane.modNode_tiles] <;> split <;> rfl
@[simp] theorem Plane.emit_sram (pl : Plane) (d : Dest) (t : Token) : (pl.emit d t).sram = pl.sram := by
  cases d <;> simp only [Plane.emit, Plane.modDest_sram, Plane.modNode_sram] <;> split <;> rfl
@[simp] theorem Plane.emit_full (pl : Plane) (d : Dest) (t : Token) : (pl.emit d t).full = pl.full := by
  cases d <;> simp only [Plane.emit, Plane.modDest_full, Plane.modNode_full] <;> split <;> rfl
@[simp] theorem Plane.emit_fifos (pl : Plane) (d : Dest) (t : Token) : (pl.emit d t).fifos = pl.fifos := by
  cases d <;> simp only [Plane.emit, Plane.modDest_fifos, Plane.modNode_fifos] <;> split <;> rfl
@[simp] theorem Plane.emit_lbufs (pl : Plane) (d : Dest) (t : Token) : (pl.emit d t).lbufs = pl.lbufs := by
  cases d <;> simp only [Plane.emit, Plane.modDest_lbufs, Plane.modNode_lbufs] <;> split <;> rfl
@[simp] theorem Plane.emit_rounds (pl : Plane) (d : Dest) (t : Token) : (pl.emit d t).rounds = pl.rounds := by
  cases d <;> simp only [Plane.emit, Plane.modDest_rounds, Plane.modNode_rounds] <;> split <;> rfl
@[simp] theorem Plane.emit_servers (pl : Plane) (d : Dest) (t : Token) : (pl.emit d t).servers = pl.servers := by
  cases d <;> simp only [Plane.emit, Plane.modDest_servers, Plane.modNode_servers] <;> split <;> rfl
@[simp] theorem Plane.emit_flags (pl : Plane) (d : Dest) (t : Token) : (pl.emit d t).flags = pl.flags := by
  cases d <;> simp only [Plane.emit, Plane.modDest_flags, Plane.modNode_flags] <;> split <;> rfl
@[simp] theorem Plane.emit_issued (pl : Plane) (d : Dest) (t : Token) : (pl.emit d t).issued = pl.issued := by
  cases d <;> simp only [Plane.emit, Plane.modDest_issued, Plane.modNode_issued] <;> split <;> rfl
@[simp] theorem Plane.emit_reqs (pl : Plane) (d : Dest) (t : Token) : (pl.emit d t).reqs = pl.reqs := by
  cases d <;> simp only [Plane.emit, Plane.modDest_reqs, Plane.modNode_reqs] <;> split <;> rfl
@[simp] theorem Plane.emit_faults (pl : Plane) (d : Dest) (t : Token) : (pl.emit d t).faults = pl.faults := by
  cases d <;> simp only [Plane.emit, Plane.modDest_faults, Plane.modNode_faults] <;> split <;> rfl
@[simp] theorem Plane.emit_freezeAt (pl : Plane) (d : Dest) (t : Token) : (pl.emit d t).freezeAt = pl.freezeAt := by
  cases d <;> simp only [Plane.emit, Plane.modDest_freezeAt, Plane.modNode_freezeAt] <;> split <;> rfl
@[simp] theorem Plane.emit_froze (pl : Plane) (d : Dest) (t : Token) : (pl.emit d t).froze = pl.froze := by
  cases d <;> simp only [Plane.emit, Plane.modDest_froze, Plane.modNode_froze] <;> split <;> rfl
@[simp] theorem Plane.emit_resuming (pl : Plane) (d : Dest) (t : Token) : (pl.emit d t).resuming = pl.resuming := by
  cases d <;> simp only [Plane.emit, Plane.modDest_resuming, Plane.modNode_resuming] <;> split <;> rfl
@[simp] theorem Plane.emit_shown (pl : Plane) (d : Dest) (t : Token) : (pl.emit d t).shown = pl.shown := by
  cases d <;> simp only [Plane.emit, Plane.modDest_shown, Plane.modNode_shown] <;> split <;> rfl
@[simp] theorem Plane.emit_record (pl : Plane) (d : Dest) (t : Token) : (pl.emit d t).record = pl.record := by
  cases d <;> simp only [Plane.emit, Plane.modDest_record, Plane.modNode_record] <;> split <;> rfl
@[simp] theorem Plane.emit_watchdog (pl : Plane) (d : Dest) (t : Token) : (pl.emit d t).watchdog = pl.watchdog := by
  cases d <;> simp only [Plane.emit, Plane.modDest_watchdog, Plane.modNode_watchdog] <;> split <;> rfl
@[simp] theorem Plane.emit_reload (pl : Plane) (d : Dest) (t : Token) : (pl.emit d t).reload = pl.reload := by
  cases d <;> simp only [Plane.emit, Plane.modDest_reload, Plane.modNode_reload] <;> split <;> rfl
@[simp] theorem Plane.emit_claimed (pl : Plane) (d : Dest) (t : Token) : (pl.emit d t).claimed = pl.claimed := by
  cases d <;> simp only [Plane.emit, Plane.modDest_claimed, Plane.modNode_claimed] <;> split <;> rfl
@[simp] theorem Plane.emit_pages (pl : Plane) (d : Dest) (t : Token) : (pl.emit d t).pages = pl.pages := by
  cases d <;> simp only [Plane.emit, Plane.modDest_pages, Plane.modNode_pages] <;> split <;> rfl
@[simp] theorem Plane.emit_stay (pl : Plane) (d : Dest) (t : Token) : (pl.emit d t).stay = pl.stay := by
  cases d <;> simp only [Plane.emit, Plane.modDest_stay, Plane.modNode_stay] <;> split <;> rfl
@[simp] theorem Plane.emit_bound (pl : Plane) (d : Dest) (t : Token) : (pl.emit d t).bound = pl.bound := by
  cases d <;> simp only [Plane.emit, Plane.modDest_bound, Plane.modNode_bound] <;> split <;> rfl
@[simp] theorem Plane.emit_abandon (pl : Plane) (d : Dest) (t : Token) : (pl.emit d t).abandon = pl.abandon := by
  cases d <;> simp only [Plane.emit, Plane.modDest_abandon, Plane.modNode_abandon] <;> split <;> rfl
@[simp] theorem Plane.emit_args (pl : Plane) (d : Dest) (t : Token) : (pl.emit d t).args = pl.args := by
  cases d <;> simp only [Plane.emit, Plane.modDest_args, Plane.modNode_args] <;> split <;> rfl
@[simp] theorem Plane.emit_slots (pl : Plane) (d : Dest) (t : Token) : (pl.emit d t).slots = pl.slots := by
  cases d <;> simp only [Plane.emit, Plane.modDest_slots, Plane.modNode_slots] <;> split <;> rfl
@[simp] theorem Plane.emit_kib (pl : Plane) (d : Dest) (t : Token) : (pl.emit d t).kib = pl.kib := by
  cases d <;> simp only [Plane.emit, Plane.modDest_kib, Plane.modNode_kib] <;> split <;> rfl
@[simp] theorem Plane.emit_active (pl : Plane) (d : Dest) (t : Token) : (pl.emit d t).active = pl.active := by
  cases d <;> simp only [Plane.emit, Plane.modDest_active, Plane.modNode_active] <;> split <;> rfl
@[simp] theorem Plane.emit_level (pl : Plane) (d : Dest) (t : Token) : (pl.emit d t).level = pl.level := by
  cases d <;> simp only [Plane.emit, Plane.modDest_level, Plane.modNode_level] <;> split <;> rfl
@[simp] theorem Plane.emit_waited (pl : Plane) (d : Dest) (t : Token) : (pl.emit d t).waited = pl.waited := by
  cases d <;> simp only [Plane.emit, Plane.modDest_waited, Plane.modNode_waited] <;> split <;> rfl
@[simp] theorem Plane.emit_grants (pl : Plane) (d : Dest) (t : Token) : (pl.emit d t).grants = pl.grants := by
  cases d <;> simp only [Plane.emit, Plane.modDest_grants, Plane.modNode_grants] <;> split <;> rfl

@[simp] theorem Plane.emitAll_st (pl : Plane) (n : Node) (es : List (Nat × Token)) : (pl.emitAll n es).st = pl.st := by
  induction es generalizing pl with
  | nil => rfl
  | cons e rest ih => rw [Plane.emitAll, ih]; split <;> simp
@[simp] theorem Plane.emitAll_before (pl : Plane) (n : Node) (es : List (Nat × Token)) : (pl.emitAll n es).before = pl.before := by
  induction es generalizing pl with
  | nil => rfl
  | cons e rest ih => rw [Plane.emitAll, ih]; split <;> simp
@[simp] theorem Plane.emitAll_ctx (pl : Plane) (n : Node) (es : List (Nat × Token)) : (pl.emitAll n es).ctx = pl.ctx := by
  induction es generalizing pl with
  | nil => rfl
  | cons e rest ih => rw [Plane.emitAll, ih]; split <;> simp
@[simp] theorem Plane.emitAll_colour (pl : Plane) (n : Node) (es : List (Nat × Token)) : (pl.emitAll n es).colour = pl.colour := by
  induction es generalizing pl with
  | nil => rfl
  | cons e rest ih => rw [Plane.emitAll, ih]; split <;> simp
@[simp] theorem Plane.emitAll_entry (pl : Plane) (n : Node) (es : List (Nat × Token)) : (pl.emitAll n es).entry = pl.entry := by
  induction es generalizing pl with
  | nil => rfl
  | cons e rest ih => rw [Plane.emitAll, ih]; split <;> simp
@[simp] theorem Plane.emitAll_writes (pl : Plane) (n : Node) (es : List (Nat × Token)) : (pl.emitAll n es).writes = pl.writes := by
  induction es generalizing pl with
  | nil => rfl
  | cons e rest ih => rw [Plane.emitAll, ih]; split <;> simp
@[simp] theorem Plane.emitAll_handler (pl : Plane) (n : Node) (es : List (Nat × Token)) : (pl.emitAll n es).handler = pl.handler := by
  induction es generalizing pl with
  | nil => rfl
  | cons e rest ih => rw [Plane.emitAll, ih]; split <;> simp
@[simp] theorem Plane.emitAll_prio (pl : Plane) (n : Node) (es : List (Nat × Token)) : (pl.emitAll n es).prio = pl.prio := by
  induction es generalizing pl with
  | nil => rfl
  | cons e rest ih => rw [Plane.emitAll, ih]; split <;> simp
@[simp] theorem Plane.emitAll_seed (pl : Plane) (n : Node) (es : List (Nat × Token)) : (pl.emitAll n es).seed = pl.seed := by
  induction es generalizing pl with
  | nil => rfl
  | cons e rest ih => rw [Plane.emitAll, ih]; split <;> simp
@[simp] theorem Plane.emitAll_cap (pl : Plane) (n : Node) (es : List (Nat × Token)) : (pl.emitAll n es).cap = pl.cap := by
  induction es generalizing pl with
  | nil => rfl
  | cons e rest ih => rw [Plane.emitAll, ih]; split <;> simp
@[simp] theorem Plane.emitAll_tiles (pl : Plane) (n : Node) (es : List (Nat × Token)) : (pl.emitAll n es).tiles = pl.tiles := by
  induction es generalizing pl with
  | nil => rfl
  | cons e rest ih => rw [Plane.emitAll, ih]; split <;> simp
@[simp] theorem Plane.emitAll_sram (pl : Plane) (n : Node) (es : List (Nat × Token)) : (pl.emitAll n es).sram = pl.sram := by
  induction es generalizing pl with
  | nil => rfl
  | cons e rest ih => rw [Plane.emitAll, ih]; split <;> simp
@[simp] theorem Plane.emitAll_full (pl : Plane) (n : Node) (es : List (Nat × Token)) : (pl.emitAll n es).full = pl.full := by
  induction es generalizing pl with
  | nil => rfl
  | cons e rest ih => rw [Plane.emitAll, ih]; split <;> simp
@[simp] theorem Plane.emitAll_fifos (pl : Plane) (n : Node) (es : List (Nat × Token)) : (pl.emitAll n es).fifos = pl.fifos := by
  induction es generalizing pl with
  | nil => rfl
  | cons e rest ih => rw [Plane.emitAll, ih]; split <;> simp
@[simp] theorem Plane.emitAll_lbufs (pl : Plane) (n : Node) (es : List (Nat × Token)) : (pl.emitAll n es).lbufs = pl.lbufs := by
  induction es generalizing pl with
  | nil => rfl
  | cons e rest ih => rw [Plane.emitAll, ih]; split <;> simp
@[simp] theorem Plane.emitAll_rounds (pl : Plane) (n : Node) (es : List (Nat × Token)) : (pl.emitAll n es).rounds = pl.rounds := by
  induction es generalizing pl with
  | nil => rfl
  | cons e rest ih => rw [Plane.emitAll, ih]; split <;> simp
@[simp] theorem Plane.emitAll_servers (pl : Plane) (n : Node) (es : List (Nat × Token)) : (pl.emitAll n es).servers = pl.servers := by
  induction es generalizing pl with
  | nil => rfl
  | cons e rest ih => rw [Plane.emitAll, ih]; split <;> simp
@[simp] theorem Plane.emitAll_flags (pl : Plane) (n : Node) (es : List (Nat × Token)) : (pl.emitAll n es).flags = pl.flags := by
  induction es generalizing pl with
  | nil => rfl
  | cons e rest ih => rw [Plane.emitAll, ih]; split <;> simp
@[simp] theorem Plane.emitAll_issued (pl : Plane) (n : Node) (es : List (Nat × Token)) : (pl.emitAll n es).issued = pl.issued := by
  induction es generalizing pl with
  | nil => rfl
  | cons e rest ih => rw [Plane.emitAll, ih]; split <;> simp
@[simp] theorem Plane.emitAll_reqs (pl : Plane) (n : Node) (es : List (Nat × Token)) : (pl.emitAll n es).reqs = pl.reqs := by
  induction es generalizing pl with
  | nil => rfl
  | cons e rest ih => rw [Plane.emitAll, ih]; split <;> simp
@[simp] theorem Plane.emitAll_faults (pl : Plane) (n : Node) (es : List (Nat × Token)) : (pl.emitAll n es).faults = pl.faults := by
  induction es generalizing pl with
  | nil => rfl
  | cons e rest ih => rw [Plane.emitAll, ih]; split <;> simp
@[simp] theorem Plane.emitAll_freezeAt (pl : Plane) (n : Node) (es : List (Nat × Token)) : (pl.emitAll n es).freezeAt = pl.freezeAt := by
  induction es generalizing pl with
  | nil => rfl
  | cons e rest ih => rw [Plane.emitAll, ih]; split <;> simp
@[simp] theorem Plane.emitAll_froze (pl : Plane) (n : Node) (es : List (Nat × Token)) : (pl.emitAll n es).froze = pl.froze := by
  induction es generalizing pl with
  | nil => rfl
  | cons e rest ih => rw [Plane.emitAll, ih]; split <;> simp
@[simp] theorem Plane.emitAll_resuming (pl : Plane) (n : Node) (es : List (Nat × Token)) : (pl.emitAll n es).resuming = pl.resuming := by
  induction es generalizing pl with
  | nil => rfl
  | cons e rest ih => rw [Plane.emitAll, ih]; split <;> simp
@[simp] theorem Plane.emitAll_shown (pl : Plane) (n : Node) (es : List (Nat × Token)) : (pl.emitAll n es).shown = pl.shown := by
  induction es generalizing pl with
  | nil => rfl
  | cons e rest ih => rw [Plane.emitAll, ih]; split <;> simp
@[simp] theorem Plane.emitAll_record (pl : Plane) (n : Node) (es : List (Nat × Token)) : (pl.emitAll n es).record = pl.record := by
  induction es generalizing pl with
  | nil => rfl
  | cons e rest ih => rw [Plane.emitAll, ih]; split <;> simp
@[simp] theorem Plane.emitAll_watchdog (pl : Plane) (n : Node) (es : List (Nat × Token)) : (pl.emitAll n es).watchdog = pl.watchdog := by
  induction es generalizing pl with
  | nil => rfl
  | cons e rest ih => rw [Plane.emitAll, ih]; split <;> simp
@[simp] theorem Plane.emitAll_reload (pl : Plane) (n : Node) (es : List (Nat × Token)) : (pl.emitAll n es).reload = pl.reload := by
  induction es generalizing pl with
  | nil => rfl
  | cons e rest ih => rw [Plane.emitAll, ih]; split <;> simp
@[simp] theorem Plane.emitAll_claimed (pl : Plane) (n : Node) (es : List (Nat × Token)) : (pl.emitAll n es).claimed = pl.claimed := by
  induction es generalizing pl with
  | nil => rfl
  | cons e rest ih => rw [Plane.emitAll, ih]; split <;> simp
@[simp] theorem Plane.emitAll_pages (pl : Plane) (n : Node) (es : List (Nat × Token)) : (pl.emitAll n es).pages = pl.pages := by
  induction es generalizing pl with
  | nil => rfl
  | cons e rest ih => rw [Plane.emitAll, ih]; split <;> simp
@[simp] theorem Plane.emitAll_stay (pl : Plane) (n : Node) (es : List (Nat × Token)) : (pl.emitAll n es).stay = pl.stay := by
  induction es generalizing pl with
  | nil => rfl
  | cons e rest ih => rw [Plane.emitAll, ih]; split <;> simp
@[simp] theorem Plane.emitAll_bound (pl : Plane) (n : Node) (es : List (Nat × Token)) : (pl.emitAll n es).bound = pl.bound := by
  induction es generalizing pl with
  | nil => rfl
  | cons e rest ih => rw [Plane.emitAll, ih]; split <;> simp
@[simp] theorem Plane.emitAll_abandon (pl : Plane) (n : Node) (es : List (Nat × Token)) : (pl.emitAll n es).abandon = pl.abandon := by
  induction es generalizing pl with
  | nil => rfl
  | cons e rest ih => rw [Plane.emitAll, ih]; split <;> simp
@[simp] theorem Plane.emitAll_args (pl : Plane) (n : Node) (es : List (Nat × Token)) : (pl.emitAll n es).args = pl.args := by
  induction es generalizing pl with
  | nil => rfl
  | cons e rest ih => rw [Plane.emitAll, ih]; split <;> simp
@[simp] theorem Plane.emitAll_slots (pl : Plane) (n : Node) (es : List (Nat × Token)) : (pl.emitAll n es).slots = pl.slots := by
  induction es generalizing pl with
  | nil => rfl
  | cons e rest ih => rw [Plane.emitAll, ih]; split <;> simp
@[simp] theorem Plane.emitAll_kib (pl : Plane) (n : Node) (es : List (Nat × Token)) : (pl.emitAll n es).kib = pl.kib := by
  induction es generalizing pl with
  | nil => rfl
  | cons e rest ih => rw [Plane.emitAll, ih]; split <;> simp
@[simp] theorem Plane.emitAll_active (pl : Plane) (n : Node) (es : List (Nat × Token)) : (pl.emitAll n es).active = pl.active := by
  induction es generalizing pl with
  | nil => rfl
  | cons e rest ih => rw [Plane.emitAll, ih]; split <;> simp
@[simp] theorem Plane.emitAll_level (pl : Plane) (n : Node) (es : List (Nat × Token)) : (pl.emitAll n es).level = pl.level := by
  induction es generalizing pl with
  | nil => rfl
  | cons e rest ih => rw [Plane.emitAll, ih]; split <;> simp
@[simp] theorem Plane.emitAll_waited (pl : Plane) (n : Node) (es : List (Nat × Token)) : (pl.emitAll n es).waited = pl.waited := by
  induction es generalizing pl with
  | nil => rfl
  | cons e rest ih => rw [Plane.emitAll, ih]; split <;> simp
@[simp] theorem Plane.emitAll_grants (pl : Plane) (n : Node) (es : List (Nat × Token)) : (pl.emitAll n es).grants = pl.grants := by
  induction es generalizing pl with
  | nil => rfl
  | cons e rest ih => rw [Plane.emitAll, ih]; split <;> simp

@[simp] theorem Plane.reserve_st (pl : Plane) (n : Node) (es : List (Nat × Token)) : (pl.reserve n es).st = pl.st := by
  induction es generalizing pl with
  | nil => rfl
  | cons e rest ih => rw [Plane.reserve, ih]; split <;> simp
@[simp] theorem Plane.reserve_before (pl : Plane) (n : Node) (es : List (Nat × Token)) : (pl.reserve n es).before = pl.before := by
  induction es generalizing pl with
  | nil => rfl
  | cons e rest ih => rw [Plane.reserve, ih]; split <;> simp
@[simp] theorem Plane.reserve_ctx (pl : Plane) (n : Node) (es : List (Nat × Token)) : (pl.reserve n es).ctx = pl.ctx := by
  induction es generalizing pl with
  | nil => rfl
  | cons e rest ih => rw [Plane.reserve, ih]; split <;> simp
@[simp] theorem Plane.reserve_colour (pl : Plane) (n : Node) (es : List (Nat × Token)) : (pl.reserve n es).colour = pl.colour := by
  induction es generalizing pl with
  | nil => rfl
  | cons e rest ih => rw [Plane.reserve, ih]; split <;> simp
@[simp] theorem Plane.reserve_entry (pl : Plane) (n : Node) (es : List (Nat × Token)) : (pl.reserve n es).entry = pl.entry := by
  induction es generalizing pl with
  | nil => rfl
  | cons e rest ih => rw [Plane.reserve, ih]; split <;> simp
@[simp] theorem Plane.reserve_writes (pl : Plane) (n : Node) (es : List (Nat × Token)) : (pl.reserve n es).writes = pl.writes := by
  induction es generalizing pl with
  | nil => rfl
  | cons e rest ih => rw [Plane.reserve, ih]; split <;> simp
@[simp] theorem Plane.reserve_handler (pl : Plane) (n : Node) (es : List (Nat × Token)) : (pl.reserve n es).handler = pl.handler := by
  induction es generalizing pl with
  | nil => rfl
  | cons e rest ih => rw [Plane.reserve, ih]; split <;> simp
@[simp] theorem Plane.reserve_prio (pl : Plane) (n : Node) (es : List (Nat × Token)) : (pl.reserve n es).prio = pl.prio := by
  induction es generalizing pl with
  | nil => rfl
  | cons e rest ih => rw [Plane.reserve, ih]; split <;> simp
@[simp] theorem Plane.reserve_seed (pl : Plane) (n : Node) (es : List (Nat × Token)) : (pl.reserve n es).seed = pl.seed := by
  induction es generalizing pl with
  | nil => rfl
  | cons e rest ih => rw [Plane.reserve, ih]; split <;> simp
@[simp] theorem Plane.reserve_cap (pl : Plane) (n : Node) (es : List (Nat × Token)) : (pl.reserve n es).cap = pl.cap := by
  induction es generalizing pl with
  | nil => rfl
  | cons e rest ih => rw [Plane.reserve, ih]; split <;> simp
@[simp] theorem Plane.reserve_tiles (pl : Plane) (n : Node) (es : List (Nat × Token)) : (pl.reserve n es).tiles = pl.tiles := by
  induction es generalizing pl with
  | nil => rfl
  | cons e rest ih => rw [Plane.reserve, ih]; split <;> simp
@[simp] theorem Plane.reserve_sram (pl : Plane) (n : Node) (es : List (Nat × Token)) : (pl.reserve n es).sram = pl.sram := by
  induction es generalizing pl with
  | nil => rfl
  | cons e rest ih => rw [Plane.reserve, ih]; split <;> simp
@[simp] theorem Plane.reserve_full (pl : Plane) (n : Node) (es : List (Nat × Token)) : (pl.reserve n es).full = pl.full := by
  induction es generalizing pl with
  | nil => rfl
  | cons e rest ih => rw [Plane.reserve, ih]; split <;> simp
@[simp] theorem Plane.reserve_fifos (pl : Plane) (n : Node) (es : List (Nat × Token)) : (pl.reserve n es).fifos = pl.fifos := by
  induction es generalizing pl with
  | nil => rfl
  | cons e rest ih => rw [Plane.reserve, ih]; split <;> simp
@[simp] theorem Plane.reserve_lbufs (pl : Plane) (n : Node) (es : List (Nat × Token)) : (pl.reserve n es).lbufs = pl.lbufs := by
  induction es generalizing pl with
  | nil => rfl
  | cons e rest ih => rw [Plane.reserve, ih]; split <;> simp
@[simp] theorem Plane.reserve_rounds (pl : Plane) (n : Node) (es : List (Nat × Token)) : (pl.reserve n es).rounds = pl.rounds := by
  induction es generalizing pl with
  | nil => rfl
  | cons e rest ih => rw [Plane.reserve, ih]; split <;> simp
@[simp] theorem Plane.reserve_servers (pl : Plane) (n : Node) (es : List (Nat × Token)) : (pl.reserve n es).servers = pl.servers := by
  induction es generalizing pl with
  | nil => rfl
  | cons e rest ih => rw [Plane.reserve, ih]; split <;> simp
@[simp] theorem Plane.reserve_flags (pl : Plane) (n : Node) (es : List (Nat × Token)) : (pl.reserve n es).flags = pl.flags := by
  induction es generalizing pl with
  | nil => rfl
  | cons e rest ih => rw [Plane.reserve, ih]; split <;> simp
@[simp] theorem Plane.reserve_issued (pl : Plane) (n : Node) (es : List (Nat × Token)) : (pl.reserve n es).issued = pl.issued := by
  induction es generalizing pl with
  | nil => rfl
  | cons e rest ih => rw [Plane.reserve, ih]; split <;> simp
@[simp] theorem Plane.reserve_reqs (pl : Plane) (n : Node) (es : List (Nat × Token)) : (pl.reserve n es).reqs = pl.reqs := by
  induction es generalizing pl with
  | nil => rfl
  | cons e rest ih => rw [Plane.reserve, ih]; split <;> simp
@[simp] theorem Plane.reserve_faults (pl : Plane) (n : Node) (es : List (Nat × Token)) : (pl.reserve n es).faults = pl.faults := by
  induction es generalizing pl with
  | nil => rfl
  | cons e rest ih => rw [Plane.reserve, ih]; split <;> simp
@[simp] theorem Plane.reserve_freezeAt (pl : Plane) (n : Node) (es : List (Nat × Token)) : (pl.reserve n es).freezeAt = pl.freezeAt := by
  induction es generalizing pl with
  | nil => rfl
  | cons e rest ih => rw [Plane.reserve, ih]; split <;> simp
@[simp] theorem Plane.reserve_froze (pl : Plane) (n : Node) (es : List (Nat × Token)) : (pl.reserve n es).froze = pl.froze := by
  induction es generalizing pl with
  | nil => rfl
  | cons e rest ih => rw [Plane.reserve, ih]; split <;> simp
@[simp] theorem Plane.reserve_resuming (pl : Plane) (n : Node) (es : List (Nat × Token)) : (pl.reserve n es).resuming = pl.resuming := by
  induction es generalizing pl with
  | nil => rfl
  | cons e rest ih => rw [Plane.reserve, ih]; split <;> simp
@[simp] theorem Plane.reserve_shown (pl : Plane) (n : Node) (es : List (Nat × Token)) : (pl.reserve n es).shown = pl.shown := by
  induction es generalizing pl with
  | nil => rfl
  | cons e rest ih => rw [Plane.reserve, ih]; split <;> simp
@[simp] theorem Plane.reserve_record (pl : Plane) (n : Node) (es : List (Nat × Token)) : (pl.reserve n es).record = pl.record := by
  induction es generalizing pl with
  | nil => rfl
  | cons e rest ih => rw [Plane.reserve, ih]; split <;> simp
@[simp] theorem Plane.reserve_watchdog (pl : Plane) (n : Node) (es : List (Nat × Token)) : (pl.reserve n es).watchdog = pl.watchdog := by
  induction es generalizing pl with
  | nil => rfl
  | cons e rest ih => rw [Plane.reserve, ih]; split <;> simp
@[simp] theorem Plane.reserve_reload (pl : Plane) (n : Node) (es : List (Nat × Token)) : (pl.reserve n es).reload = pl.reload := by
  induction es generalizing pl with
  | nil => rfl
  | cons e rest ih => rw [Plane.reserve, ih]; split <;> simp
@[simp] theorem Plane.reserve_claimed (pl : Plane) (n : Node) (es : List (Nat × Token)) : (pl.reserve n es).claimed = pl.claimed := by
  induction es generalizing pl with
  | nil => rfl
  | cons e rest ih => rw [Plane.reserve, ih]; split <;> simp
@[simp] theorem Plane.reserve_pages (pl : Plane) (n : Node) (es : List (Nat × Token)) : (pl.reserve n es).pages = pl.pages := by
  induction es generalizing pl with
  | nil => rfl
  | cons e rest ih => rw [Plane.reserve, ih]; split <;> simp
@[simp] theorem Plane.reserve_stay (pl : Plane) (n : Node) (es : List (Nat × Token)) : (pl.reserve n es).stay = pl.stay := by
  induction es generalizing pl with
  | nil => rfl
  | cons e rest ih => rw [Plane.reserve, ih]; split <;> simp
@[simp] theorem Plane.reserve_bound (pl : Plane) (n : Node) (es : List (Nat × Token)) : (pl.reserve n es).bound = pl.bound := by
  induction es generalizing pl with
  | nil => rfl
  | cons e rest ih => rw [Plane.reserve, ih]; split <;> simp
@[simp] theorem Plane.reserve_abandon (pl : Plane) (n : Node) (es : List (Nat × Token)) : (pl.reserve n es).abandon = pl.abandon := by
  induction es generalizing pl with
  | nil => rfl
  | cons e rest ih => rw [Plane.reserve, ih]; split <;> simp
@[simp] theorem Plane.reserve_args (pl : Plane) (n : Node) (es : List (Nat × Token)) : (pl.reserve n es).args = pl.args := by
  induction es generalizing pl with
  | nil => rfl
  | cons e rest ih => rw [Plane.reserve, ih]; split <;> simp
@[simp] theorem Plane.reserve_slots (pl : Plane) (n : Node) (es : List (Nat × Token)) : (pl.reserve n es).slots = pl.slots := by
  induction es generalizing pl with
  | nil => rfl
  | cons e rest ih => rw [Plane.reserve, ih]; split <;> simp
@[simp] theorem Plane.reserve_kib (pl : Plane) (n : Node) (es : List (Nat × Token)) : (pl.reserve n es).kib = pl.kib := by
  induction es generalizing pl with
  | nil => rfl
  | cons e rest ih => rw [Plane.reserve, ih]; split <;> simp
@[simp] theorem Plane.reserve_result (pl : Plane) (n : Node) (es : List (Nat × Token)) : (pl.reserve n es).result = pl.result := by
  induction es generalizing pl with
  | nil => rfl
  | cons e rest ih => rw [Plane.reserve, ih]; split <;> simp
@[simp] theorem Plane.reserve_active (pl : Plane) (n : Node) (es : List (Nat × Token)) : (pl.reserve n es).active = pl.active := by
  induction es generalizing pl with
  | nil => rfl
  | cons e rest ih => rw [Plane.reserve, ih]; split <;> simp
@[simp] theorem Plane.reserve_level (pl : Plane) (n : Node) (es : List (Nat × Token)) : (pl.reserve n es).level = pl.level := by
  induction es generalizing pl with
  | nil => rfl
  | cons e rest ih => rw [Plane.reserve, ih]; split <;> simp
@[simp] theorem Plane.reserve_waited (pl : Plane) (n : Node) (es : List (Nat × Token)) : (pl.reserve n es).waited = pl.waited := by
  induction es generalizing pl with
  | nil => rfl
  | cons e rest ih => rw [Plane.reserve, ih]; split <;> simp
@[simp] theorem Plane.reserve_grants (pl : Plane) (n : Node) (es : List (Nat × Token)) : (pl.reserve n es).grants = pl.grants := by
  induction es generalizing pl with
  | nil => rfl
  | cons e rest ih => rw [Plane.reserve, ih]; split <;> simp

@[simp] theorem Plane.release_st (pl : Plane) (n : Node) (es : List (Nat × Token)) : (pl.release n es).st = pl.st := by
  induction es generalizing pl with
  | nil => rfl
  | cons e rest ih => rw [Plane.release, ih]; split <;> simp
@[simp] theorem Plane.release_before (pl : Plane) (n : Node) (es : List (Nat × Token)) : (pl.release n es).before = pl.before := by
  induction es generalizing pl with
  | nil => rfl
  | cons e rest ih => rw [Plane.release, ih]; split <;> simp
@[simp] theorem Plane.release_ctx (pl : Plane) (n : Node) (es : List (Nat × Token)) : (pl.release n es).ctx = pl.ctx := by
  induction es generalizing pl with
  | nil => rfl
  | cons e rest ih => rw [Plane.release, ih]; split <;> simp
@[simp] theorem Plane.release_colour (pl : Plane) (n : Node) (es : List (Nat × Token)) : (pl.release n es).colour = pl.colour := by
  induction es generalizing pl with
  | nil => rfl
  | cons e rest ih => rw [Plane.release, ih]; split <;> simp
@[simp] theorem Plane.release_entry (pl : Plane) (n : Node) (es : List (Nat × Token)) : (pl.release n es).entry = pl.entry := by
  induction es generalizing pl with
  | nil => rfl
  | cons e rest ih => rw [Plane.release, ih]; split <;> simp
@[simp] theorem Plane.release_writes (pl : Plane) (n : Node) (es : List (Nat × Token)) : (pl.release n es).writes = pl.writes := by
  induction es generalizing pl with
  | nil => rfl
  | cons e rest ih => rw [Plane.release, ih]; split <;> simp
@[simp] theorem Plane.release_handler (pl : Plane) (n : Node) (es : List (Nat × Token)) : (pl.release n es).handler = pl.handler := by
  induction es generalizing pl with
  | nil => rfl
  | cons e rest ih => rw [Plane.release, ih]; split <;> simp
@[simp] theorem Plane.release_prio (pl : Plane) (n : Node) (es : List (Nat × Token)) : (pl.release n es).prio = pl.prio := by
  induction es generalizing pl with
  | nil => rfl
  | cons e rest ih => rw [Plane.release, ih]; split <;> simp
@[simp] theorem Plane.release_seed (pl : Plane) (n : Node) (es : List (Nat × Token)) : (pl.release n es).seed = pl.seed := by
  induction es generalizing pl with
  | nil => rfl
  | cons e rest ih => rw [Plane.release, ih]; split <;> simp
@[simp] theorem Plane.release_cap (pl : Plane) (n : Node) (es : List (Nat × Token)) : (pl.release n es).cap = pl.cap := by
  induction es generalizing pl with
  | nil => rfl
  | cons e rest ih => rw [Plane.release, ih]; split <;> simp
@[simp] theorem Plane.release_tiles (pl : Plane) (n : Node) (es : List (Nat × Token)) : (pl.release n es).tiles = pl.tiles := by
  induction es generalizing pl with
  | nil => rfl
  | cons e rest ih => rw [Plane.release, ih]; split <;> simp
@[simp] theorem Plane.release_sram (pl : Plane) (n : Node) (es : List (Nat × Token)) : (pl.release n es).sram = pl.sram := by
  induction es generalizing pl with
  | nil => rfl
  | cons e rest ih => rw [Plane.release, ih]; split <;> simp
@[simp] theorem Plane.release_full (pl : Plane) (n : Node) (es : List (Nat × Token)) : (pl.release n es).full = pl.full := by
  induction es generalizing pl with
  | nil => rfl
  | cons e rest ih => rw [Plane.release, ih]; split <;> simp
@[simp] theorem Plane.release_fifos (pl : Plane) (n : Node) (es : List (Nat × Token)) : (pl.release n es).fifos = pl.fifos := by
  induction es generalizing pl with
  | nil => rfl
  | cons e rest ih => rw [Plane.release, ih]; split <;> simp
@[simp] theorem Plane.release_lbufs (pl : Plane) (n : Node) (es : List (Nat × Token)) : (pl.release n es).lbufs = pl.lbufs := by
  induction es generalizing pl with
  | nil => rfl
  | cons e rest ih => rw [Plane.release, ih]; split <;> simp
@[simp] theorem Plane.release_rounds (pl : Plane) (n : Node) (es : List (Nat × Token)) : (pl.release n es).rounds = pl.rounds := by
  induction es generalizing pl with
  | nil => rfl
  | cons e rest ih => rw [Plane.release, ih]; split <;> simp
@[simp] theorem Plane.release_servers (pl : Plane) (n : Node) (es : List (Nat × Token)) : (pl.release n es).servers = pl.servers := by
  induction es generalizing pl with
  | nil => rfl
  | cons e rest ih => rw [Plane.release, ih]; split <;> simp
@[simp] theorem Plane.release_flags (pl : Plane) (n : Node) (es : List (Nat × Token)) : (pl.release n es).flags = pl.flags := by
  induction es generalizing pl with
  | nil => rfl
  | cons e rest ih => rw [Plane.release, ih]; split <;> simp
@[simp] theorem Plane.release_issued (pl : Plane) (n : Node) (es : List (Nat × Token)) : (pl.release n es).issued = pl.issued := by
  induction es generalizing pl with
  | nil => rfl
  | cons e rest ih => rw [Plane.release, ih]; split <;> simp
@[simp] theorem Plane.release_reqs (pl : Plane) (n : Node) (es : List (Nat × Token)) : (pl.release n es).reqs = pl.reqs := by
  induction es generalizing pl with
  | nil => rfl
  | cons e rest ih => rw [Plane.release, ih]; split <;> simp
@[simp] theorem Plane.release_faults (pl : Plane) (n : Node) (es : List (Nat × Token)) : (pl.release n es).faults = pl.faults := by
  induction es generalizing pl with
  | nil => rfl
  | cons e rest ih => rw [Plane.release, ih]; split <;> simp
@[simp] theorem Plane.release_freezeAt (pl : Plane) (n : Node) (es : List (Nat × Token)) : (pl.release n es).freezeAt = pl.freezeAt := by
  induction es generalizing pl with
  | nil => rfl
  | cons e rest ih => rw [Plane.release, ih]; split <;> simp
@[simp] theorem Plane.release_froze (pl : Plane) (n : Node) (es : List (Nat × Token)) : (pl.release n es).froze = pl.froze := by
  induction es generalizing pl with
  | nil => rfl
  | cons e rest ih => rw [Plane.release, ih]; split <;> simp
@[simp] theorem Plane.release_resuming (pl : Plane) (n : Node) (es : List (Nat × Token)) : (pl.release n es).resuming = pl.resuming := by
  induction es generalizing pl with
  | nil => rfl
  | cons e rest ih => rw [Plane.release, ih]; split <;> simp
@[simp] theorem Plane.release_shown (pl : Plane) (n : Node) (es : List (Nat × Token)) : (pl.release n es).shown = pl.shown := by
  induction es generalizing pl with
  | nil => rfl
  | cons e rest ih => rw [Plane.release, ih]; split <;> simp
@[simp] theorem Plane.release_record (pl : Plane) (n : Node) (es : List (Nat × Token)) : (pl.release n es).record = pl.record := by
  induction es generalizing pl with
  | nil => rfl
  | cons e rest ih => rw [Plane.release, ih]; split <;> simp
@[simp] theorem Plane.release_watchdog (pl : Plane) (n : Node) (es : List (Nat × Token)) : (pl.release n es).watchdog = pl.watchdog := by
  induction es generalizing pl with
  | nil => rfl
  | cons e rest ih => rw [Plane.release, ih]; split <;> simp
@[simp] theorem Plane.release_reload (pl : Plane) (n : Node) (es : List (Nat × Token)) : (pl.release n es).reload = pl.reload := by
  induction es generalizing pl with
  | nil => rfl
  | cons e rest ih => rw [Plane.release, ih]; split <;> simp
@[simp] theorem Plane.release_claimed (pl : Plane) (n : Node) (es : List (Nat × Token)) : (pl.release n es).claimed = pl.claimed := by
  induction es generalizing pl with
  | nil => rfl
  | cons e rest ih => rw [Plane.release, ih]; split <;> simp
@[simp] theorem Plane.release_pages (pl : Plane) (n : Node) (es : List (Nat × Token)) : (pl.release n es).pages = pl.pages := by
  induction es generalizing pl with
  | nil => rfl
  | cons e rest ih => rw [Plane.release, ih]; split <;> simp
@[simp] theorem Plane.release_stay (pl : Plane) (n : Node) (es : List (Nat × Token)) : (pl.release n es).stay = pl.stay := by
  induction es generalizing pl with
  | nil => rfl
  | cons e rest ih => rw [Plane.release, ih]; split <;> simp
@[simp] theorem Plane.release_bound (pl : Plane) (n : Node) (es : List (Nat × Token)) : (pl.release n es).bound = pl.bound := by
  induction es generalizing pl with
  | nil => rfl
  | cons e rest ih => rw [Plane.release, ih]; split <;> simp
@[simp] theorem Plane.release_abandon (pl : Plane) (n : Node) (es : List (Nat × Token)) : (pl.release n es).abandon = pl.abandon := by
  induction es generalizing pl with
  | nil => rfl
  | cons e rest ih => rw [Plane.release, ih]; split <;> simp
@[simp] theorem Plane.release_args (pl : Plane) (n : Node) (es : List (Nat × Token)) : (pl.release n es).args = pl.args := by
  induction es generalizing pl with
  | nil => rfl
  | cons e rest ih => rw [Plane.release, ih]; split <;> simp
@[simp] theorem Plane.release_slots (pl : Plane) (n : Node) (es : List (Nat × Token)) : (pl.release n es).slots = pl.slots := by
  induction es generalizing pl with
  | nil => rfl
  | cons e rest ih => rw [Plane.release, ih]; split <;> simp
@[simp] theorem Plane.release_kib (pl : Plane) (n : Node) (es : List (Nat × Token)) : (pl.release n es).kib = pl.kib := by
  induction es generalizing pl with
  | nil => rfl
  | cons e rest ih => rw [Plane.release, ih]; split <;> simp
@[simp] theorem Plane.release_result (pl : Plane) (n : Node) (es : List (Nat × Token)) : (pl.release n es).result = pl.result := by
  induction es generalizing pl with
  | nil => rfl
  | cons e rest ih => rw [Plane.release, ih]; split <;> simp
@[simp] theorem Plane.release_active (pl : Plane) (n : Node) (es : List (Nat × Token)) : (pl.release n es).active = pl.active := by
  induction es generalizing pl with
  | nil => rfl
  | cons e rest ih => rw [Plane.release, ih]; split <;> simp
@[simp] theorem Plane.release_level (pl : Plane) (n : Node) (es : List (Nat × Token)) : (pl.release n es).level = pl.level := by
  induction es generalizing pl with
  | nil => rfl
  | cons e rest ih => rw [Plane.release, ih]; split <;> simp
@[simp] theorem Plane.release_waited (pl : Plane) (n : Node) (es : List (Nat × Token)) : (pl.release n es).waited = pl.waited := by
  induction es generalizing pl with
  | nil => rfl
  | cons e rest ih => rw [Plane.release, ih]; split <;> simp
@[simp] theorem Plane.release_grants (pl : Plane) (n : Node) (es : List (Nat × Token)) : (pl.release n es).grants = pl.grants := by
  induction es generalizing pl with
  | nil => rfl
  | cons e rest ih => rw [Plane.release, ih]; split <;> simp

/-- A node after an update of it, and of another. -/
@[simp] theorem Plane.modNode_get_same (pl : Plane) (i : Nat) (f : Node → Node) :
    (pl.modNode i f).nodes[i]? = (pl.nodes[i]?).map f := by simp [Plane.modNode]
@[simp] theorem Plane.modNode_get_other (pl : Plane) {i j : Nat} (f : Node → Node) (h : j ≠ i) :
    (pl.modNode i f).nodes[j]? = pl.nodes[j]? := by simp [Plane.modNode, h]

/-! ## Nodes -/

@[simp] theorem Node.take_word (n : Node) (ts : List Nat) : (n.take ts).word = n.word := rfl
@[simp] theorem Node.take_info (n : Node) (ts : List Nat) : (n.take ts).info = n.info := rfl
@[simp] theorem Node.take_slot (n : Node) (ts : List Nat) : (n.take ts).slot = n.slot := rfl
@[simp] theorem Node.take_copy (n : Node) (ts : List Nat) : (n.take ts).copy = n.copy := rfl
@[simp] theorem Node.take_place (n : Node) (ts : List Nat) : (n.take ts).place = n.place := rfl
@[simp] theorem Node.take_outs (n : Node) (ts : List Nat) : (n.take ts).outs = n.outs := rfl
@[simp] theorem Node.take_fed (n : Node) (ts : List Nat) : (n.take ts).fed = n.fed := rfl
@[simp] theorem Node.take_st (n : Node) (ts : List Nat) : (n.take ts).st = n.st := rfl
@[simp] theorem Node.take_e (n : Node) (ts : List Nat) : (n.take ts).e = n.e := rfl
@[simp] theorem Node.take_round (n : Node) (ts : List Nat) : (n.take ts).round = n.round := rfl
@[simp] theorem Node.take_fired (n : Node) (ts : List Nat) : (n.take ts).fired = n.fired := rfl
@[simp] theorem Node.take_firings (n : Node) (ts : List Nat) : (n.take ts).firings = n.firings := rfl
@[simp] theorem Node.take_grant (n : Node) (ts : List Nat) : (n.take ts).grant = n.grant := rfl
@[simp] theorem Node.take_window (n : Node) (ts : List Nat) : (n.take ts).window = n.window := rfl
@[simp] theorem Node.take_near (n : Node) (ts : List Nat) : (n.take ts).near = n.near := rfl
@[simp] theorem Node.take_port (n : Node) (ts : List Nat) : (n.take ts).port = n.port := rfl
@[simp] theorem Node.take_refs (n : Node) (ts : List Nat) : (n.take ts).refs = n.refs := rfl
@[simp] theorem Node.take_rounds (n : Node) (ts : List Nat) : (n.take ts).rounds = n.rounds := rfl
@[simp] theorem Node.take_barriers (n : Node) (ts : List Nat) : (n.take ts).barriers = n.barriers := rfl
@[simp] theorem Node.take_rest (n : Node) (ts : List Nat) : (n.take ts).rest = n.rest := rfl
@[simp] theorem Node.take_charged (n : Node) (ts : List Nat) : (n.take ts).charged = n.charged := rfl
@[simp] theorem Node.take_point (n : Node) (ts : List Nat) : (n.take ts).point = n.point := rfl
@[simp] theorem Node.take_pois (n : Node) (ts : List Nat) : (n.take ts).pois = n.pois := rfl

@[simp] theorem Node.mark_word (n : Node) (ts : List Nat) : (n.mark ts).word = n.word := rfl
@[simp] theorem Node.mark_info (n : Node) (ts : List Nat) : (n.mark ts).info = n.info := rfl
@[simp] theorem Node.mark_slot (n : Node) (ts : List Nat) : (n.mark ts).slot = n.slot := rfl
@[simp] theorem Node.mark_copy (n : Node) (ts : List Nat) : (n.mark ts).copy = n.copy := rfl
@[simp] theorem Node.mark_place (n : Node) (ts : List Nat) : (n.mark ts).place = n.place := rfl
@[simp] theorem Node.mark_outs (n : Node) (ts : List Nat) : (n.mark ts).outs = n.outs := rfl
@[simp] theorem Node.mark_fed (n : Node) (ts : List Nat) : (n.mark ts).fed = n.fed := rfl
@[simp] theorem Node.mark_st (n : Node) (ts : List Nat) : (n.mark ts).st = n.st := rfl
@[simp] theorem Node.mark_e (n : Node) (ts : List Nat) : (n.mark ts).e = n.e := rfl
@[simp] theorem Node.mark_round (n : Node) (ts : List Nat) : (n.mark ts).round = n.round := rfl
@[simp] theorem Node.mark_fired (n : Node) (ts : List Nat) : (n.mark ts).fired = n.fired := rfl
@[simp] theorem Node.mark_firings (n : Node) (ts : List Nat) : (n.mark ts).firings = n.firings := rfl
@[simp] theorem Node.mark_grant (n : Node) (ts : List Nat) : (n.mark ts).grant = n.grant := rfl
@[simp] theorem Node.mark_window (n : Node) (ts : List Nat) : (n.mark ts).window = n.window := rfl
@[simp] theorem Node.mark_near (n : Node) (ts : List Nat) : (n.mark ts).near = n.near := rfl
@[simp] theorem Node.mark_port (n : Node) (ts : List Nat) : (n.mark ts).port = n.port := rfl
@[simp] theorem Node.mark_refs (n : Node) (ts : List Nat) : (n.mark ts).refs = n.refs := rfl
@[simp] theorem Node.mark_rounds (n : Node) (ts : List Nat) : (n.mark ts).rounds = n.rounds := rfl
@[simp] theorem Node.mark_barriers (n : Node) (ts : List Nat) : (n.mark ts).barriers = n.barriers := rfl
@[simp] theorem Node.mark_rest (n : Node) (ts : List Nat) : (n.mark ts).rest = n.rest := rfl
@[simp] theorem Node.mark_charged (n : Node) (ts : List Nat) : (n.mark ts).charged = n.charged := rfl
@[simp] theorem Node.mark_point (n : Node) (ts : List Nat) : (n.mark ts).point = n.point := rfl
@[simp] theorem Node.mark_pois (n : Node) (ts : List Nat) : (n.mark ts).pois = n.pois := rfl

@[simp] theorem Node.unmark_word (n : Node) (ts : List Nat) : (n.unmark ts).word = n.word := rfl
@[simp] theorem Node.unmark_info (n : Node) (ts : List Nat) : (n.unmark ts).info = n.info := rfl
@[simp] theorem Node.unmark_slot (n : Node) (ts : List Nat) : (n.unmark ts).slot = n.slot := rfl
@[simp] theorem Node.unmark_copy (n : Node) (ts : List Nat) : (n.unmark ts).copy = n.copy := rfl
@[simp] theorem Node.unmark_place (n : Node) (ts : List Nat) : (n.unmark ts).place = n.place := rfl
@[simp] theorem Node.unmark_outs (n : Node) (ts : List Nat) : (n.unmark ts).outs = n.outs := rfl
@[simp] theorem Node.unmark_fed (n : Node) (ts : List Nat) : (n.unmark ts).fed = n.fed := rfl
@[simp] theorem Node.unmark_st (n : Node) (ts : List Nat) : (n.unmark ts).st = n.st := rfl
@[simp] theorem Node.unmark_e (n : Node) (ts : List Nat) : (n.unmark ts).e = n.e := rfl
@[simp] theorem Node.unmark_round (n : Node) (ts : List Nat) : (n.unmark ts).round = n.round := rfl
@[simp] theorem Node.unmark_fired (n : Node) (ts : List Nat) : (n.unmark ts).fired = n.fired := rfl
@[simp] theorem Node.unmark_firings (n : Node) (ts : List Nat) : (n.unmark ts).firings = n.firings := rfl
@[simp] theorem Node.unmark_grant (n : Node) (ts : List Nat) : (n.unmark ts).grant = n.grant := rfl
@[simp] theorem Node.unmark_window (n : Node) (ts : List Nat) : (n.unmark ts).window = n.window := rfl
@[simp] theorem Node.unmark_near (n : Node) (ts : List Nat) : (n.unmark ts).near = n.near := rfl
@[simp] theorem Node.unmark_port (n : Node) (ts : List Nat) : (n.unmark ts).port = n.port := rfl
@[simp] theorem Node.unmark_refs (n : Node) (ts : List Nat) : (n.unmark ts).refs = n.refs := rfl
@[simp] theorem Node.unmark_rounds (n : Node) (ts : List Nat) : (n.unmark ts).rounds = n.rounds := rfl
@[simp] theorem Node.unmark_barriers (n : Node) (ts : List Nat) : (n.unmark ts).barriers = n.barriers := rfl
@[simp] theorem Node.unmark_rest (n : Node) (ts : List Nat) : (n.unmark ts).rest = n.rest := rfl
@[simp] theorem Node.unmark_charged (n : Node) (ts : List Nat) : (n.unmark ts).charged = n.charged := rfl
@[simp] theorem Node.unmark_point (n : Node) (ts : List Nat) : (n.unmark ts).point = n.point := rfl
@[simp] theorem Node.unmark_pois (n : Node) (ts : List Nat) : (n.unmark ts).pois = n.pois := rfl

end Sys2Proof.Machine
end

