-- ==== Sys2Proof/Tests/Small.lean ====
section
/-! SUPPORT. Small states for the tests: a fabric of one paddock whose plane 0 holds a few nodes or task-mode PEs. -/

namespace Sys2Proof.Tests

open Sys2Proof.Machine

/-- The fields of a graph word without targets. -/
def ga (ty : Ty := .i32) (mode : BitVec 3 := 0#3) (imm : Bool := false) (opt : BitVec 2 := 0#2) (fmt : BitVec 26 := 0#26) : GArgs :=
  { ty, mode, imm, opt, tgtA := none, tgtB := none, fmt }

def p0 : PlaneId := ⟨0, 0⟩
def qu (ts : List Token) : Queue := { toks := ts }
def dat (n : Nat) : Token := .data (BitVec.ofNat 64 n)
def mk3 : Token := .marker 3#3 0#8 0#8
def mk5 (r : BitVec 8) : Token := .marker 5#3 r 0#8
def bad : Token := .poison 2#8

/-- A place of each kind in tile (0, 0) of the paddock. -/
def onPe : Place := .pe 0 0 0
def onRouter : Place := .router 0 0 0
def onMemory : Place := .memTile 0 0
def onMfe : Place := .mfe 0 0

/-- A node of the instruction at a place, with target A leading out of the load and tokens on its operands. -/
def node (i : Instr) (place : Place) (a b c p : List Token := []) (fed : BitVec 4 := 15#4) (st : OpState := .plain) : Node :=
  { word := (encodeGraph i).getD 0#64, place, fed, a := qu a, b := qu b, c := qu c, p := qu p, st, outs := [some (.exit 0)], near := 4 }

/-- A LIVE plane of the nodes. -/
def plane (ns : List Node) : Plane := { st := .live, nodes := ns }

/-- A package in cycle 100 whose paddock 0 holds the plane, with the enables of its context; node 0 moves next. -/
def fabric (pl : Plane) (trapen : BitVec 8 := 0#8) (cur : Cursor := .node p0 0) : State :=
  { State.reset with
    pads := [(0, { x0 := 0, y0 := 0, w := 2, h := 2, planes := [pl] })], cursor := cur, cycle := 100
    ctxs := [(0, { state := 1, trapen })] }

/-- The package with one node to fire. -/
def one (n : Node) (trapen : BitVec 8 := 0#8) : State := fabric (plane [n]) trapen

theorem turn_of {s : State} {p : PlaneId} {k : Nat} {pl : Plane} {n : Node} {c : Cost} {m : Nat} (h1 : s.cursor = .node p k)
    (h2 : s.plane? p = some pl) (h3 : pl.nodes[k]? = some n) (h4 : pl.mayFire k n = true) (h5 : (grantCycle s p).1 = true)
    (h6 : (admitTimes (grantCycle s p).2 p n.place c m).1 = true) (h7 : (grantCycle s p).2.routerFree p n = true := by rfl) :
    NodeTurn s p k pl n c m := ⟨h1, h2, h3, h4, fun _ => h5, fun _ => h7, h6⟩

theorem turn_one {n : Node} {e : BitVec 8} {c : Cost} {m : Nat} (h5 : (grantCycle (one n e) p0).1 = true)
    (h6 : (admitTimes (grantCycle (one n e) p0).2 p0 n.place c m).1 = true) (h4 : (plane [n]).mayFire 0 n = true)
    (h7 : (grantCycle (one n e) p0).2.routerFree p0 n = true := by rfl) :
    NodeTurn (one n e) p0 0 (plane [n]) n c m := turn_of rfl rfl rfl h4 h5 h6 h7

/-- A step that answers a next state, whichever. -/
theorem answers {o : Host.Outcome State Fault Refusal} {t : State} (h : o = .next t) : ∃ t, o = .next t := ⟨t, h⟩

/-- What an operation gives, whichever. -/
theorem gives {α : Type} {x y : α} (h : x = y) : ∃ t, x = t := ⟨y, h⟩

end Sys2Proof.Tests
end

