-- ==== Sys2Proof/Tests/Control.lean ====
section
/-! SUPPORT. Every clause of the statements on control operators is met: each line applies a statement to one node's
firing and proves its premises there. -/

namespace Sys2Proof.Tests

open Sys2Proof.Machine Sys2Proof.Claims

/-- The view of one node's firing. -/
abbrev nv (n : Node) (g : GArgs) (en : BitVec 8 := 0#8) : View := nodeView (one n en) (plane [n]) 0 n g

/-- The state in which an operator of one node fires, charged for its operations. -/
abbrev due (i : Instr) (n : Node) (g : GArgs) (en : BitVec 8) : State :=
  (one n en).admitted p0 n.place (controlCost i) (controlTimes i (nv n g en))

/-- A firing of one node under a relation, with its premises; of a DRAIN, whose region has nothing more to wait for. -/
theorem ctlDrain {does : Instr → View → Effect → Prop} {i : Instr} {n : Node} {e : Effect} {en : BitVec 8} (h : controlFires does)
    (g : GArgs) (hd : does i (nv n g en) e) (h1 : (grantCycle (one n en) p0).1 = true)
    (h2 : (admitTimes (grantCycle (one n en) p0).2 p0 n.place (controlCost i) (controlTimes i (nv n g en))).1 = true)
    (h3 : (plane [n]).mayFire 0 n = true) (h4 : (plane [n]).canEmit n e.emits = true) (h5 : (plane [n]).drainWaits 0 n = false)
    (h7 : (grantCycle (one n en) p0).2.routerFree p0 n = true := by rfl) :
    exec i (one n en) = .next (commitEffect (due i n g en) p0 0 n e) :=
  h i (one n en) p0 0 (plane [n]) n g e hd (turn_one h1 h2 h3 h7) h4 fun _ _ => h5

/-- The same of an instruction that is no DRAIN. -/
theorem ctl {does : Instr → View → Effect → Prop} {i : Instr} {n : Node} {e : Effect} {en : BitVec 8} (h : controlFires does)
    (g : GArgs) (hd : does i (nv n g en) e) (h1 : (grantCycle (one n en) p0).1 = true)
    (h2 : (admitTimes (grantCycle (one n en) p0).2 p0 n.place (controlCost i) (controlTimes i (nv n g en))).1 = true)
    (h3 : (plane [n]).mayFire 0 n = true) (h4 : (plane [n]).canEmit n e.emits = true) (h5 : i.graphOpcode ≠ some 0x8F#8)
    (h7 : (grantCycle (one n en) p0).2.routerFree p0 n = true := by rfl) :
    exec i (one n en) = .next (commitEffect (due i n g en) p0 0 n e) :=
  h i (one n en) p0 0 (plane [n]) n g e hd (turn_one h1 h2 h3 h7) h4 fun _ hg => absurd (by rw [hg]; rfl) h5

/-- A fault of one node, with its premises. -/
theorem ctlFault {i : Instr} {n : Node} {ops : List Operand} {c : Nat} {en : BitVec 8} (h : controlFault) (g : GArgs)
    (hd : ControlFaults i (nv n g en) ops c) (h1 : (grantCycle (one n en) p0).1 = true)
    (h2 : (admitTimes (grantCycle (one n en) p0).2 p0 n.place (controlCost i) (controlTimes i (nv n g en))).1 = true)
    (h3 : (plane [n]).mayFire 0 n = true) (h7 : (grantCycle (one n en) p0).2.routerFree p0 n = true := by rfl) :
    exec i (one n en) = .next ((due i n g en).detectFault p0 (some (.node 0))
      { cause := c, iter := some [(nv n g en).e], opv := some ([Operand.a, .b, .c].map ((nv n g en).recorded ops)) }) :=
  h i (one n en) p0 0 (plane [n]) n g ops c hd (turn_one h1 h2 h3 h7)

def rt (i : Instr) (a b c p : List Token := []) (st : OpState := .plain) (fed : BitVec 4 := 15#4) : Node :=
  { node i onRouter a b c p fed st with outs := [some (.exit 0), some (.exit 1), some (.exit 2), some (.exit 3), some (.exit 4), some (.exit 5), some (.exit 6), some (.exit 7)] }

def steer1 : Node := rt (.steer (ga)) (a := [mk3]) (p := [mk3])
def steer2 : Node := rt (.steer (ga .i32 0#3 false 1#2)) (a := [mk3]) (p := [mk3])
def steer3 : Node := rt (.steer (ga .i32 0#3 false 2#2)) (a := [mk5 1#8]) (p := [mk3])
def steer4 : Node := rt (.steer (ga)) (a := [dat 5]) (p := [dat 1])
def steer5 : Node := rt (.steer (ga .i32 0#3 false 3#2)) (a := [mk3]) (p := [dat 1])
def steer6 : Node := rt (.steer (ga)) (a := [dat 5]) (p := [dat 2])
def steer7 : Node := rt (.steer (ga)) (a := [dat 5]) (p := [bad])
theorem witness_steer (h : controlFires SteersTo) :
    (∃ t, exec (.steer (ga)) (one steer1 0#8) = .next t) ∧
    (∃ t, exec (.steer (ga .i32 0#3 false 1#2)) (one steer2 0#8) = .next t) ∧
    (∃ t, exec (.steer (ga .i32 0#3 false 2#2)) (one steer3 0#8) = .next t) ∧
    (∃ t, exec (.steer (ga)) (one steer4 0#8) = .next t) ∧
    (∃ t, exec (.steer (ga .i32 0#3 false 3#2)) (one steer5 0#8) = .next t) ∧
    (∃ t, exec (.steer (ga)) (one steer6 0#8) = .next t) ∧
    (∃ t, exec (.steer (ga)) (one steer7 0#8) = .next t) :=
  ⟨answers (ctl h (ga) (.steerMarkers (v := nv steer1 (ga)) rfl rfl (by decide) rfl rfl rfl) rfl rfl rfl rfl (by decide)),
   answers (ctl h (ga .i32 0#3 false 1#2) (.steerMarkers (v := nv steer2 (ga .i32 0#3 false 1#2)) rfl rfl (by decide) rfl rfl rfl) rfl rfl rfl rfl (by decide)),
   answers (ctl h (ga .i32 0#3 false 2#2) (.steerMarkers (v := nv steer3 (ga .i32 0#3 false 2#2)) rfl rfl (by decide) rfl rfl rfl) rfl rfl rfl rfl (by decide)),
   answers (ctl h (ga) (.steerTrue (v := nv steer4 (ga)) rfl rfl rfl (.inr rfl)) rfl rfl rfl rfl (by decide)),
   answers (ctl h (ga .i32 0#3 false 3#2) (.steerTrue (v := nv steer5 (ga .i32 0#3 false 3#2)) rfl rfl rfl (.inl rfl)) rfl rfl rfl rfl (by decide)),
   answers (ctl h (ga) (.steerFalse (v := nv steer6 (ga)) rfl rfl rfl (.inr rfl)) rfl rfl rfl rfl (by decide)),
   answers (ctl h (ga) (.steerPoison (v := nv steer7 (ga)) rfl rfl rfl (.inr rfl)) rfl rfl rfl rfl (by decide))⟩

def merge1 : Node := rt (.merge (ga)) (a := [mk3]) (b := [mk3]) (p := [mk3])
def merge2 : Node := rt (.merge (ga .i32 0#3 false 1#2)) (a := [mk3]) (p := [mk3])
def merge3 : Node := rt (.merge (ga .i32 0#3 false 2#2)) (b := [mk3]) (p := [mk3])
def merge4 : Node := rt (.merge (ga)) (a := [dat 5]) (p := [dat 1])
def merge5 : Node := rt (.merge (ga .i32 0#3 false 3#2)) (b := [mk3]) (p := [dat 0])
def merge6 : Node := rt (.merge (ga)) (b := [dat 5]) (p := [bad])
theorem witness_merge (h : controlFires SteersTo) :
    (∃ t, exec (.merge (ga)) (one merge1 0#8) = .next t) ∧
    (∃ t, exec (.merge (ga .i32 0#3 false 1#2)) (one merge2 0#8) = .next t) ∧
    (∃ t, exec (.merge (ga .i32 0#3 false 2#2)) (one merge3 0#8) = .next t) ∧
    (∃ t, exec (.merge (ga)) (one merge4 0#8) = .next t) ∧
    (∃ t, exec (.merge (ga .i32 0#3 false 3#2)) (one merge5 0#8) = .next t) ∧
    (∃ t, exec (.merge (ga)) (one merge6 0#8) = .next t) :=
  ⟨answers (ctl h (ga) (.mergeMarkers (v := nv merge1 (ga)) (hs := [mk3, mk3, mk3]) rfl rfl (by decide) rfl rfl rfl rfl) rfl rfl rfl rfl (by decide)),
   answers (ctl h (ga .i32 0#3 false 1#2) (.mergeMarkers (v := nv merge2 (ga .i32 0#3 false 1#2)) (hs := [mk3, mk3]) rfl rfl (by decide) rfl rfl rfl rfl) rfl rfl rfl rfl (by decide)),
   answers (ctl h (ga .i32 0#3 false 2#2) (.mergeMarkers (v := nv merge3 (ga .i32 0#3 false 2#2)) (hs := [mk3, mk3]) rfl rfl (by decide) rfl rfl rfl rfl) rfl rfl rfl rfl (by decide)),
   answers (ctl h (ga) (.mergeTrue (v := nv merge4 (ga)) rfl rfl rfl (.inr rfl)) rfl rfl rfl rfl (by decide)),
   answers (ctl h (ga .i32 0#3 false 3#2) (.mergeFalse (v := nv merge5 (ga .i32 0#3 false 3#2)) rfl rfl rfl (.inl rfl)) rfl rfl rfl rfl (by decide)),
   answers (ctl h (ga) (.mergePoison (v := nv merge6 (ga)) rfl rfl rfl (.inr rfl)) rfl rfl rfl rfl (by decide))⟩

def loops1 : Node := rt (.carry (ga)) (a := [mk3])
def loops2 : Node := rt (.carry (ga)) (a := [dat 5])
def loops3 : Node := rt (.carry (ga)) (p := [mk3]) (st := .loop .echo (none))
def loops4 : Node := rt (.carry (ga)) (b := [dat 5]) (p := [dat 1]) (st := .loop .busy (none))
def loops5 : Node := rt (.carry (ga)) (p := [dat 0]) (st := .loop .busy (none))
def loops6 : Node := rt (.carry (ga)) (p := [bad]) (st := .loop .busy (none))
def loops7 : Node := rt (.invar (ga)) (a := [mk3])
def loops8 : Node := rt (.invar (ga)) (a := [dat 5])
def loops9 : Node := rt (.invar (ga)) (p := [mk3]) (st := .loop .echo (none))
def loops10 : Node := rt (.invar (ga)) (p := [dat 1]) (st := .loop .busy (some (dat 9)))
def loops11 : Node := rt (.invar (ga)) (p := [dat 0]) (st := .loop .busy (some (dat 9)))
theorem witness_loops (h : controlFires SteersTo) :
    (∃ t, exec (.carry (ga)) (one loops1 0#8) = .next t) ∧
    (∃ t, exec (.carry (ga)) (one loops2 0#8) = .next t) ∧
    (∃ t, exec (.carry (ga)) (one loops3 0#8) = .next t) ∧
    (∃ t, exec (.carry (ga)) (one loops4 0#8) = .next t) ∧
    (∃ t, exec (.carry (ga)) (one loops5 0#8) = .next t) ∧
    (∃ t, exec (.carry (ga)) (one loops6 0#8) = .next t) ∧
    (∃ t, exec (.invar (ga)) (one loops7 0#8) = .next t) ∧
    (∃ t, exec (.invar (ga)) (one loops8 0#8) = .next t) ∧
    (∃ t, exec (.invar (ga)) (one loops9 0#8) = .next t) ∧
    (∃ t, exec (.invar (ga)) (one loops10 0#8) = .next t) ∧
    (∃ t, exec (.invar (ga)) (one loops11 0#8) = .next t) :=
  ⟨answers (ctl h (ga) (.carryInitMarker (v := nv loops1 (ga)) rfl rfl rfl) rfl rfl rfl rfl (by decide)),
   answers (ctl h (ga) (.carryInit (v := nv loops2 (ga)) rfl rfl rfl) rfl rfl rfl rfl (by decide)),
   answers (ctl h (ga) (.carryEcho (v := nv loops3 (ga)) rfl rfl rfl) rfl rfl rfl rfl (by decide)),
   answers (ctl h (ga) (.carryLoop (v := nv loops4 (ga)) rfl rfl rfl rfl rfl) rfl rfl rfl rfl (by decide)),
   answers (ctl h (ga) (.carryRearm (v := nv loops5 (ga)) rfl rfl rfl rfl nofun) rfl rfl rfl rfl (by decide)),
   answers (ctl h (ga) (.carryRearm (v := nv loops6 (ga)) rfl rfl rfl rfl (fun _ => rfl)) rfl rfl rfl rfl (by decide)),
   answers (ctl h (ga) (.invarEmptyMarker (v := nv loops7 (ga)) rfl rfl rfl) rfl rfl rfl rfl (by decide)),
   answers (ctl h (ga) (.invarEmpty (v := nv loops8 (ga)) rfl rfl rfl) rfl rfl rfl rfl (by decide)),
   answers (ctl h (ga) (.invarEcho (v := nv loops9 (ga)) rfl rfl rfl) rfl rfl rfl rfl (by decide)),
   answers (ctl h (ga) (.invarHold (v := nv loops10 (ga)) rfl rfl rfl) rfl rfl rfl rfl (by decide)),
   answers (ctl h (ga) (.invarRelease (v := nv loops11 (ga)) rfl rfl rfl rfl nofun) rfl rfl rfl rfl (by decide))⟩

def pass1 : Node := rt (.fork (ga)) (a := [dat 5])
def pass2 : Node := rt (.sink (ga)) (a := [dat 5])
def pass3 : Node := rt (.gate (ga)) (a := [mk3])
def pass4 : Node := rt (.gate (ga)) (a := [dat 5]) (p := [.ord])
theorem witness_pass (h : controlFires SteersTo) :
    (∃ t, exec (.fork (ga)) (one pass1 0#8) = .next t) ∧
    (∃ t, exec (.sink (ga)) (one pass2 0#8) = .next t) ∧
    (∃ t, exec (.gate (ga)) (one pass3 0#8) = .next t) ∧
    (∃ t, exec (.gate (ga)) (one pass4 0#8) = .next t) :=
  ⟨answers (ctl h (ga) (.fork (v := nv pass1 (ga)) rfl) rfl rfl rfl rfl (by decide)),
   answers (ctl h (ga) (.sink (v := nv pass2 (ga)) rfl) rfl rfl rfl rfl (by decide)),
   answers (ctl h (ga) (.gateMarker (v := nv pass3 (ga)) rfl rfl) rfl rfl rfl rfl (by decide)),
   answers (ctl h (ga) (.gate (v := nv pass4 (ga)) rfl rfl rfl) rfl rfl rfl rfl (by decide))⟩

def count1 : Node := rt (.count (ga .i32 0#3 false 0#2 65537#26)) (a := [mk3]) (b := [mk3])
def count2 : Node := rt (.count (ga .i32 0#3 false 0#2 65537#26)) (a := [dat 0]) (b := [dat 2])
def count3 : Node := rt (.count (ga .i32 0#3 false 1#2 131071#26)) (a := [dat 2]) (b := [dat 1]) (st := .count (some 1))
def count4 : Node := rt (.count (ga .i32 0#3 false 0#2 1#26)) (a := [dat 0]) (b := [dat 1])
def count5 : Node := rt (.count (ga .i32 0#3 false 0#2 393217#26)) (a := [dat 3]) (b := [dat 3])
def count6 : Node := rt (.count (ga .i32 0#3 false 0#2 1#26)) (a := [dat 3]) (b := [dat 3])
def count7 : Node := rt (.count (ga .i32 0#3 false 0#2 65537#26)) (a := [dat 0]) (b := [dat 2]) (st := .count none)
def count8 : Node := rt (.count (ga .i32 0#3 false 0#2 65537#26)) (a := [bad]) (b := [dat 2])
def count9 : Node := rt (.count (ga .i32 0#3 false 0#2 1#26)) (a := [dat 0]) (b := [bad])
theorem witness_count (h : controlFires SequencesTo) :
    (∃ t, exec (.count (ga .i32 0#3 false 0#2 65537#26)) (one count1 0#8) = .next t) ∧
    (∃ t, exec (.count (ga .i32 0#3 false 0#2 65537#26)) (one count2 0#8) = .next t) ∧
    (∃ t, exec (.count (ga .i32 0#3 false 1#2 131071#26)) (one count3 0#8) = .next t) ∧
    (∃ t, exec (.count (ga .i32 0#3 false 0#2 1#26)) (one count4 0#8) = .next t) ∧
    (∃ t, exec (.count (ga .i32 0#3 false 0#2 393217#26)) (one count5 0#8) = .next t) ∧
    (∃ t, exec (.count (ga .i32 0#3 false 0#2 1#26)) (one count6 0#8) = .next t) ∧
    (∃ t, exec (.count (ga .i32 0#3 false 0#2 65537#26)) (one count7 0#8) = .next t) ∧
    (∃ t, exec (.count (ga .i32 0#3 false 0#2 65537#26)) (one count8 0#8) = .next t) ∧
    (∃ t, exec (.count (ga .i32 0#3 false 0#2 1#26)) (one count9 0#8) = .next t) :=
  ⟨answers (ctl h (ga .i32 0#3 false 0#2 65537#26) (.countMarkers (v := nv count1 (ga .i32 0#3 false 0#2 65537#26)) rfl rfl rfl rfl rfl rfl) rfl rfl rfl rfl (by decide)),
   answers (ctl h (ga .i32 0#3 false 0#2 65537#26) (.countValue (v := nv count2 (ga .i32 0#3 false 0#2 65537#26)) (k := 0) (hi := 2) ⟨dat 0, dat 2, rfl, rfl, by decide, .inr ⟨rfl, rfl, rfl, by decide⟩⟩ (.inl (by decide)) (.inl (by decide))) rfl rfl rfl rfl (by decide)),
   answers (ctl h (ga .i32 0#3 false 1#2 131071#26) (.countLast (v := nv count3 (ga .i32 0#3 false 1#2 131071#26)) (k := 1) (hi := 1) ⟨dat 2, dat 1, rfl, rfl, by decide, .inl rfl⟩ (.inr (.inr (by decide))) (by unfold inRange; decide) (by decide)) rfl rfl rfl rfl (by decide)),
   answers (ctl h (ga .i32 0#3 false 0#2 1#26) (.countLastBare (v := nv count4 (ga .i32 0#3 false 0#2 1#26)) (k := 0) (hi := 1) ⟨dat 0, dat 1, rfl, rfl, by decide, .inr ⟨rfl, rfl, rfl, by decide⟩⟩ (.inl (by decide)) (by unfold inRange; decide) (by decide)) rfl rfl rfl rfl (by decide)),
   answers (ctl h (ga .i32 0#3 false 0#2 393217#26) (.countEmpty (v := nv count5 (ga .i32 0#3 false 0#2 393217#26)) (k := 3) (hi := 3) ⟨dat 3, dat 3, rfl, rfl, by decide, .inr ⟨rfl, rfl, rfl, by decide⟩⟩ (by unfold inRange; decide) (by decide)) rfl rfl rfl rfl (by decide)),
   answers (ctl h (ga .i32 0#3 false 0#2 1#26) (.countEmptyBare (v := nv count6 (ga .i32 0#3 false 0#2 1#26)) (k := 3) (hi := 3) ⟨dat 3, dat 3, rfl, rfl, by decide, .inr ⟨rfl, rfl, rfl, by decide⟩⟩ (by unfold inRange; decide) (by decide)) rfl rfl rfl rfl (by decide)),
   answers (ctl h (ga .i32 0#3 false 0#2 65537#26) (.countMarker (v := nv count7 (ga .i32 0#3 false 0#2 65537#26)) rfl rfl rfl (by decide)) rfl rfl rfl rfl (by decide)),
   answers (ctl h (ga .i32 0#3 false 0#2 65537#26) (.countPoison (v := nv count8 (ga .i32 0#3 false 0#2 65537#26)) rfl rfl rfl rfl rfl rfl rfl (by decide)) rfl rfl rfl rfl (by decide)),
   answers (ctl h (ga .i32 0#3 false 0#2 1#26) (.countPoisonBare (v := nv count9 (ga .i32 0#3 false 0#2 1#26)) rfl rfl rfl rfl rfl rfl rfl (by decide)) rfl rfl rfl rfl (by decide))⟩

def mark1 : Node := rt (.mark (ga .i32 0#3 false 0#2 65537#26)) (a := [dat 0])
def mark2 : Node := rt (.mark (ga .i32 0#3 false 0#2 65537#26)) (a := [dat 0]) (st := .mark 1 false)
def mark3 : Node := rt (.mark (ga .i32 0#3 false 0#2 65537#26)) (a := [mk3]) (st := .mark 1 false)
def mark4 : Node := rt (.mark (ga .i32 0#3 false 0#2 1638401#26)) (a := [dat 0]) (st := .mark 0 true)
def mark5 : Node := rt (.mark (ga .i32 0#3 false 0#2 1638401#26)) (a := [mk3]) (st := .mark 0 true)
def mark6 : Node := rt (.mark (ga .i32 0#3 false 0#2 1638401#26)) (a := [.marker 4#3 9#8 1#8]) (st := .mark 0 true)
def mark7 : Node := rt (.mstrip (ga .i32 0#3 false 0#2 3#26)) (a := [mk3])
def mark8 : Node := rt (.mstrip (ga .i32 0#3 false 0#2 3#26)) (a := [.marker 4#3 0#8 0#8])
def mark9 : Node := rt (.mstrip (ga .i32 0#3 false 0#2 3#26)) (a := [dat 1])
def mark10 : Node := rt (.mlift (ga .i32 0#3 false 0#2 35#26)) (a := [mk3])
def mark11 : Node := rt (.mlift (ga .i32 0#3 false 0#2 52#26)) (a := [.marker 4#3 7#8 0#8])
def mark12 : Node := rt (.mlift (ga .i32 0#3 false 0#2 10#26)) (a := [.marker 2#3 7#8 0#8])
def mark13 : Node := rt (.mlift (ga .i32 0#3 false 0#2 35#26)) (a := [mk5 1#8])
def mark14 : Node := rt (.mlift (ga .i32 0#3 false 0#2 35#26)) (a := [dat 1])
def mark15 : Node := rt (.mtest (ga .i32 0#3 false 0#2 3#26)) (a := [mk3])
def mark16 : Node := rt (.mtest (ga .i32 0#3 false 0#2 3#26)) (a := [dat 1])
def mark17 : Node := rt (.zip (ga .i32 0#3 false 0#2 1#26)) (a := [mk3]) (b := [mk3]) (fed := 3#4)
def mark18 : Node := rt (.zip (ga .i32 0#3 false 0#2 1#26)) (a := [dat 1]) (fed := 3#4)
def mark19 : Node := rt (.zip (ga .i32 0#3 false 0#2 1#26)) (b := [dat 1]) (fed := 3#4) (st := .zip 1 1)
theorem witness_mark (h : controlFires SequencesTo) :
    (∃ t, exec (.mark (ga .i32 0#3 false 0#2 65537#26)) (one mark1 0#8) = .next t) ∧
    (∃ t, exec (.mark (ga .i32 0#3 false 0#2 65537#26)) (one mark2 0#8) = .next t) ∧
    (∃ t, exec (.mark (ga .i32 0#3 false 0#2 65537#26)) (one mark3 0#8) = .next t) ∧
    (∃ t, exec (.mark (ga .i32 0#3 false 0#2 1638401#26)) (one mark4 0#8) = .next t) ∧
    (∃ t, exec (.mark (ga .i32 0#3 false 0#2 1638401#26)) (one mark5 0#8) = .next t) ∧
    (∃ t, exec (.mark (ga .i32 0#3 false 0#2 1638401#26)) (one mark6 0#8) = .next t) ∧
    (∃ t, exec (.mstrip (ga .i32 0#3 false 0#2 3#26)) (one mark7 0#8) = .next t) ∧
    (∃ t, exec (.mstrip (ga .i32 0#3 false 0#2 3#26)) (one mark8 0#8) = .next t) ∧
    (∃ t, exec (.mstrip (ga .i32 0#3 false 0#2 3#26)) (one mark9 0#8) = .next t) ∧
    (∃ t, exec (.mlift (ga .i32 0#3 false 0#2 35#26)) (one mark10 0#8) = .next t) ∧
    (∃ t, exec (.mlift (ga .i32 0#3 false 0#2 52#26)) (one mark11 0#8) = .next t) ∧
    (∃ t, exec (.mlift (ga .i32 0#3 false 0#2 10#26)) (one mark12 0#8) = .next t) ∧
    (∃ t, exec (.mlift (ga .i32 0#3 false 0#2 35#26)) (one mark13 0#8) = .next t) ∧
    (∃ t, exec (.mlift (ga .i32 0#3 false 0#2 35#26)) (one mark14 0#8) = .next t) ∧
    (∃ t, exec (.mtest (ga .i32 0#3 false 0#2 3#26)) (one mark15 0#8) = .next t) ∧
    (∃ t, exec (.mtest (ga .i32 0#3 false 0#2 3#26)) (one mark16 0#8) = .next t) ∧
    (∃ t, exec (.zip (ga .i32 0#3 false 0#2 1#26)) (one mark17 0#8) = .next t) ∧
    (∃ t, exec (.zip (ga .i32 0#3 false 0#2 1#26)) (one mark18 0#8) = .next t) ∧
    (∃ t, exec (.zip (ga .i32 0#3 false 0#2 1#26)) (one mark19 0#8) = .next t) :=
  ⟨answers (ctl h (ga .i32 0#3 false 0#2 65537#26) (.markPass (v := nv mark1 (ga .i32 0#3 false 0#2 65537#26)) (n := 0) (.inr ⟨rfl, rfl, rfl⟩) rfl rfl) rfl rfl rfl rfl (by decide)),
   answers (ctl h (ga .i32 0#3 false 0#2 65537#26) (.markPass (v := nv mark2 (ga .i32 0#3 false 0#2 65537#26)) (n := 1) (.inl rfl) rfl rfl) rfl rfl rfl rfl (by decide)),
   answers (ctl h (ga .i32 0#3 false 0#2 65537#26) (.markMarker (v := nv mark3 (ga .i32 0#3 false 0#2 65537#26)) (n := 1) (.inl rfl) rfl rfl) rfl rfl rfl rfl (by decide)),
   answers (ctl h (ga .i32 0#3 false 0#2 1638401#26) (.markPending (v := nv mark4 (ga .i32 0#3 false 0#2 1638401#26)) rfl rfl rfl) rfl rfl rfl rfl (by decide)),
   answers (ctl h (ga .i32 0#3 false 0#2 1638401#26) (.markMerges (v := nv mark5 (ga .i32 0#3 false 0#2 1638401#26)) rfl rfl (by decide)) rfl rfl rfl rfl (by decide)),
   answers (ctl h (ga .i32 0#3 false 0#2 1638401#26) (.markMergesRound (v := nv mark6 (ga .i32 0#3 false 0#2 1638401#26)) rfl rfl (by decide)) rfl rfl rfl rfl (by decide)),
   answers (ctl h (ga .i32 0#3 false 0#2 3#26) (.mstripDrop (v := nv mark7 (ga .i32 0#3 false 0#2 3#26)) rfl rfl (by decide)) rfl rfl rfl rfl (by decide)),
   answers (ctl h (ga .i32 0#3 false 0#2 3#26) (.mstripPass (v := nv mark8 (ga .i32 0#3 false 0#2 3#26)) rfl (.inr (by decide))) rfl rfl rfl rfl (by decide)),
   answers (ctl h (ga .i32 0#3 false 0#2 3#26) (.mstripPass (v := nv mark9 (ga .i32 0#3 false 0#2 3#26)) rfl (.inl rfl)) rfl rfl rfl rfl (by decide)),
   answers (ctl h (ga .i32 0#3 false 0#2 35#26) (.mliftUp (v := nv mark10 (ga .i32 0#3 false 0#2 35#26)) rfl (by decide) (by decide) (by decide)) rfl rfl rfl rfl (by decide)),
   answers (ctl h (ga .i32 0#3 false 0#2 52#26) (.mliftKeep (v := nv mark11 (ga .i32 0#3 false 0#2 52#26)) rfl (by decide) (.inl (by decide))) rfl rfl rfl rfl (by decide)),
   answers (ctl h (ga .i32 0#3 false 0#2 10#26) (.mliftKeep (v := nv mark12 (ga .i32 0#3 false 0#2 10#26)) rfl (by decide) (.inr (by decide))) rfl rfl rfl rfl (by decide)),
   answers (ctl h (ga .i32 0#3 false 0#2 35#26) (.mliftOther (v := nv mark13 (ga .i32 0#3 false 0#2 35#26)) rfl rfl (by decide)) rfl rfl rfl rfl (by decide)),
   answers (ctl h (ga .i32 0#3 false 0#2 35#26) (.mliftPass (v := nv mark14 (ga .i32 0#3 false 0#2 35#26)) rfl rfl) rfl rfl rfl rfl (by decide)),
   answers (ctl h (ga .i32 0#3 false 0#2 3#26) (.mtest (v := nv mark15 (ga .i32 0#3 false 0#2 3#26)) rfl) rfl rfl rfl rfl (by decide)),
   answers (ctl h (ga .i32 0#3 false 0#2 3#26) (.mtest (v := nv mark16 (ga .i32 0#3 false 0#2 3#26)) rfl) rfl rfl rfl rfl (by decide)),
   answers (ctl h (ga .i32 0#3 false 0#2 1#26) (.zipMarkers (v := nv mark17 (ga .i32 0#3 false 0#2 1#26)) (hs := [mk3, mk3]) (.inr ⟨rfl, rfl, rfl⟩) rfl rfl rfl) rfl rfl rfl rfl (by decide)),
   answers (ctl h (ga .i32 0#3 false 0#2 1#26) (.zipMore (v := nv mark18 (ga .i32 0#3 false 0#2 1#26)) (turn := 0) (taken := 0) (.inr ⟨rfl, rfl, rfl⟩) rfl rfl (by decide)) rfl rfl rfl rfl (by decide)),
   answers (ctl h (ga .i32 0#3 false 0#2 1#26) (.zipTurn (v := nv mark19 (ga .i32 0#3 false 0#2 1#26)) (turn := 1) (taken := 1) (.inl rfl) rfl rfl (by decide)) rfl rfl rfl rfl (by decide))⟩

def order1 : Node := rt (.ord (ga)) (a := [dat 1])
def order2 : Node := rt (.ord (ga .i32 0#3 false 1#2)) (a := [mk3])
def order3 : Node := rt (.ord (ga)) (a := [mk3])
def order4 : Node := rt (.join (ga .tok 0#3 false 0#2 1#26)) (a := [.ord]) (b := [.ord]) (fed := 3#4)
def order5 : Node := rt (.join (ga .tok)) (a := [.ord]) (b := [.ord]) (fed := 3#4)
def order6 : Node := rt (.bar (ga)) (b := [dat 2])
def order7 : Node := rt (.bar (ga)) (b := [bad]) (st := .bar none)
def order8 : Node := rt (.bar (ga)) (b := [mk3])
def order9 : Node := rt (.bar (ga)) (a := [.marker 6#3 1#8 0#8])
def order10 : Node := rt (.bar (ga)) (a := [mk3]) (st := .bar (some 1))
def order11 : Node := rt (.bar (ga)) (a := [dat 1]) (st := .bar (some 1))
def order12 : Node := rt (.bar (ga)) (st := .bar (some 0))
def order13 : Node := rt (.drain (ga)) (a := [mk5 0#8])
def order14 : Node := rt (.drain (ga)) (a := [.marker 6#3 0#8 0#8])
def order15 : Node := rt (.drain (ga .i32 0#3 false 1#2)) (a := [.marker 7#3 0#8 0#8])
def order16 : Node := rt (.call (ga .tok)) (a := [dat 1]) (fed := 1#4)
def order17 : Node := rt (.call (ga .tok)) (b := [dat 1]) (fed := 2#4)
def order18 : Node := rt (.call (ga .tok)) (c := [dat 1]) (fed := 4#4)
def order19 : Node := rt (.entry (ga)) (a := [dat 1])
def order20 : Node := rt (.exit (ga)) (a := [dat 1])
theorem witness_order (h : controlFires OrdersTo) :
    (∃ t, exec (.ord (ga)) (one order1 0#8) = .next t) ∧
    (∃ t, exec (.ord (ga .i32 0#3 false 1#2)) (one order2 0#8) = .next t) ∧
    (∃ t, exec (.ord (ga)) (one order3 0#8) = .next t) ∧
    (∃ t, exec (.join (ga .tok 0#3 false 0#2 1#26)) (one order4 0#8) = .next t) ∧
    (∃ t, exec (.join (ga .tok)) (one order5 0#8) = .next t) ∧
    (∃ t, exec (.bar (ga)) (one order6 0#8) = .next t) ∧
    (∃ t, exec (.bar (ga)) (one order7 0#8) = .next t) ∧
    (∃ t, exec (.bar (ga)) (one order8 0#8) = .next t) ∧
    (∃ t, exec (.bar (ga)) (one order9 0#8) = .next t) ∧
    (∃ t, exec (.bar (ga)) (one order10 0#8) = .next t) ∧
    (∃ t, exec (.bar (ga)) (one order11 0#8) = .next t) ∧
    (∃ t, exec (.bar (ga)) (one order12 0#8) = .next t) ∧
    (∃ t, exec (.drain (ga)) (one order13 0#8) = .next t) ∧
    (∃ t, exec (.drain (ga)) (one order14 0#8) = .next t) ∧
    (∃ t, exec (.drain (ga .i32 0#3 false 1#2)) (one order15 0#8) = .next t) ∧
    (∃ t, exec (.call (ga .tok)) (one order16 0#8) = .next t) ∧
    (∃ t, exec (.call (ga .tok)) (one order17 0#8) = .next t) ∧
    (∃ t, exec (.call (ga .tok)) (one order18 0#8) = .next t) ∧
    (∃ t, exec (.entry (ga)) (one order19 0#8) = .next t) ∧
    (∃ t, exec (.exit (ga)) (one order20 0#8) = .next t) :=
  ⟨answers (ctl h (ga) (.ordToken (v := nv order1 (ga)) rfl (.inl rfl)) rfl rfl rfl rfl (by decide)),
   answers (ctl h (ga .i32 0#3 false 1#2) (.ordToken (v := nv order2 (ga .i32 0#3 false 1#2)) rfl (.inr rfl)) rfl rfl rfl rfl (by decide)),
   answers (ctl h (ga) (.ordMarker (v := nv order3 (ga)) rfl rfl rfl) rfl rfl rfl rfl (by decide)),
   answers (ctl h (ga .tok 0#3 false 0#2 1#26) (.joinTake (v := nv order4 (ga .tok 0#3 false 0#2 1#26)) (k := [0, 0, 0, 0]) (a := 1) (b := 1) (c := 0) (p := 0) (.inr ⟨rfl, rfl⟩) (by decide) (by unfold joinFull; decide) rfl) rfl rfl rfl rfl (by decide)),
   answers (ctl h (ga .tok) (.joinEmit (v := nv order5 (ga .tok)) (k := [0, 0, 0, 0]) (.inr ⟨rfl, rfl⟩) (by decide) (by unfold joinFull; decide)) rfl rfl rfl rfl (by decide)),
   answers (ctl h (ga) (.barCount (v := nv order6 (ga)) ⟨.inl rfl, nofun⟩ rfl) rfl rfl rfl rfl (by decide)),
   answers (ctl h (ga) (.barPoison (v := nv order7 (ga)) ⟨.inr rfl, nofun⟩ rfl rfl) rfl rfl rfl rfl (by decide)),
   answers (ctl h (ga) (.barIgnore (v := nv order8 (ga)) ⟨.inl rfl, nofun⟩ rfl rfl) rfl rfl rfl rfl (by decide)),
   answers (ctl h (ga) (.barMarkerIdle (v := nv order9 (ga)) (.inl rfl) rfl (by decide)) rfl rfl rfl rfl (by decide)),
   answers (ctl h (ga) (.barMarker (v := nv order10 (ga)) (k := 0) rfl rfl rfl) rfl rfl rfl rfl (by decide)),
   answers (ctl h (ga) (.barPass (v := nv order11 (ga)) (k := 0) rfl rfl rfl) rfl rfl rfl rfl (by decide)),
   answers (ctl h (ga) (.barInject (v := nv order12 (ga)) rfl) rfl rfl rfl rfl (by decide)),
   answers (ctlDrain h (ga) (.drainPass (v := nv order13 (ga)) rfl (by decide)) rfl rfl rfl rfl rfl),
   answers (ctlDrain h (ga) (.drainBarrier (v := nv order14 (ga)) rfl (by decide)) rfl rfl rfl rfl rfl),
   answers (ctlDrain h (ga .i32 0#3 false 1#2) (.drainBarrier (v := nv order15 (ga .i32 0#3 false 1#2)) rfl (by decide)) rfl rfl rfl rfl rfl),
   answers (ctl h (ga .tok) (.callA (v := nv order16 (ga .tok)) rfl) rfl rfl rfl rfl (by decide)),
   answers (ctl h (ga .tok) (.callB (v := nv order17 (ga .tok)) rfl rfl) rfl rfl rfl rfl (by decide)),
   answers (ctl h (ga .tok) (.callC (v := nv order18 (ga .tok)) rfl rfl rfl) rfl rfl rfl rfl (by decide)),
   answers (ctl h (ga) (.entry (v := nv order19 (ga)) rfl) rfl rfl rfl rfl (by decide)),
   answers (ctl h (ga) (.exit (v := nv order20 (ga)) rfl) rfl rfl rfl rfl (by decide))⟩

def reduce1 : Node := rt (.red (ga .i32 0#3 false 0#2 48#26)) (a := [dat 4])
def reduce2 : Node := rt (.redx (ga .i32 0#3 false 0#2 48#26)) (a := [dat 4])
def reduce3 : Node := rt (.red (ga .i32 0#3 false 0#2 48#26)) (a := [bad])
def reduce4 : Node := rt (.red (ga .i32 0#3 false 0#2 48#26)) (a := [dat 4]) (st := .red [] 1 (some 2#8))
def reduce5 : Node := rt (.red (ga .i32 0#3 false 0#2 80#26)) (a := [mk3])
def reduce6 : Node := rt (.red (ga .i32 0#3 false 0#2 48#26)) (a := [mk3]) (st := .red [] 1 (some 2#8))
def reduce7 : Node := rt (.red (ga .i32 0#3 false 0#2 48#26)) (a := [mk3])
def reduce8 : Node := rt (.red (ga .i32 0#3 false 0#2 48#26)) (a := [mk3]) (st := .red [some ⟨4#64, 0⟩] 1 none)
def reduce9 : Node := rt (.red (ga .i32 0#3 false 0#2 48#26)) (a := [mk3]) (st := .elem 1)
def reduce10 : Node := rt (.scan (ga .i32 0#3 false 0#2 48#26)) (a := [dat 4])
def reduce11 : Node := rt (.scan (ga .i32 0#3 false 1#2 48#26)) (a := [dat 4])
def reduce12 : Node := rt (.scan (ga .i32 0#3 false 1#2 48#26)) (a := [dat 4]) (st := .red [some ⟨4#64, 0⟩] 1 none)
def reduce13 : Node := rt (.scan (ga .i32 0#3 false 0#2 48#26)) (a := [dat 4]) (st := .red [] 1 (some 2#8))
def reduce14 : Node := rt (.scan (ga .i32 0#3 false 0#2 48#26)) (a := [bad])
def reduce15 : Node := rt (.scan (ga .i32 0#3 false 1#2 48#26)) (a := [bad])
def reduce16 : Node := rt (.scan (ga .i32 0#3 false 1#2 48#26)) (a := [bad]) (st := .red [some ⟨4#64, 0⟩] 1 none)
def reduce17 : Node := rt (.scan (ga .i32 0#3 false 0#2 48#26)) (a := [mk3])
theorem witness_reduce (h : controlFires GroupsTo) :
    (∃ t, exec (.red (ga .i32 0#3 false 0#2 48#26)) (one reduce1 0#8) = .next t) ∧
    (∃ t, exec (.redx (ga .i32 0#3 false 0#2 48#26)) (one reduce2 0#8) = .next t) ∧
    (∃ t, exec (.red (ga .i32 0#3 false 0#2 48#26)) (one reduce3 0#8) = .next t) ∧
    (∃ t, exec (.red (ga .i32 0#3 false 0#2 48#26)) (one reduce4 0#8) = .next t) ∧
    (∃ t, exec (.red (ga .i32 0#3 false 0#2 80#26)) (one reduce5 0#8) = .next t) ∧
    (∃ t, exec (.red (ga .i32 0#3 false 0#2 48#26)) (one reduce6 0#8) = .next t) ∧
    (∃ t, exec (.red (ga .i32 0#3 false 0#2 48#26)) (one reduce7 0#8) = .next t) ∧
    (∃ t, exec (.red (ga .i32 0#3 false 0#2 48#26)) (one reduce8 0#8) = .next t) ∧
    (∃ t, exec (.red (ga .i32 0#3 false 0#2 48#26)) (one reduce9 0#8) = .next t) ∧
    (∃ t, exec (.scan (ga .i32 0#3 false 0#2 48#26)) (one reduce10 0#8) = .next t) ∧
    (∃ t, exec (.scan (ga .i32 0#3 false 1#2 48#26)) (one reduce11 0#8) = .next t) ∧
    (∃ t, exec (.scan (ga .i32 0#3 false 1#2 48#26)) (one reduce12 0#8) = .next t) ∧
    (∃ t, exec (.scan (ga .i32 0#3 false 0#2 48#26)) (one reduce13 0#8) = .next t) ∧
    (∃ t, exec (.scan (ga .i32 0#3 false 0#2 48#26)) (one reduce14 0#8) = .next t) ∧
    (∃ t, exec (.scan (ga .i32 0#3 false 1#2 48#26)) (one reduce15 0#8) = .next t) ∧
    (∃ t, exec (.scan (ga .i32 0#3 false 1#2 48#26)) (one reduce16 0#8) = .next t) ∧
    (∃ t, exec (.scan (ga .i32 0#3 false 0#2 48#26)) (one reduce17 0#8) = .next t) :=
  ⟨answers (ctl h (ga .i32 0#3 false 0#2 48#26) (.element (v := nv reduce1 (ga .i32 0#3 false 0#2 48#26)) (.red (v := nv reduce1 (ga .i32 0#3 false 0#2 48#26))) (.inr ⟨rfl, rfl, rfl, rfl⟩) rfl (by unfold untrapped; decide)) rfl rfl rfl rfl (by decide)),
   answers (ctl h (ga .i32 0#3 false 0#2 48#26) (.element (v := nv reduce2 (ga .i32 0#3 false 0#2 48#26)) (.redx (v := nv reduce2 (ga .i32 0#3 false 0#2 48#26))) (.inr ⟨rfl, rfl, rfl, rfl⟩) rfl (by unfold untrapped; decide)) rfl rfl rfl rfl (by decide)),
   answers (ctl h (ga .i32 0#3 false 0#2 48#26) (.poisonFirst (v := nv reduce3 (ga .i32 0#3 false 0#2 48#26)) (.red (v := nv reduce3 (ga .i32 0#3 false 0#2 48#26))) (.inr ⟨rfl, rfl, rfl, rfl⟩) rfl rfl) rfl rfl rfl rfl (by decide)),
   answers (ctl h (ga .i32 0#3 false 0#2 48#26) (.poisoned (v := nv reduce4 (ga .i32 0#3 false 0#2 48#26)) (.red (v := nv reduce4 (ga .i32 0#3 false 0#2 48#26))) (.inl rfl) rfl (.inl rfl)) rfl rfl rfl rfl (by decide)),
   answers (ctl h (ga .i32 0#3 false 0#2 80#26) (.below (v := nv reduce5 (ga .i32 0#3 false 0#2 80#26)) (rc := 0#8) (ps := []) (n := 0) (q := none) (.red (v := nv reduce5 (ga .i32 0#3 false 0#2 80#26))) (.inr ⟨rfl, rfl, rfl, rfl⟩) rfl rfl (by decide) rfl) rfl rfl rfl rfl (by decide)),
   answers (ctl h (ga .i32 0#3 false 0#2 48#26) (.resultPoison (v := nv reduce6 (ga .i32 0#3 false 0#2 48#26)) (rc := 0#8) (.red (v := nv reduce6 (ga .i32 0#3 false 0#2 48#26))) (.inl rfl) rfl rfl (by decide) rfl) rfl rfl rfl rfl (by decide)),
   answers (ctl h (ga .i32 0#3 false 0#2 48#26) (.resultEmpty (v := nv reduce7 (ga .i32 0#3 false 0#2 48#26)) (rc := 0#8) (ps := []) (.red (v := nv reduce7 (ga .i32 0#3 false 0#2 48#26))) (.inr ⟨rfl, rfl, rfl, rfl⟩) rfl rfl (by decide) rfl) rfl rfl rfl rfl (by decide)),
   answers (ctl h (ga .i32 0#3 false 0#2 48#26) (.result (v := nv reduce8 (ga .i32 0#3 false 0#2 48#26)) (rc := 0#8) (.red (v := nv reduce8 (ga .i32 0#3 false 0#2 48#26))) (.inl rfl) (by decide) rfl rfl (by decide) rfl rfl (by unfold untrapped; decide)) rfl rfl rfl rfl (by decide)),
   answers (ctl h (ga .i32 0#3 false 0#2 48#26) (.close (v := nv reduce9 (ga .i32 0#3 false 0#2 48#26)) (rc := 0#8) (.red (v := nv reduce9 (ga .i32 0#3 false 0#2 48#26))) rfl rfl rfl rfl) rfl rfl rfl rfl (by decide)),
   answers (ctl h (ga .i32 0#3 false 0#2 48#26) (.scan (v := nv reduce10 (ga .i32 0#3 false 0#2 48#26)) (.scan (v := nv reduce10 (ga .i32 0#3 false 0#2 48#26))) (.inr ⟨rfl, rfl, rfl, rfl⟩) rfl rfl rfl (by unfold untrapped; decide)) rfl rfl rfl rfl (by decide)),
   answers (ctl h (ga .i32 0#3 false 1#2 48#26) (.scanFirst (v := nv reduce11 (ga .i32 0#3 false 1#2 48#26)) (.scan (v := nv reduce11 (ga .i32 0#3 false 1#2 48#26))) (.inr ⟨rfl, rfl, rfl, rfl⟩) rfl rfl (by unfold untrapped; decide)) rfl rfl rfl rfl (by decide)),
   answers (ctl h (ga .i32 0#3 false 1#2 48#26) (.scanBefore (v := nv reduce12 (ga .i32 0#3 false 1#2 48#26)) (.scan (v := nv reduce12 (ga .i32 0#3 false 1#2 48#26))) (.inl rfl) (by decide) rfl rfl rfl (by unfold untrapped; decide)) rfl rfl rfl rfl (by decide)),
   answers (ctl h (ga .i32 0#3 false 0#2 48#26) (.scanPoisoned (v := nv reduce13 (ga .i32 0#3 false 0#2 48#26)) (.scan (v := nv reduce13 (ga .i32 0#3 false 0#2 48#26))) (.inl rfl) rfl (.inl rfl)) rfl rfl rfl rfl (by decide)),
   answers (ctl h (ga .i32 0#3 false 0#2 48#26) (.scanPoison (v := nv reduce14 (ga .i32 0#3 false 0#2 48#26)) (.scan (v := nv reduce14 (ga .i32 0#3 false 0#2 48#26))) (.inr ⟨rfl, rfl, rfl, rfl⟩) rfl rfl rfl) rfl rfl rfl rfl (by decide)),
   answers (ctl h (ga .i32 0#3 false 1#2 48#26) (.scanPoisonFirst (v := nv reduce15 (ga .i32 0#3 false 1#2 48#26)) (.scan (v := nv reduce15 (ga .i32 0#3 false 1#2 48#26))) (.inr ⟨rfl, rfl, rfl, rfl⟩) rfl rfl rfl) rfl rfl rfl rfl (by decide)),
   answers (ctl h (ga .i32 0#3 false 1#2 48#26) (.scanPoisonBefore (v := nv reduce16 (ga .i32 0#3 false 1#2 48#26)) (.scan (v := nv reduce16 (ga .i32 0#3 false 1#2 48#26))) (.inl rfl) (by decide) rfl rfl rfl rfl (by unfold untrapped; decide)) rfl rfl rfl rfl (by decide)),
   answers (ctl h (ga .i32 0#3 false 0#2 48#26) (.scanMarker (v := nv reduce17 (ga .i32 0#3 false 0#2 48#26)) (rc := 0#8) (.scan (v := nv reduce17 (ga .i32 0#3 false 0#2 48#26))) rfl rfl rfl) rfl rfl rfl rfl (by decide))⟩

def filter1 : Node := rt (.filt (ga .i32 0#3 false 0#2 3#26)) (a := [dat 4]) (p := [dat 1])
def filter2 : Node := rt (.filt (ga .i32 0#3 false 0#2 3#26)) (a := [dat 4]) (p := [dat 0])
def filter3 : Node := rt (.filt (ga .i32 0#3 false 0#2 3#26)) (a := [mk3]) (p := [mk3])
def filter4 : Node := rt (.filt (ga .i32 0#3 false 1#2 3#26)) (a := [mk3]) (p := [mk3]) (st := .tally 2)
def filter5 : Node := rt (.filt (ga .i32 0#3 false 1#2 3#26)) (a := [mk3]) (p := [mk3]) (st := .elem 1)
def filter6 : Node := rt (.filt (ga .i32 0#3 false 1#2 3#26)) (a := [.marker 1#3 0#8 0#8]) (p := [.marker 1#3 0#8 0#8])
def filter7 : Node := rt (.cmpct (ga .pred 0#3 false 0#2 3#26)) (a := [dat 1])
def filter8 : Node := rt (.cmpct (ga .pred 0#3 false 0#2 3#26)) (a := [dat 0])
def filter9 : Node := rt (.cmpct (ga .pred 0#3 false 0#2 3#26)) (a := [mk3])
def filter10 : Node := rt (.cmpct (ga .pred 0#3 false 0#2 3#26)) (a := [mk3]) (st := .elem 1)
def filter11 : Node := rt (.cmpct (ga .pred 0#3 false 0#2 3#26)) (a := [.marker 1#3 0#8 0#8])
theorem witness_filter (h : controlFires GroupsTo) :
    (∃ t, exec (.filt (ga .i32 0#3 false 0#2 3#26)) (one filter1 0#8) = .next t) ∧
    (∃ t, exec (.filt (ga .i32 0#3 false 0#2 3#26)) (one filter2 0#8) = .next t) ∧
    (∃ t, exec (.filt (ga .i32 0#3 false 0#2 3#26)) (one filter3 0#8) = .next t) ∧
    (∃ t, exec (.filt (ga .i32 0#3 false 1#2 3#26)) (one filter4 0#8) = .next t) ∧
    (∃ t, exec (.filt (ga .i32 0#3 false 1#2 3#26)) (one filter5 0#8) = .next t) ∧
    (∃ t, exec (.filt (ga .i32 0#3 false 1#2 3#26)) (one filter6 0#8) = .next t) ∧
    (∃ t, exec (.cmpct (ga .pred 0#3 false 0#2 3#26)) (one filter7 0#8) = .next t) ∧
    (∃ t, exec (.cmpct (ga .pred 0#3 false 0#2 3#26)) (one filter8 0#8) = .next t) ∧
    (∃ t, exec (.cmpct (ga .pred 0#3 false 0#2 3#26)) (one filter9 0#8) = .next t) ∧
    (∃ t, exec (.cmpct (ga .pred 0#3 false 0#2 3#26)) (one filter10 0#8) = .next t) ∧
    (∃ t, exec (.cmpct (ga .pred 0#3 false 0#2 3#26)) (one filter11 0#8) = .next t) :=
  ⟨answers (ctl h (ga .i32 0#3 false 0#2 3#26) (.filtPass (v := nv filter1 (ga .i32 0#3 false 0#2 3#26)) (n := 0) (.filt (v := nv filter1 (ga .i32 0#3 false 0#2 3#26))) (.inr ⟨rfl, rfl⟩) rfl rfl rfl rfl) rfl rfl rfl rfl (by decide)),
   answers (ctl h (ga .i32 0#3 false 0#2 3#26) (.filtDrop (v := nv filter2 (ga .i32 0#3 false 0#2 3#26)) (.filt (v := nv filter2 (ga .i32 0#3 false 0#2 3#26))) rfl rfl rfl rfl rfl nofun) rfl rfl rfl rfl (by decide)),
   answers (ctl h (ga .i32 0#3 false 0#2 3#26) (.filtMarker (v := nv filter3 (ga .i32 0#3 false 0#2 3#26)) (.filt (v := nv filter3 (ga .i32 0#3 false 0#2 3#26))) rfl rfl rfl rfl rfl rfl) rfl rfl rfl rfl (by decide)),
   answers (ctl h (ga .i32 0#3 false 1#2 3#26) (.filtCount (v := nv filter4 (ga .i32 0#3 false 1#2 3#26)) (x := mk3) (y := mk3) (m := mk3) (n := 2) (.filt (v := nv filter4 (ga .i32 0#3 false 1#2 3#26))) rfl (.inl rfl) ⟨rfl, rfl, rfl, rfl, rfl, fun h => absurd h (by decide)⟩ ⟨by decide, fun h => absurd h (by decide)⟩) rfl rfl rfl rfl (by decide)),
   answers (ctl h (ga .i32 0#3 false 1#2 3#26) (.filtClose (v := nv filter5 (ga .i32 0#3 false 1#2 3#26)) (x := mk3) (y := mk3) (m := mk3) (.filt (v := nv filter5 (ga .i32 0#3 false 1#2 3#26))) rfl rfl ⟨rfl, rfl, rfl, rfl, rfl, fun h => absurd h (by decide)⟩ ⟨by decide, fun h => absurd h (by decide)⟩) rfl rfl rfl rfl (by decide)),
   answers (ctl h (ga .i32 0#3 false 1#2 3#26) (.filtBelow (v := nv filter6 (ga .i32 0#3 false 1#2 3#26)) (x := .marker 1#3 0#8 0#8) (y := .marker 1#3 0#8 0#8) (m := .marker 1#3 0#8 0#8) (.filt (v := nv filter6 (ga .i32 0#3 false 1#2 3#26))) rfl ⟨rfl, rfl, rfl, rfl, rfl, fun h => absurd h (by decide)⟩ (by simp only [filtEnd]; decide)) rfl rfl rfl rfl (by decide)),
   answers (ctl h (ga .pred 0#3 false 0#2 3#26) (.cmpctTrue (v := nv filter7 (ga .pred 0#3 false 0#2 3#26)) (n := 0) (.inr ⟨rfl, rfl⟩) rfl rfl) rfl rfl rfl rfl (by decide)),
   answers (ctl h (ga .pred 0#3 false 0#2 3#26) (.cmpctFalse (v := nv filter8 (ga .pred 0#3 false 0#2 3#26)) rfl rfl rfl nofun) rfl rfl rfl rfl (by decide)),
   answers (ctl h (ga .pred 0#3 false 0#2 3#26) (.cmpctCount (v := nv filter9 (ga .pred 0#3 false 0#2 3#26)) (rc := 0#8) (n := 0) (.inr ⟨rfl, rfl⟩) rfl rfl (by decide) rfl) rfl rfl rfl rfl (by decide)),
   answers (ctl h (ga .pred 0#3 false 0#2 3#26) (.cmpctClose (v := nv filter10 (ga .pred 0#3 false 0#2 3#26)) (rc := 0#8) rfl rfl rfl (by decide) rfl) rfl rfl rfl rfl (by decide)),
   answers (ctl h (ga .pred 0#3 false 0#2 3#26) (.cmpctBelow (v := nv filter11 (ga .pred 0#3 false 0#2 3#26)) (rc := 0#8) rfl rfl (by decide) rfl) rfl rfl rfl rfl (by decide))⟩

def pattern1 : Node := { (rt (.pat (ga .i32 1#3)) (a := [dat 4]) (b := []) (fed := 1#4)) with refs := [1] }
def pattern2 : Node := { (rt (.pat (ga .i32 1#3)) (a := [dat 4]) (b := [dat 5]) (fed := 3#4)) with refs := [0] }
def pattern3 : Node := { (rt (.pat (ga .i32 2#3 false 0#2 3145728#26)) (a := [dat 4]) (b := []) (fed := 1#4)) with refs := [1, 0] }
def pattern4 : Node := { (rt (.pat (ga .i32 3#3 false 0#2 3145728#26)) (a := [dat 4]) (b := []) (fed := 1#4)) with refs := [1, 0] }
def pattern5 : Node := { (rt (.pat (ga .i32 4#3 false 0#2 3145728#26)) (a := [dat 4]) (b := []) (p := [dat 1]) (fed := 9#4)) with refs := [1, 0] }
theorem witness_pattern (h : controlFires GroupsTo) :
    (∃ t, exec (.pat (ga .i32 1#3)) (one pattern1 0#8) = .next t) ∧
    (∃ t, exec (.pat (ga .i32 1#3)) (one pattern2 0#8) = .next t) ∧
    (∃ t, exec (.pat (ga .i32 2#3 false 0#2 3145728#26)) (one pattern3 0#8) = .next t) ∧
    (∃ t, exec (.pat (ga .i32 3#3 false 0#2 3145728#26)) (one pattern4 0#8) = .next t) ∧
    (∃ t, exec (.pat (ga .i32 4#3 false 0#2 3145728#26)) (one pattern5 0#8) = .next t) :=
  ⟨answers (ctl h (ga .i32 1#3) (.patMap (v := nv pattern1 (ga .i32 1#3)) rfl rfl rfl) rfl rfl rfl rfl (by decide)),
   answers (ctl h (ga .i32 1#3) (.patFeed (v := nv pattern2 (ga .i32 1#3)) (hs := [dat 4, dat 5]) (by decide) rfl rfl) rfl rfl rfl rfl (by decide)),
   answers (ctl h (ga .i32 2#3 false 0#2 3145728#26) (.element (v := nv pattern3 (ga .i32 2#3 false 0#2 3145728#26)) (.pat (v := nv pattern3 (ga .i32 2#3 false 0#2 3145728#26)) rfl rfl) (.inr ⟨rfl, rfl, rfl, rfl⟩) rfl (by unfold untrapped; decide)) rfl rfl rfl rfl (by decide)),
   answers (ctl h (ga .i32 3#3 false 0#2 3145728#26) (.scan (v := nv pattern4 (ga .i32 3#3 false 0#2 3145728#26)) (.pat (v := nv pattern4 (ga .i32 3#3 false 0#2 3145728#26)) rfl rfl) (.inr ⟨rfl, rfl, rfl, rfl⟩) rfl rfl rfl (by unfold untrapped; decide)) rfl rfl rfl rfl (by decide)),
   answers (ctl h (ga .i32 4#3 false 0#2 3145728#26) (.filtPass (v := nv pattern5 (ga .i32 4#3 false 0#2 3145728#26)) (n := 0) (.pat (v := nv pattern5 (ga .i32 4#3 false 0#2 3145728#26)) rfl rfl) (.inr ⟨rfl, rfl⟩) rfl rfl rfl rfl) rfl rfl rfl rfl (by decide))⟩

def steering_faults1 : Node := rt (.steer (ga .i32 0#3 false 3#2)) (a := [dat 1]) (p := [mk3])
def steering_faults2 : Node := rt (.steer (ga)) (a := [dat 1]) (p := [mk3])
def steering_faults3 : Node := rt (.steer (ga)) (a := [dat 1]) (p := [bad])
def steering_faults4 : Node := rt (.merge (ga .i32 0#3 false 3#2)) (p := [mk3])
def steering_faults5 : Node := rt (.merge (ga)) (a := [dat 1]) (b := [mk3]) (p := [mk3])
def steering_faults6 : Node := rt (.merge (ga)) (a := [mk3]) (p := [dat 1])
def steering_faults7 : Node := rt (.merge (ga)) (b := [dat 1]) (p := [bad])
def steering_faults8 : Node := rt (.carry (ga)) (p := [dat 1]) (st := .loop .echo (none))
def steering_faults9 : Node := rt (.carry (ga)) (p := [mk3]) (st := .loop .busy (none))
def steering_faults10 : Node := rt (.carry (ga)) (b := [mk3]) (p := [dat 1]) (st := .loop .busy (none))
def steering_faults11 : Node := rt (.carry (ga)) (p := [bad]) (st := .loop .busy (none))
def steering_faults12 : Node := rt (.invar (ga)) (p := [dat 1]) (st := .loop .echo (none))
def steering_faults13 : Node := rt (.invar (ga)) (p := [mk3]) (st := .loop .busy (none))
def steering_faults14 : Node := rt (.invar (ga)) (p := [bad]) (st := .loop .busy (none))
def steering_faults15 : Node := rt (.count (ga .i32 0#3 false 0#2 65537#26)) (a := [mk3]) (b := [dat 1])
def steering_faults16 : Node := rt (.count (ga .i32 0#3 false 0#2 65537#26)) (a := [bad]) (b := [dat 1])
def steering_faults17 : Node := rt (.zip (ga)) (a := [mk3]) (b := [dat 1]) (fed := 3#4)
def steering_faults18 : Node := rt (.zip (ga)) (b := [mk3]) (fed := 3#4) (st := .zip 1 0)
def steering_faults19 : Node := rt (.bar (ga)) (b := [bad])
theorem witness_steering_faults (h : controlFault) :
    (∃ t, exec (.steer (ga .i32 0#3 false 3#2)) (one steering_faults1 0#8) = .next t) ∧
    (∃ t, exec (.steer (ga)) (one steering_faults2 0#8) = .next t) ∧
    (∃ t, exec (.steer (ga)) (one steering_faults3 0x80#8) = .next t) ∧
    (∃ t, exec (.merge (ga .i32 0#3 false 3#2)) (one steering_faults4 0#8) = .next t) ∧
    (∃ t, exec (.merge (ga)) (one steering_faults5 0#8) = .next t) ∧
    (∃ t, exec (.merge (ga)) (one steering_faults6 0#8) = .next t) ∧
    (∃ t, exec (.merge (ga)) (one steering_faults7 0x80#8) = .next t) ∧
    (∃ t, exec (.carry (ga)) (one steering_faults8 0#8) = .next t) ∧
    (∃ t, exec (.carry (ga)) (one steering_faults9 0#8) = .next t) ∧
    (∃ t, exec (.carry (ga)) (one steering_faults10 0#8) = .next t) ∧
    (∃ t, exec (.carry (ga)) (one steering_faults11 0x80#8) = .next t) ∧
    (∃ t, exec (.invar (ga)) (one steering_faults12 0#8) = .next t) ∧
    (∃ t, exec (.invar (ga)) (one steering_faults13 0#8) = .next t) ∧
    (∃ t, exec (.invar (ga)) (one steering_faults14 0x80#8) = .next t) ∧
    (∃ t, exec (.count (ga .i32 0#3 false 0#2 65537#26)) (one steering_faults15 0#8) = .next t) ∧
    (∃ t, exec (.count (ga .i32 0#3 false 0#2 65537#26)) (one steering_faults16 0x80#8) = .next t) ∧
    (∃ t, exec (.zip (ga)) (one steering_faults17 0#8) = .next t) ∧
    (∃ t, exec (.zip (ga)) (one steering_faults18 0#8) = .next t) ∧
    (∃ t, exec (.bar (ga)) (one steering_faults19 0x80#8) = .next t) :=
  ⟨answers (ctlFault h (ga .i32 0#3 false 3#2) (.steerRoute (v := nv steering_faults1 (ga .i32 0#3 false 3#2)) rfl rfl rfl rfl) rfl rfl rfl),
   answers (ctlFault h (ga) (.steerMixed (v := nv steering_faults2 (ga)) rfl rfl (by decide) ⟨rfl, .inl rfl⟩) rfl rfl rfl),
   answers (ctlFault h (ga) (.steerPoison (v := nv steering_faults3 (ga) 0x80#8) rfl rfl (.inr rfl) rfl) rfl rfl rfl),
   answers (ctlFault h (ga .i32 0#3 false 3#2) (.mergeRoute (v := nv steering_faults4 (ga .i32 0#3 false 3#2)) rfl rfl rfl) rfl rfl rfl),
   answers (ctlFault h (ga) (.mergeMixed (v := nv steering_faults5 (ga)) (hs := [dat 1, mk3, mk3]) rfl rfl (by decide) rfl rfl ⟨rfl, .inl rfl⟩) rfl rfl rfl),
   answers (ctlFault h (ga) (.mergeMarker (v := nv steering_faults6 (ga)) (y := 1#64) rfl (by decide) rfl rfl) rfl rfl rfl),
   answers (ctlFault h (ga) (.mergePoison (v := nv steering_faults7 (ga) 0x80#8) rfl rfl (.inr rfl) rfl) rfl rfl rfl),
   answers (ctlFault h (ga) (.carryEcho (v := nv steering_faults8 (ga)) rfl rfl rfl) rfl rfl rfl),
   answers (ctlFault h (ga) (.carryTest (v := nv steering_faults9 (ga)) rfl rfl rfl) rfl rfl rfl),
   answers (ctlFault h (ga) (.carryBack (v := nv steering_faults10 (ga)) rfl rfl rfl rfl rfl) rfl rfl rfl),
   answers (ctlFault h (ga) (.carryPoison (v := nv steering_faults11 (ga) 0x80#8) rfl rfl rfl) rfl rfl rfl),
   answers (ctlFault h (ga) (.invarEcho (v := nv steering_faults12 (ga)) rfl rfl rfl) rfl rfl rfl),
   answers (ctlFault h (ga) (.invarTest (v := nv steering_faults13 (ga)) rfl rfl rfl) rfl rfl rfl),
   answers (ctlFault h (ga) (.invarPoison (v := nv steering_faults14 (ga) 0x80#8) rfl rfl rfl) rfl rfl rfl),
   answers (ctlFault h (ga .i32 0#3 false 0#2 65537#26) (.countMixed (v := nv steering_faults15 (ga .i32 0#3 false 0#2 65537#26)) rfl rfl rfl ⟨rfl, .inl rfl⟩) rfl rfl rfl),
   answers (ctlFault h (ga .i32 0#3 false 0#2 65537#26) (.countPoison (v := nv steering_faults16 (ga .i32 0#3 false 0#2 65537#26) 0x80#8) rfl rfl rfl rfl rfl (.inl rfl) rfl) rfl rfl rfl),
   answers (ctlFault h (ga) (.zipMixed (v := nv steering_faults17 (ga)) (hs := [mk3, dat 1]) (.inr ⟨rfl, rfl, rfl⟩) rfl rfl rfl ⟨rfl, .inl rfl⟩) rfl rfl rfl),
   answers (ctlFault h (ga) (.zipInside (v := nv steering_faults18 (ga)) (turn := 1) (taken := 0) (.inl rfl) (by decide) rfl rfl) rfl rfl rfl),
   answers (ctlFault h (ga) (.barPoison (v := nv steering_faults19 (ga) 0x80#8) ⟨.inl rfl, nofun⟩ rfl rfl) rfl rfl rfl)⟩

def grouping_faults1 : Node := rt (.red (ga .i32 0#3 false 0#2 80#26)) (a := [mk5 3#8])
def grouping_faults2 : Node := rt (.red (ga .i32 0#3 false 0#2 48#26)) (a := [bad])
def grouping_faults3 : Node := rt (.scan (ga .i32 0#3 false 0#2 80#26)) (a := [mk5 3#8])
def grouping_faults4 : Node := rt (.scan (ga .i32 0#3 false 0#2 48#26)) (a := [bad])
def grouping_faults5 : Node := rt (.filt (ga .i32 0#3 false 0#2 3#26)) (a := [mk3]) (p := [dat 1])
def grouping_faults6 : Node := rt (.filt (ga .i32 0#3 false 1#2 4#26)) (a := [mk5 3#8]) (p := [mk5 3#8])
def grouping_faults7 : Node := rt (.filt (ga .i32 0#3 false 0#2 3#26)) (a := [dat 1]) (p := [bad])
def grouping_faults8 : Node := rt (.cmpct (ga .pred 0#3 false 0#2 4#26)) (a := [mk5 3#8])
def grouping_faults9 : Node := rt (.cmpct (ga .pred 0#3 false 0#2 3#26)) (a := [bad])
theorem witness_grouping_faults (h : controlFault) :
    (∃ t, exec (.red (ga .i32 0#3 false 0#2 80#26)) (one grouping_faults1 0#8) = .next t) ∧
    (∃ t, exec (.red (ga .i32 0#3 false 0#2 48#26)) (one grouping_faults2 0x80#8) = .next t) ∧
    (∃ t, exec (.scan (ga .i32 0#3 false 0#2 80#26)) (one grouping_faults3 0#8) = .next t) ∧
    (∃ t, exec (.scan (ga .i32 0#3 false 0#2 48#26)) (one grouping_faults4 0x80#8) = .next t) ∧
    (∃ t, exec (.filt (ga .i32 0#3 false 0#2 3#26)) (one grouping_faults5 0#8) = .next t) ∧
    (∃ t, exec (.filt (ga .i32 0#3 false 1#2 4#26)) (one grouping_faults6 0#8) = .next t) ∧
    (∃ t, exec (.filt (ga .i32 0#3 false 0#2 3#26)) (one grouping_faults7 0x80#8) = .next t) ∧
    (∃ t, exec (.cmpct (ga .pred 0#3 false 0#2 4#26)) (one grouping_faults8 0#8) = .next t) ∧
    (∃ t, exec (.cmpct (ga .pred 0#3 false 0#2 3#26)) (one grouping_faults9 0x80#8) = .next t) :=
  ⟨answers (ctlFault h (ga .i32 0#3 false 0#2 80#26) (.redRound (v := nv grouping_faults1 (ga .i32 0#3 false 0#2 80#26)) (.red (v := nv grouping_faults1 (ga .i32 0#3 false 0#2 80#26))) (by decide) rfl rfl (by decide) (by decide) (by decide)) rfl rfl rfl),
   answers (ctlFault h (ga .i32 0#3 false 0#2 48#26) (.redPoison (v := nv grouping_faults2 (ga .i32 0#3 false 0#2 48#26) 0x80#8) (.red (v := nv grouping_faults2 (ga .i32 0#3 false 0#2 48#26) 0x80#8)) rfl rfl) rfl rfl rfl),
   answers (ctlFault h (ga .i32 0#3 false 0#2 80#26) (.scanRound (v := nv grouping_faults3 (ga .i32 0#3 false 0#2 80#26)) (.scan (v := nv grouping_faults3 (ga .i32 0#3 false 0#2 80#26))) rfl rfl (by decide) (by decide) (by decide)) rfl rfl rfl),
   answers (ctlFault h (ga .i32 0#3 false 0#2 48#26) (.scanPoison (v := nv grouping_faults4 (ga .i32 0#3 false 0#2 48#26) 0x80#8) (.scan (v := nv grouping_faults4 (ga .i32 0#3 false 0#2 48#26) 0x80#8)) rfl rfl) rfl rfl rfl),
   answers (ctlFault h (ga .i32 0#3 false 0#2 3#26) (.filtMixed (v := nv grouping_faults5 (ga .i32 0#3 false 0#2 3#26)) (.filt (v := nv grouping_faults5 (ga .i32 0#3 false 0#2 3#26))) rfl rfl ⟨rfl, .inl rfl⟩) rfl rfl rfl),
   answers (ctlFault h (ga .i32 0#3 false 1#2 4#26) (.filtRound (v := nv grouping_faults6 (ga .i32 0#3 false 1#2 4#26)) (.filt (v := nv grouping_faults6 (ga .i32 0#3 false 1#2 4#26))) rfl rfl rfl rfl rfl (by decide) (.inl rfl) (by decide) (by decide)) rfl rfl rfl),
   answers (ctlFault h (ga .i32 0#3 false 0#2 3#26) (.filtPoison (v := nv grouping_faults7 (ga .i32 0#3 false 0#2 3#26) 0x80#8) (.filt (v := nv grouping_faults7 (ga .i32 0#3 false 0#2 3#26) 0x80#8)) rfl rfl rfl rfl) rfl rfl rfl),
   answers (ctlFault h (ga .pred 0#3 false 0#2 4#26) (.cmpctRound (v := nv grouping_faults8 (ga .pred 0#3 false 0#2 4#26)) rfl rfl (by decide) (by decide) (by decide)) rfl rfl rfl),
   answers (ctlFault h (ga .pred 0#3 false 0#2 3#26) (.cmpctPoison (v := nv grouping_faults9 (ga .pred 0#3 false 0#2 3#26) 0x80#8) rfl rfl) rfl rfl rfl)⟩

def inh (n : Node) : Node := { n with info := { policy := 0x10#8 } }

def rounding_traps1 : Node := inh (rt (.red (ga .f32 0#3 false 0#2 48#26)) (a := [dat 0xFF800000]) (st := .red [some ⟨0x7F800000#64, 0⟩] 1 none))
def rounding_traps2 : Node := inh (rt (.scan (ga .f32 0#3 false 0#2 48#26)) (a := [dat 0xFF800000]) (st := .red [some ⟨0x7F800000#64, 0⟩] 1 none))
def rounding_traps3 : Node := inh (rt (.redx (ga .f32 0#3 false 0#2 176#26)) (a := [mk3]) (st := .red [some ⟨0x7F800000#64, 0⟩, some ⟨0xFF800000#64, 1⟩] 2 none))
theorem witness_rounding_traps (h : controlFault) :
    (∃ t, exec (.red (ga .f32 0#3 false 0#2 48#26)) (one rounding_traps1 0x1F#8) = .next t) ∧
    (∃ t, exec (.scan (ga .f32 0#3 false 0#2 48#26)) (one rounding_traps2 0x1F#8) = .next t) ∧
    (∃ t, exec (.redx (ga .f32 0#3 false 0#2 176#26)) (one rounding_traps3 0x1F#8) = .next t) :=
  ⟨answers (ctlFault h (ga .f32 0#3 false 0#2 48#26) (.redTrap (v := nv rounding_traps1 (ga .f32 0#3 false 0#2 48#26) 0x1F#8) (c := 0x20) (.red (v := nv rounding_traps1 (ga .f32 0#3 false 0#2 48#26) 0x1F#8)) (.inl rfl) rfl (by unfold trapsWith; decide)) rfl rfl rfl),
   answers (ctlFault h (ga .f32 0#3 false 0#2 48#26) (.scanTrap (v := nv rounding_traps2 (ga .f32 0#3 false 0#2 48#26) 0x1F#8) (c := 0x20) (.scan (v := nv rounding_traps2 (ga .f32 0#3 false 0#2 48#26) 0x1F#8)) (.inl rfl) rfl (by unfold trapsWith; decide)) rfl rfl rfl),
   answers (ctlFault h (ga .f32 0#3 false 0#2 176#26) (.redResultTrap (v := nv rounding_traps3 (ga .f32 0#3 false 0#2 176#26) 0x1F#8) (c := 0x20) (rc := 0#8) (.redx (v := nv rounding_traps3 (ga .f32 0#3 false 0#2 176#26) 0x1F#8)) (.inl rfl) (by decide) rfl rfl (by decide) rfl (by unfold trapsWith; decide)) rfl rfl rfl)⟩

end Sys2Proof.Tests
end

