-- ==== Sys2Proof/Tests/Memory.lean ====
section
/-! SUPPORT. Every premise of the statements on memory accesses is met: each theorem applies a statement to a concrete
state and proves its premises there. -/

namespace Sys2Proof.Tests

open Sys2Proof.Machine Sys2Proof.Claims

/-- The format field of a Form M word of wave 0 with no wave neighbours, in a space. -/
def waveFmt (space : Nat) : BitVec 26 := BitVec.ofNat 26 (127 * 2 ^ 12 + 127 * 2 ^ 5 + space)

/-- Tile 0 holds bytes of a rounded region, tile 1 a FIFO, tile 2 a line buffer. -/
def tiles3 : List TileAlloc :=
  [{ region := 0, mode := 0, rounded := true, bytes := 4096 }, { region := 1, mode := 1, bytes := 64, ty := .i32 },
   { region := 2, mode := 2, bytes := 64, ty := .i32, lines := 2, len := 2 }]

def memPlane (n : Node) : Plane := { plane [n] with tiles := tiles3 }

/-- A context whose port-store window is open, whose tables are set up and whose peer 0 is table entry 0. -/
def memState (n : Node) (trapen : BitVec 8 := 0#8) : State :=
  { fabric (memPlane n) trapen with
    ctxs := [(0, { state := 1, trapen, ptbase := 1#64, pswin := [0x00100000#64, 0#64, 0#64, 0#64], peer := 0x100#64 })]
    regs := { peerTab := [(0, 0x8000000000000000#64)] } }

/-- The fields of a word for a row of the table. -/
def memG (c : MemOp) (space : Nat := 0) : GArgs :=
  let mode : BitVec 3 := if c.mode = 1 then 2#3 else 0#3
  match c.make (ga) with
  | .afadd _ => ga .f32 0#3 false 0#2 (waveFmt space)
  | .aminp _ => ga .n64 0#3 false 0#2 (waveFmt space)
  | .feclr _ | .feset _ => ga .tok 0#3 false 0#2 (waveFmt space)
  | .fetest _ => ga .pred 0#3 false 0#2 (waveFmt space)
  | .ld _ | .st _ | .ldfe _ | .stfe _ => ga .i32 mode false 2#2 (waveFmt space)
  | _ => ga .i32 0#3 false 0#2 (waveFmt space)

def memAddr (c : MemOp) : Nat := if c.mode = 1 then 2 ^ 18 else 16
def memNode (c : MemOp) (a b : Token) (space : Nat := 0) : Node := node (c.make (memG c space)) onMemory [a] [b] [b] [b]

/-- Every row may fire with these operands. -/
def memTurns (a : MemOp → Token) (b : Token) (e : BitVec 8) : Bool :=
  memOps.all fun c =>
    let n := memNode c (a c) b
    let s := memState n e
    (grantCycle s p0).1 && (admitMem (grantCycle s p0).2 p0 n (c.make (memG c))).1 && (memPlane n).mayFire 0 n &&
      (memPlane n).memReady 0 n (requestsMax (c.make (memG c)) (memG c))

theorem mem_turn {n : Node} {e : BitVec 8} {g : GArgs} {i : Instr} (h5 : (grantCycle (memState n e) p0).1 = true)
    (h6 : (admitMem (grantCycle (memState n e) p0).2 p0 n i).1 = true) (h4 : (memPlane n).mayFire 0 n = true)
    (h7 : (memPlane n).memReady 0 n (requestsMax i g) = true) : MemTurn (memState n e) p0 0 (memPlane n) n g i :=
  { cursor := rfl, plane := rfl, node := rfl, may := h4, walks := rfl, ready := h7, grant := fun _ => h5, admitted := h6, first := rfl }

theorem memTurns_mem {a : MemOp → Token} {b : Token} {e : BitVec 8} (h : memTurns a b e = true) {c : MemOp} (hc : c ∈ memOps) :
    MemTurn (memState (memNode c (a c) b) e) p0 0 (memPlane (memNode c (a c) b)) (memNode c (a c) b) (memG c) (c.make (memG c)) := by
  simp only [memTurns, List.all_eq_true, Bool.and_eq_true] at h
  obtain ⟨⟨⟨h1, h2⟩, h3⟩, h4⟩ := h c hc
  exact mem_turn h1 h2 h3 h4

theorem test_mem_turns : memTurns (fun c => dat (memAddr c)) (dat 5) 0#8 = true := by decide
theorem test_mem_turns_markers : memTurns (fun _ => mk3) mk3 0#8 = true := by decide
theorem test_mem_turns_poison : memTurns (fun _ => bad) bad 0x80#8 = true := by decide
theorem mem_space : ∀ c ∈ memOps, (memG c).space = 0 ∧ c.form (memG c) = true ∧ addrOps (memG c) = [.a] := by decide

/-- What the node of a row reads. -/
def memView (c : MemOp) (a b : Token) : View := c.view (memState (memNode c a b)) 0 (memPlane (memNode c a b)) (memNode c a b) (memG c)

theorem mem_view_ops (a b : Token) : ∀ c ∈ memOps, addrOps (memView c a b).g = [.a] := by
  intro c hc
  simp only [memOps, List.mem_cons, List.not_mem_nil, or_false] at hc
  rcases hc with h | h | h | h | h | h | h | h | h | h | h | h | h | h | h | h | h | h | h | h | h | h <;> subst h <;> rfl

/-- Every access leaves for its home. -/
theorem witness_accesses (h : ∀ c ∈ memOps, c.accesses) :
    ∀ c ∈ memOps, ∃ t, exec (c.make (memG c)) (memState (memNode c (dat (memAddr c)) (dat 5))) = .next t := by
  intro c hc
  obtain ⟨h0, hf, ha⟩ := mem_space c hc
  have hp : (memState (memNode c (dat (memAddr c)) (dat 5))).probe (memPlane (memNode c (dat (memAddr c)) (dat 5))) 4
      (c.ask (memNode c (dat (memAddr c)) (dat 5)) (memView c (dat (memAddr c)) (dat 5))) = .ok (memAddr c) := by
    clear h0 hf ha
    revert c
    decide
  have hr : c.readyFor (memView c (dat (memAddr c)) (dat 5)) := by
    refine ⟨fun o ho => ⟨BitVec.ofNat 64 (memAddr c), ?_⟩, fun o _ => ⟨if o = .a then dat (memAddr c) else dat 5, ?_, ?_⟩⟩
    · obtain rfl : o = .a := by simpa [mem_view_ops _ _ c hc] using ho
      rfl
    · cases o <;> rfl
    · cases o <;> exact Or.inr ⟨rfl, nofun⟩
  exact answers ((h c hc (memG c) _ p0 0 _ _ (memAddr c) hf (memTurns_mem test_mem_turns hc) hr hp).1 (by rw [h0]; decide))

/-- Markers of level 3 at every operand pass, or fault at a FIFO's address. -/
theorem witness_mem_markers (h : ∀ c ∈ memOps, c.marks) :
    ∀ c ∈ memOps, ∃ t, exec (c.make (memG c)) (memState (memNode c mk3 mk3)) = .next t := by
  intro c hc
  obtain ⟨h0, hf, ha⟩ := mem_space c hc
  have hj : joinMarkers (List.replicate (c.ops (memG c)).length mk3) = some mk3 ∧
      (List.replicate (c.ops (memG c)).length mk3).all Token.isMarker = true ∧
      ((List.replicate (c.ops (memG c)).length mk3).take (addrOps (memG c)).length).any Token.isMarker = true := by
    clear h0 hf ha
    revert c
    decide
  have hq : (c.ops (memG c)).map (nodeView (memState (memNode c mk3 mk3)) (memPlane (memNode c mk3 mk3)) 0 (memNode c mk3 mk3)
      (memG c)).head = (List.replicate (c.ops (memG c)).length mk3).map some := by
    simp only [List.map_replicate]
    refine List.eq_replicate_iff.2 ⟨by simp, fun b hb => ?_⟩
    obtain ⟨o, -, rfl⟩ := List.mem_map.1 hb
    cases o <;> rfl
  have hm := h c hc (memG c) _ p0 0 _ _ _ hf (memTurns_mem test_mem_turns_markers hc) hq
  cases hany : c.any
  · exact answers ((hm.2 hany).1 mk3 hj.2.1 hj.1 (Or.inr (by decide)))
  · exact answers (hm.1 hany hj.2.2)

/-- Poison at every operand faults where its trap is on. -/
theorem witness_mem_poison (h : ∀ c ∈ memOps, c.poisons) :
    ∀ c ∈ memOps, ∃ t, exec (c.make (memG c)) (memState (memNode c bad bad) 0x80#8) = .next t := by
  intro c hc
  obtain ⟨h0, hf, ha⟩ := mem_space c hc
  have hj : (List.replicate (c.ops (memG c)).length bad).any Token.isMarker = false ∧
      (List.replicate (c.ops (memG c)).length bad).any Token.isPoison = true ∧
      ((List.replicate (c.ops (memG c)).length bad).take (addrOps (memG c)).length).any Token.isMarker = false ∧
      ((List.replicate (c.ops (memG c)).length bad).take (addrOps (memG c)).length).any Token.isPoison = true := by
    clear h0 hf ha
    revert c
    decide
  have ht : (nodeView (memState (memNode c bad bad) 0x80#8) (memPlane (memNode c bad bad)) 0 (memNode c bad bad)
      (memG c)).trapen.getLsbD 7 = true := by
    clear h0 hf ha hj
    revert c
    decide
  have hq : (c.ops (memG c)).map (nodeView (memState (memNode c bad bad) 0x80#8) (memPlane (memNode c bad bad)) 0
      (memNode c bad bad) (memG c)).head = (List.replicate (c.ops (memG c)).length bad).map some := by
    simp only [List.map_replicate]
    refine List.eq_replicate_iff.2 ⟨by simp, fun b hb => ?_⟩
    obtain ⟨o, -, rfl⟩ := List.mem_map.1 hb
    cases o <;> rfl
  have hm := h c hc (memG c) _ p0 0 _ _ _ hf (memTurns_mem test_mem_turns_poison hc) hq hj.2.2.1 (Or.inr hj.1)
  cases hv : c.value
  · exact answers (hm.2 (Or.inr ⟨hv, Or.inl hj.2.2.2⟩))
  · exact answers (hm.2 (Or.inl ⟨hv, hj.2.1, ht⟩))

/-! The other clauses, on AADD and LD: a peer, a refused probe, a miss, markers out of step and of rounds, poison. -/

def aaddOp : MemOp := atomOp .aadd .add [.c] false
theorem aaddOp_mem : aaddOp ∈ memOps := by simp [memOps, aaddOp]
def ldOp : MemOp :=
  { make := .ld, form := fun g => g.mode ≠ 2#3, kind := 0, size := fun g => accessBytes g.opt, align := fun g => accessBytes g.opt,
    acc := fun v => .load v.g.ty (accessBytes v.g.opt) (v.g.mode = 1#3), value := true }
theorem ldOp_mem : ldOp ∈ memOps := by simp [memOps, ldOp]

def addG (space : Nat) (opt : BitVec 2 := 0#2) : GArgs := ga .i32 0#3 false opt (waveFmt space)
def addM (a c : Token) (space : Nat) (opt : BitVec 2 := 0#2) : Node := node (.aadd (addG space opt)) onMemory [a] (c := [c]) (fed := 5#4)
def ldM (a : Token) : Node := node (.ld (addG 0 2#2)) onMemory [a] (fed := 1#4)

theorem ready_add {v : View} {x : W64} {t : Token} (hg : v.g.imm = false) (ha : v.a = some (.data x)) (hc : v.c = some t) (hm : t.isMarker = false)
    (hp : t.isPoison = true → v.trapen.getLsbD 7 = false) : aaddOp.readyFor v := by
  refine ⟨fun o ho => ⟨x, ?_⟩, fun o ho => ⟨t, ?_, Or.inr ⟨hm, hp⟩⟩⟩
  · obtain rfl : o = .a := by simpa [addrOps, hg] using ho
    exact ha
  · obtain rfl : o = .c := by simpa [aaddOp, atomOp] using ho
    exact hc

theorem witness_peer (h : ∀ c ∈ memOps, c.accesses) : ∃ t, exec (.aadd (addG 5)) (memState (addM (dat 16) (dat 1) 5)) = .next t :=
  answers ((h _ aaddOp_mem (addG 5) _ p0 0 (memPlane (addM (dat 16) (dat 1) 5)) (addM (dat 16) (dat 1) 5) 16 rfl
    (mem_turn rfl rfl rfl rfl) (ready_add rfl rfl rfl rfl nofun) rfl).2 rfl rfl)

/-- The plane of a node whose earlier firing awaits its peer's answer. -/
def awaits (n : Node) : Plane := { memPlane n with reqs := [{ id := 9, who := .node 0, acc := .feclr, space := 5, addr := 0#64, loc := 0, size := 0, issued := 99 }] }

def addM2 : Node := node (.aadd (addG 5)) onMemory [dat 8, dat 16] (c := [dat 1, dat 2]) (fed := 5#4)
def awaitState : State := { memState addM2 with pads := (fabric (awaits addM2)).pads }

/-- An access to a peer follows another that awaits its answer. -/
theorem witness_pipelines (h : ∀ c ∈ memOps, c.pipelines) : ∃ t, exec (.aadd (addG 5)) awaitState = .next t :=
  answers (h _ aaddOp_mem (addG 5) awaitState p0 0 (awaits addM2) addM2 8 rfl
    { cursor := rfl, plane := rfl, node := rfl, may := rfl, walks := rfl, ready := rfl, grant := fun _ => rfl, admitted := rfl }
    (ready_add rfl rfl rfl rfl nofun) rfl rfl rfl)

theorem witness_probes (h : ∀ c ∈ memOps, c.probes) :
    (∃ t, exec (.aadd (addG 0)) (memState (addM (dat 4096) (dat 1) 0)) = .next t) ∧
    (∃ t, exec (.aadd (addG 2)) (memState (addM (dat 16) bad 2)) = .next t) :=
  ⟨answers ((h _ aaddOp_mem (addG 0) _ p0 0 (memPlane (addM (dat 4096) (dat 1) 0)) (addM (dat 4096) (dat 1) 0) rfl
      (mem_turn rfl rfl rfl rfl) (ready_add rfl rfl rfl rfl nofun)).1 0x13 rfl),
   answers ((h _ aaddOp_mem (addG 2) _ p0 0 (memPlane (addM (dat 16) bad 2)) (addM (dat 16) bad 2) rfl
      (mem_turn rfl rfl rfl rfl) (ready_add rfl rfl rfl rfl fun _ => rfl)).2 rfl)⟩

theorem witness_rounds (h : ∀ c ∈ memOps, c.marks) :
    (∃ t, exec (.aadd (addG 0)) (memState (addM mk3 (dat 1) 0)) = .next t) ∧
    (∃ t, exec (.aadd (addG 0)) (memState (addM (mk5 1#8) (mk5 2#8) 0)) = .next t) ∧
    (∃ t, exec (.aadd (addG 0 2#2)) (memState (addM (mk5 1#8) (mk5 1#8) 0 2#2)) = .next t) ∧
    (∃ t, exec (.aadd (addG 0 2#2)) (memState (addM (mk5 0#8) (mk5 0#8) 0 2#2)) = .next t) :=
  ⟨answers (((h _ aaddOp_mem (addG 0) _ p0 0 (memPlane (addM mk3 (dat 1) 0)) (addM mk3 (dat 1) 0) [mk3, dat 1] rfl
      (mem_turn rfl rfl rfl rfl) rfl).2 rfl).2.2.2 rfl (Or.inl rfl)),
   answers (((h _ aaddOp_mem (addG 0) _ p0 0 (memPlane (addM (mk5 1#8) (mk5 2#8) 0)) (addM (mk5 1#8) (mk5 2#8) 0) [mk5 1#8, mk5 2#8] rfl
      (mem_turn rfl rfl rfl rfl) rfl).2 rfl).2.2.2 rfl (Or.inr rfl)),
   answers (((h _ aaddOp_mem (addG 0 2#2) _ p0 0 (memPlane (addM (mk5 1#8) (mk5 1#8) 0 2#2)) (addM (mk5 1#8) (mk5 1#8) 0 2#2) [mk5 1#8, mk5 1#8] rfl
      (mem_turn rfl rfl rfl rfl) rfl).2 rfl).2.1 (mk5 1#8) rfl rfl rfl (by decide) (by decide)),
   answers (((h _ aaddOp_mem (addG 0 2#2) _ p0 0 (memPlane (addM (mk5 0#8) (mk5 0#8) 0 2#2)) (addM (mk5 0#8) (mk5 0#8) 0 2#2) [mk5 0#8, mk5 0#8] rfl
      (mem_turn rfl rfl rfl rfl) rfl).2 rfl).2.2.1 (mk5 0#8) rfl rfl rfl (by decide) (by decide))⟩

theorem witness_mem_pass (h : ∀ c ∈ memOps, c.poisons) :
    (∃ t, exec (.ld (addG 0 2#2)) (memState (ldM bad)) = .next t) ∧
    (∃ t, exec (.aadd (addG 0)) (memState (addM (dat 16) bad 0) 0x80#8) = .next t) :=
  ⟨answers ((h _ ldOp_mem (addG 0 2#2) _ p0 0 (memPlane (ldM bad)) (ldM bad) [bad] rfl (mem_turn rfl rfl rfl rfl) rfl rfl (Or.inr rfl)).1 bad
      rfl rfl rfl),
   answers ((h _ aaddOp_mem (addG 0) _ p0 0 (memPlane (addM (dat 16) bad 0)) (addM (dat 16) bad 0) [dat 16, bad] rfl
      (mem_turn rfl rfl rfl rfl) rfl rfl (Or.inr rfl)).2 (Or.inr ⟨rfl, Or.inr ⟨rfl, rfl, rfl⟩⟩))⟩

end Sys2Proof.Tests
end

