-- ==== Sys2Proof/Tests/Streams.lean ====
section
/-! SUPPORT. Every clause of the statements on groups, streams, sparse lines, servers, line buffers, generators and replays
is met: each line applies a statement to one node's firing and proves its premises there. -/

namespace Sys2Proof.Tests

open Sys2Proof.Machine Sys2Proof.Claims

/-- Bins of 4 KiB from address 0, two of them, two records each, staged at page 0 of die 0; a page of DRAM mapped at 0; an
AGEN descriptor of one element at place 32 of the SRAM. -/
def strState (pl : Plane) (trapen : BitVec 8 := 0#8) : State :=
  { fabric pl trapen with
    ctxs := [(0, { state := 1, trapen, ptbase := 1#64, pswin := [0x00100000#64, 0#64, 0#64, 0#64], peer := 0x100#64
                   binctl := 0x0001000000020000#64, bins := [(1, [⟨4096#64, some 7#64, 0, .i32, none, 0, 0, none⟩])] })]
    tlbs := [(4, { asid := 0, page := 0, bits := 16, frame := 0, host := false, device := false, write := true })]
    regs := { peerTab := [(0, 0x8000000000000000#64)] } }

def descriptor : Memory := { cells := [(40, 1#8), (44, 1#8), (48, 1#8)] }
def strPlane (n : Node) (more : Plane := {}) : Plane := { memPlane n with sram := descriptor, reqs := more.reqs, lbufs := more.lbufs }

abbrev siteOf (n : Node) (g : GArgs) (en : BitVec 8 := 0#8) : Site :=
  ⟨strState (strPlane n) en, p0, 0, strPlane n, n, nodeView (strState (strPlane n) en) (strPlane n) 0 n g⟩

theorem str_turn {n : Node} {m : Plane} {e : BitVec 8} {g : GArgs} {i : Instr} (h5 : (grantCycle (strState (strPlane n m) e) p0).1 = true)
    (h6 : (admitMem (grantCycle (strState (strPlane n m) e) p0).2 p0 n i).1 = true) (h4 : (strPlane n m).mayFire 0 n = true)
    (h7 : (strPlane n m).memReady 0 n (requestsMax i g) = true) (h8 : (strPlane n m).pending (.node 0) = [] := by rfl) :
    MemTurn (strState (strPlane n m) e) p0 0 (strPlane n m) n g i :=
  { cursor := rfl, plane := rfl, node := rfl, may := h4, walks := rfl, ready := h7, grant := fun _ => h5, admitted := h6, first := h8 }

/-- A firing of one memory node under a relation, with its premises. -/
theorem str {does : Instr → Site → MemFiring → Prop} {i : Instr} {n : Node} {f : MemFiring} {en : BitVec 8} (h : memFires does)
    (g : GArgs) (hd : does i (siteOf n g en) f) (h1 : (grantCycle (strState (strPlane n) en) p0).1 = true)
    (h2 : (admitMem (grantCycle (strState (strPlane n) en) p0).2 p0 n i).1 = true)
    (h3 : (strPlane n).mayFire 0 n = true) (h4 : (strPlane n).memReady 0 n (requestsMax i g) = true) :
    exec i (strState (strPlane n) en) = .next (commitMem ((strState (strPlane n) en).admittedMem p0 n i) p0 0 (strPlane n) n false f) :=
  h i (strState (strPlane n) en) p0 0 (strPlane n) n g f hd (str_turn h1 h2 h3 h4)

theorem agen {n : Node} {f : MemFiring} {en : BitVec 8} (h : agenFires) (g : GArgs) (hd : Generates (.agen g) (siteOf n g en) f)
    (h1 : (grantCycle (strState (strPlane n) en) p0).1 = true)
    (h2 : (admitMem (grantCycle (strState (strPlane n) en) p0).2 p0 n (.agen g)).1 = true)
    (h3 : (strPlane n).mayFire 0 n = true) (h4 : (strPlane n).memReady 0 n (requestsMax (.agen g) g) = true) (h5 : ∀ info, f ≠ .fault info) :
    exec (.agen g) (strState (strPlane n) en) =
      .next (commitMem ((strState (strPlane n) en).admittedMem p0 n (.agen g)) p0 0 (strPlane n) n false f) :=
  (h (strState (strPlane n) en) p0 0 (strPlane n) n g f hd (str_turn h1 h2 h3 h4)).1 h5

theorem agenFault {n : Node} {info : FaultInfo} {en : BitVec 8} (h : agenFires) (g : GArgs)
    (hd : Generates (.agen g) (siteOf n g en) (.fault info)) (h1 : (grantCycle (strState (strPlane n) en) p0).1 = true)
    (h2 : (admitMem (grantCycle (strState (strPlane n) en) p0).2 p0 n (.agen g)).1 = true)
    (h3 : (strPlane n).mayFire 0 n = true) (h4 : (strPlane n).memReady 0 n (requestsMax (.agen g) g) = true) :
    exec (.agen g) (strState (strPlane n) en) =
      .next ((commitMem ((strState (strPlane n) en).admittedMem p0 n (.agen g)) p0 0 (strPlane n) n false (.fault info)).modPlane p0
        (·.modNode 0 resumeNest)) :=
  (h (strState (strPlane n) en) p0 0 (strPlane n) n g _ hd (str_turn h1 h2 h3 h4)).2 info rfl rfl rfl rfl

/-- A node of a memory tile whose tokens leave the load. -/
def mt (i : Instr) (a b c : List Token := []) (st : OpState := .plain) (fed : BitVec 4 := 15#4) : Node :=
  { node i onMemory a b c [] fed st with outs := [some (.exit 0), some (.exit 1)], window := 4 }

theorem addr_data {v : View} {x : W64} (hg : v.g.imm = false) (ha : v.a = some (.data x)) :
    ∀ o ∈ addrOps v.g, ∃ y, v.head o = some (.data y) := by
  intro o ho
  obtain rfl : o = .a := by simpa [addrOps, hg] using ho
  exact ⟨x, ha⟩

def groups1 : Node := mt (.gath (ga .i32 3#3 true 2#2 (waveFmt 1))) (a := [dat 64]) (b := [dat 2])
def groups2 : Node := mt (.gath (ga .i32 3#3 true 2#2 (waveFmt 1))) (b := [dat 2]) (st := .base (some (dat 0x10000)))
def groups3 : Node := mt (.gath (ga .i32 3#3 true 2#2 (waveFmt 5))) (a := [dat 64]) (b := [dat 2])
def groups4 : Node := mt (.gath (ga .i32 3#3 true 2#2 (waveFmt 2))) (a := [dat 0x10000]) (b := [dat 2])
def groups5 : Node := mt (.scat (ga .i32 3#3 true 2#2 (waveFmt 0))) (a := [dat 64]) (b := [dat 2]) (c := [dat 9])
def groups6 : Node := mt (.scatx (ga .i32 3#3 true 2#2 (waveFmt 1))) (a := [dat 64]) (b := [dat 2]) (c := [bad])
def groups7 : Node := mt (.scat (ga .i32 3#3 true 2#2 (waveFmt 0))) (b := [mk3]) (c := [mk3]) (st := .base (some (dat 64)))
def groups8 : Node := mt (.gath (ga .i32 3#3 true 2#2 (waveFmt 1))) (a := [dat 64]) (b := [mk3])
def groups9 : Node := mt (.scat (ga .i32 3#3 true 2#2 (waveFmt 0))) (a := [dat 64]) (b := [mk3]) (c := [dat 1])
def groups10 : Node := mt (.scatx (ga .i32 3#3 true 2#2 (waveFmt 1))) (a := [mk3]) (b := [dat 1]) (c := [dat 1])
def groups11 : Node := mt (.gath (ga .i32 3#3 true 2#2 (waveFmt 1))) (a := [bad]) (b := [dat 1])
def groups12 : Node := mt (.scat (ga .i32 3#3 true 2#2 (waveFmt 0))) (a := [dat 64]) (b := [dat 1]) (c := [bad])
theorem witness_groups (h : memFires AccessesGroup) :
    (∃ t, exec (.gath (ga .i32 3#3 true 2#2 (waveFmt 1))) (strState (strPlane groups1) 0#8) = .next t) ∧
    (∃ t, exec (.gath (ga .i32 3#3 true 2#2 (waveFmt 1))) (strState (strPlane groups2) 0#8) = .next t) ∧
    (∃ t, exec (.gath (ga .i32 3#3 true 2#2 (waveFmt 5))) (strState (strPlane groups3) 0#8) = .next t) ∧
    (∃ t, exec (.gath (ga .i32 3#3 true 2#2 (waveFmt 2))) (strState (strPlane groups4) 0#8) = .next t) ∧
    (∃ t, exec (.scat (ga .i32 3#3 true 2#2 (waveFmt 0))) (strState (strPlane groups5) 0#8) = .next t) ∧
    (∃ t, exec (.scatx (ga .i32 3#3 true 2#2 (waveFmt 1))) (strState (strPlane groups6) 0#8) = .next t) ∧
    (∃ t, exec (.scat (ga .i32 3#3 true 2#2 (waveFmt 0))) (strState (strPlane groups7) 0#8) = .next t) ∧
    (∃ t, exec (.gath (ga .i32 3#3 true 2#2 (waveFmt 1))) (strState (strPlane groups8) 0#8) = .next t) ∧
    (∃ t, exec (.scat (ga .i32 3#3 true 2#2 (waveFmt 0))) (strState (strPlane groups9) 0#8) = .next t) ∧
    (∃ t, exec (.scatx (ga .i32 3#3 true 2#2 (waveFmt 1))) (strState (strPlane groups10) 0#8) = .next t) ∧
    (∃ t, exec (.gath (ga .i32 3#3 true 2#2 (waveFmt 1))) (strState (strPlane groups11) 0#8) = .next t) ∧
    (∃ t, exec (.scat (ga .i32 3#3 true 2#2 (waveFmt 0))) (strState (strPlane groups12) 0x80#8) = .next t) :=
  ⟨answers (str h (ga .i32 3#3 true 2#2 (waveFmt 1)) (.load (x := siteOf groups1 (ga .i32 3#3 true 2#2 (waveFmt 1))) (b := 64#64) (j := 2#64) (.inr (.inr ⟨rfl, rfl⟩)) (.inr ⟨rfl, rfl⟩) rfl (Probed.leaves (x := siteOf groups1 (ga .i32 3#3 true 2#2 (waveFmt 1))) rfl (by decide))) rfl rfl rfl rfl),
   answers (str h (ga .i32 3#3 true 2#2 (waveFmt 1)) (.load (x := siteOf groups2 (ga .i32 3#3 true 2#2 (waveFmt 1))) (b := 0x10000#64) (j := 2#64) (.inr (.inr ⟨rfl, rfl⟩)) (.inl rfl) rfl (Probed.refused (x := siteOf groups2 (ga .i32 3#3 true 2#2 (waveFmt 1))) (c := 0x14) rfl)) rfl rfl rfl rfl),
   answers (str h (ga .i32 3#3 true 2#2 (waveFmt 5)) (.load (x := siteOf groups3 (ga .i32 3#3 true 2#2 (waveFmt 5))) (b := 64#64) (j := 2#64) (.inr (.inr ⟨rfl, rfl⟩)) (.inr ⟨rfl, rfl⟩) rfl (Probed.asks (x := siteOf groups3 (ga .i32 3#3 true 2#2 (waveFmt 5))) (loc := 72) rfl rfl)) rfl rfl rfl rfl),
   answers (str h (ga .i32 3#3 true 2#2 (waveFmt 2)) (.load (x := siteOf groups4 (ga .i32 3#3 true 2#2 (waveFmt 2))) (b := 0x10000#64) (j := 2#64) (.inr (.inr ⟨rfl, rfl⟩)) (.inr ⟨rfl, rfl⟩) rfl (Probed.missed (x := siteOf groups4 (ga .i32 3#3 true 2#2 (waveFmt 2))) rfl)) rfl rfl rfl rfl),
   answers (str h (ga .i32 3#3 true 2#2 (waveFmt 0)) (.store (x := siteOf groups5 (ga .i32 3#3 true 2#2 (waveFmt 0))) (b := 64#64) (j := 2#64) (t := dat 9) (.inl ⟨rfl, rfl⟩) (.inr ⟨rfl, rfl⟩) rfl rfl rfl nofun (Probed.leaves (x := siteOf groups5 (ga .i32 3#3 true 2#2 (waveFmt 0))) rfl (by decide))) rfl rfl rfl rfl),
   answers (str h (ga .i32 3#3 true 2#2 (waveFmt 1)) (.store (x := siteOf groups6 (ga .i32 3#3 true 2#2 (waveFmt 1))) (b := 64#64) (j := 2#64) (t := bad) (.inr (.inl ⟨rfl, rfl⟩)) (.inr ⟨rfl, rfl⟩) rfl rfl rfl (fun _ => rfl) (Probed.leaves (x := siteOf groups6 (ga .i32 3#3 true 2#2 (waveFmt 1))) rfl (by decide))) rfl rfl rfl rfl),
   answers (str h (ga .i32 3#3 true 2#2 (waveFmt 0)) (.marker (x := siteOf groups7 (ga .i32 3#3 true 2#2 (waveFmt 0))) (gath := false) (b := dat 64) (hs := [mk3, mk3]) (.inl ⟨rfl, rfl⟩) (.inl rfl) rfl rfl rfl rfl) rfl rfl rfl rfl),
   answers (str h (ga .i32 3#3 true 2#2 (waveFmt 1)) (.marker (x := siteOf groups8 (ga .i32 3#3 true 2#2 (waveFmt 1))) (gath := true) (b := dat 64) (hs := [mk3]) (.inr (.inr ⟨rfl, rfl⟩)) (.inr ⟨rfl, rfl⟩) rfl rfl rfl rfl) rfl rfl rfl rfl),
   answers (str h (ga .i32 3#3 true 2#2 (waveFmt 0)) (.clash (x := siteOf groups9 (ga .i32 3#3 true 2#2 (waveFmt 0))) (gath := false) (b := dat 64) (hs := [mk3, dat 1]) (.inl ⟨rfl, rfl⟩) (.inr ⟨rfl, rfl⟩) rfl (.inr ⟨rfl, .inl rfl⟩)) rfl rfl rfl rfl),
   answers (str h (ga .i32 3#3 true 2#2 (waveFmt 1)) (.clash (x := siteOf groups10 (ga .i32 3#3 true 2#2 (waveFmt 1))) (gath := false) (b := mk3) (hs := [dat 1, dat 1]) (.inr (.inl ⟨rfl, rfl⟩)) (.inr ⟨rfl, rfl⟩) rfl (.inl rfl)) rfl rfl rfl rfl),
   answers (str h (ga .i32 3#3 true 2#2 (waveFmt 1)) (.poison (x := siteOf groups11 (ga .i32 3#3 true 2#2 (waveFmt 1))) (gath := true) (b := bad) (t := dat 1) (hs := []) (.inr (.inr ⟨rfl, rfl⟩)) (.inr ⟨rfl, rfl⟩) rfl rfl rfl (.inl rfl)) rfl rfl rfl rfl),
   answers (str h (ga .i32 3#3 true 2#2 (waveFmt 0)) (.poison (x := siteOf groups12 (ga .i32 3#3 true 2#2 (waveFmt 0)) 0x80#8) (gath := false) (b := dat 64) (t := dat 1) (hs := [bad]) (.inl ⟨rfl, rfl⟩) (.inr ⟨rfl, rfl⟩) rfl rfl rfl (.inr (.inr ⟨rfl, rfl⟩))) rfl rfl rfl rfl)⟩

def streams1 : Node := mt (.sld (ga .i32 0#3 false 2#2 (waveFmt 1))) (a := [dat (64 + 2 ^ 56)])
def streams2 : Node := mt (.sld (ga .i32 2#3 false 2#2 (waveFmt 1))) (a := [dat (64 + 2 ^ 56)]) (st := .elem 2)
def streams3 : Node := mt (.sld (ga .i32 0#3 false 2#2 (waveFmt 1))) (a := [bad])
def streams4 : Node := mt (.sld (ga .i32 0#3 false 2#2 (waveFmt 1))) (a := [bad])
def streams5 : Node := mt (.sld (ga .i32 0#3 false 2#2 (waveFmt 1))) (a := [mk3])
def streams6 : Node := mt (.sst (ga .i32 0#3 false 2#2 (waveFmt 1))) (a := [dat (64 + 2 ^ 56)]) (c := [dat 1])
def streams7 : Node := mt (.sst (ga .i32 0#3 false 2#2 (waveFmt 1))) (a := [dat (64 + 2 ^ 56)]) (c := [mk3]) (st := .elem 1)
def streams8 : Node := mt (.sst (ga .i32 0#3 false 2#2 (waveFmt 1))) (a := [dat (64 + 2 ^ 56)]) (c := [bad]) (st := .elem 1)
def streams9 : Node := mt (.sst (ga .i32 0#3 false 2#2 (waveFmt 1))) (a := [dat (64 + 2 ^ 56)]) (st := .elem 2)
def streams10 : Node := mt (.sst (ga .i32 2#3 false 2#2 (waveFmt 1))) (a := [dat (64 + 2 ^ 56)]) (c := [.marker 4#3 0#8 0#8]) (st := .elem 2)
def streams11 : Node := mt (.sst (ga .i32 2#3 false 2#2 (waveFmt 1))) (a := [dat (64 + 2 ^ 56)]) (c := [mk5 0#8]) (st := .elem 2)
def streams12 : Node := mt (.sst (ga .i32 2#3 false 2#2 (waveFmt 1))) (a := [dat (64 + 2 ^ 56)]) (c := [dat 1]) (st := .elem 2)
def streams13 : Node := mt (.sst (ga .i32 0#3 false 2#2 (waveFmt 1))) (a := [bad]) (c := [dat 1])
def streams14 : Node := mt (.sst (ga .i32 0#3 false 2#2 (waveFmt 1))) (a := [mk3]) (c := [dat 1])
def streams15 : Node := mt (.pref (ga .tok 0#3 false 0#2 (waveFmt 2))) (a := [dat (64 + 2 ^ 56)])
def streams16 : Node := mt (.pref (ga .tok 0#3 false 0#2 (waveFmt 2))) (a := [bad])
def streams17 : Node := mt (.pref (ga .tok 0#3 false 0#2 (waveFmt 2))) (a := [bad])
def streams18 : Node := mt (.pref (ga .tok 0#3 false 0#2 (waveFmt 2))) (a := [mk3])
theorem witness_streams (h : memFires Streams) :
    (∃ t, exec (.sld (ga .i32 0#3 false 2#2 (waveFmt 1))) (strState (strPlane streams1) 0#8) = .next t) ∧
    (∃ t, exec (.sld (ga .i32 2#3 false 2#2 (waveFmt 1))) (strState (strPlane streams2) 0#8) = .next t) ∧
    (∃ t, exec (.sld (ga .i32 0#3 false 2#2 (waveFmt 1))) (strState (strPlane streams3) 0#8) = .next t) ∧
    (∃ t, exec (.sld (ga .i32 0#3 false 2#2 (waveFmt 1))) (strState (strPlane streams4) 0x80#8) = .next t) ∧
    (∃ t, exec (.sld (ga .i32 0#3 false 2#2 (waveFmt 1))) (strState (strPlane streams5) 0#8) = .next t) ∧
    (∃ t, exec (.sst (ga .i32 0#3 false 2#2 (waveFmt 1))) (strState (strPlane streams6) 0#8) = .next t) ∧
    (∃ t, exec (.sst (ga .i32 0#3 false 2#2 (waveFmt 1))) (strState (strPlane streams7) 0#8) = .next t) ∧
    (∃ t, exec (.sst (ga .i32 0#3 false 2#2 (waveFmt 1))) (strState (strPlane streams8) 0x80#8) = .next t) ∧
    (∃ t, exec (.sst (ga .i32 0#3 false 2#2 (waveFmt 1))) (strState (strPlane streams9) 0#8) = .next t) ∧
    (∃ t, exec (.sst (ga .i32 2#3 false 2#2 (waveFmt 1))) (strState (strPlane streams10) 0#8) = .next t) ∧
    (∃ t, exec (.sst (ga .i32 2#3 false 2#2 (waveFmt 1))) (strState (strPlane streams11) 0#8) = .next t) ∧
    (∃ t, exec (.sst (ga .i32 2#3 false 2#2 (waveFmt 1))) (strState (strPlane streams12) 0#8) = .next t) ∧
    (∃ t, exec (.sst (ga .i32 0#3 false 2#2 (waveFmt 1))) (strState (strPlane streams13) 0#8) = .next t) ∧
    (∃ t, exec (.sst (ga .i32 0#3 false 2#2 (waveFmt 1))) (strState (strPlane streams14) 0#8) = .next t) ∧
    (∃ t, exec (.pref (ga .tok 0#3 false 0#2 (waveFmt 2))) (strState (strPlane streams15) 0#8) = .next t) ∧
    (∃ t, exec (.pref (ga .tok 0#3 false 0#2 (waveFmt 2))) (strState (strPlane streams16) 0#8) = .next t) ∧
    (∃ t, exec (.pref (ga .tok 0#3 false 0#2 (waveFmt 2))) (strState (strPlane streams17) 0x80#8) = .next t) ∧
    (∃ t, exec (.pref (ga .tok 0#3 false 0#2 (waveFmt 2))) (strState (strPlane streams18) 0#8) = .next t) :=
  ⟨answers (str h (ga .i32 0#3 false 2#2 (waveFmt 1)) (.sldElement (x := siteOf streams1 (ga .i32 0#3 false 2#2 (waveFmt 1))) (r := 0x0100000000000040#64) ⟨rfl, nofun⟩ (by decide) (.inr (by decide)) (Probed.leaves (x := siteOf streams1 (ga .i32 0#3 false 2#2 (waveFmt 1))) rfl (by decide))) rfl rfl rfl rfl),
   answers (str h (ga .i32 2#3 false 2#2 (waveFmt 1)) (.sldEnd (x := siteOf streams2 (ga .i32 2#3 false 2#2 (waveFmt 1))) (r := 0x0100000000000040#64) ⟨rfl, nofun⟩ (by decide)) rfl rfl rfl rfl),
   answers (str h (ga .i32 0#3 false 2#2 (waveFmt 1)) (.sldPoison (x := siteOf streams3 (ga .i32 0#3 false 2#2 (waveFmt 1))) (hs := [bad]) rfl rfl rfl rfl) rfl rfl rfl rfl),
   answers (str h (ga .i32 0#3 false 2#2 (waveFmt 1)) (.sldTrap (x := siteOf streams4 (ga .i32 0#3 false 2#2 (waveFmt 1)) 0x80#8) (hs := [bad]) rfl rfl rfl rfl) rfl rfl rfl rfl),
   answers (str h (ga .i32 0#3 false 2#2 (waveFmt 1)) (.sldMarker (x := siteOf streams5 (ga .i32 0#3 false 2#2 (waveFmt 1))) (Marked.joined (x := siteOf streams5 (ga .i32 0#3 false 2#2 (waveFmt 1))) (hs := [mk3]) rfl rfl rfl)) rfl rfl rfl rfl),
   answers (str h (ga .i32 0#3 false 2#2 (waveFmt 1)) (.sstElement (x := siteOf streams6 (ga .i32 0#3 false 2#2 (waveFmt 1))) (r := 0x0100000000000040#64) (t := dat 1) ⟨rfl, nofun⟩ (by decide) rfl rfl nofun (.inr (by decide)) (Probed.leaves (x := siteOf streams6 (ga .i32 0#3 false 2#2 (waveFmt 1))) rfl (by decide))) rfl rfl rfl rfl),
   answers (str h (ga .i32 0#3 false 2#2 (waveFmt 1)) (.sstBad (x := siteOf streams7 (ga .i32 0#3 false 2#2 (waveFmt 1))) (r := 0x0100000000000040#64) ⟨rfl, nofun⟩ (by decide) rfl (.inl ⟨rfl, rfl⟩)) rfl rfl rfl rfl),
   answers (str h (ga .i32 0#3 false 2#2 (waveFmt 1)) (.sstBad (x := siteOf streams8 (ga .i32 0#3 false 2#2 (waveFmt 1)) 0x80#8) (r := 0x0100000000000040#64) ⟨rfl, nofun⟩ (by decide) rfl (.inr ⟨rfl, rfl, rfl⟩)) rfl rfl rfl rfl),
   answers (str h (ga .i32 0#3 false 2#2 (waveFmt 1)) (.sstEnd (x := siteOf streams9 (ga .i32 0#3 false 2#2 (waveFmt 1))) (r := 0x0100000000000040#64) ⟨rfl, nofun⟩ (by decide) rfl) rfl rfl rfl rfl),
   answers (str h (ga .i32 2#3 false 2#2 (waveFmt 1)) (.sstClosed (x := siteOf streams10 (ga .i32 2#3 false 2#2 (waveFmt 1))) (r := 0x0100000000000040#64) ⟨rfl, nofun⟩ (by decide) rfl rfl (by decide) (by decide)) rfl rfl rfl rfl),
   answers (str h (ga .i32 2#3 false 2#2 (waveFmt 1)) (.sstOpen (x := siteOf streams11 (ga .i32 2#3 false 2#2 (waveFmt 1))) (r := 0x0100000000000040#64) ⟨rfl, nofun⟩ (by decide) rfl rfl (.inr (by decide))) rfl rfl rfl rfl),
   answers (str h (ga .i32 2#3 false 2#2 (waveFmt 1)) (.sstOpen (x := siteOf streams12 (ga .i32 2#3 false 2#2 (waveFmt 1))) (r := 0x0100000000000040#64) ⟨rfl, nofun⟩ (by decide) rfl rfl (.inl rfl)) rfl rfl rfl rfl),
   answers (str h (ga .i32 0#3 false 2#2 (waveFmt 1)) (.sstPoison (x := siteOf streams13 (ga .i32 0#3 false 2#2 (waveFmt 1))) (hs := [bad]) rfl rfl rfl) rfl rfl rfl rfl),
   answers (str h (ga .i32 0#3 false 2#2 (waveFmt 1)) (.sstMarker (x := siteOf streams14 (ga .i32 0#3 false 2#2 (waveFmt 1))) (Marked.joined (x := siteOf streams14 (ga .i32 0#3 false 2#2 (waveFmt 1))) (hs := [mk3]) rfl rfl rfl)) rfl rfl rfl rfl),
   answers (str h (ga .tok 0#3 false 0#2 (waveFmt 2)) (.pref (x := siteOf streams15 (ga .tok 0#3 false 0#2 (waveFmt 2))) (r := 0x0100000000000040#64) ⟨rfl, nofun⟩) rfl rfl rfl rfl),
   answers (str h (ga .tok 0#3 false 0#2 (waveFmt 2)) (.prefPoison (x := siteOf streams16 (ga .tok 0#3 false 0#2 (waveFmt 2))) (hs := [bad]) rfl rfl rfl rfl) rfl rfl rfl rfl),
   answers (str h (ga .tok 0#3 false 0#2 (waveFmt 2)) (.prefTrap (x := siteOf streams17 (ga .tok 0#3 false 0#2 (waveFmt 2)) 0x80#8) (hs := [bad]) rfl rfl rfl rfl) rfl rfl rfl rfl),
   answers (str h (ga .tok 0#3 false 0#2 (waveFmt 2)) (.prefMarker (x := siteOf streams18 (ga .tok 0#3 false 0#2 (waveFmt 2))) (Marked.joined (x := siteOf streams18 (ga .tok 0#3 false 0#2 (waveFmt 2))) (hs := [mk3]) rfl rfl rfl)) rfl rfl rfl rfl)⟩

def lines1 : Node := mt (.spld (ga .n64 0#3 false 0#2 (waveFmt 1))) (a := [dat (128 + 2 ^ 56)])
def lines2 : Node := mt (.spld (ga .n64 0#3 false 0#2 (waveFmt 5))) (a := [dat (128 + 2 ^ 56)])
def lines3 : Node := mt (.spld (ga .n64 0#3 false 0#2 (waveFmt 1))) (a := [dat (64 + 2 ^ 56)])
def lines4 : Node := mt (.spld (ga .n64 0#3 false 0#2 (waveFmt 1))) (a := [dat (64 + 2 ^ 56)]) (st := .elem 1000)
def lines5 : Node := mt (.spld (ga .n64 0#3 false 0#2 (waveFmt 1))) (a := [dat (64 + 2 ^ 56)]) (st := .elem 2)
def lines6 : Node := mt (.spld (ga .n64 0#3 false 0#2 (waveFmt 1))) (a := [bad])
def lines7 : Node := mt (.spld (ga .n64 0#3 false 0#2 (waveFmt 1))) (a := [bad])
def lines8 : Node := mt (.spld (ga .n64 0#3 false 0#2 (waveFmt 1))) (a := [mk3])
theorem witness_lines (h : memFires Lines) :
    (∃ t, exec (.spld (ga .n64 0#3 false 0#2 (waveFmt 1))) (strState (strPlane lines1) 0#8) = .next t) ∧
    (∃ t, exec (.spld (ga .n64 0#3 false 0#2 (waveFmt 5))) (strState (strPlane lines2) 0#8) = .next t) ∧
    (∃ t, exec (.spld (ga .n64 0#3 false 0#2 (waveFmt 1))) (strState (strPlane lines3) 0#8) = .next t) ∧
    (∃ t, exec (.spld (ga .n64 0#3 false 0#2 (waveFmt 1))) (strState (strPlane lines4) 0#8) = .next t) ∧
    (∃ t, exec (.spld (ga .n64 0#3 false 0#2 (waveFmt 1))) (strState (strPlane lines5) 0#8) = .next t) ∧
    (∃ t, exec (.spld (ga .n64 0#3 false 0#2 (waveFmt 1))) (strState (strPlane lines6) 0#8) = .next t) ∧
    (∃ t, exec (.spld (ga .n64 0#3 false 0#2 (waveFmt 1))) (strState (strPlane lines7) 0x80#8) = .next t) ∧
    (∃ t, exec (.spld (ga .n64 0#3 false 0#2 (waveFmt 1))) (strState (strPlane lines8) 0#8) = .next t) :=
  ⟨answers (str h (ga .n64 0#3 false 0#2 (waveFmt 1)) (.line (x := siteOf lines1 (ga .n64 0#3 false 0#2 (waveFmt 1))) (r := 0x0100000000000080#64) ⟨rfl, nofun⟩ rfl (by decide) (by decide) (.inr (by decide)) rfl (by decide)) rfl rfl rfl rfl),
   answers (str h (ga .n64 0#3 false 0#2 (waveFmt 5)) (.peer (x := siteOf lines2 (ga .n64 0#3 false 0#2 (waveFmt 5))) (r := 0x0100000000000080#64) (loc := 128) ⟨rfl, nofun⟩ rfl (by decide) (by decide) (.inr (by decide)) rfl rfl) rfl rfl rfl rfl),
   answers (str h (ga .n64 0#3 false 0#2 (waveFmt 1)) (.refused (x := siteOf lines3 (ga .n64 0#3 false 0#2 (waveFmt 1))) (r := 0x0100000000000040#64) (c := 0x18) ⟨rfl, nofun⟩ rfl (by decide) (by decide) (.inr (by decide)) rfl) rfl rfl rfl rfl),
   answers (str h (ga .n64 0#3 false 0#2 (waveFmt 1)) (.last (x := siteOf lines4 (ga .n64 0#3 false 0#2 (waveFmt 1))) (r := 0x0100000000000040#64) ⟨rfl, nofun⟩ rfl (by decide)) rfl rfl rfl rfl),
   answers (str h (ga .n64 0#3 false 0#2 (waveFmt 1)) (.done (x := siteOf lines5 (ga .n64 0#3 false 0#2 (waveFmt 1))) (r := 0x0100000000000040#64) ⟨rfl, nofun⟩ rfl (by decide) (by decide)) rfl rfl rfl rfl),
   answers (str h (ga .n64 0#3 false 0#2 (waveFmt 1)) (.poison (x := siteOf lines6 (ga .n64 0#3 false 0#2 (waveFmt 1))) (hs := [bad]) rfl rfl rfl rfl) rfl rfl rfl rfl),
   answers (str h (ga .n64 0#3 false 0#2 (waveFmt 1)) (.trap (x := siteOf lines7 (ga .n64 0#3 false 0#2 (waveFmt 1)) 0x80#8) (hs := [bad]) rfl rfl rfl rfl) rfl rfl rfl rfl),
   answers (str h (ga .n64 0#3 false 0#2 (waveFmt 1)) (.marker (x := siteOf lines8 (ga .n64 0#3 false 0#2 (waveFmt 1))) (Marked.joined (x := siteOf lines8 (ga .n64 0#3 false 0#2 (waveFmt 1))) (hs := [mk3]) rfl rfl rfl)) rfl rfl rfl rfl)⟩

def servers1 : Node := mt (.binadd (ga .i32 0#3 false 0#2 (waveFmt 2))) (a := [dat 4096]) (c := [dat 5])
def servers2 : Node := mt (.binadd (ga .i32 0#3 false 0#2 (waveFmt 2))) (a := [dat 8192]) (c := [dat 5])
def servers3 : Node := mt (.binadd (ga .i32 0#3 false 0#2 (waveFmt 2))) (a := [dat 4096]) (c := [bad])
def servers4 : Node := mt (.binadd (ga .i32 0#3 false 0#2 (waveFmt 2))) (a := [bad]) (c := [dat 1])
def servers5 : Node := mt (.binadd (ga .i32 0#3 false 0#2 (waveFmt 2))) (a := [mk3]) (c := [mk3])
def servers6 : Node := mt (.rangeInit (ga .i32 0#3 false 1#2 3#26)) (a := [dat 0]) (b := [dat 9])
def servers7 : Node := mt (.rangeInit (ga .i32 0#3 false 1#2 3#26)) (a := [bad]) (b := [dat 9])
def servers8 : Node := mt (.rangeInit (ga .i32 0#3 false 1#2 3#26)) (a := [bad]) (b := [dat 9])
def servers9 : Node := mt (.rangeInit (ga .i32 0#3 false 1#2 3#26)) (a := [mk3]) (b := [mk3])
def servers10 : Node := mt (.rangePull (ga .i32 0#3 false 0#2 67#26)) (a := [dat 0])
def servers11 : Node := mt (.rangePull (ga .i32 0#3 false 0#2 67#26)) (a := [mk3])
def servers12 : Node := mt (.fence (ga .tok 2#3 false 0#2 (waveFmt 0))) (a := [dat 0])
def servers13 : Node := mt (.fence (ga .tok 2#3 false 0#2 (waveFmt 0))) (a := [mk3])
theorem witness_range_nodes (h : memFires Serves) :
    (∃ t, exec (.binadd (ga .i32 0#3 false 0#2 (waveFmt 2))) (strState (strPlane servers1) 0#8) = .next t) ∧
    (∃ t, exec (.binadd (ga .i32 0#3 false 0#2 (waveFmt 2))) (strState (strPlane servers2) 0#8) = .next t) ∧
    (∃ t, exec (.binadd (ga .i32 0#3 false 0#2 (waveFmt 2))) (strState (strPlane servers3) 0x80#8) = .next t) ∧
    (∃ t, exec (.binadd (ga .i32 0#3 false 0#2 (waveFmt 2))) (strState (strPlane servers4) 0#8) = .next t) ∧
    (∃ t, exec (.binadd (ga .i32 0#3 false 0#2 (waveFmt 2))) (strState (strPlane servers5) 0#8) = .next t) ∧
    (∃ t, exec (.rangeInit (ga .i32 0#3 false 1#2 3#26)) (strState (strPlane servers6) 0#8) = .next t) ∧
    (∃ t, exec (.rangeInit (ga .i32 0#3 false 1#2 3#26)) (strState (strPlane servers7) 0#8) = .next t) ∧
    (∃ t, exec (.rangeInit (ga .i32 0#3 false 1#2 3#26)) (strState (strPlane servers8) 0x80#8) = .next t) ∧
    (∃ t, exec (.rangeInit (ga .i32 0#3 false 1#2 3#26)) (strState (strPlane servers9) 0#8) = .next t) ∧
    (∃ t, exec (.rangePull (ga .i32 0#3 false 0#2 67#26)) (strState (strPlane servers10) 0#8) = .next t) ∧
    (∃ t, exec (.rangePull (ga .i32 0#3 false 0#2 67#26)) (strState (strPlane servers11) 0#8) = .next t) ∧
    (∃ t, exec (.fence (ga .tok 2#3 false 0#2 (waveFmt 0))) (strState (strPlane servers12) 0#8) = .next t) ∧
    (∃ t, exec (.fence (ga .tok 2#3 false 0#2 (waveFmt 0))) (strState (strPlane servers13) 0#8) = .next t) :=
  ⟨answers (str h (ga .i32 0#3 false 0#2 (waveFmt 2)) (.bin (x := siteOf servers1 (ga .i32 0#3 false 0#2 (waveFmt 2))) (bin := 1) (t := dat 5) ⟨addr_data rfl rfl, rfl, rfl, nofun, rfl⟩ rfl) rfl rfl rfl rfl),
   answers (str h (ga .i32 0#3 false 0#2 (waveFmt 2)) (.binOutside (x := siteOf servers2 (ga .i32 0#3 false 0#2 (waveFmt 2))) (t := dat 5) (c := 0x14) (addr_data rfl rfl) rfl rfl nofun rfl) rfl rfl rfl rfl),
   answers (str h (ga .i32 0#3 false 0#2 (waveFmt 2)) (.binPoison (x := siteOf servers3 (ga .i32 0#3 false 0#2 (waveFmt 2)) 0x80#8) (hs := [dat 4096, bad]) rfl rfl (.inr ⟨rfl, rfl⟩)) rfl rfl rfl rfl),
   answers (str h (ga .i32 0#3 false 0#2 (waveFmt 2)) (.binPoison (x := siteOf servers4 (ga .i32 0#3 false 0#2 (waveFmt 2))) (hs := [bad, dat 1]) rfl rfl (.inl rfl)) rfl rfl rfl rfl),
   answers (str h (ga .i32 0#3 false 0#2 (waveFmt 2)) (.binMarker (x := siteOf servers5 (ga .i32 0#3 false 0#2 (waveFmt 2))) rfl (Marked.joined (x := siteOf servers5 (ga .i32 0#3 false 0#2 (waveFmt 2))) (hs := [mk3, mk3]) rfl rfl rfl)) rfl rfl rfl rfl),
   answers (str h (ga .i32 0#3 false 1#2 3#26) (.rangeInit (x := siteOf servers6 (ga .i32 0#3 false 1#2 3#26)) rfl rfl) rfl rfl rfl rfl),
   answers (str h (ga .i32 0#3 false 1#2 3#26) (.rangePoison (x := siteOf servers7 (ga .i32 0#3 false 1#2 3#26)) (hs := [bad, dat 9]) rfl rfl rfl rfl) rfl rfl rfl rfl),
   answers (str h (ga .i32 0#3 false 1#2 3#26) (.rangeTrap (x := siteOf servers8 (ga .i32 0#3 false 1#2 3#26) 0x80#8) (hs := [bad, dat 9]) rfl rfl rfl rfl) rfl rfl rfl rfl),
   answers (str h (ga .i32 0#3 false 1#2 3#26) (.rangeMarker (x := siteOf servers9 (ga .i32 0#3 false 1#2 3#26)) (Marked.joined (x := siteOf servers9 (ga .i32 0#3 false 1#2 3#26)) (hs := [mk3, mk3]) rfl rfl rfl)) rfl rfl rfl rfl),
   answers (str h (ga .i32 0#3 false 0#2 67#26) (.pull (x := siteOf servers10 (ga .i32 0#3 false 0#2 67#26)) rfl rfl) rfl rfl rfl rfl),
   answers (str h (ga .i32 0#3 false 0#2 67#26) (.pullMarker (x := siteOf servers11 (ga .i32 0#3 false 0#2 67#26)) (Marked.joined (x := siteOf servers11 (ga .i32 0#3 false 0#2 67#26)) (hs := [mk3]) rfl rfl rfl)) rfl rfl rfl rfl),
   answers (str h (ga .tok 2#3 false 0#2 (waveFmt 0)) (.fence (x := siteOf servers12 (ga .tok 2#3 false 0#2 (waveFmt 0))) rfl rfl) rfl rfl rfl rfl),
   answers (str h (ga .tok 2#3 false 0#2 (waveFmt 0)) (.fenceMarker (x := siteOf servers13 (ga .tok 2#3 false 0#2 (waveFmt 0))) rfl rfl) rfl rfl rfl rfl)⟩

def generators1 : Node := mt (.agen (ga .addr 0#3 false 0#2 (waveFmt 0))) (a := [dat 32])
def generators2 : Node := mt (.agen (ga .addr 0#3 false 0#2 (waveFmt 0))) (a := [dat 32]) (st := .agen [0#64, 0x0000000100000001#64, 1#64, 0#64] 0)
def generators3 : Node := mt (.agen (ga .i32 1#3 false 0#2 (waveFmt 0))) (a := [dat 32]) (st := .agen [0#64, 0x0000000100000001#64, 1#64, 0#64] 0)
def generators4 : Node := mt (.agen (ga .tok 2#3 false 0#2 (waveFmt 0))) (a := [dat 32]) (st := .agen [0#64, 0x0000000100000001#64, 1#64, 0#64] 0)
def generators5 : Node := mt (.agen (ga .tok 3#3 false 0#2 (waveFmt 0))) (a := [dat 32]) (st := .agen [0#64, 0x0000000100000001#64, 1#64, 0#64] 0)
def generators6 : Node := mt (.agen (ga .tok 4#3 false 0#2 (waveFmt 0))) (a := [dat 32]) (c := [bad]) (st := .agen [0#64, 0x0000000100000001#64, 1#64, 0#64] 0)
def generators7 : Node := mt (.agen (ga .tok 5#3 false 0#2 (waveFmt 0))) (a := [dat 32]) (c := [.beat (List.replicate 32 1#32)]) (st := .agen [0#64, 0x0000000100000001#64, 1#64, 0#64] 0)
def generators8 : Node := mt (.agen (ga .addr 0#3 false 1#2 (waveFmt 0))) (a := [dat 32]) (st := .agen [0#64, 0x0000000100000001#64, 1#64, 0#64] 1)
def generators9 : Node := mt (.agen (ga .addr 0#3 false 1#2 (waveFmt 0))) (a := [dat 32]) (st := .agen [0#64, 0x0000000100000001#64, 1#64, 0#64] 2)
def generators10 : Node := mt (.agen (ga .addr 0#3 false 1#2 (waveFmt 0))) (a := [dat 32]) (st := .agen [0#64, 0x0000000100000001#64, 1#64, 0#64] 3)
theorem witness_generators (h : agenFires) :
    (∃ t, exec (.agen (ga .addr 0#3 false 0#2 (waveFmt 0))) (strState (strPlane generators1) 0#8) = .next t) ∧
    (∃ t, exec (.agen (ga .addr 0#3 false 0#2 (waveFmt 0))) (strState (strPlane generators2) 0#8) = .next t) ∧
    (∃ t, exec (.agen (ga .i32 1#3 false 0#2 (waveFmt 0))) (strState (strPlane generators3) 0#8) = .next t) ∧
    (∃ t, exec (.agen (ga .tok 2#3 false 0#2 (waveFmt 0))) (strState (strPlane generators4) 0#8) = .next t) ∧
    (∃ t, exec (.agen (ga .tok 3#3 false 0#2 (waveFmt 0))) (strState (strPlane generators5) 0#8) = .next t) ∧
    (∃ t, exec (.agen (ga .tok 4#3 false 0#2 (waveFmt 0))) (strState (strPlane generators6) 0#8) = .next t) ∧
    (∃ t, exec (.agen (ga .tok 5#3 false 0#2 (waveFmt 0))) (strState (strPlane generators7) 0#8) = .next t) ∧
    (∃ t, exec (.agen (ga .addr 0#3 false 1#2 (waveFmt 0))) (strState (strPlane generators8) 0#8) = .next t) ∧
    (∃ t, exec (.agen (ga .addr 0#3 false 1#2 (waveFmt 0))) (strState (strPlane generators9) 0#8) = .next t) ∧
    (∃ t, exec (.agen (ga .addr 0#3 false 1#2 (waveFmt 0))) (strState (strPlane generators10) 0#8) = .next t) :=
  ⟨answers (agen h (ga .addr 0#3 false 0#2 (waveFmt 0)) (.reads (x := siteOf generators1 (ga .addr 0#3 false 0#2 (waveFmt 0))) (raw := [0#64, 0x0000000100000001#64, 1#64, 0#64]) nofun (addr_data rfl rfl) (by decide) rfl (by decide) (by decide)) rfl rfl rfl rfl nofun),
   answers (agen h (ga .addr 0#3 false 0#2 (waveFmt 0)) (.address (x := siteOf generators2 (ga .addr 0#3 false 0#2 (waveFmt 0))) (hs := [dat 32]) rfl rfl (NestAt.element (d := nestOf [0#64, 0x0000000100000001#64, 1#64, 0#64]) (mk := false) (i0 := 0) (i1 := 0) (i2 := 0) (by decide) (by decide) (by decide)) rfl) rfl rfl rfl rfl nofun),
   answers (agen h (ga .i32 1#3 false 0#2 (waveFmt 0)) (.load (x := siteOf generators3 (ga .i32 1#3 false 0#2 (waveFmt 0))) (hs := [dat 32]) rfl rfl (NestAt.element (d := nestOf [0#64, 0x0000000100000001#64, 1#64, 0#64]) (mk := false) (i0 := 0) (i1 := 0) (i2 := 0) (by decide) (by decide) (by decide)) rfl (Probed.leaves (x := siteOf generators3 (ga .i32 1#3 false 0#2 (waveFmt 0))) rfl (by decide))) rfl rfl rfl rfl nofun),
   answers (agen h (ga .tok 2#3 false 0#2 (waveFmt 0)) (.source (x := siteOf generators4 (ga .tok 2#3 false 0#2 (waveFmt 0))) (hs := [dat 32]) rfl rfl (NestAt.element (d := nestOf [0#64, 0x0000000100000001#64, 1#64, 0#64]) (mk := false) (i0 := 0) (i1 := 0) (i2 := 0) (by decide) (by decide) (by decide)) (.inl ⟨rfl, rfl⟩) (Probed.leaves (x := siteOf generators4 (ga .tok 2#3 false 0#2 (waveFmt 0))) rfl (by decide))) rfl rfl rfl rfl nofun),
   answers (agen h (ga .tok 3#3 false 0#2 (waveFmt 0)) (.source (x := siteOf generators5 (ga .tok 3#3 false 0#2 (waveFmt 0))) (hs := [dat 32]) rfl rfl (NestAt.element (d := nestOf [0#64, 0x0000000100000001#64, 1#64, 0#64]) (mk := false) (i0 := 0) (i1 := 0) (i2 := 0) (by decide) (by decide) (by decide)) (.inr ⟨rfl, rfl⟩) (Probed.leaves (x := siteOf generators5 (ga .tok 3#3 false 0#2 (waveFmt 0))) rfl (by decide))) rfl rfl rfl rfl nofun),
   answers (agen h (ga .tok 4#3 false 0#2 (waveFmt 0)) (.sink (x := siteOf generators6 (ga .tok 4#3 false 0#2 (waveFmt 0))) (hs := [dat 32]) rfl rfl (NestAt.element (d := nestOf [0#64, 0x0000000100000001#64, 1#64, 0#64]) (mk := false) (i0 := 0) (i1 := 0) (i2 := 0) (by decide) (by decide) (by decide)) (.inl ⟨rfl, rfl⟩) rfl rfl (Probed.leaves (x := siteOf generators6 (ga .tok 4#3 false 0#2 (waveFmt 0))) rfl (by decide))) rfl rfl rfl rfl nofun),
   answers (agen h (ga .tok 5#3 false 0#2 (waveFmt 0)) (.sink (x := siteOf generators7 (ga .tok 5#3 false 0#2 (waveFmt 0))) (hs := [dat 32]) rfl rfl (NestAt.element (d := nestOf [0#64, 0x0000000100000001#64, 1#64, 0#64]) (mk := false) (i0 := 0) (i1 := 0) (i2 := 0) (by decide) (by decide) (by decide)) (.inr ⟨rfl, rfl⟩) rfl rfl (Probed.leaves (x := siteOf generators7 (ga .tok 5#3 false 0#2 (waveFmt 0))) rfl (by decide))) rfl rfl rfl rfl nofun),
   answers (agen h (ga .addr 0#3 false 1#2 (waveFmt 0)) (.marker (x := siteOf generators8 (ga .addr 0#3 false 1#2 (waveFmt 0))) (hs := [dat 32]) rfl rfl (by decide) (NestAt.line (d := nestOf [0#64, 0x0000000100000001#64, 1#64, 0#64]) (mk := true) (i1 := 0) (i2 := 0) rfl (by decide) (by decide)) (by decide)) rfl rfl rfl rfl nofun),
   answers (agen h (ga .addr 0#3 false 1#2 (waveFmt 0)) (.marker (x := siteOf generators9 (ga .addr 0#3 false 1#2 (waveFmt 0))) (hs := [dat 32]) rfl rfl (by decide) (NestAt.page (d := nestOf [0#64, 0x0000000100000001#64, 1#64, 0#64]) (mk := true) (i2 := 0) rfl (by decide)) (by decide)) rfl rfl rfl rfl nofun),
   answers (agen h (ga .addr 0#3 false 1#2 (waveFmt 0)) (.volume (x := siteOf generators10 (ga .addr 0#3 false 1#2 (waveFmt 0))) (hs := [dat 32]) rfl rfl (by decide) (NestAt.volume (d := nestOf [0#64, 0x0000000100000001#64, 1#64, 0#64]) (mk := true) rfl)) rfl rfl rfl rfl nofun)⟩

def generator_ends1 : Node := mt (.agen (ga .addr 0#3 false 0#2 (waveFmt 0))) (a := [dat 32]) (st := .agen [0#64, 0x0000000100000001#64, 1#64, 0#64] 1)
def generator_ends2 : Node := mt (.agen (ga .tok 4#3 false 0#2 (waveFmt 0))) (a := [dat 32]) (st := .agen [0#64, 0x0000000100000001#64, 1#64, 0#64] 1)
def generator_ends3 : Node := mt (.agen (ga .addr 0#3 false 0#2 (waveFmt 0))) (a := [mk5 0#8])
def generator_ends4 : Node := mt (.agen (ga .tok 4#3 false 0#2 (waveFmt 0))) (a := [dat 32]) (c := [mk3])
def generator_ends5 : Node := mt (.agen (ga .i32 1#3 true 0#2 (waveFmt 0))) (a := [dat 32]) (b := [mk3])
def generator_ends6 : Node := mt (.agen (ga .i32 1#3 false 0#2 (waveFmt 0))) (a := [bad])
def generator_ends7 : Node := mt (.agen (ga .i32 1#3 false 0#2 (waveFmt 0))) (a := [dat 4096])
theorem witness_generator_ends (h : agenFires) :
    (∃ t, exec (.agen (ga .addr 0#3 false 0#2 (waveFmt 0))) (strState (strPlane generator_ends1) 0#8) = .next t) ∧
    (∃ t, exec (.agen (ga .tok 4#3 false 0#2 (waveFmt 0))) (strState (strPlane generator_ends2) 0#8) = .next t) ∧
    (∃ t, exec (.agen (ga .addr 0#3 false 0#2 (waveFmt 0))) (strState (strPlane generator_ends3) 0#8) = .next t) ∧
    (∃ t, exec (.agen (ga .tok 4#3 false 0#2 (waveFmt 0))) (strState (strPlane generator_ends4) 0#8) = .next t) ∧
    (∃ t, exec (.agen (ga .i32 1#3 true 0#2 (waveFmt 0))) (strState (strPlane generator_ends5) 0#8) = .next t) ∧
    (∃ t, exec (.agen (ga .i32 1#3 false 0#2 (waveFmt 0))) (strState (strPlane generator_ends6) 0#8) = .next t) ∧
    (∃ t, exec (.agen (ga .i32 1#3 false 0#2 (waveFmt 0))) (strState (strPlane generator_ends7) 0#8) = .next t) :=
  ⟨answers (agen h (ga .addr 0#3 false 0#2 (waveFmt 0)) (.ends (x := siteOf generator_ends1 (ga .addr 0#3 false 0#2 (waveFmt 0))) (hs := [dat 32]) rfl rfl (by decide) rfl) rfl rfl rfl rfl nofun),
   answers (agen h (ga .tok 4#3 false 0#2 (waveFmt 0)) (.sinkEnds (x := siteOf generator_ends2 (ga .tok 4#3 false 0#2 (waveFmt 0))) (hs := [dat 32]) rfl rfl (by decide) nofun rfl) rfl rfl rfl rfl nofun),
   answers (agen h (ga .addr 0#3 false 0#2 (waveFmt 0)) (.joined (x := siteOf generator_ends3 (ga .addr 0#3 false 0#2 (waveFmt 0))) (hs := [mk5 0#8]) nofun rfl rfl rfl (by decide)) rfl rfl rfl rfl nofun),
   answers (agen h (ga .tok 4#3 false 0#2 (waveFmt 0)) (.sinkMarker (x := siteOf generator_ends4 (ga .tok 4#3 false 0#2 (waveFmt 0))) (by decide) rfl) rfl rfl rfl rfl nofun),
   answers (agenFault h (ga .i32 1#3 true 0#2 (waveFmt 0)) (.clash (x := siteOf generator_ends5 (ga .i32 1#3 true 0#2 (waveFmt 0))) (hs := [dat 32, mk3]) nofun rfl rfl (.inl rfl) (by decide)) rfl rfl rfl rfl),
   answers (agenFault h (ga .i32 1#3 false 0#2 (waveFmt 0)) (.poison (x := siteOf generator_ends6 (ga .i32 1#3 false 0#2 (waveFmt 0))) (hs := [bad]) nofun rfl rfl rfl (by decide)) rfl rfl rfl rfl),
   answers (agenFault h (ga .i32 1#3 false 0#2 (waveFmt 0)) (.noDescriptor (x := siteOf generator_ends7 (ga .i32 1#3 false 0#2 (waveFmt 0))) (c := 0x13) nofun (addr_data rfl rfl) (by decide) rfl) rfl rfl rfl rfl)⟩

def lbG : GArgs := ga .i32 0#3 false 0#2 (waveFmt 0)
def lbN (a c : Token) (st : OpState := .plain) : Node := mt (.lbwin lbG) [a] (c := [c]) (st := st) (fed := 5#4)
def lbM (x : Nat) : Plane := { lbufs := [(2, { x })] }

theorem witness_lbwin (h : lineBuffers) :
    (∃ t, exec (.lbwin lbG) (strState (strPlane (lbN (dat 0x80000) (dat 7)) (lbM 1))) = .next t) ∧
    (∃ t, exec (.lbwin lbG) (strState (strPlane (lbN (dat 0x80000) (dat 7)) (lbM 2))) = .next t) ∧
    (∃ t, exec (.lbwin lbG) (strState (strPlane (lbN (dat 0x80000) (dat 7)) (lbM 2))) = .next t) ∧
    (∃ t, exec (.lbwin lbG) (strState (strPlane (lbN (marker 1) (marker 1) (.tally 2)) (lbM 2))) = .next t) ∧
    (∃ t, exec (.lbwin lbG) (strState (strPlane (lbN mk3 mk3 (.tally 2)) (lbM 0))) = .next t) ∧
    (∃ t, exec (.lbwin lbG) (strState (strPlane (lbN mk3 mk3 (.tally 2)) (lbM 1))) = .next t) ∧
    (∃ t, exec (.lbwin lbG) (strState (strPlane (lbN (marker 1) (marker 1)))) = .next t) ∧
    (∃ t, exec (.lbwin lbG) (strState (strPlane (lbN mk3 mk3))) = .next t) :=
  ⟨answers (((h _ p0 0 (strPlane (lbN (dat 0x80000) (dat 7)) (lbM 1)) _ lbG (str_turn rfl rfl rfl rfl)).1 0x80000#64 (dat 7) (2 ^ 19) _
      rfl rfl rfl nofun rfl rfl).1 rfl (by decide)),
   answers (((h _ p0 0 (strPlane (lbN (dat 0x80000) (dat 7)) (lbM 2)) _ lbG (str_turn rfl rfl rfl rfl)).1 0x80000#64 (dat 7) (2 ^ 19) _
      rfl rfl rfl nofun rfl rfl).2.1 rfl rfl),
   answers (((h _ p0 0 (strPlane (lbN (dat 0x80000) (dat 7)) (lbM 2)) _ lbG (str_turn rfl rfl rfl rfl)).1 0x80000#64 (dat 7) (2 ^ 19) _
      rfl rfl rfl nofun rfl rfl).2.1 rfl rfl),
   answers ((((h _ p0 0 (strPlane (lbN (marker 1) (marker 1) (.tally 2)) (lbM 2)) _ lbG (str_turn rfl rfl rfl rfl)).2 [marker 1, marker 1] _
      rfl rfl rfl).1 2 rfl).1 (Or.inl ⟨rfl, rfl⟩)),
   answers ((((h _ p0 0 (strPlane (lbN mk3 mk3 (.tally 2)) (lbM 0)) _ lbG (str_turn rfl rfl rfl rfl)).2 [mk3, mk3] _
      rfl rfl rfl).1 2 rfl).1 (Or.inr ⟨by decide, Or.inl rfl⟩)),
   answers ((((h _ p0 0 (strPlane (lbN mk3 mk3 (.tally 2)) (lbM 1)) _ lbG (str_turn rfl rfl rfl rfl)).2 [mk3, mk3] _
      rfl rfl rfl).1 2 rfl).2 (Or.inr ⟨by decide, by decide, by decide⟩)),
   answers (((h _ p0 0 (strPlane (lbN (marker 1) (marker 1))) _ lbG (str_turn rfl rfl rfl rfl)).2 [marker 1, marker 1] _
      rfl rfl rfl).2 nofun |>.1 rfl),
   answers (((h _ p0 0 (strPlane (lbN mk3 mk3)) _ lbG (str_turn rfl rfl rfl rfl)).2 [mk3, mk3] _ rfl rfl rfl).2 nofun |>.2 (by decide))⟩

def brG : GArgs := ga .tok
def brN (a : Token) (st : OpState := .plain) : Node := mt (.binrun brG) [a] (st := st) (fed := 1#4)

/-- The package with that node whose context has other windows and whose die another leaf. -/
def brState (n : Node) (write : Bool) : State :=
  { strState (strPlane n) with
    ctxs := [(0, { (strState (strPlane n)).ctx 0 with pswin := if write then [] else (((strState (strPlane n)).ctx 0).pswin) })]
    tlbs := [(4, { asid := 0, page := 0, bits := 16, frame := 0, host := false, device := false, write })] }

def brSite (n : Node) (en : BitVec 8 := 0#8) : Site := siteOf n brG en

theorem replays {n : Node} {en : BitVec 8} {f : MemFiring} {w : BinWork} (h : binReplays) (hd : Replays (brSite n en) f w)
    (h1 : (grantCycle (strState (strPlane n) en) p0).1 = true)
    (h2 : (admitMem (grantCycle (strState (strPlane n) en) p0).2 p0 n (.binrun brG)).1 = true)
    (h3 : (strPlane n).mayFire 0 n = true) (h4 : (strPlane n).memReady 0 n (requestsMax (.binrun brG) brG) = true) :
    ∃ t, exec (.binrun brG) (strState (strPlane n) en) = .next t :=
  answers (h (strState (strPlane n) en) p0 0 (strPlane n) n brG f w hd (str_turn h1 h2 h3 h4))

/-- A token that a replay accepts. -/
theorem replaying_data {x : Site} {y : W64} (h : x.v.a = some (.data y)) : replaying x := ⟨.data y, h, rfl, nofun⟩

theorem witness_replays (h : binReplays) :
    (∃ t, exec (.binrun brG) (strState (strPlane (brN mk3))) = .next t) ∧
    (∃ t, exec (.binrun brG) (strState (strPlane (brN bad)) 0x80#8) = .next t) ∧
    (∃ t, exec (.binrun brG) (strState (strPlane (brN (dat 1)))) = .next t) ∧
    (∃ t, exec (.binrun brG) (strState (strPlane (brN (dat 1) (.run 2 0)))) = .next t) ∧
    (∃ t, exec (.binrun brG) (strState (strPlane (brN (dat 1) (.run 0 0)))) = .next t) ∧
    (∃ t, exec (.binrun brG) (strState (strPlane (brN (dat 1) (.run 1 0)))) = .next t) ∧
    (∃ t, exec (.binrun brG) (strState (strPlane (brN (dat 1) (.replay 1 0 1 [(0, 4096, 4096)])))) = .next t) :=
  ⟨replays h (.marker (y := mk3) rfl rfl) rfl rfl rfl rfl,
   replays (en := 0x80#8) h (.trap (y := bad) rfl rfl rfl) rfl rfl rfl rfl,
   replays h (.begins (replaying_data (y := 1#64) rfl) nofun nofun (by unfold stageFits; decide)) rfl rfl rfl rfl,
   replays h (.ends (i := 2) (closed := 0) (replaying_data (y := 1#64) rfl) rfl
     (fun j h1 h2 => absurd (Nat.lt_of_le_of_lt h1 h2) (by decide))) rfl rfl rfl rfl,
   replays h (.skips (i := 0) (j := 1) (closed := 0) (replaying_data (y := 1#64) rfl) rfl (by decide) (by decide)
     (fun m _ hm => by
       obtain rfl : m = 0 := Nat.lt_one_iff.1 hm
       rfl) (by decide)) rfl rfl rfl rfl,
   replays h (.stages (j := 1) (closed := 0) (ls := [(0, 4096, 4096)]) (replaying_data (y := 1#64) rfl) rfl (by decide) (by decide) rfl
     ⟨by decide, by decide⟩) rfl rfl rfl rfl,
   replays h (.back (j := 1) (closed := 0) (taken := 1) (ls := [(0, 4096, 4096)]) (replaying_data (y := 1#64) rfl) rfl) rfl rfl rfl rfl⟩

/-- A staging area outside its window, and a bin on pages that may not be written. -/
theorem witness_replay_faults (h : binReplays) :
    (∃ t, exec (.binrun brG) (brState (brN (dat 1)) true) = .next t) ∧
    (∃ t, exec (.binrun brG) (brState (brN (dat 1) (.run 1 0)) false) = .next t) :=
  ⟨answers (h (brState (brN (dat 1)) true) p0 0 (strPlane (brN (dat 1))) (brN (dat 1)) brG _ _
     (.tooWide (replaying_data (y := 1#64) rfl) (fun _ _ e => nomatch e) (fun _ _ _ _ e => nomatch e) (by unfold stageFits; decide))
     { cursor := rfl, plane := rfl, node := rfl, may := rfl, walks := rfl, ready := rfl, grant := fun _ => rfl, admitted := rfl, first := rfl }),
   answers (h (brState (brN (dat 1) (.run 1 0)) false) p0 0 (strPlane (brN (dat 1) (.run 1 0))) _ brG _ _
     (.refused (j := 1) (closed := 0) (l := (0, 4096)) (ls := []) (c := 0x11) (replaying_data (y := 1#64) rfl) rfl (by decide) (by decide) rfl
       (by decide) rfl (by decide))
     { cursor := rfl, plane := rfl, node := rfl, may := rfl, walks := rfl, ready := rfl, grant := fun _ => rfl, admitted := rfl, first := rfl })⟩

theorem witness_nest (h : nestOrder) :
    (nestOf [0#64, 0x0000000200000003#64, 1#64, 0#64]).step true 3 = .mark 1 ∧
    NestAt (nestOf [0#64, 0x0000000200000003#64, 1#64, 0#64]) false 4
      ((nestOf [0#64, 0x0000000200000003#64, 1#64, 0#64]).step false 4) :=
  ⟨(h _ true 3 (.mark 1)).1 (NestAt.line (i1 := 0) (i2 := 0) rfl (by decide) (by decide)),
   (h _ false 4 .stop).2 (by decide)⟩

end Sys2Proof.Tests
end

