-- ==== Sys2Proof/Tests/Engines.lean ====
section
/-! SUPPORT. Every clause of the statements on matrix engines and copies is met: each line applies a statement to a small
state and proves its premises there. -/

namespace Sys2Proof.Tests

open Sys2Proof.Machine Sys2Proof.Claims

/-! ## Array elements -/

/-- An MXOP (node 0) of format 0 with two rows and columns, configured by node 1, with its ACCRD, ACCCLR and ACCLD. -/
def cfgN : Node := node (.mxcfg (ga .f32 0#3 false 0#2 0x110#26)) .none
def opN (m : Mfe) (a b : List Token) (refs : List Nat := [8, 1, 0, 0, 0]) : Node :=
  { node (.mxop (ga .f32)) onMfe a b [] [] with refs, st := .mfe m, outs := [none, none, some (.exit 2), some (.exit 3)] }
def ctlN (i : Instr) (a p : List Token := []) : Node := { node i onPe a [] [] p with refs := [0] }

/-- Nodes 0 to 4: the engine, its MXCFG, ACCRD, ACCCLR and ACCLD. -/
def mxPlane (m : Mfe) (a b : List Token := []) (rd clr ld : List Token := []) (row : List Token := []) (refs : List Nat := [8, 1, 3, 4, 5]) : Plane :=
  plane [opN m a b refs, cfgN, ctlN (.accrd (ga .f32)) rd, ctlN (.accclr (ga .pred)) clr, ctlN (.accld (ga .f32)) row ld]
def mx (pl : Plane) (k : Nat := 0) (en : BitVec 8 := 0#8) : State := fabric pl en (.node p0 k)
def beatA : Token := .beat (List.replicate 16 0x3F803F80#32)
def running : Mfe := { point := .run }

/-- MXA and MXB, and MXSC with one, and with its last, token of a group. -/
def feedN (i : Instr) (t : Token) (st : OpState := .plain) : Node := node i onMfe [t] [] [] [] 1#4 st
theorem witness_feeds (h : feeds) :
    (∃ t, exec (.mxa (ga .tok)) (one (feedN (.mxa (ga .tok)) beatA)) = .next t) ∧
    (∃ t, exec (.mxb (ga .tok)) (one (feedN (.mxb (ga .tok)) mk3)) = .next t) :=
  ⟨answers (h _ (ga .tok) _ p0 0 (plane [feedN (.mxa (ga .tok)) beatA]) _ beatA (Or.inl rfl) ⟨rfl, rfl, rfl, rfl⟩ rfl rfl),
   answers (h _ (ga .tok) _ p0 0 (plane [feedN (.mxb (ga .tok)) mk3]) _ mk3 (Or.inr rfl) ⟨rfl, rfl, rfl, rfl⟩ rfl rfl)⟩

def scN (t : Token) (ts : List Token := []) : Node := feedN (.mxsc (ga .n32)) t (.scales ts)
theorem witness_scales (h : gathersScales) :
    (∃ t, exec (.mxsc (ga .n32)) (one (scN mk3)) = .next t) ∧ (∃ t, exec (.mxsc (ga .n32)) (one (scN (dat 1))) = .next t) ∧
    (∃ t, exec (.mxsc (ga .n32)) (one (scN (dat 1) [dat 1, dat 2, dat 3])) = .next t) ∧
    (∃ t, exec (.mxsc (ga .n32)) (one (scN (dat 1) [dat 1, bad, dat 3])) = .next t) :=
  ⟨answers ((h (ga .n32) _ p0 0 (plane [scN mk3]) (scN mk3) mk3 ⟨rfl, rfl, rfl, rfl⟩ rfl).1 rfl),
   answers ((h (ga .n32) _ p0 0 (plane [scN (dat 1)]) (scN (dat 1)) (dat 1) ⟨rfl, rfl, rfl, rfl⟩ rfl).2.1 rfl (by decide)),
   answers ((h (ga .n32) _ p0 0 (plane [scN (dat 1) [dat 1, dat 2, dat 3]]) (scN (dat 1) [dat 1, dat 2, dat 3]) (dat 1) ⟨rfl, rfl, rfl, rfl⟩ rfl).2.2
      rfl (by decide) _ rfl rfl),
   answers ((h (ga .n32) _ p0 0 (plane [scN (dat 1) [dat 1, bad, dat 3]]) (scN (dat 1) [dat 1, bad, dat 3]) (dat 1) ⟨rfl, rfl, rfl, rfl⟩ rfl).2.2
      rfl (by decide) _ rfl rfl)⟩

theorem mx_turn {pl : Plane} {n : Node} {e : Engine} {en : BitVec 8} (h1 : pl.nodes[0]? = some n) (h2 : pl.mayFire 0 n = true)
    (h3 : pl.engine n = some e) (h4 : n.mfe.point = .run ∨ (n.mfe.point = .start ∧ e.ld = none)) :
    EngineTurn (mx pl 0 en) p0 0 pl n e := { cursor := rfl, plane := rfl, node := h1, may := h2, engine := h3, open_ := h4 }

/-- The engine of the array above. -/
def eng : Engine := { f := mxTable 0, rows := 2, cols := 2, rd := some 2, clr := some 3, ld := some 4 }
def mxG : GArgs := ga .f32

theorem witness_engine_markers (h : engineMarkers) (h' : engineClash) :
    (∃ t, exec (.mxop mxG) (mx (mxPlane running [mk3] [mk3])) = .next t) ∧
    (∃ t, exec (.mxop mxG) (mx (mxPlane running [mk5 1#8] [mk5 2#8])) = .next t) ∧
    (∃ t, exec (.mxop mxG) (mx (mxPlane { running with latchA := [beatA] } [mk3] [mk3])) = .next t) ∧
    (∃ t, exec (.mxop mxG) (mx (mxPlane running [mk3] [beatA])) = .next t) :=
  ⟨answers ((h _ _ p0 0 (mxPlane running [mk3] [mk3]) _ eng mk3 mk3 ⟨mxG, Or.inl rfl⟩ (mx_turn rfl rfl rfl (Or.inl rfl)) (fun _ => rfl)
      rfl rfl rfl rfl).1 mk3 rfl rfl rfl rfl),
   answers ((h _ _ p0 0 (mxPlane running [mk5 1#8] [mk5 2#8]) _ eng (mk5 1#8) (mk5 2#8) ⟨mxG, Or.inl rfl⟩ (mx_turn rfl rfl rfl (Or.inl rfl))
      (fun _ => rfl) rfl rfl rfl rfl).2 (Or.inr (Or.inr rfl))),
   answers ((h _ _ p0 0 (mxPlane { running with latchA := [beatA] } [mk3] [mk3]) _ eng mk3 mk3 ⟨mxG, Or.inl rfl⟩
      (mx_turn rfl rfl rfl (Or.inl rfl)) (fun _ => rfl) rfl rfl rfl rfl).2 (Or.inl (by decide))),
   answers (h' _ _ p0 0 (mxPlane running [mk3] [beatA]) _ eng mk3 beatA ⟨mxG, Or.inl rfl⟩ (mx_turn rfl rfl rfl (Or.inl rfl)) (fun _ => rfl)
      rfl rfl (by decide))⟩

theorem witness_engine_steps (h : engineSteps) :
    (∃ t, exec (.mxop mxG) (mx (mxPlane running [beatA] [beatA])) = .next t) ∧
    (∃ t, exec (.mxop mxG) (mx (mxPlane running [beatA] [bad])) = .next t) ∧
    (∃ t, exec (.mxop mxG) (mx (mxPlane running [beatA] [bad]) 0 0x80#8) = .next t) :=
  ⟨answers ((h _ _ p0 0 (mxPlane running [beatA] [beatA]) _ eng beatA beatA ⟨mxG, Or.inl rfl⟩ (mx_turn rfl rfl rfl (Or.inl rfl))
      ⟨fun _ => rfl, rfl⟩ rfl rfl rfl rfl (by decide) (by decide) (by decide) rfl).1 (Or.inl rfl)),
   answers ((h _ _ p0 0 (mxPlane running [beatA] [bad]) _ eng beatA bad ⟨mxG, Or.inl rfl⟩ (mx_turn rfl rfl rfl (Or.inl rfl))
      ⟨fun _ => rfl, rfl⟩ rfl rfl rfl rfl (by decide) (by decide) (by decide) rfl).1 (Or.inr rfl)),
   answers ((h _ _ p0 0 (mxPlane running [beatA] [bad]) _ eng beatA bad ⟨mxG, Or.inl rfl⟩ (mx_turn rfl rfl rfl (Or.inl rfl))
      ⟨fun _ => rfl, rfl⟩ rfl rfl rfl rfl (by decide) (by decide) (by decide) rfl).2 0 0 2#8 rfl rfl)⟩

/-- The cell of row 1 and column 1 of a step: without and with poison. -/
theorem witness_cells (h : stepCells) :
    (eng.step running [beatA] [beatA] 0).k0 = running.k0 + eng.f.kp ∧
    (eng.step running [beatA] [bad] 0).acc[3]? = some 0#64 ∧
    (eng.step running [beatA] [beatA] 0).pois[3]? = some none :=
  ⟨(h eng running [beatA] [beatA] 0 1 1 (by decide) (by decide)).1,
   ((h eng running [beatA] [bad] 0 1 1 (by decide) (by decide)).2.1 2#8 rfl).1,
   ((h eng running [beatA] [beatA] 0 1 1 (by decide) (by decide)).2.2 rfl).1⟩

/-- Markers that pass an engine whose load has begun, and one whose load waits for its predicate. -/
theorem witness_behind (h : engineBehind) :
    (∃ t, exec (.mxop mxG) (mx (mxPlane { point := .load 0 1 } [mk3] [mk3])) = .next t) ∧
    (∃ t, exec (.mxop mxG) (mx (mxPlane {} [mk3] [mk3])) = .next t) :=
  ⟨answers (h _ _ p0 0 (mxPlane { point := .load 0 1 } [mk3] [mk3]) _ eng mk3 mk3 mk3 ⟨mxG, Or.inl rfl⟩ ⟨rfl, rfl, rfl, rfl⟩ rfl
      (fun _ => rfl) (Or.inr ⟨0, 1, rfl⟩) rfl rfl rfl rfl rfl rfl rfl rfl rfl),
   answers (h _ _ p0 0 (mxPlane {} [mk3] [mk3]) _ eng mk3 mk3 mk3 ⟨mxG, Or.inl rfl⟩ ⟨rfl, rfl, rfl, rfl⟩ rfl
      (fun _ => rfl) (Or.inl ⟨rfl, nofun⟩) rfl rfl rfl rfl rfl rfl rfl rfl rfl)⟩

/-- The flags of a step that its last cell has completed, raised by its plane. -/
theorem witness_step_flags (h : stepFlags) :
    (∃ fl, (eng.step running [beatA] [beatA] 9).due = [(eng.lastCell 9, fl)]) ∧
    ((plane [opN { due := [(3, 1#5)] } [] []]).ripen 3).flags.getLsbD 0 = true :=
  ⟨let ⟨fl, hd, _⟩ := h.1 eng running [beatA] [beatA] 9
   ⟨fl, hd⟩,
   (h.2 (plane [opN { due := [(3, 1#5)] } [] []]) 3 0).2 (Or.inr ⟨_, List.mem_singleton.2 rfl, _, List.mem_singleton.2 rfl, by decide, rfl⟩)⟩

/-! ## Accumulator controls -/

theorem witness_readout (h : readsOut) :
    (∃ t, exec (.accrd (ga .f32)) (mx (mxPlane { running with readout := [dat 7, mk3] }) 2) = .next t) :=
  answers (h (.accrd (ga .f32)) _ p0 2 (mxPlane { running with readout := [dat 7, mk3] }) (ctlN (.accrd (ga .f32))) (ga .f32) 0 (dat 7) [mk3]
    (Or.inl ⟨rfl, fun h hh => absurd (congrArg (fun r : Except Reject Instr => r.toOption.bind Instr.graphOpcode) hh)
      (show some 0xB5#8 ≠ some 0xB8#8 by decide)⟩) ⟨rfl, rfl, rfl, rfl⟩ (fun _ => rfl) rfl rfl rfl)

def atBoundary (k : Nat) : Mfe := { point := .boundary mk3 k, acc := [1#64] }
theorem witness_clears (h : clears) :
    (∃ t, exec (.accclr (ga .pred)) (mx (mxPlane (atBoundary 1) [] [] [] [mk3]) 3) = .next t) ∧
    (∃ t, exec (.accclr (ga .pred)) (mx (mxPlane (atBoundary 1) [] [] [] [dat 1]) 3) = .next t) ∧
    (∃ t, exec (.accclr (ga .pred)) (mx (mxPlane (atBoundary 1) [] [] [] [bad]) 3) = .next t) ∧
    (∃ t, exec (.accclr (ga .pred)) (mx (mxPlane (atBoundary 1) [] [] [] [bad]) 3 0x80#8) = .next t) :=
  ⟨answers ((h _ _ p0 3 (mxPlane (atBoundary 1) [] [] [] [mk3]) _ _ eng 0 mk3 mk3 ⟨rfl, rfl, rfl, rfl⟩ rfl rfl rfl rfl rfl rfl rfl).1 rfl),
   answers ((h _ _ p0 3 (mxPlane (atBoundary 1) [] [] [] [dat 1]) _ _ eng 0 mk3 (dat 1) ⟨rfl, rfl, rfl, rfl⟩ rfl rfl rfl rfl rfl rfl rfl).2.1 rfl
      nofun),
   answers ((h _ _ p0 3 (mxPlane (atBoundary 1) [] [] [] [bad]) _ _ eng 0 mk3 bad ⟨rfl, rfl, rfl, rfl⟩ rfl rfl rfl rfl rfl rfl rfl).2.1 rfl
      fun _ => rfl),
   answers ((h _ _ p0 3 (mxPlane (atBoundary 1) [] [] [] [bad]) _ _ eng 0 mk3 bad ⟨rfl, rfl, rfl, rfl⟩ rfl rfl rfl rfl rfl rfl rfl).2.2 2#8 rfl rfl)⟩

def loading (r c : Nat) : Mfe := { point := .load r c }
theorem witness_loads (h : loadsBank) :
    (∃ t, exec (.accld (ga .f32)) (mx (mxPlane (loading 0 1) [] [] [] [] [] [dat 7]) 4) = .next t) ∧
    (∃ t, exec (.accld (ga .f32)) (mx (mxPlane (loading 0 1) [] [] [] [] [] [bad]) 4) = .next t) ∧
    (∃ t, exec (.accld (ga .f32)) (mx (mxPlane (loading 1 2) [] [] [] [] [] [mk3]) 4) = .next t) ∧
    (∃ t, exec (.accld (ga .f32)) (mx (mxPlane (loading 1 2) [] [] [] [] [] [dat 7]) 4) = .next t) :=
  ⟨answers ((h _ _ p0 4 (mxPlane (loading 0 1) [] [] [] [] [] [dat 7]) _ _ eng 0 0 1 (dat 7) ⟨rfl, rfl, rfl, rfl⟩ rfl rfl rfl rfl rfl).1 7#64 rfl
      (by decide)),
   answers ((h _ _ p0 4 (mxPlane (loading 0 1) [] [] [] [] [] [bad]) _ _ eng 0 0 1 bad ⟨rfl, rfl, rfl, rfl⟩ rfl rfl rfl rfl rfl).2.1 2#8 rfl
      (by decide)),
   answers ((h _ _ p0 4 (mxPlane (loading 1 2) [] [] [] [] [] [mk3]) _ _ eng 0 1 2 mk3 ⟨rfl, rfl, rfl, rfl⟩ rfl rfl rfl rfl rfl).2.2.1 rfl
      (by decide)),
   answers ((h _ _ p0 4 (mxPlane (loading 1 2) [] [] [] [] [] [dat 7]) _ _ eng 0 1 2 (dat 7) ⟨rfl, rfl, rfl, rfl⟩ rfl rfl rfl rfl rfl).2.2.2
      (by decide))⟩

/-- A load that faults in its second row: the first value of its first row is at hand again. -/
theorem witness_loads_anew (h : loadsAnew) :
    ∃ n' x', ((mxPlane (loading 1 0)).loadAgain 0 4 eng (loading 1 0) 1 0).nodes[4]? = some n' ∧
      ((mxPlane (loading 1 0)).loadAgain 0 4 eng (loading 1 0) 1 0).nodes[0]? = some x' ∧ x'.mfe.point = .load 0 0 :=
  let ⟨n', x', h1, h2, h3, _⟩ := h (mxPlane (loading 1 0)) 0 4 _ _ eng (loading 1 0) 1 0 0 0 (by decide) rfl rfl (by decide) (by decide)
    (by decide) (Or.inl (by decide))
  ⟨n', x', h1, h2, h3⟩

theorem witness_starts_on (h : startsOn) :
    ({ point := .start } : Mfe).started = { point := .run } ∧
    ({ behind := some mk3 } : Mfe).started = { point := .boundary mk3 0 } :=
  ⟨(h { point := .start }).1 rfl, (h { behind := some mk3 }).2 mk3 rfl⟩

/-! ## Boundaries -/

/-- A device step with its stimulus. -/
def dev (pl : Plane) (arg : Stimulus := { plane := p0 }) : State := { fabric pl 0#8 .event with arg }

theorem eng_step {pl : Plane} {n : Node} {e : Engine} (h1 : pl.nodes[0]? = some n) (h2 : pl.engine n = some e) (h3 : pl.st = .live)
    (h4 : pl.reload = false) : EngineStep (dev pl) pl n e := ⟨rfl, h1, h2, h3, h4⟩

def tileCfg : Node := node (.mxcfgTile (ga .f32 0#3 false 1#2 0x10#26)) .none
def tilePlane (m : Mfe) : Plane := plane [{ node (.mxtile (ga .f32)) onMfe with refs := [8, 1], st := .mfe m }, tileCfg]
def bare (m : Mfe) : Plane := mxPlane m (refs := [8, 1, 0, 0, 0])

theorem witness_boundaries (h : boundaries) :
    (∃ t, exec .mfeBoundary (dev (tilePlane (atBoundary 0))) = .next t) ∧ (∃ t, exec .mfeBoundary (dev (bare (atBoundary 0))) = .next t) ∧
    (∃ t, exec .mfeBoundary (dev (tilePlane (atBoundary 1))) = .next t) ∧ (∃ t, exec .mfeBoundary (dev (bare (atBoundary 1))) = .next t) ∧
    (∃ t, exec .mfeBoundary (dev (bare (atBoundary 2))) = .next t) ∧
    (∃ t, exec .mfeBoundary (dev (mxPlane (atBoundary 0) [] [] [dat 1])) = .next t) :=
  ⟨answers ((h _ (tilePlane (atBoundary 0)) _ _ mk3 (eng_step rfl rfl rfl rfl)).1 rfl (by decide) rfl rfl),
   answers ((h _ (bare (atBoundary 0)) _ _ mk3 (eng_step rfl rfl rfl rfl)).2.1 rfl (by decide) rfl rfl rfl),
   answers ((h _ (tilePlane (atBoundary 1)) _ _ mk3 (eng_step rfl rfl rfl rfl)).2.2.1 rfl rfl),
   answers ((h _ (bare (atBoundary 1)) _ _ mk3 (eng_step rfl rfl rfl rfl)).2.2.2.1 rfl rfl rfl),
   answers ((h _ (bare (atBoundary 2)) _ _ mk3 (eng_step rfl rfl rfl rfl)).2.2.2.2.1 rfl),
   answers ((h _ (mxPlane (atBoundary 0) [] [] [dat 1]) _ eng mk3 (eng_step rfl rfl rfl rfl)).2.2.2.2.2 2 _ true 1#64 rfl (by decide) rfl rfl rfl
      rfl rfl rfl)⟩

theorem witness_readout_order (h : readoutOrder) :
    (eng.readout [5#64] [none, some 2#8] mk3)[1]? = some (.poison 2#8) ∧ (eng.readout [] [] mk3)[5]? = some (.marker 2#3 0#8 0#8) :=
  ⟨(h eng [5#64] [none, some 2#8] mk3 0 1 (by decide)).1 (by decide), (h eng [] [] mk3 1 0 (by decide)).2.1⟩

theorem witness_tensor_start (h : tensorStarts) :
    (∃ t, exec .mfeTensorStart (dev (bare {})) = .next t) ∧
    (∃ t, exec .mfeTensorStart (dev (mxPlane {} [] [] [] [] [dat 1])) = .next t) ∧
    (∃ t, exec .mfeTensorStart (dev (mxPlane {} [] [] [] [] [dat 0])) = .next t) :=
  ⟨answers ((h _ (bare {}) _ _ (eng_step rfl rfl rfl rfl) rfl).1 rfl),
   answers ((h _ (mxPlane {} [] [] [] [] [dat 1]) _ eng (eng_step rfl rfl rfl rfl) rfl).2 4 _ 1#64 rfl rfl rfl),
   answers ((h _ (mxPlane {} [] [] [] [] [dat 0]) _ eng (eng_step rfl rfl rfl rfl) rfl).2 4 _ 0#64 rfl rfl rfl)⟩

end Sys2Proof.Tests
end

