-- ==== Sys2Proof/Tests/Copies.lean ====
section
/-! SUPPORT. Every clause of the statements on copy nodes and copy engines is met: each line applies a statement to a small
state and proves its premises there. -/

namespace Sys2Proof.Tests

open Sys2Proof.Machine Sys2Proof.Claims

def cpG (opt : BitVec 2 := 0#2) (mode : BitVec 3 := 0#3) : GArgs := ga .tok mode false opt (waveFmt 0)
def chG : GArgs := ga .i32 0#3 false 1#2 (waveFmt 0)
def cpN (i : Instr) (t : Token) (ts : List Token) (refs : List Nat := [16]) : Node :=
  { mt i [t] (st := .copy ts [] [] none) (fed := 1#4) with refs }
/-- The first three words of a packet: 16 bytes from 64 to 128 of tile 0, and word 2 as given. -/
def firstWords (w2 : Nat := 16) : List Token := [dat 64, dat 128, dat w2]
def cpPlane (n : Node) : Plane := { strPlane n with sram := { cells := [(64, 7#8)] } }
def cpState (n : Node) : State := strState (cpPlane n)

theorem witness_packet_words (h : packetWords) :
    (∃ t, exec (.cpy (cpG)) (cpState (cpN (.cpy (cpG)) (dat 64) [])) = .next t) ∧
    (∃ t, exec (.cpym (cpG)) (cpState (cpN (.cpym (cpG)) mk3 [dat 64])) = .next t) :=
  ⟨answers (h _ (cpG) false _ p0 0 (cpPlane (cpN (.cpy (cpG)) (dat 64) [])) _ (dat 64) [] (List.replicate 16 1) [] none (Or.inl ⟨rfl, rfl⟩)
      ⟨rfl, rfl, rfl, rfl⟩ rfl rfl (Or.inl ⟨[], rfl, rfl⟩) rfl (by decide) (Or.inr rfl)),
   answers (h _ (cpG) true _ p0 0 (cpPlane (cpN (.cpym (cpG)) mk3 [dat 64])) _ mk3 [dat 64] (List.replicate 16 1) [] none (Or.inr ⟨rfl, rfl⟩)
      ⟨rfl, rfl, rfl, rfl⟩ rfl rfl (Or.inl ⟨[], rfl, rfl⟩) rfl (by decide) (Or.inl (by decide)))⟩

theorem packet_turn {i : Instr} {g : GArgs} {t : Token} {ts : List Token} {refs : List Nat} (hc : g.mode = 0#3)
    (h1 : (cpPlane (cpN i t ts refs)).mayFire 0 (cpN i t ts refs) = true) (h2 : ts.length = 3)
    (h3 : (grantCycle (cpState (cpN i t ts refs)) p0).1 = true)
    (h4 : (admitMem (grantCycle (cpState (cpN i t ts refs)) p0).2 p0 (cpN i t ts refs) i).1 = true) :
    PacketTurn (cpState (cpN i t ts refs)) p0 0 (cpPlane (cpN i t ts refs)) (cpN i t ts refs) g i t ts (List.replicate 16 1) [] none :=
  { cursor := rfl, plane := rfl, node := rfl, may := h1, walks := rfl, free := rfl, admitted := h4, state := Or.inl ⟨[], rfl, by rw [hc]; rfl⟩, words := h2, head := rfl
    grant := fun _ => h3 }

theorem packet_ok {ws : List W64} (h0 : wbits (packetWord ws 2) 39 36 = 0) (h1 : packetKind ws ≤ 5) (h2 : packetMask ws = 0) (h3 : packetStride ws = 0)
    (h4 : packetLen ws % 4 = 0) : PacketOk ws false false .tok 16 := ⟨h0, h1, h2, h3, h4⟩

theorem witness_packets (h : packetTurn) :
    (∃ t, exec (.cpy (cpG)) (cpState (cpN (.cpy (cpG)) mk3 firstWords)) = .next t) ∧
    (∃ t, exec (.cpy (cpG)) (cpState (cpN (.cpy (cpG)) bad firstWords)) = .next t) ∧
    (∃ t, exec (.cpy (cpG)) (cpState (cpN (.cpy (cpG)) (dat 0) (firstWords 6))) = .next t) ∧
    (∃ t, exec (.cpy (cpG)) (cpState (cpN (.cpy (cpG)) (dat 0) (firstWords 8192))) = .next t) ∧
    (∃ t, exec (.cpy (cpG)) (cpState (cpN (.cpy (cpG)) (dat 0) firstWords)) = .next t) ∧
    (∃ t, exec (.cpym (cpG)) (cpState (cpN (.cpym (cpG)) (dat 0) (firstWords (16 + 2 ^ 40 + 2 ^ 56)))) = .next t) :=
  ⟨answers ((h _ (cpG) false _ p0 0 _ _ mk3 firstWords _ _ _ (Or.inl ⟨rfl, rfl⟩) (packet_turn rfl rfl rfl rfl rfl)).1 rfl),
   answers ((h _ (cpG) false _ p0 0 _ _ bad firstWords _ _ _ (Or.inl ⟨rfl, rfl⟩) (packet_turn rfl rfl rfl rfl rfl)).2.1 rfl rfl),
   answers (((h _ (cpG) false _ p0 0 _ _ (dat 0) (firstWords 6) _ _ _ (Or.inl ⟨rfl, rfl⟩) (packet_turn rfl rfl rfl rfl rfl)).2.2 rfl rfl).1
      (fun hk => absurd hk.length (by decide))),
   answers ((((h _ (cpG) false _ p0 0 _ _ (dat 0) (firstWords 8192) _ _ _ (Or.inl ⟨rfl, rfl⟩) (packet_turn rfl rfl rfl rfl rfl)).2.2 rfl rfl).2
      (packet_ok rfl (by decide) rfl rfl rfl)).1 0 0x13 _ rfl),
   answers ((((h _ (cpG) false _ p0 0 _ _ (dat 0) firstWords _ _ _ (Or.inl ⟨rfl, rfl⟩) (packet_turn rfl rfl rfl rfl rfl)).2.2 rfl rfl).2
      (packet_ok rfl (by decide) rfl rfl rfl)).2 _ rfl (by decide) rfl (by decide) nofun),
   answers ((((h _ (cpG) true _ p0 0 _ _ (dat 0) (firstWords (16 + 2 ^ 40 + 2 ^ 56)) _ _ _ (Or.inr ⟨rfl, rfl⟩) (packet_turn rfl rfl rfl rfl rfl)).2.2
      rfl rfl).2 ⟨rfl, by decide, by decide, by decide, rfl⟩).2 _ rfl (by decide) rfl (by decide)
      (fun _ j hj => by
        obtain rfl : j = 0 := by revert hj; decide +revert
        decide))⟩

theorem witness_copy_markers (h : copyMarker) :
    (∃ t, exec (.cpy chG) (cpState (cpN (.cpy chG) mk3 [])) = .next t) ∧
    (∃ t, exec (.cpy (cpG)) (cpState (cpN (.cpy (cpG)) (.marker 6#3 0#8 0#8) [])) = .next t) :=
  ⟨answers (h _ chG false _ p0 0 (cpPlane (cpN (.cpy chG) mk3 [])) _ mk3 (List.replicate 16 1) [] none (Or.inl ⟨rfl, rfl⟩) ⟨rfl, rfl, rfl, rfl⟩ rfl
      (fun _ => rfl) rfl rfl (Or.inl ⟨[], rfl, rfl⟩) rfl rfl rfl (Or.inl rfl)),
   answers (h _ (cpG) false _ p0 0 (cpPlane (cpN (.cpy (cpG)) (.marker 6#3 0#8 0#8) [])) _ (.marker 6#3 0#8 0#8) (List.replicate 16 1) [] none
      (Or.inl ⟨rfl, rfl⟩) ⟨rfl, rfl, rfl, rfl⟩ rfl (fun _ => rfl) rfl rfl (Or.inl ⟨[], rfl, rfl⟩) rfl rfl rfl (Or.inl rfl))⟩

/-! ## Ports -/

def cpWords : List W64 := [64#64, 128#64, 16#64, 0#64]
def copy0 : Copy :=
  { plane := p0, node := 0, words := cpWords, chan := false, space := 0, md := 4, src := [(0, 64)], dsts := [[(0, 128)]], cells := []
    iter := [0, 0, 0, 0], opv := [64#64, 128#64, 16#64] }
/-- Port 0 with a copy at its head, in a cycle. -/
def port (c : Copy) (cycle : Nat := 100) (arg : Stimulus := { plane := p0 }) : State :=
  { strState (cpPlane (cpN (.cpy (cpG)) (dat 0) [])) with ports := [(0, [c])], arg, cursor := .event, cycle }

/-- A port whose copy is done in an abandoned plane. -/
def portEnding : State :=
  let pl := { cpPlane (cpN (.cpy (cpG)) (dat 0) []) with abandon := true }
  { strState pl with ports := [(0, [{ copy0 with done := 16 }])], arg := { plane := p0 }, cursor := .event }

theorem witness_copy_runs (h : copyRuns) :
    (∃ t, exec .copyRun (port copy0) = .next t) ∧
    (∃ t, exec .copyRun (port { copy0 with got := some [some 7#32, none] }) = .next t) ∧
    (∃ t, exec .copyRun (port { copy0 with got := some [some 7#32, none], made := 1 }) = .next t) ∧
    (∃ t, exec .copyRun (port { copy0 with done := 16, cells := [256] }) = .next t) ∧
    (∃ t, exec .copyRun (port { copy0 with done := 16 }) = .next t) ∧
    (∃ t, exec .copyRun portEnding = .next t) :=
  ⟨answers ((h (port copy0) copy0 [] rfl rfl).1 (by decide) rfl (by decide) |>.1 _ rfl),
   answers ((h (port { copy0 with got := some [some 7#32, none] }) _ [] rfl rfl).2.1 _ _ (by decide) rfl rfl (by decide) rfl |>.1 _ rfl),
   answers ((h (port { copy0 with got := some [some 7#32, none], made := 1 }) _ [] rfl rfl).2.2.1 _ (by decide) rfl rfl (by decide) (by decide)),
   answers ((h (port { copy0 with done := 16, cells := [256] }) _ [] rfl rfl).2.2.2.1 256 (by decide) rfl),
   answers (((h (port { copy0 with done := 16 }) _ [] rfl rfl).2.2.2.2 _ _ (by decide) (by decide) rfl rfl).2 rfl
     ⟨_, List.mem_singleton.2 rfl, nofun⟩ rfl rfl rfl),
   answers (((h portEnding { copy0 with done := 16 } [] rfl rfl).2.2.2.2 _ _ (by decide) (by decide) rfl rfl).1 (Or.inl rfl))⟩

/-- A copy from HBM4 all of whose request slots are taken. -/
def busyPort : State := { port { copy0 with space := 2 } with slotsHbm := [40960, 0, 0, 0] }
theorem witness_copy_slots (h : copyRuns) : ∃ t, exec .copyRun busyPort = .next t :=
  answers ((h busyPort { copy0 with space := 2 } [] rfl rfl).1 (by decide) rfl (by decide) |>.2 rfl)

/-- A completion cell with a count of 2, of 1 and of 0. -/
def cellPlane (count : Nat) : Plane := { plane [] with sram := { cells := if count = 0 then [] else [(256, BitVec.ofNat 8 count)] } }
theorem witness_arrivals (h : arrivals) :
    ((cellPlane 2).arrive 256 1).sram.nat 256 4 = 1 ∧ granule 256 ∈ ((cellPlane 1).arrive 256 0).full ∧
    ((cellPlane 0).arrive 256 0).sram.nat 260 4 = 2 :=
  ⟨((h (cellPlane 2) 256 1 (by decide) (by decide) (by decide)).1 (by decide)).1,
   ((h (cellPlane 1) 256 0 (by decide) (by decide) (by decide)).2.1 (by decide) rfl).2.2,
   ((h (cellPlane 0) 256 0 (by decide) (by decide) (by decide)).2.1 (by decide) rfl).2.1⟩

theorem witness_copy_timeouts (h : copyTimesOut) :
    (∃ t, exec .copyTimeout (port copy0 (2 ^ 20)) = .next t) ∧
    (∃ t, exec .copyTimeout { port copy0 (2 ^ 20) { plane := p0, other := 1 } with
        pads := [(0, { x0 := 0, y0 := 0, w := 2, h := 2, planes := [cpPlane { cpN (.cpy (cpG)) (dat 0) [] with st := .copy [] [] [] (some 0) }] })] } =
      .next t) :=
  ⟨answers ((h (port copy0 (2 ^ 20))).1 copy0 [] (by decide) rfl rfl (by decide) rfl (by decide) ⟨_, rfl⟩),
   answers ((h _).2 _ _ [] [] [] 0 rfl rfl rfl rfl (by decide))⟩

def slotN : Node := { cpN (.cpym (cpG)) (dat 0) [] with st := .copy [] [0, 1] [0, 1] none }
theorem witness_slot_return (h : slotReturns) : ∃ t, exec .slotReturn (dev (plane [slotN])) = .next t :=
  answers (h _ (plane [slotN]) slotN (cpG) 0 [] _ [1] none rfl rfl rfl rfl (Or.inl ⟨_, rfl, rfl⟩))

end Sys2Proof.Tests
end

