-- ==== Sys2Proof/Tests/Device.lean ====
section
/-! SUPPORT. Every clause of the statements on registers, contexts, firmware and clocks is met: each line applies a statement to
a small state and proves its premises there. -/

namespace Sys2Proof.Tests

open Sys2Proof.Machine Sys2Proof.Claims

/-- A running device with a context, a plane of it and an entry of the tack store, after a stimulus. -/
def devState (x : Stimulus := {}) (c : Ctx := { state := 1 }) (r : Regs := { stage := 5 }) : State :=
  { State.reset with
    regs := { r with devId := 0#64 }, arg := x, cycle := 100, ctxs := [(3, c)]
    pads := [(0, { x0 := 0, y0 := 0, w := 2, h := 2, planes := [{ plane [] with ctx := 3, colour := 1, flags := 31#5, prio := 2, level := 2 }] })]
    tasks := [(1, { serial := 1, ctx := 3, ico := 0#64, load := 0, st := .bound, plane := some p0, prio := 5 })] }

theorem witness_register_writes (h : registerWrites) :
    (∃ t, exec .registerWrite (devState { index := 0x19, value := 0xFFFFFFFFFFFFFFFF#64 }) = .next t) ∧
    (∃ t, exec .registerWrite (devState { index := 0x1FF, value := 5#64 }) = .next t) ∧
    (∃ t, exec .registerWrite (devState { index := 0x8065, value := 0xFF#64 }) = .next t) ∧
    (∃ t, exec .registerWrite (devState { index := 0x806D, value := 0x00100001#64 }) = .next t) ∧
    (∃ t, exec .registerWrite (devState { index := 0x14, value := 40#64 }) = .next t) ∧
    (∃ t, exec .registerWrite (devState { index := 0x14, value := 41#64 }) = .next t) ∧
    (∃ t, exec .registerWrite (devState { index := 0x8068, value := 0x48500000#64 }) = .next t) ∧
    (∃ t, exec .registerWrite (devState { index := 0x8068, value := 0x48500001#64 }) = .next t) ∧
    (∃ t, exec .registerWrite (devState { index := 0x8072, value := 0x0300000000000041#64 }) = .next t) ∧
    (∃ t, exec .registerWrite (devState { index := 0x8066, value := 0xFFFFFFFFFFFFFFFD#64 }) = .next t) ∧
    (∃ t, exec .registerWrite (devState { index := 0x7FE5, value := 1#64 }) = .next t) ∧
    (∃ t, exec .registerWrite (devState { index := 0x8076, value := 1#64 }) = .next t) :=
  ⟨answers ((h (devState { index := 0x19, value := 0xFFFFFFFFFFFFFFFF#64 }) _ 3 rfl rfl (by decide)).1
      (0x19, fun r => { r with evqPtr := keep 0xFFFFFFFFFFFFFFFF#64 [(31, 16), (14, 0)] ||| keep r.evqPtr [(46, 32)] })
      (List.mem_append_left _ (List.mem_of_getElem? (i := 3) rfl)) rfl),
   answers ((h (devState { index := 0x1FF, value := 5#64 }) _ 3 rfl rfl (by decide)).1
      (0x100 + 255, fun r => { r with peerTab := mapSet r.peerTab 255 (keep 5#64 [(63, 53), (47, 0)]) })
      (List.mem_append_right _ (List.mem_map.mpr ⟨255, by simp, rfl⟩)) rfl),
   answers ((h (devState { index := 0x8065, value := 0xFF#64 }) _ 3 rfl rfl (by decide)).2.1
      (5, fun x => { x with trapen := (0xFF#64).setWidth 8 &&& 0xDF#8 }) (List.mem_append_left _ (List.mem_of_getElem? (i := 3) rfl)) rfl),
   answers ((h (devState { index := 0x806D, value := 0x00100001#64 }) _ 3 rfl rfl (by decide)).2.1
      (10 + 3, fun x => { x with pswin := modifyAt x.pswin 3 fun _ => keep 0x00100001#64 [(31, 16), (14, 0)] })
      (List.mem_append_right _ (List.mem_map.mpr ⟨3, by simp, rfl⟩)) rfl),
   answers ((h (devState { index := 0x14, value := 40#64 }) _ 3 rfl rfl (by decide)).2.2.1 rfl (by decide) (by decide)),
   answers ((h (devState { index := 0x14, value := 41#64 }) _ 3 rfl rfl (by decide)).2.2.2.1 rfl (Or.inr (by decide))),
   answers (((h (devState { index := 0x8068, value := 0x48500000#64 }) _ 3 rfl rfl (by decide)).2.2.2.2.1 0 0 80 72 rfl rfl rfl rfl rfl).1
      (by decide)),
   answers (((h (devState { index := 0x8068, value := 0x48500001#64 }) _ 3 rfl rfl (by decide)).2.2.2.2.1 1 0 80 72 rfl rfl rfl rfl rfl).2
      (by decide)),
   answers ((h (devState { index := 0x8072, value := 0x0300000000000041#64 }) _ 3 rfl rfl (by decide)).2.2.2.2.2.1 rfl),
   ((h (devState { index := 0x8066, value := 0xFFFFFFFFFFFFFFFD#64 }) _ 3 rfl rfl (by decide)).2.2.2.2.2.2.1 rfl).imp fun _ e => e.1,
   answers ((h (devState { index := 0x7FE5, value := 1#64 }) _ 3 rfl rfl (by decide)).2.2.2.2.2.2.2.1 (by unfold unwritten; decide)),
   answers ((h (devState { index := 0x8076, value := 1#64 }) _ 3 rfl rfl (by decide)).2.2.2.2.2.2.2.2 22 (by decide) (by decide) rfl)⟩

theorem witness_registers_closed (h : registersClosed) :
    (∃ t, exec .registerWrite (devState { index := 0x14, value := 20#64 } {} {}) = .next t) ∧
    (∃ t, exec .registerWrite (devState { index := 4, value := 0xFFFF#64 } {} {}) = .next t) :=
  ⟨answers ((h (devState { index := 0x14, value := 20#64 } {} {}) (by decide) (by decide)).1 (by decide) (by decide)),
   answers ((h (devState { index := 4, value := 0xFFFF#64 } {} {}) (by decide) (by decide)).2 rfl)⟩

theorem witness_bar_reads (h : barReads) :
    (devState {} {} {}).readBar0 0x48 4 = 0#64 ∧ (devState {} {} { stage := 3 }).readBar0 0x48 8 = 0#64 ∧
    (devState {} {} { stage := 5, policy := 7#64 }).readBar0 0x40 8 = 7#64 ∧
    (devState {} {} { stage := 0xFF, bootErr := 3 }).readBar0 0x10 8 = 0x3FF#64 ∧
    (devState {} {} { stage := 5 }).readBar0 (8 * 0x7FE0) 8 = 0#64 ∧ (devState {} {} { stage := 5 }).readBar0 (8 * 0xFFFF) 8 = 0#64 ∧
    (devState {} { seed := 9#64 } { stage := 5 }).readBar0 (8 * (0x8000 + 96 + 1)) 8 = 9#64 :=
  ⟨(h _ _ _).1 (Or.inl (by decide)), (h _ _ _).2.1 (by decide) (by decide),
   ((h (devState {} {} { stage := 5, policy := 7#64 }) 0x40 8).2.2.2.2 rfl rfl).2.2 rfl |>.2.1 rfl,
   ((h (devState {} {} { stage := 0xFF, bootErr := 3 }) 0x10 8).2.2.2.2 rfl rfl).1 rfl,
   (h _ _ _).2.2.1 (by decide) (by decide), (h _ _ _).2.2.2.1 (by decide),
   (((h (devState {} { seed := 9#64 } { stage := 5 }) (8 * (0x8000 + 96 + 1)) 8).2.2.2.2 rfl rfl).2.2 rfl).2.2.2 3 (by decide) |>.1 rfl⟩

def ctxAt (n : Nat) (fail : W64 := 0#64) : State := devState { context := 3#10 } { state := n, fail }
def offState : State := { ctxAt 1 with pads := [], tasks := [(4032, { serial := 1, ctx := 3, ico := 0#64, load := 0 })] }
theorem witness_status_writes (h : statusWrites) :
    (∃ t, exec .ctxMakeLive (ctxAt 0) = .next t) ∧ (∃ t, exec .ctxMakeLive (ctxAt 2) = .next t) ∧ (∃ t, exec .ctxMakeOff offState = .next t) ∧
    (∃ t, exec .ctxMakeOff (ctxAt 1) = .next t) ∧ (∃ t, exec .ctxClearFailed (ctxAt 2 (1#64 <<< 63)) = .next t) ∧
    (∃ t, exec .ctxClearFailed (ctxAt 2) = .next t) :=
  ⟨answers ((h (ctxAt 0) 3 rfl rfl).1 rfl), answers ((h (ctxAt 2) 3 rfl rfl).2.1 (by decide)),
   answers ((h offState 3 rfl rfl).2.2.1 rfl ⟨by decide, by decide, rfl⟩),
   answers ((h (ctxAt 1) 3 rfl rfl).2.2.2.1 (Or.inr fun hi => absurd (hi.1 _ (List.mem_cons_self ..) rfl) (by decide))),
   answers ((h (ctxAt 2 (1#64 <<< 63)) 3 rfl rfl).2.2.2.2.1 rfl (by decide)),
   answers ((h (ctxAt 2) 3 rfl rfl).2.2.2.2.2 (Or.inr (by decide)))⟩

theorem witness_flags_clear (h : flagsClear) : ∃ t, exec .fpflagsClear (devState { context := 3#10, value := 5#64 }) = .next t :=
  (h (devState { context := 3#10, value := 5#64 }) 3 rfl rfl).imp fun _ e => e.1

def binState (n : Nat) : State :=
  { devState { context := 3#10, value := BitVec.ofNat 64 (n * 2 ^ 16) } with ctxs := [(3, { state := 1 }), (4, { state := 1, binctl := BitVec.ofNat 64 (4000 * 2 ^ 16) })] }
theorem witness_area_writes (h : areaWrites) :
    (∃ t, exec .binctlWrite (binState 96) = .next t) ∧ (∃ t, exec .binctlWrite (binState 97) = .next t) ∧ (∃ t, exec .saveareaWrite (binState 9) = .next t) :=
  ⟨answers ((h (binState 96) 3 _ rfl rfl rfl).1 (by decide)), answers ((h (binState 97) 3 _ rfl rfl rfl).2.1 (by decide)),
   answers ((h (binState 9) 3 _ rfl rfl rfl).2.2)⟩

def invState (busy : Bool) (v : W64 := 0x0030000000000001#64) : State :=
  { devState { value := v } {} { stage := 5, tlbBusy := busy, tlbInv := v } with
    tlbs := [(0, { asid := 3, page := 1, bits := 16, frame := 0, host := false, device := false, write := true })] }
theorem witness_purges (h : purges) :
    (∃ t, exec .tackFlush (invState false) = .next t) ∧ (∃ t, exec .tlbInvStart (invState true) = .next t) ∧
    (∃ t, exec .tlbInvStart (invState false) = .next t) ∧ (∃ t, exec .tlbInvDone (invState true) = .next t) :=
  ⟨answers ((h (invState false) rfl).1), answers ((h (invState true) rfl).2.1 rfl), answers ((h (invState false) rfl).2.2.1 rfl),
   ((h (invState true) rfl).2.2.2 rfl).imp fun _ e => e.1⟩

theorem witness_pacing (h : pacingWrites) :
    (∃ t, exec .actBudgetWrite (devState { index := 0, value := 7#64 }) = .next t) ∧ (∃ t, exec .actBudgetWrite (devState { index := 1, value := 7#64 }) = .next t) ∧
    (∃ t, exec .actBudgetWrite (devState { index := 2, value := 7#64 }) = .next t) ∧ (∃ t, exec .dieTimeOffsetWrite (devState { index := 8, value := 7#64 }) = .next t) ∧
    (∃ t, exec .dieTimeRateWrite (devState { index := 8 }) = .next t) ∧ (∃ t, exec .dieTimeRateWrite (devState { index := 8, value := 7#64 }) = .next t) :=
  ⟨answers ((h (devState { index := 0, value := 7#64 }) _ rfl rfl).1 rfl), answers ((h (devState { index := 1, value := 7#64 }) _ rfl rfl).2.1 rfl),
   answers ((h (devState { index := 2, value := 7#64 }) _ rfl rfl).2.2.1 rfl),
   answers ((h (devState { index := 8, value := 7#64 }) _ rfl rfl).2.2.2.1 8 (by decide) rfl),
   answers ((h (devState { index := 8 }) _ rfl rfl).2.2.2.2.1 rfl),
   answers ((h (devState { index := 8, value := 7#64 }) _ rfl rfl).2.2.2.2.2 8 0#64 (by decide) rfl (by decide) rfl)⟩

theorem witness_scans (h : scans) : ∃ t, exec .scanDataRead (devState) = .next t := (h (devState) rfl).elim fun _ e => e.elim fun _ e => ⟨_, e.1⟩

/-! ## Start-up and firmware -/

def img (gen : Nat) (ok : Bool := true) : FwImage := { generation := BitVec.ofNat 32 gen, floor := 2#32, sigOk := ok }
def boot (a b : FwImage) (ok : Bool := true) : BootFacts :=
  { slotA := a, slotB := b, fusedFloor := 3#32, recordOk := ok, steppings := 1#64, diesOk := true, trainOk := true, serial := 9#32 }
def offDevice (a b : FwImage) (ok : Bool := true) : State := { State.reset with arg := { boot := boot a b ok } }
def flash0 (s : State) : Firmware :=
  { s.firmware with known := true, slotA := s.arg.boot.slotA, slotB := s.arg.boot.slotB, fused := s.arg.boot.fusedFloor }
theorem witness_power_on (h : powersOn) :
    (∃ t, exec .powerOn (offDevice (img 4) (img 5)) = .next t ∧ t.regs.stage = 5) ∧
    (∃ t, exec .powerOn (offDevice (img 2) (img 3)) = .next t ∧ t.regs.bootSlot = 1) ∧
    (∃ t, exec .powerOn (offDevice (img 4) (img 5) false) = .next t ∧ t.regs.bootErr = 2) ∧
    (∃ t, exec .powerOn (offDevice (img 4 false) (img 2)) = .next t ∧ t.regs.bootErr = 1) :=
  ⟨(h (offDevice (img 4) (img 5)) (flash0 _) ⟨nofun, fun _ => rfl⟩).imp fun _ e =>
      ⟨e.1, (e.2.runs false (img 4) ⟨rfl, ⟨rfl, by decide⟩, Or.inl rfl⟩ rfl).1⟩,
   (h (offDevice (img 2) (img 3)) (flash0 _) ⟨nofun, fun _ => rfl⟩).imp fun _ e =>
      ⟨e.1, (e.2.runs true (img 3) ⟨rfl, ⟨rfl, by decide⟩, Or.inr fun hs => absurd hs.2 (by decide)⟩ rfl).2.2.1⟩,
   (h (offDevice (img 4) (img 5) false) (flash0 _) ⟨nofun, fun _ => rfl⟩).imp fun _ e =>
      ⟨e.1, (e.2.failed false (img 4) ⟨rfl, ⟨rfl, by decide⟩, Or.inl rfl⟩ (by decide)).2⟩,
   (h (offDevice (img 4 false) (img 2)) (flash0 _) ⟨nofun, fun _ => rfl⟩).imp fun _ e =>
      ⟨e.1, (e.2.neither (fun hs => absurd hs.1 (by decide)) (fun hs => absurd hs.2 (by decide))).2⟩⟩

def fwState (i : FwImage) (busy : Bool := false) (stage : Nat := 5) (err : Nat := 0) (pending : Option (Bool × FwImage) := none) : State :=
  { devState { image := i, value := 0x12345000#64, boot := boot (img 4) (img 5) } {} { stage, fwBusy := busy, genCurrent := 4#32, bootErr := err } with
    firmware := { known := true, slotA := img 4, slotB := img 2, fused := 3#32, running := some false, pending } }
theorem witness_fw_activate (h : activatesFirmware) :
    (∃ t, exec .fwActivate (fwState (img 5) true) = .next t) ∧ (∃ t, exec .fwActivate (fwState (img 5 false)) = .next t) ∧
    (∃ t, exec .fwActivate (fwState (img 4)) = .next t) ∧ (∃ t, exec .fwActivate (fwState (img 5)) = .next t) :=
  ⟨answers ((h (fwState (img 5) true) _ rfl (by decide)).1 rfl), answers ((h (fwState (img 5 false)) _ rfl (by decide)).2.1 rfl rfl),
   answers ((h (fwState (img 4)) _ rfl (by decide)).2.2.1 rfl rfl (Or.inr (by decide))),
   answers ((h (fwState (img 5)) _ rfl (by decide)).2.2.2 rfl ⟨rfl, by decide⟩ (by decide))⟩

def fwReady : State := fwState (img 5) true 5 0 (some (true, img 5))
def fwFilling : State :=
  { fwReady with tack := [(4, { digest := 5#384, load := 0, mask := 0xFF, gen := 0#32, image := { width := 2, height := 2 }, filling := true })] }
theorem witness_fw_activation (h : firmwareActive) : (∃ t, exec .fwActivation fwReady = .next t) ∧ (∃ t, exec .fwActivation fwFilling = .next t) :=
  ⟨((h fwReady true (img 5) rfl).2 nofun).elim fun _ e => ⟨_, e.1⟩,
   answers ((h fwFilling true (img 5) rfl).1 ⟨_, List.mem_cons_self .., rfl⟩)⟩

theorem witness_recovery (h : recovers) :
    (∃ t, exec .fwRecovery (fwState (img 5 false) false 0xFF 5) = .next t) ∧ (∃ t, exec .fwRecovery (fwState (img 2) false 0xFF 1) = .next t) ∧
    (∃ t, exec .fwRecovery (fwState (img 3) false 0xFF 1) = .next t) :=
  ⟨answers ((h (fwState (img 5 false) false 0xFF 5) _ rfl rfl rfl (by decide) (by decide)).1 rfl),
   answers ((h (fwState (img 2) false 0xFF 1) _ rfl rfl rfl (by decide) (by decide)).2.1 rfl (by decide)),
   ((h (fwState (img 3) false 0xFF 1) _ rfl rfl rfl (by decide) (by decide)).2.2 ⟨rfl, by decide⟩).imp fun _ e => e.1⟩

/-! ## Clocks, the host link -/

/-- A device at a clock step whose last step was 10 µs before its present die time, or never. -/
def clkState (cur : Nat) (at_ : Option Nat := none) (now : Nat := 20000) : State :=
  devState {} {} { stage := 5, clkCur := cur, clkAt := at_, offsets := List.replicate 9 (BitVec.ofNat 64 now), dieTime := List.replicate 9 (BitVec.ofNat 64 now) }
theorem witness_clock (h : clockSteps) :
    (∃ t, exec .clockStepDown (clkState 19 (some 10000)) = .next t) ∧ (∃ t, exec .clockStepDown (clkState 18) = .next t) ∧
    (∃ t, exec .clockStepDown (clkState 30 (some 10001)) = .next t) ∧ (∃ t, exec .clockStepUp (clkState 35) = .next t) ∧
    (∃ t, exec .clockStepUp (clkState 36) = .next t) ∧ (∃ t, exec .thermalShutdown (clkState 18) = .next t) ∧ (∃ t, exec .thermalShutdown (clkState 19) = .next t) :=
  ⟨answers ((h (clkState 19 (some 10000)) rfl).1 (by decide) (fun t ht => by cases ht; decide)), answers ((h (clkState 18) rfl).2.1 (Or.inl (by decide))),
   answers ((h (clkState 30 (some 10001)) rfl).2.1 (Or.inr fun hs => absurd (hs 10001 rfl) (by decide))),
   answers ((h (clkState 35) rfl).2.2.1 (by decide) nofun), answers ((h (clkState 36) rfl).2.2.2.1 (Or.inl (by decide))),
   ((h (clkState 18) rfl).2.2.2.2.1 rfl nofun).imp fun _ e => e.1, answers ((h (clkState 19) rfl).2.2.2.2.2 (Or.inl (by decide)))⟩

def hl : HostLink := { pcie := 6, lanes := 16, cxl := true }
theorem witness_host_link (h : hostLink) :
    (∃ t, exec .hostLinkUp (devState { link := hl }) = .next t) ∧ (∃ t, exec .spdmRequest { fwState (img 5) with link := some hl } = .next t) :=
  ⟨answers ((h (devState { link := hl }) hl rfl).1 (by decide) (by decide)),
   answers ((h { fwState (img 5) with link := some hl } {} rfl).2 false hl rfl rfl)⟩

end Sys2Proof.Tests
end

