-- ==== Sys2Proof/Tests/Dispatch.lean ====
section
/-! SUPPORT. Every clause of the statements on the dispatcher and the translator is met: each line applies a statement to a
small state and proves its premises there. -/

namespace Sys2Proof.Tests

open Sys2Proof.Machine Sys2Proof.Claims

/-! ## Launches -/

/-- Tables that map the first GiB of context 3: entry 0 of the first level at 64 KiB leads to 128 KiB, whose entry 0 is a leaf. -/
def pageTables : Memory := { cells := [⟨0x10000, 1#8⟩, ⟨0x10002, 2#8⟩, ⟨0x20000, 7#8⟩] }
def ctx3 : Ctx := { state := 1, ptbase := 0x10001#64, handler := 1#64, handlerEntry := some 8, traparea := 0x1001#64 }
def dsp (x : Stimulus) (ts : List (Nat × Task) := []) (c : Ctx := ctx3) (pads : List (Nat × Paddock) := []) (tack : List (Nat × TackEntry) := []) : State :=
  { State.reset with
    regs := { stage := 5 }, cycle := 100, ctxs := [(3, c)], tasks := ts, arg := { x with context := 3#10 }, pads, tack, dram := pageTables, nextId := 20 }
def tsk (tag : Nat) (st : TaskState := .ready) : Task := { serial := 7, ctx := 3, ico := 0x40#64, load := 0, tag := BitVec.ofNat 32 tag, st }
def rec2 : Launch := { prio := 3, ret := true, ico := 0x40#64, load := 2, args := 0x80#64, tag := 5#32, preds := [9#32] }
def rec1 : Launch := { prio := 7, ico := 0x40#64, load := 2, args := 0x80#64, tag := 5#32 }
def filled : Ctx := { ctx3 with launches := List.replicate 16 rec1 }

theorem good2 : goodLaunch 8 rec2 := by unfold goodLaunch; decide
theorem good1 : goodLaunch 1 rec1 := by unfold goodLaunch; decide
theorem first_free {s : State} (hq : (s.tasks.filter fun t => t.1 < 4032 ∧ t.2.ctx = 3).length < (s.ctx 3).quota) (h0 : s.task 0 = none) :
    freeColourOf s 3 0 := ⟨hq, by decide, h0, nofun⟩

theorem witness_launches (h : launches) :
    (∃ t, exec .launchV2 (dsp { bytes := recordV2 rec2 } [(40, tsk 9)]) = .next t) ∧ (∃ t, exec .launchV1 (dsp { bytes := recordV1 rec1 }) = .next t) ∧
    (∃ t, exec .launchV1 (dsp { bytes := recordV1 rec1 } [] { ctx3 with quota := 0 }) = .next t) ∧
    (∃ t, exec .launchV2 (dsp { bytes := recordV2 rec2 } [] filled) = .next t) ∧
    (∃ t, exec .launchV2 (dsp { bytes := recordV2 rec2 } [] { state := 2 }) = .next t) ∧ (∃ t, exec .launchV1 (dsp { bytes := [] }) = .next t) :=
  ⟨((h (dsp { bytes := recordV2 rec2 } [(40, tsk 9)]) 3 rfl rfl).1 rec2 good2 rfl rfl rfl).table 0 rfl (first_free (by decide) rfl) |>.elim
      fun _ e => ⟨_, e.2⟩,
   ((h (dsp { bytes := recordV1 rec1 }) 3 rfl rfl).2.1 rec1 good1 rfl rfl rfl).table 0 rfl (first_free (by decide) rfl) |>.elim fun _ e => ⟨_, e.2⟩,
   ((h (dsp { bytes := recordV1 rec1 } [] { ctx3 with quota := 0 }) 3 rfl rfl).2.1 rec1 good1 rfl rfl rfl).queue (Or.inr fun _ hk => absurd hk.1 (by decide))
      (by decide) |>.imp fun _ e => e.1,
   ((h (dsp { bytes := recordV2 rec2 } [] filled) 3 rfl rfl).1 rec2 good2 rfl rfl rfl).drop (by decide) |>.imp fun _ e => e.1,
   answers ((h (dsp { bytes := recordV2 rec2 } [] { state := 2 }) 3 rfl rfl).2.2.1 (Or.inr (Or.inl (by decide)))),
   answers ((h (dsp { bytes := [] }) 3 rfl rfl).2.2.2 (Or.inr (Or.inr fun _ _ => nofun)))⟩

theorem witness_buffers (h : buffersEmpty) :
    (∃ t, exec .bufferedLaunchEnter (dsp {} [] { ctx3 with launches := [rec1, rec2] }) = .next t) ∧
    (∃ t, exec .bufferedLaunchEnter { dsp { other := 1 } with waiting := [{ tsk 0 with handler := true }] } = .next t) :=
  ⟨((h (dsp {} [] { ctx3 with launches := [rec1, rec2] })).1 3 rec1 [rec2] 0 (by decide) rfl rfl (first_free (by decide) rfl)).elim fun _ e => ⟨_, e.2⟩,
   answers ((h { dsp { other := 1 } with waiting := [{ tsk 0 with handler := true }] }).2 _ [] 4032 rfl rfl (by decide) (by decide) rfl
      (fun j h1 h2 => absurd h1 (Nat.not_le.mpr h2)))⟩

def aged (now : Nat) (level : Nat := 6) : State := { dsp { index := 1 } [(1, { tsk 0 with level, since := 50 })] with cycle := now }
theorem witness_ageing (h : tasksAge) :
    (∃ t, exec .taskAgeing (aged (50 + 2 ^ 20)) = .next t) ∧ (∃ t, exec .taskAgeing (aged (49 + 2 ^ 20)) = .next t) ∧
    (∃ t, exec .taskAgeing (aged (50 + 2 ^ 20) 7) = .next t) :=
  ⟨answers ((h (aged (50 + 2 ^ 20)) _ rfl).1 rfl (by decide) (by decide)), answers ((h (aged (49 + 2 ^ 20)) _ rfl).2 (Or.inr (Or.inr (by decide)))),
   answers ((h (aged (50 + 2 ^ 20) 7) _ rfl).2 (Or.inr (Or.inl (by decide))))⟩

/-! ## Binding -/

def pad22 (pls : List Plane) : Paddock := { x0 := 0, y0 := 0, w := 2, h := 2, planes := pls }
def img22 : Image := { width := 2, height := 2, params := [{ port := 0, ty := .i32, offset := 4, bytes := 4 }], entries := [(0, .operand 0 .a)] }
theorem witness_image_fits (h : imageFits) : img22.fits (pad22 [{}, { st := .live, slots := 200, kib := 9 }]) none 3 = true ∧
    ¬ ({ img22 with slots := 57 } : Image).fits (pad22 [{}, { st := .live, slots := 200, kib := 9 }]) none 3 = true :=
  ⟨(h img22 (pad22 [{}, { st := .live, slots := 200, kib := 9 }]) none 3).mpr
      ⟨rfl, rfl, rfl, fun _ hx => absurd hx (by decide), fun _ hx => absurd hx (by decide), nofun, nofun, nofun, nofun, by decide, by decide⟩,
   fun hx => absurd ((h { img22 with slots := 57 } (pad22 [{}, { st := .live, slots := 200, kib := 9 }]) none 3).mp hx).2.2.2.2.2.2.2.2.2.1 (by decide)⟩

def ent (im : Image := img22) : TackEntry := { digest := 5#384, load := 0, mask := 0xFF, gen := 0#32, image := im }
def bound3 : Ctx := { ctx3 with graphs := [{ ico := 0x40#64, digest := 5#384, parts := [] }] }
def bnd (x : BindTarget) (pls : List Plane) (t : Task := tsk 0) (im : Image := img22) (c : Ctx := bound3) : State :=
  dsp { bind := { target := x } } [(1, t)] c [(0, pad22 pls)] [(4, ent im)]
def restoring : Task := { tsk 0 with restores := some 2, prio := 5 }
def claimState : State :=
  { bnd (.claim p0) [{ st := .live, ctx := 3, prio := 2, colour := 2 }] restoring with
    saves := [(2, { plane := { entry := some 4, ctx := 3 }, pages := 1, pid := p0, kib := 1 })] }
theorem args_none {s : State} {t : Task} {im : Image} (h1 : t.handler = false) (h2 : t.restores = none) (h3 : im.params = []) (h4 : t.wantRet = false) :
    argsFor s t im [] := Or.inr (Or.inr ⟨h1, h2, by rw [h3]; rfl, fun i r x hr _ => by rw [h3] at hr; simp at hr, fun hw => by simp [h4] at hw⟩)
def plain22 : Image := { width := 2, height := 2 }

theorem witness_bind_order (h : bindOrder) : ((1, tsk 0) ∈ (bnd (.plane p0) [{}]).tasks) :=
  (h (bnd (.plane p0) [{}]) 1 (tsk 0) (.bind 2 4 img22) rfl).1

theorem reads_arg (s : State) (t : Task) (h1 : t.handler = false) (h2 : t.restores = none) (h4 : t.wantRet = false) {loc : Nat}
    (h : s.probeDevice t.ctx (t.args + 4#64) 4 0 = .ok loc) :
    argsFor s t img22 [(0, loadToken .i32 4 (s.dram.readWord loc 4))] :=
  Or.inr (Or.inr ⟨h1, h2, rfl, fun i r x hr hx => by
    match i with
    | 0 => cases hr; cases hx; exact ⟨rfl, loc, h, rfl⟩
    | i + 1 => simp [img22] at hr, fun hw => by simp [h4] at hw⟩)

theorem witness_binds (h : binds) :
    (∃ t, exec .bindTask (bnd (.plane p0) [{ entry := some 4 }] (tsk 0) plain22) = .next t) ∧
    (∃ t, exec .bindTask (bnd (.plane p0) [{}]) = .next t) ∧
    (∃ t, exec .bindTask (bnd (.fresh 4 4 2 2) [{ st := .live }] (tsk 0) plain22) = .next t) ∧
    (∃ t, exec .bindTask claimState = .next t) ∧
    (∃ t, exec .bindTask (bnd (.plane p0) [{}] (tsk 0) { plain22 with slots := 257 }) = .next t) ∧
    (∃ t, exec .bindTask (bnd (.plane p0) [{}] { tsk 0 with args := 0x40000000#64 }) = .next t) :=
  ⟨answers ((h (bnd (.plane p0) [{ entry := some 4 }] (tsk 0) plain22) 1 (tsk 0) (.bind 1 4 plain22) rfl rfl).1 1 4 plain22 p0 [] rfl (Or.inl rfl) rfl rfl
      (fun _ => ⟨_, rfl, rfl⟩) rfl (args_none rfl rfl rfl rfl)),
   answers ((h (bnd (.plane p0) [{}]) 1 (tsk 0) (.bind 2 4 img22) rfl rfl).1 2 4 img22 p0 _ rfl (Or.inr rfl) rfl rfl
      nofun rfl (reads_arg _ _ rfl rfl rfl (loc := 4) rfl)),
   ((h (bnd (.fresh 4 4 2 2) [{ st := .live }] (tsk 0) plain22) 1 (tsk 0) (.bind 3 4 plain22) rfl rfl).2.1 4 plain22 4 4 2 2 [] rfl rfl rfl rfl
      (args_none rfl rfl rfl rfl)).elim fun _ e => ⟨_, e.2⟩,
   answers ((h claimState 1 restoring (.bind 5 4 img22) rfl rfl).2.2.1 4 img22 p0 _ rfl rfl rfl rfl),
   answers ((h (bnd (.plane p0) [{}] (tsk 0) { plain22 with slots := 257 }) 1 (tsk 0) .refuse rfl rfl).2.2.2.1 rfl rfl ⟨rfl, rfl⟩),
   answers ((h (bnd (.plane p0) [{}] { tsk 0 with args := 0x40000000#64 }) 1 _ (.bind 2 4 img22) rfl rfl).2.2.2.2 2 4 img22 p0
      { port := 0, ty := .i32, offset := 4, bytes := 4 } [] 0x10 rfl (Or.inr rfl) rfl rfl nofun rfl rfl rfl ⟨rfl, rfl⟩ rfl rfl (by decide))⟩

theorem witness_victims (h : claimVictims) : ∃ pl, claimState.plane? p0 = some pl ∧ pl.handler = false :=
  (h claimState restoring img22 p0 (by decide) rfl).imp fun _ e => ⟨e.1, e.2.1⟩

/-! ## Translation -/

/-- An ICO of one load, with a parameter for each entry port of its block and the regions given. -/
def icoBlock (words : List Nat) : List Byte :=
  wordBytes 8 0x0001FFFC00000000 ++ wordBytes 8 (0xB730000000008100 + (words.length - 1) * 2 ^ 40) ++ words.flatMap (wordBytes 8)
def icoTable (handler : Byte) (regions : List (List Byte)) : List Byte :=
  wordBytes 2 1 ++ wordBytes 2 1 ++ wordBytes 4 0 ++ wordBytes 2 2 ++ wordBytes 2 0 ++ wordBytes 2 regions.length ++ List.replicate 18 0#8 ++
  (wordBytes 2 1 ++ wordBytes 2 1 ++ [handler] ++ List.replicate 11 0#8) ++ (wordBytes 2 1 ++ wordBytes 2 0 ++ wordBytes 4 0) ++
  [4#8, 0#8, 0#8, 0#8, 0#8, 0#8, 0#8, 0#8] ++ [4#8, 1#8, 0#8, 0#8, 4#8, 0#8, 0#8, 0#8] ++ regions.flatten
def icoHeader (table code : Nat) : List Byte :=
  wordBytes 4 0x4B534449 ++ wordBytes 2 1 ++ wordBytes 2 0 ++ wordBytes 4 (256 + table + code) ++ wordBytes 2 2 ++ wordBytes 2 0 ++
  wordBytes 8 (256 + table) ++ wordBytes 8 code ++ (wordBytes 4 1 ++ wordBytes 4 table ++ wordBytes 8 256) ++
  (wordBytes 4 2 ++ wordBytes 4 code ++ wordBytes 8 (256 + table)) ++ List.replicate 192 0#8
def icoParts (handler : Byte) (words : List Nat) (regions : List (List Byte)) : Parts :=
  [(0, icoHeader (72 + 16 * regions.length) (16 + 8 * words.length) ++ icoTable handler regions ++ icoBlock words)]

/-- The worked block of the chapter on code objects. -/
def axpyWords : List Nat := [0x9240202000000000, 0x9240302000000001, 0x4341203001008000, 0x9340000000000000]
def axpy (handler : Byte := 0#8) : Parts := icoParts handler axpyWords []
def axpyPlan : Plan :=
  { width := 2, height := 2, places := [.router 0 0 0, .router 0 0 1, .pe 0 0 0, .router 0 0 2], near := [0, 0, 0, 0], ports := [0, 0, 0, 0]
    routes := [{ node := 2, op := 0, out := some 0 }, { node := 2, op := 2, out := some 1 }, { node := 3, op := 0, path := [⟨0, 0, .element, 0⟩] }]
    attach := [{ node := 0 }, { node := 1 }, { node := 2 }, { node := 3 }] }

/-- Context 3 has bound from the ICO at 0x40, and device memory holds its block there. -/
def trnCtx (parts : Parts := axpy) : Ctx := { ctx3 with graphs := [{ ico := 0x40#64, digest := 0#384, parts }] }
def blockAt (addr : Nat) (words : List Nat) : Memory := { cells := (({} : Memory).write addr (icoBlock words)).cells ++ pageTables.cells }
def trn (c : Ctx := trnCtx) (tack : List (Nat × TackEntry) := []) (plan : Plan := { axpyPlan with pages := 3 }) : State :=
  { dsp { index := 1, plan } [(1, tsk 0)] c [] tack with dram := blockAt 392 axpyWords }
def want : Wanted := { ctx := 3, ico := 0x40#64, load := 0, colour := some 1, mask := 255 }
def axpyGraph (handler : Byte := 0#8) : IcoGraph := readGraph (axpy handler)
def okGraph (r : Except Stopped (IcoGraph × BitVec 384)) (g : IcoGraph) : Bool :=
  match r with | .ok x => decide (x = (g, 0#384)) | .error _ => false
theorem okGraph_eq {r g} (h : okGraph r g = true) : r = .ok (g, 0#384) := by
  cases r with
  | ok x => simpa [okGraph] using h
  | error _ => simp [okGraph] at h
def okSame (r : Except Stopped IcoGraph) (g : IcoGraph) : Bool := match r with | .ok x => decide (x = g) | .error _ => false
theorem okSame_eq {r g} (h : okSame r g = true) : r = .ok g := by
  cases r with
  | ok x => simpa [okSame] using h
  | error _ => simp [okSame] at h
set_option maxRecDepth 20000 in
theorem trn_graph : (trn).graphOf want = .ok (axpyGraph, 0#384) := okGraph_eq (by decide)

/-- The same ICO with a handler load that context 3's handler register names and an entry serves. -/
def handlerCtx : Ctx := { ctx3 with handler := 0x41#64, handlerEntry := none, graphs := [{ ico := 0x40#64, digest := 0#384, parts := axpy 1#8 }] }
def wantH : Wanted := { want with colour := none }
def served9 : State :=
  { trn handlerCtx [(6, { digest := 0#384, load := 0, mask := 255, gen := 0#32, image := img22, retiring := true }),
      (9, { digest := 0#384, load := 0, mask := 255, gen := 0#32, image := img22 })] with arg := { context := 3#10, third := 1 } }
set_option maxRecDepth 20000 in
theorem served_graph : served9.graphOf wantH = .ok (axpyGraph 1#8, 0#384) := okGraph_eq (by decide)

/-- A load of two regions of 2,880 memory tiles each, which no paddock holds. -/
def bigWords : List Nat := axpyWords ++ [0xC7C0000000000000, 0xC7C0000000000001]
def bigRegion (id : Nat) : List Byte := wordBytes 2 id ++ wordBytes 2 0 ++ wordBytes 2 2880 ++ wordBytes 2 0 ++ wordBytes 8 1
def big : Parts := icoParts 0#8 bigWords [bigRegion 0, bigRegion 1]
def bigGraph : IcoGraph := readGraph big
def bigState : State := { dsp { index := 1, plan := axpyPlan } [(1, tsk 0)] (trnCtx big) with dram := blockAt 424 bigWords }
set_option maxRecDepth 20000 in
theorem big_graph : bigState.graphOf want = .ok (bigGraph, 0#384) := okGraph_eq (by decide)

/-- Nothing maps the address 0x40000000: the header cannot be read; at 0x200 device memory holds no header. -/
def unread : State := dsp { index := 1 } [(1, { tsk 0 with ico := 0x40000000#64 })]
def nohead : State := dsp { index := 1 } [(1, { tsk 0 with ico := 0x200#64 })]
def okPiece (r : Except (Nat × Nat) (Nat × List Byte)) (p : Nat × List Byte) : Bool := match r with | .ok x => decide (x = p) | .error _ => false
theorem okPiece_eq {r p} (h : okPiece r p = true) : r = .ok p := by
  cases r with
  | ok x => simpa [okPiece] using h
  | error _ => simp [okPiece] at h
def zeros256 : Nat × List Byte := (0, List.replicate 256 0#8)
set_option maxRecDepth 20000 in
theorem nohead_piece : nohead.icoPiece 3 0x200#64 0 256 = .ok zeros256 := okPiece_eq (by decide)
set_option maxRecDepth 20000 in
theorem nohead_bad : firstBad (headerChecks [zeros256]) = some { reason := 0x01 } := by decide
def axpyCode (hd : Byte := 0#8) : LoadCode := ((axpyGraph hd).load 0 0).getD ⟨{ parts := [] }, 0, ⟨0, 0, false⟩, [], [], [], [], [], 0⟩
def bigCode : LoadCode := (bigGraph.load 0 0).getD (axpyCode)
set_option maxRecDepth 20000 in
theorem axpy_code : (axpyGraph).load 0 ((axpyGraph).declared &&& 255) = some (axpyCode) := by decide
set_option maxRecDepth 20000 in
theorem handler_code : (axpyGraph 1#8).load 0 ((axpyGraph 1#8).declared &&& 255) = some (axpyCode 1#8) := by decide
set_option maxRecDepth 20000 in
theorem big_code : bigGraph.load 0 (bigGraph.declared &&& 255) = some bigCode := by decide
set_option maxRecDepth 20000 in
theorem axpy_ok : (axpyCode).failure = none := by decide
set_option maxRecDepth 20000 in
theorem big_ok : bigCode.failure = none := by decide
set_option maxRecDepth 20000 in
theorem axpy_edges : (axpyCode).edgeFailure axpyPlan = none := by decide
set_option maxRecDepth 20000 in
theorem axpy_image : ((axpyCode).layout.image 255 Node.rank axpyPlan).admits (axpyCode).layout axpyPlan = true := by decide
set_option maxRecDepth 20000 in
theorem axpy_image3 : ((axpyCode).layout.image 255 Node.rank { axpyPlan with pages := 3 }).admits (axpyCode).layout { axpyPlan with pages := 3 } = true := by
  decide
/-- A plan that leaves the channels without circuits is not admitted, and one without memory tiles does not hold the other load. -/
def unrouted : Plan := { axpyPlan with routes := [] }
set_option maxRecDepth 20000 in
theorem unrouted_image : ((axpyCode).layout.image 255 Node.rank unrouted).admits (axpyCode).layout unrouted = false := by decide
set_option maxRecDepth 20000 in
theorem big_image : (bigCode.layout.image 255 Node.rank axpyPlan).admits bigCode.layout axpyPlan = false := by decide +kernel
set_option maxRecDepth 20000 in
theorem big_unfit : bigCode.layout.canFit 255 = false := by decide +kernel

/-! The plan of the first load is among the plans of it that the search looks at. -/

theorem mem_tuples {α : Type} {xs : List α} : ∀ {t : List α}, (∀ y ∈ t, y ∈ xs) → t ∈ tuples xs t.length
  | [], _ => List.mem_cons_self ..
  | y :: t, h => List.mem_flatMap.mpr ⟨t, mem_tuples fun z hz => h z (List.mem_cons_of_mem _ hz), List.mem_map.mpr ⟨y, h y (List.mem_cons_self ..), rfl⟩⟩
theorem mem_choices {α : Type} {x : α} {xs t : List α} {rest : List (List α)} (hx : x ∈ xs) (ht : t ∈ choices rest) : x :: t ∈ choices (xs :: rest) :=
  List.mem_flatMap.mpr ⟨t, ht, List.mem_map.mpr ⟨x, hx, rfl⟩⟩
theorem mem_allRoutes (w h : Nat) (r : Route)
    (hp : ∀ t ∈ r.path, t ∈ (tilesOf w h).flatMap fun t => [Port.north, .east, .south, .west, .element].flatMap fun p =>
      (List.range 16).map fun k => { x := t.1, y := t.2, port := p, k : Track })
    (hn : r.path.length ≤ ((tilesOf w h).flatMap fun t => [Port.north, .east, .south, .west, .element].flatMap fun p =>
      (List.range 16).map fun k => { x := t.1, y := t.2, port := p, k : Track }).length)
    (ho : r.out ∈ none :: (List.range 16).map some) : r ∈ allRoutes w h (r.node, r.op) :=
  List.mem_flatMap.mpr ⟨r.path.length, List.mem_range.mpr (Nat.lt_succ_of_le hn),
    List.mem_flatMap.mpr ⟨r.path, mem_tuples hp, List.mem_map.mpr ⟨r.out, ho, rfl⟩⟩⟩
set_option maxRecDepth 20000 in
theorem axpy_routes : axpyPlan.routes ∈ choices (((((axpyCode).layout.net 255).wires.filter fun w =>
    !onBus ((axpyCode).layout.net 255).nodes w).map fun w => routeKey ((axpyCode).layout.net 255).nodes.length w.dst).map (allRoutes 2 2)) := by
  rw [show (((axpyCode).layout.net 255).wires.filter fun w => !onBus ((axpyCode).layout.net 255).nodes w).map
    (fun w => routeKey ((axpyCode).layout.net 255).nodes.length w.dst) = [(2, 0), (2, 2), (3, 0)] by decide]
  exact mem_choices (mem_allRoutes 2 2 { node := 2, op := 0, out := some 0 } nofun (by decide) (by decide))
    (mem_choices (mem_allRoutes 2 2 { node := 2, op := 2, out := some 1 } nofun (by decide) (by decide))
      (mem_choices (mem_allRoutes 2 2 { node := 3, op := 0, path := [⟨0, 0, .element, 0⟩] } (by decide) (by decide) (by decide)) (List.mem_cons_self ..)))
set_option maxRecDepth 20000 in
theorem axpy_planned : axpyPlan ∈ (axpyCode).layout.plansIn 255 { width := 2, height := 2 } := by
  unfold Layout.plansIn
  dsimp only
  rw [show ((axpyCode).layout.net 255).nodes.length + ((axpyCode).layout.net 255).pes.length = 4 by decide,
    show (axpyCode).layout.c.g.factors.length = 0 by decide]
  refine List.mem_flatMap.mpr ⟨[], List.mem_cons_self .., ?_⟩
  simp only [show (axpyCode).layout.added ((axpyCode).layout.net 255).nodes [] = (0, 0) by decide]
  exact List.mem_flatMap.mpr ⟨[], List.mem_cons_self .., List.mem_flatMap.mpr ⟨_, mem_tuples (t := axpyPlan.places) (by decide),
    List.mem_flatMap.mpr ⟨_, mem_tuples (t := axpyPlan.near) (by decide), List.mem_flatMap.mpr ⟨_, mem_tuples (t := axpyPlan.ports) (by decide),
      List.mem_flatMap.mpr ⟨_, mem_tuples (t := [0, 0, 0, 0]) (by decide), List.mem_map.mpr ⟨_, axpy_routes, rfl⟩⟩⟩⟩⟩⟩
set_option maxRecDepth 20000 in
theorem axpy_counts : (axpyCode).layout.countsFit 255 = true := by decide
theorem axpy_fits : (axpyCode).layout.canFit 255 = true :=
  Bool.and_eq_true_iff.mpr ⟨axpy_counts, List.any_eq_true.mpr ⟨axpyPlan,
    List.mem_flatMap.mpr ⟨2, List.mem_range.mpr (by decide), List.mem_flatMap.mpr ⟨2, List.mem_range.mpr (by decide),
      List.mem_flatMap.mpr ⟨false, List.mem_cons_self .., List.mem_flatMap.mpr ⟨0, List.mem_range.mpr (by decide),
        List.mem_flatMap.mpr ⟨0, List.mem_range.mpr (by decide), List.mem_flatMap.mpr ⟨0, List.mem_range.mpr (by decide), by
          rw [if_pos (by decide)]; exact axpy_planned⟩⟩⟩⟩⟩⟩, axpy_image⟩⟩

set_option maxRecDepth 20000 in
theorem axpy_must : MustMake (trn) want (axpyGraph) 0#384 (axpyCode) :=
  ⟨trn_graph, axpy_code, rfl, rfl, nofun, ⟨[], rfl, rfl⟩, okSame_eq (by decide), axpy_ok⟩
set_option maxRecDepth 20000 in
theorem unrouted_must : MustMake (trn (plan := unrouted)) want (axpyGraph) 0#384 (axpyCode) :=
  ⟨okGraph_eq (by decide), axpy_code, rfl, rfl, nofun, ⟨[], rfl, rfl⟩, okSame_eq (by decide), axpy_ok⟩
set_option maxRecDepth 20000 in
theorem big_must : MustMake bigState want bigGraph 0#384 bigCode := ⟨big_graph, big_code, rfl, rfl, nofun, ⟨[], rfl, rfl⟩, okSame_eq (by decide), big_ok⟩

set_option maxRecDepth 20000 in
theorem witness_translates (h : translates) :
    (∃ t, exec .translateLoad unread = .next t) ∧ (∃ t, exec .translateLoad nohead = .next t) ∧ (∃ t, exec .translateLoad served9 = .next t) ∧
    (∃ t, exec .translateLoad (trn) = .next t) ∧ (∃ t, exec .translateLoad bigState = .next t) ∧ (∃ t, exec .translateLoad (trn (plan := unrouted)) = .next t) :=
  ⟨answers ((h unread { want with ico := 0x40000000#64 } (by decide) rfl).1 1 _ 0x10 rfl rfl rfl ⟨rfl, rfl⟩ rfl (by decide) rfl (by decide)),
   answers ((h nohead { want with ico := 0x200#64 } (by decide) rfl).2.1 1 _ _ _ rfl rfl rfl ⟨rfl, rfl⟩ rfl nohead_piece nohead_bad),
   answers ((h served9 wantH (by decide) rfl).2.2.1 (axpyGraph 1#8) 0#384 (axpyCode 1#8) 9 served_graph handler_code (by decide) (by decide)),
   ((h (trn) want (by decide) rfl).2.2.2.1 (axpyGraph) 0#384 (axpyCode) _ _ _ axpy_must rfl rfl axpy_image3 axpy_edges rfl (by decide)
      (by decide)).elim fun _ e => ⟨_, e.2⟩,
   answers (((h bigState want (by decide) rfl).2.2.2.2 bigGraph 0#384 bigCode _ 1 _ big_must rfl big_image rfl rfl rfl ⟨rfl, rfl⟩).1 big_unfit),
   answers (((h (trn (plan := unrouted)) want (by decide) rfl).2.2.2.2 (axpyGraph) 0#384 (axpyCode) _ 1 _ unrouted_must rfl unrouted_image rfl rfl rfl
      ⟨rfl, rfl⟩).2 axpy_fits)⟩

def fillingState : State := { dsp { index := 4, third := 2 } with tack := [(4, { ent with filling := true }), (5, { ent with filling := true })] }
theorem witness_fills (h : fillsEntry) : ∃ t, exec .translateLoad fillingState = .next t ∧ t.tack.map (fun x => x.2.filling) = [false, true] :=
  ⟨_, h fillingState rfl, rfl⟩
theorem witness_plans_stay (h : plansStay) : ((trn).keepPlan (keyOf (trn) want 0#384) axpyPlan).planFor (keyOf (trn) want 0#384) = axpyPlan :=
  (h (trn) (keyOf (trn) want 0#384) axpyPlan unrouted (trn).arg).1

/-! ## Configuration -/

def cfgPl (writes : Nat := 1) : Plane := { st := .config, ctx := 3, colour := 1, entry := some 4, writes, args := [(0, dat 7)] }
def cfgImg : Image := { img22 with nodes := [node (.add (ga)) onPe] }
def cfgState (ok : Bool) (writes : Nat := 1) (saves : List (Nat × Saved) := []) : State :=
  { dsp { plane := p0, verdict := ok } [(1, { tsk 0 .bound with plane := some p0 })] bound3 [(0, { pad22 [cfgPl writes] with x0 := 4, y0 := 6 })] [(4, ent cfgImg)] with saves }
theorem witness_configures (h : configures) :
    (∃ t, exec .configComplete (cfgState true) = .next t) ∧ (∃ t, exec .configComplete (cfgState false 2) = .next t) ∧
    (∃ t, exec .configComplete (cfgState false 3) = .next t) :=
  ⟨answers ((h (cfgState true) _ (cfgPl) 4 (ent cfgImg) rfl rfl rfl rfl rfl rfl).1 rfl rfl),
   answers ((h (cfgState false 2) _ (cfgPl 2) 4 (ent cfgImg) rfl rfl rfl rfl rfl rfl).2.1 rfl (by decide)),
   ((h (cfgState false 3) _ (cfgPl 3) 4 (ent cfgImg) rfl rfl rfl rfl rfl rfl).2.2 _ rfl (by decide) rfl rfl rfl ⟨rfl, rfl⟩).elim
      fun _ e => e.elim fun _ e => ⟨_, e.1⟩⟩

/-! ## The end of tasks and planes -/

def endPl (result : Option Token := some (dat 9)) : Plane := { st := .ending, ctx := 3, colour := 1, entry := some 4, flags := 3#5, result }
def dependant : Task := { tsk 0 .waiting with serial := 8, preds := [7], prio := 2 }
def endState (want : Bool) (result : Option Token := some (dat 9)) : State :=
  dsp { plane := p0 } [(1, { tsk 6 .bound with plane := some p0, wantRet := want, args := 0x80#64 }), (2, dependant)] bound3 [(0, pad22 [endPl result])]
theorem witness_planes_end (h : planesEnd) :
    (∃ t, exec .planeFree (endState false) = .next t) ∧ (∃ t, exec .planeFree (endState true none) = .next t) ∧ (∃ t, exec .planeFree (endState true) = .next t) :=
  ⟨(h (endState false) (endPl) _ rfl rfl rfl rfl rfl rfl rfl rfl rfl rfl rfl nofun nofun nofun rfl).imp fun _ e => e.1,
   (h (endState true none) (endPl none) _ rfl rfl rfl rfl rfl rfl rfl rfl rfl rfl rfl nofun nofun nofun rfl).imp fun _ e => e.1,
   (h (endState true) (endPl) _ rfl rfl rfl rfl rfl rfl rfl rfl rfl rfl rfl nofun nofun nofun rfl).imp fun _ e => e.1⟩
theorem witness_end_later (h : planesEndLater) :
    ∃ t, exec .planeFree (dsp { plane := p0 } [] bound3 [(0, pad22 [{ endPl with faults := [{ who := none, info := { cause := 0x40 }, version := 0, block := 0, slot := 0, time := 0#64, die := 0 }] }])]) = .next t :=
  answers (h _ _ rfl (Or.inr (Or.inl nofun)))

def goneState (st : PlaneState) (c : Ctx := bound3) : State :=
  dsp { plane := p0 } [(1, { tsk 6 .ending with abandoned := true }), (2, dependant)] c [(0, pad22 [{ endPl with st, abandon := true }])]
theorem witness_abandoned (h : abandonedEnd) :
    (∃ t, exec .abandonedPlaneFree (goneState .live) = .next t) ∧ (∃ t, exec .abandonedPlaneFree (goneState .frozen) = .next t) ∧
    (∃ t, exec .abandonedPlaneFree (goneState .saving { bound3 with state := 2 }) = .next t) :=
  ⟨answers ((h (goneState .live) _ rfl rfl).1 (Or.inl rfl)),
   ((h (goneState .frozen) _ rfl rfl).2 (Or.inr (Or.inl rfl)) rfl).imp fun _ e => e.1,
   ((h (goneState .saving { bound3 with state := 2 }) _ rfl rfl).2 (Or.inr (Or.inr (Or.inr rfl))) rfl).imp fun _ e => e.1⟩

def failedState (st : PlaneState) : State := dsp {} [] { bound3 with state := 2 } [(0, pad22 [{ endPl with st }])]
theorem witness_tears_down (h : tearsDown) :
    (∃ t, exec .contextTeardownDone (failedState .free) = .next t) ∧ (∃ t, exec .contextTeardownDone (failedState .ending) = .next t) :=
  ⟨answers ((h (failedState .free) 3 rfl rfl rfl).1 (by decide)),
   answers ((h (failedState .ending) 3 rfl rfl rfl).2 ⟨_, List.mem_cons_self .., rfl, by decide⟩)⟩

/-! ## Saves and restores -/

/-- One extent of 9 pages in the save area of context 3; the plane is claimed by task 9. -/
def saveCtx (used : Nat := 0) : Ctx := { bound3 with savearea := 0x0010000000030000#64, saveused := used }
def victimPl : Plane := { plane [node (.add (ga)) onPe] with ctx := 3, colour := 1, entry := some 4, claimed := some 9, kib := 2, flags := 1#5 }
def saveState (used : Nat := 0) (pl : Plane := victimPl) : State :=
  { dsp { plane := p0, index := 5 } [(1, { tsk 6 .bound with plane := some p0 })] (saveCtx used) [(0, pad22 [pl])] [(4, ent cfgImg)] with
    dram := { cells := pageTables.cells ++ [⟨0x30008, 9#8⟩] } }
theorem witness_saves_start (h : savesStart) :
    (∃ t, exec .saveStart (saveState 4) = .next t) ∧ (∃ t, exec .saveStart (saveState 5) = .next t) :=
  ⟨((h (saveState 4) _ victimPl 2 rfl rfl rfl rfl (by decide) (by decide)).1 (by decide)).imp fun _ e => e.1,
   ((h (saveState 5) _ victimPl 2 rfl rfl rfl rfl (by decide) (by decide)).2 (by decide)).imp fun _ e => e.1⟩
def savingPl : Plane := { victimPl with st := .saving, before := .live, pages := 3, stay := 2 }
theorem witness_saves_commit (h : savesCommit) : ∃ t, exec .saveCommit (saveState 3 savingPl) = .next t :=
  (h (saveState 3 savingPl) savingPl _ rfl rfl rfl (by decide)).imp fun _ e => e.1

def kept : Saved := { plane := { plane [node (.add (ga)) onPe [dat 1]] with ctx := 3, colour := 1, entry := some 4 }, pages := 3, pid := p0, kib := 0 }
theorem witness_restores (h : restores) : ∃ t, exec .configComplete (cfgState true 1 [(1, kept)]) = .next t :=
  (h (cfgState true 1 [(1, kept)]) _ (cfgPl) 4 (ent cfgImg) kept rfl rfl rfl rfl rfl rfl rfl (by decide) rfl rfl rfl (by decide) (by decide)).elim
    fun _ e => e.elim fun _ e => ⟨_, e.1⟩

/-! ## Frames, levels, urgency -/

def framed (w : Nat) (cycle : Nat) (held : List (Nat × Nat)) : State :=
  { dsp { index := 0 } [] bound3 [(0, { pad22 [{ st := .live, prio := 3 }, { st := .config }, { st := .frozen, handler := true }] with w, held })] with cycle }
theorem witness_frames_built (h : framesBuilt) :
    (∃ t, exec .frameBoundary (framed 2 256 [(0, 4)]) = .next t) ∧ (∃ t, exec .frameBoundary (framed 2 257 [(0, 4)]) = .next t) ∧
    (∃ t, exec .frameBoundary (framed 257 256 [(0, 4)]) = .next t) ∧ (∃ t, exec .frameBoundary (framed 2 256 [(0, 4), (2, 16)]) = .next t) :=
  ⟨((h (framed 2 256 [(0, 4)]) _ [(0, 4), (2, 16)] rfl rfl).1 (by decide) (by decide) (by decide) (by decide)).elim fun _ e => ⟨_, e.2⟩,
   answers ((h (framed 2 257 [(0, 4)]) _ [(0, 4), (2, 16)] rfl rfl).2 (Or.inr (Or.inl (by decide)))),
   answers ((h (framed 257 256 [(0, 4)]) _ [(0, 4), (2, 16)] rfl rfl).2 (Or.inl (by decide))),
   answers ((h (framed 2 256 [(0, 4), (2, 16)]) _ [(0, 4), (2, 16)] rfl rfl).2 (Or.inr (Or.inr rfl)))⟩

def hungry (waited : Nat) (w : Nat := 257) : State :=
  { dsp { plane := p0, index := 5, other := 2 } [] bound3 [(0, { pad22 [{ st := .live, prio := 3, level := 5, waited }] with w })] with
    tileGov := [(5, { streak := [0, 0, waited / 2048] })] }
theorem witness_waiting (h : waitingIsFelt) :
    (∃ t, exec .planeLevelAgeing (hungry 65536) = .next t) ∧ (∃ t, exec .planeLevelAgeing (hungry 65535) = .next t) ∧
    (∃ t, exec .peUrgent (hungry 65536) = .next t) ∧ (∃ t, exec .peUrgent (hungry 65535) = .next t) :=
  ⟨answers (((h (hungry 65536)).1 _ _ rfl rfl (by decide) rfl).1 (by decide)), answers (((h (hungry 65535)).1 _ _ rfl rfl (by decide) rfl).2 (by decide)),
   answers (((h (hungry 65536)).2 _ 32 rfl rfl).1 (by decide) nofun), answers (((h (hungry 65535)).2 _ 31 rfl rfl).2 (by decide))⟩

end Sys2Proof.Tests
end

