-- ==== Sys2Proof/Tests/Elements.lean ====
section
/-! SUPPORT. Every premise of the statements on element-wise instructions is met: each theorem applies a statement to a
concrete state and proves its premises there. -/

namespace Sys2Proof.Tests

open Sys2Proof.Machine Sys2Proof.Claims

/-- A legal type for an operation of a table: f64 lanes are left to one type per table. -/
def tyOf (i : Instr) : GArgs :=
  match i with
  | .pack _ | .unpk _ => ga .i64
  | .abs _ | .neg _ | .sar _ | .sxt _ => ga .i32
  | .consth _ => ga .n32
  | .fadd _ | .fsub _ | .fmul _ | .fma _ | .fms _ | .fnma _ | .fmin _ | .fmax _ | .fminm _ | .fmaxm _ | .fabs _ | .fneg _
  | .fcpys _ | .fcmp _ | .fclass _ | .frnd _ | .fscale _ | .fmin1 _ | .rcp _ | .rsq _ | .sqrt _ | .fdiv _ | .exp2 _ | .log2 _
  | .sinpi _ | .cospi _ | .tanh _ | .sigm _ => ga .f32
  | _ => ga .n32

def gOf (c : ElementOp) : GArgs := tyOf (c.make (ga))

/-- A node of the operation with one token on each operand. -/
def opNode (c : ElementOp) (t : Token) : Node := node (c.make (gOf c)) onPe [t] [t] [t] [t]

/-- The turn of a table's operations with a token on each operand. -/
def turns (cs : List ElementOp) (t : Token) (e : BitVec 8) : Bool :=
  cs.all fun c =>
    let s := one (opNode c t) e
    (grantCycle s p0).1 && (admitPe (grantCycle s p0).2 p0 onPe (cost (c.make (gOf c)))).1 && (plane [opNode c t]).mayFire 0 (opNode c t)

theorem turns_mem {cs : List ElementOp} {t : Token} {e : BitVec 8} (h : turns cs t e = true) {c : ElementOp} (hc : c ∈ cs) :
    NodeTurn (one (opNode c t) e) p0 0 (plane [opNode c t]) (opNode c t) (cost (c.make (gOf c))) := by
  simp only [turns, List.all_eq_true, Bool.and_eq_true] at h
  obtain ⟨⟨h1, h2⟩, h3⟩ := h c hc
  exact turn_one h1 h2 h3

theorem test_turns : turns plainOps (dat 5) 0#8 = true := by decide
theorem test_turns_markers : turns plainOps mk3 0#8 = true := by decide
theorem test_turns_poison : turns plainOps bad 0#8 = true := by decide

theorem reads_of (c : ElementOp) (t : W64) (hi : (gOf c).imm = false) : c.reads (opNode c (.data t)) (gOf c) fun _ => t := by
  refine ⟨fun o _ => by cases o <;> rfl, fun _ h => ?_⟩
  rw [hi] at h
  cases h

theorem tyOf_imm (i : Instr) : (tyOf i).imm = false := by
  cases i <;> rfl

theorem flagFault_off (f : FpFlags) (e : BitVec 8) : flagFault f ((0#8 : BitVec 8).getLsbD 4) e = none := by
  simp [flagFault]

/-- Every operation has a value on data where its context enables no trap. -/
theorem witness_fires (h : elementTables ElementOp.firesOnData) :
    ∀ c ∈ plainOps, ∃ t, exec (c.make (gOf c)) (one (opNode c (dat 5))) = .next t := by
  intro c hc
  have hf : c.fault (nodeView (one (opNode c (dat 5))) (plane [opNode c (dat 5)]) 0 (opNode c (dat 5)) (gOf c)) (fun _ => 5#64) = none := by
    revert c
    decide
  exact answers (h.1 c hc (gOf c) _ p0 0 _ _ (fun _ => 5#64) (turns_mem test_turns hc) (reads_of c 5#64 (tyOf_imm _)) hf
    (flagFault_off _ _) rfl)

/-- A floating-point operation, special function, lane operation or conversion completes whatever its data. -/
theorem witness_completes (h : ∀ c ∈ floatOps ++ specialOps ++ laneOps, ∀ g, c.completes g) :
    ∀ c ∈ floatOps ++ specialOps ++ laneOps, ∃ t, exec (c.make (gOf c)) (one (opNode c (dat 5))) = .next t := fun c hc =>
  answers (h c hc (gOf c) _ p0 0 _ _ (fun _ => 5#64)
    (turns_mem test_turns (by simp only [plainOps, List.mem_append] at hc ⊢; rcases hc with (h | h) | h <;> simp [h])) (reads_of c 5#64 (tyOf_imm _))
    (Or.inr (by change (0#8 : BitVec 8) &&& 31#8 = 0#8; decide)) rfl)

theorem witness_markers (h : elementTables ElementOp.joinsMarkers) :
    ∀ c ∈ plainOps, ∃ t, exec (c.make (gOf c)) (one (opNode c mk3)) = .next t := by
  intro c hc
  have hj : joinMarkers (List.replicate (c.takes (gOf c)).length mk3) = some mk3 ∧
      (List.replicate (c.takes (gOf c)).length mk3).all Token.isMarker = true := by
    revert c
    decide
  have hq : (c.takes (gOf c)).map (fun o => ((opNode c mk3).queue o).head) =
      (List.replicate (c.takes (gOf c)).length mk3).map some := by
    simp only [List.map_replicate]
    refine List.eq_replicate_iff.2 ⟨by simp, fun b hb => ?_⟩
    obtain ⟨o, -, rfl⟩ := List.mem_map.1 hb
    cases o <;> rfl
  exact answers ((h.1 c hc (gOf c) _ p0 0 _ _ _ (turns_mem test_turns_markers hc) hq).1 mk3 hj.2 hj.1 rfl)

theorem witness_poison (h : elementTables ElementOp.passesPoison) :
    ∀ c ∈ plainOps, ∃ t, exec (c.make (gOf c)) (one (opNode c bad)) = .next t := by
  intro c hc
  have hj : (List.replicate (c.takes (gOf c)).length bad).find? Token.isPoison = some bad ∧
      (List.replicate (c.takes (gOf c)).length bad).any Token.isMarker = false := by
    revert c
    decide
  have hq : (c.takes (gOf c)).map (fun o => ((opNode c bad).queue o).head) =
      (List.replicate (c.takes (gOf c)).length bad).map some := by
    simp only [List.map_replicate]
    refine List.eq_replicate_iff.2 ⟨by simp, fun b hb => ?_⟩
    obtain ⟨o, -, rfl⟩ := List.mem_map.1 hb
    cases o <;> rfl
  have ht : (nodeView (one (opNode c bad)) (plane [opNode c bad]) 0 (opNode c bad) (gOf c)).trapen.getLsbD 7 = false := by
    clear hj hq
    revert c
    decide
  exact answers ((h.1 c hc (gOf c) _ p0 0 _ _ _ bad (turns_mem test_turns_poison hc) hq hj.2 hj.1).2 ht rfl)

/-! One firing for each of the other clauses: a fault of the operation, a flag that traps, markers out of step, poison that
traps, and a conversion. -/

def divN : Node := node (.div (ga .i32)) onPe [dat 5] [dat 0] (fed := 3#4)
def faddN : Node := { node (.fadd (ga .f32)) onPe [dat 0x7F800000] [dat 0xFF800000] (fed := 3#4) with info := { policy := 0x10#8 } }
def addN (a b : Token) : Node := node (.add (ga .i32)) onPe [a] [b] (fed := 3#4)
def cvtG : GArgs := ga .i32 (fmt := 4#26)
def cvtN : Node := node (.cvt cvtG) onPe [dat 0x40200000] (fed := 1#4)

def ab (x y : W64) : Operand → W64 := fun o => if o = .a then x else y

theorem witness_fault (h : elementTables ElementOp.faultsOnData) :
    (∃ t, exec (.div (ga .i32)) (one divN 0x40#8) = .next t) ∧ (∃ t, exec (.fadd (ga .f32)) (one faddN 0x1F#8) = .next t) :=
  ⟨answers (h.1 { make := .div, ops := [.a, .b], immB := true, value := int2 fun a b => if b = 0 then -1 else Int.tdiv a b, fault := divFault }
      (by simp [plainOps, integerOps]) (ga .i32) _ p0 0 (plane [divN]) divN (ab 5#64 0#64) 0x28 (turn_one rfl rfl rfl)
      ⟨by decide, by decide⟩ (Or.inl rfl)),
   answers (h.1 { make := .fadd, ops := [.a, .b], immB := true, value := flt2 fpAdd } (by simp [plainOps, floatOps]) (ga .f32) _ p0 0
      (plane [faddN]) faddN (ab 0x7F800000#64 0xFF800000#64) 0x20 (turn_one rfl rfl rfl) ⟨by decide, by decide⟩
      (Or.inr ⟨rfl, by decide⟩))⟩

def addOp : ElementOp := { make := .add, ops := [.a, .b], immB := true, value := int2 (· + ·) }
theorem addOp_mem : addOp ∈ plainOps := by simp [plainOps, integerOps, addOp]

/-- A marker beside data, and markers of two rounds. -/
theorem witness_clash (h : elementTables ElementOp.joinsMarkers) :
    (∃ t, exec (.add (ga)) (one (addN mk3 (dat 1))) = .next t) ∧
    (∃ t, exec (.add (ga)) (one (addN (mk5 1#8) (mk5 2#8))) = .next t) :=
  ⟨answers ((h.1 addOp addOp_mem (ga) _ p0 0 (plane [addN mk3 (dat 1)]) _ [mk3, dat 1] (turn_one rfl rfl rfl) rfl).2 rfl (Or.inl rfl)),
   answers ((h.1 addOp addOp_mem (ga) _ p0 0 (plane [addN (mk5 1#8) (mk5 2#8)]) _ [mk5 1#8, mk5 2#8] (turn_one rfl rfl rfl) rfl).2 rfl
     (Or.inr rfl))⟩

/-- Poison whose trap is enabled. -/
theorem witness_poison_trap (h : elementTables ElementOp.passesPoison) : ∃ t, exec (.add (ga)) (one (addN (dat 1) bad) 0x80#8) = .next t :=
  answers ((h.1 addOp addOp_mem (ga) _ p0 0 (plane [addN (dat 1) bad]) _ [dat 1, bad] bad (turn_one rfl rfl rfl) rfl rfl rfl).1 rfl)

/-- CVT from f32 to i32. -/
theorem witness_convert (h : elementTables ElementOp.firesOnData) : ∃ t, exec (.cvt cvtG) (one cvtN) = .next t :=
  answers (h.2 .f32 .i32 cvtG rfl rfl rfl _ p0 0 (plane [cvtN]) cvtN (fun _ => 0x40200000#64) (turn_one rfl rfl rfl) ⟨by decide, by decide⟩
    rfl (flagFault_off _ _) rfl)

theorem witness_convert_completes (h : ∀ (src dst : Ty) (g : GArgs), g.cvtSrc = some src → g.ty = dst → (cvtRule src dst).isSome = true →
    (cvtOp src dst).completes g) : ∃ t, exec (.cvt cvtG) (one cvtN) = .next t :=
  answers (h .f32 .i32 cvtG rfl rfl rfl _ p0 0 (plane [cvtN]) cvtN (fun _ => 0x40200000#64) (turn_one rfl rfl rfl) ⟨by decide, by decide⟩
    (Or.inr rfl) rfl)

end Sys2Proof.Tests
end

