-- ==== Sys2Proof/Tests/Homes.lean ====
section
/-! SUPPORT. Every clause of the statements on completion, on accesses at their homes and on replies is met: each line
applies a statement to a small state and proves its premises there. -/

namespace Sys2Proof.Tests

open Sys2Proof.Machine Sys2Proof.Claims

/-! ## Memory -/

theorem witness_memory_writes (h : memoryWrites) :
    (({} : Memory).write 5 [1#8, 2#8]).byte 6 = 2#8 ∧ (2 ∈ (({} : Memory).writePoison 9 1).marks ↔ 2 ∈ ({} : Memory).marks ∨ (1 ≠ 0 ∧ meets 2 9 1)) ∧
    (1 ∈ (({ marks := [1] } : Memory).write 4 [1#8, 2#8, 3#8]).marks ↔ 1 ∈ [1] ∧ ¬ ([1#8, 2#8, 3#8] ≠ [] ∧ inside 1 4 3)) :=
  ⟨(h {} 5 [1#8, 2#8] 0).1 (by decide) 6, (h {} 9 [] 1).2.2.2 2, (h { marks := [1] } 4 [1#8, 2#8, 3#8] 0).2.1 1⟩

theorem witness_memory_reads (h : memoryReads) :
    readsAs {} 5 2 .i32 (loadToken .i32 2 (({} : Memory).readWord 5 2)) ∧
    readsAs { marks := [1] } 4 8 .i64 (loadToken .i64 8 (({ marks := [1] } : Memory).readWord 4 8)) :=
  ⟨h {} 5 2 .i32 (Or.inr (Or.inl rfl)) (by decide), h { marks := [1] } 4 8 .i64 (Or.inr (Or.inr (Or.inr rfl))) (by decide)⟩

/-! ## Homes -/

/-- Request 5 of node 0, at the present moment. -/
def rq (acc : Access) (space : Nat := 2) (loc : Nat := 16) : Request :=
  { id := 5, who := .node 0, acc, space, addr := BitVec.ofNat 64 loc, loc, size := 4, issued := 90 }
def ldN : Node := node (.ld (ga .i32 0#3 false 2#2 (waveFmt 2))) onMemory [] [] [] []
def homePlane (rs : List Request) (full : List Nat := []) (fifos : Map (List Token) := []) : Plane :=
  { plane [ldN] with tiles := tiles3, reqs := rs, full, fifos }
def homeState (pl : Plane) (x : Stimulus := {}) (link : Option HostLink := none) : State :=
  { fabric pl 0#8 .event with arg := { x with plane := p0, index := 5 }, link }
def ldA : Access := .load .i32 4 false
def stA (v : Option W64) : Access := .store 4 v true

/-- The value read from memory m, as the statement on reads gives it. -/
theorem reads_word (h : memoryReads) (m : Memory) (x : Nat) : readsAs m x 4 .i32 (loadToken .i32 4 (m.readWord x 4)) :=
  h m x 4 .i32 (Or.inr (Or.inr (Or.inl rfl))) (by decide)

theorem witness_home_external (h : homeExternal) (hr : memoryReads) :
    (∃ t, exec .homePerform (homeState (homePlane [rq ldA 1])) = .next t) ∧
    (∃ t, exec .homePerform (homeState (homePlane [rq ldA 3])) = .next t) ∧
    (∃ t, exec .homePerform (homeState (homePlane [rq (stA (some 5#64))])) = .next t) ∧
    (∃ t, exec .homePerform (homeState (homePlane [rq (stA none)])) = .next t) ∧
    (∃ t, exec .homePerform (homeState (homePlane [rq (.atomic .cas .i32 0#64 (some 9#64) true)])) = .next t) ∧
    (∃ t, exec .homePerform (homeState (homePlane [rq (.atomic .incb .i32 0#64 (some 9#64) false)])) = .next t) ∧
    (∃ t, exec .homePerform (homeState (homePlane [rq (.atomic .add .i32 0#64 none true)])) = .next t) ∧
    (∃ t, exec .homePerform (homeState (homePlane [rq (.atomic .rd .i32 0#64 none true)])) = .next t) ∧
    (∃ t, exec .homePerform { homeState (homePlane [rq (.atomic .xchg .i32 0#64 (some 9#64) true)]) with dram := { marks := [4] } } = .next t) :=
  have go (pl : Plane) (r : Request) {z : State} (h1 : HomeTurn (homeState pl) pl r z) (h2 : r.space = 2 ∨ r.space = 3) {m out flags}
      (ha : AtMemory (pl.policyOf r.who) (homeState pl).dram r.loc r.acc m out flags) := (h (homeState pl) pl r z m out flags h1).2 h2 ha
  ⟨answers ((h (homeState (homePlane [rq ldA 1])) _ _ _ _ _ _ ⟨by decide, rfl, rfl, ⟨rfl, rfl, rfl⟩, nofun, by decide, by decide, rfl, rfl⟩).1 rfl
      (.load (reads_word hr _ _))),
   answers (go (homePlane [rq ldA 3]) _ ⟨by decide, rfl, rfl, ⟨rfl, rfl, rfl⟩, nofun, by decide, by decide, rfl, rfl⟩ (Or.inr rfl)
      (.load (reads_word hr _ _))),
   answers (go (homePlane [rq (stA (some 5#64))]) _ ⟨by decide, rfl, rfl, ⟨rfl, rfl, rfl⟩, nofun, by decide, by decide, rfl, rfl⟩ (Or.inl rfl) .store),
   answers (go (homePlane [rq (stA none)]) _ ⟨by decide, rfl, rfl, ⟨rfl, rfl, rfl⟩, nofun, by decide, by decide, rfl, rfl⟩ (Or.inl rfl) .storePoison),
   answers (go (homePlane [rq (.atomic .cas .i32 0#64 (some 9#64) true)]) _ ⟨by decide, rfl, rfl, ⟨rfl, rfl, rfl⟩, nofun, by decide, by decide, rfl, rfl⟩
      (Or.inl rfl) (.atomic (old := 0#64) (by decide) (reads_word hr {} 16))),
   answers (go (homePlane [rq (.atomic .incb .i32 0#64 (some 9#64) false)]) _ ⟨by decide, rfl, rfl, ⟨rfl, rfl, rfl⟩, nofun, by decide, by decide, rfl, rfl⟩
      (Or.inl rfl) (.atomic (old := 0#64) (by decide) (reads_word hr {} 16))),
   answers (go (homePlane [rq (.atomic .add .i32 0#64 none true)]) _ ⟨by decide, rfl, rfl, ⟨rfl, rfl, rfl⟩, nofun, by decide, by decide, rfl, rfl⟩
      (Or.inl rfl) (.atomicDead (old := 0#64) (by decide) (reads_word hr {} 16))),
   answers (go (homePlane [rq (.atomic .rd .i32 0#64 none true)]) _ ⟨by decide, rfl, rfl, ⟨rfl, rfl, rfl⟩, nofun, by decide, by decide, rfl, rfl⟩
      (Or.inl rfl) (.read (reads_word hr _ _))),
   answers ((h { homeState (homePlane [rq (.atomic .xchg .i32 0#64 (some 9#64) true)]) with dram := { marks := [4] } } _ _ _ _ _ _
      ⟨by decide, rfl, rfl, ⟨rfl, rfl, rfl⟩, nofun, by decide, by decide, rfl, rfl⟩).2 (Or.inl rfl)
      (.atomicPoison (q := 0x31#8) (by decide) (reads_word hr { marks := [4] } 16)))⟩

/-! ## Memory tiles -/

def bigFifo : List TileAlloc := [{ region := 0, mode := 0, bytes := 4096 }, { region := 1, mode := 1, bytes := 1024, ty := .i32 }]
abbrev tileTurn (pl : Plane) (r : Request) : Prop := HomeTurn (homeState pl) pl r (homeState pl)
def parkedQ (acc : Access) (loc : Nat := 16) : Request := { rq acc 0 loc with id := 6, parked := some 1 }

theorem witness_home_tile (h : homeTile) (hr : memoryReads) :
    (∃ t, exec .homePerform (homeState (homePlane [rq ldA 0])) = .next t) ∧
    (∃ t, exec .homePerform (homeState (homePlane [rq (.ldfe .i32 4 true) 0] [1])) = .next t) ∧
    (∃ t, exec .homePerform (homeState (homePlane [rq (.stfe 4 (some 7#64) false) 0])) = .next t) ∧
    (∃ t, exec .homePerform (homeState (homePlane [rq (.stfe 4 none true) 0] [1])) = .next t) ∧
    (∃ t, exec .homePerform (homeState (homePlane [rq .feclr 0] [1])) = .next t) ∧
    (∃ t, exec .homePerform (homeState (homePlane [rq .feset 0])) = .next t) ∧
    (∃ t, exec .homePerform (homeState (homePlane [rq .fetest 0] [1])) = .next t) ∧
    (∃ t, exec .homePerform (homeState (homePlane [rq .fetest 0] [2])) = .next t) ∧
    (∃ t, exec .homePerform (homeState { homePlane [rq (.push (dat 1)) 0 (2 ^ 18)] with tiles := bigFifo }) = .next t) ∧
    (∃ t, exec .homePerform (homeState (homePlane [rq .pop 0 (2 ^ 18)] [] [(2 ^ 18, [dat 1, mk3])])) = .next t) ∧
    (∃ t, exec .homePerform (homeState (homePlane [rq (.ldfe .i32 4 true) 0])) = .next t) ∧
    (∃ t, exec .homePerform (homeState (homePlane [rq (.stfe 4 none false) 0] [1])) = .next t) ∧
    (∃ t, exec .homePerform (homeState (homePlane [rq (.push (dat 1)) 0 (2 ^ 18)])) = .next t) ∧
    (∃ t, exec .homePerform (homeState (homePlane (rq .pop 0 (2 ^ 18) :: (List.range 16).map fun i =>
      { parkedQ .pop (2 ^ 18 + 16) with id := 10 + i }))) = .next t) :=
  have go (pl : Plane) (r : Request) (h1 : tileTurn pl r) (h2 : r.space = 0) {m full fifos out flags}
      (ha : AtTile pl (pl.policyOf r.who) r.loc r.acc m full fifos out flags)
      (hn : (full = pl.full ∧ fifos = pl.fifos) ∨ pl.reqs.all (·.parked.isNone) = true) := (h (homeState pl) pl r (homeState pl) h1 h2).1 m full fifos
        out flags ha (hn.imp id fun hp x _ => by
          simp only [List.all_eq_true] at hp
          refine List.filter_eq_nil_iff.2 fun q hq hc => ?_
          have := hp q hq
          simp_all)
  ⟨answers (go (homePlane [rq ldA 0]) _ ⟨by decide, rfl, rfl, ⟨rfl, rfl, rfl⟩, nofun, by decide, by decide, rfl, rfl⟩ rfl
      (.plain (.load (reads_word hr _ _))) (Or.inl ⟨rfl, rfl⟩)),
   answers (go (homePlane [rq (.ldfe .i32 4 true) 0] [1]) _ ⟨by decide, rfl, rfl, ⟨rfl, rfl, rfl⟩, nofun, by decide, by decide, rfl, rfl⟩ rfl
      (.ldfe (by unfold fullAt; decide) (reads_word hr _ _)) (Or.inr rfl)),
   answers (go (homePlane [rq (.stfe 4 (some 7#64) false) 0]) _ ⟨by decide, rfl, rfl, ⟨rfl, rfl, rfl⟩, nofun, by decide, by decide, rfl, rfl⟩ rfl
      (.stfe (Or.inr (by unfold fullAt; decide))) (Or.inr rfl)),
   answers (go (homePlane [rq (.stfe 4 none true) 0] [1]) _ ⟨by decide, rfl, rfl, ⟨rfl, rfl, rfl⟩, nofun, by decide, by decide, rfl, rfl⟩ rfl
      (.stfePoison (Or.inl rfl)) (Or.inr rfl)),
   answers (go (homePlane [rq .feclr 0] [1]) _ ⟨by decide, rfl, rfl, ⟨rfl, rfl, rfl⟩, nofun, by decide, by decide, rfl, rfl⟩ rfl
      .feclr (Or.inr rfl)),
   answers (go (homePlane [rq .feset 0]) _ ⟨by decide, rfl, rfl, ⟨rfl, rfl, rfl⟩, nofun, by decide, by decide, rfl, rfl⟩ rfl
      .feset (Or.inr rfl)),
   answers (go (homePlane [rq .fetest 0] [1]) _ ⟨by decide, rfl, rfl, ⟨rfl, rfl, rfl⟩, nofun, by decide, by decide, rfl, rfl⟩ rfl
      (.fetest (Or.inl ⟨by unfold fullAt; decide, rfl⟩)) (Or.inr rfl)),
   answers (go (homePlane [rq .fetest 0] [2]) _ ⟨by decide, rfl, rfl, ⟨rfl, rfl, rfl⟩, nofun, by decide, by decide, rfl, rfl⟩ rfl
      (.fetest (Or.inr ⟨by unfold fullAt; decide, rfl⟩)) (Or.inr rfl)),
   answers (go { homePlane [rq (.push (dat 1)) 0 (2 ^ 18)] with tiles := bigFifo } (rq (.push (dat 1)) 0 (2 ^ 18))
      ⟨by decide, rfl, rfl, ⟨rfl, rfl, rfl⟩, nofun, by decide, by decide, rfl, rfl⟩ rfl (.push (by decide)) (Or.inr rfl)),
   answers (go (homePlane [rq .pop 0 (2 ^ 18)] [] [(2 ^ 18, [dat 1, mk3])]) _ ⟨by decide, rfl, rfl, ⟨rfl, rfl, rfl⟩, nofun, by decide, by decide, rfl, rfl⟩
      rfl (.pop rfl) (Or.inr rfl)),
   answers ((h (homeState (homePlane [rq (.ldfe .i32 4 true) 0])) _ _ _ ⟨by decide, rfl, rfl, ⟨rfl, rfl, rfl⟩, nofun, by decide, by decide, rfl, rfl⟩
      rfl).2.1 (.ldfe (by unfold fullAt; decide)) (by decide)),
   answers ((h (homeState (homePlane [rq (.stfe 4 none false) 0] [1])) _ _ _ ⟨by decide, rfl, rfl, ⟨rfl, rfl, rfl⟩, nofun, by decide, by decide, rfl, rfl⟩
      rfl).2.1 (.stfe (by unfold fullAt; decide)) (by decide)),
   answers ((h (homeState (homePlane [rq (.push (dat 1)) 0 (2 ^ 18)])) _ _ _ ⟨by decide, rfl, rfl, ⟨rfl, rfl, rfl⟩, nofun, by decide, by decide, rfl, rfl⟩
      rfl).2.1 (.push (by decide)) (by decide)),
   answers ((h (homeState (homePlane (rq .pop 0 (2 ^ 18) :: (List.range 16).map fun i => { parkedQ .pop (2 ^ 18 + 16) with id := 10 + i }))) _ _ _
      ⟨by decide, rfl, rfl, ⟨rfl, rfl, rfl⟩, nofun, by decide, by decide, rfl, rfl⟩ rfl).2.2 (.pop rfl) (by decide))⟩

theorem witness_wakes (h : wakesParked) (hr : memoryReads) :
    ∃ t, exec .homePerform (homeState (homePlane [rq (.stfe 4 (some 7#64) false) 0, parkedQ (.ldfe .i32 4 true)])) = .next t :=
  answers (h (homeState (homePlane [rq (.stfe 4 (some 7#64) false) 0, parkedQ (.ldfe .i32 4 true)])) _ _ (parkedQ (.ldfe .i32 4 true)) _ _ _ _ _ _ _ _ _ _ _
    ⟨by decide, rfl, rfl, ⟨rfl, rfl, rfl⟩, nofun, by decide, by decide, rfl, rfl⟩ rfl rfl (by decide)
    (fun x hx => by
      have h1 : 16 ≤ x := hx.1
      have h2 : x < 16 + 4 := hx.2
      show x / 16 = 1
      omega) (by decide) rfl rfl
    (.stfe (Or.inr (by unfold fullAt; decide))) (Or.inl (by decide)) (.ldfe (by unfold fullAt; decide) (reads_word hr _ _)))

/-! ## Host memory -/

def cxl : HostLink := { pcie := 6, lanes := 16, cxl := true }
def hostHolds : Memory := ({} : Memory).put 16 [9#8]
def hostState (r : Request) (link : Option HostLink) (cs : List HostCopy := []) : State :=
  { homeState (homePlane [r]) {} link with host := hostHolds, copies := cs }
def oldCopy (md : Nat := 0) (since : Option Nat := none) : HostCopy := { md, line := 0, bytes := List.replicate 128 3#8, since }
def ldHost (acq : Bool := false) : Request := rq (.load .i32 4 acq) 4
theorem host_turn (r : Request) (link : Option HostLink) (cs : List HostCopy) (h1 : (homePlane [r]).reqs.find? (fun r => r.id = 5) = some r)
    (h2 : r.done = false ∧ r.timed = false ∧ r.parked = none) (h3 : ∀ k, r.acc ≠ .child k) (h4 : r.space ≠ 5)
    (h5 : (homePlane [r]).mustWait 100 r = false) (h6 : (hostState r link cs).takeSlot p0 r = some (hostState r link cs)) :
    HomeTurn (hostState r link cs) (homePlane [r]) r (hostState r link cs) := ⟨show (0 : Nat) ≠ 1 by decide, rfl, h1, h2, h3, h4, nofun, h5, h6⟩

/-- Host memory of which no word is poisoned data. -/
theorem host_reads (hr : memoryReads) : hostReads hostHolds 16 4 .i32 (loadToken .i32 4 (hostHolds.readWord 16 4)) :=
  Or.inr ⟨fun ⟨_, hw, _⟩ => (List.not_mem_nil (a := _) hw), reads_word hr hostHolds 16⟩

theorem witness_home_host (h : homeHost) (hr : memoryReads) :
    (∃ t, exec .homePerform (hostState (ldHost) (some cxl) [oldCopy 0 (some 90)]) = .next t) ∧
    (∃ t, exec .homePerform (hostState (ldHost) (some cxl) [oldCopy 1]) = .next t) ∧
    (∃ t, exec .homePerform (hostState (ldHost) none) = .next t) ∧
    (∃ t, exec .homePerform (hostState (ldHost true) (some cxl) [oldCopy]) = .next t) ∧
    (∃ t, exec .homePerform (hostState (rq (.store 4 (some 5#64) true) 4) (some cxl) [oldCopy, oldCopy 1, oldCopy 2 (some 90)]) = .next t) :=
  ⟨answers ((h _ _ _ _ (host_turn (ldHost) (some cxl) [oldCopy 0 (some 90)] rfl ⟨rfl, rfl, rfl⟩ nofun (by decide) rfl rfl) rfl).1 .i32 4
      (oldCopy 0 (some 90)) _ rfl rfl (reads_word hr _ _)),
   answers ((h _ _ _ _ (host_turn (ldHost) (some cxl) [oldCopy 1] rfl ⟨rfl, rfl, rfl⟩ nofun (by decide) rfl rfl) rfl).2.1 .i32 4
      _ rfl (fun _ hc => by cases hc) ⟨rfl, cxl, rfl, rfl⟩ (host_reads hr)),
   answers ((h _ _ _ _ (host_turn (ldHost) none [] rfl ⟨rfl, rfl, rfl⟩ nofun (by decide) rfl rfl) rfl).2.2.1 .i32 4
      _ rfl (fun _ hc => by cases hc) (by rintro ⟨_, _, hl, _⟩; cases hl) (host_reads hr)),
   answers ((h _ _ _ _ (host_turn (ldHost true) (some cxl) [oldCopy] rfl ⟨rfl, rfl, rfl⟩ nofun (by decide) rfl rfl) rfl).2.2.2.1 .i32 4
      _ rfl (host_reads hr)),
   ((h _ _ _ _ (host_turn (rq (.store 4 (some 5#64) true) 4) (some cxl) [oldCopy, oldCopy 1, oldCopy 2 (some 90)] rfl ⟨rfl, rfl, rfl⟩ nofun (by decide)
      rfl rfl) rfl).2.2.2.2 4 5#64 true rfl).elim fun _ e => ⟨_, e.1⟩⟩

/-! ## Waits, servers, bins -/

def earlier : Request := { rq ldA 0 with id := 4 }
/-- An add of round 2 of a rounded region, none of whose rounds is closed. -/
def early : Request := { rq (.atomic .add .i32 0#64 (some 1#64) false) 0 with round := 2 }
def fullSlots : State := { homeState (homePlane [rq ldA 2]) with slotsHbm := [40960] }
theorem witness_home_waits (h : homeWaits) :
    (∃ t, exec .homePerform (homeState (homePlane [earlier, rq ldA 0])) = .next t) ∧
    (∃ t, exec .homePerform (homeState (homePlane [early])) = .next t) ∧ (∃ t, exec .homePerform fullSlots = .next t) :=
  ⟨answers ((h (homeState (homePlane [earlier, rq ldA 0])) _ _ (by decide) rfl rfl rfl rfl rfl nofun (by decide) (by decide)).1 rfl (by decide)),
   answers ((h (homeState (homePlane [early])) _ _ (by decide) rfl rfl rfl rfl rfl nofun (by decide) (by decide)).2.1 rfl (by decide)),
   ((h fullSlots _ _ (by decide) rfl rfl rfl rfl rfl nofun (by decide) (by decide)).2.2 rfl rfl).elim fun z e => ⟨z, e.1⟩⟩

/-- A line held, a line filled, and a line for which there is no slot. -/
theorem witness_lines_cached (h : linesCached) :
    (∃ z, { State.reset with caches := [(cacheKey 0, [{ line := 0 }])] }.cacheLine (.port 0) {} 0 = some z) ∧
    (∃ z, State.reset.cacheLine (.port 0) { write := true } 0 = some z) ∧
    fullSlots.cacheLine (.port 0) {} 0 = none :=
  ⟨((h _ (.port 0) {} 0).1 ⟨{ line := 0 }, by simp [State.cacheSetOf, mapGet], rfl⟩).elim fun z e => ⟨z, e.1⟩,
   ((h State.reset (.port 0) { write := true } 0).2.1 (fun ⟨_, hc, _⟩ => List.not_mem_nil (a := _) hc) rfl rfl (by decide) (by decide)
     (by decide)).elim fun z e => ⟨z, e.1⟩,
   (h fullSlots (.port 0) {} 0).2.2 (fun ⟨_, hc, _⟩ => List.not_mem_nil (a := _) hc) (by decide)⟩

def srvPlane (acc : Access) (hi : Int) : Plane := { homePlane [rq acc] with servers := [{ range := 3, md := 0, next := 4, hi }] }
theorem witness_servers (h : homeServers) :
    (∃ t, exec .homePerform (homeState (srvPlane (.fence 3) 0)) = .next t) ∧ (∃ t, exec .homePerform (homeState (srvPlane (.rangeInit 3 2 9) 0)) = .next t) ∧
    (∃ t, exec .homePerform (homeState (srvPlane (.rangePull 3 8 .i32) 9)) = .next t) ∧
    (∃ t, exec .homePerform (homeState (srvPlane (.rangePull 3 8 .i32) 4)) = .next t) :=
  ⟨answers ((h (homeState (srvPlane (.fence 3) 0)) (srvPlane (.fence 3) 0) _ _
      ⟨by decide, rfl, rfl, ⟨rfl, rfl, rfl⟩, nofun, by decide, by decide, rfl, rfl⟩).1 3 rfl),
   answers ((h (homeState (srvPlane (.rangeInit 3 2 9) 0)) (srvPlane (.rangeInit 3 2 9) 0) _ _
      ⟨by decide, rfl, rfl, ⟨rfl, rfl, rfl⟩, nofun, by decide, by decide, rfl, rfl⟩).2.1 3 2 9 _ rfl rfl),
   answers ((h (homeState (srvPlane (.rangePull 3 8 .i32) 9)) (srvPlane (.rangePull 3 8 .i32) 9) _ _
      ⟨by decide, rfl, rfl, ⟨rfl, rfl, rfl⟩, nofun, by decide, by decide, rfl, rfl⟩).2.2.1 3 8 .i32 _ rfl rfl (by decide)),
   answers ((h (homeState (srvPlane (.rangePull 3 8 .i32) 4)) (srvPlane (.rangePull 3 8 .i32) 4) _ _
      ⟨by decide, rfl, rfl, ⟨rfl, rfl, rfl⟩, nofun, by decide, by decide, rfl, rfl⟩).2.2.2 3 8 .i32 _ rfl rfl (by decide))⟩

def binA : Access := .binAppend 2 0 .i32 (some 7#64) false
def binSt (limit : Nat) : State :=
  { homeState (homePlane [rq binA]) with ctxs := [(0, { state := 1, binctl := BitVec.ofNat 64 (limit * 2 ^ 48), bins := [(2, [⟨0#64, none, 0, .i32, none, 0, 0, none⟩])] })] }
theorem witness_bins (h : homeBins) : (∃ t, exec .homePerform (binSt 1) = .next t) ∧ (∃ t, exec .homePerform (binSt 0) = .next t) :=
  ⟨((h (binSt 1) (homePlane [rq binA]) _ _ 2 0 .i32 (some 7#64) false 0 ldN ⟨by decide, rfl, rfl, ⟨rfl, rfl, rfl⟩, nofun, by decide, by decide, rfl, rfl⟩
      rfl rfl rfl (by decide)).1 (by decide)).elim fun _ e => ⟨_, e.1⟩,
   answers ((h (binSt 0) (homePlane [rq binA]) _ _ 2 0 .i32 (some 7#64) false 0 ldN ⟨by decide, rfl, rfl, ⟨rfl, rfl, rfl⟩, nofun, by decide, by decide, rfl, rfl⟩
      rfl rfl rfl (by decide)).2 (by decide))⟩

/-! ## Completion -/

def fN : Node := { node (.add (ga)) onPe [dat 1, dat 2] [dat 3] [] [] (fed := 3#4) with a := { toks := [dat 1, dat 2], marked := 1 }, b := { toks := [dat 3], marked := 1 } }
def iss (due : Nat) (fault : Option FaultInfo := none) (dep : Bool := false) : Issued :=
  { node := 0, due, takes := [1, 1, 0, 0], emits := [(0, dat 4)], flags := 1#5, fault, data := 1, dep, counted := true, cycle := 90 }
def firePlane (f : Issued) : Plane := { plane [fN] with issued := [f] }
def completing (f : Issued) : State := { fabric (firePlane f) 0#8 .event with arg := { plane := p0, index := 0 } }
/-- A firing whose latency has passed, that waits for no ticks and uses no special-function unit. -/
theorem finished {s : State} {n : Node} {f : Issued} (h1 : f.due ≤ s.cycle) (h2 : f.ticks = none) (h3 : n.usesSfu = false) : ¬ unfinished s n f := by
  rintro (h | ⟨t, h, -⟩ | ⟨h, -⟩)
  · exact absurd h (Nat.not_lt.2 h1)
  · simp [h2] at h
  · simp [h3] at h

/-- A reciprocal issued in cycle 90 beside one of another node of its PE, issued in cycle 80. -/
def rcpN : Node := node (.rcp (ga .f32)) onPe [dat 1] (fed := 1#4)
def sfuIss : Issued := { node := 0, due := 95, takes := [1, 0, 0, 0], emits := [], flags := 0#5, cycle := 90 }
def sfuOther : Issued := { sfuIss with node := 1, due := 101, cycle := 80 }
def sfuPlane : Plane := { plane [rcpN, rcpN] with issued := [sfuIss, sfuOther] }
def sfuState : State := { fabric sfuPlane 0#8 .event with arg := { plane := p0, index := 0 } }

theorem witness_firing_completes (h : firingCompletes) :
    (∃ t, exec .firingComplete (completing (iss 101)) = .next t) ∧
    (∃ t, exec .firingComplete (completing { iss 100 with ticks := some 5 }) = .next t) ∧
    (∃ t, exec .firingComplete sfuState = .next t) ∧
    (∃ t, exec .firingComplete (completing (iss 100)) = .next t) ∧ (∃ t, exec .firingComplete (completing (iss 100 none true)) = .next t) :=
  ⟨answers ((h (completing (iss 101)) (firePlane (iss 101)) fN _ rfl rfl rfl).1 (Or.inl (by decide))),
   answers ((h (completing { iss 100 with ticks := some 5 }) (firePlane { iss 100 with ticks := some 5 }) fN _ rfl rfl rfl).1
     (Or.inr (Or.inl ⟨5, rfl, by decide⟩))),
   answers ((h sfuState sfuPlane rcpN sfuIss rfl rfl rfl).1 (Or.inr (Or.inr ⟨by decide, (p0, sfuPlane), List.mem_singleton.2 rfl, sfuOther,
     List.mem_cons_of_mem _ (List.mem_singleton.2 rfl), rcpN, rfl, by decide, rfl, rfl, by decide⟩))),
   answers ((h (completing (iss 100)) (firePlane (iss 100)) fN _ rfl rfl rfl).2 (finished (by decide) rfl (by decide)) rfl),
   answers ((h (completing (iss 100 none true)) (firePlane (iss 100 none true)) fN _ rfl rfl rfl).2 (finished (by decide) rfl (by decide)) rfl)⟩

theorem witness_fault_completes (h : faultCompletes) : ∃ t, exec .firingComplete (completing (iss 100 (some { cause := 0x28 }))) = .next t :=
  (h (completing (iss 100 (some { cause := 0x28 }))) (firePlane (iss 100 (some { cause := 0x28 }))) fN _ _ rfl rfl rfl
    (finished (by decide) rfl (by decide)) rfl).elim fun _ e => ⟨_, e.1⟩

def track0 : Track := { x := 1, y := 0, port := .west, k := 0 }
/-- The node with a track on its channel b. -/
def trackN : Node := { fN with b := { hops := [{ track := track0, buf := [1#34] }] } }
theorem witness_tokens (h : tokensMove) :
    (∃ m', ((plane [fN]).emit (.operand 0 .b) mk3).nodes[0]? = some m' ∧ (m'.queue .b).toks = [dat 3, mk3]) ∧
    ∃ m', ((plane [trackN]).emit (.operand 0 .b) (dat 7)).nodes[0]? = some m' ∧ (m'.queue .b).toks = [] :=
  ⟨(h (plane [fN]) 0 .b mk3 fN rfl).imp fun _ e => ⟨e.1, by rw [e.2.1]; rfl⟩,
   (h (plane [trackN]) 0 .b (dat 7) trackN rfl).imp fun _ e => ⟨e.1, by rw [e.2.1]; rfl⟩⟩

/-- A 64-bit value goes as two tokens, a marker as one. -/
theorem witness_packs (h : tokensPack) :
    ((dat 7).words true).foldl Queue.arrive { wide := true } = { wide := true, toks := [dat 7] } ∧ (mk3.words false).length = 1 :=
  ⟨(h { wide := true } (dat 7) rfl rfl nofun nofun fun _ _ => Or.inl rfl).1,
   (h {} mk3 rfl rfl nofun nofun nofun).2.1⟩

/-- The track's token reaches its consumer. -/
def trackState : State := { fabric (plane [trackN]) with agenda := [.track p0 (.operand 0 .b) 0] }
theorem witness_tracks (h : tracksMove) : ∃ t, step trackState = .next t :=
  (h trackState p0 (.operand 0 .b) 0 [] (plane [trackN]) _ _ 1#34 [] rfl rfl rfl rfl rfl rfl rfl (by decide) (by decide) rfl
    (fun _ hx => by obtain rfl := Option.some.inj hx; decide)).elim fun _ e => ⟨_, e.1⟩

/-! ## Replies -/

def doneR (replies : List (Nat × Token)) (acc : Access := ldA) : Request := { rq acc with done := true, replies }
def replyPlane (rs : List Request) : Plane := { plane [node (.ld (ga .i32 0#3 false 2#2 (waveFmt 2))) onMemory] with reqs := rs }
/-- The node of these replies is no stream. -/
theorem reply_no_stream : ¬ streamNode (node (.ld (ga .i32 0#3 false 2#2 (waveFmt 2))) onMemory) := by
  rintro ⟨g, h | h⟩
  · exact absurd (show ldN.instr.bind Instr.graphOpcode = some 0xE0#8 from congrArg (fun o => o.bind Instr.graphOpcode) h) (by decide)
  · exact absurd (show ldN.instr.bind Instr.graphOpcode = some 0xE8#8 from congrArg (fun o => o.bind Instr.graphOpcode) h) (by decide)
def replyState (rs : List Request) : State := { fabric (replyPlane rs) 0#8 .event with arg := { plane := p0, index := 5 } }
theorem witness_replies (h : repliesLeave) :
    (∃ t, exec .memoryReply (replyState [doneR [(0, dat 1), (1, dat 1)]]) = .next t) ∧ (∃ t, exec .memoryReply (replyState [doneR [(0, .ord)]]) = .next t) ∧
    (∃ t, exec .memoryReply (replyState [rq ldA]) = .next t) ∧ (∃ t, exec .memoryReply (replyState [earlier, doneR [(0, dat 1), (1, dat 1)]]) = .next t) :=
  ⟨answers ((h (replyState [doneR [(0, dat 1), (1, dat 1)]]) (replyPlane [doneR [(0, dat 1), (1, dat 1)]]) (doneR [(0, dat 1), (1, dat 1)])).1 0 _
      ⟨rfl, rfl, rfl, rfl, by decide, rfl, rfl⟩ rfl rfl nofun nofun nofun (fun g hg => absurd (show ldN.instr.bind Instr.graphOpcode = some 0xE6#8 from congrArg (fun o => o.bind Instr.graphOpcode) hg) (by decide))
      reply_no_stream nofun (Or.inl ⟨_, rfl⟩) rfl),
   answers ((h (replyState [doneR [(0, .ord)]]) (replyPlane [doneR [(0, .ord)]]) (doneR [(0, .ord)])).1 0 _
      ⟨rfl, rfl, rfl, rfl, by decide, rfl, rfl⟩ rfl rfl nofun nofun nofun (fun g hg => absurd (show ldN.instr.bind Instr.graphOpcode = some 0xE6#8 from congrArg (fun o => o.bind Instr.graphOpcode) hg) (by decide))
      reply_no_stream nofun (Or.inr ⟨_, rfl⟩) rfl),
   answers ((h (replyState [rq ldA]) (replyPlane [rq ldA]) (rq ldA)).2 (rq ldA) rfl rfl nofun (Or.inl rfl)),
   answers ((h (replyState [earlier, doneR [(0, dat 1), (1, dat 1)]]) _ (doneR [(0, dat 1), (1, dat 1)])).2 earlier rfl rfl nofun
      (Or.inr ⟨List.mem_cons_self .., rfl, by decide, rfl, ⟨0, rfl⟩, rfl⟩))⟩

/-- A stream one of whose elements was poison. -/
def sldG : GArgs := ga .i32 2#3 false 2#2 (waveFmt 1)
def sldN : Node := { node (.sld sldG) onMemory with pois := true }
def endR : Request := doneR [(0, marker 1), (1, marker 1)] (.ending [(0, marker 1), (1, marker 1)])
def sldState : State := { fabric { plane [sldN] with reqs := [endR] } 0#8 .event with arg := { plane := p0, index := 5 } }
theorem witness_streams_close (h : streamsClose) : ∃ t, exec .memoryReply sldState = .next t :=
  answers (h sldState { plane [sldN] with reqs := [endR] } endR 0 sldN _ 1#3 0#8 0#8 ⟨rfl, rfl, rfl, rfl, by decide, rfl, rfl⟩ rfl rfl
    ⟨sldG, Or.inl (by decide)⟩ rfl rfl (by decide) rfl)

def taskPe : TaskPe := { place := onPe, inputs := 1, starts := [0], wide := [false], chans := [{}, {}, {}, {}, {}] }
def peR : Request := { doneR [(2, dat 9)] with who := .pe 0 }
def peState : State := { fabric { st := .live, pes := [taskPe], reqs := [peR] } 0#8 .event with arg := { plane := p0, index := 5 } }
theorem witness_task_replies (h : taskReplies) : ∃ t, exec .memoryReply peState = .next t :=
  (h peState { st := .live, pes := [taskPe], reqs := [peR] } peR 0 2 (dat 9) ⟨rfl, rfl, rfl, rfl, by decide, rfl, rfl⟩ rfl rfl nofun nofun nofun).elim
    fun _ e => ⟨_, e.1⟩

/-! ## Rounds, walks, timers, host lines -/

def rndG : GArgs := ga .i32 0#3 false 2#2 (waveFmt 0)
def rndN : Node := node (.aadd rndG) onMemory
def closing (r : BitVec 8) : Request := { rq (.close (mk5 r) []) 0 0 with round := 1, replies := [(0, mk5 r)] }
def rndPlane (r : BitVec 8) (n : Nat) : Plane := { plane (List.replicate n rndN) with tiles := tiles3, reqs := [closing r] }
def rndState (r : BitVec 8) (n : Nat) : State := { fabric (rndPlane r n) 0#8 .event with arg := { plane := p0, index := 5, other := 0 } }

theorem witness_round_closes (h : roundsClose) :
    (∃ t, exec .roundMarkerArrival (rndState 1#8 1) = .next t) ∧ (∃ t, exec .roundMarkerArrival (rndState 0#8 2) = .next t) ∧
    (∃ t, exec .roundMarkerArrival (rndState 0#8 1) = .next t) :=
  ⟨answers ((h (rndState 1#8 1) (rndPlane 1#8 1) (closing 1#8) (mk5 1#8) [] 0 rfl rfl rfl rfl (by decide) (by decide) rfl nofun rfl).1 (by decide)),
   answers ((h (rndState 0#8 2) (rndPlane 0#8 2) (closing 0#8) (mk5 0#8) [] 0 rfl rfl rfl rfl (by decide) (by decide) rfl nofun rfl).2.1 rfl (by decide)),
   answers ((h (rndState 0#8 1) (rndPlane 0#8 1) (closing 0#8) (mk5 0#8) [] 0 rfl rfl rfl rfl (by decide) (by decide) rfl nofun rfl).2.2 rfl (by decide))⟩

def walk0 (va : W64) (met : List (Nat × Nat) := []) : Walk :=
  { asid := 0, va, md := 0, space := 2, write := false, atomic := false, plane := some p0, who := some (.node 0), size := 4, met }
/-- Tables at 64 KiB: entry 0 of the first level leads to 128 KiB, whose entry 0 is a leaf of 1 GiB at address 0. -/
def tables : Memory := { cells := [⟨0x10000, 1#8⟩, ⟨0x10002, 2#8⟩, ⟨0x20000, 7#8⟩] }
def walking (w : Walk) (more : List Walk := []) (marks : List Nat := []) : State :=
  { fabric (plane [ldN]) 0#8 .event with
    walks := w :: more, dram := { tables with marks }, ctxs := [(0, { state := 1, ptbase := 0x10001#64 })] }

/-- Every walker of the die is at work. -/
def busyWalkers : List Walk := (List.range 64).map fun k => walk0 (BitVec.ofNat 64 (2 ^ 20 * (k + 1))) [(0, 0x10000)]

theorem witness_walks_go_on (h : walksGoOn) :
    (∃ t, exec .tableWalk (walking (walk0 0x40#64) busyWalkers) = .next t) ∧ (∃ t, exec .tableWalk (walking (walk0 0x40#64)) = .next t) ∧
    (∃ t, exec .tableWalk (walking (walk0 0x40#64 [(0, 0x10000)])) = .next t) :=
  ⟨answers ((h (walking (walk0 0x40#64) busyWalkers) (walk0 0x40#64)).1 rfl rfl rfl (by decide)),
   answers ((h (walking (walk0 0x40#64)) (walk0 0x40#64)).2.1 (0, 0x10000) rfl rfl rfl (by decide) (by decide)),
   answers ((h (walking (walk0 0x40#64 [(0, 0x10000)])) (walk0 0x40#64 [(0, 0x10000)])).2.2 0 0x10000 _ 0x20001 _ 0x20000
     ⟨rfl, rfl, rfl, rfl, rfl, by decide⟩ (by decide))⟩

/-- A walk at the second table. -/
def at2 (va : W64) (space : Nat := 2) : Walk := { walk0 va [(1, 0x20000), (0, 0x10000)] with space }
def endingWalk : State :=
  { walking (at2 0x40#64) with pads := [(0, { x0 := 0, y0 := 0, w := 2, h := 2, planes := [{ plane [ldN] with st := .ending }] })] }
def leaf2 : Leaf := ⟨30, 0, false, false, true⟩

theorem witness_walks (h : walksEnd) :
    (∃ t, exec .tableWalk (walking (at2 0x40000000#64)) = .next t) ∧ (∃ t, exec .tableWalk (walking (at2 0x40#64) [] [0x8000]) = .next t) ∧
    (∃ t, exec .tableWalk (walking (at2 0x40#64 4)) = .next t) ∧ (∃ t, exec .tableWalk (walking (at2 0x40#64)) = .next t) ∧
    ∃ t, exec .tableWalk endingWalk = .next t :=
  ⟨answers ((h (walking (at2 0x40000000#64)) _ 1 0x20000 _ (some 0) _ p0 (.node 0) ⟨rfl, rfl, rfl, rfl, rfl, by decide⟩ rfl rfl (by decide)).1 0 rfl
      (by decide)),
   answers ((h (walking (at2 0x40#64) [] [0x8000]) _ 1 0x20000 _ none _ p0 (.node 0) ⟨rfl, rfl, rfl, rfl, rfl, by decide⟩ rfl rfl (by decide)).2.1 rfl),
   answers ((h (walking (at2 0x40#64 4)) _ 1 0x20000 _ (some 7) _ p0 (.node 0) ⟨rfl, rfl, rfl, rfl, rfl, by decide⟩ rfl rfl (by decide)).2.2.1 7 leaf2
      rfl (by decide) (fun hp => absurd (hp.2.2.1 rfl) (by decide))),
   ((h (walking (at2 0x40#64)) _ 1 0x20000 _ (some 7) _ p0 (.node 0) ⟨rfl, rfl, rfl, rfl, rfl, by decide⟩ rfl rfl (by decide)).2.2.2 7 leaf2
      rfl (by decide) ⟨nofun, nofun, by decide⟩).elim fun z e => ⟨z, e.1⟩,
   ((h endingWalk _ 1 0x20000 _ (some 7) _ p0 (.node 0) ⟨rfl, rfl, rfl, rfl, rfl, by decide⟩ rfl rfl (by decide)).2.2.2 7 leaf2
      rfl (by decide) ⟨nofun, nofun, by decide⟩).elim fun z e => ⟨z, e.1⟩⟩

def late (space : Nat) (c : Nat) : State := { homeState (homePlane [rq ldA space]) with cycle := c }
theorem witness_timeouts (h : requestsTimeOut) :
    (∃ t, exec .memoryTimeout (late 2 (89 + 2 ^ 20)) = .next t) ∧ (∃ t, exec .memoryTimeout (late 2 (90 + 2 ^ 20)) = .next t) ∧
    (∃ t, exec .memoryTimeout (late 5 (90 + 2 ^ 20)) = .next t) ∧ (∃ t, exec .memoryTimeout (late 5 (90 + 2 ^ 26)) = .next t) :=
  ⟨answers ((h (late 2 (89 + 2 ^ 20)) _ (rq ldA 2) (by decide) rfl rfl rfl rfl rfl rfl rfl rfl).2.1 (by decide)),
   answers ((h (late 2 (90 + 2 ^ 20)) _ (rq ldA 2) (by decide) rfl rfl rfl rfl rfl rfl rfl rfl).2.2 (by decide) (by decide)),
   answers ((h (late 5 (90 + 2 ^ 20)) _ (rq ldA 5) (by decide) rfl rfl rfl rfl rfl rfl rfl rfl).2.1 (by decide)),
   answers ((h (late 5 (90 + 2 ^ 26)) _ (rq ldA 5) (by decide) rfl rfl rfl rfl rfl rfl rfl rfl).2.2 (by decide) (by decide))⟩
def lateSecond (c : Nat) : State := { homeState (homePlane [{ rq ldA with id := 4 }, rq ldA]) with cycle := c }
/-- The second of two requests of a node to the same bytes waits for the first, and does not time out. -/
theorem witness_timeout_waits (h : requestsTimeOut) :
    ∃ t, exec .memoryTimeout (lateSecond (90 + 2 ^ 20)) = .next t :=
  answers ((h (lateSecond (90 + 2 ^ 20)) _ (rq ldA 2) (by decide) rfl rfl rfl rfl rfl rfl rfl rfl).1 (by decide))

def lineState (x : Stimulus) : State :=
  { fabric (plane []) 0#8 .event with link := some cxl, copies := [oldCopy 1, oldCopy 2], host := hostHolds, arg := x }
theorem witness_host_lines (h : hostLines) :
    (∃ t, exec .hostSnoop (lineState { value := 5#64 }) = .next t) ∧
    (∃ t, exec .systemCacheCopyUpdate (lineState { value := 5#64, index := 1, verdict := true }) = .next t) ∧
    (∃ t, exec .systemCacheCopyUpdate (lineState { value := 5#64, index := 2 }) = .next t) ∧
    (∃ t, exec .hostMemoryAccess (lineState { access := .read 8#40 3 }) = .next t) ∧
    (∃ t, exec .hostMemoryAccess (lineState { access := .write 8#40 [1#8, 0#8] }) = .next t) :=
  ⟨answers ((h (lineState { value := 5#64 }) cxl 0#40 0 []).1),
   answers ((h (lineState { value := 5#64, index := 1, verdict := true }) cxl 0#40 0 []).2.1 ⟨oldCopy 1, List.mem_cons_self .., rfl, rfl⟩ rfl),
   answers ((h (lineState { value := 5#64, index := 2 }) cxl 0#40 0 []).2.2.1 ⟨oldCopy 2, List.mem_cons_of_mem _ (List.mem_cons_self ..), rfl, rfl⟩ rfl),
   answers ((h (lineState { access := .read 8#40 3 }) cxl 8#40 3 []).2.2.2.1 _ rfl rfl rfl rfl),
   answers ((h (lineState { access := .write 8#40 [1#8, 0#8] }) cxl 8#40 0 [1#8, 0#8]).2.2.2.2 _ rfl rfl rfl rfl)⟩

def slotState (lp : Bool) : State := { fabric (plane []) 0#8 .event with slotsLp := [3], slotsHbm := [4], arg := { verdict := lp } }
theorem witness_slot_frees (h : slotFrees) :
    (∃ t, exec .requestSlotFree (slotState true) = .next t) ∧ (∃ t, exec .requestSlotFree (slotState false) = .next t) :=
  ⟨answers (h (slotState true)), answers (h (slotState false))⟩

end Sys2Proof.Tests
end

