-- ==== Sys2Proof/Tests/Tasks.lean ====
section
/-! SUPPORT. Every clause of the statements on tasks is met: each line applies a statement to a small state and proves its
premises there. -/

namespace Sys2Proof.Tests

open Sys2Proof.Machine Sys2Proof.Claims

/-- A LIVE plane of one PE in task mode, whose activation executes its first word. -/
def tkPlane (t : TaskPe) : Plane := { st := .live, pes := [t] }
def tkState (t : TaskPe) (en : BitVec 8 := 0#8) : State := fabric (tkPlane t) en (.task p0 0)
def tk (regs : List TaskReg) (trig : Token := dat 7) (words : List W32 := [0#32]) (grant : Grant := .none) : TaskPe :=
  { words, place := onPe, inputs := 1, starts := [0], wide := [false], chans := [qu [trig], {}, {}, {}, {}], regs
    rowA := List.replicate 16 {}, rowB := List.replicate 32 {}, outs := [[.exit 0]], outWide := [false], grant, act := some { chan := 0, pc := 0 } }
def site (t : TaskPe) (en : BitVec 8 := 0#8) : TaskSite := ⟨tkState t en, p0, 0, tkPlane t, t, { chan := 0, pc := 0 }⟩
def wr (v : Nat) : TaskReg := { v := BitVec.ofNat 32 v }
def tagged : TaskReg := { v := 2#32, tag := some 2#8 }

theorem task_turn {t : TaskPe} {en : BitVec 8} {c : Cost} (h1 : cursorTask (tkState t en) = some (site t en)) (h2 : (site t en).ready = true)
    (h3 : (site t en).overrun = false) (h4 : (grantCycle (tkState t en) p0).1 = true)
    (h5 : (admitTask (grantCycle (tkState t en) p0).2 (site t en) c).1 = true) :
    TaskTurn (tkState t en) (site t en) c := ⟨h1, h2, h3, fun _ => h4, h5⟩

/-! ## Shared operations -/

/-- A shared operation whose clauses are met by registers 2 and 3, and by a tagged divisor of zero. -/
def two (a b : TaskReg) : TaskPe := tk [{}, {}, a, b]
def trapping (a b : TaskReg) : TaskPe := { two a b with info := { policy := 0x10#8 } }
theorem witness_shared (h : ∀ c ∈ sharedIntegers ++ sharedBits ++ sharedFloats, c.executes) :
    (∃ t, exec (.taskAddReg 1#4 2#4 3#4 0#1) (tkState (two (wr 0x7fffffff) (wr 1))) = .next t) ∧
    (∃ t, exec (.taskBfiImm 1#4 2#4 0#1 0x3e5#12) (tkState (two (wr 9) tagged)) = .next t) ∧
    (∃ t, exec (.taskFaddReg 1#4 2#4 3#4 0#3) (tkState (two (wr 0x3f800000) tagged)) = .next t) ∧
    (∃ t, exec (.taskDivReg 1#4 2#4 3#4 0#1) (tkState (two (wr 9) (wr 0))) = .next t) ∧
    (∃ t, exec (.taskDivReg 1#4 2#4 3#4 0#1) (tkState (two (wr 9) (wr 0)) 0x40#8) = .next t) ∧
    (∃ t, exec (.taskRemImm 1#4 2#4 1#1 0#12) (tkState (two (wr 9) (wr 0)) 0x40#8) = .next t) ∧
    (∃ t, exec (.taskFmulReg 1#4 2#4 3#4 0#3) (tkState (trapping (wr 0x7f800000) (wr 0)) 0xff#8) = .next t) := by
  have no (c : SharedOp) (hc : c.zeroFaults = false) (x b n) : ¬ c.traps x b n := fun hx => by simp [SharedOp.traps, hc] at hx
  have off (c : SharedOp) (t b n) : ¬ c.traps (site t 0#8) b n := by
    rintro ⟨_, _, hb⟩
    revert hb
    show ¬ (maskEnables t.grant (((tkState t 0#8)).ctx 0).trapen).getLsbD 6 = true
    unfold maskEnables
    split <;> simp [tkState, fabric, State.ctx, mapGet]
  refine ⟨answers ((h { reg := fun d a b n _ => .taskAddReg d a b n, imm := fun d a i n _ => .taskAddImm d a n i, value := onInts fun a b _ => a + b }
        (by simp [sharedIntegers]) (tkState (two (wr 0x7fffffff) (wr 1))) (site (two (wr 0x7fffffff) (wr 1))) 1#4 2#4 (.reg 3#4) 0#1 0#3
        (task_turn rfl rfl rfl rfl rfl)).1 (no _ rfl _ _ _) rfl),
    answers ((h { reg := fun d a b n _ => .taskBfiReg d a b n, imm := fun d a i n _ => .taskBfiImm d a n i, third := true, value := onWords bitBfi }
        (by simp [sharedBits]) (tkState (two (wr 9) tagged)) (site (two (wr 9) tagged)) 1#4 2#4 (.imm 0x3e5#12) 0#1 0#3
        (task_turn rfl rfl rfl rfl rfl)).1 (no _ rfl _ _ _) rfl),
    answers ((h { reg := fun d a b _ m => .taskFaddReg d a b m, imm := fun d a i _ m => .taskFaddImm d a m i, lat := 4
                  value := onFloats fun _ e a b _ => fpAdd .f32 e a b }
        (by simp [sharedFloats]) (tkState (two (wr 0x3f800000) tagged)) (site (two (wr 0x3f800000) tagged)) 1#4 2#4 (.reg 3#4) 0#1 0#3
        (task_turn rfl rfl rfl rfl rfl)).1 (no _ rfl _ _ _) (by decide)),
    answers ((h { reg := fun d a b n _ => .taskDivReg d a b n, imm := fun d a i n _ => .taskDivImm d a n i, issue := 16, lat := 18
                  zeroFaults := true, value := onInts fun a b _ => if b = 0 then -1 else Int.tdiv a b }
        (by simp [sharedIntegers]) (tkState (two (wr 9) (wr 0))) (site (two (wr 9) (wr 0))) 1#4 2#4 (.reg 3#4) 0#1 0#3
        (task_turn rfl rfl rfl rfl rfl)).1 (off _ _ _ _) rfl),
    answers ((h { reg := fun d a b n _ => .taskDivReg d a b n, imm := fun d a i n _ => .taskDivImm d a n i, issue := 16, lat := 18
                  zeroFaults := true, value := onInts fun a b _ => if b = 0 then -1 else Int.tdiv a b }
        (by simp [sharedIntegers]) (tkState (two (wr 9) (wr 0)) 0x40#8) (site (two (wr 9) (wr 0)) 0x40#8) 1#4 2#4 (.reg 3#4) 0#1 0#3
        (task_turn rfl rfl rfl rfl rfl)).2.1 ⟨rfl, rfl, rfl⟩),
    answers ((h { reg := fun d a b n _ => .taskRemReg d a b n, imm := fun d a i n _ => .taskRemImm d a n i, issue := 16, lat := 18
                  zeroFaults := true, value := onInts fun a b _ => if b = 0 then a else a - b * Int.tdiv a b }
        (by simp [sharedIntegers]) (tkState (two (wr 9) (wr 0)) 0x40#8) (site (two (wr 9) (wr 0)) 0x40#8) 1#4 2#4 (.imm 0#12) 1#1 0#3
        (task_turn rfl rfl rfl rfl rfl)).2.1 ⟨rfl, rfl, rfl⟩),
    answers ((h { reg := fun d a b _ m => .taskFmulReg d a b m, imm := fun d a i _ m => .taskFmulImm d a m i, lat := 4
                  value := onFloats fun _ e a b _ => fpMul .f32 e a b }
        (by simp [sharedFloats]) (tkState (trapping (wr 0x7f800000) (wr 0)) 0xff#8) (site (trapping (wr 0x7f800000) (wr 0)) 0xff#8) 1#4 2#4 (.reg 3#4) 0#1 0#3
        (task_turn rfl rfl rfl rfl rfl)).2.2 0x20 (no _ rfl _ _ _) (by decide))⟩

theorem witness_unary (h : ∀ c ∈ sharedIntegers, c.executes) : ∃ t, exec (.taskNegReg 1#4 2#4 3#4 0#1) (tkState (two (wr 9) tagged)) = .next t :=
  answers ((h { reg := fun d a b n _ => .taskNegReg d a b n, imm := fun d a i n _ => .taskNegImm d a n i, unary := true, value := onInts fun a _ _ => -a }
    (by simp [sharedIntegers]) (tkState (two (wr 9) tagged)) (site (two (wr 9) tagged)) 1#4 2#4 (.reg 3#4) 0#1 0#3
    (task_turn rfl rfl rfl rfl rfl)).1 (by simp [SharedOp.traps]) rfl)

theorem witness_shared_completes (h : ∀ c ∈ sharedFloats, c.completes) (hc : convertCompletes) :
    (∃ t, exec (.taskFmulReg 1#4 2#4 3#4 0#3) (tkState (two (wr 0x7f800000) (wr 0)) 0xff#8) = .next t) ∧
    (∃ t, exec (.taskFmaImm 1#4 2#4 0#3 0x3ff#12) (tkState (two (wr 0x7f800000) tagged)) = .next t) ∧
    (∃ t, exec (.taskCvt 1#4 2#4 1#1 0#1 0#3) (tkState (trapping (wr 0x7fc00000) {}) 0xe0#8) = .next t) :=
  ⟨answers (h { reg := fun d a b _ m => .taskFmulReg d a b m, imm := fun d a i _ m => .taskFmulImm d a m i, lat := 4
                value := onFloats fun _ e a b _ => fpMul .f32 e a b }
      (by simp [sharedFloats]) (tkState (two (wr 0x7f800000) (wr 0)) 0xff#8) (site (two (wr 0x7f800000) (wr 0)) 0xff#8) 1#4 2#4 (.reg 3#4) 0#1 0#3
      (task_turn rfl rfl rfl rfl rfl) (.inl rfl)),
   answers (h { reg := fun d a b _ m => .taskFmaReg d a b m, imm := fun d a i _ m => .taskFmaImm d a m i, lat := 4, third := true
                value := onFloats fun _ e a b c => fpFused false false .f32 e a b c }
      (by simp [sharedFloats]) (tkState (two (wr 0x7f800000) tagged)) (site (two (wr 0x7f800000) tagged)) 1#4 2#4 (.imm 0x3ff#12) 0#1 0#3
      (task_turn rfl rfl rfl rfl rfl) (.inl rfl)),
   answers (hc (tkState (trapping (wr 0x7fc00000) {}) 0xe0#8) (site (trapping (wr 0x7fc00000) {}) 0xe0#8) 1#4 2#4 1#1 0#1 0#3
      (task_turn rfl rfl rfl rfl rfl) (.inr rfl))⟩

theorem witness_cvt (h : converts) :
    (∃ t, exec (.taskCvt 1#4 2#4 0#1 0#1 0#3) (tkState (two (wr 0xffffffff) {})) = .next t) ∧
    (∃ t, exec (.taskCvt 1#4 2#4 1#1 0#1 0#3) (tkState (two (wr 0x4b000001) {})) = .next t) ∧
    (∃ t, exec (.taskCvt 1#4 2#4 1#1 0#1 0#3) (tkState (trapping (wr 0x7fc00000) {}) 0xff#8) = .next t) :=
  ⟨answers ((h (tkState (two (wr 0xffffffff) {})) (site (two (wr 0xffffffff) {})) 1#4 2#4 0#1 0#1 0#3 (task_turn rfl rfl rfl rfl rfl)
      0xbf800000#64 0#5 ⟨by decide, by decide⟩).1 rfl),
   answers ((h (tkState (two (wr 0x4b000001) {})) (site (two (wr 0x4b000001) {})) 1#4 2#4 1#1 0#1 0#3 (task_turn rfl rfl rfl rfl rfl)
      8388609#64 0#5 ⟨by decide, by decide⟩).1 rfl),
   answers ((h (tkState (trapping (wr 0x7fc00000) {}) 0xff#8) (site (trapping (wr 0x7fc00000) {}) 0xff#8) 1#4 2#4 1#1 0#1 0#3 (task_turn rfl rfl rfl rfl rfl)
      _ _ ⟨rfl, rfl⟩).2 0x20 (by decide))⟩

/-! ## Channels, control, the walker -/

theorem witness_channels (h : taskControl) :
    (∃ t, exec (.taskRecv 1#4 0#1) (tkState (tk [{}, {}] (dat 7))) = .next t) ∧
    (∃ t, exec (.taskRecv 1#4 1#1) (tkState (tk [{}, {}] (.data 0xffffffff00000007#64))) = .next t) ∧
    (∃ t, exec (.taskRecv 1#4 0#1) (tkState (tk [{}, {}] (mk5 9#8))) = .next t) ∧
    (∃ t, exec (.taskRecv 1#4 0#1) (tkState (tk [{}, {}] bad)) = .next t) ∧
    (∃ t, exec (.taskPeek 1#4) (tkState (tk [{}, {}] bad)) = .next t) ∧
    (∃ t, exec (.taskSend 0#2 2#4 3#4 0#1) (tkState (tk [{}, {}, wr 5, wr 6])) = .next t) ∧
    (∃ t, exec (.taskSend 0#2 2#4 3#4 1#1) (tkState (tk [{}, {}, wr 5, wr 6])) = .next t) ∧
    (∃ t, exec (.taskSend 0#2 2#4 3#4 0#1) (tkState (tk [{}, {}, tagged, tagged])) = .next t) ∧
    (∃ t, exec (.taskSend 0#2 2#4 3#4 1#1) (tkState (tk [{}, {}, wr 5, tagged])) = .next t) ∧
    (∃ t, exec (.taskSendm 0#2 2#4) (tkState (tk [{}, {}, wr 6])) = .next t) :=
  ⟨answers ((h (.taskRecv 1#4 0#1) (tkState (tk [{}, {}] (dat 7))) (site (tk [{}, {}] (dat 7))) (task_turn rfl rfl rfl rfl rfl)).1 _ (.recvData (y := 7#64) (w := 0#1) (x := site (tk [{}, {}] (dat 7))) rfl)),
   answers ((h (.taskRecv 1#4 1#1) (tkState (tk [{}, {}] (.data 0xffffffff00000007#64))) (site (tk [{}, {}] (.data 0xffffffff00000007#64))) (task_turn rfl rfl rfl rfl rfl)).1 _ (.recvData (y := 0xffffffff00000007#64) (w := 1#1) (x := site (tk [{}, {}] (.data 0xffffffff00000007#64))) rfl)),
   answers ((h (.taskRecv 1#4 0#1) (tkState (tk [{}, {}] (mk5 9#8))) (site (tk [{}, {}] (mk5 9#8))) (task_turn rfl rfl rfl rfl rfl)).1 _ (.recvMarker (l := 5#3) (r := 9#8) (st := 0#8) (w := 0#1) (x := site (tk [{}, {}] (mk5 9#8))) rfl)),
   answers ((h (.taskRecv 1#4 0#1) (tkState (tk [{}, {}] bad)) (site (tk [{}, {}] bad)) (task_turn rfl rfl rfl rfl rfl)).1 _ (.recvPoison (q := 2#8) (w := 0#1) (x := site (tk [{}, {}] bad)) rfl nofun)),
   answers ((h (.taskPeek 1#4) (tkState (tk [{}, {}] bad)) (site (tk [{}, {}] bad)) (task_turn rfl rfl rfl rfl rfl)).1 _ (.peek (x := site (tk [{}, {}] bad)) )),
   answers ((h (.taskSend 0#2 2#4 3#4 0#1) (tkState (tk [{}, {}, wr 5, wr 6])) (site (tk [{}, {}, wr 5, wr 6])) (task_turn rfl rfl rfl rfl rfl)).1 _ (.send (x := site (tk [{}, {}, wr 5, wr 6])) rfl)),
   answers ((h (.taskSend 0#2 2#4 3#4 1#1) (tkState (tk [{}, {}, wr 5, wr 6])) (site (tk [{}, {}, wr 5, wr 6])) (task_turn rfl rfl rfl rfl rfl)).1 _ (.sendWide (x := site (tk [{}, {}, wr 5, wr 6])) rfl rfl)),
   answers ((h (.taskSend 0#2 2#4 3#4 0#1) (tkState (tk [{}, {}, tagged, tagged])) (site (tk [{}, {}, tagged, tagged])) (task_turn rfl rfl rfl rfl rfl)).1 _ (.sendPoison (q := 2#8) (x := site (tk [{}, {}, tagged, tagged])) (.inl rfl))),
   answers ((h (.taskSend 0#2 2#4 3#4 1#1) (tkState (tk [{}, {}, wr 5, tagged])) (site (tk [{}, {}, wr 5, tagged])) (task_turn rfl rfl rfl rfl rfl)).1 _ (.sendPoison (q := 2#8) (x := site (tk [{}, {}, wr 5, tagged])) (.inr ⟨rfl, rfl, rfl⟩))),
   answers ((h (.taskSendm 0#2 2#4) (tkState (tk [{}, {}, wr 6])) (site (tk [{}, {}, wr 6])) (task_turn rfl rfl rfl rfl rfl)).1 _ (.sendm (l := 6#3) (x := site (tk [{}, {}, wr 6])) rfl rfl (by decide) (by decide)))⟩

theorem witness_control (h : taskControl) :
    (∃ t, exec (.taskBr 0xfff#13) (tkState (tk [{}, {}, wr 5, wr 6])) = .next t) ∧
    (∃ t, exec (.taskBrc 2#4 1#1 3#13) (tkState (tk [{}, {}, wr 5, wr 6])) = .next t) ∧
    (∃ t, exec (.taskBrc 2#4 0#1 3#13) (tkState (tk [{}, {}, wr 5, wr 6])) = .next t) ∧
    (∃ t, exec (.taskEnd) (tkState (tk [{}, {}, wr 5, wr 6])) = .next t) ∧
    (∃ t, exec (.taskSeti 1#4 0x1fff#13) (tkState (tk [{}, {}, wr 5, wr 6])) = .next t) ∧
    (∃ t, exec (.taskLui 2#4 0x1fffff#21) (tkState (tk [{}, {}, wr 5, wr 6])) = .next t) ∧
    (∃ t, exec (.taskTrap 2#4 9#12) (tkState (tk [{}, {}, wr 5] (dat 7) [0#32] (.retry 0x48))) = .next t) ∧
    (∃ t, exec (.taskRep 7#3 2#4 1#1 1#4 0#8) (tkState (tk [{}, {}, wr 5, wr 6])) = .next t) ∧
    (∃ t, exec (.taskRep 7#3 2#4 0#1 1#4 0#8) (tkState (tk [{}, {}, wr 0])) = .next t) ∧
    (∃ t, exec (.taskRep 7#3 2#4 1#1 1#4 3#8) (tkState (tk [{}, {}, wr 5] (dat 7) [0#32, 0x02241005#32])) = .next t) :=
  ⟨answers ((h (.taskBr 0xfff#13) (tkState (tk [{}, {}, wr 5, wr 6])) (site (tk [{}, {}, wr 5, wr 6])) (task_turn rfl rfl rfl rfl rfl)).1 _ (.br (target := 4096) (x := site (tk [{}, {}, wr 5, wr 6])) (by unfold lands; decide))),
   answers ((h (.taskBrc 2#4 1#1 3#13) (tkState (tk [{}, {}, wr 5, wr 6])) (site (tk [{}, {}, wr 5, wr 6])) (task_turn rfl rfl rfl rfl rfl)).1 _ (.brcTaken (target := 4) (x := site (tk [{}, {}, wr 5, wr 6])) rfl (by decide) (by unfold lands; decide))),
   answers ((h (.taskBrc 2#4 0#1 3#13) (tkState (tk [{}, {}, wr 5, wr 6])) (site (tk [{}, {}, wr 5, wr 6])) (task_turn rfl rfl rfl rfl rfl)).1 _ (.brcNot (x := site (tk [{}, {}, wr 5, wr 6])) rfl (by decide))),
   answers ((h (.taskEnd) (tkState (tk [{}, {}, wr 5, wr 6])) (site (tk [{}, {}, wr 5, wr 6])) (task_turn rfl rfl rfl rfl rfl)).1 _ (.stop (x := site (tk [{}, {}, wr 5, wr 6])) )),
   answers ((h (.taskSeti 1#4 0x1fff#13) (tkState (tk [{}, {}, wr 5, wr 6])) (site (tk [{}, {}, wr 5, wr 6])) (task_turn rfl rfl rfl rfl rfl)).1 _ (.seti (x := site (tk [{}, {}, wr 5, wr 6])) )),
   answers ((h (.taskLui 2#4 0x1fffff#21) (tkState (tk [{}, {}, wr 5, wr 6])) (site (tk [{}, {}, wr 5, wr 6])) (task_turn rfl rfl rfl rfl rfl)).1 _ (.lui (x := site (tk [{}, {}, wr 5, wr 6])) )),
   answers ((h (.taskTrap 2#4 9#12) (tkState (tk [{}, {}, wr 5] (dat 7) [0#32] (.retry 0x48))) (site (tk [{}, {}, wr 5] (dat 7) [0#32] (.retry 0x48))) (task_turn rfl rfl rfl rfl rfl)).1 _ (.trapAcked (x := site (tk [{}, {}, wr 5] (dat 7) [0#32] (.retry 0x48))) (.inl rfl))),
   answers ((h (.taskRep 7#3 2#4 1#1 1#4 0#8) (tkState (tk [{}, {}, wr 5, wr 6])) (site (tk [{}, {}, wr 5, wr 6])) (task_turn rfl rfl rfl rfl rfl)).1 _ (.repNone (x := site (tk [{}, {}, wr 5, wr 6])) (.inl ⟨rfl, rfl⟩))),
   answers ((h (.taskRep 7#3 2#4 0#1 1#4 0#8) (tkState (tk [{}, {}, wr 0])) (site (tk [{}, {}, wr 0])) (task_turn rfl rfl rfl rfl rfl)).1 _ (.repNone (x := site (tk [{}, {}, wr 0])) (.inr ⟨rfl, rfl, rfl⟩))),
   answers ((h (.taskRep 7#3 2#4 1#1 1#4 3#8) (tkState (tk [{}, {}, wr 5] (dat 7) [0#32, 0x02241005#32])) (site (tk [{}, {}, wr 5] (dat 7) [0#32, 0x02241005#32])) (task_turn rfl rfl rfl rfl rfl)).1 _ (.rep (count := 3) (x := site (tk [{}, {}, wr 5] (dat 7) [0#32, 0x02241005#32])) (.inl ⟨rfl, rfl⟩) (by decide) rfl))⟩

theorem witness_rows (h : taskControl) :
    (∃ t, exec (.taskEmita 0#2 2#4 1#1 1#1 3#5) (tkState (tk [{}, {}, wr 5, wr 6])) = .next t) ∧
    (∃ t, exec (.taskEmita 0#2 2#4 0#1 0#1 3#5) (tkState (tk [{}, {}, wr 5, wr 6])) = .next t) ∧
    (∃ t, exec (.taskEmitb 0#2 2#4 0#1 1#1 31#5) (tkState (tk [{}, {}, tagged, tagged])) = .next t) ∧
    (∃ t, exec (.taskSplitDec 1#4 2#4 3#4) (tkState (tk [{}, {}, wr (20 * 2 ^ 11), wr 0, {}])) = .next t) ∧
    (∃ t, exec (.taskSplitEnc 1#4 4#4 0#4) (tkState (tk [{}, {}, {}, {}, wr 9, wr 8, wr 12, wr 1])) = .next t) :=
  ⟨answers ((h (.taskEmita 0#2 2#4 1#1 1#1 3#5) (tkState (tk [{}, {}, wr 5, wr 6])) (site (tk [{}, {}, wr 5, wr 6])) (task_turn rfl rfl rfl rfl rfl)).1 _ (.emita (row := staged (List.replicate 16 {}) 3#5 (wr 5)) (x := site (tk [{}, {}, wr 5, wr 6])) rfl)),
   answers ((h (.taskEmita 0#2 2#4 0#1 0#1 3#5) (tkState (tk [{}, {}, wr 5, wr 6])) (site (tk [{}, {}, wr 5, wr 6])) (task_turn rfl rfl rfl rfl rfl)).1 _ (.emita (row := staged (List.replicate 16 {}) 3#5 (wr 5)) (x := site (tk [{}, {}, wr 5, wr 6])) rfl)),
   answers ((h (.taskEmitb 0#2 2#4 0#1 1#1 31#5) (tkState (tk [{}, {}, tagged, tagged])) (site (tk [{}, {}, tagged, tagged])) (task_turn rfl rfl rfl rfl rfl)).1 _ (.emitb (row := staged (List.replicate 32 {}) 31#5 tagged) (x := site (tk [{}, {}, tagged, tagged])) rfl)),
   answers ((h (.taskSplitDec 1#4 2#4 3#4) (tkState (tk [{}, {}, wr (20 * 2 ^ 11), wr 0, {}])) (site (tk [{}, {}, wr (20 * 2 ^ 11), wr 0, {}])) (task_turn rfl rfl rfl rfl rfl)).1 _ (.dec (h := 40960#64) (x := site (tk [{}, {}, wr (20 * 2 ^ 11), wr 0, {}])) rfl rfl rfl ⟨by decide, by decide⟩)),
   answers ((h (.taskSplitEnc 1#4 4#4 0#4) (tkState (tk [{}, {}, {}, {}, wr 9, wr 8, wr 12, wr 1])) (site (tk [{}, {}, {}, {}, wr 9, wr 8, wr 12, wr 1])) (task_turn rfl rfl rfl rfl rfl)).1 _ (.enc (r0 := wr 9) (r1 := wr 8) (r2 := wr 12) (r3 := wr 1) (h := 0x0000090000086001#64) (x := site (tk [{}, {}, {}, {}, wr 9, wr 8, wr 12, wr 1])) (by simpa [site, tk, fieldReg] using fun _ _ => by rintro (⟨rfl, rfl⟩ | ⟨rfl, rfl⟩ | ⟨rfl, rfl⟩ | ⟨rfl, rfl⟩) <;> exact ⟨rfl, rfl⟩) (by decide) (by decide) ⟨by decide, by decide⟩ (by decide)))⟩

theorem witness_task_faults (h : taskControl) :
    (∃ t, exec (.taskRecv 1#4 0#1) (tkState (tk [{}, {}] bad) 0x80#8) = .next t) ∧
    (∃ t, exec (.taskSendm 0#2 2#4) (tkState (tk [{}, {}, tagged, tagged])) = .next t) ∧
    (∃ t, exec (.taskSendm 0#2 2#4) (tkState (tk [{}, {}, wr 5, wr 6])) = .next t) ∧
    (∃ t, exec (.taskBrc 2#4 0#1 3#13) (tkState (tk [{}, {}, tagged, tagged])) = .next t) ∧
    (∃ t, exec (.taskTrap 2#4 9#12) (tkState (tk [{}, {}, wr 5, wr 6])) = .next t) ∧
    (∃ t, exec (.taskRep 7#3 2#4 0#1 1#4 0#8) (tkState (tk [{}, {}, tagged, tagged])) = .next t) ∧
    (∃ t, exec (.taskRep 7#3 2#4 1#1 1#4 15#8) (tkState (tk [{}, {}, wr 5] (dat 7) [0#32, 0x02241005#32])) = .next t) ∧
    (∃ t, exec (.taskSplitDec 1#4 2#4 3#4) (tkState (tk [{}, {}, wr 0, tagged])) = .next t) ∧
    (∃ t, exec (.taskSplitDec 1#4 2#4 3#4) (tkState (tk [{}, {}, wr (21 * 2 ^ 11), wr 0, {}])) = .next t) ∧
    (∃ t, exec (.taskSplitEnc 1#4 4#4 0#4) (tkState (tk [{}, {}, {}, {}, wr 0x1000000, wr 8, wr 12, wr 1])) = .next t) ∧
    (∃ t, exec (.taskSplitEnc 1#4 4#4 0#4) (tkState (tk [{}, {}, {}, {}, wr 0, wr 8, wr 12, tagged])) = .next t) :=
  ⟨answers ((h (.taskRecv 1#4 0#1) (tkState (tk [{}, {}] bad) 0x80#8) (site (tk [{}, {}] bad) 0x80#8) (task_turn rfl rfl rfl rfl rfl)).2 _ _ (.recv (q := 2#8) (x := site (tk [{}, {}] bad) 0x80#8) rfl rfl)),
   answers ((h (.taskSendm 0#2 2#4) (tkState (tk [{}, {}, tagged, tagged])) (site (tk [{}, {}, tagged, tagged])) (task_turn rfl rfl rfl rfl rfl)).2 _ _ (.sendmTag (x := site (tk [{}, {}, tagged, tagged])) (by decide))),
   answers ((h (.taskSendm 0#2 2#4) (tkState (tk [{}, {}, wr 5, wr 6])) (site (tk [{}, {}, wr 5, wr 6])) (task_turn rfl rfl rfl rfl rfl)).2 _ _ (.sendmLevel (x := site (tk [{}, {}, wr 5, wr 6])) rfl (.inr rfl))),
   answers ((h (.taskBrc 2#4 0#1 3#13) (tkState (tk [{}, {}, tagged, tagged])) (site (tk [{}, {}, tagged, tagged])) (task_turn rfl rfl rfl rfl rfl)).2 _ _ (.brc (x := site (tk [{}, {}, tagged, tagged])) (by decide))),
   answers ((h (.taskTrap 2#4 9#12) (tkState (tk [{}, {}, wr 5, wr 6])) (site (tk [{}, {}, wr 5, wr 6])) (task_turn rfl rfl rfl rfl rfl)).2 _ _ (.trap (x := site (tk [{}, {}, wr 5, wr 6])) (by decide) (by decide))),
   answers ((h (.taskRep 7#3 2#4 0#1 1#4 0#8) (tkState (tk [{}, {}, tagged, tagged])) (site (tk [{}, {}, tagged, tagged])) (task_turn rfl rfl rfl rfl rfl)).2 _ _ (.repTag (x := site (tk [{}, {}, tagged, tagged])) (by decide))),
   answers ((h (.taskRep 7#3 2#4 1#1 1#4 15#8) (tkState (tk [{}, {}, wr 5] (dat 7) [0#32, 0x02241005#32])) (site (tk [{}, {}, wr 5] (dat 7) [0#32, 0x02241005#32])) (task_turn rfl rfl rfl rfl rfl)).2 _ _ (.repRange (count := 15) (x := site (tk [{}, {}, wr 5] (dat 7) [0#32, 0x02241005#32])) (.inl ⟨rfl, rfl⟩) (by decide) rfl)),
   answers ((h (.taskSplitDec 1#4 2#4 3#4) (tkState (tk [{}, {}, wr 0, tagged])) (site (tk [{}, {}, wr 0, tagged])) (task_turn rfl rfl rfl rfl rfl)).2 _ _ (.decTag (x := site (tk [{}, {}, wr 0, tagged])) (.inr (by decide)))),
   answers ((h (.taskSplitDec 1#4 2#4 3#4) (tkState (tk [{}, {}, wr (21 * 2 ^ 11), wr 0, {}])) (site (tk [{}, {}, wr (21 * 2 ^ 11), wr 0, {}])) (task_turn rfl rfl rfl rfl rfl)).2 _ _ (.decFormat (h := 43008#64) (x := site (tk [{}, {}, wr (21 * 2 ^ 11), wr 0, {}])) rfl rfl rfl (fun hx => absurd hx.1 (by decide)))),
   answers ((h (.taskSplitEnc 1#4 4#4 0#4) (tkState (tk [{}, {}, {}, {}, wr 0x1000000, wr 8, wr 12, wr 1])) (site (tk [{}, {}, {}, {}, wr 0x1000000, wr 8, wr 12, wr 1])) (task_turn rfl rfl rfl rfl rfl)).2 _ _ (.encFormat (r0 := wr 0x1000000) (r1 := wr 8) (r2 := wr 12) (r3 := wr 1) (x := site (tk [{}, {}, {}, {}, wr 0x1000000, wr 8, wr 12, wr 1])) (by simpa [site, tk, fieldReg] using fun _ _ => by rintro (⟨rfl, rfl⟩ | ⟨rfl, rfl⟩ | ⟨rfl, rfl⟩ | ⟨rfl, rfl⟩) <;> exact ⟨rfl, rfl⟩) (fun hx => absurd hx.1 (by decide)))),
   answers ((h (.taskSplitEnc 1#4 4#4 0#4) (tkState (tk [{}, {}, {}, {}, wr 0, wr 8, wr 12, tagged])) (site (tk [{}, {}, {}, {}, wr 0, wr 8, wr 12, tagged])) (task_turn rfl rfl rfl rfl rfl)).2 _ _ (.encTag (k := 3) (x := site (tk [{}, {}, {}, {}, wr 0, wr 8, wr 12, tagged])) (by decide) (by decide)))⟩

/-- ADD t1, t2, t3 with a step of 1 on each field and 3 repetitions reaches t5 (R233). -/
theorem witness_rep_range (h : repRange) : repPasses 0x02241005#32 7#3 1 13 = true ↔
    (7#3).getLsbD 0 = true ∧ 15 < (0x02241005#32 >>> 21).toNat % 16 + 0 + 1 * 12 ∨
    (7#3).getLsbD 1 = true ∧ 15 < (0x02241005#32 >>> 17).toNat % 16 + 0 + 1 * 12 ∨
    (7#3).getLsbD 2 = true ∧ 15 < (0x02241005#32 >>> 13).toNat % 16 + 1 * 12 :=
  h 0x02241005#32 (.taskAddImm 1#4 2#4 0#1 5#12) 7#3 1 13 0 rfl (by decide) rfl

/-! ## Requests -/

def asker : TaskPe := tk [{}, {}, wr 16, wr 0, wr 7, tagged, wr 18]
def askPlane : Plane := { tkPlane asker with tiles := [{ region := 0, mode := 0, rounded := true, bytes := 4096 }] }
def askState (reqs : Nat := 0) (en : BitVec 8 := 0#8) : State :=
  { fabric { askPlane with reqs := (List.range reqs).map fun i =>
      { id := i, who := .pe 0, acc := .load .i32 4 false, space := 0, addr := 16#64, loc := 0, size := 4, issued := 0 } } en (.task p0 0) with
    ctxs := [(0, { state := 1, trapen := en, ptbase := 1#64, pswin := [0x00100000#64, 0#64, 0#64, 0#64], peer := 0x100#64 })]
    regs := { peerTab := [(0, 0x8000000000000000#64)] } }
def ldq (sp : BitVec 3) (a : BitVec 4 := 2#4) (z : BitVec 2 := 2#2) : Instr := .taskLdreq 1#4 a 3#4 0#1 0#2 0#1 0#1 z sp
def stq : Instr := .taskStreq 5#4 2#4 3#4 0#1 0#2 1#1 2#2 0#3
def arq : Instr := .taskAreq 4#4 2#4 3#4 1#3 1#1 0#2 0#1 1#1 0#3
def askSite (reqs : Nat := 0) (en : BitVec 8 := 0#8) : TaskSite :=
  ⟨askState reqs en, p0, 0, { askPlane with reqs := (List.range reqs).map fun i =>
      { id := i, who := .pe 0, acc := .load .i32 4 false, space := 0, addr := 16#64, loc := 0, size := 4, issued := 0 } }, asker, { chan := 0, pc := 0 }⟩

theorem witness_requests (h : taskRequests) :
    (∃ t, exec (ldq 0#3) (askState 16) = .next t) ∧ (∃ t, exec (ldq 0#3 5#4) (askState) = .next t) ∧
    (∃ t, exec stq (askState 0 0x80#8) = .next t) ∧ (∃ t, exec (ldq 0#3 6#4) (askState) = .next t) ∧
    (∃ t, exec (ldq 2#3) (askState) = .next t) ∧ (∃ t, exec (ldq 0#3) (askState 15) = .next t) ∧
    (∃ t, exec stq (askState) = .next t) ∧ (∃ t, exec arq (askState) = .next t) ∧ (∃ t, exec (ldq 5#3) (askState) = .next t) :=
  ⟨answers ((h (ldq 0#3) (askState 16) (askSite 16) _ .ldreq ⟨rfl, rfl, rfl, fun _ => rfl, rfl⟩).1 (by decide)),
   answers ((h (ldq 0#3 5#4) (askState) (askSite) _ .ldreq ⟨rfl, rfl, rfl, fun _ => rfl, rfl⟩).2.1 (by decide) (Or.inl rfl)),
   answers ((h stq (askState 0 0x80#8) (askSite 0 0x80#8) _ (.streq (hi := wr 18) (tagged := true) rfl rfl) ⟨rfl, rfl, rfl, fun _ => rfl, rfl⟩).2.1
      (by decide) (Or.inr ⟨rfl, rfl⟩)),
   answers ((h (ldq 0#3 6#4) (askState) (askSite) _ .ldreq ⟨rfl, rfl, rfl, fun _ => rfl, rfl⟩).2.2.1 0x18 (by decide) nofun rfl),
   answers ((h (ldq 2#3) (askState) (askSite) _ .ldreq ⟨rfl, rfl, rfl, fun _ => rfl, rfl⟩).2.2.2.1 (by decide) nofun rfl),
   ((h (ldq 0#3) (askState 15) (askSite 15) _ .ldreq ⟨rfl, rfl, rfl, fun _ => rfl, rfl⟩).2.2.2.2.1 16 (by decide) nofun rfl (by decide)).elim
      fun _ e => ⟨_, e⟩,
   ((h stq (askState) (askSite) _ (.streq (hi := wr 18) (tagged := true) rfl rfl) ⟨rfl, rfl, rfl, fun _ => rfl, rfl⟩).2.2.2.2.1 16 (by decide)
      nofun rfl (by decide)).elim fun _ e => ⟨_, e⟩,
   ((h arq (askState) (askSite) _ (.areq (op := .min) (ty := .i32) rfl) ⟨rfl, rfl, rfl, fun _ => rfl, rfl⟩).2.2.2.2.1 16 (by decide)
      nofun rfl (by decide)).elim fun _ e => ⟨_, e⟩,
   answers ((h (ldq 5#3) (askState) (askSite) _ .ldreq ⟨rfl, rfl, rfl, fun _ => rfl, rfl⟩).2.2.2.2.2 16 (by decide) nofun rfl rfl)⟩

/-! ## Activations -/

theorem witness_commit (h : taskCommits) :
    (∃ t, (tkState (two {} {})).commitTask p0 0 { chan := 0, pc := 0 } { writes := [(1, wr 3)] } = t ∧
      ((t.plane? p0).bind (·.pes[0]?)).map (·.act) = some (some { chan := 0, pc := 1, count := 1 })) ∧
    ((((tkState (two {} {})).commitTask p0 0 { chan := 0, pc := 0 } { stop := true }).plane? p0).bind (·.pes[0]?)).map
      (fun t => (t.act, t.chans.map (·.toks.length))) = some (none, [0, 0, 0, 0, 0]) :=
  ⟨⟨_, (h (tkState (two {} {})) p0 0 { chan := 0, pc := 0 } { writes := [(1, wr 3)] } rfl rfl).1 rfl, rfl⟩,
   by rw [(h (tkState (two {} {})) p0 0 { chan := 0, pc := 0 } { stop := true } rfl rfl).2 rfl rfl rfl]; rfl⟩

theorem witness_sends (h : taskSends) :
    (∃ t, (tkState (two {} {})).taskSend p0 0 0 (dat 1) = t) ∧ (∃ t, (askState 1).taskSend p0 0 0 (.marker 6#3 0#8 0#8) = t) :=
  ⟨⟨_, (h (tkState (two {} {})) p0 0 0 (dat 1) _ rfl).1 ⟨by rintro ⟨r, hr, _⟩; exact absurd hr (List.not_mem_nil), by rintro ⟨_, r, hr, _⟩; exact absurd hr (List.not_mem_nil)⟩⟩,
   ⟨_, (h (askState 1) p0 0 0 (.marker 6#3 0#8 0#8) _ rfl).2 (.inr ⟨by decide, _, List.mem_cons_self .., rfl, rfl, rfl, nofun⟩)⟩⟩

def tired : TaskPe := { tk [{}, {}, wr 1, wr 2] (dat 7) [0x02241005#32] with act := some { chan := 0, pc := 0, count := 4096 } }
theorem witness_overrun (h : overruns) : ∃ t, exec (.taskAddImm 1#4 2#4 0#1 5#12) (tkState tired) = .next t := by
  obtain ⟨_, _, e⟩ := h 0x02241005#32 (.taskAddImm 1#4 2#4 0#1 5#12) (tkState tired) ⟨tkState tired, p0, 0, tkPlane tired, tired, { chan := 0, pc := 0, count := 4096 }⟩
    rfl rfl rfl (fun _ => rfl) (fun _ => rfl) (by decide)
  exact ⟨_, e⟩

def idle : TaskPe := { tk [] with act := none, chans := [qu [dat 1], {}, qu [dat 2], {}, {}], ages := [248, 0, 3, 0, 0] }
def idleState : State := { tkState idle with cursor := .event, arg := { plane := p0, index := 0 } }
theorem witness_activates (h : activates) : ∃ t, exec .activationStart idleState = .next t :=
  (h idleState (tkPlane idle) idle 0 rfl rfl rfl rfl rfl rfl rfl).elim fun _ e => ⟨_, e.1⟩

theorem test_activation_order : idle.order.take 2 = [0, 1] ∧ { idle with ages := [] }.order = [1, 2, 3, 4, 0] := by decide
theorem witness_activation_order (h : activationOrder) : (0 < 2) ∧ (0 < 4) :=
  ⟨(h idle 0 2 0 2 (by decide) (by decide) (by decide) (by decide) (by decide) (by decide)).1 (by decide) (by decide),
   (h { idle with ages := [] } 1 0 0 4 (by decide) (by decide) (by decide) (by decide) (by decide) (by decide)).2.2 (by decide) (by decide)
     (by decide)⟩

end Sys2Proof.Tests
end

