-- ==== Sys2Proof/Tests/Frames.lean ====
section
/-! SUPPORT. The premises of the statements on what instructions leave alone are met, and each instruction runs there. -/

namespace Sys2Proof.Tests

open Sys2Proof.Machine Sys2Proof.Claims

def peNode : Node := node (.add (ga)) onPe [dat 5] [dat 6] [] []
theorem witness_pe_frame (h : peFrame) : ∃ t pr, exec (.add (ga)) (one peNode) = .next t ∧ t.plane? p0 = some pr ∧ pr.nodes.length = 1 :=
  have hx : ∃ t, exec (.add (ga)) (one peNode) = .next t := ⟨_, rfl⟩
  hx.elim fun t e => (h _ _ t p0 0 (plane [peNode]) (Or.inl ⟨_, List.mem_of_getElem? (i := 0) rfl, ga, rfl⟩) rfl rfl e).2.2.elim fun pr hp =>
    ⟨t, pr, e, hp.1, hp.2.2.1⟩

def onceNode : Node := { node (.fork (ga)) onRouter [dat 5] [] [] [] with outs := [some (.operand 1 .a)] }
def onceState : State := fabric (plane [onceNode, peNode])
theorem witness_at_once (h : atOnceFrame) : ∃ t pr, exec (.fork (ga)) onceState = .next t ∧ t.plane? p0 = some pr ∧ pr.nodes.length = 2 :=
  have hx : ∃ t, exec (.fork (ga)) onceState = .next t := ⟨_, rfl⟩
  hx.elim fun t e => (h _ _ t p0 0 (plane [onceNode, peNode]) ⟨ga, by simp⟩ rfl rfl rfl e).2.2.elim fun pr hp => ⟨t, pr, e, hp.1, hp.2.2.1⟩

def putState : State := homeState (homePlane [rq (stA (some 9#64))])
theorem witness_home_frame (h : homeFrame) : ∃ t, exec .homePerform putState = .next t ∧ t.dram.byte 20 = putState.dram.byte 20 :=
  have hx : ∃ t, exec .homePerform putState = .next t := ⟨_, rfl⟩
  hx.elim fun t e => ⟨t, e, (h putState t (homePlane [rq (stA (some 9#64))]) (rq (stA (some 9#64))) (by decide) rfl rfl
    ⟨by decide, by decide, by decide, by decide, by decide⟩ e).1 20 (fun hx => absurd hx.2.2 (by decide))⟩

theorem witness_leave_memory (h : nodesLeaveMemory) : ∃ t, exec (.add (ga)) (one peNode) = .next t ∧ t.dram = (one peNode).dram :=
  have hx : ∃ t, exec (.add (ga)) (one peNode) = .next t := ⟨_, rfl⟩
  hx.elim fun t e => ⟨t, e, (h _ _ t (Or.inl ⟨(encodeGraph (.add (ga))).getD 0#64, rfl⟩) (fun _ hx => Instr.noConfusion hx) (fun _ hx => Instr.noConfusion hx) e).1⟩

theorem witness_task_frame (h : taskFrame) :
    ∃ t, exec (.taskAddReg 1#4 2#4 3#4 0#1) (tkState (two (wr 7) (wr 1))) = .next t ∧ t.dram = (tkState (two (wr 7) (wr 1))).dram :=
  have hx : ∃ t, exec (.taskAddReg 1#4 2#4 3#4 0#1) (tkState (two (wr 7) (wr 1))) = .next t := ⟨_, rfl⟩
  hx.elim fun t e => ⟨t, e, by
    have := (h _ (List.mem_of_getElem? (i := 0) rfl) 1#4 2#4 (.reg 3#4) 0#1 0#3 _ t (site (two (wr 7) (wr 1))) rfl rfl e).1
    rw [this]⟩

end Sys2Proof.Tests
end

