-- ==== Sys2Proof/Tests/Links.lean ====
section
/-! SUPPORT. Every clause of the statements on edges and Flithe ports is met: each line applies a statement to a small state
and proves its premises there. -/

namespace Sys2Proof.Tests

open Sys2Proof.Machine Sys2Proof.Claims

/-! ## Edges -/

theorem witness_edges_had (h : edgesHad) :
    ({ x0 := 78, y0 := 34, w := 2, h := 3 } : Paddock).hasEdge 3 = true ∧ ({ x0 := 78, y0 := 34, w := 2, h := 3 } : Paddock).hasEdge 159 = true ∧
    ¬ ({ x0 := 78, y0 := 34, w := 2, h := 3 } : Paddock).hasEdge 7 = true :=
  ⟨(h { x0 := 78, y0 := 34, w := 2, h := 3 } 3 (by decide) (by decide) (by decide)).mpr
      (Or.inl ⟨79, 34, Or.inr (Or.inr (Or.inr (Or.inl ⟨rfl, rfl, by decide⟩))), by unfold holdsTile; decide⟩),
   (h { x0 := 78, y0 := 34, w := 2, h := 3 } 159 (by decide) (by decide) (by decide)).mpr
      (Or.inr (Or.inr ⟨79, by decide, rfl, by unfold holdsTile; decide, by unfold holdsTile; decide⟩)),
   fun hx => absurd ((h { x0 := 78, y0 := 34, w := 2, h := 3 } 7 (by decide) (by decide) (by decide)).mp hx)
      (by rintro (⟨x, y, hp, hd⟩ | ⟨y, _, he, _⟩ | ⟨x, _, he, _⟩)
          · simp [portSide] at hp; simp [holdsTile] at hd; omega
          · omega
          · omega)⟩

/-- A paddock of the whole grid whose plane 0 is LIVE for context 3 and plane 1 for context 4. -/
def edgeState (e : Nat) (x : Edge) (now : Nat := 100000) : State :=
  { State.reset with
    pads := [(0, { x0 := 0, y0 := 0, w := 80, h := 72, planes := [{ st := .live, ctx := 3 }, { st := .live, ctx := 4 }] })]
    edges := [(e, x)], cycle := now, arg := { index := e } }

theorem witness_edges_turn (h : edgesTurn) :
    (∃ t, exec .edgeTurnPoint (edgeState 0 { share := 40, last := 91809 }) = .next t) ∧
    (∃ t, exec .edgeTurnPoint (edgeState 0 { share := 40, target := some 30, last := 0 }) = .next t) ∧
    (∃ t, exec .edgeTurnPoint (edgeState 0 { share := 40, last := 91808, queue := [(3, 40), (4, 30)] }) = .next t) ∧
    (∃ t, exec .edgeTurnPoint (edgeState 9 { share := 3 }) = .next t) ∧ (∃ t, exec .edgeTurnPoint (edgeState 9 { share := 2 }) = .next t) ∧
    (∃ t, exec .edgeTurnPoint (edgeState 0 { share := 40, standing := [(3, 20), (4, 30)] }) = .next t) ∧
    (∃ t, exec .edgeTurnPoint (edgeState 0 { share := 30, standing := [(3, 20), (4, 30)], last := 34464 }) = .next t) ∧
    (∃ t, exec .edgeTurnPoint (edgeState 0 { share := 30, standing := [(3, 20), (4, 30)], last := 34465 }) = .next t) ∧
    (∃ t, exec .edgeTurnPoint (edgeState 0 { share := 40, asks := [(99999, 3, 8), (100000, 4, 9)] }) = .next t) :=
  ⟨answers (h (edgeState 0 { share := 40, last := 91809 }) 0 [] [] _ rfl rfl nofun nofun (.early (Or.inr (by decide)))),
   answers (h (edgeState 0 { share := 40, target := some 30, last := 0 }) 0 [] [] _ rfl rfl nofun nofun (.early (Or.inl nofun))),
   answers (h (edgeState 0 { share := 40, last := 91808, queue := [(3, 40), (4, 30)] }) 0 [(3, 40)] [(4, 30)] _ rfl rfl (by decide) (by decide)
      (.asked (r := (4, 30)) (rest := []) rfl (by decide) rfl)),
   answers (h (edgeState 9 { share := 3 }) 9 [] [] _ rfl rfl nofun nofun (.home rfl (by decide) rfl rfl (by decide))),
   answers (h (edgeState 9 { share := 2 }) 9 [] [] _ rfl rfl nofun nofun (.athome rfl (by decide) rfl rfl rfl)),
   answers (h (edgeState 0 { share := 40, standing := [(3, 20), (4, 30)] }) 0 [] [] _ rfl rfl nofun nofun
      (.first (c := 20) (rest := [30]) rfl (by decide) rfl rfl (by decide))),
   answers (h (edgeState 0 { share := 30, standing := [(3, 20), (4, 30)], last := 34464 }) 0 [] [] _ rfl rfl nofun nofun
      (.next (c := 20) rfl (by decide) rfl (by decide) (by decide) (Or.inr ⟨[], rfl⟩))),
   answers (h (edgeState 0 { share := 30, standing := [(3, 20), (4, 30)], last := 34465 }) 0 [] [] _ rfl rfl nofun nofun
      (.dwell rfl (by decide) rfl (by decide) (Or.inr (by decide)))),
   answers (h (edgeState 0 { share := 40, asks := [(99999, 3, 8), (100000, 4, 9)] }) 0 [] [(3, 8)] _ rfl rfl nofun (by decide)
      (.asked (r := (3, 8)) (rest := []) rfl (by decide) rfl))⟩

theorem witness_turns_end (h : turnsEnd) :
    (∃ t, exec .turnComplete (edgeState 0 { share := 40, target := some 30, last := 99952 }) = .next t) ∧
    (∃ t, exec .turnComplete (edgeState 0 { share := 40, target := some 30, last := 99953 }) = .next t) :=
  ⟨answers ((h (edgeState 0 { share := 40, target := some 30, last := 99952 }) 0 30 rfl rfl).1 (by decide)),
   answers ((h (edgeState 0 { share := 40, target := some 30, last := 99953 }) 0 30 rfl rfl).2 (by decide))⟩

/-! ## Frames -/

def fr (seq : Nat) (kind : BitVec 4 := 0#4) (cls : BitVec 4 := 0#4) (ack : Nat := 5) (flits : List (BitVec 256) := [0#256]) : FlitheFrame :=
  { good := true, seq := BitVec.ofNat 24 seq, ack := BitVec.ofNat 24 ack, kind, cls, flits := if kind = 0#4 then flits else [] }
/-- Port 5, which is up, in a state whose die time is 30,000 ticks; class 0 expects seq 7, and frames 4 to 6 are unacknowledged. -/
def linkCls (n : Nat := 3) : FlitheClass :=
  { seq := 7#24, expect := 7#24, unacked := (List.range n).map fun i => fr (4 + i), sentAt := 10000, ackDue := some 28000 }
def linkState (f : FlitheFrame := {}) (ok : Bool := true) (c : FlitheClass := linkCls) (other : Nat := 0) : State :=
  { State.reset with
    regs := { stage := 5, offsets := List.replicate 9 30000#64, dieTime := List.replicate 9 30000#64 }
    flithe := [(5, { up := true, resetting := true, resetAt := 0, classes := [c, linkCls] })], arg := { index := 5, other, frame := f, verdict := ok } }
theorem fr_sound : soundFrame (fr 7) ∧ soundFrame (fr 7 0#4 1#4) ∧ soundFrame (fr 7 1#4) ∧ soundFrame (fr 7 2#4) ∧ soundFrame (fr 8) := by
  unfold soundFrame
  decide

theorem witness_frames_dropped (h : framesDropped) :
    (∃ t, exec .flitheDataFrame (linkState { fr 7 with low := 1#8 }) = .next t) ∧ (∃ t, exec .flitheAckFrame (linkState (fr 7 0#4 2#4)) = .next t) ∧
    (∃ t, exec .flitheResetFrame (linkState (fr 7 0#4 0#4 5 (List.replicate 41 0#256))) = .next t) :=
  ⟨answers (h (linkState { fr 7 with low := 1#8 }) (fun hs => absurd hs.2.2.1 (by decide))).1,
   answers (h (linkState (fr 7 0#4 2#4)) (fun hs => absurd hs.2.1 (by decide))).2.1,
   answers (h (linkState (fr 7 0#4 0#4 5 (List.replicate 41 0#256))) (fun hs => absurd hs (by unfold soundFrame; decide))).2.2⟩

set_option maxRecDepth 20000 in
theorem witness_acks (h : acksRead) :
    (∃ t, (linkState).readAck 5 0 6#24 = t) ∧ (∃ t, (linkState {} true (linkCls 0)).readAck 5 0 6#24 = t) ∧
    (∃ t, (linkState).readAck 5 0 4#24 = t) ∧ (∃ t, (linkState).readAck 5 0 8#24 = t) ∧ (∃ t, (linkState {} true (linkCls 514)).readAck 5 0 6#24 = t) :=
  ⟨gives ((h (linkState) 5 0 6#24 (by decide)).1 (fr 4) [fr 5] [fr 6] rfl (by decide) (by decide) rfl),
   gives ((h (linkState {} true (linkCls 0)) 5 0 6#24 (by decide)).2.1 rfl),
   gives ((h (linkState) 5 0 4#24 (by decide)).2.2 (fr 4) _ rfl (Or.inl rfl)),
   gives ((h (linkState) 5 0 8#24 (by decide)).2.2 (fr 4) _ rfl (Or.inr (Or.inl (by decide)))),
   gives ((h (linkState {} true (linkCls 514)) 5 0 6#24 (by decide)).1 (fr 4) [fr 5] ((List.range 512).map fun i => fr (6 + i)) (by decide) (by decide) (by decide)
      rfl)⟩

theorem witness_data_frames (h : dataFrames) :
    (∃ t, exec .flitheDataFrame (linkState (fr 8)) = .next t) ∧ (∃ t, exec .flitheDataFrame (linkState (fr 7) false) = .next t) ∧
    (∃ t, exec .flitheDataFrame (linkState (fr 7)) = .next t) ∧ (∃ t, exec .flitheDataFrame (linkState (fr 7 0#4 1#4)) = .next t) :=
  ⟨answers ((h (linkState (fr 8)) 5 0 _ rfl rfl fr_sound.2.2.2.2 rfl rfl rfl).1 (Or.inl (by decide))),
   answers ((h (linkState (fr 7) false) 5 0 _ rfl rfl fr_sound.1 rfl rfl rfl).1 (Or.inr ⟨rfl, rfl⟩)),
   answers ((h (linkState (fr 7)) 5 0 _ rfl rfl fr_sound.1 rfl rfl rfl).2.1 rfl rfl rfl),
   answers ((h (linkState (fr 7 0#4 1#4)) 5 1 _ rfl rfl fr_sound.2.1 rfl rfl rfl).2.2 rfl rfl)⟩

theorem witness_control_frames (h : controlFrames) :
    (∃ t, exec .flitheAckFrame (linkState (fr 7 1#4)) = .next t) ∧ (∃ t, exec .flitheResetFrame (linkState (fr 7 2#4)) = .next t) :=
  ⟨answers ((h (linkState (fr 7 1#4)) 5 _ rfl rfl fr_sound.2.2.1 rfl).1 rfl), answers ((h (linkState (fr 7 2#4)) 5 _ rfl rfl fr_sound.2.2.2.1 rfl).2 rfl)⟩

theorem witness_port_timers (h : portTimers) :
    (∃ t, exec .flitheResendTimeout (linkState) = .next t) ∧ (∃ t, exec .flitheResendTimeout (linkState {} true { linkCls with sentAt := 10001 }) = .next t) ∧
    (∃ t, exec .flitheAckTimer (linkState) = .next t) ∧ (∃ t, exec .flitheAckTimer (linkState {} true { linkCls with ackDue := some 28001 }) = .next t) :=
  ⟨answers ((h (linkState) 5 0 rfl rfl (by decide) rfl).1 (by decide) (by decide)),
   answers ((h (linkState {} true { linkCls with sentAt := 10001 }) 5 0 rfl rfl (by decide) rfl).2.1 (Or.inr (by decide))),
   answers ((h (linkState) 5 0 rfl rfl (by decide) rfl).2.2.1 28000 rfl (by decide)),
   answers ((h (linkState {} true { linkCls with ackDue := some 28001 }) 5 0 rfl rfl (by decide) rfl).2.2.2 (Or.inr ⟨28001, rfl, by decide⟩))⟩

def oldReset : State := { linkState with regs := { stage := 5, offsets := List.replicate 9 1000000#64, dieTime := List.replicate 9 1000000#64 } }
theorem witness_links_up (h : linksUp) :
    (∃ t, exec .flitheLinkUp (linkState) = .next t) ∧ (∃ t, exec .flitheResetRepeat oldReset = .next t) ∧
    (∃ t, exec .flitheResetRepeat (linkState) = .next t) :=
  ⟨answers (h (linkState) 5 rfl).1, answers ((h oldReset 5 rfl).2.1 rfl rfl (by decide)), answers ((h (linkState) 5 rfl).2.2 (Or.inr (by decide)))⟩

set_option maxRecDepth 20000 in
theorem witness_frames_sent (h : framesSent) :
    (((linkState).sendData 5 0 [9#256]).port 5).cls 0 = (((linkState).sendData 5 0 [9#256]).port 5).cls 0 ∧
    ((linkState).sendData 5 0 [9#256]).sent = [.frame 5 { good := true, seq := 7#24, ack := 7#24, flits := [9#256] }] ∧
    ((linkState {} true (linkCls 512)).sendData 5 0 [9#256]).sent = [] :=
  ⟨rfl, (h (linkState) 5 0 [9#256] (by decide) rfl).elim fun _ e => e.1 ▸ (e.2.2.2.2.1 (by decide)).1,
   (h (linkState {} true (linkCls 512)) 5 0 [9#256] (by decide) rfl).elim fun _ e => e.1 ▸ e.2.2.2.2.2 (by decide)⟩

/-! ## Messages -/

def hd (va op size tag : Nat) : BitVec 256 := BitVec.ofNat 256 (va + op * 2 ^ 48 + size * 2 ^ 56 + 3 * 2 ^ 64 + tag * 2 ^ 96)
def askRead : PeerRequest := { header := hd 0x40 0 3 9 }
def askWrite : PeerRequest := { header := hd 0x40 1 3 9, data := [77#256] }
theorem witness_messages (h : messagesSplit) : splitRequests 40 [hd 0x40 1 3 9, 77#256, hd 0x40 0 3 9] = [askWrite, askRead] :=
  h [askWrite, askRead] (by decide) (by decide)

def peerState (q : PeerRequest) (write : Bool := true) (live : Nat := 1) : State :=
  { linkState with
    flithe := [(5, { up := true, inbox := [q] })], ctxs := [(3, { state := live, ptbase := 1#64 })], arg := { index := 5, other := 1, third := 0 }
    tlbs := [(1, { asid := 3, page := 0, bits := 16, frame := 0x10000, host := false, device := false, write })]
    dram := { marks := [0x4011] } }
theorem peer_turn (q : PeerRequest) (w : Bool) (l : Nat) : peerTurn (peerState q w l) 5 0 q := ⟨rfl, rfl, rfl, rfl, nofun⟩
theorem witness_peers (h : peersServed) :
    (∃ t, exec .homePerform (peerState askRead true 2) = .next t) ∧ (∃ t, exec .homePerform (peerState askRead) = .next t) ∧
    (∃ t, exec .homePerform (peerState askWrite) = .next t) ∧ (∃ t, exec .homePerform (peerState askWrite false) = .next t) :=
  ⟨answers ((h (peerState askRead true 2) 5 0 askRead 0x40 0 8 3 9 (peer_turn _ _ _) ⟨by decide, by decide, by decide, by decide, by decide⟩).1 (Or.inr (by decide))),
   answers (((h (peerState askRead) 5 0 askRead 0x40 0 8 3 9 (peer_turn _ _ _) ⟨by decide, by decide, by decide, by decide, by decide⟩).2.1 _ 0x10040 _
      (by decide) rfl (by decide) rfl rfl rfl).2.1 rfl rfl),
   answers (((h (peerState askWrite) 5 0 askWrite 0x40 1 8 3 9 (peer_turn _ _ _) ⟨by decide, by decide, by decide, by decide, by decide⟩).2.1 _ 0x10040 _
      (by decide) rfl (by decide) rfl rfl rfl).2.2 rfl rfl),
   answers ((h (peerState askWrite false) 5 0 askWrite 0x40 1 8 3 9 (peer_turn _ _ _) ⟨by decide, by decide, by decide, by decide, by decide⟩).2.2 _ 0x11
      (by decide) rfl (by decide) rfl rfl)⟩

/-- A peer's read that finds every request slot of its home die taken. -/
def busyPeer : State := { peerState askRead with slotsHbm := [40960, 0, 0, 0] }
theorem witness_peer_waits (h : peersServed) : ∃ t, exec .homePerform busyPeer = .next t :=
  answers (((h busyPeer 5 0 askRead 0x40 0 8 3 9 ⟨rfl, rfl, rfl, rfl, nofun⟩ ⟨by decide, by decide, by decide, by decide, by decide⟩).2.1 _ 0x10040
    busyPeer (by decide) rfl (by decide) rfl rfl rfl).1 rfl)

def peerLd : Request :=
  { id := 5, who := .node 0, acc := .load .i32 4 false, space := 5, addr := 0x40#64, loc := 0x40, size := 4, issued := 9, takes := [1, 0, 0, 0] }
def waitN : Node := { node (.ld (ga .i32 0#3 false 2#2 5#26)) onMemory with a := { toks := [dat 1], marked := 1 } }
def replyState5 : State :=
  { linkState with
    pads := [(0, { x0 := 0, y0 := 0, w := 2, h := 2, planes := [{ plane [waitN] with reqs := [peerLd] }] })]
    flithe := [(5, { up := true, tags := [(9, (p0, 5))] })] }
theorem witness_replies_come (h : repliesCome) :
    (∃ t, replyState5.takeReplies 5 40 [8#256] = t) ∧ (∃ t, replyState5.takeReplies 5 40 [BitVec.ofNat 256 (9 + 0x11 * 2 ^ 32)] = t) :=
  ⟨gives ((h replyState5 5 8#256 8 0 (by decide) (by decide)).1 rfl (by decide)),
   gives ((h replyState5 5 (BitVec.ofNat 256 (9 + 0x11 * 2 ^ 32)) 9 0x11 (by decide) (by decide)).2 p0 { plane [waitN] with reqs := [peerLd] } 0 peerLd rfl rfl rfl rfl rfl rfl
      (by decide) nofun nofun)⟩

end Sys2Proof.Tests
end

