-- ==== Sys2Proof/Tests/System.lean ====
section
/-! SUPPORT. Every clause of the statements on traps, tasks and the system is met: each line applies a statement to a small
state and proves its premises there. -/

namespace Sys2Proof.Tests

open Sys2Proof.Machine Sys2Proof.Claims

/-- A LIVE plane of colour 1; the task of colour 1 is a handler of slot 0, and that of colour 2 is bound to a frozen plane 1
whose fault of node 0 stands in slot 0. -/
def trapPlane (n : Node) : Plane := { plane [n] with colour := 1 }
def shown0 : HeldFault :=
  { who := some (.node 0), info := { cause := 0x28 }, version := 1, block := 0, slot := 0, time := 0#64, die := 0 }
def frozen0 (f : HeldFault := shown0) : Plane := { st := .frozen, colour := 2, nodes := [node (.add (ga)) onPe], shown := some f, record := some 0 }
def sysState (n : Node) (en : BitVec 8 := 0#8) (f : HeldFault := shown0) (w : Nat := 2) (h : Nat := 2) : State :=
  { State.reset with
    pads := [(0, { x0 := 0, y0 := 0, w, h, planes := [trapPlane n, frozen0 f] })], cursor := .node p0 0, cycle := 100
    ctxs := [(0, { state := 1, trapen := en, quota := 8 })]
    tasks := [(1, { serial := 1, ctx := 0, ico := 0#64, load := 0, st := .bound, plane := some p0, record := some 0 }),
              (2, { serial := 2, ctx := 0, ico := 0#64, load := 0, st := .bound, plane := some ⟨0, 1⟩ })] }

theorem sys_turn {n : Node} {en : BitVec 8} {f : HeldFault} {w h : Nat} {c : Cost} {m : Nat} (h1 : (trapPlane n).mayFire 0 n = true)
    (h2 : (grantCycle (sysState n en f w h) p0).1 = true) (h3 : (admitTimes (grantCycle (sysState n en f w h) p0).2 p0 n.place c m).1 = true)
    (h7 : (grantCycle (sysState n en f w h) p0).2.routerFree p0 n = true := by rfl) :
    NodeTurn (sysState n en f w h) p0 0 (trapPlane n) n c m := turn_of rfl rfl rfl h1 h2 h3 h7

theorem slot_turn {n : Node} {en : BitVec 8} {f : HeldFault} {w h : Nat} (h1 : (trapPlane n).mayFire 0 n = true)
    (h2 : (grantCycle (sysState n en f w h) p0).1 = true) (h3 : (grantCycle (sysState n en f w h) p0).2.routerFree p0 n = true := by rfl) :
    SlotTurn (sysState n en f w h) p0 0 (trapPlane n) n := ⟨rfl, rfl, rfl, h1, fun _ => h2, fun _ => h3⟩

/-! ## TRAP -/

def trG (opt : BitVec 2 := 0#2) : GArgs := ga .i32 0#3 false opt 18#26
def trN (a : Token) (p : List Token := []) (opt : BitVec 2 := 0#2) (gr : Grant := .none) : Node :=
  { node (.trap (trG opt)) onPe [a] [] [] p (fed := if p = [] then 1#4 else 9#4) with grant := gr }
abbrev trV (n : Node) (g : GArgs) (en : BitVec 8 := 0#8) : View := nodeView (sysState n en) (trapPlane n) 0 n g

theorem witness_trap (h : trapIssues) :
    (∃ t, exec (.trap (trG)) (sysState (trN mk3)) = .next t) ∧ (∃ t, exec (.trap (trG)) (sysState (trN bad)) = .next t) ∧
    (∃ t, exec (.trap (trG 1#2)) (sysState (trN (dat 5) [dat 0] 1#2)) = .next t) ∧
    (∃ t, exec (.trap (trG)) (sysState (trN (dat 5) [] 0#2 (.retry 0x48))) = .next t) ∧
    (∃ t, exec (.trap (trG 1#2)) (sysState (trN (dat 5) [dat 1] 1#2)) = .next t) ∧
    (∃ t, exec (.trap (trG)) (sysState (trN bad) 0x80#8) = .next t) ∧
    (∃ t, exec (.trap (trG 1#2)) (sysState (trN (dat 5) [mk3] 1#2)) = .next t) :=
  ⟨answers ((h (trG) _ p0 0 _ (trN mk3) (sys_turn rfl rfl rfl)).1 _ (.markers (v := trV (trN mk3) (trG)) (hs := [mk3]) rfl rfl rfl) rfl),
   answers ((h (trG) _ p0 0 _ (trN bad) (sys_turn rfl rfl rfl)).1 _ (.poison (v := trV (trN bad) (trG)) (hs := [bad]) rfl rfl rfl rfl) rfl),
   answers ((h (trG 1#2) _ p0 0 _ (trN (dat 5) [dat 0] 1#2) (sys_turn rfl rfl rfl)).1 _
      (.data (v := trV (trN (dat 5) [dat 0] 1#2) (trG 1#2)) (hs := [dat 5, dat 0]) rfl rfl rfl
        (.inl (by unfold trapHolds
                  rintro (h | ⟨x, hx, hb⟩)
                  · exact absurd h (by decide)
                  · obtain rfl : x = 0#64 := (Token.data.inj (Option.some.inj hx)).symm
                    exact absurd hb (by decide)))) rfl),
   answers ((h (trG) _ p0 0 _ (trN (dat 5) [] 0#2 (.retry 0x48)) (sys_turn rfl rfl rfl)).1 _
      (.data (v := trV (trN (dat 5) [] 0#2 (.retry 0x48)) (trG)) (hs := [dat 5]) rfl rfl rfl (.inr rfl)) rfl),
   answers ((h (trG 1#2) _ p0 0 _ (trN (dat 5) [dat 1] 1#2) (sys_turn rfl rfl rfl)).2 _
      (.software (v := trV (trN (dat 5) [dat 1] 1#2) (trG 1#2)) (hs := [dat 5, dat 1]) rfl rfl rfl (.inr ⟨1#64, rfl, rfl⟩) rfl)),
   answers ((h (trG) _ p0 0 _ (trN bad) (sys_turn rfl rfl rfl)).2 _ (.poison (v := trV (trN bad) (trG) 0x80#8) (hs := [bad]) rfl rfl rfl rfl)),
   answers ((h (trG 1#2) _ p0 0 _ (trN (dat 5) [mk3] 1#2) (sys_turn rfl rfl rfl)).2 _
      (.mixed (v := trV (trN (dat 5) [mk3] 1#2) (trG 1#2)) (hs := [dat 5, mk3]) rfl ⟨rfl, .inl rfl⟩))⟩

/-! ## Answers -/

def qG (fmt : BitVec 26 := 0#26) (imm : Bool := false) : GArgs := ga .n64 0#3 imm 0#2 fmt
def qN (i : Instr) (t : Token) (place : Place := onRouter) : Node := node i place [t] [] [] [] (fed := 1#4)

theorem witness_answers (h : answersData) :
    (∃ t, exec (.sysrd (qG)) (sysState (qN (.sysrd (qG)) (dat 1))) = .next t) ∧
    (∃ t, exec (.rdtime (qG)) (sysState (qN (.rdtime (qG)) (dat 1))) = .next t) ∧
    (∃ t, exec (.tconv (qG 0xF1#26 true)) (sysState (qN (.tconv (qG 0xF1#26 true)) (dat 100))) = .next t) ∧
    (∃ t, exec (.budrd (qG)) (sysState (qN (.budrd (qG)) (dat 1))) = .next t) ∧
    (∃ t, exec (.lstat (qG 0x100#26)) (sysState (qN (.lstat (qG 0x100#26)) (dat 1)) 0#8 shown0 80 72) = .next t) ∧
    (∃ t, exec (.traprd (qG)) (sysState (qN (.traprd (qG)) (dat 1) onPe)) = .next t) :=
  ⟨answers (h (.sysrd (qG)) _ p0 0 _ (qN (.sysrd (qG)) (dat 1)) (qG) 1#64 _ _ rfl (.sysrd (w := 0x8800030000000000#64) (by decide))
      (sys_turn rfl rfl rfl) rfl),
   answers (h (.rdtime (qG)) _ p0 0 _ (qN (.rdtime (qG)) (dat 1)) (qG) 1#64 _ _ rfl (.rdtime (w := 0#64) (by rfl)) (sys_turn rfl rfl rfl) rfl),
   answers (h (.tconv (qG 0xF1#26 true)) _ p0 0 _ (qN (.tconv (qG 0xF1#26 true)) (dat 100)) (qG 0xF1#26 true) 100#64 _ _ rfl
      (.tconvFrom (w := 100#64) rfl (by unfold converted; decide)) (sys_turn rfl rfl rfl) rfl),
   answers (h (.budrd (qG)) _ p0 0 _ (qN (.budrd (qG)) (dat 1)) (qG) 1#64 _ _ rfl
      (.budrd (w := BitVec.ofNat 64 (3072 * 2 ^ 16)) (x := 0) (y := 0) rfl rfl (by unfold budgetFields; decide)) (sys_turn rfl rfl rfl) rfl),
   answers (h (.lstat (qG 0x100#26)) _ p0 0 _ (qN (.lstat (qG 0x100#26)) (dat 1)) (qG 0x100#26) 1#64 _ _ rfl
      (.lstat (e := 5) (w := BitVec.ofNat 64 (40 + 40 * 2 ^ 10 + 8292 * 2 ^ 48)) rfl ⟨by decide, nofun, nofun, nofun, nofun⟩
        (by unfold edgeFields; decide)) (sys_turn rfl rfl rfl) rfl),
   answers (h (.traprd (qG)) _ p0 0 _ (qN (.traprd (qG)) (dat 1) onPe) (qG) 1#64 _ _ rfl (.traprd rfl rfl rfl) (sys_turn rfl rfl rfl) rfl)⟩

theorem witness_other_answers (h : answersOthers) :
    (∃ t, exec (.sysrd (qG)) (sysState (qN (.sysrd (qG)) mk3)) = .next t) ∧
    (∃ t, exec (.budrd (qG)) (sysState (qN (.budrd (qG)) bad)) = .next t) ∧
    (∃ t, exec (.traprd (qG)) (sysState (qN (.traprd (qG)) bad onPe) 0x80#8) = .next t) :=
  ⟨answers ((h (.sysrd (qG)) _ p0 0 _ (qN (.sysrd (qG)) mk3) (qG) mk3 (Or.inl rfl) rfl (sys_turn rfl rfl rfl)).1 _ _ _ rfl rfl),
   answers ((h (.budrd (qG)) _ p0 0 _ (qN (.budrd (qG)) bad) (qG) bad (Or.inr (Or.inr (Or.inr (Or.inl rfl)))) rfl (sys_turn rfl rfl rfl)).2.1 _
      rfl rfl rfl),
   answers ((h (.traprd (qG)) _ p0 0 _ (qN (.traprd (qG)) bad onPe) (qG) bad (Or.inr (Or.inr (Or.inr (Or.inr (Or.inr rfl))))) rfl
      (sys_turn rfl rfl rfl)).2.2 _ rfl rfl)⟩

def tcN (d : Nat) : Node := node (.tconv (qG 3#26)) onRouter [dat 100] [dat d] [] [] (fed := 3#4)
theorem witness_tconv (h : tconvPair) :
    (∃ t, exec (.tconv (qG 3#26)) (sysState (tcN 8)) = .next t) ∧ (∃ t, exec (.tconv (qG 3#26)) (sysState (tcN 15)) = .next t) ∧
    (∃ t, exec (.tconv (qG 3#26)) (sysState (tcN 9)) = .next t) :=
  ⟨answers ((h (qG 3#26) _ p0 0 _ (tcN 8) 100#64 8#64 rfl rfl rfl (sys_turn rfl rfl rfl)).1 100#64 (Or.inl (by decide))
      (by unfold converted; decide) rfl),
   answers ((h (qG 3#26) _ p0 0 _ (tcN 15) 100#64 15#64 rfl rfl rfl (sys_turn rfl rfl rfl)).1 100#64 (Or.inr (by decide))
      (by unfold converted; decide) rfl),
   answers ((h (qG 3#26) _ p0 0 _ (tcN 9) 100#64 9#64 rfl rfl rfl (sys_turn rfl rfl rfl)).2 (by decide) (by decide))⟩

def rdG : GArgs := ga .n64 0#3 false 1#2
def rdN (st : OpState) : Node := node (.traprd rdG) onPe [dat 1] [] [] [] (fed := 1#4) (st := st)
theorem witness_record_reads (h : recordReads) :
    (∃ t, exec (.traprd rdG) (sysState (rdN (.elem 15))) = .next t) ∧ (∃ t, exec (.traprd rdG) (sysState (rdN (.elem 16))) = .next t) :=
  ⟨answers ((h rdG _ p0 0 _ (rdN (.elem 15)) 1#64 _ 0 15 rfl rfl rfl rfl (sys_turn rfl rfl rfl) (Or.inl rfl)).1 (by decide) rfl),
   answers ((h rdG _ p0 0 _ (rdN (.elem 16)) 1#64 _ 0 16 rfl rfl rfl rfl (sys_turn rfl rfl rfl) (Or.inl rfl)).2 (by decide) rfl)⟩

theorem witness_privilege (h : privilegeFaults) :
    (∃ t, exec (.sysrd (qG 0x14#26)) (sysState (qN (.sysrd (qG 0x14#26)) (dat 1))) = .next t) ∧
    (∃ t, exec (.syswr (qG 0x8000#26)) (sysState (qN (.syswr (qG 0x8000#26)) (dat 1))) = .next t) :=
  ⟨answers (h _ (qG 0x14#26) _ p0 0 _ (qN (.sysrd (qG 0x14#26)) (dat 1)) 1#64 (Or.inl rfl) rfl (sys_turn rfl rfl rfl) (by decide)),
   answers (h _ (qG 0x8000#26) _ p0 0 _ (qN (.syswr (qG 0x8000#26)) (dat 1)) 1#64 (Or.inr rfl) rfl (sys_turn rfl rfl rfl) (by decide))⟩

def wrG (a : BitVec 26 := 0x7FE5#26) : GArgs := qG a
def wrN (t : Token) (a : BitVec 26 := 0x7FE5#26) : Node := qN (.syswr (wrG a)) t
theorem witness_syswr (h : writesRegister) :
    (∃ t, exec (.syswr (wrG)) (sysState (wrN (dat 0xFF))) = .next t) ∧ (∃ t, exec (.syswr (wrG 0#26)) (sysState (wrN (dat 1) 0#26)) = .next t) ∧
    (∃ t, exec (.syswr (wrG)) (sysState (wrN bad)) = .next t) ∧ (∃ t, exec (.syswr (wrG)) (sysState (wrN bad) 0x80#8) = .next t) ∧
    (∃ t, exec (.syswr (wrG)) (sysState (wrN (.marker 6#3 0#8 0#8))) = .next t) :=
  ⟨answers ((h (wrG) _ p0 0 _ (wrN (dat 0xFF)) _ rfl (sys_turn rfl rfl rfl)).1 _ rfl rfl rfl),
   answers ((h (wrG 0#26) _ p0 0 _ (wrN (dat 1) 0#26) _ rfl (sys_turn rfl rfl rfl)).2.1 _ rfl (by decide) (by decide) rfl),
   answers ((h (wrG) _ p0 0 _ (wrN bad) _ rfl (sys_turn rfl rfl rfl)).2.2.1 _ rfl rfl rfl),
   answers ((h (wrG) _ p0 0 _ (wrN bad) _ rfl (sys_turn rfl rfl rfl)).2.2.2.1 _ rfl rfl),
   answers ((h (wrG) _ p0 0 _ (wrN (.marker 6#3 0#8 0#8)) _ rfl (sys_turn rfl rfl rfl)).2.2.2.2 rfl rfl)⟩

/-! ## TRAPACK -/

def akG (opt : BitVec 2) : GArgs := ga .tok 0#3 false opt
def akN (opt : BitVec 2) (t : Token := dat 1) : Node := node (.trapack (akG opt)) onPe [t] [] [] [] (fed := 1#4)
def fatal0 : HeldFault := { shown0 with fatal := true }

theorem witness_trapack (h : acknowledges) :
    (∃ t, exec (.trapack (akG 0#2)) (sysState (akN 0#2 mk3)) = .next t) ∧ (∃ t, exec (.trapack (akG 0#2)) (sysState (akN 0#2)) = .next t) ∧
    (∃ t, exec (.trapack (akG 1#2)) (sysState (akN 1#2)) = .next t) ∧ (∃ t, exec (.trapack (akG 2#2)) (sysState (akN 2#2)) = .next t) ∧
    (∃ t, exec (.trapack (akG 0#2)) (sysState (akN 0#2) 0#8 fatal0) = .next t) :=
  ⟨answers ((h (akG 0#2) _ p0 0 _ (akN 0#2 mk3) mk3 _ 0 (sys_turn rfl rfl rfl) rfl rfl rfl rfl).1 (Or.inl rfl)),
   answers ((h (akG 0#2) _ p0 0 _ (akN 0#2) (dat 1) _ 0 (sys_turn rfl rfl rfl) rfl rfl rfl rfl).2.1 ⟨0, 1⟩ (frozen0) shown0 0 rfl (by decide)
      ⟨by rfl, by rfl, rfl⟩ rfl rfl (by decide) (by decide)),
   answers ((h (akG 1#2) _ p0 0 _ (akN 1#2) (dat 1) _ 0 (sys_turn rfl rfl rfl) rfl rfl rfl rfl).2.1 ⟨0, 1⟩ (frozen0) shown0 0 rfl (by decide)
      ⟨by rfl, by rfl, rfl⟩ rfl rfl (by decide) (by decide)),
   answers ((h (akG 2#2) _ p0 0 _ (akN 2#2) (dat 1) _ 0 (sys_turn rfl rfl rfl) rfl rfl rfl rfl).2.2 ⟨0, 1⟩ (frozen0) shown0 _ rfl (by decide)
      ⟨by rfl, by rfl, rfl⟩ (Or.inl rfl) rfl),
   answers ((h (akG 0#2) _ p0 0 _ (akN 0#2) (dat 1) _ 0 (sys_turn rfl rfl rfl) rfl rfl rfl rfl).2.2 ⟨0, 1⟩ (frozen0 fatal0) fatal0 _ rfl (by decide)
      ⟨by rfl, by rfl, rfl⟩ (Or.inr rfl) rfl)⟩

/-! ## SPAWN, DONE, TWAIT, KTURN -/

def spG (opt : BitVec 2 := 1#2) : GArgs := ga .i32 0#3 false opt 0x401#26
def spN (t : Token) (opt : BitVec 2 := 1#2) : Node := node (.spawn (spG opt)) onRouter [t] [] [] [] (fed := 1#4)
def sp0 (t : Token) (opt : BitVec 2 := 1#2) : State := { sysState (spN t opt) with ctxs := [(0, { state := 1, quota := 0 })] }

theorem first_colour_free {s : State} (h : s.task 0 = none) : s.freeColour = some 0 := by
  unfold State.freeColour
  rw [show List.range generalColours = 0 :: (List.range (generalColours - 1)).map Nat.succ from List.range_succ_eq_map]
  simp [List.find?, h]

theorem witness_spawn (h : spawns) :
    (∃ t, exec (.spawn (spG)) (sysState (spN (dat 64))) = .next t) ∧ (∃ t, exec (.spawn (spG 2#2)) (sysState (spN (dat 64) 2#2)) = .next t) ∧
    (∃ t, exec (.spawn (spG)) (sp0 (dat 64)) = .next t) ∧ (∃ t, exec (.spawn (spG)) (sysState (spN (dat (2 ^ 56)))) = .next t) ∧
    (∃ t, exec (.spawn (spG)) (sysState (spN (dat 4))) = .next t) ∧ (∃ t, exec (.spawn (spG)) (sysState (spN bad)) = .next t) ∧
    (∃ t, exec (.spawn (spG)) (sysState (spN mk3)) = .next t) :=
  ⟨((h (spG) _ p0 0 _ (spN (dat 64)) _ (slot_turn rfl rfl) rfl rfl).1 64#64 _ 0 rfl (by decide) (by decide) rfl (by decide) (first_colour_free rfl)).imp
      fun _ h => h.1,
   ((h (spG 2#2) _ p0 0 _ (spN (dat 64) 2#2) _ (slot_turn rfl rfl) rfl rfl).1 64#64 _ 0 rfl (by decide) (by decide) rfl (by decide) (first_colour_free rfl)).imp
      fun _ h => h.1,
   answers ((h (spG) (sp0 (dat 64)) p0 0 _ (spN (dat 64)) _ ⟨rfl, rfl, rfl, rfl, fun _ => rfl, fun _ => rfl⟩ rfl rfl).2.1 64#64 rfl (by decide) (by decide)
      (Or.inl (by decide))),
   answers ((h (spG) _ p0 0 _ (spN (dat (2 ^ 56))) _ (slot_turn rfl rfl) rfl rfl).2.2.1 _ rfl (by decide)),
   answers ((h (spG) _ p0 0 _ (spN (dat 4)) _ (slot_turn rfl rfl) rfl rfl).2.2.2.1 _ rfl (by decide) (by decide)),
   answers ((h (spG) _ p0 0 _ (spN bad) _ (slot_turn rfl rfl) rfl rfl).2.2.2.2.1 _ rfl),
   answers ((h (spG) _ p0 0 _ (spN mk3) _ (slot_turn rfl rfl) rfl rfl).2.2.2.2.2 rfl)⟩

def dnG : GArgs := ga .tok
def dnN (t : Token) : Node := node (.done dnG) onRouter [t] [] [] [] (fed := 1#4)
def faultedPlane (n : Node) : Plane := { trapPlane n with faults := [{ shown0 with who := some (.pe 9) }] }
def dnFault : State := { sysState (dnN (dat 1)) with pads := [(0, { x0 := 0, y0 := 0, w := 2, h := 2, planes := [faultedPlane (dnN (dat 1))] })] }
theorem witness_done (h : ends) :
    (∃ t, exec (.done dnG) (sysState (dnN mk3)) = .next t) ∧ (∃ t, exec (.done dnG) (sysState (dnN (dat 1))) = .next t) ∧
    (∃ t, exec (.done dnG) dnFault = .next t) :=
  ⟨answers ((h dnG _ p0 0 _ (dnN mk3) _ (slot_turn rfl rfl) rfl).1 rfl),
   answers ((h dnG _ p0 0 _ (dnN (dat 1)) _ (slot_turn rfl rfl) rfl).2.2 _ rfl rfl rfl),
   answers ((h dnG dnFault p0 0 (faultedPlane (dnN (dat 1))) (dnN (dat 1)) (dat 1) ⟨rfl, rfl, rfl, rfl, fun _ => rfl, fun _ => rfl⟩ rfl).2.1 rfl rfl)⟩

def twG : GArgs := ga .n64
def twN (t : Token) : Node := node (.twait twG) onRouter [t] [] [] [] (fed := 1#4)
def twState (t : Token) : State :=
  { sysState (twN t) with tasks := (3, { serial := 3, ctx := 0, ico := 0#64, load := 0, parent := some 1, handle := 9#64 }) :: (sysState (twN t)).tasks }
theorem witness_twait (h : waitsForChild) :
    (∃ t, exec (.twait twG) (twState (dat 9)) = .next t) ∧ (∃ t, exec (.twait twG) (sysState (twN (dat 9))) = .next t) ∧
    (∃ t, exec (.twait twG) (sysState (twN bad)) = .next t) ∧ (∃ t, exec (.twait twG) (sysState (twN mk3)) = .next t) :=
  ⟨answers ((h twG (twState (dat 9)) p0 0 (trapPlane (twN (dat 9))) (twN (dat 9)) _ _ rfl rfl (turn_of rfl rfl rfl rfl rfl rfl)).1 9#64 rfl
      ⟨_, List.mem_cons_self .., rfl, rfl, by decide⟩),
   answers ((h twG _ p0 0 (trapPlane (twN (dat 9))) (twN (dat 9)) _ _ rfl rfl (sys_turn rfl rfl rfl)).2.1 9#64 rfl (by decide) rfl),
   answers ((h twG _ p0 0 (trapPlane (twN bad)) (twN bad) _ _ rfl rfl (sys_turn rfl rfl rfl)).2.2.1 _ rfl),
   answers ((h twG _ p0 0 (trapPlane (twN mk3)) (twN mk3) _ _ rfl rfl (sys_turn rfl rfl rfl)).2.2.2 rfl rfl)⟩

def ktG : GArgs := ga .tok 0#3 false 0#2 0x140#26
def ktN (t : Token) : Node := node (.kturn ktG) onRouter [t] [] [] [] (fed := 1#4)
def ktState (t : Token) : State := { sysState (ktN t) 0#8 shown0 80 72 with edges := [(5, { queue := [(0, 8), (0, 16)] })] }
theorem witness_kturn (h : asksTurn) :
    (∃ t, exec (.kturn ktG) (sysState (ktN mk3)) = .next t) ∧ (∃ t, exec (.kturn ktG) (ktState (dat 1)) = .next t) ∧
    (∃ t, exec (.kturn ktG) (sysState (ktN bad) 0#8 shown0 80 72) = .next t) :=
  ⟨answers ((h ktG _ p0 0 _ (ktN mk3) _ (slot_turn rfl rfl) rfl).1 rfl rfl),
   answers ((h ktG (ktState (dat 1)) p0 0 _ (ktN (dat 1)) _ ⟨rfl, rfl, rfl, rfl, fun _ => rfl, fun _ => rfl⟩ rfl).2.1 rfl ⟨5, by decide, by decide⟩),
   ((h ktG _ p0 0 _ (ktN bad) _ (slot_turn rfl rfl) rfl).2.2 rfl (by decide) rfl).imp fun _ h => h.1⟩

end Sys2Proof.Tests
end

