-- ==== Sys2Proof/Tests/Slice0.lean ====
section
/-! SUPPORT. Ill-formed words are refused, each check by its reason code of R82 and the lowest bit of the failing field; the
specification's words decode; a few results; and the premises of the general statements are met. -/

namespace Sys2Proof.Tests

open Sys2Proof.Machine Sys2Proof.Claims

/-! ## Well-formedness: one ill-formed term for each check -/

/-- A body block of 8 slots, 2 entries and 2 exits, with waves 0 to 5, of a version and with features. -/
def env (version : Nat := 3) (features : Nat := 0) (kind : Nat := 0) : BlockEnv := ⟨version, kind, 8, 2, 2, 0, 5, features⟩
def mw (own pred succ : Nat) (sp : BitVec 3) : BitVec 26 := BitVec.ofNat 7 own ++ BitVec.ofNat 7 pred ++ BitVec.ofNat 7 succ ++ 0#2 ++ sp

theorem test_accepts : (Instr.add (ga)).wellFormed (env) = true ∧ (Instr.ld (ga .i32 0#3 false 2#2 (mw 2 1 127 2#3))).wellFormed (env) = true ∧
    (Instr.taskAddImm 1#4 2#4 0#1 5#12).wellFormed (env) = true ∧ (Instr.cvt (ga .e4m3x4 0#3 false 0#2 6#26)).wellFormed (env) = true := by decide

theorem test_refuses_version : (Instr.budrd (ga .n64 0#3 false 0#2 5#26)).refusal (env 2) = some (0x05, 56) := by decide
theorem test_refuses_kind : (Instr.traprd (ga .n64)).refusal (env) = some (0x0D, 56) := by decide
theorem test_refuses_feature : (Instr.mxsc (ga .n32)).refusal (env) = some (0x0E, 56) := by decide
theorem test_refuses_type : (Instr.fadd (ga .i32)).refusal (env) = some (0x07, 52) := by decide
theorem test_refuses_fp64 : (Instr.fadd (ga .f64)).refusal (env) = some (0x0E, 52) := by decide
theorem test_refuses_mode : (Instr.add (ga .i32 1#3)).refusal (env) = some (0x08, 46) := by decide
theorem test_refuses_immediate : (Instr.sink (ga .i32 0#3 true)).refusal (env) = some (0x08, 46) := by decide
theorem test_refuses_option : (Instr.add (ga .i32 0#3 false 1#2)).refusal (env) = some (0x08, 46) := by decide
theorem test_refuses_stochastic : (Instr.cvt (ga .bf16x2 5#3 false 0#2 4#26)).refusal (env) = some (0x0E, 46) := by decide
theorem test_refuses_target : (Instr.add { ga with tgtA := some ⟨.a, 8#7⟩ }).refusal (env) = some (0x09, 36) ∧
    (Instr.add { ga with tgtB := some ⟨.a, 8#7⟩ }).refusal (env) = some (0x09, 26) ∧
    (Instr.sink { ga with tgtA := some ⟨.a, 7#7⟩ }).refusal (env) = some (0x06, 36) := by decide
theorem test_refuses_immediate_bits : (Instr.fadd (ga .bf16x2 0#3 true 0#2 0x10000#26)).refusal (env) = some (0x06, 16) := by decide
theorem test_refuses_wave : (Instr.ld (ga .i32 0#3 false 2#2 (mw 6 127 127 2#3))).refusal (env) = some (0x0C, 19) ∧
    (Instr.ld (ga .i32 0#3 false 2#2 (mw 2 2 127 2#3))).refusal (env) = some (0x0C, 12) ∧
    (Instr.ld (ga .i32 0#3 false 2#2 (mw 2 127 2 2#3))).refusal (env) = some (0x0C, 5) := by decide
theorem test_refuses_space : (Instr.ld (ga .i32 0#3 false 2#2 (mw 2 127 127 6#3))).refusal (env) = some (0x06, 0) ∧
    (Instr.ld (ga .i32 0#3 false 2#2 (mw 2 127 127 4#3))).refusal (env) = some (0x0E, 0) ∧
    (Instr.ld (ga .i32 0#3 false 2#2 (mw 2 127 127 5#3))).refusal (env) = some (0x0E, 0) := by decide
theorem test_refuses_reserved : (Instr.mstrip (ga .i32 0#3 false 0#2 0x29#26)).refusal (env) = some (0x06, 3) := by decide
theorem test_refuses_subfield : (Instr.mstrip (ga .i32 0#3 false 0#2 0#26)).refusal (env) = some (0x06, 0) := by decide
theorem test_refuses_ports : (Instr.entry (ga .i32 0#3 false 0#2 2#26)).refusal (env) = some (0x03, 0) ∧
    (Instr.exit (ga .i32 0#3 false 0#2 2#26)).refusal (env) = some (0x03, 0) := by decide
theorem test_refuses_fork_targets : (Instr.fork (ga .i32 0#3 false 0#2 0x10000#26)).refusal (env) = some (0x06, 16) ∧
    (Instr.fork (ga .i32 0#3 false 0#2 0x40#26)).refusal (env) = some (0x06, 6) ∧
    (Instr.fork (ga .i32 0#3 false 0#2 0x2080000#26)).refusal (env) = some (0x09, 16) := by decide
theorem test_refuses_task_types : (Instr.taskNegReg 1#4 2#4 0#4 1#1).refusal (env) = some (0x07, 3) ∧
    (Instr.taskSarImm 1#4 2#4 1#1 3#12).refusal (env) = some (0x07, 16) := by decide
theorem test_refuses_task_modes : (Instr.taskCmpReg 1#4 2#4 3#4 0#1 6#3).refusal (env) = some (0x08, 0) ∧
    (Instr.taskCmpImm 1#4 2#4 0#1 6#3 0#12).refusal (env) = some (0x08, 13) ∧ (Instr.taskFaddReg 1#4 2#4 3#4 5#3).refusal (env) = some (0x08, 0) ∧
    (Instr.taskFmulImm 1#4 2#4 5#3 0#12).refusal (env) = some (0x08, 13) ∧ (Instr.taskFcmpReg 1#4 2#4 3#4 7#3).refusal (env) = some (0x08, 0) ∧
    (Instr.taskFcmpImm 1#4 2#4 7#3 0#12).refusal (env) = some (0x08, 13) := by decide
theorem test_refuses_task_fields : (Instr.taskSend 0#2 1#4 3#4 0#1).refusal (env) = some (0x06, 13) ∧
    (Instr.taskRep 3#3 1#4 0#1 1#4 0#8).refusal (env) = none ∧ (Instr.taskRep 3#3 1#4 1#1 1#4 4#8).refusal (env) = none ∧
    (Instr.taskRep 3#3 0#4 0#1 1#4 4#8).refusal (env) = none ∧ (Instr.taskStreq 8#4 0#4 5#4 0#1 1#2 1#1 2#2 2#3).refusal (env) = some (0x06, 7) ∧
    (Instr.taskStreq 8#4 0#4 5#4 0#1 0#2 0#1 2#2 2#3).refusal (env) = some (0x06, 13) ∧
    (Instr.taskStreq 9#4 0#4 5#4 0#1 0#2 1#1 3#2 2#3).refusal (env) = some (0x0D, 21) := by decide
theorem test_refuses_task_versions : (Instr.taskEmita 0#2 1#4 0#1 0#1 0#5).refusal (env 1 0x80) = some (0x05, 25) ∧
    (Instr.taskSplitDec 4#4 0#4 1#4).refusal (env) = some (0x0E, 25) ∧ (Instr.taskSplitDec 13#4 0#4 1#4).refusal (env 3 0x80) = some (0x0D, 21) ∧
    (Instr.taskSplitEnc 0#4 13#4 1#4).refusal (env 3 0x80) = some (0x0D, 17) := by decide

/-! ## Words -/

theorem test_graph_words : ∀ x ∈ graphWords, decodeTableWord 64 x.1 = some x.2 := by decide
theorem test_task_words : ∀ x ∈ taskWords, decodeTableWord 32 x.1 = some x.2 := by decide
theorem test_rejects : decodeTableWord 64 0x2205_3840_03FF_FFFB = none ∧ decodeTableWord 64 0x20D5_3840_03FF_FFFB = none ∧
    decodeTableWord 64 0x2005_1840_03FF_FFFB = none ∧ decodeTableWord 32 0x0000_0000 = none := by decide

/-! ## Results that the specification states -/

/-- The tokens that an element-wise firing will send, once it completes: one token on each of the operands a and b. -/
def sends (i : GArgs → Instr) (g : GArgs) (a b : Nat) (c : Nat := 0) (policy : BitVec 8 := 0#8) : List Token :=
  let n : Node := { node (i g) onPe [dat a] [dat b] [dat c] [] with info := { policy } }
  match exec (i g) (one n) with
  | .next t => ((t.plane? p0).map fun pl => pl.issued.flatMap fun f => (f.emits.take 1).map (·.2)).getD []
  | _ => []

/-- R152's table: ADD.n32, ADDSAT.i32, MULHI.n32, and DIV.n32 by zero. -/
theorem test_integer_table : sends .add (ga .n32) 0xFFFFFFFF 1 = [dat 0] ∧ sends .addsat (ga .i32) 0x7FFFFFFF 1 = [dat 0x7FFFFFFF] ∧
    sends .mulhi (ga .n32) 0xFFFFFFFF 0xFFFFFFFF = [dat 0xFFFFFFFE] ∧ sends .div (ga .i32) 0x80000000 0xFFFFFFFF = [dat 0x80000000] ∧
    sends .div (ga .n32) 9 0 = [dat 0xFFFFFFFF] ∧ sends .rem (ga .n32) 9 0 = [dat 9] ∧ sends .neg (ga .i32) 0x80000000 0 = [dat 0x80000000] := by decide

/-- BFX.i32 with pos 8 and pos 4, len 8, of 0x0000_F0A0. -/
theorem test_bfx : sends .bfx (ga .i32) 0xF0A0 0x1C8 = [dat 0xFFFFFFF0] ∧ sends .bfx (ga .i32) 0xF0A0 0x1C4 = [dat 0xA] := by decide

/-- FSCALE.f32 of 1.5 by -149 ties to 0x0000_0002. -/
theorem test_fscale : sends .fscale (ga .f32) 0x3FC00000 0xFFFFFF6B = [dat 2] := by decide

/-- FMA of +0, infinity and 1.0 is the default NaN; with a signalling NaN as c, that NaN made quiet (R129). -/
theorem test_fma : sends .fma (ga .f32) 0 0x7F800000 0x3F800000 = [dat 0x7FC00000] ∧
    sends .fma (ga .f32) 0 0x7F800000 0x7FA00001 = [dat 0x7FE00001] := by decide

/-- CONSTH joins its 26 bits to bits 5:0 of a (R173). -/
theorem test_consth : sends .consth (ga .f32 0#3 false 0#2 0xFED413#26) 0x33 0 = [dat 0x3FB504F3] := by decide

/-- CVT.e4m3x4.rne from=bf16x2 of 1.0, 512.0, infinity and -20.0, without and with saturation. -/
theorem test_cvt : sends .cvt (ga .e4m3x4 0#3 false 0#2 6#26) 0x44003F80 0xC1A07F80 = [dat 0xDA7F7F38] ∧
    sends .cvt (ga .e4m3x4 0#3 false 0#2 6#26) 0x44003F80 0xC1A07F80 0 0x08#8 = [dat 0xDA7E7E38] := by decide

/-- The conversion of R469's reading. -/
def clocks : State :=
  { State.reset with regs := { offsets := [0#64, BitVec.ofInt 64 (-1200), 0#64, 0#64, 300#64], rates := List.replicate 1 0x0001_0000_0000_0000#64 ++ [0x0001_0000_4000_0000#64] ++ List.replicate 7 0x0001_0000_0000_0000#64 } }
theorem test_conv : clocks.conv 5000000#64 1 15 = 4998819#64 ∧ clocks.conv 5000000#64 1 4 = 4998519#64 := by decide

/-! ## The premises of the general statements -/

def timed (a : Agenda) (s : State) : State := { s with agenda := [a] }
def addPe : TaskPe := { two (wr 7) (wr 1) with words := [0x0224_1005#32] }
def badNode : Node := { peNode with word := 0#64 }
theorem witness_steps (h : stepRuns) :
    step (timed (.fire p0 0) (one peNode)) = exec (.add (ga)) { timed (.fire p0 0) (one peNode) with agenda := [], cursor := .node p0 0 } ∧
    step (timed (.task p0 0) (tkState addPe)) = exec (.taskAddImm 1#4 2#4 0#1 5#12) { timed (.task p0 0) (tkState addPe) with agenda := [], cursor := .task p0 0 } ∧
    step (timed (.event .frameBoundary {}) (one peNode)) = exec .frameBoundary { timed (.event .frameBoundary {}) (one peNode) with agenda := [], cursor := .event, arg := {} } :=
  ⟨(h (timed (.fire p0 0) (one peNode)) (.add (ga)) []).1 p0 0 (plane [peNode]) peNode rfl rfl rfl rfl,
   (h (timed (.task p0 0) (tkState addPe)) (.taskAddImm 1#4 2#4 0#1 5#12) []).2.1 p0 0 (tkPlane addPe) addPe { chan := 0, pc := 0 } 0x0224_1005#32 rfl rfl rfl rfl rfl rfl,
   (h (timed (.event .frameBoundary {}) (one peNode)) .frameBoundary []).2.2 {} rfl⟩

def badPe : TaskPe := { addPe with words := [0#32] }
theorem witness_stops (h : stepStops) : step (timed (.fire p0 0) (one badNode)) = .fault (.undecodable 0) ∧
    step (timed (.task p0 0) (tkState badPe)) = .fault (.undecodable 0) :=
  ⟨(h (timed (.fire p0 0) (one badNode)) []).1 p0 0 (plane [badNode]) badNode _ rfl rfl rfl rfl,
   (h (timed (.task p0 0) (tkState badPe)) []).2 p0 0 (tkPlane badPe) badPe { chan := 0, pc := 0 } 0#32 _ rfl rfl rfl rfl rfl rfl⟩

theorem witness_encoding (h : encodingKept) : decodeBytes (encode (.add (ga))) = .ok (.add (ga)) ∧
    decodeBytes (encode (.taskAddImm 15#4 0#4 1#1 0xfff#12)) = .ok (.taskAddImm 15#4 0#4 1#1 0xfff#12) ∧
    decodeBytes (encode (.rangeInit (ga .n32 0#3 false 1#2 0x3FC2#26))) = .ok (.rangeInit (ga .n32 0#3 false 1#2 0x3FC2#26)) :=
  ⟨h (env) _ (by decide) (by decide), h (env) _ (by decide) (by decide), h (env 3 0x40) _ (by decide) (by decide)⟩

theorem witness_memories (h : memoriesKept) : ∃ t, step (timed (.cycles 3) (one peNode)) = .next t ∧ t.memoriesWf :=
  have hx : ∃ t, step (timed (.cycles 3) (one peNode)) = .next t := ⟨_, rfl⟩
  hx.elim fun t e => ⟨t, e, h _ t ⟨by decide, by decide, by decide, by decide, by decide⟩ e⟩

theorem test_reset_registers : State.reset.deviceReg 0x11 = some 3072#64 ∧ State.reset.deviceReg 0x1C = some 0x2424#64 ∧
    State.reset.ctxReg 1023 6 = some 0x0FC0_0007#64 ∧ State.reset.ctxReg 0 8 = some 0x4850_0000#64 := by decide
theorem test_reset_memories : State.reset.memoriesWf := ⟨by decide, by decide, by decide, by decide, by decide⟩

theorem witness_operators (h : plainOperators) :
    (∃ t, exec (.fork (ga)) (one (node (.fork (ga)) onRouter [dat 5])) = .next t) ∧
    (∃ t, exec (.mstrip (ga .i32 0#3 false 0#2 3#26)) (one (node (.mstrip (ga .i32 0#3 false 0#2 3#26)) onRouter [mk3])) = .next t) ∧
    (∃ t, exec (.mstrip (ga .i32 0#3 false 0#2 2#26)) (one (node (.mstrip (ga .i32 0#3 false 0#2 2#26)) onRouter [mk3])) = .next t) ∧
    (∃ t, exec (.ord (ga)) (one (node (.ord (ga)) onRouter [bad])) = .next t) ∧
    (∃ t, exec (.ord (ga)) (one (node (.ord (ga)) onRouter [mk5 7#8])) = .next t) ∧
    (∃ t, exec (.ord (ga .i32 0#3 false 1#2)) (one (node (.ord (ga .i32 0#3 false 1#2)) onRouter [mk5 7#8])) = .next t) :=
  ⟨answers ((h _ p0 0 (plane [node (.fork (ga)) onRouter [dat 5]]) _ (ga) (dat 5) (turn_one rfl rfl rfl) rfl).1 rfl),
   answers ((h _ p0 0 (plane [node (.mstrip (ga .i32 0#3 false 0#2 3#26)) onRouter [mk3]]) _ (ga .i32 0#3 false 0#2 3#26) mk3 (turn_one rfl rfl rfl) rfl).2.1 rfl),
   answers ((h _ p0 0 (plane [node (.mstrip (ga .i32 0#3 false 0#2 2#26)) onRouter [mk3]]) _ (ga .i32 0#3 false 0#2 2#26) mk3 (turn_one rfl rfl rfl) rfl).2.1 rfl),
   answers ((h _ p0 0 (plane [node (.ord (ga)) onRouter [bad]]) _ (ga) bad (turn_one rfl rfl rfl) rfl).2.2 rfl),
   answers ((h _ p0 0 (plane [node (.ord (ga)) onRouter [mk5 7#8]]) _ (ga) (mk5 7#8) (turn_one rfl rfl rfl) rfl).2.2 rfl),
   answers ((h _ p0 0 (plane [node (.ord (ga .i32 0#3 false 1#2)) onRouter [mk5 7#8]]) _ (ga .i32 0#3 false 1#2) (mk5 7#8) (turn_one rfl rfl rfl) rfl).2.2 rfl)⟩

def wdog (v : W64) : State := { State.reset with regs := { stage := 5 }, arg := { index := 0x14, value := v } }
theorem witness_watchdog_register (h : watchdogRegister) : (∃ t, exec .registerWrite (wdog 16#64) = .next t) ∧
    (∃ t, exec .registerWrite (wdog 40#64) = .next t) ∧ (∃ t, exec .registerWrite (wdog 15#64) = .next t) ∧
    (∃ t, exec .registerWrite (wdog 41#64) = .next t) :=
  ⟨((h.2 (wdog 16#64) rfl rfl).2.1 (by decide) (by decide)).elim fun t e => ⟨t, e.1⟩,
   ((h.2 (wdog 40#64) rfl rfl).2.1 (by decide) (by decide)).elim fun t e => ⟨t, e.1⟩,
   answers ((h.2 (wdog 15#64) rfl rfl).2.2 (by decide)), answers ((h.2 (wdog 41#64) rfl rfl).2.2 (by decide))⟩

end Sys2Proof.Tests
end

