-- ==== Sys2Proof/Tests/Traps.lean ====
section
/-! SUPPORT. Every clause of the statements on exceptions and errors is met: each line applies a statement to a small state
and proves its premises there. -/

namespace Sys2Proof.Tests

open Sys2Proof.Machine Sys2Proof.Claims

/-- A context with a handler and a trap area of one slot at address 4096. -/
def trapCtx (ta : W64 := 0x1001#64) : Ctx := { state := 1, handler := 0x0300000000000041#64, traparea := ta }
/-- Plane 0 and plane 1 of paddock 0, the task of colour 1 bound to plane 0 for the record in slot 0. -/
def trapState (pl : Plane) (x : Stimulus := {}) (c : Ctx := trapCtx) (other : Plane := { st := .config }) (m : Memory := {}) : State :=
  { State.reset with
    pads := [(0, { x0 := 0, y0 := 0, w := 2, h := 2, planes := [pl, other] })], cycle := 100, ctxs := [(0, c), (1, { state := 1 })], dram := m, arg := x
    tasks := [(1, { serial := 1, ctx := 0, ico := 0#64, load := 0, st := .bound, plane := some p0, record := some 0, tag := 9#32 }),
              (2, { serial := 2, ctx := 1, ico := 0#64, load := 0, st := .bound })] }
def hf (cause : Nat := 0x28) : HeldFault :=
  { who := some (.node 0), info := { cause, iter := some [3], opv := some [5#64, 6#64, 7#64] }, version := 1, block := 4, slot := 2, time := 77#64, die := 0 }
def tPl (st : PlaneState := .live) (faults : List HeldFault := []) : Plane := { plane [node (.add (ga)) onPe [dat 1] [mk3]] with st, colour := 1, faults }

theorem witness_detects (h : detects) :
    (∃ t, (trapState (tPl)).detectHeld p0 (hf) = t) ∧ (∃ t, (trapState { tPl .ending [hf] with freezeAt := some 105 }).detectHeld p0 (hf 0x30) = t) ∧
    (∃ t, (trapState { tPl .frozen with handler := true }).detectHeld p0 (hf) = t) ∧ (∃ t, (trapState (tPl .config)).detectHeld p0 (hf) = t) ∧
    (∃ t, (trapState { tPl with abandon := true }).detectHeld p0 (hf) = t) :=
  ⟨gives ((h (trapState (tPl)) p0 _ (hf) rfl).1 ⟨by decide, by decide, rfl⟩ rfl),
   gives ((h (trapState { tPl .ending [hf] with freezeAt := some 105 }) p0 _ (hf 0x30) rfl).1 ⟨nofun, nofun, rfl⟩ rfl),
   gives ((h (trapState { tPl .frozen with handler := true }) p0 _ (hf) rfl).2.1 _ 0 ⟨nofun, nofun, rfl⟩ rfl rfl rfl),
   gives ((h (trapState (tPl .config)) p0 _ (hf) rfl).2.2 (fun hm => hm.2.1 rfl)),
   gives ((h (trapState { tPl with abandon := true }) p0 _ (hf) rfl).2.2 (fun hm => Bool.noConfusion hm.2.2))⟩

def runningPe : TaskPe := { place := onPe, act := some { chan := 0, pc := 5 }, info := { id := 9, version := 2 } }
def pePl : Plane := { tPl with pes := [runningPe] }
theorem witness_locates (h : locates) :
    (∃ t, (trapState (tPl)).detectFault p0 (some (.node 0)) { cause := 0x28 } false = t) ∧
    (∃ t, (trapState (tPl)).detectFault p0 (some (.node 0)) { cause := 0x10, md := some 2 } false = t) ∧
    (∃ t, (trapState pePl).detectFault p0 (some (.pe 0)) { cause := 0x41 } true = t) :=
  ⟨gives ((h (trapState (tPl)) p0 _ { cause := 0x28 } false 0 rfl).1 _ rfl),
   gives ((h (trapState (tPl)) p0 _ { cause := 0x10, md := some 2 } false 0 rfl).1 _ rfl),
   gives ((h (trapState pePl) p0 pePl { cause := 0x41 } true 0 rfl).2 runningPe _ rfl rfl)⟩

theorem witness_context_fails (h : contextFails) :
    (∃ t, ((trapState (tPl)).failContext 0 3 0x28 0x30 2).ctx 0 = t) ∧ (∃ t, ((trapState (tPl)).failContext 0 3 0x28 0x30 2).ctx 1 = t) ∧
    (∃ t, ((trapState (tPl)).failContext 0 3 0x28 0x30 2).plane? p0 = t) ∧
    (∃ t, ((trapState (tPl .saving)).failContext 0 3 0x28 0x30 2).plane? p0 = t) ∧
    (∃ t, ((trapState (tPl .ending)).failContext 0 3 0x28 0x30 2).plane? p0 = t) ∧
    (∃ t, ((trapState (tPl .ending)).failContext 1 3 0x28 0x30 2).plane? p0 = t) ∧
    (∃ t, ((trapState (tPl .ending)).failContext 1 3 0x28 0x30 2).tasks = t) :=
  ⟨gives ((h (trapState (tPl)) 0 3 0x28 0x30 2 rfl).1), gives ((h (trapState (tPl)) 0 3 0x28 0x30 2 rfl).2.1 1 (by decide)),
   gives ((h (trapState (tPl)) 0 3 0x28 0x30 2 rfl).2.2.2.1 p0 _ rfl rfl rfl),
   gives ((h (trapState (tPl .saving)) 0 3 0x28 0x30 2 rfl).2.2.2.2.1 p0 _ rfl rfl rfl),
   gives ((h (trapState (tPl .ending)) 0 3 0x28 0x30 2 rfl).2.2.2.2.2.1 p0 _ rfl rfl (Or.inr (Or.inr rfl))),
   gives ((h (trapState (tPl .ending)) 1 3 0x28 0x30 2 rfl).2.2.1 p0 _ rfl (by decide)),
   gives ((h (trapState (tPl .ending)) 1 3 0x28 0x30 2 rfl).2.2.2.2.2.2.1)⟩

/-! ## Freeze and record -/

def late1 (t : Nat) (st : PlaneState := .live) : Plane := { tPl st [hf] with freezeAt := some t }
theorem witness_freezes (h : freezes) :
    (∃ t, exec .planeFreeze (trapState (late1 101)) = .next t) ∧ (∃ t, exec .planeFreeze (trapState (late1 100 .ending)) = .next t) ∧
    (∃ t, exec .planeFreeze (trapState { late1 99 with abandon := true } {} { state := 1 }) = .next t) ∧
    (∃ t, exec .planeFreeze (trapState (late1 100) {} { state := 1 }) = .next t) :=
  ⟨answers ((h (trapState (late1 101)) _ 101 rfl rfl (Or.inl rfl)).1 (by decide)),
   answers ((h (trapState (late1 100 .ending)) _ 100 rfl rfl (Or.inr rfl)).2.1 (by decide) (Or.inr ⟨rfl, rfl⟩)),
   answers ((h (trapState { late1 99 with abandon := true } {} { state := 1 }) _ 99 rfl rfl (Or.inl rfl)).2.1 (by decide) (Or.inl rfl)),
   answers ((h (trapState (late1 100) {} { state := 1 }) _ 100 rfl rfl (Or.inl rfl)).2.2 (hf) [] (by decide) rfl
      (fun ht => absurd ht.1 (by decide)) rfl)⟩

theorem slot0_free {s : State} (hv : (s.recordWord 0 0 0).getLsbD 12 = false) : lowestFree s 0 0 :=
  ⟨Nat.zero_le _, Or.inl hv, fun _ hk => absurd hk (Nat.not_lt_zero _)⟩
theorem hf_shows : showable (hf) := by
  refine ⟨by decide, by decide, by decide, by decide, by decide, by decide, ?_⟩
  decide

theorem witness_records (h : records) : ∃ t, exec .trapRecordWrite (trapState (tPl .frozen [hf])) = .next t :=
  (h (trapState (tPl .frozen [hf])) _ _ (hf) 0 (by decide) (by decide) rfl rfl rfl rfl rfl rfl rfl rfl (slot0_free rfl) hf_shows).imp fun _ e => e.1

def refusedState : State :=
  { trapState (tPl) { other := 1, index := 3 } with
    tasks := [(3, { serial := 3, ctx := 0, ico := 0#64, load := 0, st := .ready, refused := some (hf 0x60), refusedAt := 4 })] }
theorem witness_refusal_records (h : refusalRecords) : ∃ t, exec .trapRecordWrite refusedState = .next t :=
  (h refusedState _ (hf 0x60) 0 rfl (by decide) rfl rfl rfl rfl (slot0_free rfl) ⟨by decide, by decide, by decide, by decide, by decide, by decide, by decide⟩).imp
    fun _ e => e.1

def busySlot : Memory := ({} : Memory).write 4097 [0x10#8]
theorem witness_records_wait (h : recordsWait) : ∃ t, exec .trapRecordWrite (trapState (tPl .frozen [hf]) {} trapCtx { st := .config } busySlot) = .next t :=
  answers (h (trapState (tPl .frozen [hf]) {} trapCtx { st := .config } busySlot) _ (by decide) rfl (fun k hk => by
    obtain rfl : k = 0 := Nat.le_zero.mp hk
    rintro (hv | ⟨hv, _⟩)
    · exact absurd hv (by decide)
    · exact absurd hv (by decide)))

/-! ## Cycles -/

theorem nothing_freezes {pl : Plane} (h : pl.freezeAt = none := by rfl) : nothingFreezes (trapState pl) := by
  intro x hx _ t ht
  have hx : x = (p0, pl) ∨ x = (⟨0, 1⟩, { st := .config }) := by simpa [State.planes, trapState, p0] using hx
  rcases hx with rfl | rfl
  · rw [h] at ht; cases ht
  · cases ht

theorem witness_cycles (h : cyclesPass) :
    (∃ t, step (trapState { tPl .frozen with resuming := true }) = .next t) ∧ (∃ t, step (trapState (tPl)) = .next t) :=
  ⟨(h (trapState { tPl .frozen with resuming := true }) p0 _ rfl nothing_freezes rfl).elim fun _ e => e.elim fun _ e => ⟨_, e.1⟩,
   (h (trapState (tPl)) p0 _ rfl nothing_freezes rfl).elim fun _ e => e.elim fun _ e => ⟨_, e.1⟩⟩
/-- One cycle of a plane that nothing keeps, and of one that had moved. -/
theorem witness_cycle_counts (h : cyclesPass) :
    (∃ z q, step (trapState { plane [] with watchdog := 5 }) = .next z ∧ z.plane? p0 = some q ∧ q.watchdog = 6) ∧
    (∃ z q, step (trapState { plane [] with watchdog := 5, active := true }) = .next z ∧ z.plane? p0 = some q ∧ q.watchdog = 0) ∧
    (∃ z q, step (trapState { tPl with watchdog := 5, nodes := [node (.add (ga)) onPe [dat 1] [dat 1]] }) = .next z ∧ z.plane? p0 = some q ∧ q.watchdog = 0) ∧
    (∃ z q, step (trapState { tPl with watchdog := 5, reload := true }) = .next z ∧ z.plane? p0 = some q ∧ q.watchdog = 5) :=
  ⟨(h (trapState { plane [] with watchdog := 5 }) p0 _ rfl nothing_freezes rfl).imp fun _ e => e.imp fun _ e => ⟨e.1, e.2.2.1, e.2.2.2.2.2.2.2.1 rfl rfl rfl rfl⟩,
   (h (trapState { plane [] with watchdog := 5, active := true }) p0 _ rfl nothing_freezes rfl).imp fun _ e => e.imp fun _ e =>
      ⟨e.1, e.2.2.1, e.2.2.2.2.2.2.2.2.1 rfl rfl rfl rfl⟩,
   (h (trapState { tPl with watchdog := 5, nodes := [node (.add (ga)) onPe [dat 1] [dat 1]] }) p0 _ rfl nothing_freezes rfl).imp fun _ e => e.imp fun _ e =>
      ⟨e.1, e.2.2.1, e.2.2.2.2.2.2.1 rfl rfl rfl⟩,
   (h (trapState { tPl with watchdog := 5, reload := true }) p0 _ rfl nothing_freezes rfl).imp fun _ e => e.imp fun _ e =>
      ⟨e.1, e.2.2.1, e.2.2.2.2.2.1 (Or.inr rfl)⟩⟩

/-- A freeze that is due lets no cycle pass. -/
theorem witness_freeze_holds (h : freezeHolds) : ∃ t, step (trapState { tPl with freezeAt := some 0 }) = .next t :=
  ⟨_, h (trapState { tPl with freezeAt := some 0 }) p0 { tPl with freezeAt := some 0 } 0 rfl (by simp [State.planes, trapState, p0]) (Or.inl rfl) rfl (Nat.zero_le _)⟩

def tired1 (n : Nat) : Plane := { tPl with watchdog := n }
theorem witness_watchdog (h : watchdogExpires) :
    (∃ t, exec .watchdogExpiry (trapState (tired1 (2 ^ 24 - 1))) = .next t) ∧ (∃ t, exec .watchdogExpiry (trapState (tired1 (2 ^ 24))) = .next t) :=
  ⟨answers ((h (trapState (tired1 (2 ^ 24 - 1))) _ _ rfl rfl rfl rfl nofun).1 (by decide)),
   answers ((h (trapState (tired1 (2 ^ 24))) _ _ rfl rfl rfl rfl nofun).2 (by decide))⟩

/-! ## Errors -/

theorem witness_reloads (h : reloads) :
    (∃ t, exec .planeWordEccError { trapState (tPl) { verdict := true } with regs := { corrected := 0xFFFFFFFF#32 } } = .next t) ∧
    (∃ t, exec .planeWordEccError (trapState (tPl)) = .next t) ∧ (∃ t, exec .scrubCheck (trapState (tPl .frozen)) = .next t) ∧
    (∃ t, exec .scrubCheck (trapState (tPl) { verdict := true }) = .next t) ∧
    (∃ t, exec .planeReloadDone (trapState { tPl with reload := true } { verdict := true }) = .next t) :=
  ⟨answers ((h { trapState (tPl) { verdict := true } with regs := { corrected := 0xFFFFFFFF#32 } } (tPl) rfl).1 rfl),
   answers ((h (trapState (tPl)) (tPl) rfl).2.1 rfl (by decide) (by decide)),
   answers ((h (trapState (tPl .frozen)) (tPl .frozen) rfl).2.2.1 rfl (Or.inr rfl)),
   answers ((h (trapState (tPl) { verdict := true }) (tPl) rfl).2.2.2.1 rfl),
   answers ((h (trapState { tPl with reload := true } { verdict := true }) { tPl with reload := true } rfl).2.2.2.2 rfl rfl)⟩

def mfePl : Plane := { tPl with nodes := [node (.mxtile (ga)) onMfe (st := .mfe {})], pes := [{ regs := [{}, {}], chans := [qu [dat 1, dat 2]] }] }
theorem witness_state_errors (h : stateErrors) :
    (∃ t, exec .stateEccError (trapState (tPl) { site := .queue 0 0 0 }) = .next t) ∧
    (∃ t, exec .stateEccError (trapState mfePl { site := .channel 0 0 1 }) = .next t) ∧
    (∃ t, exec .stateEccError (trapState mfePl { site := .register 0 1 }) = .next t) ∧
    (∃ t, exec .stateEccError (trapState mfePl { site := .cell 0 3 }) = .next t) ∧
    (∃ t, exec .stateEccError (trapState (tPl) { site := .other 0 }) = .next t) ∧
    (∃ t, exec .stateEccError (trapState mfePl { site := .taskState 0 }) = .next t) :=
  ⟨answers ((h (trapState (tPl) { site := .queue 0 0 0 }) (tPl) rfl (by decide) (by decide)).1 0 _ 0 (dat 1) rfl rfl rfl (by decide)),
   answers ((h (trapState mfePl { site := .channel 0 0 1 }) mfePl rfl (by decide) (by decide)).2.1 0 0 1 _ _ (dat 2) rfl rfl rfl rfl (by decide)),
   answers ((h (trapState mfePl { site := .register 0 1 }) mfePl rfl (by decide) (by decide)).2.2.1 0 1 rfl),
   answers ((h (trapState mfePl { site := .cell 0 3 }) mfePl rfl (by decide) (by decide)).2.2.2.1 0 _ _ 3 rfl rfl rfl),
   answers ((h (trapState (tPl) { site := .other 0 }) (tPl) rfl (by decide) (by decide)).2.2.2.2.1 0 _ rfl rfl),
   answers ((h (trapState mfePl { site := .taskState 0 }) mfePl rfl (by decide) (by decide)).2.2.2.2.2 0 rfl)⟩

/-- A plane of one memory tile in the mode: one with a FIFO of two entries, or lines of 512 words. -/
def tilePl (mode : Nat) : Plane :=
  { tPl with tiles := [{ region := 0, mode, bytes := 4096, lines := 2, len := 512 }], fifos := [(0, [dat 1, dat 2])] }
theorem witness_sram_errors (h : sramErrors) :
    (∃ t, exec .sramEccError (trapState (tilePl 0) { index := 0, other := 40 }) = .next t) ∧
    (∃ t, exec .sramEccError (trapState (tilePl 1) { index := 0, other := 12 }) = .next t) ∧
    (∃ t, exec .sramEccError (trapState (tilePl 2) { index := 0, other := 4092 }) = .next t) :=
  ⟨answers ((h (trapState (tilePl 0) { index := 0, other := 40 }) _ _ rfl rfl (by decide)).1 rfl),
   ((h (trapState (tilePl 1) { index := 0, other := 12 }) _ _ rfl rfl (by decide)).2.1 rfl).elim fun _ e => ⟨_, e.1⟩,
   ((h (trapState (tilePl 2) { index := 0, other := 4092 }) _ _ rfl rfl (by decide)).2.2 (by decide) (by decide)).elim fun _ e => ⟨_, e.1⟩⟩

end Sys2Proof.Tests
end

