-- ==== Sys2Proof/Proofs/Steps.lean ====
section
/-! What one step of the machine does with the head of its agenda (R24, R36, R219, R225). -/

namespace Sys2Proof.Proofs

open Sys2Proof.Machine Sys2Proof.Claims

/-- A node of a plane that holds a load fetches its plane word (R90). -/
theorem nodeWord_of {s : State} {p : PlaneId} {k : Nat} {pl : Plane} {n : Node} (hp : s.plane? p = some pl)
    (hn : pl.nodes[k]? = some n) : nodeWord s p k = some n.word := by
  simp [nodeWord, hp, hn]

/-- A task-mode PE with an activation in progress fetches the word at its pc (R219, R222). -/
theorem taskWord_of {s : State} {p : PlaneId} {k : Nat} {pl : Plane} {t : TaskPe} {a : Activation} {w : W32}
    (hp : s.plane? p = some pl) (ht : pl.pes[k]? = some t) (ha : t.act = some a) (hw : t.words[a.pc]? = some w) :
    taskWord s p k = some w := by
  simp [taskWord, hp, ht, ha, hw]

/-- A step whose agenda begins with a node runs what its plane word decodes to. -/
theorem step_fire {s : State} {p : PlaneId} {k : Nat} {rest : List Agenda} {w : W64} (ha : s.agenda = .fire p k :: rest)
    (hw : nodeWord s p k = some w) :
    step s = runWord (decodeGraph w) w.toNat { s with agenda := rest, cursor := .node p k } := by
  have hw' : nodeWord { s with agenda := rest, cursor := .node p k } p k = some w := hw
  simp only [step, ha, hw']

/-- A step whose agenda begins with a task-mode PE runs what the word at its pc decodes to. -/
theorem step_task {s : State} {p : PlaneId} {k : Nat} {rest : List Agenda} {w : W32} (ha : s.agenda = .task p k :: rest)
    (hw : taskWord s p k = some w) :
    step s = runWord (decodeTask w) w.toNat { s with agenda := rest, cursor := .task p k } := by
  have hw' : taskWord { s with agenda := rest, cursor := .task p k } p k = some w := hw
  simp only [step, ha, hw']

theorem step_event {s : State} {i : Instr} {x : Stimulus} {rest : List Agenda} (ha : s.agenda = .event i x :: rest) :
    step s = exec i { s with agenda := rest, cursor := .event, arg := x } := by
  simp only [step, ha]

theorem step_runs_decoded : stepRuns := by
  intro s i rest
  refine ⟨fun p k pl n ha hp hn hd => ?_, fun p k pl t a w ha hp ht hact hw hd => ?_, fun x ha => step_event ha⟩
  · rw [step_fire ha (nodeWord_of hp hn), hd, runWord]
  · rw [step_task ha (taskWord_of hp ht hact hw), hd, runWord]

theorem step_stops_undecodable : stepStops := by
  intro s rest
  refine ⟨fun p k pl n e ha hp hn hd => ?_, fun p k pl t a w e ha hp ht hact hw hd => ?_⟩
  · rw [step_fire ha (nodeWord_of hp hn), hd, runWord]
  · rw [step_task ha (taskWord_of hp ht hact hw), hd, runWord]

/-- Settles O1: a step is exec of the word that its agenda's head fetches. -/
theorem stepRunsDecoded : Obligations.StepRunsDecoded :=
  ⟨step_runs_decoded, step_stops_undecodable⟩

end Sys2Proof.Proofs
end

