-- ==== Sys2Proof/Proofs/Elements.lean ====
section
/-! The element-wise instructions of a PE (R38, R39, R147): each runs one operation over the operands that it takes, with the
value, flags and faults of its table; what such an instruction does with faults, markers and poison then needs no table. -/

namespace Sys2Proof.Claims

open Sys2Proof.Machine

/-! ## The branches of R147 -/

section Element
variable {v : View} {ops : List Operand} {ts : List Nat} {f : List W64 → OpOut} {hs : List Token}

theorem heads_eq_some (h : ops.map v.head = hs.map some) : v.heads ops = some hs := by
  induction ops generalizing hs with
  | nil => cases hs <;> simp_all [View.heads]
  | cons o os ih =>
    cases hs with
    | nil => simp at h
    | cons t ts =>
      obtain ⟨ho, hos⟩ := List.cons.inj h
      have ih := ih hos
      simp only [View.heads] at ih ⊢
      simp [ho, ih]

/-- Heads that are all markers leave joined (R38). -/
theorem element_joins {m : Token} (h : v.heads ops = some hs) (hm : hs.any Token.isMarker = true)
    (ha : hs.all Token.isMarker = true) (hj : joinMarkers hs = some m) :
    v.element ops ts f = .fires { takes := takeOne ops, emits := toTargets ts m } := by
  simp only [View.element, h, hm, View.joined, ha, hj, if_true]

/-- Heads of which some are markers, and that do not join, fault (R38). -/
theorem element_clash (h : v.heads ops = some hs) (hm : hs.any Token.isMarker = true)
    (hc : hs.all Token.isMarker = false ∨ joinMarkers hs = none) : v.element ops ts f = v.fail ops 0x51 := by
  simp only [View.element, h, hm, View.joined, if_true]
  by_cases ha : hs.all Token.isMarker = true
  · simp only [ha, if_true, hc.resolve_left (by simp [ha])]
  · simp only [ha]
    rfl

/-- Poison whose trap is enabled faults (R39). -/
theorem element_traps_poison {q : Token} (h : v.heads ops = some hs) (hm : hs.any Token.isMarker = false)
    (hp : hs.find? Token.isPoison = some q) (ht : v.trapen.getLsbD 7 = true) : v.element ops ts f = v.fail ops 0x30 := by
  simp [View.element, h, hm, hp, View.poisonTrap, ht]

/-- Poison whose trap is off leaves as it came (R39). -/
theorem element_passes_poison {q : Token} (h : v.heads ops = some hs) (hm : hs.any Token.isMarker = false)
    (hp : hs.find? Token.isPoison = some q) (ht : v.trapen.getLsbD 7 = false) : v.element ops ts f =
      .fires { takes := takeOne ops, emits := toTargets ts q, data := v.dataOn ops, counted := true } := by
  simp only [View.element, h, hm, hp, View.poisonTrap, ht]
  rfl

/-- On data the operation's own fault is the firing's. -/
theorem element_opFault {c : Nat} (h : v.heads ops = some hs) (hm : hs.any Token.isMarker = false)
    (hp : hs.find? Token.isPoison = none) (hf : f (hs.map Token.val) = .fault c) : v.element ops ts f = v.fail ops c := by
  simp only [View.element, h, hm, hp, hf]
  rfl

/-- On data a flag that traps is the firing's fault (R132). -/
theorem element_flagFault {x : W64} {flags : FpFlags} {c : Nat} (h : v.heads ops = some hs)
    (hm : hs.any Token.isMarker = false) (hp : hs.find? Token.isPoison = none) (hf : f (hs.map Token.val) = .value x flags)
    (ht : flagFault flags (v.info.policy.getLsbD 4) v.trapen = some c) : v.element ops ts f = v.fail ops c := by
  simp only [View.element, h, hm, hp, hf, ht]
  rfl

end Element

/-! ## An instruction that runs its operation -/

/-- What an operation's table says that it answers: its fault, or its value and flags. -/
def ElementOp.answer (c : ElementOp) (v : View) (x : Operand → W64) : OpOut :=
  match c.fault v x with
  | some cause => .fault cause
  | none => .value (c.value v x).1 (c.value v x).2

theorem ElementOp.answer_fault {c : ElementOp} {v : View} {x : Operand → W64} {cause : Nat} (h : c.fault v x = some cause) :
    c.answer v x = .fault cause := by simp [ElementOp.answer, h]

theorem ElementOp.answer_value {c : ElementOp} {v : View} {x : Operand → W64} (h : c.fault v x = none) :
    c.answer v x = .value (c.value v x).1 (c.value v x).2 := by simp [ElementOp.answer, h]

/-- On a view of the word g, a rule is the element-wise firing (R147) of an operation that answers as its table says. -/
def ElementOp.Follows (c : ElementOp) (g : GArgs) (rule : View → Firing) : Prop :=
  ∀ v : View, v.g = g → ∃ f : List W64 → OpOut, rule v = v.element (c.takes g) [0, 1] f ∧
    ∀ x : Operand → W64, (c.immB = true → g.imm = true → x .b = immValue g.ty g.fmt) → f ((c.takes g).map x) = c.answer v x

/-- The instruction of a table entry is a PE firing by a rule that follows the entry. -/
def ElementOp.Runs (c : ElementOp) (g : GArgs) : Prop :=
  Operand.a ∈ c.takes g ∧ ∃ rule : View → Firing,
    (∀ s, exec (c.make g) s = firePeFor s g (c.make g) c.dep (c.ticks g) rule) ∧ c.Follows g rule

section Turn
variable {c : ElementOp} {g : GArgs} {s : State} {p : PlaneId} {k : Nat} {pl : Plane} {n : Node}

theorem nodeView_head (o : Operand) : (nodeView s pl k n g).head o = (n.queue o).head := by
  cases o <;> rfl

theorem nodeView_heads {ops : List Operand} {hs : List Token} (h : ops.map (fun o => (n.queue o).head) = hs.map some) :
    (nodeView s pl k n g).heads ops = some hs :=
  heads_eq_some ((List.map_congr_left fun o _ => nodeView_head o).trans h)

/-- In its turn the instruction issues with the outcome of its operation's element-wise firing. -/
theorem ElementOp.Runs.issues (h : c.Runs g) (ht : NodeTurn s p k pl n (cost (c.make g))) :
    ∃ f : List W64 → OpOut,
      (∀ x : Operand → W64, (c.immB = true → g.imm = true → x .b = immValue g.ty g.fmt) →
        f ((c.takes g).map x) = c.answer (nodeView s pl k n g) x) ∧
      ∀ o, (nodeView s pl k n g).element (c.takes g) [0, 1] f = o → o ≠ .wait → o.fits pl n = true →
        exec (c.make g) s = .next (c.issued s p k n g o) := by
  obtain ⟨-, rule, he, hr⟩ := h
  obtain ⟨f, hf, ha⟩ := hr (nodeView s pl k n g) rfl
  refine ⟨f, ha, fun o ho hw hfit => ?_⟩
  rw [he, firePeFor_turn ht (hf.trans ho) hw hfit]
  rfl

/-- A firing that faults needs no room at its targets. -/
theorem ElementOp.Runs.issues_fault (h : c.Runs g) (ht : NodeTurn s p k pl n (cost (c.make g))) :
    ∃ f : List W64 → OpOut,
      (∀ x : Operand → W64, (c.immB = true → g.imm = true → x .b = immValue g.ty g.fmt) →
        f ((c.takes g).map x) = c.answer (nodeView s pl k n g) x) ∧
      ∀ cause, (nodeView s pl k n g).element (c.takes g) [0, 1] f = (nodeView s pl k n g).fail (c.takes g) cause →
        exec (c.make g) s = .next (c.issued s p k n g (elementFault (nodeView s pl k n g) (c.takes g) cause)) := by
  obtain ⟨f, ha, hi⟩ := h.issues ht
  exact ⟨f, ha, fun cause ho => hi _ ho nofun rfl⟩

end Turn

/-- Data that traps issues the firing with that fault (R147). -/
theorem ElementOp.Runs.faultsOnData {c : ElementOp} {g : GArgs} (h : c.Runs g) : c.faultsOnData g := by
  intro s p k pl n x cause ht hx v hc
  obtain ⟨hq, hi⟩ := hx
  obtain ⟨f, ha, hissue⟩ := h.issues_fault ht
  have hheads : v.heads (c.takes g) = some ((c.takes g).map fun o => .data (x o)) :=
    nodeView_heads (by simpa using hq)
  have hm : ((c.takes g).map fun o => Token.data (x o)).any Token.isMarker = false := by simp [Token.isMarker]
  have hp : ((c.takes g).map fun o => Token.data (x o)).find? Token.isPoison = none := by simp [Token.isPoison]
  have hv : ((c.takes g).map fun o => Token.data (x o)).map Token.val = (c.takes g).map x := by simp [Token.val]
  rcases hc with hc | ⟨hn, hc⟩
  · exact hissue cause (element_opFault hheads hm hp (by rw [hv, ha x hi, answer_fault hc]))
  · exact hissue cause (element_flagFault hheads hm hp (by rw [hv, ha x hi, answer_value hn]) hc)

/-- Markers on every operand leave joined; others fault with 0x51 (R38). -/
theorem ElementOp.Runs.joinsMarkers {c : ElementOp} {g : GArgs} (h : c.Runs g) : c.joinsMarkers g := by
  intro s p k pl n hs ht hq
  have hheads : (nodeView s pl k n g).heads (c.takes g) = some hs := nodeView_heads hq
  refine ⟨fun m hall hj hroom => ?_, fun hany hc => ?_⟩
  · have hany : hs.any Token.isMarker = true := by
      cases hs with
      | nil => exact absurd (List.map_eq_nil_iff.1 hq) (List.ne_nil_of_mem h.1)
      | cons t ts => simp_all
    obtain ⟨f, -, hissue⟩ := h.issues ht
    exact hissue _ (element_joins hheads hany hall hj) nofun hroom
  · obtain ⟨f, -, hissue⟩ := h.issues_fault ht
    exact hissue _ (element_clash hheads hany hc)

/-- Poison faults with 0x30 where its trap is enabled and leaves on both targets otherwise (R39). -/
theorem ElementOp.Runs.passesPoison {c : ElementOp} {g : GArgs} (h : c.Runs g) : c.passesPoison g := by
  intro s p k pl n hs q ht hq hm hp v
  have hheads : v.heads (c.takes g) = some hs := nodeView_heads hq
  refine ⟨fun htrap => ?_, fun htrap hroom => ?_⟩
  · obtain ⟨f, -, hissue⟩ := h.issues_fault ht
    exact hissue _ (element_traps_poison hheads hm hp htrap)
  · obtain ⟨f, -, hissue⟩ := h.issues ht
    have hdata : v.dataOn (c.takes g) = if (n.a.head.map Token.isData).getD false then 1 else 0 := by
      simp [View.dataOn, h.1]
      rfl
    rw [← hdata]
    exact hissue _ (element_passes_poison hheads hm hp htrap) nofun hroom

/-! ## The tables -/

section Shapes
variable {c : ElementOp}

/-- An instruction with one operand a. -/
theorem runs_unary (op : View → W64 → OpOut) (ho : c.ops = [.a] := by rfl) (hi : c.immB = false := by rfl)
    (hx : ∀ g s, exec (c.make g) s = firePeFor s g (c.make g) c.dep (c.ticks g) fun v => v.unary (op v) := by intros; rfl)
    (hv : ∀ v x, op v (x .a) = c.answer v x := by intros; rfl) (g : GArgs) : c.Runs g := by
  have ht : c.takes g = [.a] := by simp [ElementOp.takes, ho, hi]
  refine ⟨by simp [ht], _, hx g, fun v _ => ⟨_, by rw [ht]; rfl, fun x _ => ?_⟩⟩
  simp [ht, hv]

/-- An instruction with operands a and b, of which b may be an immediate (R67). -/
theorem runs_binary (op : View → W64 → W64 → OpOut) (ho : c.ops = [.a, .b] := by rfl) (hi : c.immB = true := by rfl)
    (hx : ∀ g s, exec (c.make g) s = firePeFor s g (c.make g) c.dep (c.ticks g) fun v => v.binary (op v) := by intros; rfl)
    (hv : ∀ v x, op v (x .a) (x .b) = c.answer v x := by intros; rfl) (g : GArgs) : c.Runs g := by
  have ht : c.takes g = if g.imm then [.a] else [.a, .b] := by simp [ElementOp.takes, ho, hi]
  refine ⟨by rw [ht]; split <;> simp, _, hx g, ?_⟩
  rintro v rfl
  refine ⟨_, by rw [ht]; rfl, fun x hb => ?_⟩
  cases hg : v.g.imm with
  | true => simp [ht, hg, ← hv, hb hi hg]
  | false => simp [ht, hg, hv]

/-- An instruction with operands a, b and c, of which b may be an immediate (R67). -/
theorem runs_ternary (op : View → W64 → W64 → W64 → OpOut) (ho : c.ops = [.a, .b, .c] := by rfl) (hi : c.immB = true := by rfl)
    (hx : ∀ g s, exec (c.make g) s = firePeFor s g (c.make g) c.dep (c.ticks g) fun v => v.ternary (op v) := by intros; rfl)
    (hv : ∀ v x, op v (x .a) (x .b) (x .c) = c.answer v x := by intros; rfl) (g : GArgs) : c.Runs g := by
  have ht : c.takes g = if g.imm then [.a, .c] else [.a, .b, .c] := by simp [ElementOp.takes, ho, hi]
  refine ⟨by rw [ht]; split <;> simp, _, hx g, ?_⟩
  rintro v rfl
  refine ⟨_, by rw [ht]; rfl, fun x hb => ?_⟩
  cases hg : v.g.imm with
  | true => simp [ht, hg, ← hv, hb hi hg]
  | false => simp [ht, hg, hv]

/-- SEL: operands a, b and p, of which b may be an immediate (R156). -/
theorem runs_select (ho : c.ops = [.a, .b, .p] := by rfl) (hi : c.immB = true := by rfl)
    (hx : ∀ g s, exec (c.make g) s = firePeFor s g (c.make g) c.dep (c.ticks g) ruleSel := by intros; rfl)
    (hv : ∀ v x, .ok (selWord (x .p) (x .a) (x .b)) = c.answer v x := by intros; rfl) (g : GArgs) : c.Runs g := by
  have ht : c.takes g = (if g.imm then [.a] else [.a, .b]) ++ [.p] := by
    cases hg : g.imm <;> simp [ElementOp.takes, ho, hi, hg]
  refine ⟨by rw [ht]; split <;> simp, _, hx g, ?_⟩
  rintro v rfl
  refine ⟨_, by rw [ht]; rfl, fun x hb => ?_⟩
  cases hg : v.g.imm with
  | true => simp [ht, hg, ← hv, hb hi hg]
  | false => simpa [ht, hg] using hv v x

/-- FSCALE: operands a and b, neither of which is an immediate (R157). -/
theorem runs_scale (ho : c.ops = [.a, .b] := by rfl) (hi : c.immB = false := by rfl)
    (hx : ∀ g s, exec (c.make g) s = firePeFor s g (c.make g) c.dep (c.ticks g) ruleFscale := by intros; rfl)
    (hv : ∀ v x, .lanes v.g.ty (fun _ => fpScale (fmtOf v.g.ty) v.env (lane v.g.ty (x .a) 0) (tyVal .i32 (x .b))) = c.answer v x := by
      intros; rfl) (g : GArgs) : c.Runs g := by
  have ht : c.takes g = [.a, .b] := by simp [ElementOp.takes, ho, hi]
  refine ⟨by simp [ht], _, hx g, fun v _ => ⟨_, by rw [ht]; rfl, fun x _ => ?_⟩⟩
  simp [ht, hv]

end Shapes

/-- A zero divisor faults where idz is enabled, and gives the operation's value otherwise (R115, R151). -/
theorem divOut_eq_answer {v : View} {x : Operand → W64} {c : ElementOp} {y : W64} (hf : c.fault v x = divFault v x)
    (hv : c.value v x = (y, 0#5)) : divOut v (x .b) y = c.answer v x := by
  unfold divOut
  split
  next h => exact (ElementOp.answer_fault (hf.trans (if_pos h))).symm
  next h => rw [ElementOp.answer_value (hf.trans (if_neg h)), hv]; rfl

/-- The value of an operation that chooses between two wrapped results is the wrapped choice. -/
theorem wrap_choice (t : Ty) (P : Prop) [Decidable P] (y z : Int) :
    (if P then tyWrap t y else tyWrap t z) = tyWrap t (if P then y else z) := (apply_ite (tyWrap t) P y z).symm

theorem integerOps_run : ∀ c ∈ integerOps, ∀ g, c.Runs g := by
  simp only [integerOps, List.forall_mem_cons]
  exact ⟨runs_binary fun v a b => .ok (intAdd v.g.ty a b),
    runs_binary fun v a b => .ok (intSub v.g.ty a b),
    runs_binary fun v a b => .ok (intMul v.g.ty a b),
    runs_binary fun v a b => .ok (intMulhi v.g.ty a b),
    runs_ternary fun v a b c => .ok (intMad v.g.ty a b c),
    runs_binary (fun v a b => divOut v b (intDiv v.g.ty a b))
      (hv := fun v x => divOut_eq_answer rfl (by rw [intDiv, wrap_choice]; rfl)),
    runs_binary (fun v a b => divOut v b (intRem v.g.ty a b))
      (hv := fun v x => divOut_eq_answer rfl (by rw [intRem, wrap_choice]; rfl)),
    runs_unary fun v a => .ok (intNeg v.g.ty a),
    runs_unary fun v a => .ok (intAbs v.g.ty a),
    runs_binary (fun v a b => .ok (intMin v.g.ty a b)) (hv := fun v x => by rw [intMin, wrap_choice]; rfl),
    runs_binary (fun v a b => .ok (intMax v.g.ty a b)) (hv := fun v x => by rw [intMax, wrap_choice]; rfl),
    runs_binary fun v a b => .ok (intAddsat v.g.ty a b),
    runs_binary fun v a b => .ok (intSubsat v.g.ty a b), nofun⟩

theorem bitOps_run : ∀ c ∈ bitOps, ∀ g, c.Runs g := by
  simp only [bitOps, List.forall_mem_cons]
  exact ⟨runs_binary fun v a b => .ok (bitAnd v.g.ty a b),
    runs_binary fun v a b => .ok (bitOr v.g.ty a b),
    runs_binary fun v a b => .ok (bitXor v.g.ty a b),
    runs_binary fun v a b => .ok (bitAndn v.g.ty a b),
    runs_unary fun v a => .ok (bitNot v.g.ty a),
    runs_binary fun v a b => .ok (bitShl v.g.ty a b),
    runs_binary fun v a b => .ok (bitShr v.g.ty a b),
    runs_binary fun v a b => .ok (bitSar v.g.ty a b),
    runs_binary fun v a b => .ok (bitRol v.g.ty a b),
    runs_unary fun v a => .ok (bitClz v.g.ty a),
    runs_unary fun v a => .ok (bitCtz v.g.ty a),
    runs_unary fun v a => .ok (bitPopc v.g.ty a),
    runs_unary fun v a => .ok (bitBrev v.g.ty a),
    runs_binary fun v a b => .ok (bitBfx v.g.ty a b),
    runs_ternary fun v a b c => .ok (bitBfi v.g.ty a b c),
    runs_binary fun v a b => .ok (intCmp v.g.ty v.g.mode.toNat a b),
    runs_select, nofun⟩

/-! ### Floating point, lane by lane (R118) -/

def lanes1 (f : Fmt → FpEnv → Nat → Nat × FpFlags) (v : View) (a : W64) : OpOut :=
  .lanes v.g.ty fun k => f (fmtOf v.g.ty) v.env (lane v.g.ty a k)
def lanes2 (f : Fmt → FpEnv → Nat → Nat → Nat × FpFlags) (v : View) (a b : W64) : OpOut :=
  .lanes v.g.ty fun k => f (fmtOf v.g.ty) v.env (lane v.g.ty a k) (lane v.g.ty b k)
def lanes3 (f : Fmt → FpEnv → Nat → Nat → Nat → Nat × FpFlags) (v : View) (a b c : W64) : OpOut :=
  .lanes v.g.ty fun k => f (fmtOf v.g.ty) v.env (lane v.g.ty a k) (lane v.g.ty b k) (lane v.g.ty c k)

theorem floatOps_run : ∀ c ∈ floatOps, ∀ g, c.Runs g := by
  simp only [floatOps, List.forall_mem_cons]
  exact ⟨runs_binary (lanes2 fpAdd), runs_binary (lanes2 fpSub), runs_binary (lanes2 fpMul),
    runs_ternary (lanes3 (fpFused false false)), runs_ternary (lanes3 (fpFused false true)),
    runs_ternary (lanes3 (fpFused true false)),
    runs_binary fun v => lanes2 (fpMinMax v.v1 false false) v, runs_binary fun v => lanes2 (fpMinMax v.v1 true false) v,
    runs_binary (lanes2 (fpMinMax false false true)), runs_binary (lanes2 (fpMinMax false true true)),
    runs_unary (lanes1 fun f _ a => (fpAbs f a, 0#5)), runs_unary (lanes1 fun f _ a => (fpNeg f a, 0#5)),
    runs_binary (lanes2 fun f _ a b => (fpCopySign f a b, 0#5)),
    runs_binary fun v a b =>
      .value (predWord (fpCmp (fmtOf v.g.ty) v.env v.g.mode.toNat (lane v.g.ty a 0) (lane v.g.ty b 0)).1)
        (fpCmp (fmtOf v.g.ty) v.env v.g.mode.toNat (lane v.g.ty a 0) (lane v.g.ty b 0)).2,
    runs_unary fun v a => .ok (1#64 <<< fpClass (fmtOf v.g.ty) (lane v.g.ty a 0)),
    runs_unary fun v => lanes1 (fun f e a => fpRnd f e (v.g.opt.getLsbD 0) a) v,
    runs_scale, runs_binary (lanes2 (fpMinMax true false false)), nofun⟩

theorem specialOps_run : ∀ c ∈ specialOps, ∀ g, c.Runs g := by
  simp only [specialOps, List.forall_mem_cons]
  exact ⟨runs_unary (lanes1 fpRcp), runs_unary (lanes1 fpRsq), runs_unary (lanes1 fpSqrt), runs_binary (lanes2 fpDiv),
    runs_unary (lanes1 fpExp2), runs_unary (lanes1 fpLog2), runs_unary (lanes1 fpSinpi), runs_unary (lanes1 fpCospi),
    runs_unary (lanes1 fpTanh), runs_unary (lanes1 fpSigm), nofun⟩

/-! ### Lanes and constants -/

/-- PACK joins words where its type is of 64 bits, and half-words elsewhere (R168). -/
theorem packWords_eq (t : Ty) (a b : W64) : packWords t a b = if t = .i64 ∨ t = .n64 ∨ t = .f64 ∨ t = .addr
    then (b.setWidth 32 ++ a.setWidth 32 : BitVec 64) else (b.setWidth 16 ++ a.setWidth 16 : BitVec 32).setWidth 64 := by
  cases t <;> rfl

theorem laneOps_run : ∀ c ∈ laneOps, ∀ g, c.Runs g := by
  simp only [laneOps, List.forall_mem_cons]
  exact ⟨runs_binary (fun v a b => .ok (packWords v.g.ty a b)) (hv := fun v x => by rw [packWords_eq]; rfl),
    runs_unary (fun v a => .ok (unpkPart v.g.ty v.g.opt.toNat a))
      (hv := fun v x => by simp only [unpkPart, Nat.shiftRight_eq_div_pow]; rfl),
    runs_unary fun _ a => .ok a,
    runs_unary fun v _ => .ok (immValue v.g.ty v.g.fmt),
    runs_unary fun v a => .ok (consthWord v.g.fmt a),
    runs_binary fun v a b => .ok (sxtWord v.g.ty a b),
    runs_unary fun _ a => .ok a, nofun⟩

/-! ### CVT (R166) -/

/-- The two rules whose destination has lanes for a second source (R166). -/
theorem cvtRule_takes_b (src dst : Ty) : cvtRule src dst = some .narrowF32 ∨ cvtRule src dst = some .narrow8 ↔
    (src = .f32 ∧ (dst = .bf16x2 ∨ dst = .f16x2)) ∨ ((src = .bf16x2 ∨ src = .f16x2) ∧ (dst = .e4m3x4 ∨ dst = .e5m2x4)) := by
  cases src <;> cases dst <;> decide

/-- CVT answers by the rule of its pair of types. -/
theorem cvtOut_eq_convert {v : View} {src dst : Ty} {r : CvtRule} (x : Operand → W64) (hs : v.g.cvtSrc = some src)
    (hd : v.g.ty = dst) (hr : cvtRule src dst = some r) :
    cvtOut v (x .a) (x .b) = (cvtOp src dst).answer v x := by
  have hc : v.g.cvt = cvtRule src dst := by simp [GArgs.cvt, hs, hd]
  unfold cvtOut
  rw [hc, hs, hd]
  cases src <;> cases dst <;> cases hr <;> rfl

/-- A conversion without a second source reads none. -/
theorem cvtOut_ignores_b {v : View} (a b b' : W64) (h : ¬ (v.g.cvt = some .narrowF32 ∨ v.g.cvt = some .narrow8)) :
    cvtOut v a b = cvtOut v a b' := by
  unfold cvtOut
  split <;> simp_all

theorem cvt_runs {src dst : Ty} {g : GArgs} (hs : g.cvtSrc = some src) (hd : g.ty = dst)
    (hr : (cvtRule src dst).isSome = true) : (cvtOp src dst).Runs g := by
  obtain ⟨r, hr⟩ := Option.isSome_iff_exists.1 hr
  have hc : g.cvt = cvtRule src dst := by simp [GArgs.cvt, hs, hd]
  have ht : (cvtOp src dst).takes g = if g.cvt = some .narrowF32 ∨ g.cvt = some .narrow8 then [.a, .b] else [.a] := by
    simp only [ElementOp.takes, cvtOp, Bool.false_and, hc, cvtRule_takes_b]
    rfl
  refine ⟨by rw [ht]; split <;> simp, ruleCvt, fun _ => rfl, ?_⟩
  rintro v rfl
  by_cases hb : v.g.cvt = some .narrowF32 ∨ v.g.cvt = some .narrow8
  · refine ⟨_, by rw [ht, ruleCvt, if_pos hb, if_pos hb], fun x _ => ?_⟩
    simpa [ht, hb] using cvtOut_eq_convert x hs hd hr
  · refine ⟨_, by rw [ht, ruleCvt, if_neg hb, if_neg hb]; rfl, fun x _ => ?_⟩
    simpa [ht, hb, cvtOut_ignores_b _ 0#64 (x .b) hb] using cvtOut_eq_convert x hs hd hr

/-! ## Every table -/

theorem plainOps_run : ∀ c ∈ plainOps, ∀ g, c.Runs g := by
  intro c hc
  simp only [plainOps, List.mem_append] at hc
  obtain (((h | h) | h) | h) | h := hc
  · exact integerOps_run c h
  · exact bitOps_run c h
  · exact floatOps_run c h
  · exact specialOps_run c h
  · exact laneOps_run c h

/-- What holds of every instruction that runs its operation holds of the tables. -/
theorem elementTables_of_runs {P : ElementOp → GArgs → Prop} (h : ∀ c g, ElementOp.Runs c g → P c g) : elementTables P :=
  ⟨fun c hc g => h c g (plainOps_run c hc g), fun _ _ _ hs hd hr => h _ _ (cvt_runs hs hd hr)⟩

end Sys2Proof.Claims

namespace Sys2Proof.Proofs

open Sys2Proof.Claims

/-- Settles O17: every instruction of the tables runs its operation as R147 says. -/
theorem elementsFaultMarkPoison : Obligations.ElementsFaultMarkPoison :=
  ⟨elementTables_of_runs fun _ _ h => h.faultsOnData, elementTables_of_runs fun _ _ h => h.joinsMarkers,
    elementTables_of_runs fun _ _ h => h.passesPoison⟩

end Sys2Proof.Proofs
end

