-- ==== Sys2Proof/Proofs/Tables.lean ====
section
/-! Tables: a deleted entry is gone and the others stay, and a change of every value changes what is read. -/

namespace Sys2Proof.Machine

variable {α β : Type}

@[simp] theorem mapGet_mapDel_same (m : Map α) (i : Nat) : mapGet (mapDel m i) i = none := by
  induction m with
  | nil => rfl
  | cons kv rest ih =>
    obtain ⟨k, v⟩ := kv
    by_cases h : k = i <;> simp_all [mapDel, mapGet]

@[simp] theorem mapGet_mapDel_other (m : Map α) {i j : Nat} (h : j ≠ i) : mapGet (mapDel m i) j = mapGet m j := by
  induction m with
  | nil => rfl
  | cons kv rest ih =>
    obtain ⟨k, v⟩ := kv
    by_cases hk : k = i
    · have hkj : k ≠ j := fun e => h (e ▸ hk)
      simp_all [mapDel, mapGet]
    · simp_all [mapDel, mapGet]

@[simp] theorem mapGet_map (m : Map α) (f : α → β) (i : Nat) : mapGet (m.map fun x => (x.1, f x.2)) i = (mapGet m i).map f := by
  induction m with
  | nil => rfl
  | cons kv rest ih =>
    obtain ⟨k, v⟩ := kv
    by_cases h : k = i <;> simp_all [mapGet]

end Sys2Proof.Machine
end

