-- ==== Sys2Proof/Proofs/Tasks.lean ====
section
/-! The end of tasks and planes (R28, R398, R399, R405, R434, R439): what each operation of the dispatcher leaves as it was. -/

namespace Sys2Proof.Machine

variable {s z : State}

/-! ## Planes -/

/-- What a plane is depends on the paddocks alone. -/
theorem plane?_of_pads (h : z.pads = s.pads) (p : PlaneId) : z.plane? p = s.plane? p := by
  simp only [State.plane?, h]

/-- A change of every plane of every paddock changes the plane that is read. -/
theorem plane?_of_map {f : Plane → Plane} {g : Paddock → Paddock} (hg : ∀ d, (g d).planes = d.planes.map f)
    (h : z.pads = s.pads.map fun kd => (kd.1, g kd.2)) (p : PlaneId) : z.plane? p = (s.plane? p).map f := by
  simp only [State.plane?, h, mapGet_map]
  cases mapGet s.pads p.pad <;> simp [hg]

/-! ## Events (R470) -/

theorem foldl_hostWritten_pads (ls : List Nat) (s : State) : (ls.foldl (fun s l => s.hostWritten none l) s).pads = s.pads := by
  induction ls generalizing s with
  | nil => rfl
  | cons l ls ih => exact ih _

/-- An event moves no plane. -/
theorem sendEvent_pads (s : State) (kind ctx data : Nat) : (s.sendEvent kind ctx data).pads = s.pads := by
  simp only [State.sendEvent, State.writeHost]
  split
  · rfl
  · exact foldl_hostWritten_pads _ _

/-! ## The completion record (R399) -/

theorem probeDevice_congr {c : Nat} (hd : z.dram = s.dram) (hp : (z.ctx c).ptbase = (s.ctx c).ptbase) (va : W64)
    (size kind : Nat) : z.probeDevice c va size kind = s.probeDevice c va size kind := by
  simp only [State.probeDevice, State.walk, hd, hp]

theorem writeDevice_writes {c : Nat} {va v0 v1 : W64} {p q : Nat} (hp : s.probeDevice c va 8 1 = .ok p)
    (hq : s.probeDevice c (va + 8#64) 8 1 = .ok q) : s.writeDevice c va v0 v1 =
      { s with dram := (s.dram.write p (wordBytes 8 v0.toNat)).write q (wordBytes 8 v1.toNat) } := by
  simp only [State.writeDevice, hp, hq]

theorem writeDevice_faults {c e : Nat} {va v0 v1 : W64}
    (h : s.probeDevice c va 8 1 = .error e ∨ s.probeDevice c (va + 8#64) 8 1 = .error e) :
    s.writeDevice c va v0 v1 = s := by
  unfold State.writeDevice
  split
  · simp_all
  · rfl

/-- The dispatcher's write changes device memory alone. -/
theorem writeDevice_eq (s : State) (c : Nat) (va v0 v1 : W64) :
    s.writeDevice c va v0 v1 = { s with dram := (s.writeDevice c va v0 v1).dram } := by
  unfold State.writeDevice
  split <;> rfl

/-- A return value takes at most a free value. -/
theorem returnValue_eq (s : State) (t : Task) : (s.returnValue t).2 = { s with fresh := (s.returnValue t).2.fresh } := by
  unfold State.returnValue
  split
  · rfl
  · split <;> rfl

theorem completionRecord_unwanted {t : Task} (h : t.wantRet = false) : s.completionRecord t = s := by
  simp [State.completionRecord, h]

/-- The record of a task that asked for one, without the completion interrupt. -/
def State.written (s : State) (t : Task) : State :=
  (s.returnValue t).2.writeDevice t.ctx t.args (s.returnValue t).1 (BitVec.ofNat 64 (t.status + t.tag.toNat * 2 ^ 32))

theorem written_eq (s : State) (t : Task) : ∃ m f, s.written t = { s with dram := m, fresh := f } := by
  refine ⟨(s.written t).dram, (s.returnValue t).2.fresh, ?_⟩
  unfold State.written
  rw [writeDevice_eq, returnValue_eq]

theorem completionRecord_wanted {t : Task} (h : t.wantRet = true) : s.completionRecord t =
    if ((s.written t).ctx t.ctx).irq then (s.written t).sendEvent 1 t.ctx t.tag.toNat else s.written t := by
  unfold State.completionRecord
  rw [h]
  rfl

theorem completionRecord_quiet {t : Task} (h : t.wantRet = true) (hi : (s.ctx t.ctx).irq = false) :
    s.completionRecord t = s.written t := by
  obtain ⟨m, f, hz⟩ := written_eq s t
  have hi' : ((s.written t).ctx t.ctx).irq = false := by rw [hz]; exact hi
  rw [completionRecord_wanted h, hi']
  rfl

/-- Without a completion interrupt a task's completion is a write to device memory and no more. -/
theorem completionRecord_eq {t : Task} (hi : t.wantRet = false ∨ (s.ctx t.ctx).irq = false) :
    ∃ m f, s.completionRecord t = { s with dram := m, fresh := f } := by
  cases h : t.wantRet with
  | false => exact ⟨s.dram, s.fresh, completionRecord_unwanted h⟩
  | true =>
    obtain ⟨m, f, hz⟩ := written_eq s t
    exact ⟨m, f, (completionRecord_quiet h (hi.resolve_left (by simp [h]))).trans hz⟩

/-- A completion record moves no plane. -/
theorem completionRecord_pads (s : State) (t : Task) : (s.completionRecord t).pads = s.pads := by
  obtain ⟨m, f, hz⟩ := written_eq s t
  cases h : t.wantRet with
  | false => rw [completionRecord_unwanted h]
  | true =>
    rw [completionRecord_wanted h]
    split
    · rw [sendEvent_pads, hz]
    · rw [hz]

/-! ## The end of a task (R398, R403, R405) -/

theorem endTask_unawaited {c : Nat} {t : Task} (ht : s.task c = some t) (ha : t.awaited = false) :
    s.endTask c = ((s.completionRecord t).releaseDependants t.serial).dropTask c := by
  simp [State.endTask, ht, ha]

theorem deliver_plane (s : State) (k : Nat) (t : Token) (p : PlaneId) :
    (s.deliver k t).plane? p = (s.plane? p).map (·.deliver k t) :=
  plane?_of_map (g := fun d => { d with planes := d.planes.map (·.deliver k t) }) (fun _ => rfl) rfl p

/-- A FREE plane that holds nothing stays as it is when a task ends. -/
theorem endTask_plane (c : Nat) {p : PlaneId} {e : Option Nat} (hp : s.plane? p = some { entry := e }) :
    (s.endTask c).plane? p = some { entry := e } := by
  unfold State.endTask
  split
  · exact hp
  · next t ht =>
    have hr : ((s.completionRecord t).releaseDependants t.serial).plane? p = some { entry := e } :=
      (plane?_of_pads (completionRecord_pads s t) p).trans hp
    simp only
    split
    · exact (deliver_plane _ _ _ p).trans (by rw [hr]; rfl)
    · exact hr

/-- What the failure of context c makes of a plane. -/
def Plane.doomIn (c now : Nat) (pl : Plane) : Plane := if pl.ctx = c then pl.doom now else pl

theorem doomIn_free (c now : Nat) (e : Option Nat) : Plane.doomIn c now { entry := e } = { entry := e } := by
  unfold Plane.doomIn
  split <;> rfl

/-- The failure of a context leaves a FREE plane as it is (R439). -/
theorem failContext_plane (c slot first second reason : Nat) {p : PlaneId} {e : Option Nat}
    (hp : s.plane? p = some { entry := e }) :
    (s.failContext c slot first second reason).plane? p = some { entry := e } := by
  unfold State.failContext
  split
  · exact hp
  · exact (plane?_of_map (s := s) (f := Plane.doomIn c s.cycle) (g := (·.doom c s.cycle)) (fun _ => rfl) rfl p).trans
      (by rw [hp, Option.map_some, doomIn_free])

theorem modTask_eq {c : Nat} {t : Task} (f : Task → Task) (ht : s.task c = some t) : s.modTask c f = s.setTask c (f t) := by
  simp only [State.modTask, ht]

theorem modTask_pads (s : State) (c : Nat) (f : Task → Task) : (s.modTask c f).pads = s.pads := by
  unfold State.modTask
  split <;> rfl

/-- A task that ends with its plane. -/
def Task.leaves (t : Task) (result : Option Token) : Task := { t with result, plane := none }

/-- A task of no handler ends with its plane. -/
theorem endWithPlane_task {pl : Plane} {t : Task} (ht : s.task pl.colour = some t) (hh : t.handler = false) :
    s.endWithPlane pl = (s.setTask pl.colour (t.leaves pl.result)).endTask pl.colour := by
  unfold State.endWithPlane
  simp only [ht, modTask_eq _ ht]
  split
  next h _ => exact absurd (hh.symm.trans h) nofun
  next => rfl

theorem endWithPlane_plane (pl : Plane) {p : PlaneId} {e : Option Nat} (hp : s.plane? p = some { entry := e }) :
    (s.endWithPlane pl).plane? p = some { entry := e } := by
  unfold State.endWithPlane
  split
  · exact hp
  · have hm := (plane?_of_pads (modTask_pads s pl.colour fun t => { t with result := pl.result, plane := none }) p).trans hp
    simp only
    split
    · split
      · exact endTask_plane _ hm
      · exact failContext_plane _ _ _ _ _ hm
    · exact endTask_plane _ hm

/-! ## A plane goes to FREE (R28, R131) -/

section FreePlane
variable {p : PlaneId} {pl : Plane}

theorem freePlane_eq (hp : s.plane? p = some pl) : s.freePlane p =
    (({ (s.modCtx pl.ctx fun c => { c with fpflags := c.fpflags ||| pl.allFlags }).setPlane p { entry := pl.entry } with
        walks := s.walks.filter fun w => w.plane ≠ some p } : State).pruneEdges).sweepTack := by
  simp only [State.freePlane, hp]
  simp

theorem freePlane_tasks (hp : s.plane? p = some pl) : (s.freePlane p).tasks = s.tasks := by
  rw [freePlane_eq hp]
  simp [State.sweepTack, State.pruneEdges]

theorem freePlane_dram (hp : s.plane? p = some pl) : (s.freePlane p).dram = s.dram := by
  rw [freePlane_eq hp]
  simp [State.sweepTack, State.pruneEdges]

theorem freePlane_cycle (hp : s.plane? p = some pl) : (s.freePlane p).cycle = s.cycle := by
  rw [freePlane_eq hp]
  simp [State.sweepTack, State.pruneEdges]

theorem freePlane_plane (hp : s.plane? p = some pl) : (s.freePlane p).plane? p = some { entry := pl.entry } := by
  rw [freePlane_eq hp]
  have hset := State.plane_setPlane_same (s.modCtx pl.ctx fun c => { c with fpflags := c.fpflags ||| pl.allFlags }) p { entry := pl.entry }
  have hc : (s.modCtx pl.ctx fun c => { c with fpflags := c.fpflags ||| pl.allFlags }).plane? p = some pl := hp
  rw [hc] at hset
  exact hset

theorem freePlane_ctxs (hp : s.plane? p = some pl) : (s.freePlane p).ctxs =
    (s.modCtx pl.ctx fun c => { c with fpflags := c.fpflags ||| pl.allFlags }).ctxs := by
  rw [freePlane_eq hp]
  simp [State.sweepTack, State.pruneEdges]

/-- Its context has the flags of the plane joined (R131). -/
theorem freePlane_ctx_same (hp : s.plane? p = some pl) : (s.freePlane p).ctx pl.ctx =
    { s.ctx pl.ctx with fpflags := (s.ctx pl.ctx).fpflags ||| pl.allFlags } := by
  simp only [State.ctx, freePlane_ctxs hp]
  exact State.ctx_modCtx_same _ _ _

/-- What later steps of the plane's end read of a context stays. -/
theorem freePlane_ctx_keeps (hp : s.plane? p = some pl) (c : Nat) : ((s.freePlane p).ctx c).irq = (s.ctx c).irq ∧
    ((s.freePlane p).ctx c).ptbase = (s.ctx c).ptbase ∧ ((s.freePlane p).ctx c).state = (s.ctx c).state := by
  by_cases hc : c = pl.ctx
  · subst hc
    simp only [freePlane_ctx_same hp, and_self]
  · have hsame : (s.freePlane p).ctx c = s.ctx c := by
      rw [State.ctx, freePlane_ctxs hp]
      exact State.ctx_modCtx_other _ _ hc
    simp only [hsame, and_self]

end FreePlane

end Sys2Proof.Machine
end

