-- ==== Sys2Proof/Proofs/PlanesEnd.lean ====
section
/-! PLANE_FREE, ABANDONED_PLANE_FREE and CONTEXT_TEARDOWN_DONE (R28, R399, R403, R405, R434, R439). -/

namespace Sys2Proof.Proofs

open Sys2Proof.Machine Sys2Proof.Claims

variable {s z : State} {t : Task}

/-! ## The record of R399 -/

/-- The words of a record with a return value and a status: written where both can be, else nothing is. -/
theorem written_dram {v : W64} {f status : Nat} (hv : s.returnValue t = (v, { s with fresh := f })) (hs : t.status = status)
    (hle : status ≤ 2) :
    (∀ p q, s.probeDevice t.ctx t.args 8 1 = .ok p → s.probeDevice t.ctx (t.args + 8#64) 8 1 = .ok q →
      (s.written t).dram = (s.dram.write p (wordBytes 8 v.toNat)).write q (wordBytes 8 (status + t.tag.toNat * 2 ^ 32))) ∧
    ∀ e, (s.probeDevice t.ctx t.args 8 1 = .error e ∨ s.probeDevice t.ctx (t.args + 8#64) 8 1 = .error e) →
      (s.written t).dram = s.dram := by
  have hw : (BitVec.ofNat 64 (status + t.tag.toNat * 2 ^ 32)).toNat = status + t.tag.toNat * 2 ^ 32 := by
    rw [BitVec.toNat_ofNat]
    have := t.tag.isLt
    omega
  have hz : s.written t = { s with fresh := f }.writeDevice t.ctx t.args v (BitVec.ofNat 64 (status + t.tag.toNat * 2 ^ 32)) := by
    rw [State.written, hv, hs]
  refine ⟨fun p q hp hq => ?_, fun e he => ?_⟩
  · rw [hz, writeDevice_writes (s := { s with fresh := f }) hp hq, hw]
  · rw [hz, writeDevice_faults (s := { s with fresh := f }) he]

theorem written_record (ha : t.abandoned = false) (ho : t.result ≠ some .ord) (hm : ∀ l r q, t.result ≠ some (.marker l r q))
    (hb : ∀ ws, t.result ≠ some (.beat ws)) : recordWritten s t t.result (s.written t).dram := by
  cases hr : t.result with
  | none =>
    have hv : s.returnValue t = (0#64, { s with fresh := s.fresh }) := by simp [State.returnValue, hr]
    exact ⟨0#64, 1, .inl ⟨rfl, rfl, rfl⟩, written_dram hv (by simp [Task.status, ha, hr]) (by decide)⟩
  | some r =>
    cases r with
    | data v =>
      have hv : s.returnValue t = (v, { s with fresh := s.fresh }) := by
        simp [State.returnValue, hr, Token.isPoison, Token.val]
      exact ⟨v, 0, .inr (.inl ⟨rfl, rfl⟩), written_dram hv (by simp [Task.status, ha, hr, Token.isPoison]) (by decide)⟩
    | poison q =>
      have hv : s.returnValue t = (Config.freeWord s.fresh, { s with fresh := s.fresh + 1 }) := by
        simp [State.returnValue, hr, Token.isPoison]
      exact ⟨_, 2, .inr (.inr ⟨⟨q, rfl⟩, rfl⟩), written_dram hv (by simp [Task.status, ha, hr, Token.isPoison]) (by decide)⟩
    | marker l r q => exact absurd hr (hm l r q)
    | ord => exact absurd hr ho
    | beat ws => exact absurd hr (hb ws)

/-- What a record must hold depends on device memory and the context's tables alone. -/
theorem recordWritten_congr {r : Option Token} {m : Memory} (hd : z.dram = s.dram)
    (hp : (z.ctx t.ctx).ptbase = (s.ctx t.ctx).ptbase) (h : recordWritten z t r m) : recordWritten s t r m := by
  simpa only [recordWritten, probeDevice_congr hd hp, hd] using h

/-! ## The end of a task with its plane -/

theorem release_eq_released (u : Task) (serial now : Nat) : u.release serial now = released u serial now := by
  simp only [Task.release, released, eraseNat, Task.makeReady, List.contains_iff_mem, List.isEmpty_iff]

theorem releaseDependants_task (s : State) (serial c : Nat) :
    (s.releaseDependants serial).task c = (s.task c).map (released · serial s.cycle) := by
  simp only [← release_eq_released]
  exact mapGet_map s.tasks (·.release serial s.cycle) c

section EndWithPlane
variable {pl : Plane} (ht : s.task pl.colour = some t) (hh : t.handler = false) (ha : t.awaited = false)

include ht hh ha in
/-- A task of no handler that nothing awaits ends with its record, the release of its dependants and its colour. -/
theorem endWithPlane_eq : s.endWithPlane pl =
    (((s.setTask pl.colour (t.leaves pl.result)).completionRecord (t.leaves pl.result)).releaseDependants t.serial).dropTask pl.colour :=
  (endWithPlane_task ht hh).trans (endTask_unawaited (mapGet_mapSet_same _ _ _) ha)

include ht hh ha in
/-- It is gone with its plane, its dependants are released, and no context changes. -/
theorem endWithPlane_ends (hi : t.wantRet = false ∨ (s.ctx t.ctx).irq = false) :
    (s.endWithPlane pl).task pl.colour = none ∧
    (∀ c u, c ≠ pl.colour → s.task c = some u → (s.endWithPlane pl).task c = some (released u t.serial s.cycle)) ∧
    ∀ c, (s.endWithPlane pl).ctx c = s.ctx c := by
  obtain ⟨m, f, hz⟩ := completionRecord_eq (s := s.setTask pl.colour (t.leaves pl.result)) (t := t.leaves pl.result) hi
  rw [endWithPlane_eq ht hh ha, hz]
  refine ⟨mapGet_mapDel_same _ _, fun c u hne hu => ?_, fun c => rfl⟩
  refine (mapGet_mapDel_other _ hne).trans ((releaseDependants_task _ _ c).trans ?_)
  have hc : (s.setTask pl.colour (t.leaves pl.result)).task c = some u := (mapGet_mapSet_other _ _ hne).trans hu
  exact congrArg (Option.map (released · t.serial s.cycle)) hc

include ht hh ha in
theorem endWithPlane_unrecorded (hw : t.wantRet = false) : (s.endWithPlane pl).dram = s.dram := by
  rw [endWithPlane_eq ht hh ha, completionRecord_unwanted (t := t.leaves pl.result) hw]
  rfl

include ht hh ha in
theorem endWithPlane_records (hw : t.wantRet = true) (hi : (s.ctx t.ctx).irq = false) (hab : t.abandoned = false)
    (ho : pl.result ≠ some .ord) (hm : ∀ l r q, pl.result ≠ some (.marker l r q)) (hb : ∀ ws, pl.result ≠ some (.beat ws)) :
    recordWritten s t pl.result (s.endWithPlane pl).dram := by
  rw [endWithPlane_eq ht hh ha,
    completionRecord_quiet (s := s.setTask pl.colour (t.leaves pl.result)) (t := t.leaves pl.result) hw hi]
  exact written_record (s := s.setTask pl.colour (t.leaves pl.result)) (t := t.leaves pl.result) hab ho hm hb

end EndWithPlane

/-- A task after its plane has been freed. -/
theorem freePlane_task {p : PlaneId} {pl : Plane} (hp : s.plane? p = some pl) (c : Nat) : (s.freePlane p).task c = s.task c := by
  rw [State.task, freePlane_tasks hp, State.task]

/-! ## PLANE_FREE (R28) -/

theorem planeFree_frees {pl : Plane} (hp : s.plane? s.arg.plane = some pl) (hst : pl.st = .ending) (ha : pl.abandon = false)
    (hf : pl.faults = []) (hsh : pl.shown = none) (ho : s.owes s.arg.plane pl = false) (hr : s.refires pl = false) :
    exec .planeFree s = .next ((s.freePlane s.arg.plane).endWithPlane pl) := by
  change execPlaneFree s = _
  simp [execPlaneFree, hp, hst, ha, Plane.faulted, hf, hsh, ho, hr]

theorem planes_end : planesEnd := by
  intro s pl t hp hst ha hf hsh ho hr ht hh hab haw hord hmark hbeat hirq
  obtain ⟨hki, hkp, -⟩ := freePlane_ctx_keeps hp t.ctx
  have ht' := (freePlane_task hp pl.colour).trans ht
  have hirq' := hki.trans hirq
  obtain ⟨hgone, hdeps, hctxs⟩ := endWithPlane_ends ht' hh haw (.inr hirq')
  refine ⟨_, planeFree_frees hp hst ha hf hsh ho hr, endWithPlane_plane pl (freePlane_plane hp), ?_, fun hw => ?_, fun hw => ?_,
    hgone, fun c u hc hu => ?_⟩
  · rw [hctxs, freePlane_ctx_same hp]
  · exact recordWritten_congr (freePlane_dram hp) hkp (endWithPlane_records ht' hh haw hw hirq' hab hord hmark hbeat)
  · exact (endWithPlane_unrecorded ht' hh haw hw).trans (freePlane_dram hp)
  · rw [hdeps c u hc ((freePlane_task hp c).trans hu), freePlane_cycle hp]

theorem planes_end_later : planesEndLater := by
  intro s pl hp h
  change execPlaneFree s = _
  have hstays : pl.st ≠ .ending ∨ pl.abandon = true ∨ pl.faulted = true ∨ s.owes s.arg.plane pl = true ∨ s.refires pl = true := by
    rcases h with h | h | h | h | h
    · exact .inl h
    · exact .inr (.inr (.inl (by simp [Plane.faulted, h])))
    · exact .inr (.inr (.inl (by simp [Plane.faulted, Option.isSome_iff_ne_none.2 h])))
    · exact .inr (.inr (.inr (.inl h)))
    · exact .inr (.inr (.inr (.inr h)))
  simp only [execPlaneFree, hp, if_pos hstays]

/-! ## ABANDONED_PLANE_FREE (R434, R439) -/

theorem abandonedPlaneFree_frees {pl : Plane} (hp : s.plane? s.arg.plane = some pl) (ha : pl.abandon = true)
    (hf : pl.st ≠ .free) (hl : pl.st ≠ .live) (ho : s.owes s.arg.plane pl = false) :
    exec .abandonedPlaneFree s = .next (if (s.ctx pl.ctx).state = 2 then s.freePlane s.arg.plane
      else (s.freePlane s.arg.plane).endWithPlane pl) := by
  obtain ⟨-, -, hs⟩ := freePlane_ctx_keeps hp pl.ctx
  change execAbandonedPlaneFree s = _
  simp [execAbandonedPlaneFree, hp, ha, hf, hl, ho, hs]

theorem abandoned_end : abandonedEnd := by
  intro s pl hp ha
  refine ⟨fun h => ?_, fun hst ho => ?_⟩
  · have hstays : ¬ pl.abandon = true ∨ pl.st = .free ∨ pl.st = .live ∨ s.owes s.arg.plane pl = true := .inr (.inr h)
    change execAbandonedPlaneFree s = _
    simp only [execAbandonedPlaneFree, hp, if_pos hstays]
  · have hne : pl.st ≠ .free ∧ pl.st ≠ .live := by
      rcases hst with h | h | h | h <;> simp [h]
    refine ⟨_, abandonedPlaneFree_frees hp ha hne.1 hne.2 ho, ?_, fun h => ?_, fun t h ht hh haw hw => ?_⟩
    · split
      · exact freePlane_plane hp
      · exact endWithPlane_plane pl (freePlane_plane hp)
    · rw [if_pos h]
      exact freePlane_tasks hp
    · have ht' := (freePlane_task hp pl.colour).trans ht
      obtain ⟨hgone, hdeps, -⟩ := endWithPlane_ends ht' hh haw (.inl hw)
      rw [if_neg h]
      refine ⟨hgone, (endWithPlane_unrecorded ht' hh haw hw).trans (freePlane_dram hp), fun c u hc hu => ?_⟩
      rw [hdeps c u hc ((freePlane_task hp c).trans hu), freePlane_cycle hp]

/-! ## CONTEXT_TEARDOWN_DONE (R439) -/

theorem tears_down : tearsDown := by
  rintro s c rfl hst hfail
  have hany : (s.planes.any fun q => decide (q.2.ctx = s.arg.context.toNat ∧ q.2.st ≠ .free)) = true ↔
      ∃ q ∈ s.planes, q.2.ctx = s.arg.context.toNat ∧ q.2.st ≠ .free := by
    simp only [List.any_eq_true, decide_eq_true_eq]
  change (_ → execContextTeardownDone s = _) ∧ (_ → execContextTeardownDone s = _)
  refine ⟨fun hfree => if_neg ?_, fun hheld => if_pos (.inr (.inr (hany.2 hheld)))⟩
  rintro (h | h | h)
  · exact h hst
  · exact absurd (hfail.symm.trans h) nofun
  · obtain ⟨q, hq, hc, hne⟩ := hany.1 h
    exact hne (hfree q hq hc)

/-- Settles O55: a plane that may end is freed and its task ends with it; a failed context without planes is torn down. -/
theorem planesEnd : Obligations.PlanesEnd :=
  ⟨planes_end, planes_end_later, abandoned_end, tears_down⟩

end Sys2Proof.Proofs
end

