-- ==== Sys2Proof/Proofs/Replies.lean ====
section
/-! MEMORY_REPLY and ROUND_MARKER_ARRIVAL (R31, R234, R293, R300): when a reply may leave, and what its node, its task or its
tile then holds. -/

namespace Sys2Proof.Proofs

open Sys2Proof.Machine Sys2Proof.Claims

variable {s : State} {pl : Plane} {r : Request}

/-! ## The turn of a reply (R300) -/

/-- The first of its agent's requests that still reply is not held. -/
theorem replyHeld_first (h : ∀ q ∈ pl.reqs, q.who = r.who → q.id < r.id → q.lost = true) : pl.replyHeld r = false := by
  simp only [Plane.replyHeld, List.any_eq_false, decide_eq_true_eq]
  rintro q hq ⟨hw, hi, hl, -⟩
  exact hl (h q hq hw hi)

theorem replyHeld_behind {q : Request} {i : Nat} (hq : q ∈ pl.reqs) (hw : q.who = r.who) (hi : q.id < r.id) (hl : q.lost = false)
    (hn : r.who = .node i) (hc : q.chan = r.chan) : pl.replyHeld r = true := by
  have hr : q.replying = true := by simp [Request.replying, hw, hn]
  simp only [Plane.replyHeld, List.any_eq_true, decide_eq_true_eq]
  exact ⟨q, hq, hw, hi, by simp [hl], hr, hc⟩

theorem barrierHeld_of_not_pass (h : ∀ es, r.acc ≠ .pass es) : pl.barrierHeld r = false := by
  unfold Plane.barrierHeld
  split
  · next hacc => exact absurd hacc (h _)
  · rfl

theorem barrierHeld_node {i : Nat} (h : r.who = .node i) : pl.barrierHeld r = false := by
  simp [Plane.barrierHeld, h]

/-- A reply whose turn has not come stays (R300). -/
theorem memoryReply_waits (hp : s.plane? s.arg.plane = some pl) (hf : pl.reqs.find? (fun r => r.id = s.arg.index) = some r)
    (hc : ∀ m es, r.acc ≠ .close m es) (h : r.done = false ∨ pl.replyHeld r = true) : exec .memoryReply s = .next s := by
  change execMemoryReply s = _
  rcases h with h | h <;> simp [execMemoryReply, hp, hf, h]

/-- In its turn a node's reply that leaves at once leaves, and its request is over. -/
theorem memoryReply_node {i : Nat} {n : Node} (ht : ReplyTurn s pl r) (hw : r.who = .node i) (hn : pl.nodes[i]? = some n)
    (hc : ∀ m es, r.acc ≠ .close m es) (hk : ∀ k, r.acc ≠ .child k) (hg : replyGroup r.replies = (r.replies, []))
    (hroom : pl.canEmit n r.replies = true) : exec .memoryReply s =
      .next (s.setPlane s.arg.plane { (pl.emitReply i n r r.replies).advanceReply r [] with active := true }) := by
  obtain ⟨hlive, hreload⟩ := ht.moves
  have hserial : r.acc.serial = none := by
    unfold Access.serial
    split
    · next k hacc => exact absurd hacc (hk k)
    · rfl
  change execMemoryReply s = _
  simp [execMemoryReply, ht.plane, ht.found, ht.done, ht.alive, replyHeld_first ht.first, barrierHeld_node hw, hlive, hreload,
    hg, hw, hn, hroom, hserial]

/-! ## A node after its reply (R31, R189, R300) -/

theorem modifyAt_congr {α : Type} {l : List α} {i : Nat} {x : α} {f g : α → α} (hx : l[i]? = some x) (h : f x = g x) :
    modifyAt l i f = modifyAt l i g := by
  refine List.ext_getElem? fun j => ?_
  by_cases hj : j = i
  · subst hj
    simp [hx, h]
  · rw [modifyAt_get_other _ _ hj, modifyAt_get_other _ _ hj]

theorem modNode_congr {i : Nat} {n : Node} {f g : Node → Node} (hn : pl.nodes[i]? = some n) (h : f n = g n) :
    pl.modNode i f = pl.modNode i g := by
  rw [Plane.modNode, Plane.modNode, modifyAt_congr hn h]

theorem isStream_iff (n : Node) : n.isStream = true ↔ streamNode n := by
  unfold Node.isStream streamNode
  split <;> simp_all

/-- Only a pull, and a marker that passes a RANGE.pull, moves the round counter of the node that it leaves (R189). -/
theorem roundAfterReply_same {n : Node} {acc : Access} (ha : ∀ a b c, acc ≠ .rangePull a b c)
    (hi : ∀ g, n.instr ≠ some (.rangePull g)) (g : List (Nat × Token)) : n.roundAfterReply acc g = n.round := by
  unfold Node.roundAfterReply
  split
  · rfl
  · exact absurd rfl (ha _ _ _)
  · split
    · next h => exact absurd h (hi _)
    · rfl

theorem stamped_same {n : Node} {acc : Access} (ha : ∀ a b c, acc ≠ .rangePull a b c) (he : ∀ es, acc ≠ .ending es)
    (g : List (Nat × Token)) : n.stamped acc g = g := by
  unfold Node.stamped
  split
  · exact absurd rfl (ha _ _ _)
  · exact absurd rfl (he _)
  · rfl

/-- The reply of a node that is no stream and pulls no range. -/
theorem emitReply_plain {i : Nat} {n : Node} (hn : pl.nodes[i]? = some n) (ha : ∀ a b c, r.acc ≠ .rangePull a b c)
    (hi : ∀ g, n.instr ≠ some (.rangePull g)) (hs : ¬ streamNode n) (he : ∀ es, r.acc ≠ .ending es) (g : List (Nat × Token)) :
    pl.emitReply i n r g = (pl.modNode i (repliedNode · g)).emitAll n g := by
  have hpois : n.poisAfter g = false := by
    simp [Node.poisAfter, Bool.eq_false_iff.2 (mt (isStream_iff n).1 hs)]
  simp only [Plane.emitReply, stamped_same ha he, roundAfterReply_same ha hi, hpois]
  rw [modNode_congr hn]
  rfl

theorem advanceReply_last (pl : Plane) (r : Request) :
    pl.advanceReply r [] = { pl with reqs := pl.reqs.filter fun x => x.id ≠ r.id } := rfl

theorem replyGroup_both (t u : Token) : replyGroup [(0, t), (1, u)] = ([(0, t), (1, u)], []) := rfl
theorem replyGroup_one (k : Nat) (t : Token) : replyGroup [(k, t)] = ([(k, t)], []) := rfl

theorem replies_leave : repliesLeave := by
  intro s pl r
  refine ⟨fun i n ht hw hn hk hc ha hi hs he hr hroom => ?_, fun q hp hf hc h => ?_⟩
  · have hg : replyGroup r.replies = (r.replies, []) := by
      rcases hr with ⟨t, hr⟩ | ⟨t, hr⟩ <;> rw [hr]
      · exact replyGroup_both t t
      · exact replyGroup_one 0 t
    rw [memoryReply_node ht hw hn hc hk hg hroom, advanceReply_last, emitReply_plain hn ha hi hs he]
    simp
  · rcases h with h | ⟨hq, hw, hi, hl, ⟨i, hn⟩, hch⟩
    · exact memoryReply_waits hp hf hc (.inl h)
    · exact memoryReply_waits hp hf hc (.inr (replyHeld_behind hq hw hi hl hn hch))

/-- The closing marker of a stream as its node sends it (R31). -/
theorem streams_close : streamsClose := by
  intro s pl r i n es l rd st ht hw hn hs ha hr hl m hroom
  have hi : ∀ g, n.instr ≠ some (.rangePull g) := by
    rintro g hg
    obtain ⟨g', h | h⟩ := hs <;> simp [hg] at h
  have hg : replyGroup r.replies = (r.replies, []) := by rw [hr]; rfl
  rw [memoryReply_node ht hw hn (by simp [ha]) (by simp [ha]) hg hroom, advanceReply_last]
  have hm : n.stamped r.acc r.replies = [(0, m), (1, m)] := by
    simp only [ha, hr, Node.stamped, m]
    split <;> rfl
  have hbar : barrierIn [(0, m), (1, m)] = 0 := by
    have hlevel : decide (6 ≤ m.level) = false := decide_eq_false (Nat.not_le.2 hl)
    simp [barrierIn, hlevel]
  have hpois : n.poisAfter r.replies = false := by simp [Node.poisAfter, hr, Token.isMarker]
  have hround : n.roundAfterReply r.acc r.replies = n.round := roundAfterReply_same (by simp [ha]) hi _
  have hpl : pl.emitReply i n r r.replies = (pl.modNode i fun x => { x with pois := false }).emitAll n [(0, m), (1, m)] := by
    simp only [Plane.emitReply, hm, hround, hpois, hbar]
    rw [modNode_congr hn]
    rfl
  rw [hpl]
  simp

/-! ## A task's reply (R234) -/

theorem task_replies : taskReplies := by
  intro s pl r k j t ht hw hr hpass hc hk
  obtain ⟨hlive, hreload⟩ := ht.moves
  refine ⟨r.wide && t.isData, ?_, fun h => (Bool.and_eq_true_iff.1 h).2⟩
  change execMemoryReply s = _
  simp [execMemoryReply, ht.plane, ht.found, ht.done, ht.alive, replyHeld_first ht.first, barrierHeld_of_not_pass hpass, hlive,
    hreload, hr, replyGroup_one, hw, advanceReply_last]

/-! ## Rounds (R293) -/

/-- The tile's round with the marker of an input arrived, and the round that follows it where no input is left. -/
def withArrival (t : RoundTile) (i : Nat) (m : Token) (closes : Bool) : RoundTile :=
  if closes then { counter := t.counter + 1#8, closed := t.closed + 1 } else { t with arrived := t.arrived ++ [(i, m)] }

section Rounds
variable {m : Token} {es : List (Nat × Token)} {i : Nat} {t : RoundTile} (hp : s.plane? s.arg.plane = some pl)
  (hf : pl.reqs.find? (fun r => r.id = s.arg.index) = some r) (ha : r.acc = .close m es) (hw : r.who = .node i)
  (hs : r.space ≠ 2) (hmem : s.arg.other ∈ pl.roundedTiles) (ht : pl.roundTile s.arg.other = t) (hr : r.round = t.closed + 1)
  (hn : ∀ a ∈ t.arrived, a.1 ≠ i) (ho : pl.roundOwes r s.arg.other = false)

include hp hf ha hw hs hmem ht hr hn ho in
/-- What the arrival of a marker in its turn at a memory tile does. -/
theorem roundMarkerArrival_turn : exec .roundMarkerArrival s =
    if m.round ≠ t.counter then
      .next (s.detectFault s.arg.plane (some r.who) { cause := 0x51, iter := r.iter, opv := r.opv })
    else .next (s.setPlane s.arg.plane
      { pl with
        rounds := mapSet pl.rounds s.arg.other (withArrival t i m ((pl.inputs false).all fun n =>
          (t.arrived ++ [(i, m)]).any fun a => a.1 = n.1))
        active := true }) := by
  have hbins : decide (r.space = 2) = false := decide_eq_false hs
  have hnew : (t.arrived.any fun a => decide (a.1 = i)) = false := by simpa using hn
  change execRoundMarkerArrival s = _
  simp only [execRoundMarkerArrival, hp, hf, ha, hw, hbins, Bool.false_eq_true, if_false, ho, ht, hr, hnew, withArrival]
  simp [hmem]

end Rounds

theorem rounds_close : roundsClose := by
  intro s pl r m es i hp hf ha hw hs hmem t all hr hn ho
  have hturn := roundMarkerArrival_turn hp hf ha hw hs hmem (t := t) rfl hr hn ho
  have hall : ((pl.inputs false).all fun n => (t.arrived ++ [(i, m)]).any fun a => decide (a.1 = n.1)) = true ↔
      all (t.arrived ++ [(i, m)]) := by
    simp only [all, List.all_eq_true, List.any_eq_true, decide_eq_true_eq]
  refine ⟨fun hm => hturn.trans (if_pos hm), fun hm h => hturn.trans ?_, fun hm h => hturn.trans ?_⟩
  · rw [if_neg (not_not.2 hm), withArrival, if_neg (mt hall.1 h)]
  · rw [if_neg (not_not.2 hm), withArrival, if_pos (hall.2 h)]

end Sys2Proof.Proofs
end

