-- ==== Sys2Proof/Proofs/Walks.lean ====
section
/-! TABLE_WALK (R306 to R309): a walk goes on, ends in a fault, or fills the TLBs. -/

namespace Sys2Proof.Proofs

open Sys2Proof.Machine Sys2Proof.Claims

variable {s t : State} {w : Walk}

theorem tableWalk_steps (ho : s.arg.other = 0) (hw : s.walks[s.arg.index]? = some w) : exec .tableWalk s = .next (s.stepWalk w) := by
  change execTableWalk s = _
  simp only [execTableWalk, ho, hw]

/-! ## TLBs (R309) -/

/-- A state that differs from s in its TLBs alone. -/
def butTlbs (s z : State) : Prop := z = { s with tlbs := z.tlbs }

theorem butTlbs_trans {a b c : State} (h : butTlbs a b) (h' : butTlbs b c) : butTlbs a c := by
  unfold butTlbs at *
  rw [h', h]

theorem tlbFill_butTlbs (s : State) (md asid va : Nat) (l : Leaf) (cluster : Option Nat) :
    butTlbs s (s.tlbFill md asid va l cluster) := rfl

theorem foldl_butTlbs {α : Type} {f : State → α → State} (hf : ∀ s x, butTlbs s (f s x)) (xs : List α) (s : State) :
    butTlbs s (xs.foldl f s) := by
  induction xs generalizing s with
  | nil => rfl
  | cons x xs ih => exact butTlbs_trans (hf s x) (ih _)

/-- What a walk that has found its leaf fills is the TLBs. -/
theorem walkFills_butTlbs (s : State) (w : Walk) (ws : List Walk) (l : Leaf) : butTlbs s (s.walkFills w ws l) := by
  refine butTlbs_trans (foldl_butTlbs (fun s x => ?_) w.met s) (foldl_butTlbs (fun s x => tlbFill_butTlbs s _ _ _ _ _) ws _)
  split
  · split <;> rfl
  · rfl

theorem keepFirst_head {α : Type} {p : α → Bool} {n : Nat} {x : α} (xs : List α) (hp : p x = true) (hn : n ≠ 0) :
    ∃ ys, keepFirst p n (x :: xs) = x :: ys := by
  cases n with
  | zero => exact absurd rfl hn
  | succ k => exact ⟨keepFirst p k xs, by simp [keepFirst, hp]⟩

/-- A leaf just put in a TLB is the one that it gives. -/
theorem tlbAt_tlbPut {key asid va : Nat} {e : TlbEntry} (hptr : e.ptr = false) (ha : e.asid = asid) (hp : va / 2 ^ e.bits = e.page) :
    (s.tlbPut key e).tlbAt key asid va = some e := by
  have hsize : tlbSize key ≠ 0 := by
    unfold tlbSize
    split <;> simp
  obtain ⟨ys, hy⟩ := keepFirst_head (p := fun x : Nat × TlbEntry => decide (x.1 = key)) (x := (key, e))
    (s.tlbs.filter fun x => ¬ (x.1 = key ∧ x.2.asid = e.asid ∧ x.2.page = e.page ∧ x.2.bits = e.bits)) (by simp) hsize
  simp only [State.tlbAt, State.tlbPut, hy]
  simp [hptr, ha, hp]

theorem tlbFind_tlbFill (s : State) (md asid va : Nat) (l : Leaf) (cluster : Option Nat) :
    (s.tlbFill md asid va l cluster).tlbFind md asid va cluster = some (l.entry asid va) := by
  have h : (s.tlbFill md asid va l cluster).tlbAt (tlbKey md cluster) asid va = some (l.entry asid va) :=
    tlbAt_tlbPut rfl rfl rfl
  simp only [State.tlbFind, h]

/-! ## The access that a leaf permits (R308) -/

/-- A leaf permits the access of a walk: its kind and its memory. -/
def permits (w : Walk) (l : Leaf) : Prop :=
  (w.write = true → l.write = true) ∧ (w.atomic = true → l.device = false ∧ l.write = true) ∧ (w.space = 4 ↔ l.host = true)

/-- The kind of access that a walk is made for: an atomic, a store, or a load. -/
def accessKind (w : Walk) : Nat := if w.atomic then 2 else if w.write then 1 else 0

theorem refused_iff (w : Walk) (l : Leaf) : ((accessKind w ≥ 1 ∧ ¬ l.write) ∨ (accessKind w = 2 ∧ l.device) ∨
    (w.space = 4 ∧ ¬ l.host) ∨ (w.space ≠ 4 ∧ l.host)) ↔ ¬ permits w l := by
  unfold permits accessKind
  grind

theorem fault_of_permits {l : Leaf} (h : permits w l) : w.fault (.ok l) = none := by
  have hc := mt (refused_iff w l).1 (not_not.2 h)
  unfold accessKind at hc
  simp only [Walk.fault, Leaf.check, if_neg hc, Nat.mod_one]
  rfl

theorem fault_of_not_permits {l : Leaf} (h : ¬ permits w l) : w.fault (.ok l) = some 0x11 := by
  have hc := (refused_iff w l).2 h
  unfold accessKind at hc
  simp only [Walk.fault, Leaf.check, if_pos hc]

/-! ## The end of a walk that one agent waits for -/

/-- The state without the walks that share w. -/
def withoutWalk (t : State) (w : Walk) : State := { t with walks := t.walks.filter fun x => ¬ w.shares x }

theorem endWalk_fault {r : Except Nat Leaf} {c : Nat} (hws : t.walks.filter w.shares = [w]) (hf : w.fault r = some c) :
    t.endWalk w r = (withoutWalk t w).walkFault w c (some w.md) := by
  have hleft : (t.walks.filter fun x => !w.shares x) = t.walks.filter fun x => ¬ w.shares x := by simp
  cases r with
  | error e => simp only [State.endWalk, hws, List.foldl_cons, List.foldl_nil, hf, hleft, withoutWalk]
  | ok l => simp [State.endWalk, hws, hf, withoutWalk]

theorem endWalk_leaf {l : Leaf} (hws : t.walks.filter w.shares = [w]) (hf : w.fault (.ok l) = none) :
    t.endWalk w (.ok l) = ((withoutWalk t w).walkGoesOn w).walkFills w [w] l := by
  simp [State.endWalk, hws, hf, withoutWalk]

/-- The fault that the one agent of a walk takes, detected where the walk is (R20, R309). -/
theorem endWalk_detects {r : Except Nat Leaf} {c : Nat} {p : PlaneId} {who : Asker} (hws : t.walks.filter w.shares = [w])
    (hp : w.plane = some p) (hw : w.who = some who) (hf : w.fault r = some c) : t.endWalk w r =
      ((withoutWalk t w).modPlane p (·.uncharge who)).detectFault p (some who)
        { cause := c, access := w.access, iter := w.iter, opv := w.opv, vaddr := w.va, md := some w.md, slot := w.slot } := by
  rw [endWalk_fault hws hf]
  simp only [State.walkFault, hp, hw]

/-- Outside an ENDING plane nothing but the TLBs is left of a walk. -/
theorem walkGoesOn_moving {p : PlaneId} {pl : Plane} (hp : w.plane = some p) (hpl : s.plane? p = some pl) (he : pl.st ≠ .ending)
    (hb : pl.st ≠ .frozen ∨ pl.before ≠ .ending) : s.walkGoesOn w = s := by
  have hno : ¬ (pl.st = .ending ∨ (pl.st = .frozen ∧ pl.before = .ending)) := by tauto
  cases hw : w.who with
  | none => simp only [State.walkGoesOn, hp, hw]
  | some who => simp only [State.walkGoesOn, hp, hw, hpl, if_neg hno]

/-- In an ENDING plane the agent of the walk fires again (R504). -/
theorem walkGoesOn_ending {p : PlaneId} {who : Asker} {pl : Plane} (hp : w.plane = some p) (hw : w.who = some who)
    (hpl : s.plane? p = some pl) (he : pl.st = .ending) : s.walkGoesOn w = s.setPlane p (pl.goesOn who) := by
  simp [State.walkGoesOn, hp, hw, hpl, he]

/-! ## A walk goes on -/

/-- What a walker does with the entry that it has read at a level (R307, R308). -/
def afterEntry (t : State) (w : Walk) (level : Nat) (lv : WalkLevel) : Option Nat → State
  | none => t.endWalk w (.error 0x31)
  | some v =>
    match lv.entry (BitVec.ofNat 64 v) with
    | .invalid => t.endWalk w (.error 0x10)
    | .leaf l => t.endWalk w (.ok l)
    | .table pa => walksTo t w (level + 1, pa)

section Turn
variable {level table : Nat} {lv : WalkLevel} {e : Option Nat} (h : WalkTurn s w level table lv e t)
include h

/-- Bringing an entry's line to its home changes neither device memory nor a walk nor a plane. -/
theorem walkTurn_kept : t.dram = s.dram ∧ t.walks = s.walks ∧ ∀ p, t.plane? p = s.plane? p := by
  have hc := State.cacheLine_cached h.line
  unfold State.cached at hc
  rw [hc]
  exact ⟨rfl, rfl, fun _ => rfl⟩

theorem tableWalk_reads : exec .tableWalk s = .next (afterEntry t w level lv e) := by
  obtain ⟨rest, hm⟩ := List.head?_eq_some_iff.1 h.met
  have hread : t.dram.readWord (table + w.va.toNat / 2 ^ lv.shift % 2 ^ lv.width * 8) 8 = e := by
    rw [(walkTurn_kept h).1]
    exact h.read
  rw [tableWalk_steps h.act h.found]
  simp only [State.stepWalk, hm, h.isLv, h.line, hread]
  rfl

end Turn

theorem walks_go_on : walksGoOn := by
  intro s w
  refine ⟨fun ho hw hm hf => ?_, fun x ho hw hm hf hx => ?_, fun level table lv e t pa h hlv => ?_⟩
  · rw [tableWalk_steps ho hw]
    simp [State.stepWalk, hm, hf]
  · have hbegins : s.stepWalk w = s.walkMeets w x := by simp [State.stepWalk, hm, hf, hx]
    exact (tableWalk_steps ho hw).trans (congrArg _ hbegins)
  · rw [tableWalk_reads h]
    simp only [afterEntry, hlv]

theorem walks_end : walksEnd := by
  intro s w level table lv e t p who h hp hw hone left permits' ends
  obtain ⟨-, hwalks, hplane⟩ := walkTurn_kept h
  have hws : t.walks.filter w.shares = [w] := hwalks ▸ hone
  have hends {r : Except Nat Leaf} {c : Nat} (hr : afterEntry t w level lv e = t.endWalk w r) (hf : w.fault r = some c) : ends c := by
    refine (tableWalk_reads h).trans (congrArg _ (hr.trans ?_))
    exact endWalk_detects hws hp hw hf
  refine ⟨fun v he hlv => ?_, fun he => ?_, fun v l he hlv hl => ?_, fun v l he hlv hl => ?_⟩
  · exact hends (r := .error 0x10) (by simp only [he, afterEntry, hlv]) rfl
  · exact hends (r := .error 0x31) (by simp only [he, afterEntry]) rfl
  · exact hends (r := .ok l) (by simp only [he, afterEntry, hlv]) (fault_of_not_permits hl)
  · have hleaf : afterEntry t w level lv e = (left.walkGoesOn w).walkFills w [w] l := by
      simp only [he, afterEntry, hlv]
      exact endWalk_leaf hws (fault_of_permits hl)
    have hfills := walkFills_butTlbs (left.walkGoesOn w) w [w] l
    refine ⟨_, (tableWalk_reads h).trans (congrArg _ hleaf), fun pl hpl hne hb => ?_, fun pl i hpl hst hi => ?_, ?_⟩
    · have hpl' : left.plane? p = some pl := (hplane p).trans hpl
      rwa [walkGoesOn_moving hp hpl' hne hb] at hfills ⊢
    · subst hi
      have hpl' : left.plane? p = some pl := (hplane p).trans hpl
      rwa [walkGoesOn_ending hp hw hpl' hst] at hfills ⊢
    · exact tlbFind_tlbFill _ w.md w.asid w.va.toNat l w.cluster

end Sys2Proof.Proofs
end

