-- ==== Sys2Proof/Proofs/Timers.lean ====
section
/-! MEMORY_TIMEOUT (R442, R443), and the lines of host memory (R363, R364). -/

namespace Sys2Proof.Proofs

open Sys2Proof.Machine Sys2Proof.Claims

variable {s t : State}

/-! ## Timeouts -/

/-- A counter that the paddocks do not hold may be advanced before or after a plane changes. -/
theorem modPlane_nextId (s : State) (p : PlaneId) (f : Plane → Plane) (k : Nat) :
    ({ s with nextId := k } : State).modPlane p f = { s.modPlane p f with nextId := k } := by
  unfold State.modPlane
  cases mapGet s.pads p.pad <;> rfl

/-- A plane whose request has run out of time: outside space 5 what is left of it may still perform (R442). -/
def timedOut (ghost : Nat) (r : Request) (pl : Plane) : Plane :=
  { pl with
    reqs := (pl.reqs.map fun (x : Request) => if x.id = r.id then { x with timed := true } else x) ++
      if r.space = 5 then [] else [{ r with id := ghost, lost := true }] }

theorem timedOut_eq (ghost : Nat) (r : Request) : timedOut ghost r = fun pl =>
    if r.space = 5 then pl.modReq r.id fun q => { q with timed := true }
    else { pl.modReq r.id fun q => { q with timed := true } with
      reqs := (pl.modReq r.id fun q => { q with timed := true }).reqs ++ [{ r with id := ghost, lost := true }] } := by
  funext pl
  unfold timedOut Plane.modReq
  split <;> simp

section Timeout
variable {pl : Plane} {r : Request} (hx : s.arg.other ≠ 1) (hp : s.plane? s.arg.plane = some pl)
  (hf : pl.reqs.find? (fun r => r.id = s.arg.index) = some r)
include hx hp hf

theorem memoryTimeout_waits (h : pl.mustWait s.cycle r = true ∨ s.cycle < r.issued + timeoutCycles r.space) :
    exec .memoryTimeout s = .next s := by
  change execMemoryTimeout s = _
  rcases h with h | h <;> simp [execMemoryTimeout, hx, hp, hf, h]

theorem memoryTimeout_turn (hd : r.done = false) (hl : r.lost = false) (ht : r.timed = false) (hh : r.held = false)
    (hpk : r.parked = none) (hacc : r.acc.touches = true) (hw : pl.mustWait s.cycle r = false)
    (hlate : r.issued + timeoutCycles r.space ≤ s.cycle) : exec .memoryTimeout s = .next
      ((({ s with nextId := s.nextId + 1 } : State).modPlane s.arg.plane (timedOut s.nextId r)).detectFault s.arg.plane (some r.who)
        { cause := 0x38, access := r.acc.kind, iter := r.iter, opv := r.opv, vaddr := r.addr, slot := r.slot }) := by
  have hgo : ¬ (r.done = true ∨ r.lost = true ∨ r.timed = true ∨ r.held = true ∨ r.parked.isSome = true ∨
      pl.mustWait s.cycle r = true ∨ ¬ (r.acc.touches = true ∨ r.acc = .bring) ∨ s.cycle < r.issued + timeoutCycles r.space) := by
    simp [hd, hl, ht, hh, hpk, hacc, hw, hlate]
  change execMemoryTimeout s = _
  simp only [execMemoryTimeout, if_neg hx, hp, hf, if_neg hgo, timedOut_eq]
  rfl

end Timeout

theorem requests_time_out : requestsTimeOut := by
  intro s pl r hx hp hf hd hl ht hh hpk hacc bound
  refine ⟨fun hw => memoryTimeout_waits hx hp hf (.inl hw), fun hc => memoryTimeout_waits hx hp hf (.inr hc), fun hc hw => ?_⟩
  rw [memoryTimeout_turn hx hp hf hd hl ht hh hpk hacc hw hc, modPlane_nextId]
  rfl

/-! ## Host lines -/

/-- The words that the bytes of a line touch are its 32 words. -/
theorem touched_line (line : Nat) : Memory.touched (128 * line) 128 = (List.range 32).map (· + 32 * line) := by
  have hfirst : 128 * line / 4 = 32 * line := by omega
  have hcount : (128 * line + 128 - 1) / 4 + 1 - 32 * line = 32 := by omega
  simp only [Memory.touched, hfirst, hcount]
  rfl

theorem hostView_line_marks (m : Memory) (line : Nat) : (hostView m (128 * line) 128).marks =
    if m.marks.any (fun w => w / 32 = line) then (List.range 32).map (· + 32 * line) else m.marks := by
  have hlines : ∀ w, (((List.range 32).map (· + 32 * line)).map (· / 32)).contains (w / 32) = decide (w / 32 = line) := by
    intro w
    rw [List.map_map, Bool.eq_iff_iff, List.contains_iff_mem, List.mem_map, decide_eq_true_eq]
    constructor
    · rintro ⟨i, hi, he⟩
      have := List.mem_range.1 hi
      simp only [Function.comp] at he
      omega
    · intro he
      exact ⟨0, by simp, by simp only [Function.comp]; omega⟩
  simp only [hostView, touched_line, hlines]
  exact apply_ite Memory.marks _ _ _

/-- A copy of a line as host memory now stands holds poison in every word or in none (R301, R363). -/
theorem freshCopy_eq_newCopy (s : State) (md line : Nat) : s.freshCopy md line = newCopy s md line := by
  simp only [State.freshCopy, newCopy, hostView_line_marks, Memory.bytes]
  congr 1
  split
  next h =>
    refine List.filter_eq_self.2 fun w hw => ?_
    obtain ⟨i, hi, rfl⟩ := List.mem_map.1 hw
    have := List.mem_range.1 hi
    exact decide_eq_true (by omega)
  next h =>
    refine List.filter_eq_nil_iff.2 fun w hw he => h (List.any_eq_true.2 ⟨w, hw, he⟩)

theorem cacheLines_dram {who : SlotWaiter} {u : CacheUse} {lines : List Nat} (h : s.cacheLines who u lines = some t) :
    t.dram = s.dram ∧ t.sent = s.sent ∧ t.arg = s.arg := by
  have hc := State.cacheLines_cached h
  unfold State.cached at hc
  rw [hc]
  exact ⟨rfl, rfl, rfl⟩

theorem copyHeld_of {index line : Nat} (h : ∃ c ∈ s.copies, c.md = index ∧ c.line = line) :
    (s.copies.any fun c => decide (c.md = index ∧ c.line = line)) = true := by
  simpa only [List.any_eq_true, decide_eq_true_eq] using h

theorem host_lines : Claims.hostLines := by
  intro s l pa n bs line
  refine ⟨rfl, fun hc hv => ?_, fun hc hv => ?_, fun t hl hcxl hacc ht => ?_, fun t hl hcxl hacc ht => ?_⟩
  · change execSystemCacheCopyUpdate s = _
    have hany : (s.copies.any fun c => decide (c.md = s.arg.index ∧ c.line = hostLine s.arg.value.toNat)) = true := copyHeld_of hc
    simp only [execSystemCacheCopyUpdate, hany, hv, freshCopy_eq_newCopy]
    rfl
  · change execSystemCacheCopyUpdate s = _
    have hany : (s.copies.any fun c => decide (c.md = s.arg.index ∧ c.line = hostLine s.arg.value.toNat)) = true := copyHeld_of hc
    simp only [execSystemCacheCopyUpdate, hany, hv]
    rfl
  · obtain ⟨hd, hs, ha⟩ := cacheLines_dram ht
    change execHostMemoryAccess s = _
    simp [execHostMemoryAccess, hl, hcxl, hacc, Machine.hostLines, ht, hd, hs, ha, Memory.bytes]
  · obtain ⟨hd, hs, ha⟩ := cacheLines_dram ht
    change execHostMemoryAccess s = _
    simp [execHostMemoryAccess, hl, hcxl, hacc, Machine.hostLines, ht, hd, ha]

/-- Settles O43: replies leave in their turn, rounds close, walks end, requests time out, and host lines are copied. -/
theorem repliesReturn : Obligations.RepliesReturn :=
  ⟨replies_leave, streams_close, task_replies, rounds_close, walks_go_on, walks_end, requests_time_out, host_lines⟩

end Sys2Proof.Proofs
end

