-- ==== Sys2Proof/Proofs/Encoding.lean ====
section
/-! Words and bytes of instructions (R4, R62 to R75): a field read back from the place where the encoder put it, the decoder
on the bytes that the encoder writes, and the words that the specification writes out. -/

namespace Sys2Proof.Proofs

open Sys2Proof.Machine Sys2Proof.Claims

/-! ## Bytes of a word (R4) -/

theorem bytesNat_wordBytes (k : Nat) : ∀ w : Nat, bytesNat (wordBytes k w) = w % 256 ^ k := by
  induction k with
  | zero => intro w; simp [wordBytes, bytesNat, Nat.mod_one]
  | succ k ih => intro w; rw [wordBytes, bytesNat, ih, pow_succ', Nat.mod_mul, BitVec.toNat_ofNat]

theorem decodeBytes_slot (w : W64) : decodeBytes (wordBytes 8 w.toNat) = decodeGraph w := by
  have hl : (wordBytes 8 w.toNat).length = 8 := rfl
  have hw : w.toNat % 256 ^ 8 = w.toNat := Nat.mod_eq_of_lt w.isLt
  rw [decodeBytes, if_pos hl, bytesNat_wordBytes, hw, BitVec.ofNat_toNat, BitVec.setWidth_eq]

theorem decodeBytes_taskWord (w : W32) : decodeBytes (wordBytes 4 w.toNat) = decodeTask w := by
  have hl : (wordBytes 4 w.toNat).length = 4 := rfl
  have hw : w.toNat % 256 ^ 4 = w.toNat := Nat.mod_eq_of_lt w.isLt
  rw [decodeBytes, if_neg (by omega), List.take_of_length_le (by omega), bytesNat_wordBytes, hw, BitVec.ofNat_toNat,
    BitVec.setWidth_eq]

/-! ## Slots of dataflow blocks (R62, R63, R65, R74) -/

theorem ofCode_operandCode (o : Operand) : Operand.ofCode o.code = o := by cases o <;> rfl

theorem ofCode_tyCode (t : Ty) : Ty.ofCode (t.code % 16) = some t := by cases t <;> rfl

theorem decodeTarget_encodeTarget (t : Option Target) : decodeTarget (encodeTarget t) = some t := by
  cases t with
  | none => rfl
  | some t =>
    simp (disch := omega) only [encodeTarget, decodeTarget, BitVec.getLsbD_append,
      BitVec.extractLsb'_append_eq_of_le, BitVec.extractLsb'_append_eq_of_add_le]
    simp [ofCode_operandCode]

/-- A slot's fields read back: it decodes to its opcode's instruction over them. -/
theorem decodeGraph_encodeFields {op : BitVec 8} {g : GArgs} {mk : GArgs → Instr}
    (h : graphOp op.toNat (g.opt.getLsbD 0) = some mk) : decodeGraph (encodeFields op g) = .ok (mk g) := by
  simp (disch := omega) only [encodeFields, decodeGraph, BitVec.getLsbD_append,
    BitVec.extractLsb'_append_eq_of_le, BitVec.extractLsb'_append_eq_of_add_le]
  rw [BitVec.getLsbD_eq_getElem (by decide)] at h
  simp [h, ofCode_tyCode, decodeTarget_encodeTarget]

theorem of_firstFailure_none {l : List (Bool × Failure)} (h : firstFailure l = none) : ∀ x ∈ l, x.1 = true := by
  induction l with
  | nil => simp
  | cons y ys ih =>
    obtain ⟨ok, f⟩ := y
    cases ok with
    | false => cases h
    | true => exact List.forall_mem_cons.2 ⟨rfl, ih h⟩

/-- The option bits of an accepted slot are among those of its row (R66). -/
theorem wellFormed_opt_mem {env : BlockEnv} {i : Instr} {o : OpInfo} {g : GArgs} (hw : i.wellFormed env = true)
    (ho : opInfo env.version i = some o) (hg : i.gargs = some g) : g.opt.toNat ∈ o.opts := by
  rw [Instr.wellFormed, Option.isNone_iff_eq_none, Instr.refusal, ho, hg] at hw
  have hmem : (decide (g.opt.toNat ∈ o.opts), ((0x08, 46) : Failure)) ∈ graphChecks env i g o := by simp [graphChecks]
  exact of_decide_eq_true (of_firstFailure_none hw _ hmem)

/-- The opcode and option bit q<0> of an accepted slot name its row (R74, R254, R331). -/
theorem graphOp_graphOpcode {env : BlockEnv} {i : Instr} (hw : i.wellFormed env = true) :
    ∀ op ∈ i.graphOpcode, ∀ g ∈ i.gargs, (graphOp op.toNat (g.opt.getLsbD 0)).map (· g) = some i := by
  cases i with
  | mxcfg g | rangePull g =>
    rintro _ ⟨⟩ _ ⟨⟩
    have ho : g.opt = 0#2 := BitVec.eq_of_toNat_eq (List.mem_singleton.1 (wellFormed_opt_mem hw rfl rfl))
    rw [ho]
    rfl
  | mxcfgTile g | rangeInit g =>
    rintro _ ⟨⟩ _ ⟨⟩
    have ho : g.opt = 1#2 := BitVec.eq_of_toNat_eq (List.mem_singleton.1 (wellFormed_opt_mem hw rfl rfl))
    rw [ho]
    rfl
  | _ => rintro _ ⟨⟩ _ ⟨⟩ <;> rfl

theorem decodeGraph_encodeGraph {env : BlockEnv} {i : Instr} {w : W64} (hw : i.wellFormed env = true)
    (h : encodeGraph i = some w) : decodeGraph w = .ok i := by
  unfold encodeGraph at h
  split at h
  next op g ho hg =>
    cases h
    obtain ⟨mk, hmk, hi⟩ := Option.map_eq_some_iff.1 (graphOp_graphOpcode hw op ho g hg)
    rw [decodeGraph_encodeFields hmk, hi]
  next => cases h

/-! ## Words of task blocks (R72, R73, R75, R228) -/

section Forms

variable (op : BitVec 7) (d a b : BitVec 4) (n : BitVec 1) (m : BitVec 3) (i : BitVec 12)

theorem intTask_reg (r : BitVec 4 → BitVec 4 → BitVec 4 → BitVec 1 → Instr)
    (mk : BitVec 4 → BitVec 4 → BitVec 1 → BitVec 12 → Instr) :
    intTask r mk (op ++ d ++ a ++ b ++ 0x0#9 ++ n ++ 0x0#3) = .ok (r d a b n) := by
  simp (disch := omega) only [intTask, clearOr, taskD, taskA, taskB, BitVec.getLsbD_append,
    BitVec.extractLsb'_append_eq_of_le, BitVec.extractLsb'_append_eq_of_add_le]
  simp

theorem intTask_imm (r : BitVec 4 → BitVec 4 → BitVec 4 → BitVec 1 → Instr)
    (mk : BitVec 4 → BitVec 4 → BitVec 1 → BitVec 12 → Instr) :
    intTask r mk (op ++ d ++ a ++ n ++ 0x1#4 ++ i) = .ok (mk d a n i) := by
  simp (disch := omega) only [intTask, clearOr, taskD, taskA, BitVec.getLsbD_append,
    BitVec.extractLsb'_append_eq_of_le, BitVec.extractLsb'_append_eq_of_add_le]
  simp

theorem fltTask_reg (r : BitVec 4 → BitVec 4 → BitVec 4 → BitVec 3 → Instr)
    (mk : BitVec 4 → BitVec 4 → BitVec 3 → BitVec 12 → Instr) :
    fltTask r mk (op ++ d ++ a ++ b ++ 0x0#10 ++ m) = .ok (r d a b m) := by
  simp (disch := omega) only [fltTask, clearOr, taskD, taskA, taskB, BitVec.getLsbD_append,
    BitVec.extractLsb'_append_eq_of_le, BitVec.extractLsb'_append_eq_of_add_le]
  simp

theorem fltTask_imm (r : BitVec 4 → BitVec 4 → BitVec 4 → BitVec 3 → Instr)
    (mk : BitVec 4 → BitVec 4 → BitVec 3 → BitVec 12 → Instr) :
    fltTask r mk (op ++ d ++ a ++ 0x0#1 ++ m ++ 0x1#1 ++ i) = .ok (mk d a m i) := by
  simp (disch := omega) only [fltTask, clearOr, taskD, taskA, BitVec.getLsbD_append,
    BitVec.extractLsb'_append_eq_of_le, BitVec.extractLsb'_append_eq_of_add_le]
  simp

theorem opcode_intReg : (op ++ d ++ a ++ b ++ 0x0#9 ++ n ++ 0x0#3).extractLsb' 25 7 = op := by
  simp (disch := omega) only [BitVec.extractLsb'_append_eq_of_le]
  simp

theorem opcode_intImm : (op ++ d ++ a ++ n ++ 0x1#4 ++ i).extractLsb' 25 7 = op := by
  simp (disch := omega) only [BitVec.extractLsb'_append_eq_of_le]
  simp

theorem opcode_fltReg : (op ++ d ++ a ++ b ++ 0x0#10 ++ m).extractLsb' 25 7 = op := by
  simp (disch := omega) only [BitVec.extractLsb'_append_eq_of_le]
  simp

theorem opcode_fltImm : (op ++ d ++ a ++ 0x0#1 ++ m ++ 0x1#1 ++ i).extractLsb' 25 7 = op := by
  simp (disch := omega) only [BitVec.extractLsb'_append_eq_of_le]
  simp

end Forms

/-- A task word decodes to its instruction: the integer and the floating-point forms of R73 together, the other rows each by the
places of its own fields. -/
theorem decodeTask_encodeTask (i : Instr) : ∀ w ∈ encodeTask i, decodeTask w = .ok i := by
  cases i with
  | taskAddReg | taskSubReg | taskMulReg | taskMulhiReg | taskMadReg | taskDivReg | taskRemReg | taskNegReg | taskAbsReg
  | taskMinReg | taskMaxReg | taskAddsatReg | taskSubsatReg | taskAndReg | taskOrReg | taskXorReg | taskAndnReg | taskNotReg
  | taskShlReg | taskShrReg | taskSarReg | taskRolReg | taskClzReg | taskCtzReg | taskPopcReg | taskBrevReg | taskBfxReg
  | taskBfiReg | taskSelReg =>
    rintro _ ⟨⟩
    rw [decodeTask, opcode_intReg]
    exact intTask_reg ..
  | taskAddImm | taskSubImm | taskMulImm | taskMulhiImm | taskMadImm | taskDivImm | taskRemImm | taskNegImm | taskAbsImm
  | taskMinImm | taskMaxImm | taskAddsatImm | taskSubsatImm | taskAndImm | taskOrImm | taskXorImm | taskAndnImm | taskNotImm
  | taskShlImm | taskShrImm | taskSarImm | taskRolImm | taskClzImm | taskCtzImm | taskPopcImm | taskBrevImm | taskBfxImm
  | taskBfiImm | taskSelImm =>
    rintro _ ⟨⟩
    rw [decodeTask, opcode_intImm]
    exact intTask_imm ..
  | taskFaddReg | taskFsubReg | taskFmulReg | taskFmaReg | taskFcmpReg =>
    rintro _ ⟨⟩
    rw [decodeTask, opcode_fltReg]
    exact fltTask_reg ..
  | taskFaddImm | taskFsubImm | taskFmulImm | taskFmaImm | taskFcmpImm =>
    rintro _ ⟨⟩
    rw [decodeTask, opcode_fltImm]
    exact fltTask_imm ..
  | taskCmpReg | taskCmpImm | taskFminReg | taskFminImm | taskFmaxReg | taskFmaxImm | taskCvt | taskRecv | taskPeek | taskSend
  | taskSendm | taskLdreq | taskStreq | taskAreq | taskBr | taskBrc | taskRep | taskSeti | taskLui | taskEmita | taskEmitb
  | taskSplitDec | taskSplitEnc | taskTrap =>
    rintro _ ⟨⟩
    simp (disch := omega) only [decodeTask, fltTask0, clearOr, taskD, taskA, taskB, BitVec.getLsbD_append,
      BitVec.extractLsb'_append_eq_of_le, BitVec.extractLsb'_append_eq_of_add_le, Nat.reduceSub, BitVec.reduceExtractLsb',
      BitVec.reduceToNat]
    simp
  | taskEnd => rintro _ ⟨⟩; rfl
  | _ => rintro _ ⟨⟩

/-- Settles O3: the bytes of an encoding are those of its one word, whose fields read back. -/
theorem decodingUndoesEncoding : Obligations.DecodingUndoesEncoding := by
  intro env i hw he
  unfold encode at he ⊢
  split
  next w hg => rw [decodeBytes_slot, decodeGraph_encodeGraph hw hg]
  next w _ ht => rw [decodeBytes_taskWord, decodeTask_encodeTask i w ht]
  next hg ht => simp [hg, ht] at he

/-- Settles O2: both lists of words are finite, and the decoder runs on each word. -/
theorem wordsDecode : Obligations.WordsDecode :=
  ⟨by decide, by decide⟩

end Sys2Proof.Proofs
end

