-- ==== Sys2Proof/Proofs/Translation.lean ====
section
/-! Translating a load (R81, R88 to R106): what the translator reads does not depend on the task table, in which the binding
has marked its mask, so each end of a translation is one of the state as it stood. -/

namespace Sys2Proof.Machine

/-! ## Tables -/

section Tables

variable {α : Type}

@[simp] theorem mapSet_mapSet_same (m : Map α) (i : Nat) (x y : α) : mapSet (mapSet m i x) i y = mapSet m i y := by
  induction m with
  | nil => simp [mapSet]
  | cons kv rest ih =>
    obtain ⟨k, v⟩ := kv
    rcases Nat.lt_trichotomy i k with h | h | h
    · simp [mapSet, h]
    · simp [mapSet, h]
    · simp [mapSet, ih, h.ne', h.not_gt]

theorem mapGet_filter_of_pos {p : Nat × α → Bool} {i : Nat} {x : α} {m : Map α} (h : mapGet m i = some x)
    (hp : p (i, x) = true) : mapGet (m.filter p) i = some x := by
  induction m with
  | nil => cases h
  | cons kv rest ih =>
    obtain ⟨k, v⟩ := kv
    by_cases hk : k = i
    · subst hk
      have hv : v = x := by simpa [mapGet] using h
      subst hv
      simp [List.filter_cons_of_pos hp, mapGet]
    · have hr : mapGet rest i = some x := by simpa [mapGet, hk] using h
      rw [List.filter_cons]
      split
      · simpa [mapGet, hk] using ih hr
      · exact ih hr

theorem freshIn_not_mem (l : List Nat) : freshIn l ∉ l := by
  cases h : (List.range (l.length + 1)).find? fun i => !l.contains i with
  | none =>
    have hsub : List.range (l.length + 1) ⊆ l := fun i hi => by simpa using List.find?_eq_none.1 h i hi
    have hlen := (List.nodup_range.subperm hsub).length_le
    rw [List.length_range] at hlen
    omega
  | some i =>
    have hi := List.find?_some h
    rw [freshIn, h]
    simpa using hi

end Tables

/-! ## Refused bindings (R98, R100) -/

variable {s : State}

theorem refuse_eq_refusedWith {c reason : Nat} {t : Task} {f : HeldFault} (ht : s.task c = some t) (hh : t.handler = false)
    (htr : Claims.takesTraps (s.ctx t.ctx)) : s.refuse c f reason = Claims.refusedWith s c t f := by
  have hc : (s.ctx t.ctx).traps = true := by rw [Ctx.traps, htr.1, htr.2, Bool.and_self]
  simp [State.refuse, ht, hh, hc, State.takeId, State.setTask, Claims.refusedWith]

/-! ## What the translator reads (R81, R88, R97 to R99) -/

/-- The state once the binding of a wanted load has begun: its task alone may differ. -/
theorem begun_eq (s : State) (w : Wanted) : s.begun w = { s with tasks := (s.begun w).tasks } := by
  unfold State.begun State.modTask
  split
  · split <;> rfl
  · rfl

section Reads

variable (T : Map Task)

theorem icoBytes_tasks (ctx : Nat) (ico : W64) : ∀ k off n : Nat,
    ({ s with tasks := T } : State).icoBytes ctx ico k off n = s.icoBytes ctx ico k off n
  | 0, _, _ => rfl
  | k + 1, off, n => by
    simp only [State.icoBytes, icoBytes_tasks ctx ico k]
    rfl

@[simp] theorem icoPiece_tasks (ctx : Nat) (ico : W64) (off n : Nat) :
    ({ s with tasks := T } : State).icoPiece ctx ico off n = s.icoPiece ctx ico off n := by
  simp only [State.icoPiece, icoBytes_tasks]

@[simp] theorem icoPieces_tasks (ctx : Nat) (ico : W64) (l : List (Nat × Nat)) :
    ({ s with tasks := T } : State).icoPieces ctx ico l = s.icoPieces ctx ico l := by
  induction l with
  | nil => rfl
  | cons x rest ih => simp only [State.icoPieces, icoPiece_tasks, ih]

@[simp] theorem readIco_tasks (ctx : Nat) (ico : W64) (mask : Nat) :
    ({ s with tasks := T } : State).readIco ctx ico mask = s.readIco ctx ico mask := by
  simp only [State.readIco, icoPiece_tasks, icoPieces_tasks]
  rfl

@[simp] theorem graphOf_tasks (w : Wanted) : ({ s with tasks := T } : State).graphOf w = s.graphOf w := by
  simp only [State.graphOf, readIco_tasks]
  rfl

@[simp] theorem rereadLoad_tasks (ctx : Nat) (ico : W64) (g : IcoGraph) (load : Nat) :
    ({ s with tasks := T } : State).rereadLoad ctx ico g load = s.rereadLoad ctx ico g load := by
  simp only [State.rereadLoad, icoPieces_tasks]

end Reads

/-! ## How a translation ends (R81, R88, R98, R102) -/

section Ends

variable {w : Wanted} {g : IcoGraph} {digest : BitVec 384} {code : LoadCode}

theorem stopped_task {c : Nat} (hw : w.colour = some c) (x : Stopped) :
    s.stopped w x = s.refuse c (s.stopFault w.ico x).1 (s.stopFault w.ico x).2 := by
  simp only [State.stopped, hw]

/-- The first 256 bytes of an ICO lie in one page, whose probe decides the read. -/
theorem icoPiece_head_error {ctx cause : Nat} {ico : W64} (hpage : ico.toNat % 65536 ≤ 65280)
    (hp : s.probeDevice ctx ico 256 0 = .error cause) : s.icoPiece ctx ico 0 256 = .error (cause, 0) := by
  have hmin : min 256 (65536 - ico.toNat % 65536) = 256 := by omega
  simp [State.icoPiece, State.icoBytes, hmin, hp]

theorem graphOf_unread {cause : Nat} (hg : s.graph w.ctx w.ico = none)
    (hp : s.icoPiece w.ctx w.ico 0 256 = .error (cause, 0)) : s.graphOf w = .error (.read cause 0 0xFFFF 0 0) := by
  simp only [State.graphOf, hg, State.readIco, hp]

theorem graphOf_badHeader {head : Nat × List Byte} {b : Bad} (hg : s.graph w.ctx w.ico = none)
    (hp : s.icoPiece w.ctx w.ico 0 256 = .ok head) (hb : firstBad (headerChecks [head]) = some b) :
    s.graphOf w = .error (.bad b 0) := by
  simp only [State.graphOf, hg, State.readIco, hp, hb]

theorem translate_stopped {x : Stopped} (h : s.graphOf w = .error x) : s.translate w = s.stopped w x := by
  simp only [State.translate, h]

theorem translate_served {e : Nat} (hg : s.graphOf w = .ok (g, digest)) (hl : g.load w.load (g.declared &&& w.mask) = some code)
    (hh : code.rec_.handler = w.colour.isNone) (he : s.lookup digest w.load w.mask = some e) :
    s.translate w = s.served w g digest e := by
  simp [State.translate, hg, hl, hh, he]

theorem translate_mustMake (h : Claims.MustMake s w g digest code) : s.translate w = s.translateLoad w g digest code := by
  obtain ⟨ps, hps, hel⟩ := h.native
  have hfill : s.tack.find? (fun e => e.2.filling && !e.2.retiring && e.2.digest == digest && e.2.load == w.load &&
      e.2.mask == w.mask) = none := by
    refine List.find?_eq_none.2 fun x hx hp => h.filling x hx ?_
    simpa [and_assoc] using hp
  simp [State.translate, State.makeImage, h.graph, h.load, h.handler, h.found, hfill, hps, hel, chooseImage, h.again]

theorem translateLoad_enters {plan : Plan} (hf : code.failure = none) (hp : plan = s.planFor (s.planKey w digest 0#384))
    (ha : (code.layout.image w.mask Node.rank plan).admits code.layout plan = true) (he : code.edgeFailure plan = none) :
    s.translateLoad w g digest code =
      (s.keepPlan (s.planKey w digest 0#384) plan).enterImage w g digest (code.layout.image w.mask Node.rank plan) plan.pages := by
  subst hp
  simp only [State.translateLoad, hf, ha, he, if_true]

theorem translateLoad_waits {plan : Plan} (hf : code.failure = none) (hp : plan = s.planFor (s.planKey w digest 0#384))
    (ha : (code.layout.image w.mask Node.rank plan).admits code.layout plan = false) (hc : code.layout.canFit w.mask = true) :
    s.translateLoad w g digest code = s := by
  subst hp
  simp [State.translateLoad, hf, ha, hc]

theorem translateLoad_unfit {plan : Plan} (hf : code.failure = none) (hp : plan = s.planFor (s.planKey w digest 0#384))
    (ha : (code.layout.image w.mask Node.rank plan).admits code.layout plan = false) (hc : code.layout.canFit w.mask = false) :
    s.translateLoad w g digest code = s.stopped w (.bad { reason := 0x10 } 0) := by
  subst hp
  simp [State.translateLoad, hf, ha, hc]

theorem served_eq_bindsGraph (w : Wanted) (g : IcoGraph) (digest : BitVec 384) (e : Nat) :
    s.served w g digest e = Claims.bindsGraph s w g digest e := by
  cases hw : w.colour <;> simp [State.served, Claims.bindsGraph, State.modCtx, hw]

theorem pagesUsed_eq_sum : s.pagesUsed = (s.tack.map fun e => e.2.pages).sum := by
  rw [State.pagesUsed, List.sum_eq_foldl, List.foldl_map]

/-- With room in the tack store an image enters it under a fresh number, with no entry freed for it (R102, R104). -/
theorem enterImage_fits {im : Image} {pages k : Nat} (hl : s.tack.length < 4096)
    (hs : (s.tack.map fun e => e.2.pages).sum + max 1 pages ≤ 16384) (hk : k = freshIn (s.tack.map (·.1))) :
    s.enterImage w g digest im pages = Claims.bindsGraph
      { s with tack := mapSet s.tack k { digest, load := w.load, mask := w.mask, gen := s.regs.genCurrent, image := im,
                                         pages := max 1 pages, last := s.dieTime 8, filling := true } } w g digest k := by
  have hfits : s.tackFits (max 1 pages) = true := decide_eq_true ⟨hl, by rw [pagesUsed_eq_sum]; exact hs⟩
  have hroom : s.makeRoom (max 1 pages) s.tack.length = s := by
    cases s.tack.length with
    | zero => rfl
    | succ n => simp only [State.makeRoom, hfits, if_true]
  subst hk
  simp [State.enterImage, hroom, hfits, served_eq_bindsGraph]

end Ends

/-! ## The binding that a translation serves (R106) -/

section Begun

variable {w : Wanted} {g : IcoGraph} {digest : BitVec 384} {code : LoadCode}

theorem begun_eq_sampled (s : State) (w : Wanted) : s.begun w = Claims.sampled s w := by
  cases hw : w.colour with
  | none => simp [State.begun, Claims.sampled, hw]
  | some c => cases ht : s.task c <;> simp [State.begun, Claims.sampled, State.modTask, State.setTask, hw, ht]

/-- A refusal forgets the mask that the binding had sampled. -/
theorem begun_refuse {c reason : Nat} {t : Task} {f : HeldFault} (hw : w.colour = some c) (ht : s.task c = some t)
    (hh : t.handler = false) (htr : Claims.takesTraps (s.ctx t.ctx)) : (s.begun w).refuse c f reason = Claims.refusedWith s c t f := by
  have hb : s.begun w = s.setTask c { t with mask := some (BitVec.ofNat 64 w.mask) } := by
    simp only [State.begun, hw]
    exact modTask_eq _ ht
  have ht' : (s.begun w).task c = some { t with mask := some (BitVec.ofNat 64 w.mask) } := by
    rw [hb]
    exact mapGet_mapSet_same ..
  rw [refuse_eq_refusedWith ht' hh (by rw [hb]; exact htr), hb]
  simp [Claims.refusedWith, State.setTask]

theorem begun_stopFault (x : Stopped) (ico : W64) : (s.begun w).stopFault ico x = s.stopFault ico x := by
  rw [begun_eq]
  rfl

theorem begun_stopped {c : Nat} {t : Task} (hw : w.colour = some c) (ht : s.task c = some t)
    (hh : t.handler = false) (htr : Claims.takesTraps (s.ctx t.ctx)) (x : Stopped) :
    (s.begun w).stopped w x = Claims.refusedWith s c t (s.stopFault w.ico x).1 := by
  rw [stopped_task hw, begun_refuse hw ht hh htr, begun_stopFault]

theorem begun_graphOf : (s.begun w).graphOf w = s.graphOf w := by
  rw [begun_eq, graphOf_tasks]

theorem begun_planFor : (s.begun w).planFor ((s.begun w).planKey w digest 0#384) = s.planFor (Claims.keyOf s w digest) := by
  rw [begun_eq]
  rfl

theorem begun_mustMake (h : Claims.MustMake s w g digest code) : Claims.MustMake (s.begun w) w g digest code := by
  rw [begun_eq]
  exact ⟨by rw [graphOf_tasks]; exact h.graph, h.load, h.handler, h.found, h.filling,
    by simp only [icoPieces_tasks]; exact h.native, by rw [rereadLoad_tasks]; exact h.again, h.checks⟩

end Begun

/-! ## Plans that are kept (R89, R94) -/

theorem keepPlan_eq (s : State) (k : PlanKey) (plan : Plan) :
    s.keepPlan k plan = { s with plans := if s.plans.any fun x => x.1 == k then s.plans else (k, plan) :: s.plans } := by
  unfold State.keepPlan
  split <;> rfl

theorem keepPlan_of_kept {k : PlanKey} (plan : Plan) (h : (s.plans.any fun x => x.1 == k) = true) : s.keepPlan k plan = s := by
  simp only [State.keepPlan, h, if_true]

theorem keepPlan_keeps (s : State) (k : PlanKey) (plan : Plan) : ((s.keepPlan k plan).plans.any fun x => x.1 == k) = true := by
  rw [keepPlan_eq]
  cases h : s.plans.any fun x => x.1 == k <;> simp [h]

theorem planFor_of_kept {k : PlanKey} {z : State} (hz : z.plans = s.plans) (h : (s.plans.any fun x => x.1 == k) = true) :
    z.planFor k = s.planFor k := by
  obtain ⟨x, hx⟩ := Option.isSome_iff_exists.1 (List.find?_isSome.2 (List.any_eq_true.1 h))
  simp only [State.planFor, hz, hx, Option.map_some, Option.getD_some]

end Sys2Proof.Machine

namespace Sys2Proof.Proofs

open Sys2Proof.Machine Sys2Proof.Claims

variable {s : State} {w : Wanted}

theorem translateLoad_next {z : State} (h3 : s.arg.third ≠ 2) (hw : s.wanted = some w) (hz : (s.begun w).translate w = z)
    (hf : z.fresh = s.fresh) : exec .translateLoad s = .next { z with fresh := z.fresh + 2 ^ 32 } := by
  change execTranslateLoad s = _
  simp only [execTranslateLoad, h3, hw, hz, hf, if_false]

theorem translates_loads : translates := by
  intro s w h3 hw later
  refine ⟨fun c t cause hc ht hh htr hg hpage hp _ => ?_, fun c t head b hc ht hh htr hg hp hb => ?_,
    fun g digest code e hg hl hh he => ?_, fun g digest code plan im pages hm hplan him ha hedge hpages hlen hsum => ?_,
    fun g digest code plan c t hm hplan ha hc ht hh htr => ⟨fun hfit => ?_, fun hfit => ?_⟩⟩
  · refine translateLoad_next h3 hw ?_ rfl
    have hgo := graphOf_unread hg (icoPiece_head_error hpage hp)
    rw [translate_stopped (begun_graphOf.trans hgo), begun_stopped hc ht hh htr]
    simp [State.stopFault, State.bindFault, binderFault]
  · refine translateLoad_next h3 hw ?_ rfl
    rw [translate_stopped (begun_graphOf.trans (graphOf_badHeader hg hp hb)), begun_stopped hc ht hh htr]
    rfl
  · refine translateLoad_next h3 hw ?_ ?_
    · rw [translate_served (begun_graphOf.trans hg) hl hh (by rw [begun_eq]; exact he), served_eq_bindsGraph, begun_eq_sampled]
    · rw [← begun_eq_sampled, begun_eq]
      rfl
  · subst him hpages
    have hk : ∀ x, (freshIn (s.tack.map (·.1)), x) ∉ s.tack :=
      fun x hx => freshIn_not_mem _ (List.mem_map_of_mem (f := fun e => e.1) hx)
    refine ⟨_, hk, ?_⟩
    refine translateLoad_next h3 hw ?_ ?_
    · rw [translate_mustMake (begun_mustMake hm), translateLoad_enters hm.checks (hplan.trans begun_planFor.symm) ha hedge,
        keepPlan_eq, enterImage_fits (by rw [begun_eq]; exact hlen) (by rw [begun_eq]; exact hsum) rfl, ← begun_eq_sampled, begun_eq]
      rfl
    · rw [← begun_eq_sampled, begun_eq]
      rfl
  · refine translateLoad_next h3 hw ?_ rfl
    rw [translate_mustMake (begun_mustMake hm), translateLoad_unfit hm.checks (hplan.trans begun_planFor.symm) ha hfit,
      begun_stopped hc ht hh htr]
    rfl
  · refine translateLoad_next h3 hw ?_ ?_
    · rw [translate_mustMake (begun_mustMake hm), translateLoad_waits hm.checks (hplan.trans begun_planFor.symm) ha hfit,
        begun_eq_sampled]
    · rw [← begun_eq_sampled, begun_eq]

theorem fills_entry : fillsEntry := by
  intro s h
  change execTranslateLoad s = _
  rw [execTranslateLoad, if_pos h]
  rfl

theorem plans_stay : plansStay := by
  intro s k plan plan' arg
  refine ⟨?_, congrArg (State.planFor · k) (keepPlan_of_kept plan' (keepPlan_keeps s k plan))⟩
  split
  next h =>
    have hk : (s.keepPlan k plan).plans = s.plans := by rw [keepPlan_of_kept plan h]
    exact planFor_of_kept hk h
  next h => simp [State.planFor, keepPlan_eq, h]

end Sys2Proof.Proofs
end

