-- ==== Sys2Proof/Proofs/Configuration.lean ====
section
/-! CONFIG_COMPLETE (R28, R454): a plane enters LIVE, is written again, or goes to FREE and leaves its task a fault. -/

namespace Sys2Proof.Proofs

open Sys2Proof.Machine Sys2Proof.Claims

variable {s : State}

theorem satAdd_eq_oneMore (x : W32) : satAdd x = oneMore x := by
  unfold satAdd oneMore
  split
  next h => subst h; rfl
  next h =>
    have hx : x.toNat ≠ 2 ^ 32 - 1 := fun he => h (BitVec.eq_of_toNat_eq he)
    have hlt := x.isLt
    refine BitVec.eq_of_toNat_eq ?_
    rw [BitVec.toNat_add, BitVec.toNat_ofNat, Nat.min_eq_left (by omega)]
    rfl

/-- No lookup finds the entry any more; the die that the fault will name is drawn (R454). -/
def spoiled (s : State) (e : Nat) : State :=
  { s with fresh := s.fresh + 1, tack := s.tack.map fun x => if x.1 = e then (x.1, { x.2 with bad := true }) else x }

/-- A plane whose third write failed is FREE and its entry bad, and a restore of its task is no more (R454). -/
def emptied (s : State) (p : PlaneId) (colour e : Nat) : State :=
  let z := ((spoiled s e).setPlane p {}).pruneEdges.sweepTack
  { z with tasks := z.tasks.filter fun u => u.2.restores ≠ some colour }

/-- Its task is READY again, without a plane, before it takes the fault. -/
def unconfigured (s : State) (p : PlaneId) (colour e : Nat) (t : Task) : State :=
  (emptied s p colour e).setTask colour { t with plane := none, st := .ready }

section Refused

variable (c : Nat) (t : Task) (f : HeldFault)

@[simp] theorem refusedWith_plane (p : PlaneId) : (refusedWith s c t f).plane? p = s.plane? p := rfl
@[simp] theorem refusedWith_tack : (refusedWith s c t f).tack = s.tack := rfl
@[simp] theorem refusedWith_ctxs : (refusedWith s c t f).ctxs = s.ctxs := rfl
@[simp] theorem refusedWith_dram : (refusedWith s c t f).dram = s.dram := rfl
@[simp] theorem refusedWith_task : (refusedWith s c t f).task c = some { t with
    refused := some f, refusedAt := s.nextId, shown := none, mask := none, chosen := none } := mapGet_mapSet_same ..

end Refused

section Failed

variable {p : PlaneId} {pl : Plane} {c e : Nat} {t : Task}

theorem emptied_ctxs : (emptied s p c e).ctxs = s.ctxs := by simp [emptied, State.sweepTack, State.pruneEdges, spoiled]

theorem emptied_dram : (emptied s p c e).dram = s.dram := by simp [emptied, State.sweepTack, State.pruneEdges, spoiled]

theorem emptied_nextId : (emptied s p c e).nextId = s.nextId := by simp [emptied, State.sweepTack, State.pruneEdges, spoiled]

theorem emptied_regs : (emptied s p c e).regs = s.regs := by simp [emptied, State.sweepTack, State.pruneEdges, spoiled]

theorem emptied_plane (hp : s.plane? p = some pl) : (emptied s p c e).plane? p = some {} := by
  have hpads : (emptied s p c e).pads = ((spoiled s e).setPlane p {}).pads := by
    simp only [emptied, State.sweepTack, State.pruneEdges]
  have hspoiled : (spoiled s e).plane? p = some pl := hp
  rw [plane?_of_pads hpads, State.plane_setPlane_same, hspoiled, Option.map_some]

theorem emptied_task (ht : s.task c = some t) (hr : t.restores = none) : (emptied s p c e).task c = some t := by
  have htasks : (emptied s p c e).tasks = s.tasks.filter fun u => u.2.restores ≠ some c := by
    simp [emptied, State.sweepTack, State.pruneEdges, spoiled]
  rw [State.task, htasks]
  exact mapGet_filter_of_pos ht (by simp [hr])

theorem emptied_bad {y : TackEntry} (hy : mapGet (emptied s p c e).tack e = some y) : y.bad = true := by
  have hm := mem_of_mapGet hy
  simp only [emptied, State.sweepTack, State.pruneEdges, State.setPlane_tack, spoiled] at hm
  obtain ⟨⟨k, x⟩, -, hx⟩ := List.mem_map.1 (List.mem_filter.1 hm).1
  split at hx
  next => cases hx; rfl
  next hne => cases hx; exact absurd rfl hne

/-- The task of a plane that cannot be configured takes fault 0x31, which cannot resume (R454). -/
theorem configFailed_eq {d : Paddock} (he : pl.entry = some e) (ht : s.task pl.colour = some t) (hh : t.handler = false)
    (hr : t.restores = none) (htr : takesTraps (s.ctx t.ctx)) : s.configFailed p d pl =
      refusedWith (unconfigured s p pl.colour e t) pl.colour { t with plane := none, st := .ready }
        { s.planeFault d 0x31 true with die := (Config.freeWord s.fresh).toNat % 9 } := by
  have hmod : (emptied s p pl.colour e).modTask pl.colour (fun t => { t with plane := none, st := .ready }) =
      unconfigured s p pl.colour e t := modTask_eq _ (emptied_task ht hr)
  have htask : (unconfigured s p pl.colour e t).task pl.colour = some { t with plane := none, st := .ready } :=
    mapGet_mapSet_same ..
  have hctx : takesTraps ((unconfigured s p pl.colour e t).ctx t.ctx) := by
    rw [unconfigured, State.ctx, State.setTask_ctxs, emptied_ctxs]
    exact htr
  have hfault : s.planeFault d 0x31 true = (unconfigured s p pl.colour e t).planeFault d 0x31 true := by
    simp only [State.planeFault, State.dieTime, unconfigured, State.setTask_regs, emptied_regs]
  rw [← refuse_eq_refusedWith (reason := 0) htask hh hctx, hfault, ← hmod]
  simp only [State.configFailed, he, Option.getD_some]
  rfl

end Failed

theorem configures_planes : configures := by
  intro s d pl e x hd hp hst hab he hx
  have hexec : exec .configComplete s = execConfigComplete s := rfl
  have hgo : ¬ (pl.st ≠ .config ∨ pl.abandon = true) := by simp [hst, hab]
  have him : pl.entry.bind s.imageOf = some x.image := by simp [he, State.imageOf, hx]
  refine ⟨fun hv hs => ?_, fun hv hw => ?_, fun t hv hw ht hh hr htr => ?_⟩
  · have hv' : ¬ ¬ s.arg.verdict = true := by simp [hv]
    simp only [hexec, execConfigComplete, hd, hp, him, hs, if_neg hgo, if_neg hv']
    rfl
  · have hv' : ¬ s.arg.verdict = true := by simp [hv]
    simp only [hexec, execConfigComplete, hd, hp, if_neg hgo, if_pos hv', if_pos hw, satAdd_eq_oneMore]
  · have hv' : ¬ s.arg.verdict = true := by simp [hv]
    have hz : exec .configComplete s = .next (s.configFailed s.arg.plane d pl) := by
      simp only [hexec, execConfigComplete, hd, hp, if_neg hgo, if_pos hv', if_neg hw.not_gt]
    rw [configFailed_eq he ht hh hr htr] at hz
    refine ⟨_, (Config.freeWord s.fresh).toNat % 9, hz, ?_, ?_, ?_, ?_, ?_⟩
    · rw [refusedWith_plane, unconfigured, plane?_of_pads (State.setTask_pads ..)]
      exact emptied_plane hp
    · rw [refusedWith_tack, unconfigured, State.setTask_tack]
      exact fun y => emptied_bad
    · rw [refusedWith_ctxs, unconfigured, State.setTask_ctxs, emptied_ctxs]
    · rw [refusedWith_dram, unconfigured, State.setTask_dram, emptied_dram]
    · rw [refusedWith_task, unconfigured, State.setTask_nextId, emptied_nextId]
      rfl

/-- Settles O54: translations, the entries they fill, the plans they keep, and the planes configured from them. -/
theorem loadsTranslateAndConfigure : Obligations.LoadsTranslateAndConfigure :=
  ⟨translates_loads, fills_entry, plans_stay, configures_planes⟩

end Sys2Proof.Proofs
end

