-- ==== Sys2Proof/Proofs/Reset.lean ====
section
/-! The state after reset: what each register reads as, by the reset columns of the tables, and what is empty. The registers that
stand once per die or per peer are read at a general index, in any state. -/

namespace Sys2Proof.Machine

/-! ## Registers that stand once per die or per peer (R382, R467, R468) -/

section Indexed

variable {s : State} {d : Nat}

theorem deviceReg_dieTime (hd : d < 9) : s.deviceReg (0x20 + d) = some (s.dieTime d) := by
  simp (disch := omega) only [State.deviceReg, if_neg, if_pos, Nat.add_sub_cancel_left]

theorem deviceReg_heldOffset (hd : d < 9) : s.deviceReg (0x30 + d) = some ((s.regs.heldOffsets[d]?).getD 0#64) := by
  simp (disch := omega) only [State.deviceReg, if_neg, if_pos, Nat.add_sub_cancel_left]

theorem deviceReg_rate (hd : d < 9) : s.deviceReg (0x40 + d) = some ((s.regs.rates[d]?).getD 0#64) := by
  simp (disch := omega) only [State.deviceReg, if_neg, if_pos, Nat.add_sub_cancel_left]

theorem deviceReg_peer (hd : d < 256) : s.deviceReg (0x100 + d) = some ((mapGet s.regs.peerTab d).getD 0#64) := by
  simp (disch := omega) only [State.deviceReg, if_neg, if_pos, Nat.add_sub_cancel_left]

end Indexed

/-! ## Reset -/

variable {d : Nat}

theorem reset_dieTime (hd : d < 9) : State.reset.dieTime d = 0#64 :=
  List.getD_replicate _ hd

theorem reset_heldOffset (hd : d < 9) : (State.reset.regs.heldOffsets[d]?).getD 0#64 = 0#64 :=
  List.getD_replicate _ hd

theorem reset_rate (hd : d < 9) : (State.reset.regs.rates[d]?).getD 0#64 = 0x0001_0000_0000_0000#64 :=
  List.getD_replicate _ hd

/-- No context is listed and none owns a plane or a colour, so each reads as the first does. -/
theorem reset_ctxReg (c n : Nat) : State.reset.ctxReg c n = State.reset.ctxReg 0 n := rfl

theorem reset_memoriesWf : State.reset.memoriesWf :=
  ⟨Memory.wf_empty, Memory.wf_empty, Memory.wf_empty, fun _ h => absurd h List.not_mem_nil, fun _ h => absurd h List.not_mem_nil⟩

end Sys2Proof.Machine

namespace Sys2Proof.Proofs

open Sys2Proof.Machine Sys2Proof.Claims

theorem reset_registers_read : resetRegisters := by
  refine ⟨?_, fun c x hx => (reset_ctxReg c x.1).trans (?_ : State.reset.ctxReg 0 x.1 = some x.2)⟩
  · simp only [List.forall_mem_append, List.forall_mem_map, List.mem_range]
    refine ⟨⟨⟨⟨by decide, fun d hd => ?_⟩, fun d hd => ?_⟩, fun d hd => ?_⟩, fun k hk => ?_⟩
    · rw [deviceReg_dieTime hd, reset_dieTime hd]
    · rw [deviceReg_heldOffset hd, reset_heldOffset hd]
    · rw [deviceReg_rate hd, reset_rate hd]
    · rw [deviceReg_peer hk]
      rfl
  · revert x
    decide

theorem reset_quiet : resetQuiet :=
  ⟨reset_memoriesWf, rfl, rfl, rfl, rfl, rfl, rfl, rfl, rfl⟩

/-- Settles O5: the registers that stand once are a finite table, those of a die or a peer read their field, and every context
reads as context 0 does. -/
theorem resetLeaves : Obligations.ResetLeaves :=
  ⟨reset_registers_read, reset_quiet⟩

end Sys2Proof.Proofs
end

