-- ==== Sys2Proof/Proofs/Firings.lean ====
section
/-! The control operators (R182 to R218): the state in which an operator stands in its turn answers the outcome of its rule, and what a
rule says of the tokens that it takes, joins and tests. -/

namespace Sys2Proof.Claims

open Sys2Proof.Machine

/-! ## An operator in its turn -/

/-- The step of operator i in state s is a firing of one cycle, of a rule that has outcome f on view v. -/
def FiresAs (s : State) (i : Instr) (v : View) (f : Firing) : Prop :=
  ∃ rule : View → Firing, rule v = f ∧ exec i s = fireOnce s v.g (controlCost i) (controlTimes i) rule

/-- No DRAIN at the cursor waits for its barrier (R42). -/
def drainGoes (s : State) (i : Instr) : Prop :=
  ∀ g p k pl n, i = .drain g → cursorNode s = some (p, k, pl, n) → pl.drainWaits k n = false

/-- What answers with the effects of a relation fires with them. -/
theorem controlFires_of_firesAs {does : Instr → View → Effect → Prop}
    (h : ∀ {s i v e}, does i v e → drainGoes s i → FiresAs s i v (.fires e)) : controlFires does := by
  intro i s p k pl n g e v hdoes hturn hroom hdrain
  have hgo : drainGoes s i := by
    rintro g' p' k' pl' n' hi hc
    cases hturn.at_cursor.symm.trans hc
    exact hdrain g' hi
  obtain ⟨rule, hrule, hexec⟩ := h hdoes hgo
  rw [hexec]
  exact fireOnce_turn hturn hrule hroom

/-- What answers with the faults of the relation has them detected. -/
theorem controlFault_of_firesAs (h : ∀ {s i v ops c}, ControlFaults i v ops c → FiresAs s i v (v.fail ops c)) : controlFault := by
  intro i s p k pl n g ops c v hfault hturn
  obtain ⟨rule, hrule, hexec⟩ := h hfault
  rw [hexec]
  exact fireOnce_fault hturn hrule

/-! ## Tokens taken, joined and tested (R185, R187) -/

@[simp] theorem isMarker_data (x : W64) : (Token.data x).isMarker = false := rfl
@[simp] theorem isMarker_poison (q : BitVec 8) : (Token.poison q).isMarker = false := rfl
@[simp] theorem isMarker_marker (l : BitVec 3) (r st : BitVec 8) : (Token.marker l r st).isMarker = true := rfl
@[simp] theorem isPoison_data (x : W64) : (Token.data x).isPoison = false := rfl
@[simp] theorem isPoison_poison (q : BitVec 8) : (Token.poison q).isPoison = true := rfl
@[simp] theorem isData_data (x : W64) : (Token.data x).isData = true := rfl
@[simp] theorem isTrue_poison (q : BitVec 8) : isTrue (.poison q) = false := rfl

@[simp] theorem token_isTrue (t : Token) : t.isTrue = isTrue t := by cases t <;> rfl

theorem isTrue_data {x : W64} {b : Bool} (h : x.getLsbD 0 = b) : isTrue (.data x) = b := h

theorem plain_of_isTrue {t : Token} (h : isTrue t = true) : t.isMarker = false := by
  cases t <;> simp_all [isTrue, Token.isMarker]

theorem exists_marker {t : Token} (h : t.isMarker = true) : ∃ l r st, t = .marker l r st := by
  cases t <;> simp_all [Token.isMarker]

theorem exists_poison {t : Token} (h : t.isPoison = true) : ∃ q, t = .poison q := by
  cases t <;> simp_all [Token.isPoison]

@[simp] theorem level_marker (l : BitVec 3) (r st : BitVec 8) : (Token.marker l r st).level = l.toNat := rfl
@[simp] theorem round_marker (l : BitVec 3) (r st : BitVec 8) : (Token.marker l r st).round = r := rfl

theorem plain_of_isData {t : Token} (h : t.isData = true) : t.isMarker = false := by
  cases t <;> simp_all [Token.isData, Token.isMarker]

theorem not_isPoison_of_isData {t : Token} (h : t.isData = true) : t.isPoison = false := by
  cases t <;> simp_all [Token.isData, Token.isPoison]

@[simp] theorem both_eq_onBoth (t : Token) : both t = onBoth t := rfl

theorem not_isPoison_of_isTrue {t : Token} (h : isTrue t = true) : t.isPoison = false := by
  cases t <;> simp_all [isTrue, Token.isPoison]

section View
variable {v : View} {ops : List Operand}

/-- A firing that takes one token from each operand of a list. -/
@[simp] theorem go_eq_took (emits : List (Nat × Token)) (st : Option OpState) (round : Option (BitVec 8)) :
    v.go ops emits st round = .fires (took v ops emits st round) := by
  simp only [View.go, took, View.dataOn, Firing.fires.injEq, Effect.mk.injEq, true_and]
  congr 1
  funext o
  rcases v.head o with _ | t
  · rfl
  · cases t <;> rfl

/-- A firing that takes data or poison counts (R354). -/
theorem took_counted {o : Operand} {t : Token} (ho : o ∈ ops) (h : v.head o = some t) (ht : t.isData = true ∨ t.isPoison = true)
    (emits : List (Nat × Token)) (st : Option OpState) (round : Option (BitVec 8)) : took v ops emits st round =
      { takes := takeOne ops, emits, st, round, data := v.dataOn ops, counted := true } := by
  have hc : (ops.any fun o => (v.head o).any fun t => t.isData || t.isPoison) = true :=
    List.any_eq_true.2 ⟨o, ho, by simpa [h] using ht⟩
  simp only [took, hc, View.dataOn]

theorem join_fires {hs : List Token} {m : Token} {k : Token → Effect} (h : ops.map v.head = hs.map some)
    (ha : hs.all Token.isMarker = true) (hj : joinMarkers hs = some m) :
    v.join ops k = .fires { k m with takes := takeOne ops } := by
  simp only [View.join, heads_eq_some h, View.joined, ha, hj, if_true]

theorem join_clash {hs : List Token} {k : Token → Effect} (h : ops.map v.head = hs.map some) (hc : clash hs) :
    v.join ops k = v.fail ops 0x51 := by
  obtain ⟨-, hc⟩ := hc
  simp only [View.join, heads_eq_some h, View.joined]
  split
  next ha => rw [hc.resolve_left (by simp [ha])]
  next => rfl

theorem predicate_quiet {c : Token} {f : Firing} (h : quiet v c) : v.predicate ops c f = f := by
  refine if_neg fun hc => ?_
  obtain ⟨hp, ht⟩ := Bool.and_eq_true_iff.1 hc
  exact absurd ht (by simp only [View.poisonTrap, h hp, Bool.false_eq_true, not_false_eq_true])

@[simp] theorem predicate_data (x : W64) (f : Firing) : v.predicate ops (.data x) f = f := predicate_quiet nofun

theorem predicate_traps {q : BitVec 8} {f : Firing} (h : v.trapen.getLsbD 7 = true) :
    v.predicate ops (.poison q) f = v.fail ops 0x30 := by
  simp [View.predicate, Token.isPoison, View.poisonTrap, h]

@[simp] theorem afterPassed_eq (m : Token) : v.afterPassed m = passed v m := rfl

theorem loopState_of_loopAt {l : LoopState} (h : loopAt v l) : v.loopState = l := by
  unfold loopAt at h
  unfold View.loopState
  split at h <;> simp_all

end View

end Sys2Proof.Claims
end

