-- ==== Sys2Proof/Proofs/Steering.lean ====
section
/-! Steering operators (R192 to R198): the cases of their relation are the branches of their rules. -/

namespace Sys2Proof.Claims

open Sys2Proof.Machine

variable {s : State} {i : Instr} {v : View} {e : Effect}

/-! ## STEER and MERGE (R192, R193) -/

section Steer
variable {a c : Token}

theorem ruleSteer_joins (ha : v.a = some a) (hp : v.p = some c) (hq : v.g.opt ≠ 3#2)
    (hm : a.isMarker = true ∨ c.isMarker = true) : ruleSteer v = v.join [.a, .p] fun m =>
      { emits := (if v.g.opt = 2#2 then [] else [(0, m)]) ++ (if v.g.opt = 1#2 then [] else [(1, m)]) } := by
  have hq : v.g.opt.toNat ≠ 3 := fun h => hq (BitVec.eq_of_toNat_eq h)
  simp [ruleSteer, ha, hp, hm, hq, ← BitVec.toNat_inj]

theorem ruleSteer_routes (ha : v.a = some a) (hp : v.p = some c) (hq : v.g.opt = 3#2 ∨ plain a) (hc : plain c) :
    ruleSteer v = v.predicate [.a, .p] c (
      if c.isPoison then v.go [.a, .p] [(1, c)] else if isTrue c then v.go [.a, .p] [(0, a)] else v.go [.a, .p] [(1, a)]) := by
  have hq : v.g.opt.toNat ≠ 3 → a.isMarker = false := fun hn => hq.resolve_left fun h => hn (by rw [h]; rfl)
  simp +contextual [ruleSteer, ha, hp, hc, hq]

end Steer

section Merge
variable {c : Token}

/-- The operands whose markers a MERGE joins. -/
def mergeOps (g : GArgs) : List Operand := if g.opt = 1#2 then [.a, .p] else if g.opt = 2#2 then [.b, .p] else [.a, .b, .p]

theorem ruleMerge_joins (hp : v.p = some c) (hc : c.isMarker = true) (hq : v.g.opt ≠ 3#2) :
    ruleMerge v = v.join (mergeOps v.g) fun m => { emits := onBoth m } := by
  have hn : v.g.opt.toNat ≠ 3 := fun h => hq (BitVec.eq_of_toNat_eq h)
  simp only [ruleMerge, hp, hc, hn, if_true, if_false]
  unfold mergeOps
  by_cases h1 : v.g.opt = 1#2
  · simp [h1]
  by_cases h2 : v.g.opt = 2#2
  · simp [h2]
  rw [if_neg h1, if_neg h2]
  split
  next h => exact absurd (BitVec.eq_of_toNat_eq h) h1
  next h => exact absurd (BitVec.eq_of_toNat_eq h) h2
  next => rfl

theorem ruleMerge_sends {o : Operand} {x : Token} (hp : v.p = some c) (hc : plain c) (ho : (if isTrue c then .a else .b) = o)
    (hx : v.head o = some x) (hq : v.g.opt = 3#2 ∨ plain x) :
    ruleMerge v = v.predicate [o, .p] c (v.go [o, .p] (onBoth (if c.isPoison then c else x))) := by
  have hq : v.g.opt.toNat ≠ 3 → x.isMarker = false := fun hn => hq.resolve_left fun h => hn (by rw [h]; rfl)
  have hq : ¬ (v.g.opt.toNat ≠ 3 ∧ x.isMarker = true) := fun ⟨hn, hm⟩ => by simp [hq hn] at hm
  simp only [ruleMerge, hp, hc, token_isTrue, ho, hx, if_neg hq, Bool.false_eq_true, if_false, both_eq_onBoth]

theorem ruleMerge_marker {o : Operand} {x : Token} (hp : v.p = some c) (hc : plain c) (ho : (if isTrue c then .a else .b) = o)
    (hx : v.head o = some x) (hq : v.g.opt ≠ 3#2) (hm : x.isMarker = true) : ruleMerge v = v.fail [o, .p] 0x51 := by
  have hq : v.g.opt.toNat ≠ 3 ∧ x.isMarker = true := ⟨fun h => hq (BitVec.eq_of_toNat_eq h), hm⟩
  simp only [ruleMerge, hp, hc, token_isTrue, ho, hx, if_pos hq, Bool.false_eq_true, if_false]

end Merge

/-- Each firing of R192 to R198 is the outcome of its operator's rule. -/
theorem SteersTo.firesAs (h : SteersTo i v e) : FiresAs s i v (.fires e) := by
  cases h with
  | steerMarkers ha hp hq hma hmp hj =>
    exact ⟨ruleSteer, (ruleSteer_joins ha hp hq (.inl hma)).trans
      (join_fires (by simp [View.head, ha, hp]) (by simp [hma, hmp]) hj), rfl⟩
  | steerTrue ha hp hx hq =>
    exact ⟨ruleSteer, by simp [ruleSteer_routes ha hp hq rfl, isTrue_data hx], rfl⟩
  | steerFalse ha hp hx hq =>
    exact ⟨ruleSteer, by simp [ruleSteer_routes ha hp hq rfl, isTrue_data hx], rfl⟩
  | steerPoison ha hp ht hq =>
    exact ⟨ruleSteer, by simp [ruleSteer_routes ha hp hq rfl, predicate_quiet fun _ => ht], rfl⟩
  | mergeMarkers hp hc hq ho hh ha hj =>
    subst ho
    exact ⟨ruleMerge, (ruleMerge_joins hp hc hq).trans (join_fires hh ha hj), rfl⟩
  | mergeTrue hp hy ha hq =>
    exact ⟨ruleMerge, by simp [ruleMerge_sends hp rfl (if_pos (isTrue_data hy)) ha hq], rfl⟩
  | mergeFalse hp hy hb hq =>
    exact ⟨ruleMerge, by simp [ruleMerge_sends hp rfl (if_neg (by simp [isTrue_data hy])) hb hq], rfl⟩
  | mergePoison hp ht hb hq =>
    exact ⟨ruleMerge, by simp [ruleMerge_sends hp rfl (if_neg (by simp)) hb hq, predicate_quiet fun _ => ht], rfl⟩
  | carryInitMarker hl ha hm =>
    exact ⟨ruleCarry, by simp [ruleCarry, loopState_of_loopAt hl, ruleLoopIdle, ha, hm], rfl⟩
  | carryInit hl ha hx =>
    exact ⟨ruleCarry, by simp [ruleCarry, loopState_of_loopAt hl, ruleLoopIdle, ha, hx], rfl⟩
  | carryEcho hl hp hm =>
    exact ⟨ruleCarry, by simp [ruleCarry, loopState_of_loopAt hl, ruleLoopEcho, hp, hm], rfl⟩
  | carryLoop hl hp hy hb hx =>
    exact ⟨ruleCarry, by simp [ruleCarry, loopState_of_loopAt hl, hp, isTrue_data hy, hb, hx], rfl⟩
  | carryRearm hl hp hc ht hq =>
    exact ⟨ruleCarry, by simp [ruleCarry, loopState_of_loopAt hl, hp, hc, ht, predicate_quiet hq], rfl⟩
  | invarEmptyMarker hl ha hm =>
    exact ⟨ruleInvar, by simp [ruleInvar, loopState_of_loopAt hl, ruleLoopIdle, ha, hm], rfl⟩
  | invarEmpty hl ha hx =>
    exact ⟨ruleInvar, by simp [ruleInvar, loopState_of_loopAt hl, ruleLoopIdle, ha, hx], rfl⟩
  | invarEcho hl hp hm =>
    exact ⟨ruleInvar, by simp [ruleInvar, loopState_of_loopAt hl, ruleLoopEcho, hp, hm], rfl⟩
  | invarHold hs hp hy =>
    exact ⟨ruleInvar, by simp [ruleInvar, View.loopState, hs, hp, isTrue_data hy], rfl⟩
  | invarRelease hl hp hc ht hq =>
    exact ⟨ruleInvar, by simp [ruleInvar, loopState_of_loopAt hl, hp, hc, ht, predicate_quiet hq], rfl⟩
  | fork ha => exact ⟨ruleFork, by simp [ruleFork, ha, toTargets], rfl⟩
  | sink ha => exact ⟨ruleSink, by simp [ruleSink, ha, atSink], rfl⟩
  | gateMarker ha hm => exact ⟨ruleGate, by simp [ruleGate, ha, hm], rfl⟩
  | gate ha ht hp => exact ⟨ruleGate, by simp [ruleGate, ha, ht, hp], rfl⟩

end Sys2Proof.Claims
end

