-- ==== Sys2Proof/Proofs/Sequencing.lean ====
section
/-! Sequencing operators (R199 to R204): the cases of their relation are the branches of their rules. -/

namespace Sys2Proof.Claims

open Sys2Proof.Machine

variable {s : State} {i : Instr} {v : View} {e : Effect}

/-- The marker that a punctuating operator makes, with a status, and the round counter after it (R189). -/
theorem makes_eq (l : Nat) (st : BitVec 8) : makes v l st = (withStatus (v.made l) st, v.afterMade l) := by
  unfold makes View.made View.afterMade
  split <;> simp [withStatus, marker]

theorem makes_zero (l : Nat) : makes v l 0#8 = (v.made l, v.afterMade l) := by
  unfold makes View.made View.afterMade
  split <;> rfl

/-! ## COUNT (R199) -/

section Count
variable {k hi : Int}

theorem countMore_iff (g : GArgs) (k hi : Int) : countMore g k hi = true ↔ inRange g k hi := by
  unfold countMore inRange countStep
  split <;> simp_all

/-- A COUNT that stands at a value goes on from it. -/
theorem ruleCount_of_countsAt (h : countsAt v k hi) : ruleCount v = countFrom v k hi := by
  obtain ⟨x, y, ha, hb, rfl, hst | ⟨hst, hx, hy, rfl⟩⟩ := h
  · simp only [ruleCount, ha, hb, hst]
  · simp [ruleCount, ha, hb, hst, plain_of_isData hx, plain_of_isData hy, not_isPoison_of_isData hx, not_isPoison_of_isData hy]

theorem countFrom_more (h : inRange v.g k hi) (hn : inRange v.g (nextValue v.g k) hi) : countFrom v k hi =
    .fires { emits := onBoth (.data (tyWrap v.g.ty k)), st := some (.count (some (nextValue v.g k))) } := by
  rw [← countMore_iff] at h hn
  unfold countFrom
  rw [if_pos h]
  exact if_pos hn

theorem countFrom_last (h : inRange v.g k hi) (hn : ¬ inRange v.g (nextValue v.g k) hi) : countFrom v k hi =
    .fires (if levelOf v.g = 0 then countDone v (onBoth (.data (tyWrap v.g.ty k))) .plain
      else { emits := onBoth (.data (tyWrap v.g.ty k)), st := some (.count none) }) := by
  rw [← countMore_iff] at h hn
  unfold countFrom
  rw [if_pos h]
  exact (if_neg hn).trans (apply_ite Firing.fires (levelOf v.g = 0) _ _).symm

theorem countEnd_made (hl : levelOf v.g ≠ 0) : countEnd v =
    .fires (countDone v (onBoth (makes v (levelOf v.g) 0#8).1) .plain (some (makes v (levelOf v.g) 0#8).2)) := by
  simp only [makes_zero]
  exact if_neg hl

theorem countFrom_empty (h : ¬ inRange v.g k hi) : countFrom v k hi =
    if levelOf v.g = 0 then .fires (countDone v [] .plain) else countEnd v := by
  rw [← countMore_iff] at h
  unfold countFrom
  rw [if_neg h]
  rfl

/-- A marker on an operand of an idle COUNT is joined with the other's (R187). -/
theorem ruleCount_joins {x y : Token} (hst : v.st = .plain) (ha : v.a = some x) (hb : v.b = some y)
    (hm : x.isMarker = true ∨ y.isMarker = true) :
    ruleCount v = v.join [.a, .b] fun m => { emits := onBoth m, round := some (passed v m) } := by
  simp [ruleCount, ha, hb, hst, hm]

theorem find_poison_pair {x y q : Token} (hq : [x, y].find? Token.isPoison = some q) :
    (x.isPoison = true ∨ y.isPoison = true) ∧ q = if x.isPoison then x else y := by
  cases hx : x.isPoison <;> cases hy : y.isPoison <;> simp_all

/-- Poison on an operand of an idle COUNT faults where its trap is on, and passes otherwise (R39, R187). -/
theorem ruleCount_poison {x y : Token} (hst : v.st = .plain) (ha : v.a = some x) (hb : v.b = some y) (hx : x.isMarker = false)
    (hy : y.isMarker = false) (hp : x.isPoison = true ∨ y.isPoison = true) : ruleCount v =
      if v.trapen.getLsbD 7 then v.fail [.a, .b] 0x30
      else if levelOf v.g = 0 then .fires (took v [.a, .b] (onBoth (if x.isPoison then x else y)))
      else .fires { emits := onBoth (if x.isPoison then x else y), st := some (.count none) } := by
  have hor : (x.isPoison || y.isPoison) = true := by simp [hp]
  have htook : took v [.a, .b] (onBoth (if x.isPoison then x else y)) =
      { takes := takeOne [.a, .b], emits := onBoth (if x.isPoison then x else y), data := v.dataOn [.a, .b], counted := true } := by
    obtain hp | hp := hp
    · exact took_counted (o := .a) (by simp) ha (.inr hp) ..
    · exact took_counted (o := .b) (by simp) hb (.inr hp) ..
  simp only [ruleCount, ha, hb, hst, hx, hy, hor, htook, Bool.or_false, Bool.false_eq_true, if_false, if_true, both_eq_onBoth]
  rfl

end Count

/-! ## MARK, MLIFT and ZIP (R200, R202, R204) -/

section Mark
variable {t : Token} {n : Nat}

theorem markState_of_markAt {pending : Bool} (h : markAt v n pending) : markState v = (n, pending) := by
  obtain h | ⟨h, rfl, rfl⟩ := h <;> simp [markState, h]

theorem markStatus_eq (g : GArgs) : markStatus g = markStat g := rfl

theorem ruleMark_passes (h : markAt v n false) (ha : v.a = some t) (ht : t.isMarker = false) : ruleMark v =
    .fires (took v [.a] (onBoth t) (some (if n + 1 ≥ v.g.bits 15 0 + 1 then .mark 0 true else .mark (n + 1) false))) := by
  cases t <;> simp_all [ruleMark, markState_of_markAt h] <;> split <;> rfl

theorem ruleMark_pending (h : v.st = .mark n true) (ha : v.a = some t) (ht : t.isMarker = false) : ruleMark v =
    .fires { emits := onBoth (makes v (levelOf v.g) (markStat v.g)).1, st := some (.mark 0 false)
             round := some (makes v (levelOf v.g) (markStat v.g)).2 } := by
  cases t <;> simp_all [ruleMark, markState_of_markAt (.inl h), makes_eq, levelOf, markStatus_eq]

theorem ruleMark_merges {l : BitVec 3} {r st : BitVec 8} (h : v.st = .mark n true) (ha : v.a = some (.marker l r st)) (hl : l.toNat < 4) :
    ruleMark v = .fires (took v [.a] (onBoth (makes v (max l.toNat (levelOf v.g)) (st ||| markStat v.g)).1) (some (.mark 0 false))
      (some (makes v (max l.toNat (levelOf v.g)) (st ||| markStat v.g)).2)) := by
  simp [ruleMark, markState_of_markAt (.inl h), ha, hl.not_ge, makes_eq, levelOf, markStatus_eq]

end Mark

theorem ruleMlift_passes {t : Token} (ha : v.a = some t) (ht : t.isMarker = false) : ruleMlift v = .fires (took v [.a] (onBoth t)) := by
  cases t <;> simp_all [ruleMlift]

theorem ruleZip_takes {t : Token} {turn taken : Nat} (h : zipAt v turn taken) (ht : v.head (zipOp turn) = some t) (hp : plain t) :
    ruleZip v = .fires (took v [zipOp turn] (onBoth t) (some (if taken + 1 ≥ v.g.bits 7 0 + 1
      then .zip (if turn + 1 ≥ (zipOps v).length then 0 else turn + 1) 0 else .zip turn (taken + 1)))) := by
  have hlen : (zipOps v).length = if v.fed.getLsbD 2 then 3 else 2 := by unfold zipOps; split <;> rfl
  rw [hlen]
  unfold zipOp at ht ⊢
  obtain hst | ⟨hst, rfl, rfl⟩ := h
  · simp [ruleZip, hst, ht, hp]
  · simp only [if_true] at ht
    simp [ruleZip, hst, ht, hp]

theorem ruleZip_inside {t : Token} {turn taken : Nat} (h : zipAt v turn taken) (hn : (turn, taken) ≠ (0, 0))
    (ht : v.head (zipOp turn) = some t) (hm : t.isMarker = true) : ruleZip v = v.fail [zipOp turn] 0x51 := by
  have hn : ¬ (turn = 0 ∧ taken = 0) := fun h => hn (Prod.ext h.1 h.2)
  obtain hst | ⟨-, h0, h1⟩ := h
  · unfold zipOp at ht ⊢
    simp [ruleZip, hst, ht, hm, hn]
  · exact absurd ⟨h0, h1⟩ hn

theorem zipOps_eq : zipOps v = .a :: .b :: if v.fed.getLsbD 2 then [.c] else [] := by
  unfold zipOps
  split <;> rfl

theorem ruleZip_joins {t : Token} (h : zipAt v 0 0) (ha : v.a = some t) (ht : t.isMarker = true) :
    ruleZip v = v.join (zipOps v) fun m => { emits := onBoth m } := by
  have ha : v.head .a = some t := ha
  rw [zipOps_eq]
  obtain hst | ⟨hst, -⟩ := h <;> simp [ruleZip, hst, ha, ht]

/-- Where the operands of a ZIP all hold tokens, operand a holds the first of them. -/
theorem zipOps_head {hs : List Token} (h : (zipOps v).map v.head = hs.map some) : ∃ t ts, hs = t :: ts ∧ v.a = some t := by
  rw [zipOps_eq] at h
  cases hs with
  | nil => simp at h
  | cons t ts => exact ⟨t, ts, rfl, (List.cons.inj h).1⟩

/-- Each firing of R199 to R204 is the outcome of its operator's rule. -/
theorem SequencesTo.firesAs (h : SequencesTo i v e) : FiresAs s i v (.fires e) := by
  cases h with
  | countMarkers hst ha hb hx hy hj =>
    exact ⟨ruleCount, (ruleCount_joins hst ha hb (.inl hx)).trans
      (join_fires (by simp [View.head, ha, hb]) (by simp [hx, hy]) hj), rfl⟩
  | countValue h hk hn => exact ⟨ruleCount, (ruleCount_of_countsAt h).trans (countFrom_more hk hn), rfl⟩
  | countLast h hk hn hl => exact ⟨ruleCount, by rw [ruleCount_of_countsAt h, countFrom_last hk hn, if_neg hl], rfl⟩
  | countLastBare h hk hn hl => exact ⟨ruleCount, by rw [ruleCount_of_countsAt h, countFrom_last hk hn, if_pos hl], rfl⟩
  | countEmpty h hk hl =>
    exact ⟨ruleCount, by rw [ruleCount_of_countsAt h, countFrom_empty hk, if_neg hl, countEnd_made hl], rfl⟩
  | countEmptyBare h hk hl => exact ⟨ruleCount, by rw [ruleCount_of_countsAt h, countFrom_empty hk, if_pos hl], rfl⟩
  | countMarker ha hb hst hl =>
    exact ⟨ruleCount, by simp only [ruleCount, ha, hb, hst, countEnd_made hl], rfl⟩
  | countPoison hst ha hb hx hy ht hq hl =>
    obtain ⟨hp, rfl⟩ := find_poison_pair hq
    exact ⟨ruleCount, by rw [ruleCount_poison hst ha hb hx hy hp, if_neg (ne_true_of_eq_false ht), if_neg hl], rfl⟩
  | countPoisonBare hst ha hb hx hy ht hq hl =>
    obtain ⟨hp, rfl⟩ := find_poison_pair hq
    exact ⟨ruleCount, by rw [ruleCount_poison hst ha hb hx hy hp, if_neg (ne_true_of_eq_false ht), if_pos hl], rfl⟩
  | markPass h ha ht => exact ⟨ruleMark, ruleMark_passes h ha ht, rfl⟩
  | markMarker h ha hm =>
    obtain ⟨l, r, st, rfl⟩ := exists_marker hm
    exact ⟨ruleMark, by simp [ruleMark, markState_of_markAt h, ha, levelOf], rfl⟩
  | markPending h ha ht => exact ⟨ruleMark, ruleMark_pending h ha ht, rfl⟩
  | markMerges h ha hl => exact ⟨ruleMark, ruleMark_merges h ha hl, rfl⟩
  | markMergesRound h ha hl =>
    exact ⟨ruleMark, by simp [ruleMark, markState_of_markAt (.inl h), ha, hl, levelOf, markStatus_eq], rfl⟩
  | mstripDrop ha hm hl => exact ⟨ruleMstrip, by simp [ruleMstrip, ha, hm, hl], rfl⟩
  | mstripPass ha ht =>
    refine ⟨ruleMstrip, ?_, rfl⟩
    obtain ht | ht := ht <;> simp [ruleMstrip, ha, ht]
  | mliftUp ha hl h4 hd => exact ⟨ruleMlift, by simp [ruleMlift, ha, hl, h4, hd], rfl⟩
  | mliftKeep ha hl h =>
    have hn : ¬ (v.g.bits 5 3 ≥ 4 ∧ v.g.bits 2 0 < 4) := by omega
    exact ⟨ruleMlift, by simp only [ruleMlift, ha, hl, if_true, if_neg hn, go_eq_took, both_eq_onBoth, afterPassed_eq], rfl⟩
  | mliftOther ha hm hl =>
    obtain ⟨l, r, st, rfl⟩ := exists_marker hm
    exact ⟨ruleMlift, by simp_all [ruleMlift], rfl⟩
  | mliftPass ha ht => exact ⟨ruleMlift, ruleMlift_passes ha ht, rfl⟩
  | mtest ha => exact ⟨ruleMtest, by simp [ruleMtest, ha, predWord], rfl⟩
  | zipMarkers h hh hm hj =>
    obtain ⟨t, ts, rfl, ha⟩ := zipOps_head hh
    have ht : t.isMarker = true := List.all_eq_true.1 hm t List.mem_cons_self
    exact ⟨ruleZip, (ruleZip_joins h ha ht).trans (join_fires hh hm hj), rfl⟩
  | zipMore h ht hp hn => exact ⟨ruleZip, by rw [ruleZip_takes h ht hp, if_neg (by omega)], rfl⟩
  | zipTurn h ht hp hn => exact ⟨ruleZip, by rw [ruleZip_takes h ht hp, if_pos hn], rfl⟩

end Sys2Proof.Claims
end

