-- ==== Sys2Proof/Proofs/Ordering.lean ====
section
/-! Ordering operators (R205 to R210): the cases of their relation are the branches of their rules; what MSTRIP, FORK and ORD do with
each token. -/

namespace Sys2Proof.Claims

open Sys2Proof.Machine

variable {s : State} {i : Instr} {v : View} {e : Effect}

/-! ## JOIN (R206) -/

section Join
variable {a b c p : Nat}

/-- JOIN takes a token from input j, of which it has taken k. -/
def joinTakes (v : View) (o : Operand) (j k : Nat) : Bool := v.fed.getLsbD j && decide (k < v.g.bits 15 0 + 1) && (v.head o).isSome

/-- The count of an input after that. -/
def joinCount (v : View) (o : Operand) (j k : Nat) : Nat := if joinTakes v o j k then k + 1 else k

/-- An input that is not fed, or has delivered its tokens. -/
def joinDone (v : View) (j k : Nat) : Bool := !v.fed.getLsbD j || decide (k ≥ v.g.bits 15 0 + 1)

theorem joinCount_eq (o : Operand) (j k : Nat) : joinCount v o j k = k + if joinTakes v o j k then 1 else 0 := by
  unfold joinCount
  split <;> rfl

theorem joinOps_eq : joinOps v [a, b, c, p] = (if joinTakes v .a 0 a then [Operand.a] else []) ++
    (if joinTakes v .b 1 b then [Operand.b] else []) ++ (if joinTakes v .c 2 c then [Operand.c] else []) ++
    (if joinTakes v .p 3 p then [Operand.p] else []) := by
  have hcons : ∀ (f : Operand × Nat → Bool) x xs,
      (List.filter f (x :: xs)).map (·.1) = (if f x then [x.1] else []) ++ (xs.filter f).map (·.1) := by
    intro f x xs
    rw [List.filter_cons]
    split <;> rfl
  have hops : joinOps v [a, b, c, p] = (([(Operand.a, 0), (.b, 1), (.c, 2), (.p, 3)].filter fun x =>
    joinTakes v x.1 x.2 (([a, b, c, p][x.2]?).getD 0)).map (·.1)) := rfl
  simp only [hops, hcons, List.filter_nil, List.map_nil, List.append_nil, List.append_assoc]
  rfl

theorem joinNext_eq : joinNext v [a, b, c, p] = [joinCount v .a 0 a, joinCount v .b 1 b, joinCount v .c 2 c, joinCount v .p 3 p] := by
  simp [joinNext, List.zipIdx, joinOps_eq, joinCount_eq]

theorem joinFull_iff : joinFull v [a, b, c, p] ↔ (joinDone v 0 (joinCount v .a 0 a) && joinDone v 1 (joinCount v .b 1 b) &&
    joinDone v 2 (joinCount v .c 2 c) && joinDone v 3 (joinCount v .p 3 p)) = true := by
  have hdone : ∀ j k, joinDone v j k = true ↔ (v.fed.getLsbD j = true → v.g.bits 15 0 + 1 ≤ k) := by
    intro j k
    cases hj : v.fed.getLsbD j <;> simp [joinDone, hj, -BitVec.getLsbD_eq_getElem]
  simp only [joinFull, joinNext_eq, Bool.and_eq_true, hdone]
  constructor
  · intro h
    exact ⟨⟨⟨h 0 (by omega), h 1 (by omega)⟩, h 2 (by omega)⟩, h 3 (by omega)⟩
  · rintro ⟨⟨⟨h0, h1⟩, h2⟩, h3⟩ j hj
    match j with
    | 0 => exact h0
    | 1 => exact h1
    | 2 => exact h2
    | 3 => exact h3

theorem ruleJoin_eq (h : joinAt v [a, b, c, p]) : ruleJoin v =
    if (joinOps v [a, b, c, p]).isEmpty then .wait
    else if joinDone v 0 (joinCount v .a 0 a) && joinDone v 1 (joinCount v .b 1 b) && joinDone v 2 (joinCount v .c 2 c) &&
      joinDone v 3 (joinCount v .p 3 p)
    then .fires { takes := takeOne (joinOps v [a, b, c, p]), emits := onBoth .ord, st := some (.join 0 0 0 0) }
    else .fires { takes := takeOne (joinOps v [a, b, c, p])
                  st := some (.join (joinCount v .a 0 a) (joinCount v .b 1 b) (joinCount v .c 2 c) (joinCount v .p 3 p)) } := by
  rw [joinOps_eq]
  obtain ⟨a, b, c, p, hst, hk⟩ | ⟨hst, hk⟩ := h
  · cases hk
    simp only [ruleJoin, hst]
    rfl
  · cases hk
    simp only [ruleJoin, hst]
    rfl

/-- JOIN's counts are four. -/
theorem joinAt_counts {k : List Nat} (h : joinAt v k) : ∃ a b c p, k = [a, b, c, p] := by
  obtain ⟨a, b, c, p, -, rfl⟩ | ⟨-, rfl⟩ := h
  · exact ⟨a, b, c, p, rfl⟩
  · exact ⟨0, 0, 0, 0, rfl⟩

end Join

/-! ## BAR (R207) -/

theorem ruleBar_asks (h : barAsks v) : ruleBar v = barCount v v.b := by
  obtain ⟨hst, hlow⟩ := h
  cases ha : v.a with
  | none => obtain hst | hst := hst <;> simp [ruleBar, hst, ha]
  | some t =>
    have hl : ¬ t.level ≥ 6 := (hlow t ha).not_ge
    obtain hst | hst := hst <;> simp [ruleBar, hst, ha, hl]

/-- A DRAIN that goes fires as the other operators do (R42, R208). -/
theorem exec_drain {g : GArgs} (h : drainGoes s (.drain g)) :
    exec (.drain g) s = fireOnce s g (controlCost (.drain g)) (controlTimes (.drain g)) ruleDrain := by
  change execDrain g s = fireRouter s g ruleDrain
  unfold execDrain
  cases hc : cursorNode s with
  | none => simp [fireRouter, fireOnce, hc]
  | some x =>
    obtain ⟨p, k, pl, n⟩ := x
    simp [h g p k pl n rfl hc]

/-- Each firing of R205 to R210 is the outcome of its operator's rule; a DRAIN's, once it goes. -/
theorem OrdersTo.firesAs (h : OrdersTo i v e) (hd : drainGoes s i) : FiresAs s i v (.fires e) := by
  cases h with
  | ordToken ha ht =>
    exact ⟨ruleOrd, by obtain ht | ht := ht <;> simp [ruleOrd, ha, ht, -BitVec.getLsbD_eq_getElem], rfl⟩
  | ordMarker ha hm hk => exact ⟨ruleOrd, by simp only [ruleOrd, ha, hm, hk, go_eq_took]; rfl, rfl⟩
  | joinTake hk hops hf hn =>
    obtain ⟨a, b, c, p, rfl⟩ := joinAt_counts hk
    rw [joinNext_eq] at hn
    cases hn
    rw [joinFull_iff] at hf
    exact ⟨ruleJoin, by rw [ruleJoin_eq hk, if_neg (by simpa using hops), if_neg hf], rfl⟩
  | joinEmit hk hops hf =>
    obtain ⟨a, b, c, p, rfl⟩ := joinAt_counts hk
    exact ⟨ruleJoin, by rw [ruleJoin_eq hk, if_neg (by simpa using hops), if_pos (joinFull_iff.1 hf)], rfl⟩
  | barCount hi hb => exact ⟨ruleBar, by simp [ruleBar_asks hi, Machine.barCount, hb, Token.val], rfl⟩
  | barPoison hi hb ht => exact ⟨ruleBar, by simp [ruleBar_asks hi, Machine.barCount, hb, predicate_quiet fun _ => ht], rfl⟩
  | barIgnore hi hb hm => exact ⟨ruleBar, by simp [ruleBar_asks hi, Machine.barCount, hb, hm], rfl⟩
  | barMarkerIdle hi ha hl =>
    exact ⟨ruleBar, by obtain hst | hst := hi <;> simp [ruleBar, hst, ha, hl], rfl⟩
  | barMarker hst ha hm => exact ⟨ruleBar, by simp [ruleBar, hst, ha, hm], rfl⟩
  | barPass hst ha ht => exact ⟨ruleBar, by simp [ruleBar, hst, ha, ht], rfl⟩
  | barInject hst => exact ⟨ruleBar, by simp [ruleBar, hst, makes_zero], rfl⟩
  | drainPass ha hl => exact ⟨ruleDrain, by simp [ruleDrain, ha, hl.not_ge], exec_drain hd⟩
  | drainBarrier ha hl => exact ⟨ruleDrain, by simp [ruleDrain, ha, hl], exec_drain hd⟩
  | callA ha => exact ⟨ruleCall, by simp [ruleCall, ha], rfl⟩
  | callB ha hb => exact ⟨ruleCall, by simp [ruleCall, ha, hb], rfl⟩
  | callC ha hb hc => exact ⟨ruleCall, by simp [ruleCall, ha, hb, hc], rfl⟩
  | entry ha => exact ⟨ruleEntry, by simp [ruleEntry, ha], rfl⟩
  | exit ha => exact ⟨ruleExit, by simp [ruleExit, ha], rfl⟩

end Sys2Proof.Claims

namespace Sys2Proof.Proofs

open Sys2Proof.Machine Sys2Proof.Claims

/-- Settles O18: each case is a branch of its operator's rule. -/
theorem operatorsSteerSequenceOrder : Obligations.OperatorsSteerSequenceOrder :=
  ⟨controlFires_of_firesAs fun h _ => h.firesAs, controlFires_of_firesAs fun h _ => h.firesAs,
    controlFires_of_firesAs fun h hd => h.firesAs hd⟩

theorem took_eq_taking {v : View} {t : Token} (h : v.a = some t) (emits : List (Nat × Token)) :
    took v [.a] emits = taking t emits := by
  simp [took, taking, takeOne, View.head, h]

theorem plain_operators : plainOperators := by
  intro s p k pl n g t hturn ha
  obtain ⟨hsteer, hsequence, horder⟩ := operatorsSteerSequenceOrder
  have hv : (nodeView s pl k n g).a = some t := ha
  simp only [← took_eq_taking hv]
  refine ⟨fun hroom => hsteer _ s p k pl n g _ (.fork hv) hturn hroom nofun,
    fun hroom => hsequence _ s p k pl n g _ ?_ hturn hroom nofun, fun hroom => horder _ s p k pl n g _ ?_ hturn hroom nofun⟩
  · split
    next h => exact .mstripDrop hv h.1 h.2
    next h =>
      refine .mstripPass hv ?_
      cases hm : t.isMarker with
      | false => exact .inl hm
      | true => exact .inr (Nat.lt_of_not_le fun hl => h ⟨hm, hl⟩)
  · split
    next h => exact .ordMarker hv h.1 h.2
    next h =>
      refine .ordToken hv ?_
      cases hm : t.isMarker with
      | false => exact .inl hm
      | true => exact .inr (Bool.eq_true_of_not_eq_false fun hk => h ⟨hm, hk⟩)

/-- Settles O11: the one operand of FORK, MSTRIP and ORD leaves as the cases of the relations of O18 say. -/
theorem markersStripped : Obligations.MarkersStripped := plain_operators

end Sys2Proof.Proofs
end

