-- ==== Sys2Proof/Proofs/Grouping.lean ====
section
/-! Reductions, scans and filters (R211 to R218): the cases of their relation are the branches of their rules. -/

namespace Sys2Proof.Claims

open Sys2Proof.Machine

variable {s : State} {i : Instr} {v : View} {e : Effect} {f : Firing} {r : RedSpec} {l : Nat}

/-! ## The instructions that reduce, scan and filter (R211, R214 to R217) -/

theorem rulePat_body (h : v.refs.head? = some 1) : rulePat v =
    match v.g.mode.toNat with
    | 2 => ruleRed v (patSpec v)
    | 3 => ruleScan v (patSpec v) (v.g.opt.getLsbD 0)
    | 4 => ruleFilt v (patSpec v).level (v.g.opt.getLsbD 0)
    | _ => ruleEntry v := if_pos h

theorem ReducesAs.firesAs (h : ReducesAs i v r) (hf : ruleRed v r = f) : FiresAs s i v f := by
  cases h with
  | red => exact ⟨fun v => ruleRed v (redSpec v), hf, rfl⟩
  | redx => exact ⟨fun v => ruleRed v (redxSpec v), hf, rfl⟩
  | pat hr hm => exact ⟨rulePat, by simp only [rulePat_body hr, hm]; exact hf, rfl⟩

theorem ScansAs.firesAs (h : ScansAs i v r) (hf : ruleScan v r (v.g.opt.getLsbD 0) = f) : FiresAs s i v f := by
  cases h with
  | scan => exact ⟨fun v' => ruleScan v' (redSpec v') (v.g.opt.getLsbD 0), hf, rfl⟩
  | pat hr hm => exact ⟨rulePat, by simp only [rulePat_body hr, hm]; exact hf, rfl⟩

theorem FiltersAs.firesAs (h : FiltersAs i v l) (hf : ruleFilt v l (v.g.opt.getLsbD 0) = f) : FiresAs s i v f := by
  cases h with
  | filt => exact ⟨fun v' => ruleFilt v' (v.g.bits 2 0) (v.g.opt.getLsbD 0), hf, rfl⟩
  | pat hr hm => exact ⟨rulePat, by simp only [rulePat_body hr, hm]; exact hf, rfl⟩

/-! ## Groups, rounds and roundings (R40, R137, R147) -/

section Group
variable {ps : List (Option Partial)} {n : Nat} {q : Option (BitVec 8)}

theorem redState_of_groupAt (h : groupAt v ps n q) : redState v = (ps, n, q) := by
  obtain h | ⟨h, rfl, rfl, rfl⟩ := h <;> simp [redState, h]

theorem redAccept_of_groupAt (h : groupAt v ps n q) (x : W64) : redAccept v r x = accepts v r ps n x := by
  simp only [redAccept, redState_of_groupAt h, accepts]

theorem groupAt_open (h : groupAt v ps n q) : v.st ≠ .elem 1 := by
  obtain h | ⟨h, -⟩ := h <;> simp [h]

end Group

theorem roundAfter_of_roundOk {stateful : Bool} {m : Token} {rc : BitVec 8} (h : roundOk v stateful m rc) :
    roundAfter v stateful m = some rc := by
  unfold roundOk at h
  unfold roundAfter
  split at h
  next hl =>
    obtain ⟨hr, rfl⟩ := h
    rw [if_pos hl, if_pos hr]
  next hl => rw [if_neg hl, h]

theorem roundAfter_wrong {level : Nat} {m : Token} (hs : 4 ≤ level) (hl : 4 ≤ m.level) (hr : m.round ≠ v.round) :
    roundAfter v (decide (level ≥ 4)) m = none := by
  simp [roundAfter, hs, hl, hr]

@[simp] theorem roundings_nil : roundings v [] = (none, 0#5) := rfl

theorem untrapped_nil : untrapped v [] := nofun

/-- A firing on operand a that raises the flags of a sequence of roundings, or faults with the first that traps (R147). -/
def rounds (v : View) (fs : List FpFlags) (e : Effect) : Firing :=
  ((roundings v fs).1.map (v.fail [.a])).getD (.fires { e with flags := raised fs })

theorem rounds_some {fs : List FpFlags} {c : Nat} (h : (roundings v fs).1 = some c) : rounds v fs e = v.fail [.a] c := by
  simp [rounds, h]

theorem rounds_none {fs : List FpFlags} (h : (roundings v fs).1 = none) : rounds v fs e = .fires { e with flags := raised fs } := by
  simp [rounds, h]

theorem rounds_untrapped {fs : List FpFlags} (h : untrapped v fs) : rounds v fs e = .fires { e with flags := raised fs } :=
  rounds_none (List.findSome?_eq_none_iff.2 h)

theorem rounds_traps {fs : List FpFlags} {c : Nat} (h : trapsWith v fs c) : rounds v fs e = v.fail [.a] c :=
  rounds_some h

/-! ## RED and REDX (R214, R215) -/

section Reduce
variable {ps : List (Option Partial)} {n : Nat} {x : W64} {q : Option (BitVec 8)} {c : BitVec 8} {t m : Token} {rc : BitVec 8}

theorem ruleRed_element (hg : groupAt v ps n none) (ha : v.a = some (.data x)) : ruleRed v r =
    rounds v (accepts v r ps n x).2 (took v [.a] [] (some (.red (accepts v r ps n x).1 (n + 1) none))) := by
  rw [took_counted (o := .a) List.mem_cons_self ha (.inl rfl)]
  have hdata : v.dataOn [.a] = 1 := by simp [View.dataOn, ha]
  simp only [ruleRed, ha, hdata, redState_of_groupAt hg, redAccept_of_groupAt hg, Token.val, Option.isSome_none, Bool.false_eq_true,
    if_false]
  split
  next c h => exact (rounds_some h).symm
  next h => exact Eq.trans (by rfl) (rounds_none h).symm

theorem ruleRed_poison (hg : groupAt v ps n q) (ha : v.a = some (.poison c)) (ht : v.trapen.getLsbD 7 = false) :
    ruleRed v r = .fires (took v [.a] [] (some (.red ps (n + 1) (some (q.getD c))))) := by
  simp only [ruleRed, ha, redState_of_groupAt hg, View.poisonTrap, ht, Bool.false_eq_true, if_false, go_eq_took]

theorem ruleRed_poisoned (hg : groupAt v ps n (some c)) (ha : v.a = some t) (ht : t.isData = true) :
    ruleRed v r = .fires (took v [.a] [] (some (.red ps (n + 1) (some c)))) := by
  cases t <;> simp_all [ruleRed, redState_of_groupAt hg, Token.isData]

theorem ruleRed_below (hg : groupAt v ps n q) (ha : v.a = some m) (hm : m.isMarker = true)
    (hr : roundOk v (decide (r.level ≥ 4)) m rc) (hl : m.level < r.level) :
    ruleRed v r = .fires (took v [.a] (if m.level ≥ 6 then onBoth m else []) none (some rc)) := by
  obtain ⟨l, x, st, rfl⟩ := exists_marker hm
  simp only [ruleRed, ha, redState_of_groupAt hg, groupAt_open hg, roundAfter_of_roundOk hr, hl.not_ge, if_false, go_eq_took,
    both_eq_onBoth]

/-- A value on both targets, or a value and its index (R215). -/
def redEmits (r : RedSpec) (y : Partial) : List (Nat × Token) :=
  if r.op = 8 ∨ r.op = 9 then [(0, .data y.value), (1, .data (BitVec.ofNat 64 (y.index % 2 ^ 32)))] else onBoth (.data y.value)

/-- What the marker that ends a group brings out: the value of its elements, or the identity of none, with its roundings (R137, R213). -/
def redResult (v : View) (r : RedSpec) (ps : List (Option Partial)) (n : Nat) : Option Partial × List FpFlags :=
  if n = 0 then (some ⟨redIdentity v.g.ty r.op, 0xFFFFFFFF⟩, []) else redTree v v.g.ty r.op r.mode ps r.lw 0

theorem redResult_of_ne (hn : n ≠ 0) : redResult v r ps n = redTree v v.g.ty r.op r.mode ps r.lw 0 := if_neg hn

theorem ruleRed_result (hg : groupAt v ps n none) (ha : v.a = some m) (hm : m.isMarker = true)
    (hr : roundOk v (decide (r.level ≥ 4)) m rc) (hl : r.level ≤ m.level) {y : Partial} (hy : (redResult v r ps n).1 = some y) :
    ruleRed v r = rounds v (redResult v r ps n).2 { emits := redEmits r y, st := some (.elem 1) } := by
  obtain ⟨l, x, st, rfl⟩ := exists_marker hm
  rw [redResult, apply_ite Prod.fst] at hy
  rw [redResult, apply_ite Prod.snd]
  simp only [ruleRed, ha, redState_of_groupAt hg, groupAt_open hg, roundAfter_of_roundOk hr, if_pos hl, if_false, hy]
  split
  next c _ h => exact (rounds_some h).symm
  next y' h hy' =>
    cases hy'
    exact Eq.trans (by rfl) (rounds_none h).symm
  next _ hy' => cases hy'

theorem ruleRed_result_traps (hg : groupAt v ps n none) (ha : v.a = some m) (hm : m.isMarker = true)
    (hr : roundOk v (decide (r.level ≥ 4)) m rc) (hl : r.level ≤ m.level) {cause : Nat}
    (ht : trapsWith v (redResult v r ps n).2 cause) : ruleRed v r = v.fail [.a] cause := by
  obtain ⟨l, x, st, rfl⟩ := exists_marker hm
  rw [redResult, apply_ite Prod.snd] at ht
  have ht : (roundings v _).1 = some cause := ht
  simp only [ruleRed, ha, redState_of_groupAt hg, groupAt_open hg, roundAfter_of_roundOk hr, if_pos hl, if_false, ht]

end Reduce

/-! ## SCAN (R216) -/

section Scan
variable {ps : List (Option Partial)} {n : Nat} {x : W64} {c : BitVec 8} {t : Token}

/-- The value before an element: of those before it, or the identity of none. -/
def valueBefore (v : View) (r : RedSpec) (ps : List (Option Partial)) (n : Nat) : Option Partial × List FpFlags :=
  if n = 0 then (some ⟨redIdentity v.g.ty r.op, 0⟩, []) else redTree v v.g.ty r.op r.mode ps r.lw 0

theorem valueBefore_of_ne (hn : n ≠ 0) : valueBefore v r ps n = redTree v v.g.ty r.op r.mode ps r.lw 0 := if_neg hn

/-- The value of an outcome, on both targets. -/
def valueOut (out : Option Partial × List FpFlags) : List (Nat × Token) := onBoth (.data ((out.1.map (·.value)).getD 0#64))

theorem ruleScan_after (hg : groupAt v ps n none) (ha : v.a = some (.data x)) : ruleScan v r false =
    rounds v ((accepts v r ps n x).2 ++ (redTree v v.g.ty r.op r.mode (accepts v r ps n x).1 r.lw 0).2)
      (took v [.a] (valueOut (redTree v v.g.ty r.op r.mode (accepts v r ps n x).1 r.lw 0))
        (some (.red (accepts v r ps n x).1 (n + 1) none))) := by
  rw [took_counted (o := .a) List.mem_cons_self ha (.inl rfl)]
  simp only [ruleScan, ha, isPoison_data, Bool.false_and, Bool.false_eq_true, if_false, redState_of_groupAt hg, Option.isSome_none,
    Bool.or_self, Token.val, redAccept_of_groupAt hg]
  split
  next c h => exact (rounds_some h).symm
  next h => exact Eq.trans (by rfl) (rounds_none h).symm

theorem ruleScan_before (hg : groupAt v ps n none) (ha : v.a = some (.data x)) : ruleScan v r true =
    rounds v ((accepts v r ps n x).2 ++ (valueBefore v r ps n).2)
      (took v [.a] (valueOut (valueBefore v r ps n)) (some (.red (accepts v r ps n x).1 (n + 1) none))) := by
  rw [took_counted (o := .a) List.mem_cons_self ha (.inl rfl)]
  simp only [ruleScan, ha, isPoison_data, Bool.false_and, Bool.false_eq_true, if_false, if_true, redState_of_groupAt hg,
    Option.isSome_none, Bool.or_self, Token.val, redAccept_of_groupAt hg]
  split
  next c h => exact (rounds_some h).symm
  next h => exact Eq.trans (by rfl) (rounds_none h).symm

theorem ruleScan_before_poison (hg : groupAt v ps n none) (ha : v.a = some (.poison c)) (ht : v.trapen.getLsbD 7 = false) :
    ruleScan v r true = rounds v (valueBefore v r ps n).2
      (took v [.a] (valueOut (valueBefore v r ps n)) (some (.red ps (n + 1) (some c)))) := by
  rw [took_counted (o := .a) List.mem_cons_self ha (.inr rfl)]
  simp only [ruleScan, ha, isPoison_poison, View.poisonTrap, ht, Bool.and_false, Bool.false_eq_true, if_false, if_true,
    redState_of_groupAt hg, Option.isSome_none, Bool.or_true, List.nil_append]
  split
  next c h => exact (rounds_some h).symm
  next h => exact Eq.trans (by rfl) (rounds_none h).symm

theorem ruleScan_poison (hg : groupAt v ps n none) (ha : v.a = some (.poison c)) (ht : v.trapen.getLsbD 7 = false) :
    ruleScan v r false = .fires (took v [.a] (onBoth (.poison c)) (some (.red ps (n + 1) (some c)))) := by
  rw [took_counted (o := .a) List.mem_cons_self ha (.inr rfl)]
  simp [ruleScan, ha, redState_of_groupAt hg, View.poisonTrap, ht, -BitVec.getLsbD_eq_getElem]

/-- After a poison element each later value of the group is that poison. -/
theorem ruleScan_poisoned (hg : groupAt v ps n (some c)) (ha : v.a = some t)
    (ht : t.isData = true ∨ t.isPoison = true ∧ v.trapen.getLsbD 7 = false) (ex : Bool) :
    ruleScan v r ex = .fires (took v [.a] (onBoth (.poison c)) (some (.red ps (n + 1) (some c)))) := by
  rw [took_counted (o := .a) List.mem_cons_self ha (ht.imp_right And.left)]
  cases t <;> simp_all [ruleScan, redState_of_groupAt hg, Token.isData, Token.isPoison, View.poisonTrap, -BitVec.getLsbD_eq_getElem]

end Scan

/-! ## FILT and CMPCT (R217, R218) -/

section Filter
variable {n : Nat} {t x y m c : Token} {rc : BitVec 8}

theorem ruleFilt_plain (hst : v.st = .tally n ∨ v.st = .plain ∧ n = 0) (ha : v.a = some t) (ht : t.isMarker = false) (hp : v.p = some c)
    (hc : c.isMarker = false) (cnt : Bool) : ruleFilt v l cnt = v.predicate [.a, .p] c
      (if isTrue c then .fires (took v [.a, .p] [(0, t)] (some (.tally (n + 1)))) else .fires (took v [.a, .p] [])) := by
  obtain hst | ⟨hst, rfl⟩ := hst <;> simp [ruleFilt, hst, ha, hp, ht, hc]

@[simp] theorem takeOne_a_p : takeOne [.a, .p] = [1, 0, 0, 1] := rfl

theorem filtRound_of_marks (h : filtMarks v l x y m) : filtRound v (decide (l ≥ 4)) x y = some (filtAfter v l x y) := by
  obtain ⟨-, -, -, -, -, hround⟩ := h
  by_cases hl : 4 ≤ l
  · obtain ⟨hx, hy⟩ := hround hl
    simpa [filtRound, filtAfter, hl] using ⟨hx, hy⟩
  · simp [filtRound, filtAfter, hl]

theorem filtEnds_iff : filtEnds (decide (l ≥ 4)) l x y m = true ↔ filtEnd l x y m := by
  by_cases hl : 4 ≤ l <;> simp [filtEnds, filtEnd, hl]

theorem ruleCmpct_false (ha : v.a = some c) (hc : c.isMarker = false) (hf : isTrue c = false) (hq : quiet v c) :
    ruleCmpct v = .fires (took v [.a] []) := by
  cases c <;> simp_all [ruleCmpct, predicate_quiet]

end Filter

/-- Each firing of R211 to R218 is the outcome of its operator's rule. -/
theorem GroupsTo.firesAs (h : GroupsTo i v e) : FiresAs s i v (.fires e) := by
  cases h with
  | element hi hg ha hu => exact hi.firesAs ((ruleRed_element hg ha).trans (rounds_untrapped hu))
  | poisonFirst hi hg ha ht => exact hi.firesAs (ruleRed_poison hg ha ht)
  | poisoned hi hg ha ht =>
    obtain ht | ⟨hp, ht⟩ := ht
    · exact hi.firesAs (ruleRed_poisoned hg ha ht)
    · obtain ⟨c', rfl⟩ := exists_poison hp
      exact hi.firesAs (ruleRed_poison hg ha ht)
  | below hi hg ha hm hl hr => exact hi.firesAs (ruleRed_below hg ha hm hr hl)
  | resultPoison hi hg ha hm hl hr =>
    obtain ⟨l, x, st, rfl⟩ := exists_marker hm
    refine hi.firesAs ?_
    simp only [ruleRed, ha, redState_of_groupAt hg, groupAt_open hg, roundAfter_of_roundOk hr, if_pos hl, if_false, both_eq_onBoth]
  | resultEmpty hi hg ha hm hl hr =>
    exact hi.firesAs ((ruleRed_result hg ha hm hr hl rfl).trans (rounds_untrapped untrapped_nil))
  | result hi hg hn ha hm hl hr ht hu =>
    have hres := (redResult_of_ne hn).trans ht
    refine hi.firesAs ((ruleRed_result hg ha hm hr hl (congrArg Prod.fst hres)).trans ?_)
    rw [hres]
    exact rounds_untrapped hu
  | close hi hst ha hm hr =>
    obtain ⟨l, x, st, rfl⟩ := exists_marker hm
    exact hi.firesAs (by simp [ruleRed, ha, hst, roundAfter_of_roundOk hr])
  | scan hi hg ha hx ht hu =>
    refine hi.firesAs ?_
    rw [hx, ruleScan_after hg ha, ht]
    exact rounds_untrapped hu
  | scanFirst hi hg ha hx hu =>
    refine hi.firesAs ?_
    rw [hx, ruleScan_before hg ha]
    simp [valueBefore, valueOut, rounds_untrapped hu]
  | scanBefore hi hg hn ha hx ht hu =>
    refine hi.firesAs ?_
    rw [hx, ruleScan_before hg ha, valueBefore_of_ne hn, ht]
    exact rounds_untrapped hu
  | scanPoisoned hi hg ha ht => exact hi.firesAs (ruleScan_poisoned hg ha ht _)
  | scanPoison hi hg ha ht hx =>
    refine hi.firesAs ?_
    rw [hx, ruleScan_poison hg ha ht]
  | scanPoisonFirst hi hg ha ht hx =>
    refine hi.firesAs ?_
    rw [hx, ruleScan_before_poison hg ha ht]
    exact rounds_untrapped untrapped_nil
  | scanPoisonBefore hi hg hn ha ht hx htree hu =>
    refine hi.firesAs ?_
    rw [hx, ruleScan_before_poison hg ha ht, valueBefore_of_ne hn, htree]
    exact rounds_untrapped hu
  | scanMarker hi ha hm hr =>
    obtain ⟨l, x, st, rfl⟩ := exists_marker hm
    exact hi.firesAs (by simp only [ruleScan, ha, roundAfter_of_roundOk hr, go_eq_took, both_eq_onBoth])
  | filtPass hi hst ha ht hp hc =>
    refine hi.firesAs ((ruleFilt_plain hst ha ht hp (plain_of_isTrue hc) _).trans ?_)
    rw [predicate_quiet (fun h => absurd h (by simp [not_isPoison_of_isTrue hc])), if_pos hc]
  | filtDrop hi ha ht hp hc hf hq =>
    refine hi.firesAs ?_
    simp [ruleFilt, ha, ht, hp, hc, hf, predicate_quiet hq]
  | filtMarker hi hk ha hp hx hy hj =>
    refine hi.firesAs ?_
    simp [ruleFilt, hk, ha, hp, hx, hy, hj, filtRound, filtEnds, -BitVec.getLsbD_eq_getElem]
  | filtCount hi hk hst hm he =>
    have hr := filtRound_of_marks hm
    obtain ⟨ha, hp, hx, hy, hj, -⟩ := hm
    refine hi.firesAs ?_
    obtain hst | ⟨hst, rfl⟩ := hst <;>
      simp [ruleFilt, hk, hst, ha, hp, hx, hy, hj, hr, filtEnds_iff.2 he, -BitVec.getLsbD_eq_getElem, -ge_iff_le]
  | filtClose hi hk hst hm he =>
    have hr := filtRound_of_marks hm
    obtain ⟨ha, hp, hx, hy, hj, -⟩ := hm
    refine hi.firesAs ?_
    simp [ruleFilt, hk, hst, ha, hp, hx, hy, hj, hr, filtEnds_iff.2 he, -BitVec.getLsbD_eq_getElem, -ge_iff_le]
  | filtBelow hi hk hm he =>
    have hr := filtRound_of_marks hm
    obtain ⟨ha, hp, hx, hy, hj, -⟩ := hm
    refine hi.firesAs ?_
    simp [ruleFilt, hk, ha, hp, hx, hy, hj, hr, filtEnds_iff, he, -BitVec.getLsbD_eq_getElem, -ge_iff_le]
  | cmpctTrue hst ha hx =>
    refine ⟨ruleCmpct, ?_, rfl⟩
    obtain hst | ⟨hst, rfl⟩ := hst <;> simp [ruleCmpct, ha, hst, isTrue_data hx]
  | cmpctFalse ha hc hf hq => exact ⟨ruleCmpct, ruleCmpct_false ha hc hf hq, rfl⟩
  | cmpctCount hst ha hm hl hr =>
    refine ⟨ruleCmpct, ?_, rfl⟩
    obtain ⟨l, x, st, rfl⟩ := exists_marker hm
    rw [level_marker] at hl
    obtain hst | ⟨hst, rfl⟩ := hst <;> simp [ruleCmpct, ha, hst, roundAfter_of_roundOk hr, hl]
  | cmpctClose hst ha hm hl hr =>
    refine ⟨ruleCmpct, ?_, rfl⟩
    obtain ⟨l, x, st, rfl⟩ := exists_marker hm
    simp only [ruleCmpct, ha, hst, roundAfter_of_roundOk hr, if_pos hl, go_eq_took, both_eq_onBoth, if_true]
  | cmpctBelow ha hm hl hr =>
    refine ⟨ruleCmpct, ?_, rfl⟩
    obtain ⟨l, x, st, rfl⟩ := exists_marker hm
    simp only [ruleCmpct, ha, roundAfter_of_roundOk hr, if_neg hl.not_ge, go_eq_took]
  | patMap hr hm ha => exact ⟨rulePat, by simp [rulePat_body hr, hm, ruleEntry, ha], rfl⟩
  | patFeed hr ho hh =>
    refine ⟨rulePat, ?_, rfl⟩
    subst ho
    simp only [rulePat, if_neg hr, heads_eq_some hh, go_eq_took]

end Sys2Proof.Claims

namespace Sys2Proof.Proofs

open Sys2Proof.Claims

/-- Settles O19: each case is a branch of the rule that reduces, scans or filters. -/
theorem operatorsGroup : Obligations.OperatorsGroup :=
  controlFires_of_firesAs fun h _ => h.firesAs

end Sys2Proof.Proofs
end

