-- ==== Sys2Proof/Proofs/ControlFaults.lean ====
section
/-! The faults of control operators (R38 to R40, R187 to R218): each is a branch of its operator's rule. -/

namespace Sys2Proof.Claims

open Sys2Proof.Machine

variable {s : State} {i : Instr} {v : View} {ops : List Operand} {cause : Nat}

theorem clash_pair {x y : Token} (h : clash [x, y]) : x.isMarker = true ∨ y.isMarker = true := by
  simpa using h.1

theorem ruleFilt_clash {l : Nat} {x y : Token} {cnt : Bool} (ha : v.a = some x) (hp : v.p = some y) (hc : clash [x, y]) :
    ruleFilt v l cnt = v.fail [.a, .p] 0x51 := by
  have hor : (x.isMarker || y.isMarker) = true := by simpa using clash_pair hc
  cases hand : x.isMarker && y.isMarker with
  | false => simp only [ruleFilt, ha, hp, hor, hand, Bool.false_eq_true, if_true, if_false]
  | true =>
    have hj : joinMarkers [x, y] = none := hc.2.resolve_left (by simpa using hand)
    simp only [ruleFilt, ha, hp, hor, hand, hj, if_true]

/-- A FILT.cnt that counts rounds refuses a marker of another round (R40). -/
theorem ruleFilt_wrong {l : Nat} {x y m : Token} (ha : v.a = some x) (hp : v.p = some y) (hx : x.isMarker = true) (hy : y.isMarker = true)
    (hl : 4 ≤ l) (hm : m = x ∨ m = y) (h4 : 4 ≤ m.level) (hr : m.round ≠ v.round) : ruleFilt v l true = v.fail [.a, .p] 0x51 := by
  have hround : filtRound v (decide (l ≥ 4)) x y = none := by
    obtain rfl | rfl := hm <;> simp [filtRound, hl, h4, hr]
  simp only [ruleFilt, ha, hp, hx, hy, hround, Bool.true_and, Bool.or_true, if_true]
  cases joinMarkers [x, y] <;> rfl

/-- Each fault of R187 to R218 is the outcome of its operator's rule. -/
theorem ControlFaults.firesAs (h : ControlFaults i v ops cause) : FiresAs s i v (v.fail ops cause) := by
  cases h with
  | steerRoute ha hp hq hm => exact ⟨ruleSteer, by simp [ruleSteer, ha, hp, hq, hm], rfl⟩
  | steerMixed ha hp hq hc =>
    exact ⟨ruleSteer, (ruleSteer_joins ha hp hq (clash_pair hc)).trans (join_clash (by simp [View.head, ha, hp]) hc), rfl⟩
  | steerPoison ha hp hq ht =>
    exact ⟨ruleSteer, (ruleSteer_routes ha hp hq rfl).trans (predicate_traps ht), rfl⟩
  | mergeRoute hp hq hm => exact ⟨ruleMerge, by simp [ruleMerge, hp, hq, hm], rfl⟩
  | mergeMixed hp hm hq ho hh hc =>
    subst ho
    exact ⟨ruleMerge, (ruleMerge_joins hp hm hq).trans (join_clash hh hc), rfl⟩
  | mergeMarker hp hq hx hm => exact ⟨ruleMerge, ruleMerge_marker hp rfl rfl hx hq hm, rfl⟩
  | mergePoison hp hb hq ht =>
    exact ⟨ruleMerge, (ruleMerge_sends hp rfl (if_neg (by simp)) hb hq).trans (predicate_traps ht), rfl⟩
  | carryEcho hl hp ht => exact ⟨ruleCarry, by simp [ruleCarry, loopState_of_loopAt hl, ruleLoopEcho, hp, ht], rfl⟩
  | carryTest hl hp hm => exact ⟨ruleCarry, by simp [ruleCarry, loopState_of_loopAt hl, hp, hm], rfl⟩
  | carryBack hl hp hy hb hm =>
    exact ⟨ruleCarry, by simp [ruleCarry, loopState_of_loopAt hl, hp, isTrue_data hy, hb, hm], rfl⟩
  | carryPoison hl hp ht =>
    exact ⟨ruleCarry, by simp [ruleCarry, loopState_of_loopAt hl, hp, predicate_traps ht], rfl⟩
  | invarEcho hl hp ht => exact ⟨ruleInvar, by simp [ruleInvar, loopState_of_loopAt hl, ruleLoopEcho, hp, ht], rfl⟩
  | invarTest hl hp hm => exact ⟨ruleInvar, by simp [ruleInvar, loopState_of_loopAt hl, hp, hm], rfl⟩
  | invarPoison hl hp ht =>
    exact ⟨ruleInvar, by simp [ruleInvar, loopState_of_loopAt hl, hp, predicate_traps ht], rfl⟩
  | countMixed hst ha hb hc =>
    exact ⟨ruleCount, (ruleCount_joins hst ha hb (clash_pair hc)).trans (join_clash (by simp [View.head, ha, hb]) hc), rfl⟩
  | countPoison hst ha hb hx hy hp ht => exact ⟨ruleCount, by rw [ruleCount_poison hst ha hb hx hy hp, if_pos ht], rfl⟩
  | zipMixed h ha hm hh hc => exact ⟨ruleZip, (ruleZip_joins h ha hm).trans (join_clash hh hc), rfl⟩
  | zipInside h hn ht hm => exact ⟨ruleZip, ruleZip_inside h hn ht hm, rfl⟩
  | barPoison hi hb ht => exact ⟨ruleBar, by simp [ruleBar_asks hi, Machine.barCount, hb, predicate_traps ht], rfl⟩
  | redRound hi hst ha hm hr hl hn =>
    obtain ⟨l, x, st, rfl⟩ := exists_marker hm
    exact hi.firesAs (by simp only [ruleRed, ha, hst, roundAfter_wrong hr hl hn, if_false])
  | redPoison hi ha ht => exact hi.firesAs (by simp only [ruleRed, ha, View.poisonTrap, ht, if_true])
  | redTrap hi hg ha ht => exact hi.firesAs ((ruleRed_element hg ha).trans (rounds_traps ht))
  | redResultTrap hi hg hn ha hm hl hr ht =>
    exact hi.firesAs (ruleRed_result_traps hg ha hm hr hl (by rwa [redResult_of_ne hn]))
  | scanTrap hi hg ha ht =>
    refine hi.firesAs ?_
    cases hx : v.g.opt.getLsbD 0 with
    | false =>
      rw [if_pos hx] at ht
      rw [ruleScan_after hg ha, rounds_traps ht]
    | true =>
      rw [if_neg (by simp [hx])] at ht
      rw [ruleScan_before hg ha, rounds_traps]
      rwa [valueBefore, apply_ite Prod.snd]
  | scanRound hi ha hm hr hl hn =>
    obtain ⟨l, x, st, rfl⟩ := exists_marker hm
    exact hi.firesAs (by simp only [ruleScan, ha, roundAfter_wrong hr hl hn])
  | scanPoison hi ha ht => exact hi.firesAs (by simp [ruleScan, ha, View.poisonTrap, ht, -BitVec.getLsbD_eq_getElem])
  | filtMixed hi ha hp hc => exact hi.firesAs (ruleFilt_clash ha hp hc)
  | filtRound hi hk ha hp hx hy hl hm h4 hr => exact hi.firesAs (by rw [hk, ruleFilt_wrong ha hp hx hy hl hm h4 hr])
  | filtPoison hi ha hx hp ht => exact hi.firesAs (by simp [ruleFilt, ha, hx, hp, predicate_traps ht])
  | cmpctRound ha hm hl h4 hr =>
    obtain ⟨l, x, st, rfl⟩ := exists_marker hm
    exact ⟨ruleCmpct, by simp only [ruleCmpct, ha, roundAfter_wrong hl h4 hr], rfl⟩
  | cmpctPoison ha ht => exact ⟨ruleCmpct, by simp [ruleCmpct, ha, predicate_traps ht], rfl⟩

end Sys2Proof.Claims

namespace Sys2Proof.Proofs

open Sys2Proof.Claims

/-- Settles O20: each fault is a branch of its operator's rule. -/
theorem operatorsFault : Obligations.OperatorsFault :=
  controlFault_of_firesAs fun h => h.firesAs

end Sys2Proof.Proofs
end

