-- ==== Sys2Proof/Proofs/Engines.lean ====
section
/-! The matrix engines (R242 to R260): the nodes that feed an engine, the engine's own moves with markers, and its accumulators
at a boundary, in a tensor start, in a load and in a readout. -/

namespace Sys2Proof.Claims

open Sys2Proof.Machine

variable {s : State} {p : PlaneId} {k j : Nat} {pl : Plane} {n x : Node} {e : Engine} {m : Mfe} {t mk : Token}

theorem Ready.at_cursor (h : Ready s p k pl n) : cursorNode s = some (p, k, pl, n) :=
  cursorNode_of h.cursor h.plane h.node

/-- A node that may fire has no fault that stops it (R36, R504). -/
theorem not_stopped_of_mayFire (h : pl.mayFire k n = true) : pl.stopped (.node k) = false := by
  simp only [Plane.mayFire, Bool.and_eq_true] at h
  simpa using h.2

theorem cause_eq_none (h : t.isPoison = false) : t.cause = none := by
  cases t <;> simp_all [Token.isPoison, Token.cause]

/-! ## Feeding nodes (R246, R248) -/

theorem nodes_stay : ∀ i, neverFires i → ∀ s, exec i s = .next s := by
  rintro i ⟨g, rfl | rfl | rfl⟩ s <;> rfl

theorem fireFeed_hands (h : Ready s p k pl n) (ht : n.a.head = some t) (hroom : pl.canEmit n [(0, t)] = true) :
    fireFeed s = .next (s.setPlane p { (pl.modNode k (·.take [1, 0, 0, 0])).emitAll n [(0, t)] with active := true }) := by
  simp [fireFeed, h.at_cursor, h.may, ht, hroom]

theorem nodes_feed : feeds := by
  rintro i g s p k pl n t (rfl | rfl) h ht hroom
  · exact fireFeed_hands h ht hroom
  · exact fireFeed_hands h ht hroom

/-- What MXSC does with the token at its head, by its kind and by how many its group holds. -/
theorem fireScale_eq (h : Ready s p k pl n) (ht : n.a.head = some t) :
    fireScale s =
      if t.isMarker then .next (s.setPlane p { pl.modNode k (·.take [1, 0, 0, 0]) with active := true })
      else if (scalesHeld n).length + 1 < scaleSize n then
        .next (s.setPlane p { pl.modNode k (fun y => { y.take [1, 0, 0, 0] with st := .scales (scalesHeld n ++ [t]) }) with active := true })
      else if ¬ pl.canEmit n [(0, scaleGroup (scalesHeld n ++ [t]))] then .next s
      else .next (s.setPlane p
        { (pl.modNode k fun y => { y.take [1, 0, 0, 0] with st := .scales [] }).emitAll n [(0, scaleGroup (scalesHeld n ++ [t]))] with
            active := true }) := by
  have hlen : (scalesHeld n ++ [t]).length = (scalesHeld n).length + 1 := List.length_append
  rw [← hlen]
  simp only [fireScale, h.at_cursor, ht, h.may, Bool.not_true, Bool.false_eq_true, if_false]
  rfl

theorem scales_gather : gathersScales := by
  intro g s p k pl n t h ht
  change (_ → fireScale s = _) ∧ (_ → _ → fireScale s = _) ∧ (_ → _ → ∀ w, _ → _ → fireScale s = _)
  rw [fireScale_eq h ht]
  refine ⟨fun hm => if_pos hm, fun hm hlt => ?_, fun hm hge w hw hroom => ?_⟩
  · rw [if_neg (by simp [hm]), if_pos hlt]
  · obtain rfl : w = scaleGroup (scalesHeld n ++ [t]) := hw
    rw [if_neg (by simp [hm]), if_neg (by omega), if_neg (not_not_intro hroom)]

/-! ## An engine in its turn (R249, R250) -/

theorem exec_engine {i : Instr} (hi : EngineOf i n) (h : Ready s p k pl n) : exec i s = fireEngine s := by
  obtain ⟨g, rfl | ⟨rfl, hrefs⟩⟩ := hi
  · rfl
  · change execMxtile g s = _
    simp only [execMxtile, h.at_cursor, if_neg hrefs]

theorem open_of_point (h : m.point = .run ∨ (m.point = .start ∧ e.ld = none)) : e.open m = true := by
  rcases h with h | ⟨h, hld⟩
  · simp [Engine.open, h]
  · simp [Engine.open, h, hld]

/-- An engine whose tensor start or load is under way is not open. -/
theorem not_open_of_point (h : m.point = .start ∧ e.ld ≠ none ∨ ∃ r c, m.point = .load r c) : e.open m = false := by
  rcases h with ⟨h, hld⟩ | ⟨r, c, h⟩
  · simp [Engine.open, h, Option.isSome_iff_ne_none.2 hld]
  · simp [Engine.open, h]

theorem pending_of_point (h : m.point = .start ∧ e.ld ≠ none ∨ ∃ r c, m.point = .load r c) (hb : m.behind = none) :
    e.pending m = true := by
  rcases h with ⟨h, hld⟩ | ⟨r, c, h⟩
  · simp [Engine.pending, h, hb, Option.isSome_iff_ne_none, hld]
  · simp [Engine.pending, h, hb]

/-- Two markers that meet between steps are joined, and from level 3 the boundary begins, or waits for the tensor start (R249). -/
theorem move_joins {a b mj : Token} (ha : n.a.head = some a) (hb : n.b.head = some b) (hma : a.isMarker = true)
    (hmb : b.isMarker = true) (hla : m.latchA = []) (hlb : m.latchB = []) (hj : joinMarkers [a, b] = some mj) :
    e.move n m = .boundary (n.take [1, 1, 0, 0])
      (if mj.level < 3 then m else if e.open m then { m with point := .boundary mj 0 } else { m with behind := some mj })
      [(2, mj), (3, mj)] := by
  obtain ⟨l, r, st, rfl⟩ := exists_marker hma
  obtain ⟨l', r', st', rfl⟩ := exists_marker hmb
  simp [Engine.move, ha, hb, hla, hlb, hj]

/-- Markers that meet inside a step, or that do not join, fault with 0x51 (R249). -/
theorem move_faults {a b : Token} (ha : n.a.head = some a) (hb : n.b.head = some b) (hma : a.isMarker = true)
    (hmb : b.isMarker = true) (h : m.latchA ≠ [] ∨ m.latchB ≠ [] ∨ joinMarkers [a, b] = none) :
    e.move n m = .fault (e.info m 0x51 [a.recorded, b.recorded, 0#64]) := by
  obtain ⟨l, r, st, rfl⟩ := exists_marker hma
  obtain ⟨l', r', st', rfl⟩ := exists_marker hmb
  by_cases hl : m.latchA.isEmpty ∧ m.latchB.isEmpty
  · have hj : joinMarkers [.marker l r st, .marker l' r' st'] = none := by
      simpa [List.isEmpty_iff.1 hl.1, List.isEmpty_iff.1 hl.2] using h
    simp only [Engine.move, ha, hb, hl, hj, and_self, not_true_eq_false, if_false]
  · simp only [Engine.move, ha, hb, hl, not_false_eq_true, if_true]

/-- A marker on one bus against a group on the other faults with 0x51 (R249). -/
theorem move_clashes {a b : Token} (ha : n.a.head = some a) (hb : n.b.head = some b) (hm : a.isMarker ≠ b.isMarker) :
    e.move n m = .fault (e.info m 0x51 [a.recorded, b.recorded, 0#64]) := by
  have hclash : (a.isMarker != b.isMarker) = true := bne_iff_ne.2 hm
  simp only [Engine.move, ha, hb]
  split
  next hma hmb =>
    cases hma
    cases hmb
    exact absurd rfl hm
  next => rw [if_pos hclash, Option.getD_some, Option.getD_some]

/-- A boundary's tokens move where they find room, once the plane is granted (R250). -/
theorem fireEngine_boundary {n' : Node} {m' : Mfe} {es : List (Nat × Token)} (h : Ready s p k pl n) (he : pl.engine n = some e)
    (hgo : e.open n.mfe = true ∨ e.pending n.mfe = true) (hmove : e.move n n.mfe = .boundary n' m' es) (hg : s.granted p pl)
    (hroom : pl.canEmit n es = true) :
    fireEngine s = .next ((grantCycle s p).2.modPlane p fun q => q.moveTokens k n' m' es) := by
  have hpasses : (MfeMove.boundary n' m' es).passes = true := rfl
  rcases hgo with hopen | hpending
  · simp [fireEngine, h.at_cursor, he, h.may, hmove, hopen, hroom, granted_goes hg]
  · simp [fireEngine, h.at_cursor, he, h.may, hmove, hpending, hpasses, hroom, granted_goes hg]

theorem fireEngine_faults {info : FaultInfo} (h : EngineTurn s p k pl n e) (hmove : e.move n n.mfe = .fault info)
    (hg : s.granted p pl) : fireEngine s = .next ((grantCycle s p).2.detectFault p (some (.node k)) info) := by
  simp [fireEngine, h.toReady.at_cursor, h.engine, h.may, open_of_point h.open_, hmove, granted_goes hg]

theorem markers_join : engineMarkers := by
  intro i s p k pl n e a b hi h hg ha hb hma hmb
  rw [exec_engine hi h.toReady]
  refine ⟨fun j hla hlb hj hroom => ?_, fun hbad => fireEngine_faults h (move_faults ha hb hma hmb hbad) hg⟩
  have hopen := open_of_point h.open_
  rw [fireEngine_boundary h.toReady h.engine (.inl hopen) (move_joins ha hb hma hmb hla hlb hj) hg hroom]
  simp only [hopen, if_true, ← Nat.not_le, ite_not, ge_iff_le]

theorem markers_behind : engineBehind := by
  intro i s p k pl n e a b j hi h he hg hpt hbe ha hb hma hmb hla hlb hj hroom
  rw [exec_engine hi h,
    fireEngine_boundary h he (.inr (pending_of_point hpt hbe)) (move_joins ha hb hma hmb hla hlb hj) hg hroom]
  simp only [not_open_of_point hpt, Bool.false_eq_true, if_false, ← Nat.not_le, ite_not, ge_iff_le]

theorem markers_clash : engineClash := by
  intro i s p k pl n e a b hi h hg ha hb hm
  rw [exec_engine hi h.toReady]
  exact fireEngine_faults h (move_clashes ha hb hm) hg

/-! ## Readouts (R256, R257) -/

/-- A reader sends the next token of its engine's readout: an MXTILE into its body, an ACCRD to both targets. -/
theorem fireReader_emits {t : Token} {rest : List Token} {ks : List Nat}
    (hto : (∃ g, decodeGraph n.word = .ok (.mxtile g)) ∧ ks = [4] ∨ (∀ g, decodeGraph n.word ≠ .ok (.mxtile g)) ∧ ks = [0, 1])
    (h : Ready s p k pl n) (hg : s.granted p pl) (hj : n.refs = [j]) (hr : pl.readout j = t :: rest)
    (hroom : pl.canEmit n (toTargets ks t) = true) :
    fireReader s = .next ((grantCycle s p).2.modPlane p fun q =>
      { (q.modNode j fun x => x.setMfe { x.mfe with readout := rest }).emitAll n (toTargets ks t) with active := true }) := by
  simp only [fireReader, h.at_cursor, hj, hr, h.may]
  split
  next g hw =>
    obtain ⟨-, rfl⟩ := hto.resolve_right fun hn => hn.1 g hw
    simp [hroom, granted_goes hg]
  next hw =>
    obtain ⟨-, rfl⟩ := hto.resolve_left fun ⟨⟨g, hd⟩, _⟩ => hw g hd
    simp [hroom, granted_goes hg]

theorem reads_out : readsOut := by
  rintro i s p k pl n g j t rest (⟨rfl, hw⟩ | ⟨rfl, hw⟩) h hg hj hr es hroom
  · exact fireReader_emits (.inr ⟨hw, rfl⟩) h hg hj hr hroom
  · change execMxtile g s = _
    simp only [execMxtile, h.at_cursor, hj, List.length_singleton, if_true]
    exact fireReader_emits (.inl ⟨⟨g, hw⟩, rfl⟩) h hg hj hr hroom

section Rows
variable {α : Type} {f : Nat → List α} {w : Nat}

theorem length_flatMap_rows (hw : ∀ i, (f i).length = w) (r : Nat) : ((List.range r).flatMap f).length = r * w := by
  simp [List.length_flatMap, hw]

/-- Behind r rows of one width w, place r * w + c is place c of what follows. -/
theorem getElem?_after_rows (hw : ∀ i, (f i).length = w) (r c : Nat) (rest : List α) :
    ((List.range r).flatMap f ++ rest)[r * w + c]? = rest[c]? := by
  have hlen := length_flatMap_rows hw r
  rw [List.getElem?_append_right (by omega), hlen, Nat.add_sub_cancel_left]

/-- Of rows of one width w, place i * w + c of all is place c of row i. -/
theorem getElem?_in_rows (hw : ∀ i, (f i).length = w) {r i c : Nat} (hi : i < r) (hc : c < w) (rest : List α) :
    ((List.range r).flatMap f ++ rest)[i * w + c]? = (f i)[c]? := by
  induction r generalizing rest with
  | zero => exact absurd hi (Nat.not_lt_zero i)
  | succ r ih =>
    rw [List.range_succ, List.flatMap_append, List.flatMap_singleton, List.append_assoc]
    rcases Nat.lt_succ_iff_lt_or_eq.1 hi with hlt | rfl
    · exact ih hlt _
    · rw [getElem?_after_rows hw, List.getElem?_append_left (by rwa [hw])]

end Rows

/-- The token of a cell: its value, or its poison (R254). -/
def cellToken (acc : List W64) (pois : List (Option (BitVec 8))) (i : Nat) : Token :=
  match (pois[i]?).getD none with
  | some c => .poison c
  | none => .data ((acc[i]?).getD 0#64)

/-- The tokens of a row: its cells and the marker after them (R257). -/
def rowTokens (cols : Nat) (acc : List W64) (pois : List (Option (BitVec 8))) (i : Nat) (last : Token) : List Token :=
  (List.range cols).map (fun j => cellToken acc pois (i * cols + j)) ++ [last]

section RowTokens
variable {cols i c : Nat} {acc : List W64} {pois : List (Option (BitVec 8))} {last : Token}

@[simp] theorem rowTokens_length : (rowTokens cols acc pois i last).length = cols + 1 := by simp [rowTokens]

theorem rowTokens_cell (hc : c < cols) : (rowTokens cols acc pois i last)[c]? = some (cellToken acc pois (i * cols + c)) := by
  simp [rowTokens, List.getElem?_append_left, hc]

theorem rowTokens_last : (rowTokens cols acc pois i last)[cols]? = some last := by simp [rowTokens]

end RowTokens

theorem readout_eq (e : Engine) (acc : List W64) (pois : List (Option (BitVec 8))) (mk : Token) :
    e.readout acc pois mk = ((List.range e.rows).flatMap fun i =>
      rowTokens e.cols acc pois i (marker (if i + 1 < e.rows then 1 else 2) mk.round)) ++ [mk] := rfl

theorem readout_order : readoutOrder := by
  intro e acc pois mk i j hi
  refine ⟨fun hj => ?_, ?_, ?_⟩
  · rw [readout_eq, getElem?_in_rows (fun _ => rowTokens_length) hi (by omega), rowTokens_cell hj]
    rfl
  · rw [readout_eq, getElem?_in_rows (fun _ => rowTokens_length) hi (Nat.lt_succ_self _), rowTokens_last]
    split <;> rfl
  · exact getElem?_after_rows (fun _ => rowTokens_length) e.rows 0 [mk]

/-! ## The tokens of accumulator controls (R187, R255, R256) -/

section ControlToken
variable {take : List Nat} {q : Queue} {f : Bool → Plane → Plane}

theorem controlToken_drops (hq : q.head = some t) (hm : t.isMarker = true) :
    controlToken s p pl e m j x take q f = s.setPlane p { pl.modNode j (·.take take) with active := true } := by
  simp [controlToken, takenOf, hq, hm]

/-- Data, and poison that is not trapped, decide as they are read. -/
theorem controlToken_decides (hq : q.head = some t) (hm : t.isMarker = false)
    (hp : t.isPoison = true → (maskEnables x.grant (s.ctx pl.ctx).trapen).getLsbD 7 = false) :
    controlToken s p pl e m j x take q f =
      s.setPlane p { f t.isOn (pl.modNode j fun y => { y.take take with grant := .none }) with active := true } := by
  cases hc : t.isPoison with
  | true => simp [controlToken, takenOf, hq, hm, hp hc, -BitVec.getLsbD_eq_getElem]
  | false => simp [controlToken, takenOf, hq, hm, cause_eq_none hc]

theorem controlToken_faults {c : BitVec 8} (hq : q.head = some (.poison c))
    (ht : (maskEnables x.grant (s.ctx pl.ctx).trapen).getLsbD 7 = true) (hs : pl.stopped (.node j) = false) :
    controlToken s p pl e m j x take q f = s.detectFault p (some (.node j)) (e.info m 0x30 (poisonOps c)) := by
  simp [controlToken, takenOf, hq, Token.cause, ht, hs, -BitVec.getLsbD_eq_getElem]

end ControlToken

theorem engineNode_of (hj : n.refs.head? = some j) (hx : pl.nodes[j]? = some x) (he : pl.engine x = some e) :
    pl.engineNode n = some (j, x, e) := by
  simp [Plane.engineNode, hj, hx, he]

/-! ## ACCCLR (R256) -/

/-- Step 2 of a boundary at an element with an ACCCLR is the decision of the ACCCLR's token. -/
theorem boundaryClear_asks {i : Nat} (ht : e.tile = false) (hc : e.clr = some k) (hn : pl.nodes[k]? = some n) :
    boundaryClear s p i pl e m mk = controlToken s p pl e m k n [1, 0, 0, 0] n.a fun on q =>
      q.setMfe i (if on then { m with point := .boundary mk 2, acc := [], pois := [] } else { m with point := .boundary mk 2 }) := by
  simp only [boundaryClear, ht, Bool.false_eq_true, if_false, hc, hn]

theorem fireClear_asks (h : Ready s p k pl n) (hj : n.refs.head? = some j) (hx : pl.nodes[j]? = some x) (he : pl.engine x = some e)
    (hm : x.mfe.point = .boundary mk 1) : fireClear s = .next (boundaryClear s p j pl e x.mfe mk) := by
  simp [fireClear, h.at_cursor, engineNode_of hj hx he, hm, h.may]

theorem clears_bank : clears := by
  intro g s p k pl n x e j mk t h hj hx he htile hclr hpt ht traps took
  change (_ → fireClear s = _) ∧ (_ → _ → fireClear s = _) ∧ (∀ c, _ → _ → fireClear s = _)
  rw [fireClear_asks h hj hx he hpt, boundaryClear_asks htile hclr h.node]
  refine ⟨fun hm => ?_, fun hm hp => ?_, fun c hc htrap => ?_⟩
  · rw [controlToken_drops ht hm]
  · rw [controlToken_decides ht hm hp]
  · rw [controlToken_faults (ht.trans (congrArg some hc)) htrap (not_stopped_of_mayFire h.may)]
    rfl

/-! ## ACCLD (R255, R260) -/

section Load
variable {row col : Nat}

theorem load_value {w : W64} (h : col < e.cols) : e.load m row col (.data w) =
    some { m with acc := setAt 0#64 m.acc (row * e.cols + col) w, point := .load row (col + 1) } := by
  simp [Engine.load, h, Token.val]

theorem load_poison {c : BitVec 8} (h : col < e.cols) : e.load m row col (.poison c) =
    some { m with pois := setAt none m.pois (row * e.cols + col) (some c), point := .load row (col + 1) } := by
  simp [Engine.load, h]

theorem load_rowEnd (hm : t.isMarker = true) (h : e.cols ≤ col) : e.load m row col t =
    some (if row + 1 < e.rows then { m with point := .load (row + 1) 0 } else m.started) := by
  simp [Engine.load, Nat.not_lt.2 h, hm]

/-- A marker inside a row, and a value after one, are out of place. -/
theorem load_misplaced (h : t.isMarker = true ↔ col < e.cols) : e.load m row col t = none := by
  by_cases hc : col < e.cols
  · obtain ⟨l, r, st, rfl⟩ := exists_marker (h.2 hc)
    simp [Engine.load, hc]
  · simp [Engine.load, hc, Bool.eq_false_iff.2 (mt h.1 hc)]

variable (h : Ready s p k pl n) (hj : n.refs.head? = some j) (hx : pl.nodes[j]? = some x) (he : pl.engine x = some e)
  (hpt : x.mfe.point = .load row col) (ht : n.a.head = some t)

include h hj hx he hpt ht in
theorem fireLoad_takes (hl : e.load x.mfe row col t = some m) : fireLoad s =
    .next (s.setPlane p ((pl.modNode k fun y => { y.take [1, 0, 0, 0] with grant := .none }).setMfe j m)) := by
  simp [fireLoad, h.at_cursor, engineNode_of hj hx he, ht, hpt, h.may, hl]

include h hj hx he hpt ht in
theorem fireLoad_faults (hl : e.load x.mfe row col t = none) : fireLoad s =
    .next ((s.setPlane p (pl.loadAgain j k e x.mfe row col)).detectFault p (some (.node k))
      (e.info x.mfe 0x51 [t.recorded, 0#64, 0#64])) := by
  simp [fireLoad, h.at_cursor, engineNode_of hj hx he, ht, hpt, h.may, hl]

end Load

theorem loads_bank : loadsBank := by
  intro g s p k pl n x e j row col t h hj hx he hpt ht took
  refine ⟨?_, ?_, fun hm hc => fireLoad_takes h hj hx he hpt ht (load_rowEnd hm hc),
    fun hm => fireLoad_faults h hj hx he hpt ht (load_misplaced hm)⟩
  · rintro w rfl hc
    exact fireLoad_takes h hj hx he hpt ht (load_value hc)
  · rintro c rfl hc
    exact fireLoad_takes h hj hx he hpt ht (load_poison hc)

theorem setAt_same {α : Type} (d v : α) (l : List α) (i : Nat) : (setAt d l i v)[i]? = some v := by
  have hlt : i < (l ++ List.replicate (i + 1 - l.length) d).length := by
    rw [List.length_append, List.length_replicate]
    omega
  rw [setAt, modifyAt_get_same, List.getElem?_eq_getElem hlt, Option.map_some]

theorem setAt_other {α : Type} (d v : α) (l : List α) {i j : Nat} (h : j ≠ i) : ((setAt d l i v)[j]?).getD d = (l[j]?).getD d := by
  rw [setAt, modifyAt_get_other _ _ h, List.getElem?_append]
  split
  · rfl
  next hge =>
    rw [List.getElem?_eq_none (Nat.not_lt.1 hge), List.getElem?_replicate]
    split <;> rfl

theorem sets_place : setsPlace :=
  fun l k v => ⟨setAt_same _ v l k, fun _ h => setAt_other _ v l h⟩

/-! ## A load read anew (R255, R260) -/

section Loaded
variable {row col r c : Nat}

theorem loaded_eq (e : Engine) (m : Mfe) (row col : Nat) : e.loaded m row col =
    ((List.range row).flatMap fun i => rowTokens e.cols m.acc m.pois i (marker 1)) ++
      (List.range col).map fun j => cellToken m.acc m.pois (row * e.cols + j) := rfl

theorem loaded_length : (e.loaded m row col).length = row * (e.cols + 1) + col := by
  rw [loaded_eq, List.length_append, length_flatMap_rows fun _ => rowTokens_length, List.length_map, List.length_range]

/-- A load has taken, of each whole row, the values and the marker, and of the row in progress the values before the present one. -/
theorem loaded_token (hcol : col ≤ e.cols) (hc : c ≤ e.cols) (h : r < row ∨ r = row ∧ c < col) :
    (e.loaded m row col)[r * (e.cols + 1) + c]? =
      some (if c = e.cols then marker 1 else cellToken m.acc m.pois (r * e.cols + c)) := by
  rw [loaded_eq]
  rcases h with hr | ⟨rfl, hlt⟩
  · rw [getElem?_in_rows (fun _ => rowTokens_length) hr (Nat.lt_succ_of_le hc)]
    rcases Nat.eq_or_lt_of_le hc with rfl | hlt
    · rw [rowTokens_last, if_pos rfl]
    · rw [rowTokens_cell hlt, if_neg hlt.ne]
  · rw [getElem?_after_rows fun _ => rowTokens_length, if_neg (Nat.ne_of_lt (Nat.lt_of_lt_of_le hlt hcol)), List.getElem?_map,
      List.getElem?_range hlt, Option.map_some]

end Loaded

theorem loads_anew : loadsAnew := by
  intro pl i j n x e m row col r c hij hn hx hrow hcol hc hbefore
  refine ⟨{ n with a := { n.a with toks := e.loaded m row col ++ n.a.toks } },
    x.setMfe { m with point := .load 0 0, acc := [], pois := [] }, ?_, ?_, rfl, rfl, rfl, ?_, ?_⟩
  · simp [Plane.loadAgain, Plane.setMfe, Plane.modNode_get_other _ _ hij.symm, hn]
  · simp [Plane.loadAgain, Plane.setMfe, Plane.modNode_get_other _ _ hij, hx]
  · exact List.drop_left' loaded_length
  · have htok := loaded_token (m := m) hcol hc hbefore
    rw [List.getElem?_append_left (List.getElem?_eq_some_iff.1 htok).1, htok]
    rfl

/-! ## MFE_BOUNDARY and MFE_TENSOR_START (R255, R256) -/

theorem EngineStep.engineAt_eq (h : EngineStep s pl n e) : engineAt s s.arg.plane s.arg.index = some (pl, n, e) := by
  simp [engineAt, h.plane, h.node, h.engine, h.live, h.loaded]

theorem execMfeBoundary_eq (h : EngineStep s pl n e) :
    exec .mfeBoundary s = .next (boundaryStep s s.arg.plane s.arg.index pl e n.mfe) := by
  change execMfeBoundary s = _
  simp only [execMfeBoundary, h.engineAt_eq]

theorem execMfeTensorStart_eq (h : EngineStep s pl n e) :
    exec .mfeTensorStart s = .next (tensorStart s s.arg.plane s.arg.index pl e n.mfe) := by
  change execMfeTensorStart s = _
  simp only [execMfeTensorStart, h.engineAt_eq]

section Boundary
variable {i : Nat}

/-- The sequence begins once the last step has updated its last cell (R252). -/
theorem boundaryStep_reads (hp : m.point = .boundary mk 0) (hb : m.busy < s.cycle) :
    boundaryStep s p i pl e m = boundaryRead s p i pl e m mk := by
  simp only [boundaryStep, hp]
  exact if_neg fun h => absurd h.1 (Nat.not_le.2 hb)

theorem boundaryStep_clears (hp : m.point = .boundary mk 1) : boundaryStep s p i pl e m = boundaryClear s p i pl e m mk := by
  simp only [boundaryStep, hp]

theorem boundaryStep_ends (hp : m.point = .boundary mk 2) :
    boundaryStep s p i pl e m = s.setPlane p (pl.setMfe i (boundaryEnd m mk)) := by
  simp only [boundaryStep, hp]

/-- No value of an earlier readout waits to be emitted. -/
theorem readout_free (h : m.readout.all Token.isMarker = true) : ¬ (m.readout.any (fun t => !t.isMarker) = true) := by
  simpa using h

theorem boundaryRead_tile (hr : m.readout.all Token.isMarker = true) (ht : e.tile = true) : boundaryRead s p i pl e m mk =
    s.setPlane p (pl.setMfe i { m with point := .boundary mk 1, readout := m.readout ++ e.readout m.acc m.pois mk }) := by
  simp only [boundaryRead, if_neg (readout_free hr), ht, if_true]

theorem boundaryRead_none (hr : m.readout.all Token.isMarker = true) (ht : e.tile = false) (hrd : e.rd = none) :
    boundaryRead s p i pl e m mk = s.setPlane p (pl.setMfe i { m with point := .boundary mk 1 }) := by
  simp only [boundaryRead, if_neg (readout_free hr), ht, Bool.false_eq_true, if_false, hrd]

/-- An ACCRD's token decides whether the cells or the marker alone is read out. -/
theorem boundaryRead_asks (hr : m.readout.all Token.isMarker = true) (ht : e.tile = false) (hrd : e.rd = some j)
    (hx : pl.nodes[j]? = some x) : boundaryRead s p i pl e m mk =
      controlToken s p pl e m j x [1, 0, 0, 0] x.a fun on q => q.setMfe i
        { m with point := .boundary mk 1, readout := m.readout ++ if on then e.readout m.acc m.pois mk else [mk] } := by
  simp only [boundaryRead, if_neg (readout_free hr), ht, Bool.false_eq_true, if_false, hrd, hx]
  congr 1
  funext on q
  cases on <;> rfl

theorem boundaryClear_tile (ht : e.tile = true) : boundaryClear s p i pl e m mk =
    s.setPlane p (pl.setMfe i { m with point := .boundary mk 2, acc := [], pois := [] }) := by
  simp only [boundaryClear, ht, if_true]

theorem boundaryClear_none (ht : e.tile = false) (hc : e.clr = none) : boundaryClear s p i pl e m mk =
    s.setPlane p (pl.setMfe i { m with point := .boundary mk 2 }) := by
  simp only [boundaryClear, ht, Bool.false_eq_true, if_false, hc]

theorem tensorStart_zero (hp : m.point = .start) (hl : e.ld = none) :
    tensorStart s p i pl e m = s.setPlane p (pl.setMfe i m.started) := by
  simp only [tensorStart, hp, hl]

/-- An ACCLD's predicate decides whether the bank is loaded. -/
theorem tensorStart_asks (hp : m.point = .start) (hl : e.ld = some j) (hx : pl.nodes[j]? = some x) :
    tensorStart s p i pl e m = controlToken s p pl e m j x [0, 0, 0, 1] x.p fun on q =>
      q.setMfe i (if on then { m with point := .load 0 0, acc := [], pois := [] } else m.started) := by
  simp only [tensorStart, hp, hl, hx]

end Boundary

theorem boundaries_run : boundaries := by
  intro s pl n e mk h m set
  rw [execMfeBoundary_eq h]
  refine ⟨fun hp hb hr ht => ?_, fun hp hb hr ht hrd => ?_, fun hp ht => ?_, fun hp ht hc => ?_, fun hp => ?_,
    fun j x b w hp hb hr ht hrd hx hw hbit => ?_⟩
  · rw [boundaryStep_reads hp hb, boundaryRead_tile hr ht]
  · rw [boundaryStep_reads hp hb, boundaryRead_none hr ht hrd]
  · rw [boundaryStep_clears hp, boundaryClear_tile ht]
  · rw [boundaryStep_clears hp, boundaryClear_none ht hc]
  · rw [boundaryStep_ends hp]
    rfl
  · rw [boundaryStep_reads hp hb, boundaryRead_asks hr ht hrd hx, controlToken_decides hw rfl nofun, hbit]
    rfl

theorem starts_on : startsOn := by
  refine fun m => ⟨fun h => ?_, fun t h => ?_⟩ <;> simp only [Mfe.started, h]

theorem tensors_start : tensorStarts := by
  intro s pl n e h hp
  rw [execMfeTensorStart_eq h]
  refine ⟨fun hl => ?_, fun j x w hl hx hw => ?_⟩
  · rw [tensorStart_zero hp hl]
  · rw [tensorStart_asks hp hl hx, controlToken_decides hw rfl nofun]
    rfl

end Sys2Proof.Claims

namespace Sys2Proof.Proofs

open Sys2Proof.Claims

/-- Settles O26: each feeding node and each meeting of two markers is a branch of its node's firing. -/
theorem enginesFeedAndHold : Obligations.EnginesFeedAndHold :=
  ⟨nodes_stay, nodes_feed, scales_gather, markers_join, markers_behind, markers_clash⟩

/-- Settles O28: a readout leaves row after row, and the controls' tokens decide what the cells hold. -/
theorem enginesReadAndLoad : Obligations.EnginesReadAndLoad :=
  ⟨reads_out, clears_bank, loads_bank, sets_place, readout_order⟩

/-- Settles O29: the steps of a boundary in their order, and a tensor start with or without its load. -/
theorem enginesTensors : Obligations.EnginesTensors :=
  ⟨boundaries_run, starts_on, loads_anew, tensors_start⟩

end Sys2Proof.Proofs
end

