-- ==== Sys2Proof/Proofs/Reach.lean ====
section
/-! SUPPORT. What a step may reach. One relation between two states says, in three widths, what has stayed: at a home, in a step of a
node or a task, and in any step. Each operation of the model is followed through it once. -/

namespace Sys2Proof.Machine

/-! ## The relation -/

/-- How far a step reaches: an access at its home, a step of a node or a task-mode PE, any step. -/
inductive Reach where
  | home | node | any
deriving DecidableEq

/-- What a plane holds of tile space, and whose it is. -/
def Plane.tileSpace (pl : Plane) : Memory × List Nat × Map (List Token) × List TileAlloc × Nat × Nat :=
  (pl.sram, pl.full, pl.fifos, pl.tiles, pl.ctx, pl.colour)

/-- State t follows from a by a step of a reach. Every step keeps the canonical form of the memories. But for a step without bounds,
the bytes of the device, the clock, the firmware, the host link, what planes hold of tile space and every device register but the
event ring's pointers are as they were; a node's step leaves the request slots, and an access at its home leaves host memory, every
register and the edges. -/
structure Frame (k : Reach) (a t : State) : Prop where
  wf : a.memoriesWf → t.memoriesWf
  memory : k ≠ .any → t.dram = a.dram ∧ t.store = a.store
  device : k ≠ .any → t.cycle = a.cycle ∧ t.firmware = a.firmware ∧ t.link = a.link
  ring : k ≠ .any → t.regs = { a.regs with evqPtr := t.regs.evqPtr }
  planes : k ≠ .any → ∀ q ql, a.plane? q = some ql → ∃ qr, t.plane? q = some qr ∧ qr.tileSpace = ql.tileSpace
  slots : k = .node → t.slotsHbm = a.slotsHbm ∧ t.slotsLp = a.slotsLp
  outside : k = .home → t.host = a.host ∧ t.regs = a.regs ∧ t.edges = a.edges

variable {k : Reach} {a s t : State}

@[simp] theorem Frame.refl : Frame k s s where
  wf := id
  memory _ := ⟨rfl, rfl⟩
  device _ := ⟨rfl, rfl, rfl⟩
  ring _ := rfl
  planes _ _ ql h := ⟨ql, h, rfl⟩
  slots _ := ⟨rfl, rfl⟩
  outside _ := ⟨rfl, rfl, rfl⟩

theorem Frame.trans (h : Frame k a s) (h' : Frame k s t) : Frame k a t where
  wf w := h'.wf (h.wf w)
  memory hk := ⟨(h'.memory hk).1.trans (h.memory hk).1, (h'.memory hk).2.trans (h.memory hk).2⟩
  device hk := by
    obtain ⟨h1, h2, h3⟩ := h.device hk
    obtain ⟨g1, g2, g3⟩ := h'.device hk
    exact ⟨g1.trans h1, g2.trans h2, g3.trans h3⟩
  ring hk := by rw [h'.ring hk, h.ring hk]
  planes hk q ql hq := by
    obtain ⟨qm, hm, em⟩ := h.planes hk q ql hq
    obtain ⟨qr, hr, er⟩ := h'.planes hk q qm hm
    exact ⟨qr, hr, er.trans em⟩
  slots hk := ⟨(h'.slots hk).1.trans (h.slots hk).1, (h'.slots hk).2.trans (h.slots hk).2⟩
  outside hk := by
    obtain ⟨h1, h2, h3⟩ := h.outside hk
    obtain ⟨g1, g2, g3⟩ := h'.outside hk
    exact ⟨g1.trans h1, g2.trans h2, g3.trans h3⟩

/-- A state with other tables: whatever is not bytes, registers, planes, slots or edges. -/
theorem Frame.fields (h : Frame k a s) {timeRem nextId fresh : Nat} {ctxs : Map Ctx} {tileGov : Map Tile} {copies : List HostCopy}
    {tlbs : List (Nat × TlbEntry)} {walks : List Walk} {caches : Map (List CacheLine)} {slotQueues : Map (List SlotWaiter)}
    {ports : Map (List Copy)} {tack : Map TackEntry} {plans : List (PlanKey × Plan)} {tasks : Map Task} {waiting : List Task}
    {flithe : Map FlithePort} {sent : List Sent} {arg : Stimulus} {cursor : Cursor} {agenda : List Agenda} :
    Frame k a { s with timeRem, nextId, fresh, ctxs, tileGov, copies, tlbs, walks, caches, slotQueues, ports, tack, plans, tasks, waiting,
                       flithe, sent, arg, cursor, agenda } :=
  h.trans { wf := id, memory := fun _ => ⟨rfl, rfl⟩, device := fun _ => ⟨rfl, rfl, rfl⟩, ring := fun _ => rfl
            planes := fun _ _ ql hq => ⟨ql, hq, rfl⟩, slots := fun _ => ⟨rfl, rfl⟩, outside := fun _ => ⟨rfl, rfl, rfl⟩ }

/-- In a step without bounds only the canonical form is asked for. -/
theorem Frame.any_of (h : Frame .any a s) (hw : s.memoriesWf → t.memoriesWf) : Frame .any a t where
  wf w := hw (h.wf w)
  memory hk := absurd rfl hk
  device hk := absurd rfl hk
  ring hk := absurd rfl hk
  planes hk := absurd rfl hk
  slots hk := by cases hk
  outside hk := by cases hk

/-! ## Planes -/

theorem mem_modifyAt_iff {α : Type} {l : List α} {n : Nat} {f : α → α} {y : α} (h : y ∈ modifyAt l n f) :
    y ∈ l ∨ ∃ x, l[n]? = some x ∧ f x = y := by
  obtain ⟨i, hi⟩ := List.mem_iff_getElem?.mp h
  by_cases hn : i = n
  · subst hn
    rw [modifyAt_get_same] at hi
    exact .inr (Option.map_eq_some_iff.mp hi)
  · rw [modifyAt_get_other _ _ hn] at hi
    exact .inl (List.mem_of_getElem? hi)

theorem sram_wf_of_plane? {p : PlaneId} {pl : Plane} (hw : s.memoriesWf) (h : s.plane? p = some pl) : pl.sram.wf := by
  obtain ⟨hdram, hhost, hstore, hpads, hsaves⟩ := hw
  obtain ⟨d, hd, hp⟩ := Option.bind_eq_some_iff.mp h
  exact hpads _ (mem_of_mapGet hd) pl (List.mem_of_getElem? hp)

theorem memoriesWf_modPlane {p : PlaneId} {f : Plane → Plane} (hw : s.memoriesWf)
    (hf : ∀ pl, s.plane? p = some pl → pl.sram.wf → (f pl).sram.wf) : (s.modPlane p f).memoriesWf := by
  have hsram := fun pl => sram_wf_of_plane? (p := p) (pl := pl) hw
  unfold State.modPlane
  split
  · exact hw
  · next d hd =>
    obtain ⟨hdram, hhost, hstore, hpads, hsaves⟩ := hw
    refine ⟨hdram, hhost, hstore, fun kd hkd pl hpl => ?_, hsaves⟩
    rcases mem_mapSet hkd with hkd | rfl
    · exact hpads kd hkd pl hpl
    · rcases mem_modifyAt_iff hpl with hpl | ⟨x, hx, rfl⟩
      · exact hpads _ (mem_of_mapGet hd) pl hpl
      · have hp : s.plane? p = some x := by simp [State.plane?, hd, hx]
        exact hf x hp (hsram x hp)

/-- A step that leaves everything but the table of planes. -/
theorem Frame.pads (h : Frame k a s) {l : Map Paddock} (hw : s.memoriesWf → ∀ kd ∈ l, ∀ pl ∈ kd.2.planes, pl.sram.wf)
    (hp : ∀ q ql, s.plane? q = some ql → ∃ qr, { s with pads := l }.plane? q = some qr ∧ qr.tileSpace = ql.tileSpace) :
    Frame k a { s with pads := l } :=
  h.trans
    { wf := fun w => ⟨w.1, w.2.1, w.2.2.1, hw w, w.2.2.2.2⟩
      memory := fun _ => ⟨rfl, rfl⟩
      device := fun _ => ⟨rfl, rfl, rfl⟩
      ring := fun _ => rfl
      planes := fun _ => hp
      slots := fun _ => ⟨rfl, rfl⟩
      outside := fun _ => ⟨rfl, rfl, rfl⟩ }

theorem modPlane_eq (s : State) (p : PlaneId) (f : Plane → Plane) : s.modPlane p f = { s with pads := (s.modPlane p f).pads } := by
  unfold State.modPlane
  split <;> rfl

/-- A plane changed, but for what it holds of tile space. -/
theorem Frame.modPlaneAt (h : Frame k a s) {p : PlaneId} {f : Plane → Plane}
    (hf : ∀ pl, s.plane? p = some pl → (f pl).tileSpace = pl.tileSpace) : Frame k a (s.modPlane p f) := by
  rw [modPlane_eq]
  refine h.pads (fun hw => ?_) fun q ql hq => ?_
  · have hm := memoriesWf_modPlane (p := p) (f := f) hw fun pl hp hs => by
      rwa [show (f pl).sram = pl.sram from congrArg Prod.fst (hf pl hp)]
    exact hm.2.2.2.1
  · rw [← modPlane_eq]
    by_cases e : q = p
    · subst e
      exact ⟨f ql, by simp [hq], hf ql hq⟩
    · exact ⟨ql, by simp [e, hq], rfl⟩

theorem Frame.modPlane (h : Frame k a s) {p : PlaneId} {f : Plane → Plane}
    (hf : ∀ pl, (f pl).tileSpace = pl.tileSpace := by intro _; rfl) : Frame k a (s.modPlane p f) :=
  h.modPlaneAt fun pl _ => hf pl

theorem Frame.setPlane (h : Frame k a s) {p : PlaneId} {pl x : Plane} (hp : s.plane? p = some pl)
    (hx : x.tileSpace = pl.tileSpace := by rfl) : Frame k a (s.setPlane p x) :=
  h.modPlaneAt fun q hq => by rw [hp] at hq; cases hq; exact hx

/-- In a step without bounds a plane may change in any way that keeps its memory canonical. -/
theorem Frame.modPlane_any (h : Frame .any a s) {p : PlaneId} {f : Plane → Plane} (hf : ∀ pl, pl.sram.wf → (f pl).sram.wf) :
    Frame .any a (s.modPlane p f) :=
  h.any_of fun hw => memoriesWf_modPlane hw fun pl _ => hf pl

/-- A paddock's planes in which tile space is as it was. -/
def Paddock.sameTiles (d e : Paddock) : Prop := e.planes.map Plane.tileSpace = d.planes.map Plane.tileSpace

theorem Paddock.sameTiles.plane {d e : Paddock} (h : d.sameTiles e) {i : Nat} {pl : Plane} (hp : d.planes[i]? = some pl) :
    ∃ pl', e.planes[i]? = some pl' ∧ pl'.tileSpace = pl.tileSpace := by
  have hi := congrArg (·[i]?) h
  simp only [List.getElem?_map, hp, Option.map_some] at hi
  exact Option.map_eq_some_iff.mp hi

theorem Paddock.sameTiles.sram {d e : Paddock} (h : d.sameTiles e) {pl : Plane} (hp : pl ∈ e.planes) : ∃ pl' ∈ d.planes, pl'.sram = pl.sram := by
  have hm : pl.tileSpace ∈ d.planes.map Plane.tileSpace := h ▸ List.mem_map_of_mem hp
  obtain ⟨pl', hp', e⟩ := List.mem_map.mp hm
  exact ⟨pl', hp', congrArg Prod.fst e⟩

theorem map_modifyAt {α β : Type} (g : α → β) {l : List α} {n : Nat} {f : α → α} (hf : ∀ x, g (f x) = g x) :
    (modifyAt l n f).map g = l.map g := by
  induction l generalizing n with
  | nil => rfl
  | cons x xs ih => cases n <;> simp [modifyAt, hf, ih]

/-- A paddock set in which tile space is as it was. -/
theorem Frame.setPad (h : Frame k a s) {i : Nat} {d e : Paddock} (hd : mapGet s.pads i = some d) (he : d.sameTiles e) :
    Frame k a { s with pads := mapSet s.pads i e } := by
  refine h.pads (fun hw kd hkd pl hpl => ?_) fun q ql hq => ?_
  · rcases mem_mapSet hkd with hkd | rfl
    · exact hw.2.2.2.1 kd hkd pl hpl
    · obtain ⟨pl', hp', eq⟩ := he.sram hpl
      exact eq ▸ hw.2.2.2.1 _ (mem_of_mapGet hd) pl' hp'
  · obtain ⟨d', hd', hp⟩ := Option.bind_eq_some_iff.mp hq
    by_cases hi : q.pad = i
    · subst hi
      rw [hd] at hd'
      cases hd'
      obtain ⟨pl', hp', eq⟩ := he.plane hp
      exact ⟨pl', by simp [State.plane?, hp'], eq⟩
    · exact ⟨ql, by simp [State.plane?, hi, hd', hp], rfl⟩

/-- Every paddock changed, tile space as it was. -/
theorem Frame.mapPads (h : Frame k a s) {g : Nat → Paddock → Paddock} (hg : ∀ i (d : Paddock), d.sameTiles (g i d)) :
    Frame k a { s with pads := s.pads.map fun kd => (kd.1, g kd.1 kd.2) } := by
  have get (m : Map Paddock) (i : Nat) : mapGet (m.map fun kd => (kd.1, g kd.1 kd.2)) i = (mapGet m i).map (g i) := by
    induction m with
    | nil => rfl
    | cons kd rest ih =>
      simp only [List.map_cons, mapGet]
      split
      · next e => subst e; rfl
      · exact ih
  refine h.pads (fun hw kd hkd pl hpl => ?_) fun q ql hq => ?_
  · obtain ⟨x, hx, rfl⟩ := List.mem_map.mp hkd
    obtain ⟨pl', hp', eq⟩ := (hg x.1 x.2).sram hpl
    exact eq ▸ hw.2.2.2.1 x hx pl' hp'
  · obtain ⟨d, hd, hp⟩ := Option.bind_eq_some_iff.mp hq
    obtain ⟨pl', hp', eq⟩ := (hg q.pad d).plane hp
    exact ⟨pl', by simp [State.plane?, get, hd, hp'], eq⟩

/-! ## Saved planes, registers, memories -/

/-- Saved planes dropped or changed, their memories as they were. -/
theorem Frame.setSaves (h : Frame k a s) {l : Map Saved} (hl : ∀ x ∈ l, ∃ y ∈ s.saves, x.2.plane.sram = y.2.plane.sram) :
    Frame k a { s with saves := l } :=
  h.trans
    { wf := fun w => ⟨w.1, w.2.1, w.2.2.1, w.2.2.2.1, fun x hx => by
        obtain ⟨y, hy, e⟩ := hl x hx
        exact e ▸ w.2.2.2.2 y hy⟩
      memory := fun _ => ⟨rfl, rfl⟩
      device := fun _ => ⟨rfl, rfl, rfl⟩
      ring := fun _ => rfl
      planes := fun _ _ ql hq => ⟨ql, hq, rfl⟩
      slots := fun _ => ⟨rfl, rfl⟩
      outside := fun _ => ⟨rfl, rfl, rfl⟩ }

theorem Frame.filterSaves (h : Frame k a s) (c : Nat × Saved → Bool) : Frame k a { s with saves := s.saves.filter c } :=
  h.setSaves fun x hx => ⟨x, List.mem_of_mem_filter hx, rfl⟩

/-- Events move the ring's pointer and write host memory. -/
theorem Frame.setRing (h : Frame k a s) (hk : k ≠ .home) {r : Regs} (hr : s.regs = r) {w : W64} :
    Frame k a { s with regs := { r with evqPtr := w } } :=
  h.trans { wf := id, memory := fun _ => ⟨rfl, rfl⟩, device := fun _ => ⟨rfl, rfl, rfl⟩, ring := fun _ => by rw [hr]
            planes := fun _ _ ql hq => ⟨ql, hq, rfl⟩, slots := fun _ => ⟨rfl, rfl⟩, outside := fun e => absurd e hk }

theorem Frame.setHost (h : Frame k a s) (hk : k ≠ .home) {m : Memory} (hm : s.host.wf → m.wf) : Frame k a { s with host := m } :=
  h.trans { wf := fun w => ⟨w.1, hm w.2.1, w.2.2⟩, memory := fun _ => ⟨rfl, rfl⟩, device := fun _ => ⟨rfl, rfl, rfl⟩, ring := fun _ => rfl
            planes := fun _ _ ql hq => ⟨ql, hq, rfl⟩, slots := fun _ => ⟨rfl, rfl⟩, outside := fun e => absurd e hk }

theorem Frame.setEdges (h : Frame k a s) (hk : k ≠ .home) {m : Map Edge} : Frame k a { s with edges := m } :=
  h.trans { wf := id, memory := fun _ => ⟨rfl, rfl⟩, device := fun _ => ⟨rfl, rfl, rfl⟩, ring := fun _ => rfl
            planes := fun _ _ ql hq => ⟨ql, hq, rfl⟩, slots := fun _ => ⟨rfl, rfl⟩, outside := fun e => absurd e hk }

theorem Frame.setSlots (h : Frame k a s) (hk : k ≠ .node) {l l' : List Nat} : Frame k a { s with slotsHbm := l, slotsLp := l' } :=
  h.trans { wf := id, memory := fun _ => ⟨rfl, rfl⟩, device := fun _ => ⟨rfl, rfl, rfl⟩, ring := fun _ => rfl
            planes := fun _ _ ql hq => ⟨ql, hq, rfl⟩, slots := fun e => absurd e hk, outside := fun _ => ⟨rfl, rfl, rfl⟩ }

theorem Frame.setDram (h : Frame .any a s) {m : Memory} (hm : s.dram.wf → m.wf) : Frame .any a { s with dram := m } :=
  h.any_of fun w => ⟨hm w.1, w.2⟩

theorem Frame.setStore (h : Frame .any a s) {m : Memory} (hm : s.store.wf → m.wf) : Frame .any a { s with store := m } :=
  h.any_of fun w => ⟨w.1, w.2.1, hm w.2.2.1, w.2.2.2⟩

/-! ## A fold of steps -/

theorem Frame.foldl {β : Type} {f : State → β → State} {l : List β} (h : Frame k a s) (hf : ∀ s x, Frame k a s → Frame k a (f s x)) :
    Frame k a (l.foldl f s) := by
  induction l generalizing s with
  | nil => exact h
  | cons x xs ih => exact ih (hf s x h)

/-! ## The outcome of an instruction -/

/-- Every state that an outcome answers. -/
def Answers (P : State → Prop) (r : Result) : Prop := ∀ t, r = .next t → P t

@[simp] theorem answers_next {P : State → Prop} : Answers P (.next s) ↔ P s :=
  ⟨fun h => h s rfl, fun h t e => by cases e; exact h⟩

end Sys2Proof.Machine
end

