-- ==== Sys2Proof/Proofs/ReachShared.lean ====
section
/-! SUPPORT. What the shared operations of nodes and tasks reach: the grant and the charges, the issue and the commit of a firing, faults,
events, requests and frames to a peer. -/

namespace Sys2Proof.Machine

variable {k : Reach} {a s t : State}

/-! ## Operations of a plane -/

@[simp] theorem Plane.modNode_tileSpace (pl : Plane) (i : Nat) (f : Node → Node) : (pl.modNode i f).tileSpace = pl.tileSpace := rfl
@[simp] theorem Plane.modPe_tileSpace (pl : Plane) (i : Nat) (f : TaskPe → TaskPe) : (pl.modPe i f).tileSpace = pl.tileSpace := rfl
@[simp] theorem Plane.modReq_tileSpace (pl : Plane) (i : Nat) (f : Request → Request) : (pl.modReq i f).tileSpace = pl.tileSpace := rfl
@[simp] theorem Plane.modDest_tileSpace (pl : Plane) (d : Dest) (f : Queue → Queue) : (pl.modDest d f).tileSpace = pl.tileSpace := by
  cases d <;> rfl

@[simp] theorem Plane.emit_tileSpace (pl : Plane) (d : Dest) (x : Token) : (pl.emit d x).tileSpace = pl.tileSpace := by
  unfold Plane.emit
  split
  · split <;> rfl
  · rfl
  · exact Plane.modDest_tileSpace ..

@[simp] theorem Plane.emitAll_tileSpace (n : Node) (es : List (Nat × Token)) (pl : Plane) : (pl.emitAll n es).tileSpace = pl.tileSpace := by
  induction es generalizing pl with
  | nil => rfl
  | cons e es ih =>
    rw [Plane.emitAll, ih]
    split <;> simp

@[simp] theorem Plane.reserve_tileSpace (n : Node) (es : List (Nat × Token)) (pl : Plane) : (pl.reserve n es).tileSpace = pl.tileSpace := by
  induction es generalizing pl with
  | nil => rfl
  | cons e es ih =>
    rw [Plane.reserve, ih]
    split <;> simp

@[simp] theorem Plane.release_tileSpace (n : Node) (es : List (Nat × Token)) (pl : Plane) : (pl.release n es).tileSpace = pl.tileSpace := by
  induction es generalizing pl with
  | nil => rfl
  | cons e es ih =>
    rw [Plane.release, ih]
    split <;> simp

@[simp] theorem Plane.sendTask_tileSpace (pl : Plane) (k o : Nat) (x : Token) : (pl.sendTask k o x).tileSpace = pl.tileSpace := by
  unfold Plane.sendTask
  generalize ((pl.pes[k]?).bind fun t => t.outs[o]?).getD [] = ds
  induction ds generalizing pl with
  | nil => rfl
  | cons d ds ih => rw [List.foldl_cons, ih, Plane.emit_tileSpace]

@[simp] theorem Plane.hold_tileSpace (pl : Plane) (now : Nat) (f : HeldFault) : (pl.hold now f).tileSpace = pl.tileSpace := by
  unfold Plane.hold
  split <;> rfl

@[simp] theorem Plane.doom_tileSpace (pl : Plane) (now : Nat) : (pl.doom now).tileSpace = pl.tileSpace := by
  unfold Plane.doom
  split <;> rfl

@[simp] theorem Plane.serve_tileSpace (pl : Plane) (r : Request) (out : List (Nat × Token)) (flags : FpFlags) :
    (pl.serve r out flags).tileSpace = pl.tileSpace := by
  unfold Plane.serve
  dsimp only
  split <;> rfl

@[simp] theorem Plane.moveTokens_tileSpace (pl : Plane) (i : Nat) (n : Node) (m : Mfe) (es : List (Nat × Token)) :
    (pl.moveTokens i n m es).tileSpace = pl.tileSpace := Plane.emitAll_tileSpace n es _

theorem Paddock.doom_sameTiles (d : Paddock) (c now : Nat) : d.sameTiles (d.doom c now) := by
  unfold Paddock.sameTiles Paddock.doom
  rw [List.map_map]
  refine List.map_congr_left fun pl _ => ?_
  simp only [Function.comp]
  split <;> simp

/-! ## Grants and charges -/

theorem Frame.grantCycle (h : Frame k a s) {p : PlaneId} : Frame k a (grantCycle s p).2 := by
  have decided {d : Paddock} (hd : mapGet s.pads p.pad = some d) : Frame k a (Machine.grantCycle.decide s p d).2 := by
    refine h.setPad hd ?_
    unfold Paddock.sameTiles
    dsimp only
    split
    · exact map_modifyAt _ fun _ => rfl
    · rfl
  unfold Machine.grantCycle
  split
  · exact h
  · next d hd =>
    split
    · split
      · exact h
      · exact decided hd
    · exact decided hd

theorem Frame.tilePass (h : Frame k a s) {p : PlaneId} {x y : Nat} : Frame k a (tilePass s p x y).2.2 := by
  unfold Machine.tilePass
  dsimp only
  split
  · split
    · exact h
    · exact h.fields
  · exact h.fields

theorem Frame.admitTimes (h : Frame k a s) {p : PlaneId} {x : Place} {c : Cost} {n : Nat} : Frame k a (admitTimes s p x c n).2 := by
  unfold Machine.admitTimes
  dsimp only
  split
  · split
    · exact h.tilePass.fields
    · exact h.tilePass
  · exact h

theorem Frame.admitMem (h : Frame k a s) {p : PlaneId} {n : Node} {i : Instr} : Frame k a (admitMem s p n i).2 := by
  unfold Machine.admitMem
  split
  · exact h
  · exact h.admitTimes

theorem Frame.admitTask (h : Frame k a s) {x : TaskSite} {c : Cost} : Frame k a (admitTask s x c).2 := by
  unfold Machine.admitTask
  split
  · exact h
  · exact h.admitTimes

theorem Frame.passMfes (p : PlaneId) : ∀ (tiles : List (Nat × Nat)) {s : State}, Frame k a s → Frame k a (passMfes s p tiles).2
  | [], _, h => h
  | _ :: rest, _, h => Frame.passMfes p rest h.tilePass

theorem Frame.admitMfe (h : Frame k a s) {p : PlaneId} {tiles : List (Nat × Nat)} {cls issue : Nat} :
    Frame k a (admitMfe s p tiles cls issue).2 := by
  unfold Machine.admitMfe
  dsimp only
  split
  · exact (Frame.passMfes p tiles h).foldl fun _ _ h => h.fields
  · exact Frame.passMfes p tiles h

/-! ## Firings -/

theorem Frame.issueFiring (h : Frame k a s) {p : PlaneId} {i : Nat} {n : Node} {dep : Bool} {ticks : Option Nat} {due : Nat} {f : Firing} :
    Frame k a (issueFiring s p i n dep ticks due f) := by
  refine h.modPlane fun pl => ?_
  cases f with
  | wait => rfl
  | fault => rfl
  | fires e => exact Plane.reserve_tileSpace n e.emits _

theorem Frame.commitEffect (h : Frame k a s) {p : PlaneId} {i : Nat} {n : Node} {e : Effect} : Frame k a (commitEffect s p i n e) :=
  h.modPlane fun _ => Plane.emitAll_tileSpace n e.emits _

theorem Frame.addRequests (h : Frame k a s) {p : PlaneId} {rs : List Request} : Frame k a (s.addRequests p rs) := by
  induction rs generalizing s with
  | nil => exact h
  | cons r rs ih => exact ih h.fields.modPlane

theorem Frame.setCharged (h : Frame k a s) {p : PlaneId} {i : Nat} {on : Bool} : Frame k a (s.setCharged p i on) := h.modPlane

/-! ## Faults -/

theorem Frame.modCtx (h : Frame k a s) {c : Nat} {f : Ctx → Ctx} : Frame k a (s.modCtx c f) := h.fields

theorem Frame.sweepTack (h : Frame k a s) : Frame k a s.sweepTack := h.fields

theorem Frame.failContext (h : Frame k a s) {c slot first second reason : Nat} : Frame k a (s.failContext c slot first second reason) := by
  unfold State.failContext
  split
  · exact h
  · exact (((h.modCtx (c := c)).mapPads fun _ d => d.doom_sameTiles c _).filterSaves _).fields

theorem Frame.detectHeld (h : Frame k a s) {p : PlaneId} {f : HeldFault} : Frame k a (s.detectHeld p f) := by
  unfold State.detectHeld
  split
  · exact h
  · next pl hp =>
    split
    · exact h
    · split
      · exact h.failContext
      · exact h.setPlane hp (pl.hold_tileSpace _ _)

theorem Frame.detectFault (h : Frame k a s) {p : PlaneId} {who : Option Asker} {info : FaultInfo} {fatal : Bool} :
    Frame k a (s.detectFault p who info fatal) := by
  unfold State.detectFault
  split
  · exact h
  · exact h.detectHeld

/-! ## Events -/

theorem Frame.hostWritten (h : Frame k a s) {md : Option Nat} {line : Nat} : Frame k a (s.hostWritten md line) := h.fields

theorem Frame.writeHost (h : Frame k a s) (hk : k ≠ .home) {x : Nat} {bs : List Byte} : Frame k a (s.writeHost x bs) :=
  (h.setHost hk fun w => Memory.wf_write w x bs).foldl fun _ _ h => h.hostWritten

theorem writeHost_regs (s : State) (x : Nat) (bs : List Byte) : (s.writeHost x bs).regs = s.regs :=
  List.foldlRecOn _ _ (motive := fun z : State => z.regs = s.regs) rfl fun _ hz _ _ => hz

theorem Frame.sendEvent (h : Frame k a s) (hk : k ≠ .home) {kind ctx data : Nat} : Frame k a (s.sendEvent kind ctx data) := by
  unfold State.sendEvent
  dsimp only
  split
  · exact h.setRing hk rfl
  · exact ((h.writeHost hk).setRing hk (writeHost_regs ..)).fields

theorem Frame.countDeprecated (h : Frame k a s) (hk : k ≠ .home) {c : Nat} : Frame k a (countDeprecated s c) := by
  unfold Machine.countDeprecated
  dsimp only
  split
  · exact Frame.sendEvent h.fields hk
  · exact h.fields

/-! ## Frames to a peer -/

theorem Frame.setPort (h : Frame k a s) {key : Nat} {f : FlithePort} : Frame k a (s.setPort key f) := h.fields

theorem Frame.transmit (h : Frame k a s) {key : Nat} {fs : List FlitheFrame} : Frame k a (s.transmit key fs) := by
  unfold State.transmit
  split
  · exact h.fields
  · exact h

theorem Frame.sendData (h : Frame k a s) {key c : Nat} {flits : List (BitVec 256)} : Frame k a (s.sendData key c flits) := by
  unfold State.sendData
  dsimp only
  split
  · exact h.setPort.transmit
  · exact h.setPort

theorem Frame.sendPeer (h : Frame k a s) {p : PlaneId} {ctx : Nat} {r : Request} : Frame k a (s.sendPeer p ctx r) := h.setPort.sendData

theorem Frame.startPeer (h : Frame k a s) {p : PlaneId} {ctx : Nat} {who : Asker} {r : Request} : Frame k a (s.startPeer p ctx who r) := by
  have started {f : Plane → Plane} (hf : ∀ pl, (f pl).tileSpace = pl.tileSpace) : Frame k a ({ s with nextId := s.nextId + 1 }.modPlane p f) :=
    h.fields.modPlane hf
  unfold State.startPeer
  dsimp only [State.takeId]
  split
  · exact started fun pl => by cases who <;> rfl
  · exact (started fun pl => by cases who <;> rfl).sendPeer

/-! ## Memory firings -/

theorem Frame.commitMem (h : Frame k a s) (hk : k ≠ .home) {p : PlaneId} {i : Nat} {pl : Plane} {n : Node} {dep : Bool} {f : MemFiring} :
    Frame k a (commitMem s p i pl n dep f) := by
  cases f with
  | wait => exact h
  | walk w => exact h.setCharged.fields
  | fault info => exact h.setCharged.detectFault
  | go e rs =>
    unfold Machine.commitMem
    dsimp only
    have closed : Frame k a (if rs.any (fun r => match r.acc with | .close .. => true | _ => false)
        then ((Machine.commitEffect s p i n e).addRequests p rs).modPlane p (·.modNode i fun n => { n with rounds := n.rounds + 1 })
        else (Machine.commitEffect s p i n e).addRequests p rs) := by
      split
      · exact h.commitEffect.addRequests.modPlane
      · exact h.commitEffect.addRequests
    split
    · exact closed.countDeprecated hk
    · exact closed
  | peer e r => exact h.setCharged.startPeer

/-! ## Task instructions -/

theorem Frame.chargeTask (h : Frame k a s) {p : PlaneId} {i : Nat} {on : Bool} : Frame k a (s.chargeTask p i on) := h.modPlane

theorem Frame.taskSend (h : Frame k a s) {p : PlaneId} {i o : Nat} {x : Token} : Frame k a (s.taskSend p i o x) := by
  unfold State.taskSend
  split
  · exact h
  · dsimp only
    split
    · exact h.addRequests
    · exact h.modPlane fun pl => pl.sendTask_tileSpace i o x

theorem Frame.commitTask (h : Frame k a s) {p : PlaneId} {i : Nat} {x : Activation} {e : TaskEffect} : Frame k a (s.commitTask p i x e) :=
  (h.modPlane.addRequests).foldl fun _ _ h => h.taskSend

end Sys2Proof.Machine
end

