-- ==== Sys2Proof/Proofs/ReachFirings.lean ====
section
/-! SUPPORT. What the ways in which a node or a task-mode PE moves reach, each followed once for every rule. -/

namespace Sys2Proof.Machine

variable {k : Reach} {a s t : State}

/-! ## What the present step fires -/

theorem cursorNode_plane {p : PlaneId} {i : Nat} {pl : Plane} {n : Node} (h : cursorNode s = some (p, i, pl, n)) : s.plane? p = some pl := by
  unfold cursorNode at h
  split at h
  · obtain ⟨pl', hp, h⟩ := Option.bind_eq_some_iff.mp h
    obtain ⟨n', -, h⟩ := Option.map_eq_some_iff.mp h
    cases h
    exact hp
  · cases h

/-! ## Firings of a PE and of a router slot -/

theorem Frame.firePeFor (h : Frame k a s) {g : GArgs} {i : Instr} {dep : Bool} {wait : Option Nat} {rule : View → Firing} :
    Answers (Frame k a) (firePeFor s g i dep wait rule) := by
  unfold Machine.firePeFor
  dsimp only
  split
  · exact answers_next.mpr h
  · split
    · exact answers_next.mpr h
    · split
      · exact answers_next.mpr h
      · split
        · exact answers_next.mpr h.grantCycle
        · split
          · exact answers_next.mpr h.grantCycle.admitTimes
          · exact answers_next.mpr h.grantCycle.admitTimes.issueFiring

theorem Frame.fireOnce (h : Frame k a s) {g : GArgs} {c : Cost} {times : View → Nat} {rule : View → Firing} :
    Answers (Frame k a) (fireOnce s g c times rule) := by
  unfold Machine.fireOnce
  dsimp only
  split
  · exact answers_next.mpr h
  · split
    · exact answers_next.mpr h
    · split
      · exact answers_next.mpr h
      · split
        · exact answers_next.mpr h.grantCycle
        · split
          · exact answers_next.mpr h.grantCycle.admitTimes
          · split
            · exact answers_next.mpr h.grantCycle.admitTimes
            · exact answers_next.mpr h.grantCycle.admitTimes.detectFault
            · exact answers_next.mpr h.grantCycle.admitTimes.commitEffect

theorem Frame.firePe (h : Frame k a s) {g : GArgs} {i : Instr} {rule : View → Firing} : Answers (Frame k a) (firePe s g i rule) :=
  h.firePeFor

theorem Frame.fireRouter (h : Frame k a s) {g : GArgs} {rule : View → Firing} : Answers (Frame k a) (fireRouter s g rule) :=
  h.fireOnce

/-! ## Memory firings -/

theorem Frame.fireMemAs (h : Frame k a s) (hk : k ≠ .home) {g : GArgs} {i : Instr} {dep : Bool} {rule : Site → MemFiring} :
    Answers (Frame k a) (fireMemAs s g i dep rule) := by
  unfold Machine.fireMemAs
  dsimp only
  split
  · exact answers_next.mpr h
  · split
    · exact answers_next.mpr h
    · split
      · exact answers_next.mpr h
      · split
        · exact answers_next.mpr h.grantCycle
        · split
          · exact answers_next.mpr h.grantCycle.admitMem
          · exact answers_next.mpr (h.grantCycle.admitMem.commitMem hk)

theorem Frame.fireMem (h : Frame k a s) (hk : k ≠ .home) {g : GArgs} {i : Instr} {rule : Site → MemFiring} :
    Answers (Frame k a) (fireMem s g i rule) := h.fireMemAs hk

theorem Frame.fireAgen (h : Frame k a s) (hk : k ≠ .home) {g : GArgs} : Answers (Frame k a) (fireAgen s g) := by
  unfold Machine.fireAgen
  split
  · next s' p i pl n hs hc =>
    have h' : Frame k a s' := h.fireMemAs hk s' hs
    refine answers_next.mpr ?_
    split
    · exact h'.modPlane
    · exact h'
  · exact h.fireMemAs hk

theorem Plane.setLbuf_tileSpace (pl : Plane) (b : Option (Nat × LineBuf)) : (pl.setLbuf b).tileSpace = pl.tileSpace := by
  cases b <;> rfl

theorem Frame.fireLbwin (h : Frame k a s) (hk : k ≠ .home) {g : GArgs} : Answers (Frame k a) (fireLbwin s g) := by
  unfold Machine.fireLbwin
  split
  · next s' p i pl n hs hc =>
    have h' : Frame k a s' := h.fireMemAs hk s' hs
    refine answers_next.mpr ?_
    split
    · exact h'.modPlane fun pl => pl.setLbuf_tileSpace _
    · exact h'
  · exact h.fireMemAs hk

/-! ## Task instructions -/

theorem Frame.runTask (h : Frame k a s) {c : Cost} {body : TaskSite → TaskOut} : Answers (Frame k a) (runTask s c body) := by
  unfold Machine.runTask
  dsimp only
  split
  · exact answers_next.mpr h
  · split
    · exact answers_next.mpr h
    · split
      · exact answers_next.mpr h.grantCycle
      · split
        · exact answers_next.mpr h.grantCycle.admitTask
        · split
          · exact answers_next.mpr h.grantCycle.admitTask.detectFault
          · split
            · exact answers_next.mpr h.grantCycle.admitTask.chargeTask
            · exact answers_next.mpr h.grantCycle.admitTask.chargeTask.fields
            · exact answers_next.mpr h.grantCycle.admitTask.chargeTask.detectFault
            · exact answers_next.mpr h.grantCycle.admitTask.commitTask
            · exact answers_next.mpr h.grantCycle.admitTask.chargeTask.startPeer

/-! ## Copies -/

theorem Frame.commitMarker (h : Frame k a s) {p : PlaneId} {i : Nat} {n : Node} {chan : Bool} {m : Token} :
    Frame k a (commitMarker s p i n chan m) := by
  unfold Machine.commitMarker
  dsimp only
  split
  · exact h
  · exact h.commitEffect

theorem Frame.commitCopy (h : Frame k a s) {p : PlaneId} {i : Nat} {n : Node} {chan : Bool} {returns : List Nat} {m : CopyMove} :
    Frame k a (commitCopy s p i n chan returns m) := by
  unfold Machine.commitCopy
  split
  · exact h
  · exact h
  · exact h
  · exact h.setCharged.fields
  · exact h.commitMarker
  · exact h.setCharged.detectFault
  · exact h.commitEffect.fields

theorem Frame.fireCopy (h : Frame k a s) {g : GArgs} {i : Instr} {multi : Bool} : Answers (Frame k a) (fireCopy s g i multi) := by
  unfold Machine.fireCopy
  dsimp only
  split
  · exact answers_next.mpr h
  · next p i pl n hc =>
    have hp := cursorNode_plane hc
    split
    · exact answers_next.mpr h
    · split
      · split
        · exact answers_next.mpr (h.setPlane hp)
        · exact answers_next.mpr h
      · exact answers_next.mpr (h.setPlane hp)
      · exact answers_next.mpr (h.setPlane hp)
      · split
        · exact answers_next.mpr h
        · split
          · exact answers_next.mpr h.grantCycle
          · split
            · exact answers_next.mpr h.grantCycle.admitMem
            · exact answers_next.mpr h.grantCycle.admitMem.commitCopy

/-! ## Edges, children and the end of a task -/

theorem Frame.askTurn (h : Frame k a s) (hk : k ≠ .home) {ctx share : Nat} {es : List Nat} : Frame k a (s.askTurn ctx share es) := by
  induction es generalizing s with
  | nil => exact h
  | cons e es ih => exact ih (h.setEdges hk)

theorem Frame.execKturn (h : Frame k a s) (hk : k ≠ .home) {g : GArgs} : Answers (Frame k a) (execKturn g s) := by
  unfold Machine.execKturn
  split
  · exact answers_next.mpr h
  · split
    · exact answers_next.mpr h
    · extract_lets es full emits
      dsimp only
      split
      · exact answers_next.mpr h
      · split
        · exact answers_next.mpr h.grantCycle
        · split
          · exact answers_next.mpr h.grantCycle.commitEffect
          · exact answers_next.mpr (h.grantCycle.commitEffect.askTurn hk)

theorem Frame.setTask (h : Frame k a s) {c : Nat} {x : Task} : Frame k a (s.setTask c x) := h.fields

theorem Frame.modTask (h : Frame k a s) {c : Nat} {f : Task → Task} : Frame k a (s.modTask c f) := by
  unfold State.modTask
  split
  · exact h.setTask
  · exact h

theorem Frame.insertTask (h : Frame k a s) {c : Nat} {x : Task} : Frame k a (s.insertTask c x) := h.fields

theorem Frame.spawn (h : Frame k a s) {g : GArgs} {p : PlaneId} {i : Nat} {n : Node} {x : W64} {u : Task} {c : Nat} :
    Frame k a (s.spawn g p i n x u c) := by
  unfold State.spawn
  dsimp only
  split
  · exact h.insertTask.commitEffect.addRequests
  · exact h.insertTask.commitEffect

theorem Frame.execSpawn (h : Frame k a s) {g : GArgs} : Answers (Frame k a) (execSpawn g s) := by
  unfold Machine.execSpawn
  dsimp only
  split
  · exact answers_next.mpr h
  · split
    · exact answers_next.mpr h
    · split
      · exact answers_next.mpr h.grantCycle
      · split
        · exact answers_next.mpr h.grantCycle
        · split
          · exact answers_next.mpr h.grantCycle.commitEffect.addRequests
          · exact answers_next.mpr h.grantCycle.commitEffect
        · exact answers_next.mpr h.grantCycle.detectFault
        · exact answers_next.mpr h.grantCycle.spawn

theorem Frame.dropChildren (h : Frame k a s) {p : PlaneId} {serial : Nat} : Frame k a (s.dropChildren p serial) := h.modPlane.fields

theorem Frame.endPlane (h : Frame k a s) {p : PlaneId} {pl : Plane} : Frame k a (s.endPlane p pl) := by
  unfold State.endPlane
  dsimp only
  split
  · exact h.modPlane
  · exact h.modPlane.modTask.dropChildren

theorem Frame.execDone (h : Frame k a s) {g : GArgs} : Answers (Frame k a) (execDone g s) := by
  unfold Machine.execDone
  dsimp only
  split
  · exact answers_next.mpr h
  · split
    · exact answers_next.mpr h
    · split
      · exact answers_next.mpr h
      · split
        · exact answers_next.mpr h.grantCycle
        · split
          · exact answers_next.mpr h.grantCycle.commitEffect
          · exact answers_next.mpr h.grantCycle.commitEffect.endPlane

theorem Frame.execDrain (h : Frame k a s) {g : GArgs} : Answers (Frame k a) (execDrain g s) := by
  unfold Machine.execDrain
  split
  · exact answers_next.mpr h
  · split
    · exact answers_next.mpr h
    · exact h.fireOnce

/-! ## SYSWR -/

theorem writeCtx_trapen (s : State) (c : Nat) (v : W64) :
    s.writeCtx c 5 v = s.modCtx c fun x => { x with trapen := v.setWidth 8 &&& 0xDF#8 } := rfl

/-- Of the registers that a graph reaches it writes CTX_TRAPEN alone. -/
theorem Frame.graphWrite (h : Frame k a s) {c x : Nat} {v : W64} : Frame k a (s.graphWrite c x v) := by
  unfold State.graphWrite
  split
  · rw [writeCtx_trapen]
    exact h.modCtx
  · exact h

theorem Frame.execSyswr (h : Frame k a s) {g : GArgs} : Answers (Frame k a) (execSyswr g s) := by
  unfold Machine.execSyswr
  dsimp only
  split
  · next p i pl n s' hc hs =>
    have h' : Frame k a s' := h.fireOnce s' hs
    split
    · split
      · exact answers_next.mpr h'.graphWrite
      · exact answers_next.mpr h'
    · exact answers_next.mpr h'
  · exact h.fireOnce

/-! ## Matrix engines -/

theorem Frame.issueStep (h : Frame k a s) {p : PlaneId} {i : Nat} {pl : Plane} {n : Node} {e : Engine} {m : Mfe} {as bs : List Token} :
    Frame k a (issueStep s p i pl n e m as bs) := by
  unfold Machine.issueStep
  extract_lets es
  dsimp only
  split
  · exact h
  · split
    · exact h.grantCycle
    · split
      · exact h.grantCycle.admitMfe
      · split
        · exact h.grantCycle.admitMfe.detectFault
        · exact h.grantCycle.admitMfe.modPlane fun pl => pl.moveTokens_tileSpace ..

theorem Frame.fireEngine (h : Frame k a s) : Answers (Frame k a) (fireEngine s) := by
  unfold Machine.fireEngine
  dsimp only
  split
  · exact answers_next.mpr h
  · next p i pl n hc =>
    have hp := cursorNode_plane hc
    split
    · exact answers_next.mpr h
    · split
      · exact answers_next.mpr h
      · split
        · exact answers_next.mpr h
        · split
          · exact answers_next.mpr h
          · exact answers_next.mpr (h.setPlane hp (pl.moveTokens_tileSpace ..))
        · split
          · exact answers_next.mpr h
          · split
            · exact answers_next.mpr h.grantCycle
            · exact answers_next.mpr (h.grantCycle.modPlane fun pl => pl.moveTokens_tileSpace ..)
        · split
          · exact answers_next.mpr h.grantCycle
          · exact answers_next.mpr h.grantCycle.detectFault
        · exact answers_next.mpr h.issueStep

theorem Frame.fireReader (h : Frame k a s) : Answers (Frame k a) (fireReader s) := by
  unfold Machine.fireReader
  split
  · exact answers_next.mpr h
  · split
    · extract_lets target
      dsimp only
      split
      · exact answers_next.mpr h
      · split
        · exact answers_next.mpr h
        · split
          · exact answers_next.mpr h.grantCycle
          · exact answers_next.mpr (h.grantCycle.modPlane fun pl => Plane.emitAll_tileSpace ..)
    · exact answers_next.mpr h

theorem Frame.controlToken (h : Frame k a s) {p : PlaneId} {pl : Plane} {e : Engine} {m : Mfe} {j : Nat} {x : Node} {take : List Nat}
    {q : Queue} {f : Bool → Plane → Plane} (hp : s.plane? p = some pl) (hf : ∀ b pl, (f b pl).tileSpace = pl.tileSpace) :
    Frame k a (controlToken s p pl e m j x take q f) := by
  unfold Machine.controlToken
  split
  · exact h
  · exact h.setPlane hp
  · split
    · split
      · exact h
      · exact h.detectFault
    · exact h.setPlane hp (hf _ _)

theorem Frame.boundaryRead (h : Frame k a s) {p : PlaneId} {i : Nat} {pl : Plane} {e : Engine} {m : Mfe} {mk : Token}
    (hp : s.plane? p = some pl) : Frame k a (boundaryRead s p i pl e m mk) := by
  unfold Machine.boundaryRead
  dsimp only
  split
  · exact h
  · split
    · exact h.setPlane hp
    · split
      · exact h.setPlane hp
      · split
        · exact h
        · exact h.controlToken hp fun _ _ => rfl

theorem Frame.boundaryClear (h : Frame k a s) {p : PlaneId} {i : Nat} {pl : Plane} {e : Engine} {m : Mfe} {mk : Token}
    (hp : s.plane? p = some pl) : Frame k a (boundaryClear s p i pl e m mk) := by
  unfold Machine.boundaryClear
  dsimp only
  split
  · exact h.setPlane hp
  · split
    · exact h.setPlane hp
    · split
      · exact h
      · exact h.controlToken hp fun _ _ => rfl

theorem Frame.fireLoad (h : Frame k a s) : Answers (Frame k a) (fireLoad s) := by
  unfold Machine.fireLoad
  split
  · exact answers_next.mpr h
  · next p j pl n hc =>
    have hp := cursorNode_plane hc
    split
    · split
      · split
        · exact answers_next.mpr h
        · split
          · exact answers_next.mpr (h.setPlane hp).detectFault
          · exact answers_next.mpr (h.setPlane hp)
      · exact answers_next.mpr h
    · exact answers_next.mpr h

theorem Frame.fireClear (h : Frame k a s) : Answers (Frame k a) (fireClear s) := by
  unfold Machine.fireClear
  split
  · exact answers_next.mpr h
  · next p j pl n hc =>
    have hp := cursorNode_plane hc
    split
    · split
      · split
        · exact answers_next.mpr h
        · exact answers_next.mpr (h.boundaryClear hp)
      · exact answers_next.mpr h
    · exact answers_next.mpr h

theorem Frame.fireFeed (h : Frame k a s) : Answers (Frame k a) (fireFeed s) := by
  unfold Machine.fireFeed
  split
  · exact answers_next.mpr h
  · next p j pl n hc =>
    split
    · exact answers_next.mpr h
    · split
      · exact answers_next.mpr h
      · exact answers_next.mpr (h.setPlane (cursorNode_plane hc) (Plane.emitAll_tileSpace ..))

theorem Frame.fireScale (h : Frame k a s) : Answers (Frame k a) (fireScale s) := by
  unfold Machine.fireScale
  split
  · exact answers_next.mpr h
  · next p j pl n hc =>
    have hp := cursorNode_plane hc
    split
    · exact answers_next.mpr h
    · extract_lets held size ts
      split
      · exact answers_next.mpr h
      · split
        · exact answers_next.mpr (h.setPlane hp)
        · split
          · exact answers_next.mpr (h.setPlane hp)
          · split
            · exact answers_next.mpr h
            · exact answers_next.mpr (h.setPlane hp (Plane.emitAll_tileSpace ..))

theorem Frame.execMxtile (h : Frame k a s) {g : GArgs} : Answers (Frame k a) (execMxtile g s) := by
  unfold Machine.execMxtile
  split
  · split
    · exact h.fireReader
    · exact h.fireEngine
  · exact answers_next.mpr h

end Sys2Proof.Machine
end

