-- ==== Sys2Proof/Proofs/TileSpace.lean ====
section
/-! SUPPORT. What HOME_PERFORM may change: the bytes that its request stores, and in tile space those of the requests that it wakes. -/

namespace Sys2Proof.Machine

open Sys2Proof.Claims (storedBytes storesAt)
open Sys2Proof.Laws.Encodes (wordBytes_length)

variable {k : Reach} {a s t : State}

/-! ## An access at its home -/

theorem Memory.byte_writeWord_outside {m : Memory} (h : m.wf) (x n : Nat) (v : Option W64) {y : Nat} (hy : y < x ∨ x + n ≤ y) :
    (m.writeWord x n v).byte y = m.byte y := by
  cases v with
  | none => rfl
  | some v => exact Memory.byte_write_outside h x _ (by simpa [wordBytes_length] using hy)

theorem flatMap_wordBytes_length (ws : List W32) : (ws.flatMap fun w => wordBytes 4 w.toNat).length = 4 * ws.length := by
  induction ws with
  | nil => rfl
  | cons w rest ih => simp [wordBytes_length, ih]; omega

/-- A memory follows from another in canonical form, and no byte but those of a range differs. -/
def Memory.touchedIn (m m' : Memory) (x n : Nat) : Prop := m.wf → m'.wf ∧ ∀ y, ¬ (x ≤ y ∧ y < x + n) → m'.byte y = m.byte y

theorem Memory.touchedIn_refl {m : Memory} {x n : Nat} : m.touchedIn m x n := fun h => ⟨h, fun _ _ => rfl⟩

theorem Home.atomic_touches (h : Home) (loc : Nat) (op : AtomOp) (ty : Ty) (policy : BitVec 8) (b : W64) (c : Option W64) (returns : Bool) :
    h.mem.touchedIn (h.atomic loc op ty policy b c returns).1.mem loc (storedBytes (.atomic op ty b c returns)) := by
  unfold Home.atomic
  dsimp only
  split
  · exact Memory.touchedIn_refl
  · next hop =>
    split
    · exact Memory.touchedIn_refl
    · split
      · exact fun hw => ⟨Memory.wf_writePoison hw _ _, fun _ _ => rfl⟩
      · refine fun hw => ⟨Memory.wf_write hw _ _, fun y hy => Memory.byte_write_outside hw _ _ ?_⟩
        simp only [storedBytes, hop, if_false] at hy
        rw [wordBytes_length]
        omega

/-- An access at its home stores the bytes that it is said to store, and no other. -/
theorem Home.access_touches {h h' : Home} {policy : BitVec 8} {room loc : Nat} {acc : Access} {out : List (Nat × Token)} {flags : FpFlags}
    (e : h.access policy room loc acc = some (h', out, flags)) : h.mem.touchedIn h'.mem loc (storedBytes acc) := by
  have store (size : Nat) (v : Option W64) : h.mem.touchedIn (h.mem.writeWord loc size v) loc size := fun hw =>
    ⟨Memory.wf_writeWord hw _ _ _, fun y hy => Memory.byte_writeWord_outside hw _ _ _ (by omega)⟩
  unfold Home.access at e
  cases acc with
  | store size v ack => cases e; exact store size v
  | stfe size v force =>
    dsimp only at e
    split at e
    · cases e
    · cases e; exact store size v
  | atomic op ty b c returns =>
    injection e with e
    have eh : (h.atomic loc op ty policy b c returns).1 = h' := congrArg Prod.fst e
    exact eh ▸ h.atomic_touches loc op ty policy b c returns
  | beatWrite words pois =>
    cases e
    intro hw
    dsimp only [Home.engineFull, storedBytes]
    split
    · exact ⟨Memory.wf_writePoison hw _ _, fun _ _ => rfl⟩
    · refine ⟨Memory.wf_write hw _ _, fun y hy => Memory.byte_write_outside hw _ _ ?_⟩
      rw [flatMap_wordBytes_length]
      omega
  | ldfe ty size clr | push x =>
    dsimp only at e
    split at e <;> cases e
    exact Memory.touchedIn_refl
  | pop =>
    dsimp only at e
    split at e <;> cases e
    exact Memory.touchedIn_refl
  | _ => cases e; exact Memory.touchedIn_refl

/-! ## Tile space -/

/-- A plane after some of another plane's requests have performed in its memory tiles: no other byte has changed, and the requests that
remain have their accesses and places. -/
structure Plane.Tiled (src pl : Plane) : Prop where
  wf : src.sram.wf → pl.sram.wf
  byte : src.sram.wf → ∀ y, (∀ x ∈ src.reqs, ¬ storesAt x y) → pl.sram.byte y = src.sram.byte y
  reqs : ∀ x ∈ pl.reqs, ∃ y ∈ src.reqs, y.loc = x.loc ∧ y.acc = x.acc

variable {src pl : Plane}

theorem Plane.Tiled.refl : src.Tiled src := ⟨id, fun _ _ _ => rfl, fun x hx => ⟨x, hx, rfl, rfl⟩⟩

theorem Plane.mem_serve_reqs {r x : Request} {out : List (Nat × Token)} {flags : FpFlags} (h : x ∈ (pl.serve r out flags).reqs) :
    ∃ y ∈ pl.reqs, y.loc = x.loc ∧ y.acc = x.acc := by
  unfold Plane.serve at h
  dsimp only at h
  split at h
  · exact ⟨x, List.mem_of_mem_filter h, rfl, rfl⟩
  · obtain ⟨y, hy, rfl⟩ := List.mem_map.mp h
    refine ⟨y, hy, ?_⟩
    split <;> exact ⟨rfl, rfl⟩

@[simp] theorem Plane.serve_sram (pl : Plane) (r : Request) (out : List (Nat × Token)) (flags : FpFlags) :
    (pl.serve r out flags).sram = pl.sram := by
  unfold Plane.serve
  dsimp only
  split <;> rfl

theorem Plane.Tiled.tryTile (h : src.Tiled pl) {r : Request} (hr : ∃ y ∈ src.reqs, y.loc = r.loc ∧ y.acc = r.acc) {q : Plane}
    (e : pl.tryTile r = some q) : src.Tiled q := by
  obtain ⟨⟨h', out, flags⟩, ha, rfl⟩ := Option.map_eq_some_iff.mp e
  have touches := Home.access_touches ha
  obtain ⟨y, hy, hloc, hacc⟩ := hr
  refine ⟨fun hw => ?_, fun hw b hb => ?_, fun x hx => ?_⟩
  · rw [Plane.serve_sram]
    exact (touches (h.wf hw)).1
  · rw [Plane.serve_sram, ← h.byte hw b hb]
    refine (touches (h.wf hw)).2 b fun hin => hb y hy ?_
    rw [storesAt, hloc, hacc]
    exact hin
  · obtain ⟨z, hz, e1, e2⟩ := Plane.mem_serve_reqs hx
    obtain ⟨w, hw, e3, e4⟩ := h.reqs z hz
    exact ⟨w, hw, e3.trans e1, e4.trans e2⟩

theorem mem_insertBefore {α : Type} {le : α → α → Bool} {x y : α} {l : List α} (h : y ∈ insertBefore le x l) : y = x ∨ y ∈ l := by
  induction l with
  | nil => simpa [insertBefore] using h
  | cons z rest ih =>
    unfold insertBefore at h
    split at h
    · simpa using h
    · rcases List.mem_cons.mp h with rfl | h
      · simp
      · exact (ih h).imp_right (List.mem_cons_of_mem _)

theorem mem_of_mem_inOrder {α : Type} {le : α → α → Bool} {y : α} {l : List α} (h : y ∈ inOrder le l) : y ∈ l := by
  induction l with
  | nil => exact h
  | cons x rest ih => exact (mem_insertBefore h).elim (fun e => e ▸ List.mem_cons_self) fun h => List.mem_cons_of_mem _ (ih h)

theorem Plane.mem_of_mem_queueAt {loc : Nat} {x : Request} (h : x ∈ pl.queueAt loc) : x ∈ pl.reqs :=
  List.mem_of_mem_filter (mem_of_mem_inOrder h)

theorem Plane.Tiled.scanOnce : ∀ {rs : List Request} {pl : Plane}, src.Tiled pl →
    (∀ r ∈ rs, ∃ y ∈ src.reqs, y.loc = r.loc ∧ y.acc = r.acc) → src.Tiled (scanOnce rs pl)
  | [], _, h, _ => h
  | r :: rest, pl, h, hrs => by
    unfold Machine.scanOnce
    refine Plane.Tiled.scanOnce ?_ fun x hx => hrs x (List.mem_cons_of_mem _ hx)
    cases e : pl.tryTile r with
    | none => exact h
    | some q => exact h.tryTile (hrs r List.mem_cons_self) e

theorem Plane.Tiled.scan {loc : Nat} : ∀ {n : Nat} {pl : Plane}, src.Tiled pl → src.Tiled (pl.scan loc n)
  | 0, _, h => h
  | n + 1, pl, h => by
    have h' : src.Tiled (Machine.scanOnce (pl.queueAt loc) pl) := h.scanOnce fun r hr => h.reqs r (Plane.mem_of_mem_queueAt hr)
    unfold Plane.scan
    dsimp only
    split
    · exact h'
    · exact h'.scan

theorem Plane.Tiled.scans {gs : List Nat} {pl : Plane} (h : src.Tiled pl) :
    src.Tiled (gs.foldl (fun pl g => pl.scan (16 * g) (pl.reqs.length + 1)) pl) := by
  induction gs generalizing pl with
  | nil => exact h
  | cons g rest ih => exact ih h.scan

theorem Plane.Tiled.settle {before : Plane} (h : src.Tiled pl) {loc size : Nat} : src.Tiled (before.settle pl loc size) := by
  unfold Plane.settle
  split
  · exact h
  · exact h.scans

/-- An engine's write, and the requests that it wakes, keep a memory in canonical form. -/
theorem Plane.engineWrite_wf {loc size : Nat} {f : Memory → Memory} (h : (f pl.sram).wf) : (pl.engineWrite loc size f).sram.wf :=
  Plane.Tiled.wf (.scans .refl) h

end Sys2Proof.Machine
end

