-- ==== Sys2Proof/Proofs/HomeFrames.lean ====
section
/-! SUPPORT. A request performs at its home: what it leaves as it was. -/

namespace Sys2Proof.Machine

open Sys2Proof.Claims (storedBytes storesAt)

variable {k : Reach} {a s t : State}

/-! ## What stores nothing -/

theorem Frame.cached (h : Frame k a s) (hk : k ≠ .node) (e : s.cached t) : Frame k a t := by
  unfold State.cached at e
  rw [e]
  exact (h.setSlots hk (l := t.slotsHbm) (l' := t.slotsLp)).fields

theorem Frame.waitSlot (h : Frame k a s) {who : SlotWaiter} {lines : List Nat} : Frame k a (s.waitSlot who lines) := by
  induction lines generalizing s with
  | nil => exact h
  | cons l rest ih =>
    unfold State.waitSlot
    dsimp only
    split
    · exact ih h
    · exact ih h.fields

theorem Frame.parkNow (h : Frame k a s) {p : PlaneId} {r : Request} : Frame k a (s.parkNow p r) := h.fields.modPlane

theorem Frame.park (h : Frame k a s) {p : PlaneId} {pl : Plane} {r : Request} : Frame k a (s.park p pl r) := by
  unfold State.park
  split
  · exact h.modPlane
  · exact h.parkNow

theorem Frame.awaitTurn (h : Frame k a s) {p : PlaneId} {pl : Plane} {r : Request} : Frame k a (s.awaitTurn p pl r) := by
  unfold State.awaitTurn
  split
  · exact h
  · split
    · exact h.parkNow
    · exact h.modPlane

theorem Frame.serveWith (h : Frame k a s) {p : PlaneId} {r : Request} {out : List (Nat × Token)} {flags : FpFlags} :
    Frame k a (s.serveWith p r out flags) := h.modPlane fun pl => pl.serve_tileSpace r out flags

theorem Frame.performLine (h : Frame k a s) {p : PlaneId} {r : Request} {m : Memory} : Frame k a (s.performLine p r m) := by
  unfold State.performLine
  split
  · exact h.modPlane.detectFault
  · dsimp only
    split
    · exact h.serveWith.modPlane
    · exact h.serveWith

theorem Frame.performBin (h : Frame k a s) {p : PlaneId} {pl : Plane} {r : Request} {bin op : Nat} {ty : Ty} {v : Option W64} :
    Frame k a (s.performBin p pl r bin op ty v) := by
  unfold State.performBin
  dsimp only
  split
  · exact h.park
  · exact Frame.serveWith h.fields

theorem Frame.holdCopy (h : Frame k a s) {c : HostCopy} : Frame k a (s.holdCopy c) := h.fields

theorem Frame.hostLoad (h : Frame k a s) {md loc size : Nat} {device : Bool} : Frame k a (s.hostLoad md loc size device).2 := by
  unfold State.hostLoad
  split
  · exact h
  · dsimp only
    split
    · exact h.holdCopy
    · exact h

theorem Frame.tlbFill (h : Frame k a s) {md asid va : Nat} {l : Leaf} {cluster : Option Nat} : Frame k a (s.tlbFill md asid va l cluster) :=
  h.fields

theorem Frame.leafOf (h : Frame k a s) {md ctx va : Nat} {cluster : Option Nat} : Frame k a (s.leafOf md ctx va cluster).2 := by
  unfold State.leafOf
  split
  · exact h
  · split
    · exact h.tlbFill
    · exact h

theorem Frame.bringLine (h : Frame k a s) (hk : k ≠ .node) {who : SlotWaiter} {space ctx md : Nat} {cluster : Option Nat} {va : W64} :
    Frame k a (s.bringLine who space ctx md cluster va).1 := by
  have hl : Frame k a (s.leafOf md ctx va.toNat cluster).2 := h.leafOf
  unfold State.bringLine
  split
  · exact h
  · generalize hx : s.leafOf md ctx va.toNat cluster = x at hl
    obtain ⟨_ | l, s1⟩ := x
    · exact hl
    · dsimp only
      split
      · exact hl
      · split
        · split
          · exact Frame.holdCopy hl
          · exact hl
        · split
          · next hc => exact Frame.cached hl hk (State.cacheLine_cached hc)
          · exact Frame.waitSlot hl

theorem Frame.bringLines (h : Frame k a s) (hk : k ≠ .node) {who : SlotWaiter} {space ctx md n : Nat} {va : W64} :
    Frame k a (s.bringLines who space ctx md va n).1 := by
  induction n generalizing s va with
  | zero => exact h
  | succ n ih =>
    have hb := h.bringLine hk (who := who) (space := space) (ctx := ctx) (md := md) (cluster := none) (va := va)
    unfold State.bringLines
    generalize s.bringLine who space ctx md none va = x at hb
    obtain ⟨s1, _ | _⟩ := x
    · exact hb
    · exact ih hb

theorem Frame.sendHeld (h : Frame k a s) {p : PlaneId} {pl : Plane} {r : Request} : Frame k a (s.sendHeld p pl r) := by
  unfold State.sendHeld
  split
  · exact h
  · exact (Frame.modPlane h).sendPeer

/-! ## What a request stores -/

/-- What the access of a request of a plane leaves: every byte that the request, or in tile space one of the plane, does not store, the
registers, the firmware, the edges and the clock. -/
structure Performs (p : PlaneId) (pl : Plane) (r : Request) (s t : State) : Prop where
  wf : s.memoriesWf → t.memoriesWf
  dram : s.memoriesWf → ∀ b, ¬ ((r.space = 2 ∨ r.space = 3) ∧ storesAt r b) → t.dram.byte b = s.dram.byte b
  store : s.memoriesWf → ∀ b, ¬ (r.space = 1 ∧ storesAt r b) → t.store.byte b = s.store.byte b
  host : s.memoriesWf → ∀ b, (r.space ≤ 3 ∨ ¬ storesAt r b) → t.host.byte b = s.host.byte b
  planes : s.memoriesWf → ∀ q ql, s.plane? q = some ql → ∃ qr, t.plane? q = some qr ∧
    ∀ b, ¬ (q = p ∧ r.space = 0 ∧ ∃ x ∈ pl.reqs, storesAt x b) → qr.sram.byte b = ql.sram.byte b
  others : t.regs = s.regs ∧ t.firmware = s.firmware ∧ t.edges = s.edges ∧ t.cycle = s.cycle

variable {p : PlaneId} {pl : Plane} {r : Request}

theorem Frame.performs (h : Frame .home s t) : Performs p pl r s t where
  wf := h.wf
  dram _ b _ := by rw [(h.memory (by decide)).1]
  store _ b _ := by rw [(h.memory (by decide)).2]
  host _ b _ := by rw [(h.outside rfl).1]
  planes _ q ql hq := by
    obtain ⟨qr, hr, e⟩ := h.planes (by decide) q ql hq
    exact ⟨qr, hr, fun b _ => by rw [show qr.sram = ql.sram from congrArg Prod.fst e]⟩
  others := by
    obtain ⟨_, hregs, hedges⟩ := h.outside rfl
    obtain ⟨hcycle, hfw, _⟩ := h.device (by decide)
    exact ⟨hregs, hfw, hedges, hcycle⟩

theorem Performs.trans {u : State} (h : Performs p pl r s t) (h' : Performs p pl r t u) : Performs p pl r s u where
  wf w := h'.wf (h.wf w)
  dram w b hb := (h'.dram (h.wf w) b hb).trans (h.dram w b hb)
  store w b hb := (h'.store (h.wf w) b hb).trans (h.store w b hb)
  host w b hb := (h'.host (h.wf w) b hb).trans (h.host w b hb)
  planes w q ql hq := by
    obtain ⟨qm, hm, em⟩ := h.planes w q ql hq
    obtain ⟨qr, hr, er⟩ := h'.planes (h.wf w) q qm hm
    exact ⟨qr, hr, fun b hb => (er b hb).trans (em b hb)⟩
  others := by
    obtain ⟨h1, h2, h3, h4⟩ := h.others
    obtain ⟨g1, g2, g3, g4⟩ := h'.others
    exact ⟨g1.trans h1, g2.trans h2, g3.trans h3, g4.trans h4⟩

/-- In tile space, an access performs and wakes the requests of its granules. -/
theorem performs_tile {q : Plane} (hp : s.plane? p = some pl) (h0 : r.space = 0) (hq : pl.Tiled q) :
    Performs p pl r s (s.setPlane p q) where
  wf w := memoriesWf_modPlane w fun x hx hw => by
    rw [hp] at hx
    cases hx
    exact hq.wf hw
  dram _ b _ := by simp
  store _ b _ := by simp
  host _ b _ := by simp
  planes w x ql hx := by
    by_cases e : x = p
    · subst e
      rw [hp] at hx
      cases hx
      refine ⟨q, by simp [hp], fun b hb => hq.byte (sram_wf_of_plane? w hp) b fun y hy hs => hb ⟨rfl, h0, y, hy, hs⟩⟩
    · exact ⟨ql, by simp [e, hx], fun _ _ => rfl⟩
  others := by simp

/-- An access outside tile space stores the bytes that it is said to store. -/
theorem accessAt_touches {space loc size : Nat} {policy : BitVec 8} {acc : Access} {m : Memory} {out : List (Nat × Token)}
    {flags : FpFlags} (e : s.accessAt p space policy loc size acc = some (m, out, flags)) :
    (s.memOf p space).touchedIn m loc (storedBytes acc) := by
  unfold State.accessAt at e
  dsimp only at e
  split at e
  · obtain ⟨⟨h', out', flags'⟩, ha, he⟩ := Option.map_eq_some_iff.mp e
    cases he
    exact Home.access_touches ha
  · generalize hv : (if space = 4 then hostView (s.memOf p space) loc size else s.memOf p space) = view at e
    obtain ⟨⟨h', out', flags'⟩, ha, he⟩ := Option.map_eq_some_iff.mp e
    dsimp only at he
    by_cases hm : view = s.memOf p space
    · rw [if_pos hm] at he
      cases he
      exact hm ▸ Home.access_touches ha
    · rw [if_neg hm] at he
      cases he
      exact Memory.touchedIn_refl

theorem performs_setMem {m : Memory} (h0 : r.space ≠ 0) (e : (s.memOf p r.space).touchedIn m r.loc (storedBytes r.acc)) :
    Performs p pl r s (s.setMem p r.space m) := by
  obtain hs | hs | ⟨n, hs⟩ : r.space = 1 ∨ (r.space = 2 ∨ r.space = 3) ∨ ∃ n, r.space = n + 4 := by
    have : r.space - 4 + 4 = r.space ∨ r.space < 4 := by omega
    rcases this with e | e
    · exact .inr (.inr ⟨_, e.symm⟩)
    · omega
  · have hm : s.memOf p r.space = s.store := by rw [hs]; rfl
    have ht : s.setMem p r.space m = { s with store := m } := by rw [hs]; rfl
    rw [hm] at e
    rw [ht]
    exact { wf := fun ⟨hd, hh, hst, hrest⟩ => ⟨hd, hh, (e hst).1, hrest⟩
            dram := fun _ _ _ => rfl
            store := fun w b hb => (e w.2.2.1).2 b fun h => hb ⟨hs, h⟩
            host := fun _ _ _ => rfl
            planes := fun _ q ql hq => ⟨ql, hq, fun _ _ => rfl⟩
            others := ⟨rfl, rfl, rfl, rfl⟩ }
  · have hm : s.memOf p r.space = s.dram := by rcases hs with hs | hs <;> rw [hs] <;> rfl
    have ht : s.setMem p r.space m = { s with dram := m } := by rcases hs with hs | hs <;> rw [hs] <;> rfl
    rw [hm] at e
    rw [ht]
    exact { wf := fun ⟨hd, hrest⟩ => ⟨(e hd).1, hrest⟩
            dram := fun w b hb => (e w.1).2 b fun h => hb ⟨hs, h⟩
            store := fun _ _ _ => rfl
            host := fun _ _ _ => rfl
            planes := fun _ q ql hq => ⟨ql, hq, fun _ _ => rfl⟩
            others := ⟨rfl, rfl, rfl, rfl⟩ }
  · have hm : s.memOf p r.space = s.host := by rw [hs]; rfl
    have ht : s.setMem p r.space m = { s with host := m } := by rw [hs]; rfl
    rw [hm] at e
    rw [ht]
    exact { wf := fun ⟨hd, hh, hrest⟩ => ⟨hd, (e hh).1, hrest⟩
            dram := fun _ _ _ => rfl
            store := fun _ _ _ => rfl
            host := fun w b hb => (e w.2.1).2 b (hb.resolve_left (by omega))
            planes := fun _ q ql hq => ⟨ql, hq, fun _ _ => rfl⟩
            others := ⟨rfl, rfl, rfl, rfl⟩ }

/-- The accesses that may store: those that perform by Home.access, in tile space or at a memory outside it. -/
def State.performStore (s : State) (p : PlaneId) (pl : Plane) (r : Request) : State :=
  if r.space = 0 then
    match pl.tryTile r with
    | none => s.park p pl r
    | some pl' => s.setPlane p (pl.settle pl' r.loc r.size)
  else
    match s.accessAt p r.space (pl.policyOf r.who) r.loc r.size r.acc with
    | none => s
    | some (m, out, flags) =>
      let s := s.setMem p r.space m
      let s := if r.space = 4 then s.hostWritten (some r.md) (hostLine r.loc) else s
      s.serveWith p r out flags

theorem performs_store (hp : s.plane? p = some pl) (hr : r ∈ pl.reqs) : Performs p pl r s (s.performStore p pl r) := by
  unfold State.performStore
  split
  · next h0 =>
    split
    · exact Frame.refl.park.performs
    · next q hq => exact performs_tile hp h0 ((Plane.Tiled.refl.tryTile ⟨r, hr, rfl, rfl⟩ hq).settle)
  · next h0 =>
    split
    · exact Frame.refl.performs
    · next m out flags ha =>
      refine (performs_setMem h0 (accessAt_touches ha)).trans (Frame.performs ?_)
      dsimp only
      split
      · exact Frame.refl.hostWritten.serveWith
      · exact Frame.refl.serveWith

theorem performs_request (hp : s.plane? p = some pl) (hr : r ∈ pl.reqs) : Performs p pl r s (s.performRequest p pl r) := by
  have hstore := performs_store hp hr
  have hbring := Frame.refl (k := .home) (s := s) |>.bringLines (by decide) (who := .request p r.id) (space := r.space) (ctx := pl.ctx)
    (md := r.md) (va := r.addr) (n := r.size / 128)
  unfold State.performStore at hstore
  unfold State.performRequest
  generalize hacc : r.acc = acc at hstore
  cases acc with
  | fence sc | pass o | close m o | ending o | child o => exact Frame.refl.serveWith.performs
  | bring =>
    dsimp only
    generalize s.bringLines (.request p r.id) r.space pl.ctx r.md r.addr (r.size / 128) = x at hbring
    obtain ⟨s1, _ | _⟩ := x
    · exact hbring.performs
    · exact hbring.serveWith.performs
  | rangeInit range lo hi | rangePull range chunk ty =>
    dsimp only
    split
    · exact Frame.refl.performs
    · exact (Frame.refl.modPlane.serveWith).performs
  | binAppend bin op ty v chan => exact Frame.refl.performBin.performs
  | line chan =>
    dsimp only
    split
    · exact Frame.refl.hostLoad.performLine.performs
    · exact Frame.refl.performLine.performs
  | load ty size acq =>
    dsimp only
    split
    · exact Frame.refl.hostLoad.serveWith.performs
    · split <;> exact Frame.refl.serveWith.performs
  | _ => exact hstore

/-- HOME_PERFORM of a plane's request changes no byte but those that it stores, and in tile space those of the requests that it wakes. -/
theorem performs_homePerform (hx : s.arg.other ≠ 1) (hp : s.plane? s.arg.plane = some pl)
    (hr : pl.reqs.find? (fun r => r.id = s.arg.index) = some r) : Answers (Performs s.arg.plane pl r s) (execHomePerform s) := by
  unfold execHomePerform
  simp only [hx, if_false, hp, hr]
  split
  · exact answers_next.mpr Frame.refl.performs
  · split
    · exact answers_next.mpr Frame.refl.sendHeld.performs
    · split
      · exact answers_next.mpr Frame.refl.awaitTurn.performs
      · split
        · exact answers_next.mpr Frame.refl.waitSlot.performs
        · next s1 hs =>
          have hc := State.cacheLines_cached hs
          have hp' : s1.plane? s.arg.plane = some pl := by
            unfold State.cached at hc
            rw [hc]
            exact hp
          exact answers_next.mpr ((Frame.refl.cached (by decide) hc).performs.trans
            (performs_request hp' (List.mem_of_find?_eq_some hr)))

end Sys2Proof.Machine

namespace Sys2Proof.Proofs

open Sys2Proof.Machine

/-- Settles O7: each way in which a request performs is a frame, but for an access that stores, which touches its own bytes. -/
theorem homeFrames : Obligations.HomeFrames := by
  intro s t pl r hx hp hr hw ht
  have h := performs_homePerform hx hp hr t ht
  exact ⟨h.dram hw, h.store hw, h.host hw, h.planes hw, h.others⟩

end Sys2Proof.Proofs
end

