-- ==== Sys2Proof/Proofs/ReachHomes.lean ====
section
/-! SUPPORT. What the device's own steps reach, for the canonical form of the memories: homes, copies, replies, walks, timers, the
Flithe ports. -/

namespace Sys2Proof.Machine

variable {a s t : State}

/-! ## Steps without bounds -/

theorem Frame.anyFields (h : Frame .any a s) {cycle timeRem nextId fresh : Nat} {regs : Regs} {ctxs : Map Ctx} {firmware : Firmware}
    {tileGov : Map Tile} {copies : List HostCopy} {tlbs : List (Nat × TlbEntry)} {walks : List Walk} {slotsHbm slotsLp : List Nat}
    {caches : Map (List CacheLine)} {slotQueues : Map (List SlotWaiter)} {ports : Map (List Copy)} {tack : Map TackEntry}
    {plans : List (PlanKey × Plan)} {tasks : Map Task} {waiting : List Task} {edges : Map Edge} {flithe : Map FlithePort}
    {link : Option HostLink} {sent : List Sent} {arg : Stimulus} {cursor : Cursor} {agenda : List Agenda} :
    Frame .any a { s with cycle, timeRem, regs, ctxs, firmware, tileGov, copies, tlbs, walks, slotsHbm, slotsLp, caches, slotQueues, ports,
                          tack, plans, tasks, waiting, edges, flithe, link, sent, nextId, fresh, arg, cursor, agenda } :=
  h.any_of id

theorem Frame.putPlane (h : Frame .any a s) {p : PlaneId} {x : Plane} (hx : s.memoriesWf → x.sram.wf) : Frame .any a (s.setPlane p x) :=
  h.any_of fun w => memoriesWf_modPlane w fun _ _ _ => hx w

theorem Frame.putSave (h : Frame .any a s) {c : Nat} {x : Saved} (hx : s.memoriesWf → x.plane.sram.wf) :
    Frame .any a { s with saves := mapSet s.saves c x } :=
  h.any_of fun w => ⟨w.1, w.2.1, w.2.2.1, w.2.2.2.1, fun y hy => (mem_mapSet hy).elim (w.2.2.2.2 y) fun e => e ▸ hx w⟩

theorem Frame.putHost (h : Frame .any a s) {m : Memory} (hm : s.host.wf → m.wf) : Frame .any a { s with host := m } :=
  h.setHost (by decide) hm

theorem Frame.cachedAny (h : Frame .any a s) (e : s.cached t) : Frame .any a t := h.cached (by decide) e

/-- A memory is set at a space of a plane. -/
theorem Frame.setMem (h : Frame .any a s) {p : PlaneId} {space : Nat} {m : Memory} (hm : (s.memOf p space).wf → m.wf) :
    Frame .any a (s.setMem p space m) := by
  unfold State.setMem
  unfold State.memOf at hm
  split at hm
  · refine h.any_of fun w => memoriesWf_modPlane w fun pl hp hs => ?_
    rw [hp] at hm
    exact hm hs
  · exact h.setStore hm
  · exact h.setDram hm
  · exact h.setDram hm
  · exact h.putHost hm

theorem Plane.foldl_tileSpace {β : Type} {f : Plane → β → Plane} (hf : ∀ pl x, (f pl x).tileSpace = pl.tileSpace) (l : List β) (pl : Plane) :
    (l.foldl f pl).tileSpace = pl.tileSpace := by
  induction l generalizing pl with
  | nil => rfl
  | cons x xs ih => exact (ih _).trans (hf pl x)

/-! ## Copies -/

theorem putWords_wf {m : Memory} (h : m.wf) : ∀ {loc : Nat} {ws : List (Option W32)}, (putWords loc ws m).wf
  | _, [] => h
  | _, _ :: _ => putWords_wf (Memory.wf_writeWord h _ _ _)

theorem Frame.copyWords {c : Copy} {kind : Nat} {pieces : List (Nat × Nat)} {ws : List (Option W32)} :
    ∀ {off : Nat} {s : State}, Frame .any a s → Frame .any a (s.copyWords c kind pieces off ws) := by
  induction ws with
  | nil => exact fun h => h
  | cons w rest ih =>
    intro off s h
    have hset : Frame .any a (s.setMem c.plane kind (putWord (placeOf pieces off) w (s.memOf c.plane kind))) :=
      h.setMem fun hw => Memory.wf_writeWord hw _ _ _
    unfold State.copyWords
    dsimp only
    split
    · exact ih hset.hostWritten
    · exact ih hset

theorem Frame.copyWrite (h : Frame .any a s) {c : Copy} {kind off : Nat} {pieces : List (Nat × Nat)} {ws : List (Option W32)} :
    Frame .any a (s.copyWrite c kind pieces off ws) := by
  unfold State.copyWrite
  split
  · exact h.modPlane_any fun pl hw => Plane.engineWrite_wf (putWords_wf hw)
  · exact h.copyWords

theorem Plane.arrive_wf {pl : Plane} {loc st : Nat} (h : pl.sram.wf) : (pl.arrive loc st).sram.wf := by
  have put (c u : Nat) : ((pl.sram.write loc (wordBytes 4 c)).write (loc + 4) (wordBytes 4 u)).wf :=
    Memory.wf_write (Memory.wf_write h _ _) _ _
  have settled (before after : Plane) (hw : after.sram.wf) : (before.settle after loc 1).sram.wf := Plane.Tiled.refl.settle.wf hw
  unfold Plane.arrive
  dsimp only
  split
  · exact settled _ _ (put _ _)
  · split
    · exact settled _ _ (put _ _)
    · split
      · exact settled _ _ (put _ _)
      · exact put _ _

theorem Frame.setHead (h : Frame .any a s) {key : Nat} {c : Copy} : Frame .any a (s.setHead key c) := h.fields

theorem Frame.copyPeer (h : Frame .any a s) {key : Nat} {c : Copy} {acc : Access} {va : W64} {size : Nat} :
    Frame .any a (s.copyPeer key c acc va size) := by
  unfold State.copyPeer
  split
  · exact h
  · exact (Frame.modPlane (Frame.fields h)).sendPeer.setHead

theorem Frame.copyEmit (h : Frame .any a s) {c : Copy} {es : List (Nat × Token)} (e : s.copyEmit c es = some t) : Frame .any a t := by
  unfold State.copyEmit at e
  split at e
  · cases e; exact h
  · next pl hp =>
    split at e
    · cases e; exact h
    · next n hn =>
      split at e
      · cases e; exact h
      · split at e <;> cases e
        exact h.setPlane hp (Plane.emitAll_tileSpace n es pl)

theorem Frame.hostFresh (h : Frame .any a s) {md loc size : Nat} {device : Bool} : Frame .any a (s.hostFresh md loc size device).2 := by
  unfold State.hostFresh
  dsimp only
  split
  · exact h.holdCopy
  · exact h

theorem Frame.copyRead (h : Frame .any a s) {key : Nat} {c : Copy} : Frame .any a (s.copyRead key c) := by
  unfold State.copyRead
  dsimp only
  split
  · split
    · exact h
    · exact h.copyPeer
  · split
    · exact h.waitSlot
    · next s1 hs =>
      have h1 := h.cachedAny (State.cacheLines_cached hs)
      split
      · exact h1.hostFresh.setHead
      · exact h1.setHead

theorem Frame.copyMake (h : Frame .any a s) {key : Nat} {c : Copy} {ws : List (Option W32)} : Frame .any a (s.copyMake key c ws) := by
  unfold State.copyMake
  dsimp only
  split
  · split
    · exact h.setHead
    · split
      · next he => exact (h.copyEmit he).setHead
      · exact h
  · split
    · split
      · exact h.setHead
      · split
        · exact h
        · exact h.copyPeer
    · split
      · exact h.setHead
      · split
        · exact h.waitSlot
        · next hs => exact (h.cachedAny (State.cacheLines_cached hs)).copyWrite.setHead

theorem Frame.copyEnd (h : Frame .any a s) {key : Nat} {c : Copy} : Frame .any a (s.copyEnd key c) := by
  unfold State.copyEnd
  split
  · exact (h.modPlane_any fun pl hw => Plane.arrive_wf hw).setHead
  · extract_lets out
    split
    · next he => exact Frame.fields (h.copyEmit he)
    · exact h

theorem Frame.runCopy (h : Frame .any a s) {key : Nat} {c : Copy} : Frame .any a (s.runCopy key c) := by
  unfold State.runCopy
  split
  · split
    · exact h.copyRead
    · exact h.copyMake
  · exact h.copyEnd

theorem copyRun_reach : Answers (Frame .any s) (execCopyRun s) := by
  unfold execCopyRun
  dsimp only
  split
  · exact answers_next.mpr .refl
  · exact answers_next.mpr Frame.refl.runCopy

theorem Frame.leaveSlots (h : Frame .any a s) {who : SlotWaiter} : Frame .any a (s.leaveSlots who) := h.fields

theorem Frame.stopCopy (h : Frame .any a s) {key cause : Nat} {c : Copy} : Frame .any a (s.stopCopy key c cause) :=
  (h.leaveSlots.modPlane fun pl => by cases c.peer <;> rfl).setHead.detectFault

theorem copyTimeout_reach : Answers (Frame .any s) (execCopyTimeout s) := by
  unfold execCopyTimeout
  dsimp only
  split
  · split
    · exact answers_next.mpr .refl
    · split
      · split
        · exact answers_next.mpr .refl
        · exact answers_next.mpr Frame.refl.modPlane.detectFault
      · exact answers_next.mpr .refl
  · split
    · exact answers_next.mpr .refl
    · split
      · exact answers_next.mpr .refl
      · exact answers_next.mpr Frame.refl.stopCopy

theorem slotReturn_reach : Answers (Frame .any s) (execSlotReturn s) := by
  unfold execSlotReturn
  dsimp only
  split
  · exact answers_next.mpr .refl
  · next pl hp =>
    split
    · exact answers_next.mpr .refl
    · split
      · split
        split
        · exact answers_next.mpr .refl
        · exact answers_next.mpr (Frame.refl.setPlane hp)
        · exact answers_next.mpr .refl
      · exact answers_next.mpr .refl

/-! ## Homes and replies -/

theorem Frame.setSlotsAny (h : Frame .any a s) {lp : Bool} {md n : Nat} : Frame .any a (s.setSlots lp md n) := by
  unfold State.setSlots
  split <;> exact h.anyFields

theorem requestSlotFree_reach : Answers (Frame .any s) (execRequestSlotFree s) := answers_next.mpr Frame.refl.setSlotsAny

theorem Plane.emitReply_tileSpace (pl : Plane) (i : Nat) (n : Node) (r : Request) (g : List (Nat × Token)) :
    (pl.emitReply i n r g).tileSpace = pl.tileSpace := Plane.emitAll_tileSpace n _ _

theorem Plane.advanceReply_tileSpace (pl : Plane) (r : Request) (rest : List (Nat × Token)) :
    (pl.advanceReply r rest).tileSpace = pl.tileSpace := by
  unfold Plane.advanceReply
  split <;> rfl

theorem memoryReply_reach : Answers (Frame .any s) (execMemoryReply s) := by
  unfold execMemoryReply
  extract_lets x
  split
  · exact answers_next.mpr .refl
  · next pl hp =>
    have reply {q : Plane} {r : Request} {rest : List (Nat × Token)} (hq : q.tileSpace = pl.tileSpace) :
        Frame .any s (s.setPlane s.arg.plane { q.advanceReply r rest with active := true }) :=
      Frame.refl.setPlane hp ((Plane.advanceReply_tileSpace q r rest).trans hq)
    split
    · exact answers_next.mpr .refl
    · next r hr =>
      extract_lets ready moving
      split
      · exact answers_next.mpr .refl
      · dsimp only
        split
        · split
          · exact answers_next.mpr .refl
          · split
            · exact answers_next.mpr .refl
            · have h := reply (r := r) (rest := (replyGroup r.replies).2)
                (Plane.emitReply_tileSpace pl ‹Nat› ‹Node› r (replyGroup r.replies).1)
              split
              · exact answers_next.mpr (Frame.fields h)
              · exact answers_next.mpr h
        · refine answers_next.mpr (reply ?_)
          split
          · exact Plane.foldl_tileSpace (fun (q : Plane) (e : Nat × Token) => Plane.sendTask_tileSpace q _ e.1 e.2) _ pl
          · rfl

theorem roundMarkerArrival_reach : Answers (Frame .any s) (execRoundMarkerArrival s) := by
  unfold execRoundMarkerArrival
  extract_lets x
  split
  · exact answers_next.mpr .refl
  · next pl hp =>
    split
    · exact answers_next.mpr .refl
    · split
      · extract_lets bins key t
        split
        · exact answers_next.mpr .refl
        · split
          · exact answers_next.mpr .refl
          · split
            · exact answers_next.mpr .refl
            · split
              · exact answers_next.mpr Frame.refl.detectFault
              · split
                · exact answers_next.mpr (Frame.modCtx (Frame.refl.setPlane hp))
                · exact answers_next.mpr (Frame.refl.setPlane hp)
      · exact answers_next.mpr .refl

/-! ## Walks -/

theorem Plane.uncharge_tileSpace (pl : Plane) (who : Asker) : (pl.uncharge who).tileSpace = pl.tileSpace := by cases who <;> rfl
theorem Plane.goesOn_tileSpace (pl : Plane) (who : Asker) : (pl.goesOn who).tileSpace = pl.tileSpace := by cases who <;> rfl

theorem Frame.walkFault (h : Frame .any a s) {w : Walk} {cause : Nat} {md : Option Nat} : Frame .any a (s.walkFault w cause md) := by
  unfold State.walkFault
  split
  · exact h
  · dsimp only
    split
    · exact (h.modPlane fun pl => pl.uncharge_tileSpace _).detectFault
    · exact h.detectFault

theorem Frame.walkGoesOn (h : Frame .any a s) {w : Walk} : Frame .any a (s.walkGoesOn w) := by
  unfold State.walkGoesOn
  split
  · split
    · exact h
    · next hp =>
      split
      · exact h.setPlane hp (Plane.goesOn_tileSpace _ _)
      · exact h
  · exact h

theorem Frame.walkFills (h : Frame .any a s) {w : Walk} {ws : List Walk} {l : Leaf} : Frame .any a (s.walkFills w ws l) := by
  unfold State.walkFills
  refine Frame.foldl (Frame.foldl h fun s x h => ?_) fun s x h => h.tlbFill
  split
  · split
    · exact h
    · exact h.fields
  · exact h

theorem Frame.endWalk (h : Frame .any a s) {w : Walk} {r : Except Nat Leaf} : Frame .any a (s.endWalk w r) := by
  have hfold : Frame .any a ((s.walks.filter w.shares).foldl (fun s x => match x.fault r with
      | some c => s.walkFault x c (some x.md) | none => s.walkGoesOn x) { s with walks := s.walks.filter fun x => !w.shares x }) := by
    refine Frame.foldl h.fields fun s x h => ?_
    split
    · exact h.walkFault
    · exact h.walkGoesOn
  unfold State.endWalk
  cases r with
  | error c => exact hfold
  | ok l =>
    dsimp only
    split
    · exact hfold
    · exact hfold.walkFills

theorem Frame.walkMeets (h : Frame .any a s) {w : Walk} {x : Nat × Nat} : Frame .any a (s.walkMeets w x) := h.fields

theorem Frame.stepWalk (h : Frame .any a s) {w : Walk} : Frame .any a (s.stepWalk w) := by
  unfold State.stepWalk
  dsimp only
  split
  · split
    · exact h
    · split
      · exact h.endWalk
      · exact h.walkMeets
  · split
    · exact h.endWalk
    · split
      · exact h.waitSlot
      · next hs =>
        have h1 := h.cachedAny (State.cacheLine_cached hs)
        split
        · exact h1.endWalk
        · split
          · exact h1.endWalk
          · exact h1.endWalk
          · exact h1.walkMeets

theorem Frame.copyLeaf (h : Frame .any a s) {index cluster : Nat} : Frame .any a (s.copyLeaf index cluster) := by
  unfold State.copyLeaf
  split
  · split
    · exact h.fields
    · exact h
  · exact h

theorem Frame.readAhead (h : Frame .any a s) {p : PlaneId} {i n : Nat} : Frame .any a (s.readAhead p i n) := by
  unfold State.readAhead
  split
  · exact h
  · extract_lets req off
    split
    · dsimp only
      split
      · split
        · next s' hs =>
          have hb : Frame .any a (s', true).1 := hs ▸ h.bringLine (by decide)
          exact Frame.fields hb
        · exact h
      · exact h
    · exact h

theorem tableWalk_reach : Answers (Frame .any s) (execTableWalk s) := by
  unfold execTableWalk
  dsimp only
  split
  · exact answers_next.mpr Frame.refl.fields
  · exact answers_next.mpr Frame.refl.copyLeaf
  · exact answers_next.mpr Frame.refl.readAhead
  · split
    · exact answers_next.mpr .refl
    · exact answers_next.mpr Frame.refl.stepWalk

theorem memoryTimeout_reach : Answers (Frame .any s) (execMemoryTimeout s) := by
  unfold execMemoryTimeout
  dsimp only
  split
  · split
    · exact answers_next.mpr .refl
    · split
      · exact answers_next.mpr .refl
      · exact answers_next.mpr (Frame.walkFault Frame.refl.fields)
  · split
    · exact answers_next.mpr .refl
    · split
      · exact answers_next.mpr .refl
      · next r hr =>
        split
        · exact answers_next.mpr .refl
        · refine answers_next.mpr (Frame.detectFault (Frame.modPlane (Frame.fields .refl) fun pl => ?_))
          split <;> rfl

/-! ## The host's lines -/

theorem systemCacheCopyUpdate_reach : Answers (Frame .any s) (execSystemCacheCopyUpdate s) := by
  unfold execSystemCacheCopyUpdate
  dsimp only
  split
  · exact answers_next.mpr .refl
  · split
    · exact answers_next.mpr Frame.refl.holdCopy
    · exact answers_next.mpr Frame.refl.fields

theorem hostSnoop_reach : Answers (Frame .any s) (execHostSnoop s) := answers_next.mpr Frame.refl.fields

theorem hostMemoryAccess_reach : Answers (Frame .any s) (execHostMemoryAccess s) := by
  unfold execHostMemoryAccess
  split
  · exact answers_next.mpr .refl
  · split
    · exact answers_next.mpr .refl
    · next hs =>
      have h1 := Frame.refl.cachedAny (State.cacheLines_cached hs)
      split
      · exact answers_next.mpr h1.fields
      · exact answers_next.mpr (h1.setDram fun w => Memory.wf_write w _ _)

end Sys2Proof.Machine
end

