-- ==== Sys2Proof/Proofs/ReachPeers.lean ====
section
/-! SUPPORT. What the device's own steps reach, continued: peers, edges, launches, the end of tasks, traps. -/

namespace Sys2Proof.Machine

variable {a s t : State}

/-! ## Requests from a peer -/

theorem accessed_wf {m seen : Memory} {h : Home} (hh : seen.wf → h.mem.wf) (w : m.wf) : (if seen = m then h.mem else m).wf := by
  split
  · next e => exact hh (e ▸ w)
  · exact w

theorem Frame.peerWrote (h : Frame .any a s) {space loc : Nat} {host : Bool} {x : Memory} (hx : (s.memOf ⟨0, 0⟩ space).wf → x.wf) :
    Frame .any a (if host then (s.setMem ⟨0, 0⟩ space x).hostWritten none (hostLine loc) else s.setMem ⟨0, 0⟩ space x) := by
  split
  · exact (h.setMem hx).hostWritten
  · exact h.setMem hx

theorem Frame.servePeer (h : Frame .any a s) {key : Nat} {q : PeerRequest} : Frame .any a (s.servePeer key q).1 := by
  unfold State.servePeer
  extract_lets md hd va op size old ctx tag fail hit named ty aop
  split
  · exact h
  · split
    · exact h
    · split
      · exact h
      · next l hl =>
        extract_lets ask s1
        split
        · exact h
        · exact h
        · next loc hloc =>
          extract_lets lines wrote readOut
          have h1 : Frame .any a s1 := by
            unfold s1
            split
            · exact h.tlbFill
            · exact h
          split
          · exact h1.waitSlot
          · next s2 hs =>
            have h2 := h1.cachedAny (State.cacheLines_cached hs)
            extract_lets m seen r
            clear_value op
            split
            · exact h2
            · exact h2.peerWrote fun w => Memory.wf_writeMasked w _ _ _ _
            · exact h2.peerWrote (accessed_wf fun w => (Home.atomic_touches _ _ _ _ _ _ _ _ w).1)

theorem Frame.performPeer (h : Frame .any a s) {key n : Nat} : Frame .any a (s.performPeer key n) := by
  unfold State.performPeer
  dsimp only
  split
  · exact h
  · next q hq =>
    split
    · exact h
    · have hs := h.servePeer (key := key) (q := q)
      generalize s.servePeer key q = x at hs
      obtain ⟨s1, _ | reply⟩ := x
      · exact hs
      · exact Frame.sendData hs.setPort

theorem homePerform_reach : Answers (Frame .any s) (execHomePerform s) := by
  by_cases hx : s.arg.other = 1
  · unfold execHomePerform
    simp only [hx, if_true]
    exact answers_next.mpr Frame.refl.performPeer
  · cases hp : s.plane? s.arg.plane with
    | none =>
      unfold execHomePerform
      simp only [hx, if_false, hp]
      exact answers_next.mpr .refl
    | some pl =>
      cases hr : pl.reqs.find? (fun r => r.id = s.arg.index) with
      | none =>
        unfold execHomePerform
        simp only [hx, if_false, hp, hr]
        exact answers_next.mpr .refl
      | some r => exact fun t ht => Frame.refl.any_of (performs_homePerform hx hp hr t ht).wf

/-! ## Replies from a peer -/

theorem Plane.completePeer_tileSpace (pl : Plane) (now : Nat) (r : Request) : (pl.completePeer now r).tileSpace = pl.tileSpace := by
  unfold Plane.completePeer
  split <;> rfl

theorem Frame.answerCopy (h : Frame .any a s) {r : Request} {m : Memory} : Frame .any a (s.answerCopy r m) := h.fields

theorem Frame.answerPeer (h : Frame .any a s) {p : PlaneId} {r : Request} {m : Memory} : Frame .any a (s.answerPeer p r m) := by
  have h0 : Frame .any a ((s.modPlane p (·.completePeer s.cycle r)).completeTask p r) := by
    have h1 : Frame .any a (s.modPlane p (·.completePeer s.cycle r)) := h.modPlane fun pl => pl.completePeer_tileSpace _ r
    unfold State.completeTask
    split
    · exact h1
    · exact h1.modPlane
  unfold State.answerPeer
  dsimp only
  split
  · exact h0.serveWith.modPlane
  · exact h0.serveWith.modPlane
  · exact h0.serveWith.modPlane
  · exact h0.performLine
  · exact Frame.answerCopy h.modPlane
  · exact Frame.answerCopy h.modPlane
  · exact h0.serveWith.modPlane

theorem Frame.refusePeer (h : Frame .any a s) {p : PlaneId} {r : Request} {cause : Nat} : Frame .any a (s.refusePeer p r cause) := by
  unfold State.refusePeer
  extract_lets alone s1
  have h1 : Frame .any a s1 := by
    refine h.modPlane fun pl => ?_
    dsimp only
    split
    · refine (Plane.foldl_tileSpace (fun pl x => Plane.modNode_tileSpace pl _ _) _ _).trans ?_
      split
      · rfl
      · exact Plane.uncharge_tileSpace _ _
    · exact Plane.uncharge_tileSpace _ _
  split
  · split
    · exact h1.stopCopy
    · exact h1
  · split
    · exact h1.stopCopy
    · exact h1
  · exact h1.detectFault

theorem Frame.takeReply (h : Frame .any a s) {key : Nat} {x : BitVec 256} {rest : List (BitVec 256)} :
    Frame .any a (s.takeReply key x rest).1 := by
  unfold State.takeReply
  dsimp only
  split
  · exact h
  · split
    · exact h.setPort
    · split
      · exact h.setPort
      · split
        · exact h.setPort.answerPeer
        · split
          · exact h.setPort.refusePeer
          · exact h.setPort

theorem Frame.takeReplies (h : Frame .any a s) {key n : Nat} {flits : List (BitVec 256)} : Frame .any a (s.takeReplies key n flits) := by
  induction n generalizing s flits with
  | zero => exact h
  | succ n ih =>
    cases flits with
    | nil => exact h
    | cons x rest => exact ih h.takeReply

/-! ## The events of a port -/

theorem Frame.readAck (h : Frame .any a s) {key c : Nat} {ack : BitVec 24} : Frame .any a (s.readAck key c ack) := by
  unfold State.readAck
  dsimp only
  split
  · exact h
  · split
    · exact h
    · exact h.setPort.transmit

theorem flitheDataFrame_reach : Answers (Frame .any s) (execFlitheDataFrame s) := by
  unfold execFlitheDataFrame
  dsimp only
  split
  · exact answers_next.mpr .refl
  · split
    · exact answers_next.mpr Frame.refl.setPort.readAck
    · split
      · exact answers_next.mpr Frame.refl.setPort.readAck.takeReplies
      · exact answers_next.mpr Frame.refl.setPort.readAck

theorem flitheAckFrame_reach : Answers (Frame .any s) (execFlitheAckFrame s) := by
  unfold execFlitheAckFrame
  dsimp only
  split
  · exact answers_next.mpr .refl
  · exact answers_next.mpr Frame.refl.readAck

theorem flitheResetFrame_reach : Answers (Frame .any s) (execFlitheResetFrame s) := by
  unfold execFlitheResetFrame
  dsimp only
  split
  · exact answers_next.mpr .refl
  · exact answers_next.mpr Frame.refl.setPort

theorem flitheResendTimeout_reach : Answers (Frame .any s) (execFlitheResendTimeout s) := by
  unfold execFlitheResendTimeout
  dsimp only
  split
  · exact answers_next.mpr .refl
  · exact answers_next.mpr Frame.refl.setPort.transmit

theorem flitheAckTimer_reach : Answers (Frame .any s) (execFlitheAckTimer s) := by
  unfold execFlitheAckTimer
  dsimp only
  split
  · exact answers_next.mpr .refl
  · split
    · exact answers_next.mpr .refl
    · exact answers_next.mpr Frame.refl.setPort.transmit

theorem Frame.sendReset (h : Frame .any a s) {key : Nat} : Frame .any a (s.sendReset key) := h.setPort.transmit

theorem flitheLinkUp_reach : Answers (Frame .any s) (execFlitheLinkUp s) := answers_next.mpr Frame.refl.setPort.sendReset

theorem flitheResetRepeat_reach : Answers (Frame .any s) (execFlitheResetRepeat s) := by
  unfold execFlitheResetRepeat
  dsimp only
  split
  · exact answers_next.mpr .refl
  · exact answers_next.mpr Frame.refl.sendReset

theorem hostLinkUp_reach : Answers (Frame .any s) (execHostLinkUp s) := by
  unfold execHostLinkUp
  dsimp only
  split
  · exact answers_next.mpr Frame.refl.anyFields
  · exact answers_next.mpr .refl

theorem spdmRequest_reach : Answers (Frame .any s) (execSpdmRequest s) := by
  unfold execSpdmRequest
  extract_lets fw
  split
  · exact answers_next.mpr .refl
  · exact answers_next.mpr Frame.refl.anyFields

theorem edgeTurnPoint_reach : Answers (Frame .any s) (execEdgeTurnPoint s) := answers_next.mpr Frame.refl.anyFields

theorem turnComplete_reach : Answers (Frame .any s) (execTurnComplete s) := by
  unfold execTurnComplete
  dsimp only
  split
  · exact answers_next.mpr .refl
  · split
    · exact answers_next.mpr .refl
    · exact answers_next.mpr Frame.refl.anyFields

/-! ## Launches and the task table -/

theorem Frame.insertReserved (h : Frame .any a s) {x : Task} : Frame .any a (s.insertReserved x) := by
  unfold State.insertReserved
  split
  · exact h.insertTask
  · exact h.fields

theorem Frame.takeLaunch (h : Frame .any a s) {ctx : Nat} {l : Launch} : Frame .any a (s.takeLaunch ctx l) := by
  unfold State.takeLaunch
  dsimp only
  split
  · exact Frame.insertTask h.fields
  · split
    · exact Frame.modCtx h.fields
    · exact Frame.modCtx h.fields

theorem launch_reach {v1 : Bool} : Answers (Frame .any s) (launch s v1) := by
  unfold launch
  dsimp only
  split
  · exact answers_next.mpr .refl
  · split
    · exact answers_next.mpr Frame.refl.modCtx
    · exact answers_next.mpr Frame.refl.takeLaunch

theorem bufferedLaunchEnter_reach : Answers (Frame .any s) (execBufferedLaunchEnter s) := by
  unfold execBufferedLaunchEnter
  dsimp only
  split
  · split
    · exact answers_next.mpr (Frame.insertTask Frame.refl.fields)
    · exact answers_next.mpr .refl
  · split
    · exact answers_next.mpr Frame.refl.modCtx.insertTask
    · exact answers_next.mpr .refl

theorem taskAgeing_reach : Answers (Frame .any s) (execTaskAgeing s) := by
  unfold execTaskAgeing
  split
  · exact answers_next.mpr .refl
  · split
    · exact answers_next.mpr Frame.refl.setTask
    · exact answers_next.mpr .refl

theorem Frame.dropTask (h : Frame .any a s) {c : Nat} : Frame .any a (s.dropTask c) := h.fields

/-! ## The end of a task -/

theorem Frame.writeDevice (h : Frame .any a s) {ctx : Nat} {va v0 v1 : W64} : Frame .any a (s.writeDevice ctx va v0 v1) := by
  unfold State.writeDevice
  split
  · exact h.setDram fun w => Memory.wf_write (Memory.wf_write w _ _) _ _
  · exact h

theorem Frame.returnValue (h : Frame .any a s) {x : Task} : Frame .any a (s.returnValue x).2 := by
  unfold State.returnValue
  split
  · exact h
  · split
    · exact h.fields
    · exact h

theorem Frame.completionRecord (h : Frame .any a s) {x : Task} : Frame .any a (s.completionRecord x) := by
  unfold State.completionRecord
  split
  · exact h
  · dsimp only
    split
    · exact h.returnValue.writeDevice.sendEvent (by decide)
    · exact h.returnValue.writeDevice

theorem Frame.deliver (h : Frame .any a s) {serial : Nat} {x : Token} : Frame .any a (s.deliver serial x) := by
  have hp := h.mapPads (g := fun _ d => { d with planes := d.planes.map (·.deliver serial x) }) fun _ d => by
    simp [Paddock.sameTiles, Plane.deliver, Plane.tileSpace]
  refine hp.setSaves fun y hy => ?_
  obtain ⟨z, hz, rfl⟩ := List.mem_map.mp hy
  exact ⟨z, hz, rfl⟩

theorem Frame.endTask (h : Frame .any a s) {c : Nat} : Frame .any a (s.endTask c) := by
  unfold State.endTask
  split
  · exact h
  · dsimp only
    split
    · exact Frame.setTask (Frame.deliver (Frame.fields h.completionRecord))
    · exact Frame.dropTask (Frame.fields h.completionRecord)

theorem Frame.freePlane (h : Frame .any a s) {p : PlaneId} : Frame .any a (s.freePlane p) := by
  unfold State.freePlane
  split
  · exact h
  · exact Frame.sweepTack (Frame.anyFields (Frame.fields (h.modCtx.putPlane fun _ => Memory.wf_empty)))

theorem Frame.endWithPlane (h : Frame .any a s) {pl : Plane} : Frame .any a (s.endWithPlane pl) := by
  unfold State.endWithPlane
  split
  · exact h
  · dsimp only
    split
    · split
      · exact h.modTask.endTask
      · exact h.modTask.failContext
    · exact h.modTask.endTask

theorem planeFree_reach : Answers (Frame .any s) (execPlaneFree s) := by
  unfold execPlaneFree
  dsimp only
  split
  · exact answers_next.mpr .refl
  · split
    · exact answers_next.mpr .refl
    · exact answers_next.mpr Frame.refl.freePlane.endWithPlane

theorem abandonedPlaneFree_reach : Answers (Frame .any s) (execAbandonedPlaneFree s) := by
  unfold execAbandonedPlaneFree
  dsimp only
  split
  · exact answers_next.mpr .refl
  · split
    · exact answers_next.mpr .refl
    · split
      · exact answers_next.mpr Frame.refl.freePlane
      · exact answers_next.mpr Frame.refl.freePlane.endWithPlane

theorem contextTeardownDone_reach : Answers (Frame .any s) (execContextTeardownDone s) := by
  unfold execContextTeardownDone
  dsimp only
  split
  · exact answers_next.mpr .refl
  · exact answers_next.mpr (Frame.sendEvent Frame.refl.fields (by decide))

/-! ## Traps -/

theorem Frame.writeRecord (h : Frame .any a s) {ctx slot : Nat} {f : HeldFault} {tag : W32} {place : Option (Paddock × Nat)} :
    Frame .any a (s.writeRecord ctx slot f tag place) := by
  unfold State.writeRecord
  extract_lets ws base put
  exact Frame.fields (h.setDram fun w => Memory.wf_write (Memory.wf_foldl _ (fun _ _ hm => Memory.wf_write hm _ _) _ w) _ _)

theorem Plane.unstaged_tileSpace (pl : Plane) : pl.unstaged.tileSpace = pl.tileSpace := rfl

theorem planeFreeze_reach : Answers (Frame .any s) (execPlaneFreeze s) := by
  unfold execPlaneFreeze
  dsimp only
  split
  · exact answers_next.mpr .refl
  · next pl hp =>
    split
    · exact answers_next.mpr .refl
    · split
      · exact answers_next.mpr .refl
      · have h1 : Frame .any s ((s.takeId).2.setPlane s.arg.plane
            { pl.unstaged with st := .frozen, before := pl.st, freezeAt := none, froze := (s.takeId).1 }) :=
          Frame.setPlane (pl := pl) Frame.refl.fields hp
        split
        · exact answers_next.mpr h1
        · exact answers_next.mpr h1.failContext

theorem writeRecord_pads (s : State) (ctx slot : Nat) (f : HeldFault) (tag : W32) (place : Option (Paddock × Nat)) :
    (s.writeRecord ctx slot f tag place).pads = s.pads := by
  unfold State.writeRecord
  rfl

theorem Frame.recordPlane (h : Frame .any a s) {p : PlaneId} {d : Paddock} {pl : Plane} {f : HeldFault} {i slot : Nat}
    (hp : s.plane? p = some pl) : Frame .any a (s.recordPlane p d pl f i slot) := by
  refine Frame.insertReserved (Frame.setPlane (pl := pl) h.writeRecord ?_)
  unfold State.plane?
  rw [writeRecord_pads]
  exact hp

theorem trapRecordWrite_reach : Answers (Frame .any s) (execTrapRecordWrite s) := by
  unfold execTrapRecordWrite
  dsimp only
  split
  · split
    · exact answers_next.mpr .refl
    · split
      · split
        · exact answers_next.mpr .refl
        · exact answers_next.mpr Frame.refl.writeRecord.setTask.insertReserved
      · exact answers_next.mpr .refl
  · split
    · next hp =>
      split
      · split
        · exact answers_next.mpr .refl
        · exact answers_next.mpr (Frame.refl.recordPlane hp)
      · exact answers_next.mpr .refl
    · exact answers_next.mpr .refl

theorem Frame.refuse (h : Frame .any a s) {c reason : Nat} {f : HeldFault} : Frame .any a (s.refuse c f reason) := by
  unfold State.refuse
  split
  · exact h
  · extract_lets why
    split
    · exact h.failContext
    · split
      · exact h.failContext
      · exact Frame.setTask h.fields

theorem Plane.reissue_tileSpace (pl : Plane) (who : Asker) (va : W64) (now : Nat) : (pl.reissue who va now).tileSpace = pl.tileSpace :=
  Plane.foldl_tileSpace (fun pl r => by split <;> rfl) _ pl

theorem Plane.regrant_tileSpace (pl : Plane) (f : HeldFault) (action now : Nat) : (pl.regrant f action now).tileSpace = pl.tileSpace := by
  have again (who : Asker) : (if f.info.cause = 0x38 then pl.reissue who f.info.vaddr now else pl).tileSpace = pl.tileSpace := by
    split
    · exact Plane.reissue_tileSpace ..
    · rfl
  unfold Plane.regrant
  extract_lets c g
  split
  · rfl
  · split
    · rfl
    · dsimp only
      split
      · exact again _
      · exact again _
  · dsimp only
    split
    · exact again _
    · exact again _

theorem Frame.abandonPlane (h : Frame .any a s) {p : PlaneId} {pl : Plane} {cause : Nat} : Frame .any a (s.abandonPlane p pl cause) := by
  unfold State.abandonPlane
  dsimp only
  split
  · exact h.modPlane
  · exact (Frame.modTask h.modPlane).dropChildren

theorem Frame.ackPlane (h : Frame .any a s) {p : PlaneId} {pl : Plane} {f : HeldFault} {action : Nat}
    (hw : s.memoriesWf → pl.sram.wf) : Frame .any a (s.ackPlane p pl f action) := by
  unfold State.ackPlane
  split
  · exact h.abandonPlane
  · refine h.putPlane fun w => ?_
    have e : (pl.regrant f action s.cycle).sram = pl.sram := congrArg Prod.fst (pl.regrant_tileSpace f action s.cycle)
    exact e.symm ▸ hw w

theorem Frame.dropSave (h : Frame .any a s) {c : Nat} : Frame .any a (s.dropSave c) := by
  unfold State.dropSave
  split
  · exact h
  · refine Frame.sweepTack (Frame.setSaves h.modCtx fun x hx => ?_)
    exact ⟨x, List.mem_of_mem_filter hx, rfl⟩

theorem Frame.ackTask (h : Frame .any a s) {c : Nat} {x : Task} {f : HeldFault} {action : Nat} : Frame .any a (s.ackTask c x f action) := by
  unfold State.ackTask
  split
  · exact h.dropSave.setTask.endTask
  · exact h.setTask

theorem sram_wf_of_mem_planes {x : PlaneId × Plane} (hw : s.memoriesWf) (hx : x ∈ s.planes) : x.2.sram.wf := by
  obtain ⟨_, _, _, hpads, _⟩ := hw
  obtain ⟨kd, hkd, hm⟩ := List.mem_flatMap.mp hx
  obtain ⟨q, hq, rfl⟩ := List.mem_map.mp hm
  exact hpads kd hkd q.1 (List.fst_mem_of_mem_zipIdx hq)

theorem Frame.ackSlot (h : Frame .any a s) {ctx slot action : Nat} : Frame .any a (s.ackSlot ctx slot action) := by
  unfold State.ackSlot
  split
  · split
    · exact h.ackTask
    · exact h
  · split
    · next p pl hf =>
      split
      · exact h.ackPlane fun w => sram_wf_of_mem_planes w (List.mem_of_find?_eq_some hf)
      · exact h
    · refine h.setSaves fun y hy => ?_
      obtain ⟨z, hz, rfl⟩ := List.mem_map.mp hy
      refine ⟨z, hz, ?_⟩
      split <;> rfl

theorem Frame.acknowledge (h : Frame .any a s) {pl : Plane} {action : Nat} : Frame .any a (s.acknowledge pl action) := by
  unfold State.acknowledge
  split
  · exact h
  · split
    · exact h
    · exact Frame.ackSlot (h.setDram fun w => Memory.wf_write w _ _)

theorem trapack_reach {g : GArgs} : Answers (Frame .any s) (execTrapack g s) := by
  unfold execTrapack
  split
  · exact answers_next.mpr .refl
  · split
    · exact answers_next.mpr .refl
    · extract_lets emits
      split
      · exact answers_next.mpr .refl
      · dsimp only
        split
        · exact answers_next.mpr Frame.refl.grantCycle
        · split
          · exact answers_next.mpr Frame.refl.grantCycle.admitTimes
          · split
            · exact answers_next.mpr Frame.refl.grantCycle.admitTimes.commitEffect
            · exact answers_next.mpr Frame.refl.grantCycle.admitTimes.commitEffect.acknowledge

theorem watchdogExpiry_reach : Answers (Frame .any s) (execWatchdogExpiry s) := by
  unfold execWatchdogExpiry
  dsimp only
  split
  · split
    · exact answers_next.mpr .refl
    · exact answers_next.mpr Frame.refl.detectHeld
  · exact answers_next.mpr .refl

theorem Frame.startReload (h : Frame .any a s) {p : PlaneId} : Frame .any a (s.startReload p) :=
  h.modPlane fun pl => by split <;> rfl

theorem planeWordEccError_reach : Answers (Frame .any s) (execPlaneWordEccError s) := by
  unfold execPlaneWordEccError
  split
  · exact answers_next.mpr Frame.refl.anyFields
  · exact answers_next.mpr Frame.refl.startReload

theorem scrubCheck_reach : Answers (Frame .any s) (execScrubCheck s) := by
  unfold execScrubCheck
  split
  · exact answers_next.mpr .refl
  · split
    · exact answers_next.mpr .refl
    · exact answers_next.mpr Frame.refl.startReload

theorem Frame.spoilEntry (h : Frame .any a s) {e : Nat} : Frame .any a (s.spoilEntry e) := by
  unfold State.spoilEntry
  refine Frame.foldl h.fields fun s x h => ?_
  split
  · exact h.detectHeld
  · exact h

theorem planeReloadDone_reach : Answers (Frame .any s) (execPlaneReloadDone s) := by
  unfold execPlaneReloadDone
  split
  · exact answers_next.mpr .refl
  · next pl hp =>
    have h1 : Frame .any s (s.setPlane s.arg.plane { pl with reload := false }) := Frame.refl.setPlane hp
    split
    · exact answers_next.mpr .refl
    · dsimp only
      split
      · exact answers_next.mpr h1.spoilEntry
      · exact answers_next.mpr h1.anyFields

theorem Plane.strike_tileSpace (pl : Plane) (cause : BitVec 8) (site : EccSite) : (pl.strike cause site).tileSpace = pl.tileSpace := by
  cases site <;> rfl

theorem stateEccError_reach : Answers (Frame .any s) (execStateEccError s) := by
  unfold execStateEccError
  dsimp only
  split
  · exact answers_next.mpr .refl
  · next pl hp =>
    split
    · exact answers_next.mpr .refl
    · split
      · exact answers_next.mpr Frame.refl.detectFault
      · exact answers_next.mpr Frame.refl.detectFault
      · exact answers_next.mpr (Frame.refl.setPlane hp (pl.strike_tileSpace _ _))

theorem Plane.strikeTile_wf {pl : Plane} {i off : Nat} {x : TileAlloc} (h : pl.sram.wf) : (pl.strikeTile i x off).sram.wf := by
  unfold Plane.strikeTile
  extract_lets bad loc
  split
  · exact Memory.wf_writePoison h _ _
  · exact h
  · split
    · exact h
    · exact h

theorem sramEccError_reach : Answers (Frame .any s) (execSramEccError s) := by
  unfold execSramEccError
  dsimp only
  split
  · exact answers_next.mpr .refl
  · next pl hp =>
    split
    · exact answers_next.mpr .refl
    · split
      · exact answers_next.mpr .refl
      · exact answers_next.mpr (Frame.refl.putPlane fun w => Plane.strikeTile_wf (sram_wf_of_plane? w hp))

end Sys2Proof.Machine
end

