-- ==== Sys2Proof/Proofs/ReachBindings.lean ====
section
/-! SUPPORT. What the device's own steps reach, continued: bindings, configuration, saves, system registers, start-up, translation, and
BINRUN. -/

namespace Sys2Proof.Machine

variable {a s t : State}

/-! ## Firings that complete, engines -/

theorem completeFiring_tileSpace (pl : Plane) (i : Nat) (n : Node) (f : Issued) : (completeFiring pl i n f).tileSpace = pl.tileSpace :=
  (Plane.emitAll_tileSpace n f.emits _).trans (Plane.release_tileSpace n f.emits pl)

theorem cancelFirings_tileSpace (pl : Plane) (i : Nat) (n : Node) : (cancelFirings pl i n).tileSpace = pl.tileSpace :=
  Plane.foldl_tileSpace (fun (pl : Plane) (f : Issued) => Plane.release_tileSpace n f.emits (pl.modNode i (·.unmark f.takes))) (pl.issuedOf i) pl

theorem firingComplete_reach : Answers (Frame .any s) (execFiringComplete s) := by
  unfold execFiringComplete
  dsimp only
  split
  · exact answers_next.mpr .refl
  · next pl hp =>
    split
    · next n f hn hf =>
      split
      · exact answers_next.mpr .refl
      · split
        · exact answers_next.mpr (Frame.refl.setPlane hp (cancelFirings_tileSpace pl _ n)).detectFault
        · have h1 : Frame .any s (s.setPlane s.arg.plane (completeFiring pl s.arg.index n f)) :=
            Frame.refl.setPlane hp (completeFiring_tileSpace pl _ n f)
          split
          · exact answers_next.mpr (h1.countDeprecated (by decide))
          · exact answers_next.mpr h1
    · exact answers_next.mpr .refl

theorem activationStart_reach : Answers (Frame .any s) (execActivationStart s) := by
  unfold execActivationStart
  extract_lets x
  split
  · exact answers_next.mpr .refl
  · next hp =>
    split
    · exact answers_next.mpr .refl
    · split
      · exact answers_next.mpr .refl
      · split
        · exact answers_next.mpr .refl
        · exact answers_next.mpr (Frame.refl.setPlane hp)

theorem engineAt_plane {p : PlaneId} {i : Nat} {x : Plane × Node × Engine} (h : engineAt s p i = some x) : s.plane? p = some x.1 := by
  obtain ⟨pl, hp, h⟩ := Option.bind_eq_some_iff.mp h
  obtain ⟨n, hn, h⟩ := Option.bind_eq_some_iff.mp h
  obtain ⟨e, he, h⟩ := Option.bind_eq_some_iff.mp h
  split at h <;> cases h
  exact hp

theorem mfeBoundary_reach : Answers (Frame .any s) (execMfeBoundary s) := by
  unfold execMfeBoundary
  dsimp only
  split
  · exact answers_next.mpr .refl
  · next pl n e he =>
    have hp := engineAt_plane he
    refine answers_next.mpr ?_
    unfold boundaryStep
    split
    · split
      · exact .refl
      · exact Frame.refl.boundaryRead hp
    · exact Frame.refl.boundaryClear hp
    · exact Frame.refl.setPlane hp
    · exact .refl

theorem mfeTensorStart_reach : Answers (Frame .any s) (execMfeTensorStart s) := by
  unfold execMfeTensorStart
  dsimp only
  split
  · exact answers_next.mpr .refl
  · next pl n e he =>
    have hp := engineAt_plane he
    refine answers_next.mpr ?_
    unfold tensorStart
    split
    · split
      · exact Frame.refl.setPlane hp
      · split
        · exact .refl
        · exact Frame.refl.controlToken hp fun _ _ => rfl
    · exact .refl

/-! ## Bindings -/

theorem Frame.makePaddock (h : Frame .any a s) {x0 y0 w l : Nat} : Frame .any a (s.makePaddock x0 y0 w l).2 := by
  refine h.any_of fun hw => ⟨hw.1, hw.2.1, hw.2.2.1, fun kd hkd pl hpl => ?_, hw.2.2.2.2⟩
  rcases mem_mapSet hkd with hkd | rfl
  · exact hw.2.2.2.1 kd (List.mem_of_mem_filter hkd) pl hpl
  · simp only [newPaddock, List.mem_cons, List.not_mem_nil, or_false, or_self] at hpl
    exact hpl ▸ Memory.wf_empty

theorem Frame.configure (h : Frame .any a s) {c e : Nat} {x : Task} {im : Image} {p : PlaneId} {mds : List Nat} {args : List (Nat × Token)} :
    Frame .any a (s.configure c x e im p mds args) :=
  Frame.setTask (Frame.fields (Frame.putPlane (Frame.fields h) fun _ => Memory.wf_empty))

theorem Frame.bindTo (h : Frame .any a s) {c e : Nat} {x : Task} {im : Image} {p : PlaneId} {mds : List Nat} :
    Frame .any a (s.bindTo c x e im p mds) := by
  unfold State.bindTo
  split
  · exact h.refuse
  · exact h.configure

theorem Frame.exhausted (h : Frame .any a s) {ctx : Nat} : Frame .any a (s.exhausted ctx) :=
  Frame.sendEvent (Frame.fields h.modCtx) (by decide)

theorem Frame.writeOut (h : Frame .any a s) {v : Nat} {x : Saved} (hx : s.memoriesWf → x.plane.sram.wf) : Frame .any a (s.writeOut v x) := by
  unfold State.writeOut
  dsimp only
  split
  · exact Frame.putSave (Frame.modCtx h) hx
  · exact h.exhausted

theorem Frame.writeOutAll (h : Frame .any a s) {pad : Nat} : Frame .any a (s.writeOutAll pad) :=
  h.any_of fun w => List.foldlRecOn _ _ (motive := State.memoriesWf) w fun _ w' x hx =>
    (Frame.refl.writeOut fun _ => w.2.2.2.2 x (List.mem_of_mem_filter hx)).wf w'

theorem Frame.choose (h : Frame .any a s) {c e : Nat} : Frame .any a (s.choose c e) := h.modTask

theorem Frame.carryOut (h : Frame .any a s) {c : Nat} {x : Task} {plan : BindPlan} {choice : BindChoice} :
    Frame .any a (s.carryOut c x plan choice) := by
  unfold State.carryOut
  split
  · exact h
  · exact h.refuse
  · extract_lets served
    split
    · split
      · exact h.bindTo
      · exact h
    · split
      · exact h.bindTo
      · exact h
    · split
      · exact h.makePaddock.bindTo
      · exact h
    · split
      · exact h.writeOutAll.choose
      · exact h
    · split
      · exact Frame.choose h.modPlane
      · exact h
    · exact h

theorem bindTask_reach : Answers (Frame .any s) (execBindTask s) := by
  unfold execBindTask
  split
  · exact answers_next.mpr .refl
  · exact answers_next.mpr Frame.refl.carryOut

/-! ## Configuration -/

theorem Plane.deliverArgs_tileSpace (pl : Plane) (im : Image) (args : List (Nat × Token)) : (pl.deliverArgs im args).tileSpace = pl.tileSpace :=
  Plane.foldl_tileSpace (fun q e => by
    split
    · exact Plane.emit_tileSpace ..
    · rfl) args pl

theorem Frame.restore (h : Frame .any a s) {p : PlaneId} {d : Paddock} {pl : Plane} {im : Image} {v : Nat} {x : Saved}
    (hx : mapGet s.saves v = some x) : Frame .any a (s.restore p d pl im v x) := by
  unfold State.restore
  dsimp only
  refine Frame.foldl (Frame.fields (Frame.modTask (Frame.dropSave ?_))) fun s' act h' => ?_
  · exact h.putPlane fun w => w.2.2.2.2 _ (mem_of_mapGet hx)
  · split
    · next hq =>
      split
      · exact h'.ackPlane fun w => sram_wf_of_plane? w hq
      · exact h'
    · exact h'

theorem Frame.strikeRestore (h : Frame .any a s) {p : PlaneId} {site : EccSite} : Frame .any a (s.strikeRestore p site) := by
  unfold State.strikeRestore
  split
  · exact h.detectFault
  · exact h.detectFault
  · exact h.modPlane fun pl => pl.strike_tileSpace _ _

theorem Frame.pruneEdges (h : Frame .any a s) : Frame .any a s.pruneEdges := h.anyFields

theorem Frame.configFailed (h : Frame .any a s) {p : PlaneId} {d : Paddock} {pl : Plane} : Frame .any a (s.configFailed p d pl) := by
  unfold State.configFailed
  refine Frame.refuse (Frame.modTask (Frame.fields (Frame.sweepTack (Frame.pruneEdges ?_))))
  exact Frame.putPlane (Frame.fields h) fun _ => Memory.wf_empty

theorem configComplete_reach : Answers (Frame .any s) (execConfigComplete s) := by
  unfold execConfigComplete
  extract_lets p
  split
  · next d pl hd hp =>
    split
    · exact answers_next.mpr .refl
    · split
      · split
        · exact answers_next.mpr (Frame.anyFields (Frame.refl.setPlane hp))
        · exact answers_next.mpr Frame.refl.configFailed
      · split
        · exact answers_next.mpr .refl
        · next im him =>
          split
          · next x hx =>
            have h1 : Frame .any s (s.restore p d pl im pl.colour x) := Frame.refl.restore hx
            extract_lets s'
            split
            · exact answers_next.mpr h1.strikeRestore
            · exact answers_next.mpr h1
          · exact answers_next.mpr (Frame.refl.putPlane fun w => by
              have e : ((pl.enter im d).deliverArgs im pl.args).sram = pl.sram := congrArg Prod.fst (Plane.deliverArgs_tileSpace ..)
              exact e.symm ▸ sram_wf_of_plane? w hp)
  · exact answers_next.mpr .refl

/-! ## Saves -/

theorem saveStart_reach : Answers (Frame .any s) (execSaveStart s) := by
  unfold execSaveStart
  extract_lets p
  split
  · next d pl hd hp =>
    split
    · exact answers_next.mpr .refl
    · extract_lets kib bound pages c
      split
      · exact answers_next.mpr (Frame.modCtx (Frame.refl.setPlane hp))
      · exact answers_next.mpr (Frame.exhausted (Frame.refl.setPlane hp))
  · exact answers_next.mpr .refl

theorem saveCommit_reach : Answers (Frame .any s) (execSaveCommit s) := by
  unfold execSaveCommit
  dsimp only
  split
  · exact answers_next.mpr .refl
  · next pl hp =>
    split
    · exact answers_next.mpr (Frame.insertReserved (Frame.modTask (Frame.freePlane (Frame.refl.putSave fun w =>
        (sram_wf_of_plane? w hp : pl.sram.wf)))))
    · exact answers_next.mpr .refl

/-! ## Frames, levels and urgency -/

theorem frameBoundary_reach : Answers (Frame .any s) (execFrameBoundary s) := by
  unfold execFrameBoundary
  dsimp only
  split
  · exact answers_next.mpr .refl
  · next hd =>
    split
    · exact answers_next.mpr .refl
    · exact answers_next.mpr (Frame.refl.setPad hd rfl)

theorem planeLevelAgeing_reach : Answers (Frame .any s) (execPlaneLevelAgeing s) := by
  unfold execPlaneLevelAgeing
  dsimp only
  split
  · next hp =>
    split
    · exact answers_next.mpr .refl
    · exact answers_next.mpr (Frame.refl.setPlane hp)
  · exact answers_next.mpr .refl

theorem peUrgent_reach : Answers (Frame .any s) (execPeUrgent s) := by
  unfold execPeUrgent
  dsimp only
  split
  · exact answers_next.mpr .refl
  · split
    · exact answers_next.mpr .refl
    · exact answers_next.mpr Frame.refl.fields

/-! ## System registers -/

theorem Frame.mapPlanes (h : Frame .any a s) {f : Plane → Plane} (hf : ∀ pl, (f pl).tileSpace = pl.tileSpace) :
    Frame .any a { s with pads := s.pads.map fun kd => (kd.1, { kd.2 with planes := kd.2.planes.map f }) } :=
  h.mapPads (g := fun _ d => { d with planes := d.planes.map f }) fun _ d => by
    simp [Paddock.sameTiles, Function.comp_def, hf]

theorem Frame.makeOff (h : Frame .any a s) {c : Nat} : Frame .any a (s.makeOff c) := by
  unfold State.makeOff
  dsimp only
  split
  · exact Frame.sweepTack h.fields
  · exact h

theorem Frame.makeLive (h : Frame .any a s) {c : Nat} : Frame .any a (s.makeLive c) := by
  unfold State.makeLive
  split
  · exact h.modCtx
  · exact h

theorem Frame.writeStatus (h : Frame .any a s) {c : Nat} {v : W64} : Frame .any a (s.writeStatus c v) := by
  unfold State.writeStatus
  split
  · exact h.makeLive
  · exact h.makeOff
  · unfold State.clearFailed
    dsimp only
    split
    · exact h.fields
    · exact h
  · exact h

theorem Frame.clearFlags (h : Frame .any a s) {c : Nat} {v : W64} : Frame .any a (s.clearFlags c v) :=
  Frame.mapPlanes h.modCtx fun pl => by split <;> rfl

theorem State.recapped_tileSpace (s : State) (c cap : Nat) (pl : Plane) : (s.recapped c cap pl).tileSpace = pl.tileSpace := by
  unfold State.recapped
  split
  · rfl
  · split <;> rfl

theorem Frame.writeTasks (h : Frame .any a s) {c : Nat} {v : W64} : Frame .any a (s.writeTasks c v) :=
  Frame.mapPlanes h.modCtx fun pl => State.recapped_tileSpace _ _ _ pl

theorem Frame.writeBinctl (h : Frame .any a s) {c : Nat} {v : W64} : Frame .any a (s.writeBinctl c v) := by
  unfold State.writeBinctl
  dsimp only
  split
  · exact h
  · exact h.modCtx

theorem Frame.writeRegion (h : Frame .any a s) {c : Nat} {v : W64} : Frame .any a (s.writeRegion c v) := by
  unfold State.writeRegion
  dsimp only
  split
  · exact h
  · exact h.modCtx

theorem Frame.writeCtx (h : Frame .any a s) {c n : Nat} {v : W64} : Frame .any a (s.writeCtx c n v) := by
  unfold State.writeCtx
  split
  case h_1 => exact h.writeStatus
  case h_5 => exact h.clearFlags
  case h_7 => exact h.writeTasks
  case h_9 => exact h.writeRegion
  case h_17 => exact h.writeBinctl
  case h_19 => exact h.modCtx.sweepTack
  case h_23 => exact h
  all_goals exact h.modCtx

theorem Frame.writeAct (h : Frame .any a s) {which : Nat} {v : W64} : Frame .any a (s.writeAct which v) := h.anyFields
theorem Frame.writeOffset (h : Frame .any a s) {d : Nat} {v : W64} : Frame .any a (s.writeOffset d v) := h.anyFields

theorem Frame.writeRate (h : Frame .any a s) {d : Nat} {v : W64} : Frame .any a (s.writeRate d v) := by
  unfold State.writeRate
  split
  · exact h
  · exact h.anyFields

theorem Frame.startInvalidation (h : Frame .any a s) {v : W64} : Frame .any a (s.startInvalidation v) := by
  unfold State.startInvalidation
  split
  · exact h
  · exact h.anyFields

/-! ## Start-up and firmware -/

theorem Frame.restart (h : Frame .any a s) {f : Firmware} : Frame .any a (s.restart f) :=
  h.any_of fun w => ⟨Memory.wf_empty, w.2.1, Memory.wf_empty, fun _ h => absurd h List.not_mem_nil, fun _ h => absurd h List.not_mem_nil⟩

theorem Frame.bootFailed (h : Frame .any a s) {error : Nat} : Frame .any a (s.bootFailed error) := h.anyFields

theorem Frame.boot (h : Frame .any a s) {b : BootFacts} {f : Firmware} : Frame .any a (s.boot b f) := by
  unfold State.boot
  dsimp only
  split
  · exact h.restart.bootFailed
  · have h1 := h.restart (f := f)
    split
    · exact Frame.bootFailed h1.anyFields
    · split
      · exact Frame.bootFailed h1.anyFields
      · split
        · exact Frame.bootFailed h1.anyFields
        · split
          · exact Frame.bootFailed h1.anyFields
          · exact h1.anyFields

theorem powerOn_reach : Answers (Frame .any s) (execPowerOn s) := answers_next.mpr Frame.refl.boot

theorem Frame.activate (h : Frame .any a s) {i : FwImage} : Frame .any a (s.activate i) := by
  unfold State.activate
  extract_lets r refuse
  split
  · exact h.anyFields
  · split
    · exact h.anyFields
    · exact h.anyFields

theorem Frame.recover (h : Frame .any a s) {i : FwImage} {b : BootFacts} : Frame .any a (s.recover i b) := by
  unfold State.recover
  split
  · exact h
  · split
    · exact h.anyFields
    · split
      · exact h.anyFields
      · exact h.boot

theorem Frame.writeFwCtl (h : Frame .any a s) {v : W64} {i : FwImage} {b : BootFacts} : Frame .any a (s.writeFwCtl v i b) := by
  unfold State.writeFwCtl
  split
  · exact h
  · dsimp only
    split
    · exact h.anyFields
    · split
      · exact Frame.recover h.anyFields
      · exact Frame.activate h.anyFields

theorem Frame.ite {c : Prop} [Decidable c] (h : Frame .any a s) (h' : Frame .any a t) : Frame .any a (if c then s else t) := by
  split <;> assumption

theorem Frame.writeDeviceReg (h : Frame .any a s) {x : Nat} {v : W64} : Frame .any a (s.writeDeviceReg x v) := by
  unfold State.writeDeviceReg
  refine Frame.ite h.anyFields <| .ite (.ite h.fields h) <| .ite h.writeAct <| .ite h.writeAct <| .ite h.writeAct ?_
  refine .ite (.ite h.anyFields h) <| .ite h.anyFields <| .ite h.startInvalidation <| .ite h.anyFields <| .ite h.anyFields ?_
  exact .ite h.anyFields <| .ite h.anyFields <| .ite h.writeOffset <| .ite h.writeRate <| .ite h.anyFields h

theorem Frame.writeReg (h : Frame .any a s) {x : Nat} {v : W64} {i : FwImage} {b : BootFacts} : Frame .any a (s.writeReg x v i b) := by
  unfold State.writeReg
  split
  · exact h.writeFwCtl
  · split
    · exact h.anyFields
    · split
      · exact h
      · split
        · exact h.writeCtx
        · exact h.writeDeviceReg

theorem writeReg_reach {x : Nat} {v : W64} {i : FwImage} {b : BootFacts} : Answers (Frame .any s) (.next (s.writeReg x v i b)) :=
  answers_next.mpr Frame.refl.writeReg

theorem tlbInvDone_reach : Answers (Frame .any s) (execTlbInvDone s) := by
  unfold execTlbInvDone
  split
  · exact answers_next.mpr .refl
  · exact answers_next.mpr Frame.refl.anyFields

theorem fwActivate_reach : Answers (Frame .any s) (execFwActivate s) := by
  unfold execFwActivate
  split
  · exact answers_next.mpr .refl
  · exact writeReg_reach

theorem fwRecovery_reach : Answers (Frame .any s) (execFwRecovery s) := by
  unfold execFwRecovery
  split
  · exact answers_next.mpr .refl
  · exact writeReg_reach

theorem fwActivation_reach : Answers (Frame .any s) (execFwActivation s) := by
  unfold execFwActivation
  split
  · exact answers_next.mpr .refl
  · split
    · exact answers_next.mpr .refl
    · exact answers_next.mpr (Frame.sendEvent (Frame.sweepTack Frame.refl.anyFields) (by decide))

theorem ctxMakeLive_reach : Answers (Frame .any s) (execCtxMakeLive s) := by
  unfold execCtxMakeLive
  split
  · exact answers_next.mpr .refl
  · exact writeReg_reach

theorem ctxMakeOff_reach : Answers (Frame .any s) (execCtxMakeOff s) := by
  unfold execCtxMakeOff
  split
  · exact answers_next.mpr .refl
  · exact writeReg_reach

theorem ctxClearFailed_reach : Answers (Frame .any s) (execCtxClearFailed s) := by
  unfold execCtxClearFailed
  split
  · exact answers_next.mpr .refl
  · exact writeReg_reach

theorem scanDataRead_reach : Answers (Frame .any s) (execScanDataRead s) := by
  unfold execScanDataRead
  dsimp only
  split
  · exact answers_next.mpr .refl
  · exact answers_next.mpr Frame.refl.anyFields

theorem Frame.stepClock (h : Frame .any a s) {cur : Nat} {down : Bool} : Frame .any a (s.stepClock cur down) :=
  Frame.sendEvent h.anyFields (by decide)

theorem clockStepDown_reach : Answers (Frame .any s) (execClockStepDown s) := by
  unfold execClockStepDown
  split
  · exact answers_next.mpr .refl
  · exact answers_next.mpr Frame.refl.stepClock

theorem clockStepUp_reach : Answers (Frame .any s) (execClockStepUp s) := by
  unfold execClockStepUp
  split
  · exact answers_next.mpr .refl
  · exact answers_next.mpr Frame.refl.stepClock

theorem thermalShutdown_reach : Answers (Frame .any s) (execThermalShutdown s) := by
  unfold execThermalShutdown
  split
  · exact answers_next.mpr .refl
  · refine answers_next.mpr (Frame.refl.any_of fun w => ?_)
    exact ⟨w.1, w.2.1, w.2.2.1, fun _ h => absurd h List.not_mem_nil, fun _ h => absurd h List.not_mem_nil⟩

/-! ## Translation -/

theorem Frame.stopped (h : Frame .any a s) {w : Wanted} {x : Stopped} : Frame .any a (s.stopped w x) := by
  unfold State.stopped
  dsimp only
  split
  · exact h.refuse
  · exact h.failContext

theorem Frame.makeRoom (h : Frame .any a s) {pages n : Nat} : Frame .any a (s.makeRoom pages n) := by
  induction n generalizing s with
  | zero => exact h
  | succ n ih =>
    unfold State.makeRoom
    split
    · exact h
    · split
      · exact h
      · exact ih h.fields

theorem Frame.served (h : Frame .any a s) {w : Wanted} {g : IcoGraph} {digest : BitVec 384} {e : Nat} : Frame .any a (s.served w g digest e) :=
  h.modCtx

theorem Frame.enterImage (h : Frame .any a s) {w : Wanted} {g : IcoGraph} {digest : BitVec 384} {im : Image} {pages : Nat} :
    Frame .any a (s.enterImage w g digest im pages) := by
  unfold State.enterImage
  dsimp only
  split
  · exact h.makeRoom.stopped
  · exact Frame.served (Frame.fields h.makeRoom)

theorem Frame.keepPlan (h : Frame .any a s) {key : PlanKey} {plan : Plan} : Frame .any a (s.keepPlan key plan) := by
  unfold State.keepPlan
  split
  · exact h
  · exact h.fields

theorem Frame.admitNative (h : Frame .any a s) {w : Wanted} {g : IcoGraph} {digest : BitVec 384} {c : LoadCode} {x : NativeHeader} :
    Frame .any a (s.admitNative w g digest c x) := h.keepPlan.enterImage

theorem Frame.translateLoad (h : Frame .any a s) {w : Wanted} {g : IcoGraph} {digest : BitVec 384} {c : LoadCode} :
    Frame .any a (s.translateLoad w g digest c) := by
  unfold State.translateLoad
  split
  · exact h.stopped
  · extract_lets key plan im
    split
    · split
      · exact h.keepPlan.stopped
      · exact h.keepPlan.enterImage
    · split
      · exact h
      · exact h.stopped

theorem Frame.makeImage (h : Frame .any a s) {w : Wanted} {g : IcoGraph} {digest : BitVec 384} {c : LoadCode} :
    Frame .any a (s.makeImage w g digest c) := by
  unfold State.makeImage
  split
  · exact h.stopped
  · split
    · exact h.admitNative
    · split
      · exact h.stopped
      · split
        · exact h.translateLoad
        · exact h.translateLoad

theorem Frame.translate (h : Frame .any a s) {w : Wanted} : Frame .any a (s.translate w) := by
  unfold State.translate
  split
  · exact h.stopped
  · split
    · exact h.stopped
    · split
      · exact h.stopped
      · split
        · exact h.served
        · split
          · exact h.served
          · exact h.makeImage

theorem translateLoad_reach : Answers (Frame .any s) (execTranslateLoad s) := by
  unfold execTranslateLoad
  split
  · exact answers_next.mpr Frame.refl.fields
  · split
    · exact answers_next.mpr .refl
    · refine answers_next.mpr (Frame.fields (Frame.translate ?_))
      unfold State.begun
      split
      · exact Frame.refl.modTask
      · exact .refl

/-! ## BINRUN -/

theorem BinRec.replay_wf {r : BinRec} {m : Memory} {base place : Nat} (h : m.wf) : (r.replay m base place).1.wf := by
  unfold BinRec.replay
  dsimp only
  split
  · exact h
  · exact Memory.wf_writePoison h _ _
  · exact Memory.wf_write h _ _

theorem replayAll_wf {base place : Nat} {rs : List BinRec} {m : Memory} {flags : FpFlags} (h : m.wf) :
    (replayAll base place rs m flags).1.wf := by
  induction rs generalizing m flags with
  | nil => exact h
  | cons r rest ih => exact ih (BinRec.replay_wf h)

theorem Frame.stageBin (h : Frame .any a s) {p : PlaneId} {ctx bin : Nat} {places : List (Nat × Nat × Nat)} {recs : List BinRec} :
    Frame .any a (s.stageBin p ctx bin places recs) :=
  Frame.modPlane (h.setStore fun w => replayAll_wf (Memory.wf_foldl _ (fun _ _ hm => Memory.wf_copyFrom hm _ _ _ _) _ w))

theorem Frame.writeBack (h : Frame .any a s) {ctx bin : Nat} {places : List (Nat × Nat × Nat)} {left : List BinRec} :
    Frame .any a (s.writeBack ctx bin places left) :=
  Frame.mapPlanes (Frame.modCtx (h.setDram fun w => Memory.wf_foldl _ (fun _ _ hm => Memory.wf_copyFrom hm _ _ _ _) _ w)) fun _ => rfl

theorem Frame.binWork (h : Frame .any a s) {p : PlaneId} {ctx : Nat} {w : BinWork} : Frame .any a (s.binWork p ctx w) := by
  cases w with
  | nothing => exact h
  | stage bin places recs => exact h.stageBin
  | back bin places left => exact h.writeBack

theorem binrun_reach {g : GArgs} : Answers (Frame .any s) (fireBinrun s g) := by
  have hf : Answers (Frame .any s) (fireMem s g (.binrun g) fun x => (ruleBinrun x).1) := Frame.refl.fireMem (by decide)
  unfold fireBinrun
  split
  · next s' p i pl n hs hc =>
    have h1 : Frame .any s s' := hf s' hs
    dsimp only
    split
    · exact answers_next.mpr h1
    · exact answers_next.mpr h1.binWork
  · exact hf

end Sys2Proof.Machine
end

