-- ==== Sys2Proof/Proofs/StepsKeepMemories.lean ====
section
/-! PROOF. Every step keeps every memory in canonical form (O4), and no step of a node or a task touches a byte of memory (O8): what each
instruction reaches, by one case for each of the ways in which instructions move. -/

namespace Sys2Proof

/-- An instruction with an encoding, in graph or in task form. -/
def Instr.fetchable (i : Instr) : Bool := i.gargs.isSome || (encodeTask i).isSome

/-- An instruction that a node or a task-mode PE may run, but for TRAPACK and BINRUN. -/
def Instr.quiet : Instr → Bool
  | .trapack _ | .binrun _ => false
  | i => i.fetchable

end Sys2Proof

namespace Sys2Proof.Machine

variable {k : Reach} {a s t : State}

/-! ## What a word holds -/

/-- A property of every row of a table that is looked up by testing a number. -/
theorem of_rows {α : Type} {P : α → Prop} {n m : Nat} {x : n = m → α} {y : ¬ n = m → α} (hx : ∀ h, P (x h)) (hy : ∀ h, P (y h)) :
    P (dite (n = m) x y) := by
  split
  · exact hx _
  · exact hy _

/-- What a row of the table of graph opcodes makes, if anything, has its fields. -/
def Makes (r : Option (GArgs → Instr)) : Prop := ∀ mk, r = some mk → ∀ g, (mk g).gargs = some g

theorem makes_some {mk : GArgs → Instr} (h : ∀ g, (mk g).gargs = some g) : Makes (some mk) := fun _ e => by cases e; exact h

set_option linter.auxLemma false in
theorem makes_graphOp (op : Nat) (q : Bool) : Makes (graphOp op q) := by
  unfold graphOp
  delta graphOp.match_1
  iterate 148
    refine of_rows (P := Makes) (fun h => ?_) fun _ => ?_
    · subst h; exact makes_some fun _ => rfl
  iterate 2
    refine of_rows (P := Makes) (fun h => ?_) fun _ => ?_
    · subst h
      cases q <;> exact makes_some fun _ => rfl
  exact fun _ e => by cases e

theorem fetchable_of_decodeGraph {w : W64} {i : Instr} (h : decodeGraph w = .ok i) : i.fetchable = true := by
  unfold decodeGraph at h
  split at h
  · cases h
  · next mk hmk =>
    split at h
    · cases h
    · split at h
      · cases h
      · cases h
      · cases h
        simp [Instr.fetchable, makes_graphOp _ _ _ hmk]

/-- What a decoder answers, if anything, has an encoding. -/
def Fetches (r : Except Reject Instr) : Prop := ∀ i, r = .ok i → i.fetchable = true

theorem fetches_ok {i : Instr} (h : i.fetchable = true) : Fetches (.ok i) := fun _ e => by cases e; exact h

theorem fetches_error {r : Reject} : Fetches (.error r) := fun _ e => by cases e

theorem fetches_ite {c : Prop} [Decidable c] {x y : Except Reject Instr} (hx : Fetches x) (hy : Fetches y) : Fetches (if c then x else y) := by
  split <;> assumption

theorem fetches_clearOr {w : W32} {lo n : Nat} {r : Reject} {x : Except Reject Instr} (h : Fetches x) : Fetches (clearOr w lo n r x) :=
  fetches_ite h fetches_error

theorem fetches_intTask {r m} {w : W32} (hr : ∀ d a b n, (r d a b n).fetchable = true) (hm : ∀ d a n x, (m d a n x).fetchable = true) :
    Fetches (intTask r m w) :=
  fetches_ite (fetches_clearOr (fetches_ok (hm ..))) (fetches_clearOr (fetches_clearOr (fetches_ok (hr ..))))

theorem fetches_fltTask {r m} {w : W32} (hr : ∀ d a b n, (r d a b n).fetchable = true) (hm : ∀ d a n x, (m d a n x).fetchable = true) :
    Fetches (fltTask r m w) :=
  fetches_ite (fetches_clearOr (fetches_ok (hm ..))) (fetches_clearOr (fetches_clearOr (fetches_ok (hr ..))))

theorem fetches_fltTask0 {r m} {w : W32} (hr : ∀ d a b, (r d a b).fetchable = true) (hm : ∀ d a x, (m d a x).fetchable = true) :
    Fetches (fltTask0 r m w) :=
  fetches_ite (fetches_clearOr (fetches_clearOr (fetches_ok (hm ..))))
    (fetches_clearOr (fetches_clearOr (fetches_clearOr (fetches_ok (hr ..)))))

set_option linter.auxLemma false in
theorem fetches_decodeTask (w : W32) : Fetches (decodeTask w) := by
  unfold decodeTask
  generalize (w.extractLsb' 25 7).toNat = op
  delta decodeTask.match_1
  iterate 28
    refine of_rows (P := Fetches) (fun h => ?_) fun _ => ?_
    · subst h; exact fetches_intTask (fun _ _ _ _ => rfl) fun _ _ _ _ => rfl
  iterate 1
    refine of_rows (P := Fetches) (fun h => ?_) fun _ => ?_
    · subst h; exact fetches_ite (fetches_ok rfl) (fetches_clearOr (fetches_ok rfl))
  iterate 1
    refine of_rows (P := Fetches) (fun h => ?_) fun _ => ?_
    · subst h; exact fetches_intTask (fun _ _ _ _ => rfl) fun _ _ _ _ => rfl
  iterate 4
    refine of_rows (P := Fetches) (fun h => ?_) fun _ => ?_
    · subst h; exact fetches_fltTask (fun _ _ _ _ => rfl) fun _ _ _ _ => rfl
  iterate 2
    refine of_rows (P := Fetches) (fun h => ?_) fun _ => ?_
    · subst h; exact fetches_fltTask0 (fun _ _ _ => rfl) fun _ _ _ => rfl
  iterate 1
    refine of_rows (P := Fetches) (fun h => ?_) fun _ => ?_
    · subst h; exact fetches_fltTask (fun _ _ _ _ => rfl) fun _ _ _ _ => rfl
  iterate 1
    refine of_rows (P := Fetches) (fun h => ?_) fun _ => ?_
    · subst h; exact fetches_clearOr (fetches_clearOr (fetches_ok rfl))
  iterate 2
    refine of_rows (P := Fetches) (fun h => ?_) fun _ => ?_
    · subst h; exact fetches_clearOr (fetches_ok rfl)
  iterate 2
    refine of_rows (P := Fetches) (fun h => ?_) fun _ => ?_
    · subst h; exact fetches_clearOr (fetches_clearOr (fetches_ok rfl))
  iterate 1
    refine of_rows (P := Fetches) (fun h => ?_) fun _ => ?_
    · subst h; exact fetches_clearOr (fetches_ok rfl)
  iterate 1
    refine of_rows (P := Fetches) (fun h => ?_) fun _ => ?_
    · subst h; exact fetches_clearOr (fetches_clearOr (fetches_ok rfl))
  iterate 1
    refine of_rows (P := Fetches) (fun h => ?_) fun _ => ?_
    · subst h; exact fetches_ite (fetches_ok rfl) fetches_error
  iterate 1
    refine of_rows (P := Fetches) (fun h => ?_) fun _ => ?_
    · subst h; exact fetches_clearOr (fetches_ok rfl)
  iterate 2
    refine of_rows (P := Fetches) (fun h => ?_) fun _ => ?_
    · subst h; exact fetches_clearOr (fetches_clearOr (fetches_ok rfl))
  iterate 2
    refine of_rows (P := Fetches) (fun h => ?_) fun _ => ?_
    · subst h; exact fetches_clearOr (fetches_ok rfl)
  iterate 1
    refine of_rows (P := Fetches) (fun h => ?_) fun _ => ?_
    · subst h; exact fetches_ok rfl
  iterate 2
    refine of_rows (P := Fetches) (fun h => ?_) fun _ => ?_
    · subst h; exact fetches_clearOr (fetches_clearOr (fetches_ok rfl))
  iterate 1
    refine of_rows (P := Fetches) (fun h => ?_) fun _ => ?_
    · subst h; exact fetches_clearOr (fetches_ok (by split <;> rfl))
  iterate 1
    refine of_rows (P := Fetches) (fun h => ?_) fun _ => ?_
    · subst h; exact fetches_clearOr (fetches_clearOr (fetches_ok rfl))
  exact fetches_error

/-! ## What an instruction reaches -/

theorem answers_of_any (h : Frame k a s) (hk : k = .any ∨ false = true) {r : Result} (hr : Answers (Frame .any s) r) : Answers (Frame k a) r := by
  cases hk.resolve_right Bool.false_ne_true
  exact fun t e => h.trans (hr t e)

theorem exec_reach (h : Frame k a s) (hk : k ≠ .home) {i : Instr} (hq : k = .any ∨ i.quiet = true) : Answers (Frame k a) (exec i s) := by
  unfold exec
  cases i with
  | add | sub | mul | mulhi | mad | div | rem | neg | abs | min | max | addsat | subsat | and | or | xor | andn | not | shl | shr | sar |
    rol | clz | ctz | popc | brev | bfx | bfi | cmp | sel | fadd | fsub | fmul | fma | fms | fnma | fmin | fmax | fminm | fmaxm | fabs |
    fneg | fcpys | fcmp | fclass | frnd | fscale | rcp | rsq | sqrt | fdiv | exp2 | log2 | sinpi | cospi | tanh | sigm | cvt | pack | unpk
    | mov | const | consth | sxt | trap => exact h.firePe
  | fmin1 | waitc => exact h.firePeFor
  | steer | merge | carry | invar | fork | sink | gate | count | mark | mstrip | mlift | mtest | zip | ord | join | bar | call | entry |
    exit | filt | cmpct | lstat | twait | sysrd | rdtime | budrd | tconv => exact h.fireRouter
  | pat | red | redx | scan | traprd => exact h.fireOnce
  | drain => exact h.execDrain
  | ld | st | ldfe | stfe | feclr | feset | fetest | scat | aadd | amin | amax | aand | aor | axor | axchg | acas | aincb | afadd | aminp
    | ard | sld | sst | gath | scatx | binadd | rangeInit | rangePull | pref | spld | fence => exact h.fireMem hk
  | ldv => exact h.fireMemAs hk
  | agen => exact h.fireAgen hk
  | lbwin => exact h.fireLbwin hk
  | taskAddReg | taskAddImm | taskSubReg | taskSubImm | taskMulReg | taskMulImm | taskMulhiReg | taskMulhiImm | taskMadReg | taskMadImm |
    taskDivReg | taskDivImm | taskRemReg | taskRemImm | taskNegReg | taskNegImm | taskAbsReg | taskAbsImm | taskMinReg | taskMinImm |
    taskMaxReg | taskMaxImm | taskAddsatReg | taskAddsatImm | taskSubsatReg | taskSubsatImm | taskAndReg | taskAndImm | taskOrReg |
    taskOrImm | taskXorReg | taskXorImm | taskAndnReg | taskAndnImm | taskNotReg | taskNotImm | taskShlReg | taskShlImm | taskShrReg |
    taskShrImm | taskSarReg | taskSarImm | taskRolReg | taskRolImm | taskClzReg | taskClzImm | taskCtzReg | taskCtzImm | taskPopcReg |
    taskPopcImm | taskBrevReg | taskBrevImm | taskBfxReg | taskBfxImm | taskBfiReg | taskBfiImm | taskCmpReg | taskCmpImm | taskSelReg |
    taskSelImm | taskFaddReg | taskFaddImm | taskFsubReg | taskFsubImm | taskFmulReg | taskFmulImm | taskFmaReg | taskFmaImm | taskFminReg
    | taskFminImm | taskFmaxReg | taskFmaxImm | taskFcmpReg | taskFcmpImm | taskCvt | taskRecv | taskPeek | taskSend | taskSendm |
    taskLdreq | taskStreq | taskAreq | taskBr | taskBrc | taskRep | taskEnd | taskSeti | taskLui | taskEmita | taskEmitb | taskSplitDec |
    taskSplitEnc | taskTrap => exact h.runTask
  | cpy | cpym => exact h.fireCopy
  | kturn => exact h.execKturn hk
  | spawn => exact h.execSpawn
  | done => exact h.execDone
  | syswr => exact h.execSyswr
  | mxcfg | mxcfgTile | tscfg => exact answers_next.mpr h
  | mxa | mxb => exact h.fireFeed
  | mxsc => exact h.fireScale
  | mxop => exact h.fireEngine
  | accrd => exact h.fireReader
  | accclr => exact h.fireClear
  | accld => exact h.fireLoad
  | mxtile => exact h.execMxtile
  | trapack => exact answers_of_any h hq trapack_reach
  | binrun => exact answers_of_any h hq binrun_reach
  | launchV2 | launchV1 => exact answers_of_any h hq launch_reach
  | registerWrite | tackFlush | tlbInvStart | fpflagsClear | binctlWrite | saveareaWrite | actBudgetWrite | dieTimeOffsetWrite |
    dieTimeRateWrite => exact answers_of_any h hq writeReg_reach
  | powerOn => exact answers_of_any h hq powerOn_reach
  | hostLinkUp => exact answers_of_any h hq hostLinkUp_reach
  | spdmRequest => exact answers_of_any h hq spdmRequest_reach
  | tlbInvDone => exact answers_of_any h hq tlbInvDone_reach
  | fwActivate => exact answers_of_any h hq fwActivate_reach
  | fwRecovery => exact answers_of_any h hq fwRecovery_reach
  | fwActivation => exact answers_of_any h hq fwActivation_reach
  | ctxMakeLive => exact answers_of_any h hq ctxMakeLive_reach
  | ctxMakeOff => exact answers_of_any h hq ctxMakeOff_reach
  | ctxClearFailed => exact answers_of_any h hq ctxClearFailed_reach
  | scanDataRead => exact answers_of_any h hq scanDataRead_reach
  | bufferedLaunchEnter => exact answers_of_any h hq bufferedLaunchEnter_reach
  | taskAgeing => exact answers_of_any h hq taskAgeing_reach
  | bindTask => exact answers_of_any h hq bindTask_reach
  | translateLoad => exact answers_of_any h hq translateLoad_reach
  | configComplete => exact answers_of_any h hq configComplete_reach
  | frameBoundary => exact answers_of_any h hq frameBoundary_reach
  | planeLevelAgeing => exact answers_of_any h hq planeLevelAgeing_reach
  | peUrgent => exact answers_of_any h hq peUrgent_reach
  | firingComplete => exact answers_of_any h hq firingComplete_reach
  | activationStart => exact answers_of_any h hq activationStart_reach
  | homePerform => exact answers_of_any h hq homePerform_reach
  | memoryReply => exact answers_of_any h hq memoryReply_reach
  | roundMarkerArrival => exact answers_of_any h hq roundMarkerArrival_reach
  | tableWalk => exact answers_of_any h hq tableWalk_reach
  | requestSlotFree => exact answers_of_any h hq requestSlotFree_reach
  | copyRun => exact answers_of_any h hq copyRun_reach
  | copyTimeout => exact answers_of_any h hq copyTimeout_reach
  | slotReturn => exact answers_of_any h hq slotReturn_reach
  | mfeTensorStart => exact answers_of_any h hq mfeTensorStart_reach
  | mfeBoundary => exact answers_of_any h hq mfeBoundary_reach
  | planeFreeze => exact answers_of_any h hq planeFreeze_reach
  | trapRecordWrite => exact answers_of_any h hq trapRecordWrite_reach
  | watchdogExpiry => exact answers_of_any h hq watchdogExpiry_reach
  | memoryTimeout => exact answers_of_any h hq memoryTimeout_reach
  | planeFree => exact answers_of_any h hq planeFree_reach
  | abandonedPlaneFree => exact answers_of_any h hq abandonedPlaneFree_reach
  | contextTeardownDone => exact answers_of_any h hq contextTeardownDone_reach
  | saveStart => exact answers_of_any h hq saveStart_reach
  | saveCommit => exact answers_of_any h hq saveCommit_reach
  | planeWordEccError => exact answers_of_any h hq planeWordEccError_reach
  | scrubCheck => exact answers_of_any h hq scrubCheck_reach
  | planeReloadDone => exact answers_of_any h hq planeReloadDone_reach
  | stateEccError => exact answers_of_any h hq stateEccError_reach
  | sramEccError => exact answers_of_any h hq sramEccError_reach
  | edgeTurnPoint => exact answers_of_any h hq edgeTurnPoint_reach
  | turnComplete => exact answers_of_any h hq turnComplete_reach
  | flitheDataFrame => exact answers_of_any h hq flitheDataFrame_reach
  | flitheAckFrame => exact answers_of_any h hq flitheAckFrame_reach
  | flitheResetFrame => exact answers_of_any h hq flitheResetFrame_reach
  | flitheResendTimeout => exact answers_of_any h hq flitheResendTimeout_reach
  | flitheAckTimer => exact answers_of_any h hq flitheAckTimer_reach
  | flitheLinkUp => exact answers_of_any h hq flitheLinkUp_reach
  | flitheResetRepeat => exact answers_of_any h hq flitheResetRepeat_reach
  | hostSnoop => exact answers_of_any h hq hostSnoop_reach
  | hostMemoryAccess => exact answers_of_any h hq hostMemoryAccess_reach
  | clockStepDown => exact answers_of_any h hq clockStepDown_reach
  | clockStepUp => exact answers_of_any h hq clockStepUp_reach
  | thermalShutdown => exact answers_of_any h hq thermalShutdown_reach
  | systemCacheCopyUpdate => exact answers_of_any h hq systemCacheCopyUpdate_reach

/-! ## The agenda -/

theorem Paddock.pass_sameTiles (s : State) (i : Nat) (d : Paddock) (n : Nat) : d.sameTiles (s.passPaddock i d n) := by
  have pass (x : Plane × Nat) (en : Nat → BitVec 8) (large granted : Bool) :
      (((s.watch ⟨i, x.2⟩ x.1 n).wait en s.cycle large granted n).resume.ripen (s.cycle + n)).tileSpace = x.1.tileSpace := by
    have hwatch : (s.watch ⟨i, x.2⟩ x.1 n).tileSpace = x.1.tileSpace := by
      unfold State.watch
      split
      · split <;> rfl
      · rfl
    have hwait (pl : Plane) : (pl.wait en s.cycle large granted n).tileSpace = pl.tileSpace := by
      unfold Plane.wait
      split <;> rfl
    have hresume (pl : Plane) : pl.resume.tileSpace = pl.tileSpace := by
      unfold Plane.resume
      split <;> rfl
    exact (hresume _).trans ((hwait _).trans hwatch)
  unfold Paddock.sameTiles State.passPaddock
  dsimp only
  calc _ = d.planes.zipIdx.map (Plane.tileSpace ∘ Prod.fst) := by
        rw [List.map_map]
        exact List.map_congr_left fun x _ => pass x _ _ _
    _ = d.planes.map Plane.tileSpace := by rw [← List.map_map, List.zipIdx_map_fst]

theorem Frame.passCycles (h : Frame .any a s) {n : Nat} : Frame .any a (passCycles s n) := by
  unfold Machine.passCycles
  dsimp only
  split
  · exact h
  · exact Frame.mapPads (s := s.advance _) (g := fun i d => s.passPaddock i d _) h.anyFields fun i d => Paddock.pass_sameTiles s i d _

theorem Plane.tileSpace_ite {c : Prop} [Decidable c] {x y pl : Plane} (hx : x.tileSpace = pl.tileSpace) (hy : y.tileSpace = pl.tileSpace) :
    (if c then x else y).tileSpace = pl.tileSpace := by
  split <;> assumption

theorem Frame.moveTrack (h : Frame .any a s) {p : PlaneId} {d : Dest} {i : Nat} : Frame .any a (s.moveTrack p d i) := by
  unfold State.moveTrack
  split
  · exact h
  · split
    · exact h
    · split
      · exact h
      · dsimp only
        split
        · exact h.grantCycle
        · exact h.grantCycle.modPlane fun pl => Plane.tileSpace_ite (Plane.modDest_tileSpace pl d _) rfl

theorem Frame.hostMarks (h : Frame .any a s) {x : Nat} {bad : Bool} : Frame .any a (hostMarks s x bad) := by
  refine Frame.hostWritten (h.putHost fun w => ?_)
  split
  · exact Memory.wf_writePoison w _ _
  · exact ⟨w.1, w.2.1, w.2.2.filter _⟩

theorem runWord_reach {r : Except Reject Instr} {w : Nat} : Answers (Frame .any s) (runWord r w s) := by
  unfold runWord
  split
  · exact exec_reach .refl (by decide) (.inl rfl)
  · exact fun _ e => by cases e

theorem step_reach : Answers (Frame .any s) (step s) := by
  have moved {rest : List Agenda} {c : Cursor} {x : Stimulus} : Frame .any s { s with agenda := rest, cursor := c, arg := x } :=
    Frame.refl.fields
  have run {t : State} (h : Frame .any s t) {r : Result} (hr : Answers (Frame .any t) r) : Answers (Frame .any s) r :=
    fun u e => h.trans (hr u e)
  unfold step
  split
  · exact answers_next.mpr Frame.refl.passCycles
  · exact answers_next.mpr (Frame.passCycles Frame.refl.fields)
  · exact answers_next.mpr (Frame.writeHost Frame.refl.fields (by decide))
  · exact answers_next.mpr (Frame.hostMarks Frame.refl.fields)
  · exact answers_next.mpr (Frame.moveTrack Frame.refl.fields)
  · exact run moved (exec_reach .refl (by decide) (.inl rfl))
  · dsimp only
    split
    · exact answers_next.mpr Frame.refl.fields
    · exact run Frame.refl.fields runWord_reach
  · dsimp only
    split
    · exact answers_next.mpr Frame.refl.fields
    · exact run Frame.refl.fields runWord_reach

end Sys2Proof.Machine

namespace Sys2Proof.Proofs

open Sys2Proof.Machine Sys2Proof.Claims

theorem quiet_of_fetched {i : Instr} (h : fetched i) (ht : ∀ g, i ≠ .trapack g) (hb : ∀ g, i ≠ .binrun g) : i.quiet = true := by
  have hf : i.fetchable = true := by
    obtain ⟨w, h⟩ | ⟨w, h⟩ := h
    · exact fetchable_of_decodeGraph h
    · exact fetches_decodeTask w i h
  unfold Instr.quiet
  split
  · exact absurd rfl (ht _)
  · exact absurd rfl (hb _)
  · exact hf

/-- Settles O8: each instruction moves in one of the ways that were followed, and none of these reaches a byte. -/
theorem nodesLeaveMemory : Obligations.NodesLeaveMemory := by
  intro i s t hi ht hb he
  have h : Frame .node s t := exec_reach .refl (by decide) (.inr (quiet_of_fetched hi ht hb)) t he
  have hk : Reach.node ≠ .any := by decide
  obtain ⟨hdram, hstore⟩ := h.memory hk
  obtain ⟨hcycle, hfirmware, hlink⟩ := h.device hk
  obtain ⟨hhbm, hlp⟩ := h.slots rfl
  refine ⟨hdram, hstore, hcycle, hfirmware, hlink, hhbm, hlp, h.ring hk, fun q ql hq => ?_⟩
  obtain ⟨qr, hr, e⟩ := h.planes hk q ql hq
  simp only [Plane.tileSpace, Prod.mk.injEq] at e
  obtain ⟨hsram, hfull, hfifos, htiles, hctx, hcolour⟩ := e
  exact ⟨qr, hr, hsram, hfull, hfifos, htiles, hctx, hcolour⟩

/-- Settles O4: what a step reaches, whichever it is, keeps every memory in canonical form. -/
theorem stepsKeepMemories : Obligations.StepsKeepMemories := fun _ t hw ht => (step_reach t ht).wf hw

end Sys2Proof.Proofs
end

