-- ==== Sys2Proof/Proofs/MemoryRules.lean ====
section
/-! What the rule of an instruction of one access answers (R38, R39, R273, R276, R287): it makes its access where its operands
are ready, sends markers and poison in turn, or faults. Three shapes of rule give the 22 entries of the table. -/

namespace Sys2Proof.Claims

open Sys2Proof.Machine

/-! ## What a table entry asks of a rule -/

/-- What a firing at a site reads, its fields as the access takes them. -/
def MemOp.sees (c : MemOp) (x : Site) : View := { x.v with g := c.seen x.pl x.n x.v.g }

/-- The site's own fields in a record of a fault. -/
def MemOp.info (c : MemOp) (x : Site) (cause : Nat) (access : Nat := 0) (va : W64 := 0#64) : FaultInfo :=
  memInfo (c.sees x) (c.ops x.v.g) cause access va

/-- The request that leaves a site. -/
def MemOp.leaves (c : MemOp) (x : Site) (loc : Nat) : Request := c.request x.s x.i x.pl x.n (c.sees x) loc

/-- The access that a site makes once its probe has passed; no round holds one that a peer answers. -/
def MemOp.made (c : MemOp) (x : Site) (loc : Nat) : MemFiring :=
  if x.v.g.space = 5 then
    .peer (c.effect x.v.g) { c.leaves x loc with round := 0, takes := takeOne (c.ops x.v.g), data := 1, counted := true }
  else .go (c.effect x.v.g) [c.leaves x loc]

/-- The probe of a site's access, and what follows it. -/
def MemOp.attempt (c : MemOp) (x : Site) : MemFiring :=
  x.probing (c.ask x.n (c.sees x)) (c.info x 0 c.access (c.sees x).addr) (c.made x)

/-- The heads that stand at a site's operands. -/
def MemOp.Finds (c : MemOp) (x : Site) (hs : List Token) : Prop := (c.ops x.v.g).map x.v.head = hs.map some

/-- The heads at the address operands. -/
def addrHeads (x : Site) (hs : List Token) : List Token := hs.take (addrOps x.v.g).length

/-- The outcome of a rule at a site is the one that the entry states. -/
structure MemOp.Follows (c : MemOp) (x : Site) (f : MemFiring) : Prop where
  attempts : c.readyFor (c.sees x) → f = c.attempt x
  refuses  : ∀ hs, c.Finds x hs → c.any = true → (addrHeads x hs).any Token.isMarker = true → f = .fault (c.info x 0x51)
  joins    : ∀ hs m, c.Finds x hs → c.any = false → hs.all Token.isMarker = true → joinMarkers hs = some m →
    (c.rnd x.v.g = false ∨ m.level < 4) →
    f = .go { takes := takeOne (c.ops x.v.g) } [inTurn x.s x.i x.n (markerOut (c.returns (c.sees x)) m)]
  outOfRound : ∀ hs m, c.Finds x hs → c.any = false → hs.all Token.isMarker = true → joinMarkers hs = some m →
    c.rnd x.v.g = true → 4 ≤ m.level → m.round ≠ x.n.round → f = .fault (c.info x 0x51)
  closes   : ∀ hs m, c.Finds x hs → c.any = false → hs.all Token.isMarker = true → joinMarkers hs = some m →
    c.rnd x.v.g = true → 4 ≤ m.level → m.round = x.n.round →
    c.dep = false ∧ f = .go { takes := takeOne (c.ops x.v.g), round := some (x.n.round + 1#8) }
      [{ inTurn x.s x.i x.n (markerOut (c.returns (c.sees x)) m) with
          acc := .close m (markerOut (c.returns (c.sees x)) m), round := x.n.rounds + 1, iter := some [(c.sees x).e]
          opv := some ([Operand.a, .b, .c].map ((c.sees x).recorded (c.ops x.v.g))) }]
  clashes  : ∀ hs, c.Finds x hs → c.any = false → hs.any Token.isMarker = true →
    (hs.all Token.isMarker = false ∨ joinMarkers hs = none) → f = .fault (c.info x 0x51)
  passes   : ∀ hs q, c.Finds x hs → (c.any = true ∨ hs.any Token.isMarker = false) → c.value = true →
    hs.find? Token.isPoison = some q → x.v.trapen.getLsbD 7 = false →
    f = .go { takes := takeOne (c.ops x.v.g), data := if (x.v.a.map Token.isData).getD false then 1 else 0, counted := true }
      [inTurn x.s x.i x.n [(0, q), (1, q)]]
  traps    : ∀ hs, c.Finds x hs → (addrHeads x hs).any Token.isMarker = false → (c.any = true ∨ hs.any Token.isMarker = false) →
    (c.value = true ∧ hs.any Token.isPoison = true ∧ x.v.trapen.getLsbD 7 = true ∨
      c.value = false ∧ ((addrHeads x hs).any Token.isPoison = true ∨
        c.any = false ∧ hs.any Token.isPoison = true ∧ x.v.trapen.getLsbD 7 = true)) → f = .fault (c.info x 0x30)

/-! ## Heads -/

section Heads
variable {v : View} {ops : List Operand} {hs : List Token}

/-- Operands at each of which a token stands have heads. -/
theorem heads_of_forall {P : Token → Prop} : ∀ {ops : List Operand}, (∀ o ∈ ops, ∃ t, v.head o = some t ∧ P t) →
    ∃ hs : List Token, ops.map v.head = hs.map some ∧ ∀ t ∈ hs, P t
  | [], _ => ⟨[], rfl, by simp⟩
  | o :: os, h => by
    obtain ⟨t, ht, hp⟩ := h o (by simp)
    obtain ⟨hs, hm, hq⟩ := heads_of_forall fun o ho => h o (List.mem_cons_of_mem _ ho)
    exact ⟨t :: hs, by simp [ht, hm], by simpa [hp] using hq⟩

/-- Operands at each of which data stands have heads of data. -/
theorem data_heads (h : ∀ o ∈ ops, ∃ y, v.head o = some (.data y)) :
    ∃ hs : List Token, ops.map v.head = hs.map some ∧ ∀ t ∈ hs, ∃ y, t = .data y :=
  heads_of_forall fun o ho => (h o ho).elim fun y hy => ⟨_, hy, y, rfl⟩

theorem addrOps_contains_a (g : GArgs) : .a ∈ addrOps g := by
  unfold addrOps
  split <;> simp

/-- The address operands stand first: their heads and those of the others. -/
theorem heads_split {ws : List Operand} (h : (ops ++ ws).map v.head = hs.map some) :
    ∃ as ts, hs = as ++ ts ∧ ops.map v.head = as.map some ∧ ws.map v.head = ts.map some ∧ hs.take ops.length = as := by
  rw [List.map_append] at h
  obtain ⟨as, ts, rfl, ha, ht⟩ := List.append_eq_map_iff.1 h
  refine ⟨as, ts, rfl, ha.symm, ht.symm, ?_⟩
  have hl : as.length = ops.length := by simpa using congrArg List.length ha
  rw [← hl, List.take_left]

end Heads

/-- A marker is no poison, and data is neither. -/
theorem isPoison_of_isMarker {t : Token} (h : t.isMarker = true) : t.isPoison = false := by
  cases t <;> simp_all [Token.isMarker, Token.isPoison]

theorem no_marker_of_data {hs : List Token} (h : ∀ t ∈ hs, ∃ y, t = .data y) : hs.any Token.isMarker = false := by
  simp only [List.any_eq_false]
  intro t ht
  obtain ⟨y, rfl⟩ := h t ht
  simp [Token.isMarker]

theorem no_poison_of_data {hs : List Token} (h : ∀ t ∈ hs, ∃ y, t = .data y) : hs.any Token.isPoison = false := by
  simp only [List.any_eq_false]
  intro t ht
  obtain ⟨y, rfl⟩ := h t ht
  simp [Token.isPoison]

/-! ## The access itself -/

section Access
variable {c : MemOp} {x : Site}

/-- The fields of the word that every access reads alike. -/
structure MemOp.Reads (c : MemOp) (x : Site) : Prop where
  imm   : (c.sees x).g.imm = x.v.g.imm
  space : (c.sees x).g.space = x.v.g.space
  rnd   : c.rnd (c.sees x).g = c.rnd x.v.g

theorem MemOp.Reads.addrOps_eq (h : c.Reads x) : addrOps (c.sees x).g = addrOps x.v.g := by
  simp only [addrOps, h.imm]

/-- The heads of a firing that is ready: data at the address, and at the others what may be accessed with. -/
theorem MemOp.Reads.ready_heads (h : c.Reads x) (hr : c.readyFor (c.sees x)) : ∃ as ts : List Token,
    (addrOps x.v.g).map x.v.head = as.map some ∧ c.vals.map x.v.head = ts.map some ∧ (∀ t ∈ as, ∃ y, t = .data y) ∧
      ∀ t ∈ ts, c.any = true ∨ (t.isMarker = false ∧ (t.isPoison = true → x.v.trapen.getLsbD 7 = false)) := by
  obtain ⟨ha, hv⟩ := hr
  rw [h.addrOps_eq] at ha
  obtain ⟨as, hma, hpa⟩ := data_heads (v := x.v) ha
  obtain ⟨ts, hmt, hpt⟩ := heads_of_forall (v := x.v) hv
  exact ⟨as, ts, hma, hmt, hpa, hpt⟩

theorem dataOn_of_data {g : GArgs} {ws : List Operand} {v : View} {as : List Token} (hm : (addrOps g).map v.head = as.map some)
    (h : ∀ t ∈ as, ∃ y, t = .data y) : v.dataOn (addrOps g ++ ws) = 1 := by
  obtain ⟨t, ht, hv⟩ : ∃ t ∈ as, v.head .a = some t := by
    have := List.mem_map_of_mem (f := v.head) (addrOps_contains_a g)
    rw [hm] at this
    obtain ⟨t, ht, he⟩ := List.mem_map.1 this
    exact ⟨t, ht, he.symm⟩
  obtain ⟨y, rfl⟩ := h t ht
  have ha : v.a = some (.data y) := hv
  simp [View.dataOn, addrOps_contains_a, ha, Token.isData]

/-- What a firing takes whose address is data. -/
theorem taking_eq_effect {as : List Token} (hm : (addrOps x.v.g).map x.v.head = as.map some)
    (h : ∀ t ∈ as, ∃ y, t = .data y) : x.taking (c.ops x.v.g) = c.effect x.v.g := by
  simp only [Site.taking, MemOp.effect, MemOp.ops, dataOn_of_data hm h]

/-- An entry whose instruction reads its fields as they stand, and which no round counts. -/
structure MemOp.Plain (c : MemOp) (x : Site) : Prop where
  sees : c.sees x = x.v
  rnd  : c.rnd x.v.g = false

theorem MemOp.Plain.reads (h : c.Plain x) : c.Reads x := by
  constructor <;> rw [h.sees]

/-- The question of a shape's probe is the entry's. -/
structure MemOp.Asks (c : MemOp) (x : Site) (q : Ask) : Prop where
  ask    : { q with cluster := some x.n.cluster } = c.ask x.n (c.sees x)
  access : accessKind q.kind = c.access

theorem issue_eq_made (h : c.Plain x) (loc : Nat) :
    x.issue (c.ask x.n x.v) (c.info x 0 c.access x.v.addr) (c.effect x.v.g) (c.acc x.v) loc = c.made x loc := by
  unfold Site.issue MemOp.made MemOp.leaves MemOp.request MemOp.info
  rw [h.sees, h.rnd]
  rfl

/-- The two common shapes make the entry's access once they have their operands. -/
theorem probing_eq_attempt (h : c.Plain x) {q : Ask} (hq : c.Asks x q) {as : List Token}
    (hm : (addrOps x.v.g).map x.v.head = as.map some) (hd : ∀ t ∈ as, ∃ y, t = .data y) :
    x.probing q (x.info (c.ops x.v.g) 0 (accessKind q.kind) q.va) (x.issue q (x.info (c.ops x.v.g) 0 (accessKind q.kind) q.va)
      (x.taking (c.ops x.v.g)) (c.acc x.v)) = c.attempt x := by
  have hv : q.va = x.v.addr := by
    have := congrArg Ask.va hq.ask
    rwa [h.sees] at this
  have hk : x.issue (c.ask x.n x.v) (c.info x 0 c.access x.v.addr) (c.effect x.v.g) (c.acc x.v) = c.made x :=
    funext (issue_eq_made h)
  have ha := hq.ask
  rw [h.sees] at ha
  have hi : x.info (c.ops x.v.g) 0 c.access x.v.addr = c.info x 0 c.access x.v.addr := by
    simp only [MemOp.info, h.sees]
    rfl
  rw [MemOp.attempt, ← hk, hq.access, hv, taking_eq_effect hm hd, hi, h.sees, ← ha]
  rfl

/-! ## Markers -/

theorem any_marker_of_all {v : View} {ops : List Operand} {hs : List Token} (ha : .a ∈ ops) (hf : ops.map v.head = hs.map some)
    (h : hs.all Token.isMarker = true) : hs.any Token.isMarker = true := by
  cases hs with
  | nil => exact absurd (List.map_eq_nil_iff.1 hf) (List.ne_nil_of_mem ha)
  | cons t ts => simp_all

theorem any_of_all_marker {hs : List Token} (hf : c.Finds x hs) (h : hs.all Token.isMarker = true) : hs.any Token.isMarker = true :=
  any_marker_of_all (List.mem_append_left _ (addrOps_contains_a _)) hf h

theorem markers_join_out {ops : List Operand} {hs : List Token} {sink : Bool} {m : Token} (h : hs.all Token.isMarker = true)
    (hj : joinMarkers hs = some m) :
    x.markers ops hs sink = .go { takes := takeOne ops } [inTurn x.s x.i x.n (markerOut (!sink) m)] := by
  simp only [Site.markers, h, hj, if_true]
  cases sink <;> rfl

theorem markers_clash_fault {ops : List Operand} {hs : List Token} {sink : Bool}
    (h : hs.all Token.isMarker = false ∨ joinMarkers hs = none) : x.markers ops hs sink = .fault (x.info ops 0x51) := by
  rcases h with h | h
  · simp [Site.markers, h]
  · simp only [Site.markers, h]
    split <;> rfl

/-! ## An access that returns a value -/

theorem follows_valueAccess {q : Ask} (h : c.Plain x) (hq : c.Asks x q) (hvals : c.vals = []) (hvalue : c.value = true)
    (hany : c.any = false) : c.Follows x (x.valueAccess q (c.acc x.v)) := by
  have hops : c.ops x.v.g = addrOps x.v.g := by simp [MemOp.ops, hvals]
  have hinfo : ∀ cause, c.info x cause = x.info (addrOps x.v.g) cause := fun cause => by
    simp only [MemOp.info, h.sees, hops]
    rfl
  constructor
  case attempts =>
    intro hr
    obtain ⟨as, -, hm, -, hd, -⟩ := h.reads.ready_heads hr
    have hp : as.find? Token.isPoison = none := by
      simpa using no_poison_of_data hd
    have := probing_eq_attempt h hq hm hd
    rw [hops] at this
    simp only [Site.valueAccess, heads_eq_some hm, no_marker_of_data hd, hp, this, Bool.false_eq_true, if_false]
  case refuses =>
    intro hs _ ha
    rw [hany] at ha
    cases ha
  case joins =>
    intro hs m hf _ hall hj _
    rw [MemOp.Finds, hops] at hf
    have hne := any_of_all_marker (by rw [MemOp.Finds, hops]; exact hf) hall
    simp only [Site.valueAccess, heads_eq_some hf, hne, if_true, markers_join_out hall hj, hops, MemOp.returns, hvalue, Bool.true_or,
      Bool.not_false]
  case outOfRound =>
    intro hs m _ _ _ _ hrnd
    exact absurd hrnd (by simp [h.rnd])
  case closes =>
    intro hs m _ _ _ _ hrnd
    exact absurd hrnd (by simp [h.rnd])
  case clashes =>
    intro hs hf _ hmk hc
    rw [MemOp.Finds, hops] at hf
    simp only [Site.valueAccess, heads_eq_some hf, hmk, if_true, markers_clash_fault hc, hinfo]
  case passes =>
    intro hs q hf hmk _ hp ht
    rw [MemOp.Finds, hops] at hf
    have hmk := hmk.resolve_left (by simp [hany])
    have hdata : x.taking (addrOps x.v.g) =
        { takes := takeOne (addrOps x.v.g), data := if (x.v.a.map Token.isData).getD false then 1 else 0, counted := true } := by
      simp [Site.taking, View.dataOn, addrOps_contains_a]
    simp only [Site.valueAccess, heads_eq_some hf, hmk, hp, View.poisonTrap, ht, Bool.false_eq_true, if_false, hops, hdata]
    rfl
  case traps =>
    intro hs hf _ hmk hc
    rw [MemOp.Finds, hops] at hf
    have hmk := hmk.resolve_left (by simp [hany])
    have ⟨hp, ht⟩ : hs.any Token.isPoison = true ∧ x.v.trapen.getLsbD 7 = true := by simpa [hvalue] using hc
    obtain ⟨q, hq⟩ := Option.isSome_iff_exists.1 ((List.find?_isSome).2 (List.any_eq_true.1 hp))
    simp only [Site.valueAccess, heads_eq_some hf, hmk, hq, View.poisonTrap, ht, Bool.false_eq_true, if_false, if_true, hinfo]

/-! ## An access that returns an acknowledgment -/

/-- The value token of a shape that may consume c. -/
def givenValue (x : Site) (valued : Bool) : Token := if valued then x.v.c.getD .ord else .ord

theorem value_heads {valued : Bool} {ts : List Token} (h : (if valued then [Operand.c] else []).map x.v.head = ts.map some) :
    ts = if valued then [givenValue x valued] else [] := by
  cases valued with
  | false => simpa using h.symm
  | true =>
    obtain ⟨t, rfl⟩ : ∃ t, ts = [t] := List.length_eq_one_iff.1 (by simpa using (congrArg List.length h).symm)
    have hc : x.v.c = some t := by simpa [View.head] using h
    simp [givenValue, hc]

/-- The heads of an acknowledged access, at its address and at its value. -/
theorem ack_heads {valued : Bool} {hs : List Token}
    (h : (addrOps x.v.g ++ if valued then [Operand.c] else []).map x.v.head = hs.map some) :
    hs = addrHeads x hs ++ if valued then [givenValue x valued] else [] := by
  obtain ⟨as, ts, he, -, hts, htake⟩ := heads_split h
  rw [addrHeads, htake, he, value_heads hts]

theorem word_eq_valueOf {valued : Bool} (h : valued = true) (hc : x.v.c.isSome = true) :
    (givenValue x valued).word = valueOf x.v .c := by
  obtain ⟨t, ht⟩ := Option.isSome_iff_exists.1 hc
  simp only [givenValue, h, if_true, ht, Option.getD_some, valueOf, View.head]
  cases t <;> rfl

/-- The entry consumes c, or nothing beside the address. -/
theorem follows_ackAccess {q : Ask} {valued : Bool} {acc : Option W64 → Access} (h : c.Plain x) (hq : c.Asks x q)
    (hvals : c.vals = if valued then [.c] else []) (hvalue : c.value = false) (hany : c.any = false)
    (hacc : ∀ w, (valued = true → w = valueOf x.v .c) → acc w = c.acc x.v)
    (hret : c.returns x.v = false) : c.Follows x (x.ackAccess q valued acc) := by
  have hops : c.ops x.v.g = addrOps x.v.g ++ if valued then [.c] else [] := by simp [MemOp.ops, hvals]
  have hinfo : ∀ cause, c.info x cause = x.info (c.ops x.v.g) cause := fun cause => by
    simp only [MemOp.info, h.sees]
    rfl
  have hheads : ∀ {hs}, c.Finds x hs → x.v.heads (addrOps x.v.g ++ if valued then [.c] else []) = some hs := fun hf =>
    hops ▸ heads_eq_some hf
  constructor
  case attempts =>
    intro hr
    obtain ⟨as, ts, hm, hmt, hd, ht⟩ := h.reads.ready_heads hr
    have hf : (addrOps x.v.g ++ if valued then [Operand.c] else []).map x.v.head = (as ++ ts).map some := by
      rw [← hvals, List.map_append, hm, hmt, List.map_append]
    have htake : (as ++ ts).take (addrOps x.v.g).length = as := by
      have hl : (addrOps x.v.g).length = as.length := by simpa using congrArg List.length hm
      rw [hl, List.take_left]
    have hv := value_heads (hvals ▸ hmt)
    have hmk : (as ++ ts).any Token.isMarker = false := by
      rw [List.any_append, no_marker_of_data hd, Bool.false_or, List.any_eq_false]
      exact fun t ht' => by simp [((ht t ht').resolve_left (by simp [hany])).1]
    have hpt : ((givenValue x valued).isPoison && x.v.poisonTrap) = false := by
      cases valued with
      | false => rfl
      | true =>
        have := ((ht _ (by rw [hv]; exact List.mem_singleton_self _)).resolve_left (by simp [hany])).2
        rw [Bool.and_eq_false_imp]
        exact this
    have hword : acc (givenValue x valued).word = c.acc x.v := hacc _ fun hval => by
      refine word_eq_valueOf hval ?_
      subst hval
      have := congrArg List.head? hmt
      rw [hvals, hv] at this
      simp [View.head] at this
      simp [this]
    have := probing_eq_attempt h hq hm hd
    rw [hops] at this
    rw [← this, ← hword]
    simp only [Site.ackAccess, heads_eq_some hf, hmk, htake, no_poison_of_data hd, Bool.false_eq_true, if_false]
    simp only [givenValue] at hpt
    simp only [hpt, Bool.false_eq_true, if_false]
    rfl
  case refuses =>
    intro hs _ ha
    exact absurd ha (by simp [hany])
  case joins =>
    intro hs m hf _ hall hj _
    simp only [Site.ackAccess, hheads hf, any_of_all_marker hf hall, if_true, markers_join_out hall hj, hops, h.sees, hret, Bool.not_true]
  case outOfRound =>
    intro hs m _ _ _ _ hrnd
    exact absurd hrnd (by simp [h.rnd])
  case closes =>
    intro hs m _ _ _ _ hrnd
    exact absurd hrnd (by simp [h.rnd])
  case clashes =>
    intro hs hf _ hmk hc
    simp only [Site.ackAccess, hheads hf, hmk, if_true, markers_clash_fault hc, hinfo, hops]
  case passes =>
    intro hs q _ _ hv
    exact absurd hv (by simp [hvalue])
  case traps =>
    intro hs hf _ hmk hc
    have hmk := hmk.resolve_left (by simp [hany])
    have hsplit := ack_heads (by rw [← hops]; exact hf)
    simp only [Site.ackAccess, hheads hf, hmk, Bool.false_eq_true, if_false, hinfo, hops]
    cases ha : (addrHeads x hs).any Token.isPoison with
    | true => 
      rw [addrHeads] at ha
      rw [ha, if_pos rfl]
    | false =>
      have ⟨hp, htr⟩ : hs.any Token.isPoison = true ∧ x.v.trapen.getLsbD 7 = true := by simpa [hvalue, hany, ha] using hc
      rw [hsplit, List.any_append, ha, Bool.false_or] at hp
      have hpt : ((givenValue x valued).isPoison && x.v.poisonTrap) = true := by
        cases valued with
        | false => simp at hp
        | true => simpa [View.poisonTrap, htr] using hp
      simp only [addrHeads] at ha
      simp only [givenValue] at hpt
      simp only [ha, hpt, Bool.false_eq_true, if_false, if_true]

/-! ## ST.push -/

/-- The token at c is appended as it is (R279): only the address may trap or be refused. -/
theorem follows_rulePush (h : c.Plain x) (hq : c.Asks x (x.ask 1 1 1)) (hvals : c.vals = [.c]) (hvalue : c.value = false)
    (hany : c.any = true) (hacc : c.acc x.v = .push (x.v.c.getD .ord)) : c.Follows x (rulePush x) := by
  have hops : c.ops x.v.g = addrOps x.v.g ++ [.c] := by simp [MemOp.ops, hvals]
  have hinfo : ∀ cause, c.info x cause = x.info (c.ops x.v.g) cause := fun cause => by
    simp only [MemOp.info, h.sees]
    rfl
  have hheads : ∀ {hs}, c.Finds x hs → x.v.heads (addrOps x.v.g) = some (addrHeads x hs) ∧ ∃ t, x.v.c = some t := fun hf => by
    rw [MemOp.Finds, hops] at hf
    obtain ⟨as, ts, rfl, hm, hts, htake⟩ := heads_split hf
    rw [addrHeads, htake]
    refine ⟨heads_eq_some hm, ?_⟩
    obtain ⟨t, rfl⟩ : ∃ t, ts = [t] := List.length_eq_one_iff.1 (by simpa using (congrArg List.length hts).symm)
    exact ⟨t, by simpa [View.head] using hts⟩
  constructor
  case attempts =>
    intro hr
    obtain ⟨as, ts, hm, hmt, hd, -⟩ := h.reads.ready_heads hr
    obtain ⟨t, ht⟩ : ∃ t, x.v.c = some t := (hheads (hs := as ++ ts) (by
      rw [MemOp.Finds, hops, ← hvals, List.map_append, hm, hmt, List.map_append])).2
    have := probing_eq_attempt h hq hm hd
    rw [hops, hacc, ht] at this
    rw [← this]
    simp only [rulePush, heads_eq_some hm, ht, no_marker_of_data hd, no_poison_of_data hd, Bool.false_eq_true, if_false]
    rfl
  case refuses =>
    intro hs hf _ hmk
    obtain ⟨hh, t, ht⟩ := hheads hf
    simp only [rulePush, hh, ht, hmk, if_true, hinfo, hops]
  case joins =>
    intro hs m _ ha
    exact absurd ha (by simp [hany])
  case outOfRound =>
    intro hs m _ ha
    exact absurd ha (by simp [hany])
  case closes =>
    intro hs m _ ha
    exact absurd ha (by simp [hany])
  case clashes =>
    intro hs _ ha
    exact absurd ha (by simp [hany])
  case passes =>
    intro hs q _ _ hv
    exact absurd hv (by simp [hvalue])
  case traps =>
    intro hs hf hmk _ hc
    obtain ⟨hh, t, ht⟩ := hheads hf
    have hp : (addrHeads x hs).any Token.isPoison = true := by simpa [hvalue, hany] using hc
    simp only [rulePush, hh, ht, hmk, hp, Bool.false_eq_true, if_false, if_true, hinfo, hops]

/-! ## Atomics -/

section Atomic
variable {make : GArgs → Instr} {op : AtomOp} {vals : List Operand} {always : Bool}

/-- The word as an atomic takes it: only its type may differ (R287). -/
theorem atomOp_sees (x : Site) : (atomOp make op vals always).sees x = { x.v with g := { x.v.g with ty := x.atomicTy op } } := by
  simp only [MemOp.sees, atomOp, Site.atomicTy]
  congr 1
  generalize (ite (op = .rd) (x.n.outs.any fun d => (d.map x.pl.wide).getD false) x.n.c.wide) = wide
  split <;> rfl

theorem atomOp_reads (x : Site) : (atomOp make op vals always).Reads x := by
  constructor <;> rw [atomOp_sees] <;> rfl

/-- A record names the operands that an atomic takes, b among them where it is an offset. -/
theorem atomOp_info (x : Site) (cause access : Nat) (va : W64) :
    (atomOp make op vals always).info x cause access va = x.info ((atomOp make op vals always).ops x.v.g) cause access va := by
  simp only [MemOp.info, memInfo, Site.info, atomOp_sees]
  congr 3
  funext o
  simp only [View.recorded]
  split
  · cases o <;> rfl
  · next ho =>
    have : (decide (o = .b) && x.v.g.imm) = false := by
      cases hi : x.v.g.imm with
      | false => simp
      | true =>
        refine Bool.and_eq_false_imp.2 fun hb => absurd ?_ ho
        simp [MemOp.ops, addrOps, hi, of_decide_eq_true hb]
    simp [this]

/-- Markers at an atomic that ends no round leave joined (R38, R41). -/
theorem roundMarkers_join_out {ops : List Operand} {hs : List Token} {sink rnd : Bool} {space : Nat} {m : Token}
    (h : hs.all Token.isMarker = true) (hj : joinMarkers hs = some m) (hr : rnd = false ∨ m.level < 4) :
    x.roundMarkers ops hs sink rnd space = .go { takes := takeOne ops } [inTurn x.s x.i x.n (markerOut (!sink) m)] := by
  have : ¬ (rnd = true ∧ 4 ≤ m.level) := fun ⟨h1, h2⟩ => hr.elim (by simp [h1]) (by omega)
  simp only [Site.roundMarkers, h, hj, if_true, ge_iff_le, this, if_false, markers_join_out h hj]

theorem roundMarkers_clash_fault {ops : List Operand} {hs : List Token} {sink rnd : Bool} {space : Nat}
    (h : hs.all Token.isMarker = false ∨ joinMarkers hs = none) :
    x.roundMarkers ops hs sink rnd space = .fault (x.info ops 0x51) := by
  have : (if hs.all Token.isMarker = true then joinMarkers hs else none) = none := by
    rcases h with h | h <;> simp [h]
  simp only [Site.roundMarkers, this]

/-- A marker that ends a round closes it where it carries the node's round, and faults otherwise (R40, R293). -/
theorem roundMarkers_closeRound {ops : List Operand} {hs : List Token} {sink : Bool} {m : Token} {space : Nat}
    (h : hs.all Token.isMarker = true) (hj : joinMarkers hs = some m) (hl : 4 ≤ m.level) :
    x.roundMarkers ops hs sink true space = x.closeRound ops m space (markerOut (!sink) m) := by
  simp only [Site.roundMarkers, h, hj, if_true, ge_iff_le, hl, and_self]
  cases sink <;> rfl

/-- Whether a value of an atomic is poison. -/
theorem any_poison_values {ws : List Operand} {ts : List Token} (h : ws.map x.v.head = ts.map some) :
    (ws.any fun o => (x.v.head o).any Token.isPoison) = ts.any Token.isPoison := by
  have := congrArg (List.any · fun t => t.any Token.isPoison) h
  simpa [List.any_map, Function.comp_def] using this

/-- The operands that an atomic takes beside its address (R287). -/
def atomVals (op : AtomOp) : List Operand := (if op = .cas then [.b] else []) ++ if op = .rd then [] else [.c]

theorem drop_eq_of_take {as ts : List Token} {n : Nat} (h : (as ++ ts).take n = as) : (as ++ ts).drop n = ts := by
  have := List.take_append_drop n (as ++ ts)
  rw [h] at this
  exact List.append_cancel_left this

/-- The access of an atomic: poison in b or c leaves it no value (R291). -/
theorem atomic_access (hvals : vals = atomVals op) {ts : List Token} (h : (atomOp make op vals always).vals.map x.v.head = ts.map some) :
    Access.atomic op (x.atomicTy op) ((x.v.b.map Token.val).getD 0#64)
        (if op = .rd then none else if ts.any Token.isPoison = true then none else x.v.c.map Token.val) (always || x.v.g.opt.getLsbD 0) =
      (atomOp make op vals always).acc ((atomOp make op vals always).sees x) := by
  have hdead := any_poison_values (x := x) (ws := vals) h
  have hc : op ≠ .rd → ∃ t, x.v.c = some t := fun ho => by
    have : x.v.head .c ∈ ts.map some := h ▸ List.mem_map_of_mem (by simp [atomOp, hvals, atomVals, ho])
    obtain ⟨t, -, he⟩ := List.mem_map.1 this
    exact ⟨t, he.symm⟩
  rw [atomOp_sees]
  show _ = Access.atomic op _ (atomVal x.v .b)
    (if op = .rd ∨ (vals.any fun o => (x.v.head o).any Token.isPoison) = true then none else some (atomVal x.v .c)) _
  rw [hdead]
  congr 1
  by_cases ho : op = .rd
  · simp [ho]
  · obtain ⟨t, ht⟩ := hc ho
    simp [ho, ht, atomVal, View.head]

/-- The probe's question of an atomic. -/
def atomAsk (op : AtomOp) (x : Site) : Ask := x.ask (x.atomicTy op).bytes 2 0 (x.v.g.opt.getLsbD 1)

/-- What leaves is the request of one access, of the node's round where it is `.rnd` (R293). -/
theorem atomOp_leaves (loc : Nat) : (atomOp make op vals always).leaves x loc =
    { x.request (atomAsk op x) (x.info ((atomOp make op vals always).ops x.v.g) 0 3 (atomAsk op x).va) loc
        ((atomOp make op vals always).acc ((atomOp make op vals always).sees x)) with
      round := if x.v.g.opt.getLsbD 1 = true then x.n.rounds + 1 else 0 } := by
  have hrec : some ([Operand.a, .b, .c].map (((atomOp make op vals always).sees x).recorded ((atomOp make op vals always).ops x.v.g))) =
      some ([Operand.a, .b, .c].map (x.v.recorded ((atomOp make op vals always).ops x.v.g))) :=
    congrArg FaultInfo.opv (atomOp_info x 0 0 0#64)
  have hops : (atomOp make op vals always).ops ((atomOp make op vals always).sees x).g = (atomOp make op vals always).ops x.v.g := by
    rw [MemOp.ops, MemOp.ops, (atomOp_reads x).addrOps_eq]
  unfold MemOp.leaves MemOp.request
  rw [hops, hrec]
  simp only [atomOp_sees]
  rfl

/-- The requests of a firing, of a round. -/
def inRound (round : Nat) (f : MemFiring) : MemFiring :=
  match f with
  | .go e rs => .go e (rs.map fun r => { r with round })
  | f => f

/-- The probe of an atomic, and the request that carries its round (R293). -/
theorem atomic_probing :
    (x.probing (atomAsk op x) (x.info ((atomOp make op vals always).ops x.v.g) 0 3 (atomAsk op x).va) fun loc =>
      inRound (if x.v.g.opt.getLsbD 1 = true then x.n.rounds + 1 else 0)
        (x.issue (atomAsk op x) (x.info ((atomOp make op vals always).ops x.v.g) 0 3 (atomAsk op x).va)
          ((atomOp make op vals always).effect x.v.g) ((atomOp make op vals always).acc ((atomOp make op vals always).sees x)) loc)) =
      (atomOp make op vals always).attempt x := by
  have hmade : (atomOp make op vals always).made x = fun loc =>
      inRound (if x.v.g.opt.getLsbD 1 = true then x.n.rounds + 1 else 0)
        (x.issue (atomAsk op x) (x.info ((atomOp make op vals always).ops x.v.g) 0 3 (atomAsk op x).va)
          ((atomOp make op vals always).effect x.v.g) ((atomOp make op vals always).acc ((atomOp make op vals always).sees x)) loc) := by
    funext loc
    rw [MemOp.made, atomOp_leaves, Site.issue]
    by_cases h5 : x.v.g.space = 5
    · rw [if_pos h5, if_pos (show (atomAsk op x).space = 5 from h5)]
      rfl
    · rw [if_neg h5, if_neg (show ¬ (atomAsk op x).space = 5 from h5)]
      rfl
  rw [MemOp.attempt, atomOp_info, hmade]
  simp only [atomOp_sees]
  rfl

theorem follows_ruleAtomic (hvals : vals = atomVals op) : (atomOp make op vals always).Follows x (ruleAtomic op always x) := by
  have hops : (atomOp make op vals always).ops x.v.g = atomicOps x.v.g op := by
    simp [MemOp.ops, atomOp, hvals, atomVals, atomicOps]
  have hret : (atomOp make op vals always).returns ((atomOp make op vals always).sees x) = (always || x.v.g.opt.getLsbD 0) := by
    rw [atomOp_sees]
    rfl
  have hfault : ∀ cause, (atomOp make op vals always).info x cause = x.info (atomicOps x.v.g op) cause := fun cause => by
    rw [atomOp_info, hops]
  have hrec : some ([Operand.a, .b, .c].map (((atomOp make op vals always).sees x).recorded ((atomOp make op vals always).ops x.v.g))) =
      some ([Operand.a, .b, .c].map (x.v.recorded ((atomOp make op vals always).ops x.v.g))) :=
    congrArg FaultInfo.opv (atomOp_info x 0 0 0#64)
  have hheads : ∀ {hs}, (atomOp make op vals always).Finds x hs → x.v.heads (atomicOps x.v.g op) = some hs := fun hf =>
    heads_eq_some (by rw [← hops]; exact hf)
  constructor
  case attempts =>
    intro hr
    obtain ⟨as, ts, hm, hmt, hd, ht⟩ := (atomOp_reads x).ready_heads hr
    have hf : (atomOp make op vals always).Finds x (as ++ ts) := by
      rw [MemOp.Finds, MemOp.ops, List.map_append, hm, hmt, List.map_append]
    have htake : (as ++ ts).take (addrOps x.v.g).length = as := by
      have hl : (addrOps x.v.g).length = as.length := by simpa using congrArg List.length hm
      rw [hl, List.take_left]
    have hmk : (as ++ ts).any Token.isMarker = false := by
      rw [List.any_append, no_marker_of_data hd, Bool.false_or, List.any_eq_false]
      exact fun t ht' => by simp [((ht t ht').resolve_left (by simp [atomOp])).1]
    have hpt : (ts.any Token.isPoison && x.v.poisonTrap) = false := by
      rw [Bool.and_eq_false_imp, List.any_eq_true]
      exact fun ⟨t, ht', hp⟩ => ((ht t ht').resolve_left (by simp [atomOp])).2 hp
    simp only [ruleAtomic, hheads hf, hmk, htake, drop_eq_of_take htake, no_poison_of_data hd, hpt, Bool.false_eq_true, if_false]
    rw [← hops, taking_eq_effect hm hd, atomic_access hvals hmt]
    exact atomic_probing
  case refuses =>
    intro hs _ ha
    exact absurd ha (by simp [atomOp])
  case joins =>
    intro hs m hf _ hall hj hr
    simp only [ruleAtomic, hheads hf, any_of_all_marker hf hall, if_true, hops, hret]
    exact (roundMarkers_join_out hall hj hr).trans (by rw [Bool.not_not])
  case outOfRound =>
    intro hs m hf _ hall hj hr hl hm
    have hr : x.v.g.opt.getLsbD 1 = true := hr
    simp only [ruleAtomic, hheads hf, any_of_all_marker hf hall, if_true, hfault, hr]
    rw [roundMarkers_closeRound hall hj hl, Site.closeRound, if_pos hm]
  case closes =>
    intro hs m hf _ hall hj hr hl hm
    have hr : x.v.g.opt.getLsbD 1 = true := hr
    refine ⟨rfl, ?_⟩
    simp only [ruleAtomic, hheads hf, any_of_all_marker hf hall, if_true, hops, hret, hr]
    rw [roundMarkers_closeRound hall hj hl, Site.closeRound, if_neg (not_not.2 hm), Bool.not_not, ← hops, hrec]
    rfl
  case clashes =>
    intro hs hf _ hmk hc
    simp only [ruleAtomic, hheads hf, hmk, if_true, hfault]
    exact roundMarkers_clash_fault hc
  case passes =>
    intro hs q _ _ hv
    exact absurd hv (by simp [atomOp])
  case traps =>
    intro hs hf _ hmk hc
    have hmk := hmk.resolve_left (by simp [atomOp])
    obtain ⟨as, ts, rfl, hm, hts, htake⟩ := heads_split hf
    have hc : as.any Token.isPoison = true ∨ (as ++ ts).any Token.isPoison = true ∧ x.v.trapen.getLsbD 7 = true := by
      simpa [atomOp, addrHeads, htake] using hc
    have hdrop := drop_eq_of_take htake
    simp only [ruleAtomic, hheads hf, hmk, Bool.false_eq_true, if_false, htake, hdrop, hfault]
    cases ha : as.any Token.isPoison with
    | true => rw [if_pos rfl]
    | false =>
      have ⟨hp, htr⟩ := hc.resolve_left (by simp [ha])
      rw [List.any_append, ha, Bool.false_or] at hp
      simp only [hp, View.poisonTrap, htr, Bool.false_eq_true, if_false, Bool.and_self, if_true]

end Atomic

end Access

end Sys2Proof.Claims
end

