-- ==== Sys2Proof/Proofs/MemoryNodes.lean ====
section
/-! The instructions of one access (R273 to R292, R300, R308): each fires by a rule of the three shapes, so it issues its access,
faults at its probe, and treats markers and poison as its entry of the table says. -/

namespace Sys2Proof.Claims

open Sys2Proof.Machine

/-! ## The three outcomes of a probe -/

section Probing
variable {x : Site} {q : Ask} {info : FaultInfo} {f : Nat → MemFiring} (hq : q.cluster = some x.n.cluster)
include hq

theorem ask_in_cluster : { q with cluster := some x.n.cluster } = q := by rw [← hq]

theorem probing_ok {loc : Nat} (h : x.s.probe x.pl x.n.near q = .ok loc) : x.probing q info f = f loc := by
  simp only [Site.probing, ask_in_cluster hq, h]

theorem probing_fault {cause : Nat} (h : x.s.probe x.pl x.n.near q = .fault cause) :
    x.probing q info f = .fault { info with cause, md := probeDie q.space x.n.near } := by
  simp only [Site.probing, ask_in_cluster hq, h]

theorem probing_miss (h : x.s.probe x.pl x.n.near q = .miss) :
    x.probing q info f = .walk (missWalk x.p x.pl (.node x.i) x.n.near q info x.s.cycle) := by
  simp only [Site.probing, ask_in_cluster hq, h]

end Probing

/-! ## An instruction that fires by its rule -/

/-- Where a node stands when its rule runs. -/
def nodeSite (s : State) (p : PlaneId) (k : Nat) (pl : Plane) (n : Node) (g : GArgs) : Site :=
  ⟨s, p, k, pl, n, nodeView s pl k n g⟩

/-- An entry's instruction fires by a rule that follows the entry, and its access ends no round. -/
def MemOp.Runs (c : MemOp) (g : GArgs) : Prop :=
  (∀ v m es, c.acc v ≠ .close m es) ∧ ∃ rule : Site → MemFiring,
    (∀ s, exec (c.make g) s = fireMemAs s g (c.make g) c.dep rule) ∧
      ∀ x : Site, x.v.g = g → c.Reads x ∧ c.Follows x (rule x)

theorem commitMem_go {t : State} {p : PlaneId} {k : Nat} {pl : Plane} {n : Node} {dep : Bool} {e : Effect} {r : Request}
    (h : ∀ m es, r.acc ≠ .close m es) : commitMem t p k pl n dep (.go e [r]) = sends t p k pl n dep e [r] := by
  simp only [commitMem, sends, List.any_cons, List.any_nil, Bool.or_false]
  split <;> rfl

section Runs
variable {c : MemOp} {g : GArgs} {s : State} {p : PlaneId} {k : Nat} {pl : Plane} {n : Node}

/-- In its turn an instruction has the outcome of its rule at its site. -/
theorem MemOp.Runs.outcome (h : c.Runs g) (ht : MemTurn s p k pl n g (c.make g)) :
    c.Reads (nodeSite s p k pl n g) ∧ ∃ f, c.Follows (nodeSite s p k pl n g) f ∧
      (f ≠ .wait → exec (c.make g) s = .next (commitMem (s.admittedMem p n (c.make g)) p k pl n c.dep f)) := by
  obtain ⟨-, rule, he, hr⟩ := h
  obtain ⟨hreads, hf⟩ := hr (nodeSite s p k pl n g) rfl
  exact ⟨hreads, _, hf, fun hw => (he s).trans (fireMemAs_turn ht rfl hw)⟩

/-- The request of an access that a peer answers, as its firing leaves it (R314). -/
def MemOp.toPeer (c : MemOp) (x : Site) (loc : Nat) : Request :=
  { c.leaves x loc with takes := takeOne (c.ops x.v.g), data := 1, counted := true }

theorem made_here {x : Site} {loc : Nat} (h : x.v.g.space ≠ 5) : c.made x loc = .go (c.effect x.v.g) [c.leaves x loc] :=
  if_neg h

theorem made_peer {x : Site} {loc : Nat} (hx : c.Reads x) (h : x.v.g.space = 5) (hr : c.rnd x.v.g = false) :
    c.made x loc = .peer (c.effect x.v.g) (c.toPeer x loc) := by
  have h0 : (c.leaves x loc).round = 0 := by
    simp [MemOp.leaves, MemOp.request, hx.rnd, hr]
  rw [MemOp.made, if_pos h, MemOp.toPeer, ← h0]

/-- An access whose probe passes (R273, R314). -/
theorem MemOp.Runs.accesses (h : ∀ g, c.form g = true → c.Runs g) : c.accesses := by
  intro g s p k pl n loc v t hform ht hr hp
  obtain ⟨hreads, f, hf, hx⟩ := (h g hform).outcome ht
  have ha : f = c.made (nodeSite s p k pl n g) loc := (hf.attempts hr).trans (probing_ok rfl hp)
  refine ⟨fun h5 => ?_, fun h5 hrnd => ?_⟩
  · rw [ha, made_here h5] at hx
    rw [hx nofun, commitMem_go ((h g hform).1 _)]
    rfl
  · rw [ha, made_peer hreads h5 hrnd] at hx
    rw [hx nofun]
    rfl

/-- The firings of a node that await their peers leave its place, and what the governor has charged. -/
theorem admitMem_ahead {t : State} {i : Instr} : admitMem t p (pl.ahead k n) i = admitMem t p n i := by
  unfold Plane.ahead
  generalize pl.pending (.node k) = rs
  induction rs generalizing n with
  | nil => rfl
  | cons r rs ih => exact ih

/-- A firing behind others that await their peers, itself a peer's, takes place on the node as they leave it (R314). -/
theorem fireMemAs_behind {i : Instr} {dep : Bool} {rule : Site → MemFiring} {e : Effect} {r : Request} (h : MemStep s p k pl n g i)
    (hr : rule (nodeSite s p k pl (pl.ahead k n) g) = .peer e r) :
    fireMemAs s g i dep rule = .next (commitMem (s.admittedMem p (pl.ahead k n) i) p k pl (pl.ahead k n) dep (.peer e r)) := by
  rw [nodeSite] at hr
  simp [fireMemAs, h.at_cursor, h.may, h.walks, h.ready, hr, MemFiring.behind, granted_goes h.grant, admitMem_ahead, h.admitted,
    State.admittedMem]

theorem MemOp.Runs.pipelines (h : ∀ g, c.form g = true → c.Runs g) : c.pipelines := by
  intro g s p k pl n loc n' v hform ht hr hp h5 hrnd
  obtain ⟨-, rule, he, hrule⟩ := h g hform
  obtain ⟨hreads, hf⟩ := hrule (nodeSite s p k pl n' g) rfl
  have ha := (hf.attempts hr).trans ((probing_ok rfl hp).trans (made_peer hreads h5 hrnd))
  rw [he, fireMemAs_behind ht ha]
  rfl

/-- A fault or a walk at the probe: nothing leaves an operand (R308, R309). -/
theorem MemOp.Runs.probes (h : ∀ g, c.form g = true → c.Runs g) : c.probes := by
  intro g s p k pl n v t hform ht hr
  obtain ⟨hreads, f, hf, hx⟩ := (h g hform).outcome ht
  have hspace : (c.ask (nodeSite s p k pl n g).n (c.sees (nodeSite s p k pl n g))).space = g.space := hreads.space
  refine ⟨fun cause hp => ?_, fun hp => ?_⟩
  · have ha := (hf.attempts hr).trans (probing_fault rfl hp)
    rw [hspace] at ha
    rw [hx (by rw [ha]; nofun), ha]
    rfl
  · have ha := (hf.attempts hr).trans (probing_miss rfl hp)
    rw [missWalk, hspace] at ha
    rw [hx (by rw [ha]; nofun), ha]
    rfl

theorem MemOp.Runs.marks (h : ∀ g, c.form g = true → c.Runs g) : c.marks := by
  intro g s p k pl n hs v t hform ht hheads
  obtain ⟨hreads, f, hf, hx⟩ := (h g hform).outcome ht
  have hfinds : c.Finds (nodeSite s p k pl n g) hs := hheads
  refine ⟨fun hany hmk => ?_, fun hany => ⟨fun m hall hj hr => ?_, fun m hall hj hr hl hm => ?_, fun m hall hj hr hl hm => ?_,
    fun hmk hc => ?_⟩⟩
  · have ha := hf.refuses hs hfinds hany hmk
    rw [hx (by rw [ha]; nofun), ha]
    rfl
  · have ha := hf.joins hs m hfinds hany hall hj hr
    rw [hx (by rw [ha]; nofun), ha]
    exact congrArg _ (commitMem_go fun _ _ => Access.noConfusion)
  · have ha := hf.outOfRound hs m hfinds hany hall hj hr hl hm
    rw [hx (by rw [ha]; nofun), ha]
    rfl
  · obtain ⟨hdep, ha⟩ := hf.closes hs m hfinds hany hall hj hr hl hm
    rw [hx (by rw [ha]; nofun), ha, hdep]
    rfl
  · have ha := hf.clashes hs hfinds hany hmk hc
    rw [hx (by rw [ha]; nofun), ha]
    rfl

theorem MemOp.Runs.poisons (h : ∀ g, c.form g = true → c.Runs g) : c.poisons := by
  intro g s p k pl n hs v t hform ht hheads hmka hmk
  obtain ⟨hreads, f, hf, hx⟩ := (h g hform).outcome ht
  have hfinds : c.Finds (nodeSite s p k pl n g) hs := hheads
  refine ⟨fun q hv hp htr => ?_, fun hc => ?_⟩
  · have ha := hf.passes hs q hfinds hmk hv hp htr
    rw [hx (by rw [ha]; nofun), ha]
    exact congrArg _ (commitMem_go fun _ _ => Access.noConfusion)
  · have ha := hf.traps hs hfinds hmka hmk hc
    rw [hx (by rw [ha]; nofun), ha]
    rfl

end Runs

/-! ## The table -/

section Shapes
variable {c : MemOp} {g : GArgs} {rule : Site → MemFiring} {q : Site → Ask}

/-- An instruction that reads its fields as they stand, and which no round counts. -/
theorem plain_of (hseen : c.seen = fun _ _ g => g) (hrnd : c.rnd = fun _ => false) (x : Site) : c.Plain x := by
  constructor
  · simp [MemOp.sees, hseen]
  · simp [hrnd]

/-- An instruction that returns a value. -/
theorem runs_value (q : Site → Ask) (hr : ∀ x : Site, x.v.g = g → rule x = x.valueAccess (q x) (c.acc x.v))
    (hx : ∀ s, exec (c.make g) s = fireMemAs s g (c.make g) c.dep rule := by intros; rfl)
    (hq : ∀ x, c.Asks x (q x) := by exact fun _ => ⟨rfl, rfl⟩)
    (hacc : ∀ v m es, c.acc v ≠ .close m es := by exact fun _ _ _ => nofun)
    (hp : ∀ x, c.Plain x := by exact plain_of rfl rfl)
    (hvals : c.vals = [] := by rfl) (hvalue : c.value = true := by rfl) (hany : c.any = false := by rfl) : c.Runs g :=
  ⟨hacc, rule, hx, fun x hg => ⟨(hp x).reads, hr x hg ▸ follows_valueAccess (hp x) (hq x) hvals hvalue hany⟩⟩

/-- An instruction that returns an acknowledgment. -/
theorem runs_ack (q : Site → Ask) (valued : Bool) (acc : GArgs → Option W64 → Access)
    (hr : ∀ x : Site, x.v.g = g → rule x = x.ackAccess (q x) valued (acc x.v.g))
    (hacc : ∀ v w, (valued = true → w = valueOf v .c) → acc v.g w = c.acc v)
    (hx : ∀ s, exec (c.make g) s = fireMemAs s g (c.make g) c.dep rule := by intros; rfl)
    (hq : ∀ x, c.Asks x (q x) := by exact fun _ => ⟨rfl, rfl⟩)
    (hclose : ∀ v m es, c.acc v ≠ .close m es := by exact fun _ _ _ => nofun)
    (hp : ∀ x, c.Plain x := by exact plain_of rfl rfl)
    (hvals : c.vals = (if valued then [.c] else []) := by rfl) (hvalue : c.value = false := by rfl)
    (hany : c.any = false := by rfl) (hret : ∀ v, c.returns v = false := by intros; rfl) : c.Runs g :=
  ⟨hclose, rule, hx, fun x hg => ⟨(hp x).reads,
    hr x hg ▸ follows_ackAccess (hp x) (hq x) hvals hvalue hany (hacc x.v) (hret x.v)⟩⟩

/-- ST.push (R279). -/
theorem runs_push (hr : ∀ x : Site, x.v.g = g → rule x = rulePush x)
    (hx : ∀ s, exec (c.make g) s = fireMemAs s g (c.make g) c.dep rule := by intros; rfl)
    (hq : ∀ x, c.Asks x (x.ask 1 1 1) := by exact fun _ => ⟨rfl, rfl⟩)
    (hacc : ∀ v, c.acc v = .push (v.c.getD .ord) := by exact fun _ => rfl)
    (hp : ∀ x, c.Plain x := by exact plain_of rfl rfl)
    (hvals : c.vals = [.c] := by rfl) (hvalue : c.value = false := by rfl) (hany : c.any = true := by rfl) : c.Runs g :=
  ⟨fun v _ _ => by rw [hacc]; nofun, rule, hx, fun x hg => ⟨(hp x).reads,
    hr x hg ▸ follows_rulePush (hp x) (hq x) hvals hvalue hany (hacc x.v)⟩⟩

/-- An atomic (R287). -/
theorem runs_atomic {make : GArgs → Instr} {op : AtomOp} {vals : List Operand} {always : Bool}
    (hx : ∀ s, exec (make g) s = fireMemAs s g (make g) false (ruleAtomic op always) := by intros; rfl)
    (hvals : vals = atomVals op := by rfl) : (atomOp make op vals always).Runs g :=
  ⟨fun _ _ _ => nofun, ruleAtomic op always, hx, fun x _ => ⟨atomOp_reads x, follows_ruleAtomic hvals⟩⟩

end Shapes

/-- Every instruction of the table fires by a rule that follows its entry. -/
theorem memOps_run : ∀ c ∈ memOps, ∀ g, c.form g = true → c.Runs g := by
  simp only [memOps, List.forall_mem_cons, List.not_mem_nil, false_imp_iff, implies_true, and_true]
  refine ⟨fun g hg => ?ld, fun g hg => ?pop, fun g hg => ?st, fun g hg => ?push, fun g _ => ?ldfe, fun g _ => ?stfe, fun g _ => ?feclr,
    fun g _ => ?feset, fun g _ => ?fetest, fun g _ => ?ldv, fun _ _ => runs_atomic, fun _ _ => runs_atomic, fun _ _ => runs_atomic,
    fun _ _ => runs_atomic, fun _ _ => runs_atomic, fun _ _ => runs_atomic, fun _ _ => runs_atomic, fun _ _ => runs_atomic,
    fun _ _ => runs_atomic, fun _ _ => runs_atomic, fun _ _ => runs_atomic, fun _ _ => runs_atomic⟩
  case ld =>
    have hg : g.mode ≠ 2#3 := of_decide_eq_true hg
    exact runs_value (rule := ruleLd) (fun x => x.ask (accessBytes x.v.g.opt) 0) fun x hx => if_neg (hx ▸ hg)
  case pop =>
    have hg : g.mode = 2#3 := of_decide_eq_true hg
    exact runs_value (rule := ruleLd) (fun x => x.ask 1 0 1) fun x hx => if_pos (hx ▸ hg)
  case st =>
    have hg : g.mode ≠ 2#3 := of_decide_eq_true hg
    exact runs_ack (rule := ruleSt) (fun x => x.ask (accessBytes x.v.g.opt) 1) true (fun g w => .store (accessBytes g.opt) w true)
      (fun x hx => if_neg (hx ▸ hg)) fun v w hw => by rw [hw rfl]
  case push =>
    have hg : g.mode = 2#3 := of_decide_eq_true hg
    exact runs_push (rule := ruleSt) fun x hx => if_pos (hx ▸ hg)
  case ldfe => exact runs_value (rule := ruleLdfe) (fun x => x.ask (accessBytes x.v.g.opt) 0) fun _ _ => rfl
  case stfe =>
    exact runs_ack (rule := ruleStfe) (fun x => x.ask (accessBytes x.v.g.opt) 1) true
      (fun g w => .stfe (accessBytes g.opt) w (g.mode = 1#3)) (fun _ _ => rfl) fun v w hw => by rw [hw rfl]
  case feclr =>
    exact runs_ack (rule := ruleMarkGranule .feclr) (fun x => x.ask 1 1) false (fun _ _ => .feclr) (fun _ _ => rfl) fun _ _ _ => rfl
  case feset =>
    exact runs_ack (rule := ruleMarkGranule .feset) (fun x => x.ask 1 1) false (fun _ _ => .feset) (fun _ _ => rfl) fun _ _ _ => rfl
  case fetest => exact runs_value (rule := ruleFetest) (fun x => x.ask 1 0) fun _ _ => rfl
  case ldv => exact runs_value (rule := ruleLdv) (fun x => x.ask x.v.g.ty.bytes 0) fun _ _ => rfl

/-- Settles O21: each instruction of the table issues its access, also behind firings that await their peers. -/
theorem memoryNodesAccess : Obligations.MemoryNodesAccess :=
  ⟨fun c hc => MemOp.Runs.accesses (memOps_run c hc), fun c hc => MemOp.Runs.pipelines (memOps_run c hc)⟩

/-- Settles O22: probes, markers and poison of each instruction of the table. -/
theorem memoryNodesFaultMarkPoison : Obligations.MemoryNodesFaultMarkPoison :=
  ⟨fun c hc => MemOp.Runs.probes (memOps_run c hc), fun c hc => MemOp.Runs.marks (memOps_run c hc),
    fun c hc => MemOp.Runs.poisons (memOps_run c hc)⟩

end Sys2Proof.Claims
end

