-- ==== Sys2Proof/Proofs/AddressNests.lean ====
section
/-! Address generators (R281 to R284): AGEN reads its descriptor, gives one element or marker of its nest at a time and ends,
and the order of the nest is lexicographic, with its markers (R283). -/

namespace Sys2Proof.Machine

/-! ## What a granted firing leaves of a plane's faults -/

/-- A plane with the faults and standing of another. -/
structure Plane.Stands (pl q : Plane) : Prop where
  faults  : q.faults = pl.faults
  st      : q.st = pl.st
  handler : q.handler = pl.handler
  abandon : q.abandon = pl.abandon

/-- The state's plane has the faults and standing of this one. -/
def State.Stands (s : State) (p : PlaneId) (pl : Plane) : Prop := ∃ q, s.plane? p = some q ∧ pl.Stands q

section Stands
variable {s t : State} {p : PlaneId} {pl : Plane}

theorem State.Stands.of_pads (h : s.Stands p pl) (hp : t.pads = s.pads) : t.Stands p pl := by
  obtain ⟨q, hq, hs⟩ := h
  exact ⟨q, by rw [State.plane?, hp]; exact hq, hs⟩

theorem State.Stands.modPlane (h : s.Stands p pl) {f : Plane → Plane} (hf : ∀ q : Plane, q.Stands (f q)) :
    (s.modPlane p f).Stands p pl := by
  obtain ⟨q, hq, hs⟩ := h
  refine ⟨f q, by simp [hq], ?_⟩
  obtain ⟨h1, h2, h3, h4⟩ := hf q
  exact ⟨h1.trans hs.faults, h2.trans hs.st, h3.trans hs.handler, h4.trans hs.abandon⟩

/-- The sequencer's decision changes the level, the wait and the count of grants of one plane. -/
theorem State.Stands.decide (h : s.Stands p pl) {d : Paddock} (hd : mapGet s.pads p.pad = some d) :
    (grantCycle.decide s p d).2.Stands p pl := by
  obtain ⟨q, hq, hs⟩ := h
  have hq : d.planes[p.plane]? = some q := by simpa [State.plane?, hd] using hq
  simp only [grantCycle.decide, State.Stands, State.plane?, mapGet_mapSet_same, Option.bind_some]
  split
  · next r _ =>
    by_cases hr : p.plane = r
    · subst hr
      obtain ⟨h1, h2, h3, h4⟩ := hs
      refine ⟨_, (modifyAt_get_same ..).trans (congrArg _ hq), ?_⟩
      exact ⟨h1, h2, h3, h4⟩
    · exact ⟨q, by rw [modifyAt_get_other _ _ hr, hq], hs⟩
  · exact ⟨q, hq, hs⟩

theorem State.Stands.grantCycle (h : s.Stands p pl) : (grantCycle s p).2.Stands p pl := by
  unfold Machine.grantCycle
  split
  · exact h
  · next d hd =>
    split
    · split
      · exact h
      · exact h.decide hd
    · exact h.decide hd

theorem tilePass_pads {x y : Nat} : (tilePass s p x y).2.2.pads = s.pads := by
  unfold tilePass
  simp only
  split
  · split <;> rfl
  · rfl

theorem admitTimes_pads {place : Place} {c : Cost} {times : Nat} : (admitTimes s p place c times).2.pads = s.pads := by
  unfold admitTimes
  split
  · simp only
    split <;> exact tilePass_pads
  · rfl

theorem State.Stands.admittedMem (h : s.Stands p pl) {n : Node} {i : Instr} : (s.admittedMem p n i).Stands p pl := by
  unfold State.admittedMem admitMem
  split
  · exact h.grantCycle
  · exact h.grantCycle.of_pads admitTimes_pads

theorem State.Stands.addRequests {rs : List Request} (h : s.Stands p pl) : (s.addRequests p rs).Stands p pl := by
  induction rs generalizing s with
  | nil => exact h
  | cons r rest ih =>
    refine ih (State.Stands.modPlane (s := s.takeId.2) (h.of_pads rfl) fun q => ?_)
    exact ⟨rfl, rfl, rfl, rfl⟩

theorem State.Stands.commitEffect (h : s.Stands p pl) {k : Nat} {n : Node} {e : Effect} :
    (commitEffect s p k n e).Stands p pl := by
  refine h.modPlane fun q => ?_
  constructor <;> simp

theorem State.Stands.setCharged (h : s.Stands p pl) {k : Nat} {on : Bool} : (s.setCharged p k on).Stands p pl :=
  h.modPlane fun _ => ⟨rfl, rfl, rfl, rfl⟩

/-- A firing that neither faults nor asks a peer leaves the plane's faults. -/
theorem State.Stands.commitMem (h : s.Stands p pl) {k : Nat} {x : Plane} {n : Node} {f : MemFiring}
    (hf : ∀ info, f ≠ .fault info) (hp : ∀ e r, f ≠ .peer e r) : (commitMem s p k x n false f).Stands p pl := by
  cases f with
  | wait => exact h
  | walk w => exact h.setCharged.of_pads rfl
  | fault info => exact absurd rfl (hf info)
  | peer e r => exact absurd rfl (hp e r)
  | go e rs =>
    have hgo : ((Machine.commitEffect s p k n e).addRequests p rs).Stands p pl := h.commitEffect.addRequests
    simp only [Machine.commitMem, Bool.false_eq_true, if_false]
    split
    · exact hgo.modPlane fun _ => ⟨rfl, rfl, rfl, rfl⟩
    · exact hgo

/-- A fault of a live plane that no failed context or abandoned task holds is one more. -/
theorem detectFault_grows {who : Option Asker} {info : FaultInfo} (h : s.Stands p pl) (hl : pl.st = .live) (hh : pl.handler = false)
    (ha : pl.abandon = false) : ∃ q, (s.detectFault p who info).plane? p = some q ∧ q.faults.length = pl.faults.length + 1 := by
  obtain ⟨q, hq, hf, hst, hhd, hab⟩ := h
  refine ⟨q.hold s.cycle (s.heldFault q who info false), ?_, ?_⟩
  · simp [State.detectFault, State.detectHeld, hq, hst, hl, hhd, hh, hab, ha]
  · simp [Plane.hold, hst, hl, hf]

end Stands

end Sys2Proof.Machine

namespace Sys2Proof.Claims

open Sys2Proof.Machine

/-! ## The order of a nest (R283) -/

section Order
variable {d : Nest} {mk : Bool}

/-- The markers that a line, or a page of lines, ends with. -/
def closers (mk : Bool) : Nat := if mk then 1 else 0

/-- The steps of a line: its elements and its marker. -/
def lineSteps (d : Nest) (mk : Bool) : Nat := d.n0 + closers mk

/-- The steps of a page: its lines and its marker. -/
def pageSteps (d : Nest) (mk : Bool) : Nat := d.n1 * lineSteps d mk + closers mk

theorem place_lt {i n r w : Nat} (hi : i < n) (hr : r < w) : i * w + r < n * w :=
  calc i * w + r < (i + 1) * w := by rw [Nat.succ_mul]; omega
    _ ≤ n * w := Nat.mul_le_mul_right w hi

theorem place_div {i r w : Nat} (hr : r < w) : (i * w + r) / w = i := by
  rw [Nat.mul_comm, Nat.mul_add_div (by omega), Nat.div_eq_of_lt hr, Nat.add_zero]

/-- What a nest does at step r of page i2. -/
theorem step_within {i2 r : Nat} (hi : i2 < d.n2) (hr : r < pageSteps d mk) : d.step mk (i2 * pageSteps d mk + r) =
    if r < d.n1 * lineSteps d mk then
      if r % lineSteps d mk < d.n0 then .element (r % lineSteps d mk) (r / lineSteps d mk) i2 else .mark 1
    else .mark 2 := by
  have hj : i2 * pageSteps d mk + r < d.n2 * pageSteps d mk := place_lt hi hr
  have hm := Nat.mul_add_mod_of_lt (a := i2) hr
  have hd := place_div (i := i2) hr
  rw [pageSteps, lineSteps, closers] at *
  simp only [Nest.step, hj, hm, hd, if_true]

/-- What a nest does at step i0 of line i1 of page i2. -/
theorem step_line {i0 i1 i2 : Nat} (h0 : i0 < lineSteps d mk) (h1 : i1 < d.n1) (h2 : i2 < d.n2) :
    d.step mk (i2 * pageSteps d mk + (i1 * lineSteps d mk + i0)) = if i0 < d.n0 then .element i0 i1 i2 else .mark 1 := by
  have hr : i1 * lineSteps d mk + i0 < d.n1 * lineSteps d mk := place_lt h1 h0
  rw [step_within h2 (hr.trans_le (Nat.le_add_right _ _)), if_pos hr, Nat.mul_add_mod_of_lt h0, place_div h0]

theorem step_of_nestAt {j : Nat} {e : NestStep} (h : NestAt d mk j e) : d.step mk j = e := by
  cases h with
  | @element i0 i1 i2 h0 h1 h2 =>
    have := step_line (mk := mk) (h0.trans_le (Nat.le_add_right _ (closers mk))) h1 h2
    rwa [if_pos h0, ← Nat.add_assoc] at this
  | @line i1 i2 hmk h1 h2 =>
    subst hmk
    have := step_line (d := d) (mk := true) (Nat.lt_succ_self d.n0) h1 h2
    rwa [if_neg (Nat.lt_irrefl _), ← Nat.add_assoc] at this
  | @page i2 hmk h2 =>
    subst hmk
    have := step_within (d := d) (mk := true) h2 (Nat.lt_succ_self _)
    rwa [if_neg (Nat.lt_irrefl _)] at this
  | volume hmk =>
    subst hmk
    simp [Nest.step]

/-- Past the elements and within the steps stands the marker, under .mk alone. -/
theorem at_closer {n r : Nat} (hl : n ≤ r) (hr : r < n + closers mk) : mk = true ∧ r = n := by
  cases mk <;> simp [closers] at hr ⊢ <;> omega

theorem nestAt_step {j : Nat} (h : d.step mk j ≠ .stop) : NestAt d mk j (d.step mk j) := by
  by_cases hj : j < d.n2 * pageSteps d mk
  · have hp : 0 < pageSteps d mk := Nat.pos_of_ne_zero fun h0 => by simp [h0] at hj
    have h2 : j / pageSteps d mk < d.n2 := Nat.div_lt_of_lt_mul (by rwa [Nat.mul_comm])
    have hr := Nat.mod_lt j hp
    rw [← Nat.div_add_mod' j (pageSteps d mk), step_within h2 hr]
    generalize j / pageSteps d mk = i2 at h2
    generalize j % pageSteps d mk = r at hr
    split
    · next hl =>
      have hw : 0 < lineSteps d mk := Nat.pos_of_ne_zero fun h0 => by simp [h0] at hl
      have h1 : r / lineSteps d mk < d.n1 := Nat.div_lt_of_lt_mul (by rwa [Nat.mul_comm])
      have h0 := Nat.mod_lt r hw
      rw [show i2 * pageSteps d mk + r = i2 * pageSteps d mk + r / lineSteps d mk * lineSteps d mk + r % lineSteps d mk by
        rw [Nat.add_assoc, Nat.div_add_mod']]
      split
      · next he => exact .element he h1 h2
      · next he =>
        obtain ⟨rfl, hlast⟩ := at_closer (n := d.n0) (Nat.not_lt.1 he) h0
        rw [hlast]
        exact .line rfl h1 h2
    · next hl =>
      obtain ⟨rfl, rfl⟩ := at_closer (Nat.not_lt.1 hl) hr
      exact .page rfl h2
  · have hlast : mk = true ∧ j = d.n2 * pageSteps d mk := by
      by_contra hne
      refine h ?_
      rw [pageSteps, lineSteps, closers] at hj hne
      simp only [Nest.step, hj, hne, if_false]
    obtain ⟨rfl, rfl⟩ := hlast
    have hv : NestAt d true (d.n2 * pageSteps d true) (.mark 3) := .volume rfl
    rwa [step_of_nestAt hv]

/-- A nest that is not over is where the order puts it. -/
theorem nest_order : nestOrder := fun _ _ _ _ => ⟨step_of_nestAt, nestAt_step⟩

end Order

/-! ## The rule of AGEN -/

section Rule
variable {x : Site} {hs : List Token} {raw : List W64} {j : Nat}

/-- No closing marker stands at the data of a sink. -/
def SinkRuns (x : Site) : Prop := 4 ≤ x.v.g.mode.toNat → ∀ m, x.v.c = some m → m.isMarker = false

/-- What AGEN does at a step of its nest. -/
def nestFiring (x : Site) (raw : List W64) (j : Nat) : NestStep → MemFiring
  | .element i0 i1 i2 => x.nestElement (addrOps x.v.g) (nestOf raw) raw j i0 i1 i2
  | .mark l =>
    .go { st := some (.agen raw (j + 1)), round := if l = 3 then some (x.n.round + 1#8) else none }
      [x.pass (outBoth (if l = 3 then marker 3 x.n.round else x.v.made l))]
  | .stop =>
    .go { x.taking (addrOps x.v.g) with st := some .plain } [x.pass (if decide (x.v.g.mode.toNat ≥ 4) then outAck else [])]

/-- A firing in progress takes the next step of its nest. -/
theorem ruleAgen_running {e : NestStep} (hc : SinkRuns x) (hh : headsAre x.v (addrOps x.v.g) hs) (hst : x.n.st = .agen raw j)
    (he : (nestOf raw).step (x.v.g.opt.getLsbD 0) j = e) : ruleAgen x = nestFiring x raw j e := by
  unfold ruleAgen
  dsimp only
  split
  · next l r st hm =>
    split at hm
    · next h4 => exact absurd (hc (of_decide_eq_true h4) _ hm) (by simp [Token.isMarker])
    · cases hm
  · simp only [heads_eq_some hh, hst, he]
    cases e <;> rfl

/-- The descriptor's read, and the firing that begins with it. -/
def beginNest (x : Site) (loc : Nat) : MemFiring :=
  let info := nestFault x 1 (atomVal x.v .a) 0 0 0
  if x.pl.mustWait x.s.cycle { x.request { space := 0, va := atomVal x.v .a, size := 32, align := 16 } info loc (.beat 32) with
    id := x.s.nextId }
  then .wait
  else match descriptorAt x.pl.sram loc with
    | none => .fault { info with cause := 0x31 }
    | some raw => .go { st := some (.agen raw (elemAt x)) } []

/-- What AGEN does on its address operands between firings. -/
def nestStart (x : Site) (hs : List Token) : MemFiring :=
  if hs.any Token.isMarker then
    match x.markers (addrOps x.v.g) hs (decide (x.v.g.mode.toNat ≥ 4)) with
    | .go e rs => .go { e with round := (joinMarkers hs).bind fun m => if m.level ≥ 4 then some (m.round + 1#8) else none } rs
    | f => f
  else if hs.any Token.isPoison then .fault (x.info (addrOps x.v.g) 0x30)
  else x.probing { space := 0, va := atomVal x.v .a, size := 32, align := 16 } (nestFault x 1 (atomVal x.v .a) 0 0 0) (beginNest x)

theorem ruleAgen_idle (hc : SinkRuns x) (hh : headsAre x.v (addrOps x.v.g) hs) (hst : ∀ j w, x.n.st ≠ .agen w j) :
    ruleAgen x = nestStart x hs := by
  unfold ruleAgen
  dsimp only
  split
  · next l r st hm =>
    split at hm
    · next h4 => exact absurd (hc (of_decide_eq_true h4) _ hm) (by simp [Token.isMarker])
    · cases hm
  · simp only [heads_eq_some hh]
    split
    · next h => exact absurd h (hst _ _)
    · rfl

/-- The outcome takes place at once: it neither waits nor asks a peer. -/
def Settled (f : MemFiring) : Prop := f ≠ .wait ∧ ∀ e r, f ≠ .peer e r

theorem settled_go {e : Effect} {rs : List Request} : Settled (.go e rs) :=
  ⟨fun h => (by cases h), fun _ _ h => (by cases h)⟩
theorem settled_fault {info : FaultInfo} : Settled (.fault info) :=
  ⟨fun h => (by cases h), fun _ _ h => (by cases h)⟩
theorem settled_walk {w : Walk} : Settled (.walk w) :=
  ⟨fun h => (by cases h), fun _ _ h => (by cases h)⟩

/-- What follows a probe in tile space. -/
theorem probing_of_probed {q : Ask} {info : FaultInfo} {e : Effect} {acc : Access} {f : MemFiring} (h : Probed x q info e acc f)
    (h0 : q.space = 0) : x.probing q info (x.issue q info e acc) = f ∧ Settled f := by
  have hq : x.probing q info (x.issue q info e acc) = x.probing (asked x q) info (x.issue q info e acc) := rfl
  rw [hq]
  cases h with
  | leaves hp h5 => exact ⟨by rw [probing_ok rfl hp, Site.issue, if_neg h5], settled_go⟩
  | asks hp h5 => exact absurd (h0.symm.trans h5) (by decide)
  | refused hp => exact ⟨probing_fault rfl hp, settled_fault⟩
  | missed hp => exact ⟨probing_miss rfl hp, settled_walk⟩

/-- The address of an element (R282). -/
theorem nestBase_addr (x : Site) (d : Nest) (i0 i1 i2 : Nat) : d.addr (x.nestBase d) i0 i1 i2 = nestAddr x d i0 i1 i2 := by
  unfold Nest.addr Site.nestBase nestAddr
  dsimp only
  by_cases hr : x.v.g.opt.getLsbD 1 = true
  · rw [if_pos hr, if_pos hr]
    rfl
  · rw [if_neg hr, if_neg hr, BitVec.add_zero]
    rfl

theorem sinkRuns_of_source (h : x.v.g.mode.toNat < 4) : SinkRuns x := fun h4 => absurd h (Nat.not_lt.2 h4)

theorem sinkRuns_of_head {t : Token} (h : x.v.c = some t) (ht : t.isMarker = false) : SinkRuns x := fun _ m hm => by
  rw [h] at hm
  cases hm
  exact ht

/-- In each case of the table AGEN's rule has the stated outcome. -/
theorem ruleAgen_generates {i : Instr} {f : MemFiring} (h : Generates i x f) : ruleAgen x = f ∧ Settled f := by
  cases h with
  | reads hst ha hc hp hm hd =>
    obtain ⟨hs, hh, hdata⟩ := data_heads ha
    rw [ruleAgen_idle hc hh hst, nestStart, no_marker_of_data hdata, no_poison_of_data hdata]
    refine ⟨(probing_ok (q := asked x _) rfl hp).trans ?_, settled_go⟩
    simp only [beginNest, hm, hd]
    rfl
  | noDescriptor hst ha hc hp =>
    obtain ⟨hs, hh, hdata⟩ := data_heads ha
    rw [ruleAgen_idle hc hh hst, nestStart, no_marker_of_data hdata, no_poison_of_data hdata]
    exact ⟨probing_fault (q := asked x _) rfl hp, settled_fault⟩
  | address hst hh hn hmode =>
    have hc : SinkRuns x := sinkRuns_of_source (by simp [hmode])
    refine ⟨?_, settled_go⟩
    rw [ruleAgen_running hc hh hst (step_of_nestAt hn), nestFiring, Site.nestElement, ← nestBase_addr]
    simp only [hmode]
    rfl
  | load hst hh hn hmode hp =>
    have hc : SinkRuns x := sinkRuns_of_source (by simp [hmode])
    rw [ruleAgen_running hc hh hst (step_of_nestAt hn), nestFiring, Site.nestElement, nestBase_addr]
    simp only [hmode]
    exact probing_of_probed hp rfl
  | source hst hh hn hmode hp =>
    have hc : SinkRuns x := sinkRuns_of_source (by rcases hmode with ⟨h, -⟩ | ⟨h, -⟩ <;> simp [h])
    rw [ruleAgen_running hc hh hst (step_of_nestAt hn), nestFiring, Site.nestElement, nestBase_addr]
    rcases hmode with ⟨hmode, rfl⟩ | ⟨hmode, rfl⟩
    · simp only [hmode]
      exact probing_of_probed hp rfl
    · simp only [hmode]
      exact probing_of_probed hp rfl
  | sink hst hh hn hmode ht hm hp =>
    have hc : SinkRuns x := sinkRuns_of_head ht hm
    rw [ruleAgen_running hc hh hst (step_of_nestAt hn), nestFiring, Site.nestElement, nestBase_addr]
    rcases hmode with ⟨hmode, rfl⟩ | ⟨hmode, rfl⟩
    · simp only [hmode, ht]
      exact probing_of_probed hp rfl
    · simp only [hmode, ht]
      exact probing_of_probed hp rfl
  | marker hst hh hmode hn hl =>
    rw [ruleAgen_running (sinkRuns_of_source hmode) hh hst (step_of_nestAt hn), nestFiring]
    simp only [Nat.ne_of_lt hl, if_false]
    exact ⟨rfl, settled_go⟩
  | volume hst hh hmode hn =>
    rw [ruleAgen_running (sinkRuns_of_source hmode) hh hst (step_of_nestAt hn), nestFiring]
    exact ⟨rfl, settled_go⟩
  | ends hst hh hmode hs =>
    rw [ruleAgen_running (sinkRuns_of_source hmode) hh hst hs, nestFiring]
    simp only [ge_iff_le, Nat.not_le.2 hmode, decide_false]
    exact ⟨rfl, settled_go⟩
  | sinkEnds hst hh hmode hc hs =>
    rw [ruleAgen_running (fun _ => hc) hh hst hs, nestFiring]
    simp only [ge_iff_le, hmode, decide_true]
    exact ⟨rfl, settled_go⟩
  | joined hst hh hall hj hc =>
    rw [ruleAgen_idle hc hh hst, nestStart, any_marker_of_all (addrOps_contains_a _) hh hall, if_pos rfl, markers_join_out hall hj, hj,
      show (!decide (x.v.g.mode.toNat ≥ 4)) = decide (x.v.g.mode.toNat < 4) by simp [← decide_not]]
    exact ⟨rfl, settled_go⟩
  | clash hst hh hmk hcl hc =>
    rw [ruleAgen_idle hc hh hst, nestStart, if_pos hmk, markers_clash_fault hcl]
    exact ⟨rfl, settled_fault⟩
  | poison hst hh hmk hp hc =>
    rw [ruleAgen_idle hc hh hst, nestStart, hmk, hp]
    exact ⟨rfl, settled_fault⟩
  | sinkMarker hmode hm =>
    unfold ruleAgen
    simp only [ge_iff_le, hmode, decide_true, if_true, hm]
    exact ⟨rfl, settled_go⟩

end Rule

/-! ## A firing of AGEN -/

section Fires
variable {s t : State} {p : PlaneId} {k : Nat} {pl : Plane} {n : Node} {g : GArgs}

/-- A fault in an element leaves the firing to resume there (R284). -/
theorem fireAgen_eq (hf : fireMem s g (.agen g) ruleAgen = .next t) (hc : cursorNode s = some (p, k, pl, n)) : fireAgen s g =
    .next (if ((t.plane? p).map (·.faults.length)).getD 0 > pl.faults.length then t.modPlane p (·.modNode k resumeNest) else t) := by
  simp only [fireAgen, hf, hc, decide_eq_true_eq]

/-- AGEN in its turn has the outcome of its rule. -/
theorem agen_fires : agenFires := by
  intro s p k pl n g f t hg ht
  obtain ⟨hr, hw, hpeer⟩ := ruleAgen_generates hg
  have hfire := fireMem_turn ht hr hw
  have hstands : t.Stands p pl := State.Stands.admittedMem ⟨pl, ht.plane, rfl, rfl, rfl, rfl⟩
  refine ⟨fun hf => ?_, fun info hf hl hh ha => ?_⟩
  · obtain ⟨q, hq, hs⟩ := hstands.commitMem (x := pl) (k := k) (n := n) hf hpeer
    refine (fireAgen_eq hfire ht.at_cursor).trans ?_
    rw [if_neg]
    rw [hq, Option.map_some, Option.getD_some, hs.faults]
    exact Nat.lt_irrefl _
  · subst hf
    obtain ⟨q, hq, hs⟩ := detectFault_grows (who := some (.node k)) (info := info)
      (hstands.setCharged (k := k) (on := n.st.midway)) hl hh ha
    refine (fireAgen_eq hfire ht.at_cursor).trans ?_
    rw [if_pos]
    rw [commitMem, hq, Option.map_some, Option.getD_some, hs]
    exact Nat.lt_succ_self _

end Fires

/-- Settles O25: AGEN's firings, by its rule in each case of the table, and the order of a nest. -/
theorem addressNests : Obligations.AddressNests := ⟨agen_fires, nest_order⟩

end Sys2Proof.Claims
end

