-- ==== Sys2Proof/Proofs/HomesPerform.lean ====
section
/-! HOME_PERFORM in host memory (R301): the model looks for poisoned data in the lines of the request's `size` bytes, the
statement in those of the bytes that its access reads. Nothing in the statement ties the two, and they part at a request whose
size is not its access's, which the statement admits though the memory rules issue none such. -/

namespace Sys2Proof.Proofs

open Sys2Proof.Machine Sys2Proof.Claims

/-- A plain load of four bytes of host memory, in a request that names none. -/
def sizelessLoad : Request :=
  { id := 5, who := .node 0, acc := .load .i32 4 false, space := 4, addr := 16#64, loc := 16, size := 0, issued := 90 }

/-- The plane that holds it. -/
def sizelessPlane : Plane := { st := .live, reqs := [sizelessLoad] }

/-- It is about to perform; word 5 of the host memory, in its line, is poisoned data. -/
def sizelessState : State :=
  { State.reset with
    pads := [(0, { x0 := 0, y0 := 0, w := 2, h := 2, planes := [sizelessPlane] })], cursor := .event, cycle := 100
    arg := { plane := ⟨0, 0⟩, index := 5 }, host := { marks := [5] } }

/-- The replies that stand at the first request of plane 0 after a step. -/
def firstReplies : Result → Option (List (Nat × Token))
  | .next z => (z.plane? ⟨0, 0⟩).bind fun pl => pl.reqs.head?.map (·.replies)
  | _ => none

theorem sizeless_turn : HomeTurn sizelessState sizelessPlane sizelessLoad sizelessState :=
  ⟨by decide, rfl, rfl, ⟨rfl, rfl, rfl⟩, nofun, by decide, by decide, rfl, rfl⟩

/-- The line of the load reads as poison, as the statement has it. -/
theorem sizeless_reads_poison : hostReads sizelessState.host sizelessLoad.loc 4 .i32 (.poison 0x31#8) :=
  .inl ⟨by decide, ⟨5, List.mem_singleton_self 5, by decide, by decide⟩, rfl⟩

/-- The model answers the word as it stands. -/
theorem sizeless_answers_data : firstReplies (exec .homePerform sizelessState) = some [(0, .data 0#64), (1, .data 0#64)] := by
  decide

/-- The fault of the statement is in its clause on host memory, on a plain load that finds no copy of its line. -/
theorem not_homeHost : ¬ homeHost := fun h => by
  obtain ⟨-, -, huncached, -, -⟩ := h _ _ _ _ sizeless_turn rfl
  have hstep := congrArg firstReplies (huncached .i32 4 _ rfl (fun _ hc => by cases hc) (by rintro ⟨-, _, hl, -⟩; cases hl)
    sizeless_reads_poison)
  rw [sizeless_answers_data] at hstep
  exact absurd hstep (by decide)

/-- Refutes O40: a plain load of four bytes whose request names no bytes (`size` 0), in a line of host memory with poisoned data
in another word, is answered with data where the statement has poison. -/
theorem not_homesPerform : ¬ Obligations.HomesPerform := fun ⟨_, _, _, h⟩ => not_homeHost h

end Sys2Proof.Proofs
end
